-- ==== Sys2Proof/Word.lean ====
section
/-! DEFINITION. The word types of the LX9 and their plainest arithmetic (R6 to R9): bytes, 32-bit registers,
64-bit words, little-endian numbers in byte strings, and ceiling division. -/

namespace Sys2Proof

/-- One byte. -/
abbrev Byte := BitVec 8

/-- A register (R9: registers are 32 bits wide). -/
abbrev Word := BitVec 32

/-- A 64-bit word: host addresses, control-core registers, hash lanes. -/
abbrev Word64 := BitVec 64

/-- A byte string. -/
abbrev Bytes := List Byte

/-- The number a little-endian byte string spells (R9). -/
def leNat : Bytes → Nat
  | [] => 0
  | b :: bs => b.toNat + 256 * leNat bs

/-- The number a big-endian byte string spells (byte strings of the standards, R9). -/
def beNat (bs : Bytes) : Nat := bs.foldl (fun a b => a * 256 + b.toNat) 0

/-- The `n` little-endian bytes of `v` (R9). -/
def toLe : Nat → Nat → Bytes
  | 0, _ => []
  | n + 1, v => BitVec.ofNat 8 v :: toLe n (v / 256)

/-- The `n` big-endian bytes of `v`. -/
def toBe (n v : Nat) : Bytes := (toLe n v).reverse

/-- `len` bytes of `bs` from offset `off`; bytes beyond the end are absent. -/
def slice (bs : Bytes) (off len : Nat) : Bytes := (bs.drop off).take len

/-- The little-endian field of `len` bytes at offset `off`. -/
def fieldLe (bs : Bytes) (off len : Nat) : Nat := leNat (slice bs off len)

/-- `n` zero bytes. -/
def zeros (n : Nat) : Bytes := List.replicate n 0

/-- `bs` cut or padded with zero bytes to exactly `n` bytes. -/
def fit (n : Nat) (bs : Bytes) : Bytes := bs.take n ++ zeros (n - bs.length)

/-- Bits `[hi:lo]` of a number (R8). -/
def bitsOf (v hi lo : Nat) : Nat := (v / 2 ^ lo) % 2 ^ (hi + 1 - lo)

/-- Bit `n` of a number (R8). -/
def bitOf (v n : Nat) : Bool := v.testBit n

/-- A bit as a number. -/
def b2n (b : Bool) : Nat := if b then 1 else 0

/-- `a ÷ b` rounded up. -/
def ceilDiv (a b : Nat) : Nat := (a + b - 1) / b

/-- A count that saturates at `max` (R151, R229 and the other saturating counters). -/
def satAdd (max a b : Nat) : Nat := min max (a + b)

/-- The bytes of an ASCII string, used for the labels the standards and the manual give. -/
def ascii (s : String) : Bytes := s.toList.map fun c => BitVec.ofNat 8 c.toNat

/-- Is every byte zero? -/
def allZero (bs : Bytes) : Bool := bs.all (· == 0)

/-- The bit positions below `n` that are set in `v`, rising. -/
def bitList (v n : Nat) : List Nat := (List.range n).filter fun i => v.testBit i

/-- How many of the lowest `n` bits of `v` are set. -/
def popCount (v n : Nat) : Nat := (bitList v n).length

end Sys2Proof
end

