-- ==== Sys2Proof/Operand.lean ====
section
/-! DEFINITION. What the commands of the LX9 carry from outside: fetched entries and tables (R99 to R105), streamed
reads (R104), messages of a peer, measured values. -/

namespace Sys2Proof

/-- One 16-byte entry of a fragment table as the Sluice reads it (R102). -/
structure Frag where
  addr : Nat
  len : Nat
  flags : Nat
  deriving DecidableEq, Repr

/-- What arrives for one fetched SQ slot (R106): the 64 bytes or a read error of the slot itself (R119); the parameter
block, the first input table and the output tables, or a read error of one of them (check 6). -/
structure Arrival where
  slot : Bytes
  slotErr : Bool
  param : Bytes
  inTable : List Frag
  outTables : List (List Frag)
  readErr : Bool
  deriving DecidableEq, Repr

/-- One streamed read of a job's input: data bytes, a further input table, or an error of the read (R104, R106). -/
inductive StreamRead where
  | data (bytes : Bytes)
  | table (entries : List Frag)
  | busError
  deriving DecidableEq, Repr

/-- What the cycle of a microword met (R206, R251, R259, R318): nothing, an error of the memory it reads, an error of
the control store's RAM or ROM that holds it, or a BNU result that fails its check. -/
inductive EccEvent where
  | clean | corrected | uncorrectable | storeCorrected | storeUncorrectable | checkFail | romParity
  deriving DecidableEq, Repr

/-- What the cycle of a core instruction met (R336, R340): an error of scratch, a cache or the scalar registers, or of
the vector register file. -/
inductive CoreEvent where
  | clean | corrected | uncorrectable | vectorError
  deriving DecidableEq, Repr

/-- What an access of host software to a function reaches: BAR 0 with its registers, BAR 2 with its MSI-X table and PBA
(R75, R76), and its configuration space (R72). -/
inductive Bar where
  | regs | msix | config
  deriving DecidableEq, Repr

/-- An address in a memory BAR or in configuration space. -/
structure BarAddr where
  bar : Bar
  offset : Nat
  deriving DecidableEq, Repr

/-- An access of host software to a register (R11, R73): a write of a value, or a read. -/
inductive RegAccess where
  | write (value : Nat) | read
  deriving DecidableEq, Repr

/-- A change of a function's MSI-X state (R458). -/
inductive MsixChange where
  | enable (on : Bool) | funcMask (on : Bool) | vecMask (vector : Nat) (on : Bool)
  deriving DecidableEq, Repr

/-- What a quiesce or a block reset acts on. -/
inductive ResetTarget where
  | reach (n : Nat) | vf (n : Nat) | pt (n : Nat) | ht (n : Nat) | bnu (n : Nat) | cc (n : Nat) | cu (n : Nat)
  | basin (n : Nat)
  deriving DecidableEq, Repr

/-- A spilled job as it arrives from a peer (R148): the epoch it names, the reach's owner digest, the entry, the
parameter block, the input and the KEY_ID of its key slot (R383). `abort` marks the message that aborts the job its SEQ
names (R113, log entry 88). -/
structure SpillMsg where
  abort : Bool
  src : Nat
  seq : Nat
  reach : Nat
  epoch : Nat
  ownerDigest : Bytes
  slot : Bytes
  param : Bytes
  input : Bytes
  keyId : Bytes
  deriving DecidableEq, Repr

/-- A symbol of a stored line that no longer reads as it was written: its burst, its place there, the bits that differ
(R357). -/
structure BadSymbol where
  burst : Nat
  sym : Nat
  flips : Nat
  deriving DecidableEq, Repr

/-- What the stack's cells, pins and the passage of data have done to the line that is read, and to its MAC line (R358,
R360). -/
structure LineErr where
  line : List BadSymbol
  macLine : List BadSymbol
  deriving DecidableEq, Repr

/-- Nothing. -/
def LineErr.none : LineErr := { line := [], macLine := [] }

/-- The parts of a Confluence message header that a receiver acts on (R379). -/
structure MsgHdr where
  flags : Nat
  ttl : Nat
  reach : Nat
  src : Nat
  dst : Nat
  epoch : Nat
  seq : Nat
  status : Nat
  deriving DecidableEq, Repr

/-- A peer's link statement (R374): the fields its payload carries, the payload's bytes as signed, the two signatures
and the certificate chain sent with it. -/
structure LinkStatement where
  devId : Nat
  clusterId : Nat
  ownerDigest : Bytes
  port : Nat
  transcript : Bytes
  owned : Bool
  gen : Nat
  payload : Bytes
  sigMldsa : Bytes
  sigEcdsa : Bytes
  chain : Bytes
  deriving DecidableEq, Repr

/-- A received TIME message (R384): the master the neighbour follows, its hops to it, the measured one-way delay and
the neighbour's cluster time. -/
structure TimeMsg where
  master : Nat
  locked : Bool
  hops : Nat
  delayNs : Nat
  time : Nat
  deriving DecidableEq, Repr

/-- A received ADVERT (R147, R380, R382, R387). -/
structure AdvertMsg where
  backlog : Nat
  threshold : Nat
  epochs : List (Nat × Nat)
  fenced : Bool
  /-- source DEV_ID of the peer's cluster key and the key as it travels under the link keys -/
  keyDev : Nat
  key : Option Bytes
  deriving DecidableEq, Repr

/-- A key that a peer sends (R383, R310): its slot, attribute word, KEY_ID and encodings; `gone` for the copy of a
DELETE or an invalidation. -/
structure KeyMsg where
  slot : Nat
  attr : BitVec 64
  keyId : Bytes
  homeDev : Nat
  gone : Bool
  /-- OWNER_DIGEST of the reach (R310) -/
  owner : Bytes
  /-- IV, ciphertext under the cluster key and tag (R383) -/
  sealed : Bytes
  deriving DecidableEq, Repr

/-- TAP instructions (R402). -/
inductive TapInstr where
  | idcode | bypass | other (code : Nat)
  deriving DecidableEq, Repr

/-- The two reset input pins beside PWRGOOD (R421). -/
inductive ResetPin where
  | resetN | perstN
  deriving DecidableEq, Repr

/-- What a re-plan measures (R478, R482): the lowest voltage that meets the required margin (none up to 850 mV),
READ_VOUT, margins, eyes and the replica margin M of the life estimate. -/
structure Measured where
  needMv : Option Nat
  readMv : Nat
  sramMv : Nat
  corePs : Nat
  worst : Nat
  m : Nat
  hbmPct : Nat
  pciePct : Nat
  cflPct : Nat
  deriving DecidableEq, Repr

def Measured.zero : Measured where
  needMv := none
  readMv := 0
  sramMv := 0
  corePs := 0
  worst := 0
  m := 0
  hbmPct := 0
  pciePct := 0
  cflPct := 0

/-- What the boot steps of R430 observe of the silicon: the re-plan of step 4 (and of 1.10 GHz when the first finds no
voltage), the units that fail steps 5 and 14 as bitmaps, the pseudo-channel that fails step 12's training, whether the
crystal and REFCLK_H run (R472), and which steps fail. -/
structure BootObs where
  meas : Measured
  measReduced : Measured
  failBasins : Nat
  failPt : Nat
  failHt : Nat
  failBnu : Nat
  failCu : Nat
  failCc : Nat
  failPch : Option Nat
  xtalOk : Bool
  refclkOk : Bool
  /-- bit n: step n fails its check or its time; and fails again when it is retried (R431) -/
  failSteps : Nat
  failAgain : Nat
  deriving DecidableEq, Repr

def BootObs.good : BootObs where
  meas := { Measured.zero with needMv := some 720, readMv := 720, sramMv := 80, corePs := 72, m := 150, hbmPct := 60,
                               pciePct := 60, cflPct := 60 }
  measReduced := { Measured.zero with needMv := some 680, readMv := 680, sramMv := 80, corePs := 72, m := 150,
                                      hbmPct := 60, pciePct := 60, cflPct := 60 }
  failBasins := 0
  failPt := 0
  failHt := 0
  failBnu := 0
  failCu := 0
  failCc := 0
  failPch := none
  xtalOk := true
  refclkOk := true
  failSteps := 0
  failAgain := 0

/-- What raises a PMBus fault (R476). -/
inductive PmbFault where
  | noAck | pec | alert
  deriving DecidableEq, Repr

end Sys2Proof
end

