-- ==== Sys2Proof/Syntax.lean ====
section
/-! DEFINITION. The commands of the LX9: one constructor for each row of the command table, in the table's order. The
operands are what the command carries from outside; everything else a command needs is in the state. -/

namespace Sys2Proof

open Sys2Proof

/-- The commands. -/
inductive Instr where
  /-- PWRGOOD_ASSERT: PWRGOOD rises after being deasserted; the device stays in reset until the last reset input is released, and POWER_ON is recorded (R421) -/
  | pwrgoodAssert (addrSel : Nat)
  /-- PWRGOOD_DEASSERT: The main supply is reported lost; the pulse in progress completes, no new pulse starts, and the always-on domain moves to the backup cell (R425) -/
  | pwrgoodDeassert
  /-- RESET_N: RESET_N is asserted and causes a device reset; the cause bit is recorded (R421) -/
  | resetN
  /-- PERST_N: PERST_N is asserted and causes a device reset; the cause bit is recorded (R421) -/
  | perstN
  /-- BOOT_START: When the last reset input is released, the Headwater core runs boot steps 1 to 17 in order, with each step's alternative where the previous boot's record calls for it (R430) -/
  | bootStart (obs : BootObs)
  /-- BOOT_STEP_TIMEOUT: A boot step exceeds its maximum time or fails its check; the failure is recorded, and the device retries, restarts with BOOT_RETRY or stops in SAFE_STANDBY (R431) -/
  | bootStepTimeout (step : Nat)
  /-- BOOT_COUNT_AGE_OUT: A boot that did not reach service leaves the 10-minute window of the always-on count (R433) -/
  | bootCountAgeOut
  /-- DEV_RESET: The manager writes RST_CMD with KEY 0xC1A5; in SMALL class with DEV_RESET_EN set this gives a device reset within 10 µs, and otherwise the command is refused with BAD_PARAMS (R422) -/
  | devReset (key : Nat)
  /-- WATCHDOG_EXPIRY: The Headwater watchdog expires; this gives a device reset in SMALL class and a fence in LARGE class (R424) -/
  | watchdogExpiry
  /-- CRITICAL_ERROR: A double-bit or parity error in critical state gives a device reset in SMALL class and a fence in LARGE class (R420) -/
  | criticalError (unit : Nat)
  /-- RESET_HOLD_END: A fuse or ledger pulse ends, and the device reset that was held during it takes effect (R425) -/
  | resetHoldEnd
  /-- LINK_SETTLE: The PCIe link settles at a speed and width; below 8 GT/s LINK_SLOW is set, fetching stays stopped and event 0x052 is raised (R72) -/
  | linkSettle (speed width : Nat)
  /-- D3HOT_ENTRY: A function enters D3hot; fetching stops, its outstanding jobs are aborted and their writes are held (R74) -/
  | d3hotEntry (fn : Nat)
  /-- D0_RETURN: A function returns to D0; the held outputs, completions and MSI-X writes are written before any new fetch (R74) -/
  | d0Return (fn : Nat)
  /-- VF_ENABLE_WRITE: A write to SR-IOV VF Enable; clearing it is ignored unless every VF is quiesced (R78) -/
  | vfEnableWrite (enable : Bool) (numVfs : Nat)
  /-- FLR: A Function Level Reset of a VF; it is performed within 100 ms when the VF is quiesced, and refused with FLR_REFUSED set otherwise (R84) -/
  | flr (vf : Nat)
  /-- MSIX_STATE_CHANGE: A change of MSI-X Enable, Function Mask or vector mask that allows messages again; one message is sent for each source with a non-zero unsent count (R458) -/
  | msixStateChange (fn : Nat) (change : MsixChange)
  /-- REGISTER_WRITE: A write to a register field that has no behaviour of its own; it is applied under its field type (R11); and a plain read, which the table gives no row of its own (log entry 76) -/
  | registerWrite (fn : Nat) (addr : BarAddr) (size : Nat) (access : RegAccess)
  /-- BEGIN: WSH command BEGIN zeroes the staging area and enters LOADING (R64) -/
  | begin
  /-- LOAD_WINDOW_WRITE: A write to the Watershed load window stores stream bytes in LOADING, and is ignored in other states (R63) -/
  | loadWindowWrite (offset : Nat) (bytes : Bytes)
  /-- VALIDATE: WSH command VALIDATE starts the checks of the staged stream and enters VALIDATING (R60) -/
  | validate
  /-- VALIDATION_COMPLETE: Validation ends in VALID, or in REJECTED with the code and offset of the first failing check (R60) -/
  | validationComplete
  /-- COMMIT: WSH command COMMIT re-checks quiesce, waits for the Spring where needed and prepares the shadow tables (R65) -/
  | commit
  /-- COMMIT_SWITCH_POINT: The prepared configuration is installed atomically: reaches are created, DRBGs instantiated, keys drawn, epochs set, images loaded and MEAS[4] extended (R65) -/
  | commitSwitchPoint
  /-- COMMIT_SPRING_WAIT_TIMEOUT: A commit that needs a seed has waited 40 ms without the Spring RUNNING; it ends REJECTED with code STATE (R279) -/
  | commitSpringWaitTimeout
  /-- DISCARD: WSH command DISCARD returns LOADING, VALID or REJECTED to EMPTY (R64) -/
  | discard
  /-- QUIESCE: A GLB_REACH_CMD QUIESCE stops fetching from the reach's queues; jobs already fetched run to their end (R80) -/
  | quiesce (reach : Nat)
  /-- RESUME: A GLB_REACH_CMD RESUME returns the reach to SERVING, and fetching restarts at each queue's head (R82) -/
  | resume (reach : Nat)
  /-- RESET_REACH: A reach reset of a quiesced reach under the reset matrix; otherwise BUSY or BAD_PARAMS (R83) -/
  | resetReach (reach : Nat)
  /-- REMOVE_REACH: Removal of a quiesced reach: its slots and memories are wiped, its leases consumed, its keys discarded and its resources freed (R85) -/
  | removeReach (reach : Nat)
  /-- QUIESCE_VF: A GLB_REACH_CMD QUIESCE_VF stops fetching from the VF's queues (R80) -/
  | quiesceVf (vf : Nat)
  /-- RESUME_VF: A GLB_REACH_CMD RESUME_VF restarts fetching for the VF (R82) -/
  | resumeVf (vf : Nat)
  /-- RESET_VF: A VF reset of a quiesced VF under the reset matrix (R83) -/
  | resetVf (vf : Nat)
  /-- SELECT: GLB_REACH_CMD SELECT selects the reach and VF shown by the status registers, and does nothing else (R93) -/
  | select (reach vf : Nat)
  /-- QUIESCE_COMPLETE: The last outstanding job of a quiescing reach or VF has its completion written; the reach becomes QUIESCED or VFN_STAT.IDLE becomes 1 (R80) -/
  | quiesceComplete (target : ResetTarget)
  /-- BLOCK_RESET_COMPLETE: A block reset that took time ends, with its known-answer test for tiles, and the target returns to its post-reset state (R426) -/
  | blockResetComplete (target : ResetTarget) (failed : List Nat)
  /-- SQ_DOORBELL: An SQ doorbell write is accepted and sets TAIL, or is ignored with DB_ERR and an error event (R96) -/
  | sqDoorbell (fn q value : Nat)
  /-- CQ_DOORBELL: A CQ doorbell write moves CQ_HEAD, or is ignored with DB_ERR (R96) -/
  | cqDoorbell (fn q value : Nat)
  /-- SQ_FETCH: The Sluice issues a fetch read of up to 32 pending entries for the next queue in round robin (R97) -/
  | sqFetch
  /-- ENTRY_ARRIVAL: Fetched entries arrive and are checked in order; each job is assigned a flow and a token, or is ended by the first failing check (R106) -/
  | entryArrival (fn q : Nat) (entries : List Arrival)
  /-- INPUT_STREAM_READ: Streamed input data or a chained input table arrives; the lengths are compared, and a bus error, table failure or LENGTH_MISMATCH ends the job (R104) -/
  | inputStreamRead (job : Nat) (read : StreamRead)
  /-- TOKEN_AVAILABLE: A reorder token frees or the per-flow limit clears, and fetching resumes for a queue in TOKEN_WAIT (R111) -/
  | tokenAvailable (fn q : Nat)
  /-- JOB_RETIRE: A job's status is fixed and every earlier entry of its flow has retired; the job retires and any run it closes gets its completion (R111) -/
  | jobRetire (job : Nat)
  /-- CQ_SPACE_AVAILABLE: A full CQ gains room, and waiting completions are written (R112) -/
  | cqSpaceAvailable (fn q : Nat)
  /-- SLU_Q_ENABLE: A write to SLU_Q_CTRL.ENABLE starts fetching when the queue is valid, or stops fetching and closes any open run (R118) -/
  | sluQEnable (fn q : Nat) (enable : Bool)
  /-- QUEUE_RESET: SLU_Q_CTRL.RESET zeroes the queue pointers of a disabled, idle queue; otherwise BUSY (R120) -/
  | queueReset (fn q : Nat)
  /-- SLU_Q_ABORT: An abort of outstanding jobs by CID or all, which takes effect at the Weir within 1 µs under R114 (R113) -/
  | sluQAbort (fn q : Nat) (all : Bool) (cid : Nat)
  /-- JOB_ADMIT: The central Weir takes the token, applies the rate limit, decides spill, picks the home basin and requests instantiation (R129) -/
  | jobAdmit (job : Nat)
  /-- TEMPLATE_INSTANTIATE: The template is instantiated in the home basin when node entries are free; nodes without dependencies become ready (R131) -/
  | templateInstantiate (job : Nat)
  /-- NODE_DISPATCH: A free tile takes the next node chosen by its mode, priority and frame slot; an epoch mismatch refuses the node with STALE_ROLE (R134) -/
  | nodeDispatch (cls tile : Nat)
  /-- NODE_COMPLETE: A node completes and its dependants become ready; a loop node reporting REPEAT re-arms the loop (R126) -/
  | nodeComplete (job node : Nat) (again : Bool)
  /-- FRAME_SLOT_START: A new STRICT frame slot begins; FRAMED tiles switch reach, and routines that cannot finish before COMMIT are interrupted (R136) -/
  | frameSlotStart
  /-- TIMED_RELEASE: A DELAY entry expires and the job's nodes become eligible (R139) -/
  | timedRelease (job : Nat)
  /-- RATE_LIMIT_RELEASE: A rate-limit token becomes available and a waiting job continues admission (R140) -/
  | rateLimitRelease (reach : Nat)
  /-- BACKOFF_EXPIRY: A fault restart's backoff, or a STALE_ROLE re-resolution's backoff, ends and the node is dispatched again (R144) -/
  | backoffExpiry (job node : Nat)
  /-- BNU_SLICE_EXPIRY: A BNU yield slice expires, making the node eligible to yield at its next yield point (R143) -/
  | bnuSliceExpiry (unit : Nat)
  /-- DELAY_ENTRY_FREED: A delay-list entry frees and a request waiting for one takes it (R138) -/
  | delayEntryFreed (basin : Nat)
  /-- ENTROPY_WAIT_DELIVERED: The DRBG bytes for an ENTROPY-WAIT node arrive and the node completes (R141) -/
  | entropyWaitDelivered (job : Nat)
  /-- ENTROPY_WAIT_TIMEOUT: The WEIR_ENTROPY_TMO timeout passes and the job ends ENTROPY_UNAVAILABLE (R141) -/
  | entropyWaitTimeout (job : Nat)
  /-- YIELD_POINT: A BNU routine reaches a yield point, or an HT routine a block boundary, and gives up its unit when a more urgent or due node waits (R143) -/
  | yieldPoint (cls tile : Nat)
  /-- BNU_SPAN_GRANT: A BNU node waiting for a span of free slots gets one (R254) -/
  | bnuSpanGrant (unit : Nat)
  /-- SPILL: A SPILL message arrives; the peer runs the job in its matching reach, or refuses it (R148) -/
  | spill (port : Nat) (msg : SpillMsg)
  /-- SPILL_RESULT: A spilled job's result arrives whole; the origin writes it and retires the job with SPILLED set (R148) -/
  | spillResult (job : Nat) (status detail : Nat) (output : Bytes)
  /-- SPILL_TIMER_EXPIRY: The 10 ms spill timer expires before the result arrives; the origin runs the job locally and discards later results (R148) -/
  | spillTimerExpiry (job : Nat)
  /-- MEAS_EXTEND: The measurement unit applies a job's extension of a measurement register, one at a time (R247) -/
  | measExtend (job : Nat)
  /-- LEASE_COMMIT: The ledger record of a lease is written with its commit flag, and signatures drawn from that lease may pass their commit point (R307) -/
  | leaseCommit (slot : Nat)
  /-- UCODE_NEXT: A microword with SEQ NEXT executes its datapath fields and proceeds to address + 1 (R320) -/
  | ucodeNext (eng unit : Nat) (mem : EccEvent)
  /-- UCODE_JUMP: A microword with SEQ JUMP proceeds to TARGET (R320) -/
  | ucodeJump (eng unit : Nat) (mem : EccEvent)
  /-- UCODE_CALL: A microword with SEQ CALL pushes the return address and jumps; a fifth nested call is an illegal-word fault (R320) -/
  | ucodeCall (eng unit : Nat) (mem : EccEvent)
  /-- UCODE_RET: A microword with SEQ RET returns to the popped address (R320) -/
  | ucodeRet (eng unit : Nat) (mem : EccEvent)
  /-- UCODE_REPEAT: A microword with SEQ REPEAT executes TARGET times, advancing its addresses, then proceeds (R320) -/
  | ucodeRepeat (eng unit : Nat) (mem : EccEvent)
  /-- UCODE_LOOP: A microword with SEQ LOOP decrements a counter and branches while it is non-zero (R320) -/
  | ucodeLoop (eng unit : Nat) (mem : EccEvent)
  /-- UCODE_SETCNT: A microword with SEQ SETCNT loads a loop counter (R320) -/
  | ucodeSetcnt (eng unit : Nat) (mem : EccEvent)
  /-- UCODE_BR_FLAG: A microword with SEQ BR_FLAG branches on a public flag (R320) -/
  | ucodeBrFlag (eng unit : Nat) (mem : EccEvent)
  /-- UCODE_BR_REVEAL: A microword with SEQ BR_REVEAL branches on the last revealed comparator bit (R320) -/
  | ucodeBrReveal (eng unit : Nat) (mem : EccEvent)
  /-- UCODE_END: A microword with SEQ END ends the routine, and the node completes; END without COMMIT is an illegal-word fault (R320) -/
  | ucodeEnd (eng unit : Nat) (mem : EccEvent)
  /-- UCODE_COMMIT: A microword with COMMIT set passes the sandbox check and marks the point after which the routine runs to its end (R322) -/
  | ucodeCommit (eng unit : Nat) (mem : EccEvent)
  /-- ADD: CC scalar add (R351) -/
  | add (core : Nat) (mem : CoreEvent)
  /-- SUB: CC scalar subtract (R351) -/
  | sub (core : Nat) (mem : CoreEvent)
  /-- AND: CC scalar AND (R351) -/
  | and (core : Nat) (mem : CoreEvent)
  /-- OR: CC scalar OR (R351) -/
  | or (core : Nat) (mem : CoreEvent)
  /-- XOR: CC scalar XOR (R351) -/
  | xor (core : Nat) (mem : CoreEvent)
  /-- ANDN: CC scalar iA AND NOT iB (R351) -/
  | andn (core : Nat) (mem : CoreEvent)
  /-- SHL: CC shift left by iB[5:0] (R351) -/
  | shl (core : Nat) (mem : CoreEvent)
  /-- SHR: CC logical shift right (R351) -/
  | shr (core : Nat) (mem : CoreEvent)
  /-- SAR: CC arithmetic shift right (R351) -/
  | sar (core : Nat) (mem : CoreEvent)
  /-- ROR: CC rotate right (R351) -/
  | ror (core : Nat) (mem : CoreEvent)
  /-- CMPS: CC signed compare, writing −1, 0 or +1 (R342) -/
  | cmps (core : Nat) (mem : CoreEvent)
  /-- CMPU: CC unsigned compare, writing −1, 0 or +1 (R342) -/
  | cmpu (core : Nat) (mem : CoreEvent)
  /-- MUL: CC multiply, low 64 bits (R351) -/
  | mul (core : Nat) (mem : CoreEvent)
  /-- MULHI_S: CC signed multiply, high 64 bits (R351) -/
  | mulhiS (core : Nat) (mem : CoreEvent)
  /-- MULHI_U: CC unsigned multiply, high 64 bits (R351) -/
  | mulhiU (core : Nat) (mem : CoreEvent)
  /-- DIVS: CC signed divide, with the defined results for zero and overflow (R342) -/
  | divs (core : Nat) (mem : CoreEvent)
  /-- DIVU: CC unsigned divide; division by 0 gives 0 (R342) -/
  | divu (core : Nat) (mem : CoreEvent)
  /-- MODS: CC signed remainder, with the defined results for zero and overflow (R342) -/
  | mods (core : Nat) (mem : CoreEvent)
  /-- MODU: CC unsigned remainder; by 0 it gives the dividend (R342) -/
  | modu (core : Nat) (mem : CoreEvent)
  /-- MINS: CC signed minimum (R351) -/
  | mins (core : Nat) (mem : CoreEvent)
  /-- MAXS: CC signed maximum (R351) -/
  | maxs (core : Nat) (mem : CoreEvent)
  /-- MINU: CC unsigned minimum (R351) -/
  | minu (core : Nat) (mem : CoreEvent)
  /-- MAXU: CC unsigned maximum (R351) -/
  | maxu (core : Nat) (mem : CoreEvent)
  /-- ADDK: CC add constant (R351) -/
  | addk (core : Nat) (mem : CoreEvent)
  /-- ANDK: CC AND constant (R351) -/
  | andk (core : Nat) (mem : CoreEvent)
  /-- ORK: CC OR constant (R351) -/
  | ork (core : Nat) (mem : CoreEvent)
  /-- XORK: CC XOR constant (R351) -/
  | xork (core : Nat) (mem : CoreEvent)
  /-- SHLK: CC shift left by constant (R351) -/
  | shlk (core : Nat) (mem : CoreEvent)
  /-- SHRK: CC logical shift right by constant (R351) -/
  | shrk (core : Nat) (mem : CoreEvent)
  /-- SARK: CC arithmetic shift right by constant (R351) -/
  | sark (core : Nat) (mem : CoreEvent)
  /-- RORK: CC rotate right by constant (R351) -/
  | rork (core : Nat) (mem : CoreEvent)
  /-- KSET: CC load of a sign-extended constant (R351) -/
  | kset (core : Nat) (mem : CoreEvent)
  /-- KSH: CC shift in 16 constant bits (R351) -/
  | ksh (core : Nat) (mem : CoreEvent)
  /-- LDU1: CC load of 1 byte, zero-extended (R351) -/
  | ldu1 (core : Nat) (mem : CoreEvent)
  /-- LDU2: CC load of 2 bytes, zero-extended (R351) -/
  | ldu2 (core : Nat) (mem : CoreEvent)
  /-- LDU4: CC load of 4 bytes, zero-extended (R351) -/
  | ldu4 (core : Nat) (mem : CoreEvent)
  /-- LD8: CC load of 8 bytes (R351) -/
  | ld8 (core : Nat) (mem : CoreEvent)
  /-- LDS1: CC load of 1 byte, sign-extended (R351) -/
  | lds1 (core : Nat) (mem : CoreEvent)
  /-- LDS2: CC load of 2 bytes, sign-extended (R351) -/
  | lds2 (core : Nat) (mem : CoreEvent)
  /-- LDS4: CC load of 4 bytes, sign-extended (R351) -/
  | lds4 (core : Nat) (mem : CoreEvent)
  /-- ST1: CC store of 1 byte (R351) -/
  | st1 (core : Nat) (mem : CoreEvent)
  /-- ST2: CC store of 2 bytes (R351) -/
  | st2 (core : Nat) (mem : CoreEvent)
  /-- ST4: CC store of 4 bytes (R351) -/
  | st4 (core : Nat) (mem : CoreEvent)
  /-- ST8: CC store of 8 bytes (R351) -/
  | st8 (core : Nat) (mem : CoreEvent)
  /-- BZ: CC branch if the register is zero (R351) -/
  | bz (core : Nat) (mem : CoreEvent)
  /-- BNZ: CC branch if the register is non-zero (R351) -/
  | bnz (core : Nat) (mem : CoreEvent)
  /-- BNEG: CC branch if the register is negative (R351) -/
  | bneg (core : Nat) (mem : CoreEvent)
  /-- BNNEG: CC branch if the register is not negative (R351) -/
  | bnneg (core : Nat) (mem : CoreEvent)
  /-- JMP: CC relative jump (R351) -/
  | jmp (core : Nat) (mem : CoreEvent)
  /-- CC_CALL: CC call, saving the return address in i31 (R351) -/
  | ccCall (core : Nat) (mem : CoreEvent)
  /-- JMPR: CC jump to a register address (R351) -/
  | jmpr (core : Nat) (mem : CoreEvent)
  /-- FADD: CC floating-point add (R351) -/
  | fadd (core : Nat) (mem : CoreEvent)
  /-- FSUB: CC floating-point subtract (R351) -/
  | fsub (core : Nat) (mem : CoreEvent)
  /-- FMUL: CC floating-point multiply (R351) -/
  | fmul (core : Nat) (mem : CoreEvent)
  /-- FDIV: CC floating-point divide (R351) -/
  | fdiv (core : Nat) (mem : CoreEvent)
  /-- FSQRT: CC floating-point square root (R351) -/
  | fsqrt (core : Nat) (mem : CoreEvent)
  /-- FMIN: CC floating-point minimum (R351) -/
  | fmin (core : Nat) (mem : CoreEvent)
  /-- FMAX: CC floating-point maximum (R351) -/
  | fmax (core : Nat) (mem : CoreEvent)
  /-- FCMP: CC floating-point compare, writing −1, 0, +1 or 2 (R342) -/
  | fcmp (core : Nat) (mem : CoreEvent)
  /-- F2I: CC saturating conversion of float to integer (R342) -/
  | f2i (core : Nat) (mem : CoreEvent)
  /-- I2F: CC conversion of integer to float (R351) -/
  | i2f (core : Nat) (mem : CoreEvent)
  /-- FBITS: CC move of float bits to an integer register (R351) -/
  | fbits (core : Nat) (mem : CoreEvent)
  /-- IBITS: CC move of integer bits to a float register (R351) -/
  | ibits (core : Nat) (mem : CoreEvent)
  /-- FLD8: CC 64-bit float load (R351) -/
  | fld8 (core : Nat) (mem : CoreEvent)
  /-- FST8: CC 64-bit float store (R351) -/
  | fst8 (core : Nat) (mem : CoreEvent)
  /-- CC_COMMIT: An owner-mode COMMIT declares the scratch result range after its range and capacity checks (R339) -/
  | ccCommit (core : Nat) (mem : CoreEvent)
  /-- CC_END: An owner-mode END moves the result to output or staging and ends the node (R339) -/
  | ccEnd (core : Nat) (mem : CoreEvent)
  /-- CC_TIME: CC read of cluster time (R351) -/
  | ccTime (core : Nat) (mem : CoreEvent)
  /-- CYCLE: CC read of the node's cycle count (R351) -/
  | cycle (core : Nat) (mem : CoreEvent)
  /-- VTAKE: Sets ACT for one strip and returns the count still to do (R344) -/
  | vtake (core : Nat) (mem : CoreEvent)
  /-- VACT: Reads ACT (R344) -/
  | vact (core : Nat) (mem : CoreEvent)
  /-- VADD: Vector add (R352) -/
  | vadd (core : Nat) (mem : CoreEvent)
  /-- VSUB: Vector subtract (R352) -/
  | vsub (core : Nat) (mem : CoreEvent)
  /-- VAND: Vector AND (R352) -/
  | vand (core : Nat) (mem : CoreEvent)
  /-- VOR: Vector OR (R352) -/
  | vor (core : Nat) (mem : CoreEvent)
  /-- VXOR: Vector XOR (R352) -/
  | vxor (core : Nat) (mem : CoreEvent)
  /-- VSHL: Vector shift left (R352) -/
  | vshl (core : Nat) (mem : CoreEvent)
  /-- VSHR: Vector logical shift right (R352) -/
  | vshr (core : Nat) (mem : CoreEvent)
  /-- VSAR: Vector arithmetic shift right (R352) -/
  | vsar (core : Nat) (mem : CoreEvent)
  /-- VMUL: Vector multiply (R352) -/
  | vmul (core : Nat) (mem : CoreEvent)
  /-- VMULHI_S: Vector signed high multiply (R352) -/
  | vmulhiS (core : Nat) (mem : CoreEvent)
  /-- VMULHI_U: Vector unsigned high multiply (R352) -/
  | vmulhiU (core : Nat) (mem : CoreEvent)
  /-- VMINU: Vector unsigned minimum (R352) -/
  | vminu (core : Nat) (mem : CoreEvent)
  /-- VMAXU: Vector unsigned maximum (R352) -/
  | vmaxu (core : Nat) (mem : CoreEvent)
  /-- VEQ: Vector compare for equality (R352) -/
  | veq (core : Nat) (mem : CoreEvent)
  /-- VLTU: Vector unsigned less-than (R352) -/
  | vltu (core : Nat) (mem : CoreEvent)
  /-- VBLEND: Vector bit-mask blend (R352) -/
  | vblend (core : Nat) (mem : CoreEvent)
  /-- VBYTEREV: Vector byte reversal of each element (R352) -/
  | vbyterev (core : Nat) (mem : CoreEvent)
  /-- VECTOR_SCALAR_OP: One of the element-wise operations of OP 0x41 with the scalar iB (OP 0x42, FN 0x00 to 0x0F) (R352) -/
  | vectorScalarOp (core : Nat) (mem : CoreEvent)
  /-- VMOVEUP: Vector move of elements up by iB places (R352) -/
  | vmoveup (core : Nat) (mem : CoreEvent)
  /-- VMOVEDN: Vector move of elements down by iB places (R352) -/
  | vmovedn (core : Nat) (mem : CoreEvent)
  /-- VPUT: Sets one vector element (R352) -/
  | vput (core : Nat) (mem : CoreEvent)
  /-- VGET: Reads one vector element (R352) -/
  | vget (core : Nat) (mem : CoreEvent)
  /-- VPICK: Vector gather by index (R352) -/
  | vpick (core : Nat) (mem : CoreEvent)
  /-- VFOLDADD: Vector reduction by addition (R352) -/
  | vfoldadd (core : Nat) (mem : CoreEvent)
  /-- VFOLDXOR: Vector reduction by XOR (R352) -/
  | vfoldxor (core : Nat) (mem : CoreEvent)
  /-- VFOLDMAXU: Vector reduction by unsigned maximum (R352) -/
  | vfoldmaxu (core : Nat) (mem : CoreEvent)
  /-- VLOAD: Contiguous vector load (R352) -/
  | vload (core : Nat) (mem : CoreEvent)
  /-- VSTORE: Contiguous vector store (R352) -/
  | vstore (core : Nat) (mem : CoreEvent)
  /-- VLOADS: Strided vector load (R352) -/
  | vloads (core : Nat) (mem : CoreEvent)
  /-- VSTORES: Strided vector store (R352) -/
  | vstores (core : Nat) (mem : CoreEvent)
  /-- VLDREC: Record load that splits NF interleaved fields into groups (R349) -/
  | vldrec (core : Nat) (mem : CoreEvent)
  /-- VSTREC: Record store that interleaves NF groups (R349) -/
  | vstrec (core : Nat) (mem : CoreEvent)
  /-- CC_RECOVERY_DONE: A core's register-file self-test in recovery ends; the core returns to service or, on the third failure, becomes FAILED (R346) -/
  | ccRecoveryDone (core : Nat) (passed : Bool)
  /-- NOP: Opcode NOP completes OK when it retires (R200) -/
  | nop (job : Nat)
  /-- FENCE: Opcode FENCE holds later entries of its queue until every earlier entry has retired (R200) -/
  | fence (job : Nat)
  /-- RANDOM: Opcode RANDOM writes OUT_BYTES from the reach DRBG (R200) -/
  | random (job : Nat)
  /-- RESEED: Opcode RESEED reseeds the reach DRBG from the Spring (R200) -/
  | reseed (job : Nat)
  /-- ATTEST: Opcode ATTEST writes a COSE_Sign attestation statement for a slot (R313) -/
  | attest (job : Nat)
  /-- ML_KEM_KEYGEN: Generates an ML-KEM key into an empty slot (R165) -/
  | mlKemKeygen (job : Nat)
  /-- ML_KEM_ENCAPS: ML-KEM encapsulation to a slot key or to an input key (R167) -/
  | mlKemEncaps (job : Nat)
  /-- ML_KEM_DECAPS: ML-KEM decapsulation with implicit rejection (R166) -/
  | mlKemDecaps (job : Nat)
  /-- ML_DSA_KEYGEN: Generates an ML-DSA key (R169) -/
  | mlDsaKeygen (job : Nat)
  /-- ML_DSA_SIGN: Hedged or deterministic ML-DSA signing (R160) -/
  | mlDsaSign (job : Nat)
  /-- ML_DSA_VERIFY: ML-DSA verification (R171) -/
  | mlDsaVerify (job : Nat)
  /-- SLH_DSA_KEYGEN: Generates an SLH-DSA key (R172) -/
  | slhDsaKeygen (job : Nat)
  /-- SLH_DSA_SIGN: SLH-DSA signing (R173) -/
  | slhDsaSign (job : Nat)
  /-- SLH_DSA_VERIFY: SLH-DSA verification (R172) -/
  | slhDsaVerify (job : Nat)
  /-- LMS_KEYGEN: LMS or HSS key generation, with its first ledger record (R176) -/
  | lmsKeygen (job : Nat)
  /-- LMS_SIGN: LMS or HSS signing with an index drawn from a lease (R177) -/
  | lmsSign (job : Nat)
  /-- LMS_VERIFY: LMS or HSS verification (R175) -/
  | lmsVerify (job : Nat)
  /-- LMS_INDEX_QUERY: Writes the index record of an LMS or HSS key (R178) -/
  | lmsIndexQuery (job : Nat)
  /-- XMSS_KEYGEN: XMSS or XMSS^MT key generation (R179) -/
  | xmssKeygen (job : Nat)
  /-- XMSS_SIGN: XMSS or XMSS^MT signing with a leased index (R177) -/
  | xmssSign (job : Nat)
  /-- XMSS_VERIFY: XMSS or XMSS^MT verification (R180) -/
  | xmssVerify (job : Nat)
  /-- XMSS_INDEX_QUERY: Writes the index record of an XMSS key (R178) -/
  | xmssIndexQuery (job : Nat)
  /-- MCELIECE_KEYGEN: Classic McEliece key generation, including the f variants (R182) -/
  | mcelieceKeygen (job : Nat)
  /-- MCELIECE_ENCAPS: Classic McEliece encapsulation (R182) -/
  | mcelieceEncaps (job : Nat)
  /-- MCELIECE_DECAPS: Classic McEliece decapsulation with implicit rejection (R182) -/
  | mcelieceDecaps (job : Nat)
  /-- EC_KEYGEN: Elliptic-curve key generation (R191) -/
  | ecKeygen (job : Nat)
  /-- EC_SIGN: ECDSA or EdDSA signing (R191) -/
  | ecSign (job : Nat)
  /-- EC_VERIFY: ECDSA or EdDSA verification (R191) -/
  | ecVerify (job : Nat)
  /-- AGREE: ECDH, X25519 or X448 agreement (R191) -/
  | agree (job : Nat)
  /-- RSA_KEYGEN: RSA key generation (R192) -/
  | rsaKeygen (job : Nat)
  /-- RSA_PSS_SIGN: RSA-PSS signing (R193) -/
  | rsaPssSign (job : Nat)
  /-- RSA_V15_SIGN: RSA PKCS #1 v1.5 signing (R193) -/
  | rsaV15Sign (job : Nat)
  /-- RSA_PSS_VERIFY: RSA-PSS verification (R193) -/
  | rsaPssVerify (job : Nat)
  /-- RSA_V15_VERIFY: RSA v1.5 verification (R193) -/
  | rsaV15Verify (job : Nat)
  /-- RSA_OAEP_ENCRYPT: RSA-OAEP encryption (R193) -/
  | rsaOaepEncrypt (job : Nat)
  /-- RSA_OAEP_DECRYPT: RSA-OAEP decryption (R193) -/
  | rsaOaepDecrypt (job : Nat)
  /-- HASH: A digest or XOF job, optionally extending a measurement register (R194) -/
  | hash (job : Nat)
  /-- HMAC_GENERATE: HMAC tag generation (R194) -/
  | hmacGenerate (job : Nat)
  /-- HMAC_VERIFY: HMAC tag verification (R194) -/
  | hmacVerify (job : Nat)
  /-- KMAC_GENERATE: KMAC128 or KMAC256 generation (R194) -/
  | kmacGenerate (job : Nat)
  /-- KMAC_VERIFY: KMAC verification (R194) -/
  | kmacVerify (job : Nat)
  /-- AES_GCM_ENCRYPT: AES-GCM encryption (R196) -/
  | aesGcmEncrypt (job : Nat)
  /-- AES_GCM_DECRYPT: AES-GCM decryption, with the tag checked before any output (R196) -/
  | aesGcmDecrypt (job : Nat)
  /-- AES_CTR: AES-CTR keystream XOR (R196) -/
  | aesCtr (job : Nat)
  /-- AES_XTS_ENCRYPT: AES-XTS encryption of one data unit (R196) -/
  | aesXtsEncrypt (job : Nat)
  /-- AES_XTS_DECRYPT: AES-XTS decryption of one data unit (R196) -/
  | aesXtsDecrypt (job : Nat)
  /-- KDF_COUNTER_HMAC: SP 800-108 counter-mode KDF with HMAC (R197) -/
  | kdfCounterHmac (job : Nat)
  /-- KDF_KMAC256: SP 800-108 KDF with KMAC256 (R197) -/
  | kdfKmac256 (job : Nat)
  /-- HKDF: HKDF extract and expand (R197) -/
  | hkdf (job : Nat)
  /-- HKDF_EXPAND: HKDF-Expand only (R197) -/
  | hkdfExpand (job : Nat)
  /-- GENERATE: Generates a symmetric or generic-secret key (R202) -/
  | generate (job : Nat)
  /-- IMPORT_WRAPPED: Imports a blob into an empty slot (R304) -/
  | importWrapped (job : Nat)
  /-- IMPORT_CLEAR: Imports a clear-encoded key (R300) -/
  | importClear (job : Nat)
  /-- EXPORT_WRAPPED: Exports a slot as a version 2 blob (R303) -/
  | exportWrapped (job : Nat)
  /-- EXPORT_PUBLIC: Exports a public key (R202) -/
  | exportPublic (job : Nat)
  /-- RESTRICT: Narrows a slot's attribute word (R297) -/
  | restrict (job : Nat)
  /-- DELETE: Invalidates a slot (R202) -/
  | delete (job : Nat)
  /-- HYBRID_KEYGEN: Hybrid KEM key generation (R198) -/
  | hybridKeygen (job : Nat)
  /-- HYBRID_ENCAPS: Hybrid KEM encapsulation (R199) -/
  | hybridEncaps (job : Nat)
  /-- HYBRID_DECAPS: Hybrid KEM decapsulation (R199) -/
  | hybridDecaps (job : Nat)
  /-- OWNER_OPCODE: An opcode 0x0Fxx run from an owner ADD template (R124) -/
  | ownerOpcode (job : Nat)
  /-- QUERY: KST_CMD QUERY copies a slot's descriptor into KST_DESC (R315) -/
  | query
  /-- PLACE: KST_CMD PLACE sends a stateful key to a peer as a lease client (R310) -/
  | place
  /-- SPRING_HEALTH_FAIL: A health test fails: the Spring is FAILED or DEAD, DRBGs and FIFOs stop, and waiting randomness users end or fall back (R280) -/
  | springHealthFail (source test : Nat)
  /-- SPRING_FIRST_SEED: Spring start-up completes with its first seed; the device DRBG is instantiated and the state is RUNNING (R278) -/
  | springFirstSeed (rates : List Nat) (failed : Nat) (raw : Bytes)
  /-- SPRING_BLOCK_RESET: SPR_CMD RESET, or an automatic retry every 1 µs, starts a Spring block reset when no transfer remains (R281) -/
  | springBlockReset (auto : Bool)
  /-- SPRING_BLOCK_RESET_DONE: A block reset ends: instances are reseeded and the Spring is RUNNING, or the reset fails and is counted (R281) -/
  | springBlockResetDone (rates : List Nat) (failed : Nat) (raw : Bytes)
  /-- RESEED_ALL: SPR_CMD RESEED_ALL makes every DRBG instance due (R286) -/
  | reseedAll
  /-- SPRING_FAIL_AGE_OUT: A Spring failure leaves the 24 h count window (R282) -/
  | springFailAgeOut
  /-- CONDITIONER_OUTPUT: The conditioner emits a 256-bit seed into the seed queue once its windows close clean (R268) -/
  | conditionerOutput (raw : Bytes)
  /-- DRBG_GENERATE: A DRBG serves a generate request, counting toward its due reseed or its block (R272) -/
  | drbgGenerate (job : Nat)
  /-- DRBG_RESEED: A due DRBG reseed is served from the seed queue in priority order (R269) -/
  | drbgReseed
  /-- MASK_EXPANDER_RESEED: A mask expander is reseeded from the device DRBG, and any throttled tile resumes (R274) -/
  | maskExpanderReseed (exp : Nat)
  /-- BLINDING_BUFFER_REFILL: A BNU blinding buffer holding 256 bytes or fewer is refilled (R275) -/
  | blindingBufferRefill (unit : Nat)
  /-- RND_FIFO_REFILL: A function's random FIFO holding 128 bytes or fewer is refilled to 256 bytes (R276) -/
  | rndFifoRefill (fn : Nat)
  /-- RND_DATA_LO_READ: A read takes 8 bytes from the FIFO, or returns 0 and sets ERR (R277) -/
  | rndDataLoRead (fn : Nat)
  /-- RND_DATA_HI_READ: A read returns and clears the latched high half (R277) -/
  | rndDataHiRead (fn : Nat)
  /-- SPR_TEST_WRITE: A write to the Spring test modes, accepted only in TEST_UNLOCKED (R284) -/
  | sprTestWrite (value : Nat)
  /-- HBM_READ: A line read with ECC, MAC and decryption; a failed line is poisoned and quarantined (R361) -/
  | hbmRead (chan line : Nat) (job : Option Nat) (check : LineErr)
  /-- HBM_WRITE: A whole-line write with encryption, MAC and ECC (R361) -/
  | hbmWrite (chan line : Nat) (bytes : Bytes)
  /-- HBM_PARTIAL_WRITE: A read-merge-write of part of a line (R361) -/
  | hbmPartialWrite (chan line off : Nat) (bytes : Bytes) (job : Option Nat) (check : LineErr)
  /-- PATROL_SCRUB: The scrub checks and corrects the next line of a pseudo-channel (R368) -/
  | patrolScrub (chan : Nat) (check : LineErr)
  /-- PORT_LOCK_LOSS: An enabled port loses lock or idles for 50 µs and goes DOWN (R372) -/
  | portLockLoss (port : Nat)
  /-- PORT_RETRAIN: A DOWN port retrains every 100 ms (R372) -/
  | portRetrain (port : Nat)
  /-- PROBE_SEND: A committed port sends a PROBE every 100 µs until the handshake starts (R373) -/
  | probeSend (port : Nat)
  /-- PROBE: A received PROBE chooses the handshake roles, or refuses duplicate DEV_IDs (R373) -/
  | probe (port devId clusterId : Nat)
  /-- HELLO: A received HELLO is checked, and the responder encapsulates and sends REPLY (R373) -/
  | hello (port : Nat) (ek : Bytes) (stmt : LinkStatement)
  /-- REPLY: A received REPLY is checked, and the initiator derives the keys and sends FINISH (R373) -/
  | reply (port : Nat) (ct : Bytes) (stmt : LinkStatement)
  /-- FINISH: A received FINISH verifies and the port becomes UP (R376) -/
  | finish (port : Nat) (tag : Bytes)
  /-- HANDSHAKE_RESEND: A HELLO or REPLY without an answer for 1 ms is sent again (R373) -/
  | handshakeResend (port : Nat)
  /-- HANDSHAKE_TIMEOUT: The handshake does not complete within 5 ms and the port is REFUSED with code 7 (R373) -/
  | handshakeTimeout (port : Nat)
  /-- REKEY: After 2^40 frames or 3,600 s, the port repeats the handshake and switches keys (R376) -/
  | rekey (port : Nat)
  /-- MESSAGE_FORWARD: A unicast message in transit is routed onward or discarded (R377) -/
  | messageForward (port cls : Nat) (hdr : MsgHdr) (body : Bytes)
  /-- FLOOD_FORWARD: A flooded message is forwarded once on every other UP port (R378) -/
  | floodForward (port cls : Nat) (hdr : MsgHdr) (body : Bytes)
  /-- TIME_EXCHANGE: Every 1 ms an UP link starts a TIME exchange (R384) -/
  | timeExchange (port : Nat)
  /-- TIME: A received TIME message updates the link delay and cluster time (R384) -/
  | time (port : Nat) (msg : TimeMsg)
  /-- ALARM: A received ALARM raises the Confluence alarm event, and runs no action (R386) -/
  | alarm (port : Nat) (hdr : MsgHdr)
  /-- FENCED: A received FENCED stops spill and KEY_REPL to that device and ends its lease requests (R387) -/
  | fenced (port : Nat) (hdr : MsgHdr)
  /-- TRIGGER: A received TRIGGER requests a snapshot capture and asserts TRIG_OUT (R386) -/
  | trigger (port : Nat) (hdr : MsgHdr)
  /-- FW_ACTIVATE: A received activation arms the device when its staged digest matches, or cancels it; otherwise it is ignored and counted (R443) -/
  | fwActivate (port : Nat) (hdr : MsgHdr) (instant : Nat) (digest : Bytes) (cancel : Bool)
  /-- LEASE_REQ: The home device receives a lease request and grants a lease after its record commit, or refuses it (R310) -/
  | leaseReq (port : Nat) (hdr : MsgHdr) (keyId : Bytes)
  /-- LEASE_GRANT: A lease client receives its granted range (R310) -/
  | leaseGrant (port : Nat) (hdr : MsgHdr) (start stop remain : Nat)
  /-- LEASE_GRANT_TIMEOUT: No grant arrives within 10 ms and the client's job ends LEASE_EXHAUSTED with DETAIL 3 (R310) -/
  | leaseGrantTimeout (req : Nat)
  /-- REFUSE: A received refusal leads to one re-send after STALE_ROLE, or ends the request by its class's rule (R381) -/
  | refuse (port : Nat) (hdr : MsgHdr) (status : Nat)
  /-- ADVERT_SEND: Every 10 µs a port sends its backlog, epochs, fence flag and cluster-key source (R380) -/
  | advertSend (port : Nat)
  /-- ADVERT: A received ADVERT updates the peer's backlog and epochs, and may take over the cluster key (R382) -/
  | advert (port : Nat) (msg : AdvertMsg)
  /-- KEY_REPL: A received key copy is installed in the same slot, or refused with KEY_REACH_MISMATCH (R383) -/
  | keyRepl (port : Nat) (hdr : MsgHdr) (key : KeyMsg)
  /-- KEY_PLACE: A received placement installs a lease-client copy of a stateful key (R310) -/
  | keyPlace (port : Nat) (hdr : MsgHdr) (key : KeyMsg)
  /-- PPS_IN_EDGE: A rising edge on PPS_IN marks a second and drives the lock (R385) -/
  | ppsInEdge
  /-- CFL_TIME_SET: A write of CFL_TIME_SET_HI sets cluster time forward on the time master (R385) -/
  | cflTimeSet (hi : Nat)
  /-- TEST_LOCK: Life-cycle command TEST_LOCK (R395) -/
  | testLock
  /-- TEST_UNLOCK: Life-cycle command TEST_UNLOCK with a test token (R395) -/
  | testUnlock
  /-- PERSONALISE: Life-cycle command PERSONALISE (R395) -/
  | personalise
  /-- TAKE_OWNERSHIP: Life-cycle command TAKE_OWNERSHIP, which burns the owner fields (R396) -/
  | takeOwnership
  /-- FIELD_RETURN: Life-cycle command FIELD_RETURN, with its erase and generation step (R400) -/
  | fieldReturn
  /-- SCRAP: Life-cycle command SCRAP, erasing first when it comes from OWNED or FIELD_RETURN (R400) -/
  | scrap
  /-- FUSE_PULSE_END: A 12 µs fuse pulse ends and the next bit of the transition is burned (R398) -/
  | fusePulseEnd
  /-- ERASE_STEP_DONE: An erase step completes with its journal record, and the next step or the completion follows (R400) -/
  | eraseStepDone
  /-- LCS_LOCKOUT_END: The 1 s after a token mismatch ends, and LCS_CMD is accepted again (R394) -/
  | lcsLockoutEnd
  /-- JTAG_TAP_INSTRUCTION: A TAP instruction is decoded; only IDCODE and BYPASS act while the port is closed (R402) -/
  | jtagTapInstruction (instr : TapInstr)
  /-- TRST_N: TRST_N resets the TAP (R402) -/
  | trstN
  /-- LEVEE_DETECTOR_EVENT: A detector trips and its source counts an event, tripping and latching at N within W (R409) -/
  | leveeDetectorEvent (source : Nat) (detB : Bool)
  /-- DETECTOR_DISAGREEMENT: A source's detectors disagree for more than 10 µs, and source 25 counts an event (R407) -/
  | detectorDisagreement (source : Nat)
  /-- LEVEE_WINDOW_EXPIRY: W elapses without a trip and the count returns to 0 (R409) -/
  | leveeWindowExpiry (source : Nat)
  /-- GATHERING_INTERVAL_END: The 1 µs gathering interval closes and the alarm set's actions are queued in rank order (R412) -/
  | gatheringIntervalEnd
  /-- LOG: Levee action LOG writes one entry per source (R411) -/
  | log
  /-- EVENT: Levee action EVENT raises each source's event (R411) -/
  | event
  /-- ALARM_OUT: Levee action ALARM_OUT asserts the selected pins while the source is latched (R411) -/
  | alarmOut
  /-- THROTTLE: Levee action THROTTLE limits FCLK to 625 MHz (R411) -/
  | throttle
  /-- CLEAR_VOLATILE_KEYS: Ends outstanding jobs with completions and invalidates every key slot (R311) -/
  | clearVolatileKeys
  /-- FENCE_ACTION: Levee action FENCE stops fetching, ends jobs with completions, stops the Sluice and fences the device (R411) -/
  | fenceAction
  /-- CLEAR_ALL: Levee action CLEAR_ALL stops the Sluice and zeroes all volatile secrets (R411) -/
  | clearAll
  /-- HALT: Levee action HALT floods ALARM and stops every engine, the Sluice and the ports (R411) -/
  | halt
  /-- RESET_ACTION: Levee action RESET gives a device reset in SMALL class and runs as FENCE in LARGE class (R411) -/
  | resetAction
  /-- LEVEE_UNLATCH: A write of 1 to LATCHED unlatches a clear source and ends its ALARM_OUT and THROTTLE (R410) -/
  | leveeUnlatch (source : Nat)
  /-- LEV_BIST_CMD: Starts a stimulation test of one detector (R414) -/
  | levBistCmd (source : Nat) (detB : Bool)
  /-- BIST_SCHEDULE: A source's BIST_PERIOD_H elapses and a stimulation test starts (R414) -/
  | bistSchedule (source : Nat) (detB : Bool)
  /-- BIST_VERDICT: A stimulation test ends passed or failed; a failure counts an event of source 25 (R414) -/
  | bistVerdict (passed : Bool)
  /-- BATTERY_SAMPLE: Every 31.25 ms on the backup cell, the battery sources are sampled (R415) -/
  | batterySample (detA detB : Nat)
  /-- PT_TILE_RESET: PTL_CMD RESET of an idle PT (R426) -/
  | ptTileReset
  /-- HT_TILE_RESET: HSH_CMD RESET of an idle HT (R426) -/
  | htTileReset
  /-- BNU_UNIT_RESET: BNU_CMD RESET of an idle BNU (R426) -/
  | bnuUnitReset
  /-- CC_CORE_RESET: CCO_CMD RESET of an idle core (R426) -/
  | ccCoreReset
  /-- CU_RESET: RST_BLK_CMD CU_RESET of an idle CU (R426) -/
  | cuReset (target : Nat)
  /-- BASIN_DRAIN: The basin stops taking new jobs (R427) -/
  | basinDrain (target : Nat)
  /-- BASIN_DRAINED: The last job homed in a draining basin retires and the basin becomes DRAINED (R427) -/
  | basinDrained (basin : Nat)
  /-- BASIN_RESET: Reset and self-test of a DRAINED basin (R427) -/
  | basinReset (target : Nat)
  /-- BASIN_RESUME: Returns a basin to IN_SERVICE, admitting waiting jobs (R427) -/
  | basinResume (target : Nat)
  /-- STAGE: FWU_CMD STAGE copies a package into the inactive slot (R442) -/
  | stage
  /-- STAGING_COMPLETE: Staging ends with the package checks; the slot becomes VALID and the state STAGED, or the slot stays INVALID (R442) -/
  | stagingComplete (pkg : Bytes) (written : Bool)
  /-- ARM: FWU_CMD ARM schedules activation at a cluster-time instant and floods FW_ACTIVATE (R443) -/
  | arm
  /-- CANCEL: FWU_CMD CANCEL disarms the device and floods the cancellation (R443) -/
  | cancel
  /-- FW_DISCARD: FWU_CMD DISCARD marks a STAGED slot INVALID (R450) -/
  | fwDiscard
  /-- REQUIRE_COSIGN: FWU_CMD REQUIRE_COSIGN burns COSIGN_REQ in OWNED (R440) -/
  | requireCosign
  /-- ACTIVATION_INSTANT: The armed instant arrives: a TRIAL record is journalled and fetching stops (R444) -/
  | activationInstant
  /-- FW_DRAIN_COMPLETE: Every outstanding job has retired before FWU_DRAIN_MS, and the warm restart begins (R444) -/
  | fwDrainComplete
  /-- FW_DRAIN_LIMIT: FWU_DRAIN_MS expires; remaining jobs end as aborts and the warm restart begins (R444) -/
  | fwDrainLimit
  /-- WARM_RESTART_DONE: The new image is loaded and tested; fetching resumes in TRIAL, or the device falls back (R444) -/
  | warmRestartDone (passed : Bool)
  /-- FW_CONFIRM: The trial's tests have passed and its job count is reached; CONFIRM is journalled and the thermometer is raised (R446) -/
  | fwConfirm
  /-- CONFIRM_WINDOW_END: FW_CONFIRM_S passes without confirmation and the device falls back (R447) -/
  | confirmWindowEnd
  /-- EVENT_COAL_TIMER: COAL_TIME_US passes since the oldest unsent occurrence and one MSI-X message is sent (R458) -/
  | eventCoalTimer (source : Nat)
  /-- EVENT_MASK_WRITE: A write of MASK through EVT_CFG or VFN_EVT_MASK; unmasking with an unsent count sends one message (R459) -/
  | eventMaskWrite (fn value : Nat)
  /-- TRIG_IN: A rising edge on TRIG_IN requests a capture (R461) -/
  | trigIn
  /-- CAPTURE: SNP_CMD CAPTURE requests a capture (R461) -/
  | capture
  /-- RELEASE: SNP_CMD RELEASE clears FROZEN (R463) -/
  | release
  /-- REPLAN: PWR_CMD REPLAN starts a re-plan of the operating voltage after step 16 (R480) -/
  | replan (meas : Measured)
  /-- SCHEDULED_REPLAN: The 24 h re-plan timer expires and a re-plan runs (R480) -/
  | scheduledReplan (meas : Measured)
  /-- REPLAN_RETRY: An hourly retry of a re-plan held off by a PMBus fault (R483) -/
  | replanRetry (meas : Measured)
  /-- VCORE_STEP: Every 100 µs the next 5 mV step of a VDD_CORE change is commanded (R476) -/
  | vcoreStep (readMv : Nat)
  /-- PMBUS_FAULT: A NACK, a PEC error or PMB_ALERT_N sets PWR_PMB_STAT and keeps the last acknowledged voltage (R476) -/
  | pmbusFault (fault : PmbFault) (word : Nat)
  /-- THERM_THRESHOLD: The junction crosses 105 °C or falls below 100 °C; THERM_N changes and event 0x055 is raised (R493) -/
  | thermThreshold (tj : Int)
  /-- PWR_SERVICE_DAYS_WRITE: Host software writes the service time, from which PWR_LIFE is estimated (R482) -/
  | pwrServiceDaysWrite (days : Nat)
  /-- READ32: Management-port read of one PF register (R495) -/
  | read32 (offset : Nat)
  /-- READ_MULTI: Management-port read of up to 8 consecutive registers (R496) -/
  | readMulti (offset count : Nat)
  /-- MGMT_SELECT: Sets the port's own copy of a selection register (R496) -/
  | mgmtSelect (offset value : Nat)
  /-- READ_AO_LOG: Reads one always-on log entry (R495) -/
  | readAoLog (index : Nat)
  /-- SMB_ALERT_RESPONSE: A read of the Alert Response Address returns the port address and releases SMB_ALERT_N (R497) -/
  | smbAlertResponse
  /-- REMOVE_REACH_DONE: A reach removal that was accepted completes within 100 ms; the reach leaves REMOVING for ABSENT and its VFs report CONFIGURED = 0 (R85) -/
  | removeReachDone (reach : Nat)
  /-- RESET_INPUT_RELEASE: RESET_N or PERST_N is released while another reset input still holds the device, and PCIe link training starts after a PERST_N release (R421) -/
  | resetInputRelease (pin : ResetPin)
  /-- ALWAYS_ON_STATE_LOST: VBAT is lost while the main supply is off, so the cover key, the always-on table, the pending summary and the always-on log are lost (R416) -/
  | alwaysOnStateLost
  /-- TRIG_OUT_PULSE_END: The 1 µs TRIG_OUT pulse of a capture request ends and the pin is deasserted (R461) -/
  | trigOutPulseEnd
  /-- LEVEE_CONDITION_CLEAR: A detector of a persistent-condition Levee source stops reporting its condition, which ends a disagreement interval and allows unlatching (R410) -/
  | leveeConditionClear (source : Nat) (detB : Bool)
  /-- LINK_FRAME_TAG_FAIL: A received Confluence frame fails its AES-GCM tag and is discarded, and TAG_FAIL is counted (R376) -/
  | linkFrameTagFail (port : Nat)
  /-- PORT_TRAINING_DONE: A port's training or retraining ends, and the port becomes TRAINED and starts sending PROBEs, or stays DOWN (R372) -/
  | portTrainingDone (port lanes : Nat)
  deriving DecidableEq, Repr

end Sys2Proof
end

