-- ==== Sys2Proof/Config.lean ====
section
/-! DEFINITION. What the manual leaves to standards it names, to silicon contents it does not print and to values it
does not state. Every constant here is opaque: it has no body, so no proof can see its value, and a statement that
mentions one holds whatever it is. Each is named in a row of the assumption log. Functions that the manual fixes, and
the standards the model computes, live under Machine/ with a body. -/

namespace Sys2Proof

/-! ## Random subsystem -/

/-- The bytes of the 32-bit LFSR pattern from a register value on, and the register after them: the manual gives no
polynomial (R284, log entry 20). -/
opaque Config.patternBytes : BitVec 32 → Nat → Bytes
opaque Config.patternNext : BitVec 32 → Nat → BitVec 32

/-- A mask expander's state after it absorbs a seed, its tile index and its reseed count into its old state (R273): the
manual gives the Keccak-p[400] sponge without its padding (log entry 21). -/
opaque Config.expanderAbsorb : Bytes → Bytes → Nat → Nat → Bytes

/-! ## Microcode (log entry 24) -/

/-- The control ROM of an engine type: 0 PT, 1 HT, 2 BNU, 3 CU; by address (R316). -/
opaque Config.romWord : Nat → Nat → BitVec 192

/-- The 64 public flags of a node, from its ARG and its job's opcode (R319). -/
opaque Config.publicFlags : Nat → Nat → Nat

/-- What a datapath word writes where R321 does not say, by engine type, word and its two operands; and the bytes a move
word of a binary-field profile transfers. -/
opaque Config.datapath : Nat → BitVec 192 → Bytes → Bytes → Bytes
opaque Config.moveLen : BitVec 192 → Nat

/-- The comparator's bit, by word, the bit before it, and the values compared: R205 states no relation (R212, R214). -/
opaque Config.compared : BitVec 192 → Bool → List Nat → List Nat → Bool

/-- The shares of key material as the hot store delivers them: element by share number behind the first (R213, R321). -/
opaque Config.slotShare : Bytes → Nat → Nat → Nat

/-- The 1 KiB regions of local memory in which a PT routine leaves results for a dependant one, one bit each (R132, R226). By the
two addresses. -/
opaque Config.passedRegions : Nat → Nat → Nat

/-- What a built-in routine refreshes, in polynomials, or permutes, by node class, opcode, masking order and input length; and
the NTT layers it shuffles (R216, R236, R273). -/
opaque Config.maskSteps : Nat → Nat → Nat → Nat → Nat
opaque Config.shuffledLayers : Nat → Nat → Nat → Nat → Nat

/-- The share registers behind the first after a masked permutation or compression: by function, the shares before it, the
drawn bytes and the share's number (R215, R234). -/
opaque Config.maskedShare : Nat → List Bytes → Bytes → Nat → Bytes

/-- A descriptor of a list that a built-in template builds, by opcode, node and index (R232). -/
opaque Config.builtinDesc : Nat → Nat → Nat → Bytes

/-- What the IMM of a BNU load names: 0 a slot, 1 a staging offset, else a constant (R321). -/
opaque Config.bnuLoad : BitVec 192 → Nat

/-- The 2 KiB record of a context by its numbers (function, order, byte count, list position, reach, job tag), its state's shares
and its buffer's shares: R237 gives it no layout. -/
opaque Config.ctxRecord : List Nat → List Bytes → List Bytes → Bytes

/-- The longest run of a built-in routine in FCLK cycles, by node class, opcode, masking order and input length: the
manual bounds some and states none (R134, R136, R149, log entry 36). -/
opaque Config.routineCycles : Nat → Nat → Nat → Nat → Nat

/-- The profile that a PT routine selects, by its address (R207). -/
opaque Config.routineProfile : Nat → Nat

/-- MCS_ROM_ID of an engine type (R333, log entry 7). -/
opaque Config.romId : Nat → Nat

/-! ## Snapshots (log entry 29)

The words of a block's snapshot and how many they are: by view (FULL or STATE), CLASS, INSTANCE; a word also by the number
of the capture and its index (R464, R470). -/

opaque Config.snpWords : Bool → Nat → Nat → Nat
opaque Config.snpWord : Nat → Bool → Nat → Nat → Nat → Nat

/-! ## Control cores (log entry 26) -/

/-- FMIN (false) and FMAX (true): do they answer the NaN where one operand is a NaN, and the first where both are zeros of
different sign (R351)? -/
opaque Config.floatMinMax : Bool → BitVec 64 → BitVec 64 → Bool

/-- A vector shift (0 left, 1 logical right, 2 arithmetic right) of an element of the given width by its width or more. -/
opaque Config.vectorShift : Nat → Nat → Nat → Nat → Nat

/-- Cycles of a control core that R336 and R347 do not state: of a division (at most 66 count), by FN and operands; of
cache misses, by core, address and cycle; the latency of an instruction that the table does not list, by OP and FN. -/
opaque Config.divCycles : Nat → BitVec 64 → BitVec 64 → Nat
opaque Config.missCycles : Nat → Nat → Nat → Nat
opaque Config.coreLatency : Nat → Nat → Nat

/-! ## Firmware packages (log entry 27)

A component's internal format and stepping tag (R442, check 0x0A), by TYPE, stepping and bytes; and what a package holds,
by its package digest: SHA3-384 of a component, and of the patch bundle the level, words, match registers and digest by
engine type. -/

opaque Config.componentOk : Nat → Nat → Bytes → Bool
opaque Config.romIdentity : Bytes
opaque Config.imageDigest : Bytes → Nat → Bytes
opaque Config.patchLevel : Bytes → Nat → Nat
opaque Config.patchWords : Bytes → Nat → List (BitVec 192)
opaque Config.patchMatches : Bytes → Nat → List (Nat × Nat)
opaque Config.patchDigest : Bytes → Nat → Bytes

/-! ## Confluence and key store -/

/-- The 12-byte IV under which a key travels wrapped by the cluster key, by message number (log entry 16). -/
opaque Config.copyIv : Nat → Bytes

/-- The header of a Confluence frame, by message class and length: R376 gives it no layout (log entry 16). -/
opaque Config.frameHeader : Nat → Nat → List (BitVec 8)

/-- A certificate chain: does it verify to the Carlek root whose digest is in fuses, and the two public keys it certifies
(R374, R375); and FINISH's confirmation tag under the new keys and their transcript (R373) (log entry 16). -/
opaque Config.chainOk : Bytes → Bool
opaque Config.chainKeys : Bytes → Bytes × Bytes
opaque Config.finishTag : Bytes → Bytes → Bytes

/-- The random share of a key's material behind the first, by the count of sharings and its number: fresh masking randomness
(R291, log entry 23). -/
opaque Config.keyShare : Nat → Nat → Bytes

/-- The 64-byte unit at which a slot's material lies in a store: KST_DESC's LOC (log entry 23). -/
opaque Config.locUnit : Nat → Nat

/-- The line code's field polynomial below x^16, and the first of its generator's roots as a power of x: R357 names the
code alone. What the decoder makes of a codeword with three symbols or more in error, by the codeword and the bits that
differ: the line it delivers, or none (R358). -/
opaque Config.codePoly : BitVec 16
opaque Config.codeRoot : Nat
opaque Config.beyondCode : List Nat → List Nat → Option (List (BitVec 8))

/-- Where things lie that the manual gives no place (R336, R359, R367): the reach that holds a line of the shared device
reserve, 64 for the device; the first reserve line of a program's image, of a node's spilled hash context, and the first
line of a key's entry in a cache of its reach. -/
opaque Config.reserveHolder : Nat → Nat
opaque Config.progLine : Nat → Nat
opaque Config.ctxLine : Nat → Nat → Nat
opaque Config.cacheLine : Nat → Nat → Nat

/-- The trees of a stateful key as the tree cache holds them, from its material; their layout is open (R177, log entry 91). -/
opaque Config.treeImage : Bytes → Bytes

/-- The line of the vault's material area at which a slot's vault copy begins (R291, log entry 23). -/
opaque Config.vaultLine : Nat → Nat

/-! ## What the standards leave to an implementation (log entry 22) -/

/-- The randomizer C of an LMS signature, by I, SEED and q, and I ‖ SEED of a lower tree of an HSS key, by the top tree's
I ‖ SEED, the level and the index path above it: R176 says that they follow from the seed and not how. -/
opaque Config.lmsRandomizer : Bytes → Bytes → Nat → Bytes
opaque Config.hssChild : Bytes → Nat → Nat → Bytes

/-- The bytes of a McEliece Encaps's draws behind its first one, by variant and number: the specification draws anew when a
draw gives no error vector. -/
opaque Config.mceRedraw : Nat → Bytes → Nat → Bytes

/-- What stands for the point at infinity of a P-curve, which has no encoding, when an imported private key is a multiple of
the order; and the keyed hash of deterministic ECDSA under a SHAKE code. -/
opaque Config.noPoint : Nat → Bytes
opaque Config.xofMac : Bytes → Bytes → Bytes

/-- RSA key generation by drawn bytes and number (R192): the candidates, the bases of their primality tests and how many
tests a length takes, and what stands for a prime when every candidate fails. -/
opaque Config.rsaCandidate : Bytes → Nat → Nat
opaque Config.rsaBase : Bytes → Nat → Nat → Nat
opaque Config.rsaTests : Nat → Nat
opaque Config.rsaSpare : Bytes → Nat → Nat

/-- The Vendor ID that PCI-SIG assigned to Carlek, and the Revision ID (R72). -/
opaque Config.vendorId : BitVec 16
opaque Config.revisionId : BitVec 8

/-- RS, 256 bits of the fuse array (R287): no view of the device shows it. -/
opaque Config.rootSecret : Bytes

end Sys2Proof
end

