-- ==== Sys2Proof/Machine/Hash.lean ====
section
/-! DEFINITION. The hash functions, MACs and key derivations of the standards the manual names (R184, R194, R197,
R244, R288, R376, R394): SHA-2 (FIPS 180-4), SHA-3, SHAKE, cSHAKE and KMAC (FIPS 202, SP 800-185), HMAC, HKDF and the
counter-mode KDF of SP 800-108. -/

namespace Sys2Proof.Machine

open Sys2Proof

/-! ## Keccak -/

abbrev Lanes := List (BitVec 64)

/-- Lanes of any width: 64 bits in Keccak-f[1600], 16 in Keccak-p[400] (R273). -/
abbrev LanesOf (w : Nat) := List (BitVec w)

def keccakRc : List (BitVec 64) :=
  [0x0000000000000001, 0x0000000000008082, 0x800000000000808A, 0x8000000080008000, 0x000000000000808B,
   0x0000000080000001, 0x8000000080008081, 0x8000000000008009, 0x000000000000008A, 0x0000000000000088,
   0x0000000080008009, 0x000000008000000A] ++
  [0x000000008000808B, 0x800000000000008B, 0x8000000000008089, 0x8000000000008003, 0x8000000000008002,
   0x8000000000000080, 0x000000000000800A, 0x800000008000000A, 0x8000000080008081, 0x8000000000008080,
   0x0000000080000001, 0x8000000080008008]

/-- Rotation offsets of lane x + 5 y. -/
def keccakRot : List Nat :=
  [0, 1, 62, 28, 27, 36, 44, 6, 55, 20, 3, 10, 43, 25, 39] ++ [41, 45, 15, 21, 8, 18, 2, 61, 56, 14]

def lane {w : Nat} (a : LanesOf w) (x y : Nat) : BitVec w := a.getD (x % 5 + 5 * (y % 5)) 0

def mkLanes {w : Nat} (f : Nat → Nat → BitVec w) : LanesOf w := (List.range 25).map fun i => f (i % 5) (i / 5)

def keccakRound {w : Nat} (a : LanesOf w) (rc : BitVec 64) : LanesOf w :=
  let c := (List.range 5).map fun x => (List.range 5).foldl (fun v y => v ^^^ lane a x y) 0
  let d := (List.range 5).map fun x => c.getD ((x + 4) % 5) 0 ^^^ (c.getD ((x + 1) % 5) 0).rotateLeft 1
  let t := mkLanes fun x y => lane a x y ^^^ d.getD x 0
  -- rho and pi: B[y, 2x + 3y] = rot(A[x, y])
  let b := mkLanes fun x y =>
    let sx := (x + 3 * y) % 5
    (lane t sx x).rotateLeft (keccakRot.getD (sx + 5 * x) 0 % w)
  let e := mkLanes fun x y => lane b x y ^^^ (~~~(lane b (x + 1) y) &&& lane b (x + 2) y)
  match e with
  | [] => []
  | h :: r => (h ^^^ rc.setWidth w) :: r

def keccakF (a : Lanes) : Lanes := keccakRc.foldl keccakRound a

/-- 64-bit little-endian lanes of a byte string. -/
def toLanes : Nat → Bytes → Lanes
  | 0, _ => []
  | n + 1, bs => BitVec.ofNat 64 (leNat (bs.take 8)) :: toLanes n (bs.drop 8)

def ofLanes (a : Lanes) : Bytes := a.flatMap fun l => toLe 8 l.toNat

/-- Keccak-p[400] with 12 rounds, its last ones, on 50 bytes (R273). -/
def keccak400 (b : Bytes) : Bytes :=
  let a : LanesOf 16 := (List.range 25).map fun i => BitVec.ofNat 16 (leNat (slice b (2 * i) 2))
  ((keccakRc.drop 8).take 12 |>.foldl keccakRound a).flatMap fun l => toLe 2 l.toNat

/-- `bs` cut into blocks of `n` bytes; a short last block stands as it is. -/
def blocks : Nat → Nat → Bytes → List Bytes
  | 0, _, _ => []
  | f + 1, n, bs => if bs.isEmpty then [] else bs.take n :: blocks f n (bs.drop n)

def blocksOf (n : Nat) (bs : Bytes) : List Bytes := blocks (bs.length / n + 1) n bs

def xorLanes (a b : Lanes) : Lanes := (a.zip b).map fun p => p.1 ^^^ p.2

/-- Padding with the domain byte and the final 1 bit. -/
def keccakPad (rate dom : Nat) (m : Bytes) : Bytes :=
  let n := rate - m.length % rate
  if n = 1 then m ++ [BitVec.ofNat 8 (dom + 0x80)]
  else m ++ [BitVec.ofNat 8 dom] ++ zeros (n - 2) ++ [0x80]

def squeeze (rate : Nat) : Nat → Lanes → Bytes
  | 0, _ => []
  | f + 1, a => (ofLanes a).take rate ++ squeeze rate f (keccakF a)

/-- The sponge with a rate in bytes, a domain byte and an output length. -/
def sponge (rate dom : Nat) (m : Bytes) (out : Nat) : Bytes :=
  let a := (blocksOf rate (keccakPad rate dom m)).foldl
    (fun st blk => keccakF (xorLanes st (toLanes 25 (blk ++ zeros (200 - rate))))) (List.replicate 25 0)
  (squeeze rate (out / rate + 1) a).take out

def sha3_224 (m : Bytes) : Bytes := sponge 144 6 m 28
def sha3_256 (m : Bytes) : Bytes := sponge 136 6 m 32
def sha3_384 (m : Bytes) : Bytes := sponge 104 6 m 48
def sha3_512 (m : Bytes) : Bytes := sponge 72 6 m 64
def shake128 (m : Bytes) (out : Nat) : Bytes := sponge 168 0x1F m out
def shake256 (m : Bytes) (out : Nat) : Bytes := sponge 136 0x1F m out

/-- Fewest bytes that hold `n`, at least one. -/
def byteLen (n : Nat) : Nat := max 1 ((n.log2 + 8) / 8)

def leftEncode (n : Nat) : Bytes := BitVec.ofNat 8 (byteLen n) :: toBe (byteLen n) n
def rightEncode (n : Nat) : Bytes := toBe (byteLen n) n ++ [BitVec.ofNat 8 (byteLen n)]
def encodeString (s : Bytes) : Bytes := leftEncode (8 * s.length) ++ s
def bytepad (x : Bytes) (w : Nat) : Bytes :=
  let y := leftEncode w ++ x
  y ++ zeros ((w - y.length % w) % w)

/-- cSHAKE with rate 168 (128) or 136 (256). -/
def cshake (rate : Nat) (m : Bytes) (out : Nat) (n s : Bytes) : Bytes :=
  if n.isEmpty && s.isEmpty then sponge rate 0x1F m out
  else sponge rate 0x04 (bytepad (encodeString n ++ encodeString s) rate ++ m) out

def cshake128 := cshake 168
def cshake256 := cshake 136

def kmac (rate : Nat) (key m : Bytes) (out : Nat) (s : Bytes) : Bytes :=
  cshake rate (bytepad (encodeString key) rate ++ m ++ rightEncode (8 * out)) out (ascii "KMAC") s

def kmac128 := kmac 168
def kmac256 := kmac 136

/-! ## SHA-2

FIPS 180-4 says where its constants come from: fractions of the cube and square roots of the first primes. -/

def isPrimeSmall (n : Nat) : Bool := 2 ≤ n && (List.range n).all fun d => d < 2 || n % d != 0

/-- The first 80 primes. -/
def primes80 : List Nat := (List.range 410).filter isPrimeSmall

/-- The greatest `r` with `r ^ e ≤ x`, its bits found from the top one down. -/
def rootOf (e x : Nat) : Nat → Nat → Nat
  | 0, r => r
  | b + 1, r => rootOf e x b (if (r + 2 ^ b) ^ e ≤ x then r + 2 ^ b else r)

/-- The first 64 bits of the fraction of the `e`-th root of a small number. -/
def rootFraction (e p : Nat) : Nat := rootOf e (p * 2 ^ (64 * e)) 70 0 % 2 ^ 64

/-- What tells the two word sizes of SHA-2 apart: bits of a word, rounds, bytes of the length field, and the two rotations
and the shift of σ0 and σ1 and the three rotations of Σ0 and Σ1. -/
structure Sha2 where
  width : Nat
  rounds : Nat
  lenBytes : Nat
  sched0 : Nat × Nat × Nat
  sched1 : Nat × Nat × Nat
  sum0 : Nat × Nat × Nat
  sum1 : Nat × Nat × Nat
  deriving DecidableEq, Repr

def sha2w32 : Sha2 :=
  { width := 32, rounds := 64, lenBytes := 8, sched0 := (7, 18, 3), sched1 := (17, 19, 10), sum0 := (2, 13, 22),
    sum1 := (6, 11, 25) }

def sha2w64 : Sha2 :=
  { width := 64, rounds := 80, lenBytes := 16, sched0 := (1, 8, 7), sched1 := (19, 61, 6), sum0 := (28, 34, 39),
    sum1 := (14, 18, 41) }

/-- A word rotated right. -/
def Sha2.spin (h : Sha2) (x n : Nat) : Nat := x / 2 ^ n + x % 2 ^ n * 2 ^ (h.width - n)

def Sha2.smallSigma (h : Sha2) (r : Nat × Nat × Nat) (x : Nat) : Nat :=
  Nat.xor (Nat.xor (h.spin x r.1) (h.spin x r.2.1)) (x / 2 ^ r.2.2)

def Sha2.bigSigma (h : Sha2) (r : Nat × Nat × Nat) (x : Nat) : Nat :=
  Nat.xor (Nat.xor (h.spin x r.1) (h.spin x r.2.1)) (h.spin x r.2.2)

/-- Sum modulo the word size. -/
def Sha2.total (h : Sha2) (xs : List Nat) : Nat := xs.sum % 2 ^ h.width

/-- Σ1 and Ch of the words e, f, g of the state, behind h. -/
def Sha2.mixLow (h : Sha2) (v : List Nat) : Nat :=
  let x (i : Nat) : Nat := v.getD i 0
  -- bit by bit f where e is set, else g
  h.total [x 7, h.bigSigma h.sum1 (x 4), Nat.xor (x 6) (Nat.land (x 4) (Nat.xor (x 5) (x 6)))]

/-- Σ0 and Maj of the words a, b, c. -/
def Sha2.mixHigh (h : Sha2) (v : List Nat) : Nat :=
  let x (i : Nat) : Nat := v.getD i 0
  h.total [h.bigSigma h.sum0 (x 0), Nat.lor (Nat.land (x 0) (x 1)) (Nat.land (x 2) (Nat.lor (x 0) (x 1)))]

/-- One round: the eight working words, and the window of the next 16 schedule words that moves on by one. -/
def Sha2.turn (h : Sha2) (st : List Nat × List Nat) (prime : Nat) : List Nat × List Nat :=
  let k := rootFraction 3 prime / 2 ^ (64 - h.width)
  let w (i : Nat) : Nat := st.2.getD i 0
  let t := h.total [h.mixLow st.1, k, w 0]
  let next := h.total [w 0, h.smallSigma h.sched0 (w 1), w 9, h.smallSigma h.sched1 (w 14)]
  let moved := (h.total [t, h.mixHigh st.1] :: st.1.take 7).set 4 (h.total [st.1.getD 3 0, t])
  (moved, st.2.drop 1 ++ [next])

/-- Big-endian words of a block. -/
def Sha2.wordsOf (h : Sha2) (blk : Bytes) : List Nat :=
  (List.range 16).map fun i => beNat (slice blk (i * (h.width / 8)) (h.width / 8))

def Sha2.compress (h : Sha2) (v : List Nat) (blk : Bytes) : List Nat :=
  let r := (primes80.take h.rounds).foldl h.turn (v, h.wordsOf blk)
  (v.zip r.1).map fun p => h.total [p.1, p.2]

/-- The message with its one bit, zeros and length. -/
def Sha2.padded (h : Sha2) (m : Bytes) : Bytes :=
  let n := 2 * h.width
  m ++ [0x80] ++ zeros ((2 * n - (m.length + 1 + h.lenBytes) % n) % n) ++ toBe h.lenBytes (8 * m.length)

def Sha2.digest (h : Sha2) (iv : List Nat) (out : Nat) (m : Bytes) : Bytes :=
  (((blocksOf (2 * h.width) (h.padded m)).foldl h.compress iv).flatMap fun x => toBe (h.width / 8) x).take out

/-- Fractions of the square roots of the first eight primes, and of the next eight. -/
def ivFirst : List Nat := (primes80.take 8).map (rootFraction 2)
def ivNext : List Nat := ((primes80.drop 8).take 8).map (rootFraction 2)

def sha256 : Bytes → Bytes := sha2w32.digest (ivFirst.map fun x => x / 2 ^ 32) 32
def sha224 : Bytes → Bytes := sha2w32.digest (ivNext.map fun x => x % 2 ^ 32) 28
def sha512 : Bytes → Bytes := sha2w64.digest ivFirst 64
def sha384 : Bytes → Bytes := sha2w64.digest ivNext 48

/-- The initial words of SHA-512/t: SHA-512 of its name under masked initial words. -/
def ivOfName (name : String) : List Nat :=
  let d := sha2w64.digest (ivFirst.map fun x => Nat.xor x (beNat (List.replicate 8 0xA5))) 64 (ascii name)
  (List.range 8).map fun i => beNat (slice d (8 * i) 8)

def sha512_224 : Bytes → Bytes := sha2w64.digest (ivOfName "SHA-512/224") 28
def sha512_256 : Bytes → Bytes := sha2w64.digest (ivOfName "SHA-512/256") 32

/-! ## The Hash variants of R184 -/

/-- Digest of Hash variants 0 to 9. -/
def hashVar (v : Nat) (m : Bytes) : Bytes :=
  match v with
  | 0 => sha224 m | 1 => sha256 m | 2 => sha384 m | 3 => sha512 m | 4 => sha512_224 m | 5 => sha512_256 m
  | 6 => sha3_224 m | 7 => sha3_256 m | 8 => sha3_384 m | _ => sha3_512 m

/-- Block size in bytes of Hash variants 0 to 9 (HMAC). -/
def hashBlock (v : Nat) : Nat :=
  match v with
  | 0 | 1 => 64 | 2 | 3 | 4 | 5 => 128 | 6 => 144 | 7 => 136 | 8 => 104 | _ => 72

def xorBytes (a b : Bytes) : Bytes := (a.zip b).map fun p => p.1 ^^^ p.2

def hmac (v : Nat) (key m : Bytes) : Bytes :=
  let b := hashBlock v
  let k := fit b (if b < key.length then hashVar v key else key)
  let ipad := xorBytes k (List.replicate b 0x36)
  let opad := xorBytes k (List.replicate b 0x5C)
  hashVar v (opad ++ hashVar v (ipad ++ m))

def hkdfExtract (v : Nat) (salt ikm : Bytes) (hlen : Nat) : Bytes :=
  hmac v (if salt.isEmpty then zeros hlen else salt) ikm

def hkdfSteps (v : Nat) (prk info : Bytes) : Nat → Nat → Bytes → Bytes
  | 0, _, _ => []
  | f + 1, i, t =>
    let t' := hmac v prk (t ++ info ++ [BitVec.ofNat 8 i])
    t' ++ hkdfSteps v prk info f (i + 1) t'

def hkdfExpandOut (v : Nat) (prk info : Bytes) (out hlen : Nat) : Bytes :=
  (hkdfSteps v prk info (out / hlen + 1) 1 []).take out

/-- Counter-mode KDF: [i]_32 before the fixed input, L in bits after (SP 800-108). -/
def kdfCounter (v : Nat) (key label ctx : Bytes) (out hlen : Nat) : Bytes :=
  ((List.range (out / hlen + 1)).flatMap fun i =>
    hmac v key (toBe 4 (i + 1) ++ label ++ [0] ++ ctx ++ toBe 4 (8 * out))).take out

end Sys2Proof.Machine
end

