-- ==== Sys2Proof/Machine/Aes.lean ====
section
/-! DEFINITION. AES and the modes the manual names: GCM, CTR and XTS (R196, R303, R359, R376), CMAC (R360), and
CTR_DRBG with AES-256 and the derivation function of SP 800-90A (R270). -/

namespace Sys2Proof.Machine

open Sys2Proof

/-! ## The cipher -/

def xtime (b : Byte) : Byte := if b.getLsbD 7 then (b <<< 1) ^^^ 0x1B else b <<< 1

/-- Product in GF(2^8), low bit of `b` first. -/
def gmulGo : Nat → Byte → Byte → Byte
  | 0, _, _ => 0
  | n + 1, a, b => (if b.getLsbD 0 then a else 0) ^^^ gmulGo n (xtime a) (b >>> 1)

def gmul (a b : Byte) : Byte := gmulGo 8 a b

/-- The inverse in GF(2^8) as the 254th power; 0 for 0. -/
def ginv (a : Byte) : Byte :=
  let a2 := gmul a a
  let a4 := gmul a2 a2
  let a8 := gmul a4 a4
  let a16 := gmul a8 a8
  let a32 := gmul a16 a16
  let a64 := gmul a32 a32
  let a128 := gmul a64 a64
  gmul a2 (gmul a4 (gmul a8 (gmul a16 (gmul a32 (gmul a64 a128)))))

def subByte (a : Byte) : Byte :=
  let x := ginv a
  x ^^^ x.rotateLeft 1 ^^^ x.rotateLeft 2 ^^^ x.rotateLeft 3 ^^^ x.rotateLeft 4 ^^^ 0x63

def invSubByte (a : Byte) : Byte :=
  ginv (a.rotateLeft 1 ^^^ a.rotateLeft 3 ^^^ a.rotateLeft 6 ^^^ 0x05)

/-- Round constants. -/
def rcon : Nat → Byte
  | 0 => 1
  | n + 1 => xtime (rcon n)

/-- The key schedule as words, newest first, for a key of `nk` words. -/
def expandWords (nk : Nat) : Nat → Nat → List Bytes → List Bytes
  | 0, _, w => w
  | n + 1, i, w =>
    let t := w.headD []
    let t := if i % nk = 0 then
        match t.map subByte with
        | [a, b, c, d] => [b ^^^ rcon (i / nk - 1), c, d, a]
        | x => x
      else if nk = 8 && i % nk = 4 then t.map subByte else t
    expandWords nk n (i + 1) (xorBytes (w.getD (nk - 1) []) t :: w)

/-- The round keys of a 16- or 32-byte key. -/
def roundKeys (key : Bytes) : List Bytes :=
  let nk := key.length / 4
  let total := 4 * (nk + 7)
  let w := (expandWords nk (total - nk) nk (blocksOf 4 key).reverse).reverse
  blocksOf 16 w.flatten

def shiftRows (s : Bytes) : Bytes := (List.range 16).map fun i => s.getD ((i + 4 * (i % 4)) % 16) 0
def invShiftRows (s : Bytes) : Bytes := (List.range 16).map fun i => s.getD ((i + 16 - 4 * (i % 4)) % 16) 0

def mixWith (m0 m1 m2 m3 : Byte) (s : Bytes) : Bytes :=
  (List.range 16).map fun i =>
    let c := i / 4 * 4
    let g (k : Nat) := s.getD (c + (i + k) % 4) 0
    gmul m0 (g 0) ^^^ gmul m1 (g 1) ^^^ gmul m2 (g 2) ^^^ gmul m3 (g 3)

def mixColumns := mixWith 2 3 1 1
def invMixColumns := mixWith 14 11 13 9

def encRounds : List Bytes → Bytes → Bytes
  | [], s => s
  | [k], s => xorBytes (shiftRows (s.map subByte)) k
  | k :: k' :: ks, s => encRounds (k' :: ks) (xorBytes (mixColumns (shiftRows (s.map subByte))) k)

def aesEnc (key blk : Bytes) : Bytes :=
  match roundKeys key with
  | [] => blk
  | k :: ks => encRounds ks (xorBytes blk k)

def decRounds : List Bytes → Bytes → Bytes
  | [], s => s
  | [k], s => xorBytes s k
  | k :: k' :: ks, s => decRounds (k' :: ks) ((invShiftRows (invMixColumns (xorBytes s k))).map invSubByte)

def aesDec (key blk : Bytes) : Bytes :=
  match (roundKeys key).reverse with
  | [] => blk
  | k :: ks => decRounds ks ((invShiftRows (xorBytes blk k)).map invSubByte)

/-! ## CTR and GCM -/

/-- The keystream from a counter block that increments its low `bits` bits big-endian. -/
def ctrStream (key : Bytes) (bits : Nat) : Nat → Nat → Bytes
  | 0, _ => []
  | n + 1, c =>
    aesEnc key (toBe 16 c) ++ ctrStream key bits n (c / 2 ^ bits * 2 ^ bits + (c + 1) % 2 ^ bits)

/-- CTR with a 128-bit big-endian counter modulo 2^128 (R196). -/
def aesCtr (key iv data : Bytes) : Bytes := xorBytes data (ctrStream key 128 (data.length / 16 + 1) (beNat iv))

/-- Product in GF(2^128) of GCM: `x` bit by bit from its most significant. -/
def ghashMulGo : Nat → BitVec 128 → BitVec 128 → BitVec 128 → BitVec 128
  | 0, _, _, z => z
  | n + 1, x, v, z =>
    ghashMulGo n (x <<< 1) (if v.getLsbD 0 then (v >>> 1) ^^^ (0xE1#128 <<< 120) else v >>> 1)
      (if x.getLsbD 127 then z ^^^ v else z)

def ghashMul (x y : BitVec 128) : BitVec 128 := ghashMulGo 128 x y 0

def ghash (h : BitVec 128) (data : Bytes) : BitVec 128 :=
  (blocksOf 16 data).foldl (fun y b => ghashMul (y ^^^ BitVec.ofNat 128 (beNat (fit 16 b))) h) 0

def pad16 (b : Bytes) : Bytes := b ++ zeros ((16 - b.length % 16) % 16)

/-- The full tag of GCM with a 12-byte IV. -/
def gcmTag (key iv aad c : Bytes) : Bytes :=
  let h := BitVec.ofNat 128 (beNat (aesEnc key (zeros 16)))
  let s := ghash h (pad16 aad ++ pad16 c ++ toBe 8 (8 * aad.length) ++ toBe 8 (8 * c.length))
  xorBytes (toBe 16 s.toNat) (aesEnc key (iv ++ [0, 0, 0, 1]))

def gcmCrypt (key iv p : Bytes) : Bytes :=
  xorBytes p (ctrStream key 32 (p.length / 16 + 1) (beNat (iv ++ [0, 0, 0, 2])))

/-- Ciphertext and tag of `tagLen` bytes. -/
def gcmSeal (key iv aad p : Bytes) (tagLen : Nat) : Bytes × Bytes :=
  let c := gcmCrypt key iv p
  (c, (gcmTag key iv aad c).take tagLen)

/-- The plaintext when the tag matches. -/
def gcmOpen (key iv aad c tag : Bytes) : Option Bytes :=
  if (gcmTag key iv aad c).take tag.length = tag then some (gcmCrypt key iv c) else none

/-! ## XTS (IEEE 1619) -/

/-- Multiplies a tweak by α, bytes little-endian. -/
def xtsNext (t : Nat) : Nat := if t.testBit 127 then (2 * t % 2 ^ 128) ^^^ 0x87 else 2 * t

def xtsBlock (f : Bytes → Bytes) (t : Nat) (b : Bytes) : Bytes :=
  xorBytes (f (xorBytes b (toLe 16 t))) (toLe 16 t)

/-- Whole blocks, then ciphertext stealing for a short last block. -/
def xtsEncGo (f : Bytes → Bytes) : Nat → Nat → Bytes → Bytes
  | 0, _, _ => []
  | n + 1, t, p =>
    if p.length < 32 then
      let c := xtsBlock f t (p.take 16)
      let r := p.drop 16
      if r.isEmpty then c
      else xtsBlock f (xtsNext t) (r ++ c.drop r.length) ++ c.take r.length
    else xtsBlock f t (p.take 16) ++ xtsEncGo f n (xtsNext t) (p.drop 16)

def xtsDecGo (f : Bytes → Bytes) : Nat → Nat → Bytes → Bytes
  | 0, _, _ => []
  | n + 1, t, c =>
    if c.length < 32 then
      let r := c.drop 16
      if r.isEmpty then xtsBlock f t c
      else
        let p := xtsBlock f (xtsNext t) (c.take 16)
        xtsBlock f t (r ++ p.drop r.length) ++ p.take r.length
    else xtsBlock f t (c.take 16) ++ xtsDecGo f n (xtsNext t) (c.drop 16)

def xtsEnc (key tweak p : Bytes) : Bytes :=
  let k1 := key.take (key.length / 2)
  let k2 := key.drop (key.length / 2)
  xtsEncGo (aesEnc k1) (p.length / 16 + 1) (leNat (aesEnc k2 (fit 16 tweak))) p

def xtsDec (key tweak c : Bytes) : Bytes :=
  let k1 := key.take (key.length / 2)
  let k2 := key.drop (key.length / 2)
  xtsDecGo (aesDec k1) (c.length / 16 + 1) (leNat (aesEnc k2 (fit 16 tweak))) c

/-! ## CMAC (SP 800-38B) -/

/-- Doubling in GF(2^128) of CMAC's subkeys (SP 800-38B). -/
def cmacDouble (x : Nat) : Nat := if x.testBit 127 then (2 * x % 2 ^ 128) ^^^ 0x87 else 2 * x

/-- AES-CMAC (SP 800-38B). -/
def aesCmac (key m : Bytes) : Bytes :=
  let k1 := cmacDouble (beNat (aesEnc key (zeros 16)))
  let n := max 1 (ceilDiv m.length 16)
  let tail := m.drop (16 * (n - 1))
  let final := if tail.length = 16 then xorBytes tail (toBe 16 k1)
    else xorBytes (fit 16 (tail ++ [0x80])) (toBe 16 (cmacDouble k1))
  let c := (blocksOf 16 (m.take (16 * (n - 1)))).foldl (fun c b => aesEnc key (xorBytes c b)) (zeros 16)
  aesEnc key (xorBytes c final)

/-! ## CTR_DRBG with AES-256 and the derivation function (SP 800-90A) -/

/-- CBC-MAC of the derivation function. -/
def bcc (key data : Bytes) : Bytes := (blocksOf 16 data).foldl (fun c b => aesEnc key (xorBytes c b)) (zeros 16)

def dfKey : Bytes := (List.range 32).map fun i => BitVec.ofNat 8 i

/-- `n` output blocks of the derivation function under its second key. -/
def dfOut (k : Bytes) : Nat → Bytes → Bytes
  | 0, _ => []
  | n + 1, x => let y := aesEnc k x; y ++ dfOut k n y

/-- The derivation function to 48 bytes. -/
def drbgDf (input : Bytes) : Bytes :=
  let s := pad16 (toBe 4 input.length ++ toBe 4 48 ++ input ++ [0x80])
  let t := (List.range 3).flatMap fun i => bcc dfKey (toBe 4 i ++ zeros 12 ++ s)
  dfOut (t.take 32) 3 (slice t 32 16)

/-- The update of (Key, V) with 48 bytes of provided data. -/
def drbgUpdate (key v data : Bytes) : Bytes × Bytes :=
  let t := xorBytes ((List.range 3).flatMap fun i => aesEnc key (toBe 16 ((beNat v + 1 + i) % 2 ^ 128))) data
  (t.take 32, t.drop 32)

def drbgInit (entropy nonce pers : Bytes) : Bytes × Bytes :=
  drbgUpdate (zeros 32) (zeros 16) (drbgDf (entropy ++ nonce ++ pers))

def drbgReseedKv (key v entropy extra : Bytes) : Bytes × Bytes := drbgUpdate key v (drbgDf (entropy ++ extra))

/-- `n` bytes of output and the state after the request. -/
def drbgGen (key v : Bytes) (n : Nat) : Bytes × Bytes × Bytes :=
  let m := ceilDiv n 16
  let out := ((List.range m).flatMap fun i => aesEnc key (toBe 16 ((beNat v + 1 + i) % 2 ^ 128))).take n
  let kv := drbgUpdate key (toBe 16 ((beNat v + m) % 2 ^ 128)) (zeros 48)
  (out, kv.1, kv.2)

end Sys2Proof.Machine
end

