-- ==== Sys2Proof/Machine/Memory.lean ====
section
/-! DEFINITION. Byte memories in their canonical form: addresses strictly rising, and no entry that holds 0, which is what
an unlisted address reads as (R362, and R226, R341 for tile memory and scratch, which are zeroed). -/

namespace Sys2Proof.Machine

open Sys2Proof

/-- The byte at an address. -/
def memGet : List Host.Cell → Nat → Byte
  | [], _ => 0
  | (k, v) :: t, a => if k = a then v else if a < k then 0 else memGet t a

/-- Writes one byte; a zero leaves the list. -/
def memSet : List Host.Cell → Nat → Byte → List Host.Cell
  | [], a, b => if b = 0 then [] else [(a, b)]
  | (k, v) :: t, a, b =>
    if a < k then (if b = 0 then (k, v) :: t else (a, b) :: (k, v) :: t)
    else if a = k then (if b = 0 then t else (a, b) :: t)
    else (k, v) :: memSet t a b

/-- `n` bytes from an address. -/
def memRead (m : List Host.Cell) (a n : Nat) : Bytes := (List.range n).map fun i => memGet m (a + i)

/-- Writes a byte string from an address on. -/
def memWrite : List Host.Cell → Nat → Bytes → List Host.Cell
  | m, _, [] => m
  | m, a, b :: bs => memWrite (memSet m a b) (a + 1) bs

/-- Every address of the list is above `a`. -/
def memAbove (a : Nat) (m : List Host.Cell) : Bool := m.all fun x => a < x.1

/-- The canonical form. -/
def memWf : List Host.Cell → Bool
  | [] => true
  | (k, v) :: t => v != 0 && memAbove k t && memWf t

/-- Overlays `bs` on a byte string from an offset, padding a gap with zeros. -/
def overlayAt (base : Bytes) (off : Nat) (bs : Bytes) : Bytes := fit off base ++ bs ++ base.drop (off + bs.length)

end Sys2Proof.Machine
end

