-- ==== Sys2Proof/Machine/StateHost.lean ====
section
/-! DEFINITION. The plain data of the host side of the LX9: table and memory shapes, status codes (R121), the records
of a Watershed stream (R38 to R56), reaches and functions (R79 to R93), queues (R94 to R123), jobs and their graph
nodes (R99 to R133), the Weir's own state (R129 to R151) and what the device sends out. -/

namespace Sys2Proof.Machine

open Sys2Proof

/-- A sparse table by number: an entry that is not listed has the table's reset record. -/
abbrev Tbl (α : Type) := List (Nat × α)

/-- The record at `k`, or the reset record `d`. -/
def tget {α : Type} (d : α) : Tbl α → Nat → α
  | [], _ => d
  | (j, v) :: t, k => if j = k then v else tget d t k

/-- Sets the record at `k`; the keys keep their rising order. -/
def tset {α : Type} : Tbl α → Nat → α → Tbl α
  | [], k, v => [(k, v)]
  | (j, w) :: t, k, v =>
    if k < j then (k, v) :: (j, w) :: t
    else if k = j then (k, v) :: t
    else (j, w) :: tset t k v

/-- Status codes of completions and RESULT fields (R121). -/
inductive Status where
  | ok | okMigrated | okAbortLate | okDeterministicFallback | verifyFalse
  | aborted | lengthMismatch | badOpcode | badParams | keySlotEmpty | keyUsageDenied | keyReachMismatch
  | outputTooSmall | pointInvalid | busy
  | entropyUnavailable | entropyFailed
  | memUncorrectable | engineFault | faultAfterCommit | busError
  | staleRole | reachQuiescing | leaseExhausted | latencyBoundMissed | alarmFlush
  deriving DecidableEq, Repr

/-- The code of a status (R121). -/
def Status.code : Status → Nat
  | .ok => 0x0000 | .okMigrated => 0x0001 | .okAbortLate => 0x0002 | .okDeterministicFallback => 0x0003
  | .verifyFalse => 0x0010
  | .aborted => 0x0100 | .lengthMismatch => 0x0101 | .badOpcode => 0x0102 | .badParams => 0x0103
  | .keySlotEmpty => 0x0104 | .keyUsageDenied => 0x0105 | .keyReachMismatch => 0x0106
  | .outputTooSmall => 0x0107 | .pointInvalid => 0x0108 | .busy => 0x0109
  | .entropyUnavailable => 0x0200 | .entropyFailed => 0x0201
  | .memUncorrectable => 0x0300 | .engineFault => 0x0301 | .faultAfterCommit => 0x0302 | .busError => 0x0303
  | .staleRole => 0x0400 | .reachQuiescing => 0x0401 | .leaseExhausted => 0x0402
  | .latencyBoundMissed => 0x0403 | .alarmFlush => 0x0500

/-! ## The records of a Watershed stream -/

/-- DEVICE record (R44). -/
structure DeviceRec where
  large : Bool
  clockPlan : Nat
  reachCount : Nat
  tickNs : Nat
  vaultMib : Nat
  frameUs : Nat
  degradeOk : Bool
  deriving DecidableEq, Repr

/-- REACH record (R45). -/
structure ReachRec where
  id : Nat
  strict : Bool
  maskMin : Nat
  queues : Nat
  slotWords : Nat
  weight : Nat
  keyBase : Nat
  keyCount : Nat
  pchMask : Nat
  prio0Rate : Nat
  privMib : Nat
  treeMib : Nat
  matrixMib : Nat
  mceMib : Nat
  ownerDigest : Bytes
  functions : Nat
  pers : Bytes
  vlen256 : Bool
  rateLimit : Nat
  deriving DecidableEq, Repr

/-- The three grant modes of TILE_ALLOC (R47), and POOLED, OWNED or FRAMED or none as a tile shows it. -/
inductive TileMode where
  | owned | framed | pooled | none
  deriving DecidableEq, Repr

/-- The MODE field of a tile's status register (R229). -/
def TileMode.code : TileMode → Nat
  | .owned => 0 | .framed => 1 | .pooled => 2 | .none => 3

/-- TILE_ALLOC record (R47). -/
structure TileRec where
  reach : Nat
  mode : TileMode
  slotMask : Nat
  pt : Nat
  ht : Nat
  bnu : Nat
  cu : Nat
  cc : Nat
  deriving DecidableEq, Repr

/-- CHAIN record (R49). -/
structure ChainRec where
  id : Nat
  reach : Nat
  length : Nat
  profile : Nat
  order : Nat
  tiles : List Nat
  deriving DecidableEq, Repr

/-- The eight node classes (R125). -/
inductive NodeClass where
  | pt | ptChain | ht | bnu | cu | cc | hbmMove | entropyWait
  deriving DecidableEq, Repr

/-- The class code (R125). -/
def NodeClass.code : NodeClass → Nat
  | .pt => 0 | .ptChain => 1 | .ht => 2 | .bnu => 3 | .cu => 4 | .cc => 5 | .hbmMove => 6 | .entropyWait => 7

/-- The class with a code (R125). -/
def NodeClass.ofCode : Nat → Option NodeClass
  | 0 => some .pt | 1 => some .ptChain | 2 => some .ht | 3 => some .bnu | 4 => some .cu | 5 => some .cc
  | 6 => some .hbmMove | 7 => some .entropyWait | _ => none

/-- A node entry of a template (R51). -/
structure NodeRec where
  cls : NodeClass
  output : Bool
  routine : Nat
  deps : Nat
  arg : Nat
  deriving DecidableEq, Repr

/-- GRAPH record (R51). -/
structure GraphRec where
  template : Nat
  opcode : Nat
  override : Bool
  reachMask : Nat
  nodes : List NodeRec
  deriving DecidableEq, Repr

/-- LEVEE record (R53). -/
structure LeveeRec where
  source : Nat
  alarmSel : Nat
  actions : Nat
  countN : Nat
  bistPeriodH : Nat
  windowMs : Nat
  deriving DecidableEq, Repr

/-- EVENT record (R53). -/
structure EventRec where
  source : Nat
  masked : Bool
  toVf : Bool
  func : Nat
  vector : Nat
  coalCount : Nat
  coalTimeUs : Nat
  queueMask : Nat
  deriving DecidableEq, Repr

/-- CONFLUENCE record (R53). -/
structure ConfluenceRec where
  devId : Nat
  topology : Nat
  portEn : Nat
  dimX : Nat
  dimY : Nat
  dimZ : Nat
  keyPolicy : Nat
  spillThreshold : Nat
  clusterId : Nat
  portDir : List Nat
  routes : List (Nat × Nat)
  deriving DecidableEq, Repr

/-- UCODE_CUST record (R54). -/
structure UcodeRec where
  engine : Nat
  reachMask : Nat
  words : List (BitVec 192)
  /-- SHA3-384 of the record's value (R246, R333) -/
  digest : List (BitVec 8)
  deriving DecidableEq, Repr

/-- OWNER_PROG record (R55). -/
structure ProgRec where
  id : Nat
  reach : Nat
  entry : Nat
  code : Bytes
  data : Bytes
  deriving DecidableEq, Repr

/-- RESET_POLICY record (R53); its defaults apply where the stream carries none. -/
structure PolicyRec where
  wdtMs : Nat
  devResetEn : Bool
  confirmS : Nat
  confirmJobs : Nat
  deriving DecidableEq, Repr

/-- SIGNATURE record (R56). -/
structure SigRec where
  alg : Nat
  key : Bytes
  sig : Bytes
  deriving DecidableEq, Repr

/-- The configuration in force, or the one a validated stream would give: what the records of R44 to R55 say. -/
structure Setup where
  device : DeviceRec
  reaches : List ReachRec
  tiles : List TileRec
  chains : List ChainRec
  graphs : List GraphRec
  levee : List LeveeRec
  events : List EventRec
  confluence : Option ConfluenceRec
  ucode : List UcodeRec
  progs : List ProgRec
  policy : PolicyRec
  deriving DecidableEq, Repr

/-- No stream committed: nothing granted, and the defaults of R53 and of the register tables. -/
def Setup.empty : Setup where
  device := { large := false, clockPlan := 0, reachCount := 0, tickNs := 1000, vaultMib := 0, frameUs := 0,
              degradeOk := false }
  reaches := []
  tiles := []
  chains := []
  graphs := []
  levee := []
  events := []
  confluence := none
  ucode := []
  progs := []
  policy := { wdtMs := 1000, devResetEn := true, confirmS := 60, confirmJobs := 100 }

/-- What a staged stream parses to (R39 to R56). -/
structure Stream where
  serial : Nat
  partialLoad : Bool
  cfg : Setup
  sigs : List SigRec
  digest : Bytes
  /-- the reaches that the stream's own records name, the offsets of those records, the tiles that R62 drops, and the
  digests MEAS[6] takes -/
  named : List Nat
  namedAt : List (Nat × Nat)
  dropped : List (Nat × Nat)
  images : List Bytes
  deriving DecidableEq, Repr

/-! ## The Watershed controller -/

/-- WSH_STAT.STATE (R71). -/
inductive WshState where
  | empty | loading | validating | valid | rejected | committing | committed
  deriving DecidableEq, Repr

def WshState.code : WshState → Nat
  | .empty => 0 | .loading => 1 | .validating => 2 | .valid => 3 | .rejected => 4 | .committing => 5
  | .committed => 6

/-- The Watershed loader (R63 to R71). -/
structure Wsh where
  st : WshState
  /-- staging area: the bytes written since BEGIN, one past the highest offset written -/
  staging : List (Nat × BitVec 8)
  loaded : Nat
  errCode : Nat
  errType : Nat
  errOffset : Nat
  applyUs : Nat
  serial : Nat
  digest : Bytes
  floorStale : Bool
  partialFlag : Bool
  configured : Bool
  parsed : Option Stream
  /-- time of the COMMIT write -/
  commitAt : Nat
  /-- a commit that creates a reach waits for the Spring (R279), since then -/
  springWait : Bool
  deriving DecidableEq, Repr

/-! ## Reaches and functions -/

/-- Reach states (R79). -/
inductive ReachSt where
  | absent | serving | quiescing | quiesced | resetting | removing
  deriving DecidableEq, Repr

def ReachSt.code : ReachSt → Nat
  | .absent => 0 | .serving => 1 | .quiescing => 2 | .quiesced => 3 | .resetting => 4 | .removing => 5

/-- One reach. -/
structure ReachState where
  st : ReachSt
  /-- role epoch (R145) -/
  epoch : BitVec 32
  /-- its 32 measurement registers and their extension counts (R244) -/
  meas : List Bytes
  measCnt : List Nat
  /-- WEIR_R_LBM and WEIR_R_STALE (R151) -/
  lbm : Nat
  stale : Nat
  /-- content of the rate-limit bucket in billionths of a job, as it stood at `bucketAt` (R140) -/
  bucket : Nat
  bucketAt : Nat
  /-- the generation of the region keys (R65, R359, R428) -/
  regionGen : Nat
  /-- creations of the REACH_ID since device reset (R360) -/
  creations : Nat
  /-- the wrapping key (R288) -/
  wrapKey : Bytes
  /-- slots with an entry in the reach's matrix cache and tree cache, most recently used first (R168, R170, R177), and with
  their public key in its McEliece cache (R182) -/
  matrices : List Nat
  trees : List Nat
  mceKeys : List Nat
  deriving DecidableEq, Repr

/-- 48 zero bytes: a measurement register before any extension (R244). -/
def measZero : Bytes := List.replicate 48 0

def ReachState.reset : ReachState where
  st := .absent
  epoch := 0
  meas := List.replicate 32 measZero
  measCnt := List.replicate 32 0
  lbm := 0
  stale := 0
  bucket := 0
  bucketAt := 0
  regionGen := 0
  creations := 0
  wrapKey := []
  matrices := []
  trees := []
  mceKeys := []

/-- One function: the PF is 0, VF n is n. -/
structure FnState where
  /-- the VF itself was quiesced by QUIESCE_VF (R80) -/
  quiesce : Bool
  /-- a VF reset is running (R426) -/
  resetting : Bool
  flrRefused : Bool
  d3hot : Bool
  /-- MSI-X Enable, Function Mask, the vectors whose mask bit in the table is clear (R458), and the table's message
  addresses and data by vector (R76, log entry 90) -/
  msixEnable : Bool
  funcMask : Bool
  vecOpen : List Nat
  table : Tbl (Nat × Nat)
  /-- the vectors whose PBA bit is set (R458) -/
  pba : List Nat
  /-- queue vectors whose direct message waits (R456, R458) -/
  direct : List Nat
  /-- Device Control and Link Control of the PCI Express capability; the PF's hold for every function (R72, log entry
  114) -/
  devCtl : Nat
  linkCtl : Nat
  deriving DecidableEq, Repr

def FnState.reset : FnState where
  quiesce := false
  resetting := false
  flrRefused := false
  d3hot := false
  msixEnable := false
  funcMask := false
  vecOpen := []
  table := []
  pba := []
  direct := []
  devCtl := 0x2910
  linkCtl := 0

/-- The GLB command and status registers and the PCIe link (R72, R78, R93). -/
structure Glb where
  speed : Nat
  width : Nat
  linkSlow : Bool
  numVfs : Nat
  vfEnable : Bool
  selReach : Nat
  reachResult : Nat
  reachDone : Bool
  selVf : Nat
  vfResult : Nat
  vfDone : Bool
  /-- the reach and the VF of the last command of each kind that takes time: DONE waits for its end -/
  reachRuns : Nat
  vfRuns : Nat
  deriving DecidableEq, Repr

/-! ## Queues -/

/-- What a completion entry will say (R107); `jobs` are the entries it covers, so COUNT is their number. -/
structure Completion where
  cid : Nat
  status : Nat
  explicitFlow : Bool
  flowId : Nat
  jobs : List Nat
  outLen : Nat
  detail : Nat
  doorbellNs : Nat
  closed : Bool
  spilled : Bool
  lbm : Bool
  deriving DecidableEq, Repr

/-- A completion entry that waits to be written, with the output writes it follows (R74, R107, R112). -/
structure Waiting where
  comp : Completion
  writes : List (Nat × Bytes)
  /-- held while the function was in D3hot: it goes out before any new fetch (R74) -/
  held : Bool
  deriving DecidableEq, Repr

/-- One queue pair (R94 to R123). -/
structure Queue where
  enable : Bool
  sqBase : BitVec 64
  cqBase : BitVec 64
  sqLog2 : Nat
  cqLog2 : Nat
  head : Nat
  tail : Nat
  cqHead : Nat
  cqTail : Nat
  phase : Bool
  dbErr : Bool
  fetchErr : Bool
  cqFull : Bool
  /-- the flow of the entry that found no reorder token: explicit or not, and its number (R111) -/
  tokenWait : Option (Bool × Nat)
  result : Nat
  /-- entries of the fetch read in flight -/
  fetching : Nat
  /-- accepted SQ doorbells not yet passed by HEAD: (TAIL value, time) -/
  doorbells : List (Nat × Nat)
  /-- completions waiting for CQ space or for D0; their jobs stay outstanding, the named one with its token -/
  waiting : List Waiting
  deriving DecidableEq, Repr

def Queue.reset : Queue where
  enable := false
  sqBase := 0
  cqBase := 0
  sqLog2 := 0
  cqLog2 := 0
  head := 0
  tail := 0
  cqHead := 0
  cqTail := 0
  phase := true
  dbErr := false
  fetchErr := false
  cqFull := false
  tokenWait := none
  result := 0
  fetching := 0
  doorbells := []
  waiting := []

/-- A submission entry as fetched (R99, R100). -/
structure Entry where
  opcode : Nat
  ctrl : Nat
  cid : Nat
  flowId : Nat
  slot : Nat
  delay : Nat
  inLen : Nat
  paramAddr : Nat
  outAddr : Nat
  inAddr : Nat
  tail : Bytes
  deriving DecidableEq, Repr

/-! ## Key slots -/

inductive SlotSt where
  | empty | reserved | live
  deriving DecidableEq, Repr

/-- A lease held by a slot: the next index to draw and the end of the range, and whether its ledger record has
committed (R307). -/
structure Lease where
  next : Nat
  stop : Nat
  committed : Bool
  deriving DecidableEq, Repr

/-- One key slot (R290 to R293). -/
structure Slot where
  st : SlotSt
  attr : BitVec 64
  /-- the clear encoding of the key (R300); a public key alone has none -/
  mat : Bytes
  /-- the Boolean shares behind the first of a secret's encoding (R291) -/
  shares : List Bytes
  /-- the public-key encoding; empty for symmetric types -/
  pub : Bytes
  keyId : Bytes
  homeDev : Nat
  /-- current and next lease of a stateful key (R307) -/
  cur : Option Lease
  nxt : Option Lease
  /-- LIMIT − FLOOR as the home device last reported it (R178, R310) -/
  remote : Nat
  deriving DecidableEq, Repr

def Slot.reset : Slot where
  st := .empty
  attr := 0
  mat := []
  shares := []
  pub := []
  keyId := []
  homeDev := 0
  cur := none
  nxt := none
  remote := 0

/-! ## Jobs -/

/-- Where one node of a job's graph stands (R126, R141, R143, R144). -/
inductive NodeSt where
  | waiting
  | ready
  | running (tile : Nat)
  | entropyWait (deadline : Nat)
  | backoff (until_ : Nat)
  | yielded (tile : Nat)
  | spanWait (tile : Nat)
  /-- waits for a delay-list entry (R138): what it then waits for, for how long from then on, and its place in the order
  of arrival -/
  | listWait (entropy : Bool) (span seq : Nat)
  | done
  | cancelled
  deriving DecidableEq, Repr

/-- A Keccak lane or the SHA-2 core of an HT (R230, R237): its function, the masking order it runs at since its first secret
byte, its state and block buffer as the values their shares stand for, the share registers and the buffers' shares behind the first
(R234, R237), and how far it has come. -/
structure HashUnit where
  func : Nat
  order : Nat
  state : Bytes
  buf : Bytes
  shares : List Bytes
  bufs : List Bytes
  /-- an unmask word has released its output (R235) -/
  unmasked : Bool
  fed : Nat
  /-- some of it came from the job's input; its last descriptor had LAST (R232, R242) -/
  fromInput : Bool
  lastSeen : Bool
  /-- the final block has been padded and absorbed; bytes squeezed since -/
  padded : Bool
  given : Nat
  /-- position in the descriptor list -/
  desc : Nat
  deriving DecidableEq, Repr

/-- One AES pipeline of a CU (R321): mode, key, IV or tweak, the bytes it has streamed, and its GHASH with the bytes of
additional data in it. -/
structure AesPipe where
  mode : Nat
  key : Bytes
  iv : Bytes
  streamed : Nat
  hashed : Bytes
  aad : Nat
  tagOk : Bool
  deriving DecidableEq, Repr

def AesPipe.reset : AesPipe where
  mode := 0
  key := []
  iv := []
  streamed := 0
  hashed := []
  aad := 0
  tagOk := false

/-- The microcode sequencer of a PT, HT, BNU or CU (R316 to R327), with the registers of its engine beside the memory. -/
structure Seqr where
  upc : Nat
  stack : List Nat
  counters : List Nat
  flags : Nat
  revealed : Bool
  committed : Bool
  /-- executions a REPEAT word still owes -/
  repeatLeft : Nat
  /-- PT: the comparator's bit (R214), the permutation registers (R219), what the crossbar has brought and no word has taken
  (R221), by share number, and whether an HT has delivered a stream (R319) -/
  cmp : Bool
  perms : Tbl Nat
  xbar : List (Nat × Bytes)
  streamIn : Bool
  /-- HT: the units 0 to 4 that hold a sponge or a hash, and the contexts saved from them (R237) -/
  units : Tbl HashUnit
  saves : Tbl HashUnit
  /-- CU: the two AES pipelines -/
  pipes : Tbl AesPipe
  /-- BNU: ladder and carry state, the context registers behind the loop counters (R250) -/
  ladder : Bytes
  /-- END has executed and the chain's other tiles still run -/
  ended : Bool
  deriving DecidableEq, Repr

def Seqr.reset : Seqr where
  upc := 0
  stack := []
  counters := List.replicate 8 0
  flags := 0
  revealed := false
  committed := false
  repeatLeft := 0
  cmp := false
  perms := []
  xbar := []
  streamIn := false
  units := []
  saves := []
  pipes := []
  ladder := []
  ended := false

/-- Where the context of a yielded HT node lies (R238, R240): in its lane still, in a basin entry with the place of its save
in the order of saves, or in HBM. -/
inductive CtxPlace where
  | lane
  | entry (seq : Nat)
  | spilled
  deriving DecidableEq, Repr

/-- The context kept at a yield (R143, R237, R257): the sequencer with the units' registers, what the tile held and which of
its regions the node wrote, the owning reach and the job tag. -/
structure SavedCtx where
  seqr : Seqr
  mem : List (Nat × BitVec 8)
  written : Nat
  reach : Nat
  tag : Nat
  deriving DecidableEq, Repr

/-- One node of a job's graph. -/
structure Node where
  info : NodeRec
  st : NodeSt
  restarts : Nat
  /-- order of readiness (R133) -/
  seq : Nat
  iter : Nat
  /-- the epochs of the tiles and chains the node may run on, as the shard resolved them (R145, R146) -/
  resolved : List (Nat × BitVec 32)
  /-- cycles its routine has run, over all of its restarts (R331, R340) -/
  cycles : Nat
  /-- the context kept at a yield (R143, R237, R257) -/
  saved : Option SavedCtx
  /-- HT: where the kept context lies, and whether its record has been written to HBM (R238, R240, R241) -/
  ctx : CtxPlace
  inHbm : Bool
  /-- masking blocks or blinding words that its built-in routine has drawn in this run (R216, R273) -/
  drawn : Nat
  /-- the engine on which a fault last ended it: its restart prefers another (R144, R223) -/
  avoid : Option Nat
  /-- the engine on which an interrupt ended it, until it restarts (R325, R328) -/
  intr : Option Nat
  /-- an ENTROPY-WAIT node whose bytes are on their way (R141, R280) -/
  served : Bool
  deriving DecidableEq, Repr

/-- How far a job has come in the central Weir (R129, R131, R148). -/
inductive JobSt where
  /-- fetched, not yet admitted -/
  | fetched
  /-- waits for a rate-limit token (R140) -/
  | rateWait
  /-- waits for a DEVICE-list entry on which to wait for its rate-limit token (R138) -/
  | ratePend
  /-- admitted, home basin chosen, waits for node entries (R131) -/
  | admitted
  /-- its DELAY has not expired (R139) -/
  | delayed
  /-- it waits for a delay-list entry (R138) -/
  | delayPend
  /-- its graph is instantiated -/
  | running
  /-- forwarded to a peer (R148) -/
  | spilled
  /-- its status is fixed -/
  | ended
  /-- retired: outstanding until the completion that covers it is written -/
  | retired
  /-- its completion is written, and a node past its COMMIT still runs to its end (R126, R328) -/
  | covered
  deriving DecidableEq, Repr

/-- How the job's randomness came (R141, R160). -/
inductive Entropy where
  | none | pending | delivered | fallback
  deriving DecidableEq, Repr

/-- One fetched job. -/
structure Job where
  id : Nat
  fn : Nat
  q : Nat
  reach : Nat
  entry : Entry
  /-- acceptance time of the covering doorbell (R96, R107, R139) -/
  doorbellNs : Nat
  param : Bytes
  input : Bytes
  /-- sum of the input table lengths read so far, whether the chain has ended, tables read -/
  inSum : Nat
  inDone : Bool
  inTables : Nat
  /-- output buffers in table order (R105) -/
  outBufs : List (Nat × Nat)
  st : JobSt
  basin : Nat
  template : Nat
  nodes : List Node
  firstDispatch : Bool
  committed : Bool
  abortLate : Bool
  status : Option Status
  detail : Nat
  output : Bytes
  /-- staging area: the results of completed nodes (R323, R337) -/
  stage : Bytes
  lbm : Bool
  wasSpilled : Bool
  spillPort : Nat
  /-- when its return timer started; none while the timer waits for its DEVICE-list entry (R138, R148) -/
  spillAt : Option Nat
  /-- offered once and refused: never offered again (R147) -/
  noSpill : Bool
  /-- its rate limit has been applied (R140) -/
  paid : Bool
  /-- place of its own delay-list request in the order of arrival (R138) -/
  listSeq : Nat
  /-- its instantiation waits for node entries (R131) -/
  nodeWait : Bool
  /-- the job holds a reorder token (R111) -/
  token : Bool
  entropy : Entropy
  /-- the DRBG bytes the job drew (R141) -/
  rnd : Bytes
  /-- ATTEST: the payload's parts in front of and behind the nonce, built before check 16 (R200) -/
  attest : Option (Bytes × Bytes)
  /-- slot the job reserved (R290) -/
  reserved : Option Nat
  /-- index drawn from a lease (R177) -/
  index : Option Nat
  /-- its place in the order of the dispatches that drew an index (R177) -/
  drawSeq : Option Nat
  /-- a measurement extension waits for the measurement unit (R195, R247) -/
  extend : Option (Nat × Bytes)
  /-- the place of that COMMIT in the order of COMMITs (R247) -/
  extSeq : Nat
  /-- run for a peer: the port to answer and the SEQ of the request (R148, R379) -/
  forPeer : Option (Nat × Nat)
  /-- its key material as loaded from the slot (R183) -/
  keyCopy : Option Slot
  /-- its slot was invalidated before it drew or loaded its key (R183) -/
  keyGone : Bool
  /-- the run closes at this entry because fetching stopped (R110) -/
  closeHere : Bool
  deriving DecidableEq, Repr

/-- The job's staging area as microcode sees it: its input from offset 0 on, until results overwrite it (DESIGN CHOICE, log
entry 24). -/
def Job.staged (j : Job) : Bytes := j.stage ++ j.input.drop j.stage.length

/-- An open run of a flow: its retired OK entries that no completion has named yet (R109, R110). -/
structure Run where
  fn : Nat
  q : Nat
  explicitFlow : Bool
  flowId : Nat
  last : Completion
  /-- output writes held for D0 (R74) -/
  writes : List (Nat × Bytes)
  deriving DecidableEq, Repr

/-! ## The Weir -/

/-- The Weir's own registers and counters (R131 to R151). -/
structure Weir where
  delayOvf : Bool
  frameRun : Bool
  slot : Nat
  timeoutUs : Nat
  backoffTicks : Nat
  maxRestart : Nat
  sliceUs : Nat
  selReach : Nat
  spillOut : Nat
  spillIn : Nat
  /-- next place in the order of readiness -/
  seq : Nat
  /-- next place in the order of arrival of delay-list requests (R138) -/
  listSeq : Nat
  /-- deficit-round-robin credits, by (basin, class, reach) (R135) -/
  credits : Tbl Int
  /-- the next queue of the fetch round robin (R97) -/
  nextQueue : Nat
  nextJob : Nat
  deriving DecidableEq, Repr

def Weir.reset : Weir where
  delayOvf := false
  frameRun := false
  slot := 0
  timeoutUs := 50000
  backoffTicks := 4
  maxRestart := 3
  sliceUs := 20
  selReach := 0
  spillOut := 0
  spillIn := 0
  seq := 0
  listSeq := 0
  credits := []
  nextQueue := 0
  nextJob := 0

/-! ## What the device sends out -/

/-- One thing the device puts on a bus: writes to host memory, MSI-X messages, Confluence frames, management-port
answers and PMBus commands. -/
inductive Out where
  /-- job output bytes at a host address of a function, with the Relaxed Ordering attribute or without it (R72, R105) -/
  | hostWrite (fn addr : Nat) (bytes : Bytes) (relaxed : Bool)
  /-- a 32-byte completion entry at slot `index` of the CQ (R107) -/
  | completion (fn q index : Nat) (bytes : Bytes)
  /-- an MSI-X message (R458): the vector's table entry names its address and data -/
  | msix (fn vector : Nat)
  /-- a frame sent on a Confluence port: class, destination, body (R379, R380) -/
  | frame (port cls dest : Nat) (body : Bytes)
  /-- what a register read over the management port or PCIe returned (R277, R495) -/
  | readData (bytes : Bytes)
  /-- a voltage command on the PMBus, in mV (R476) -/
  | vcore (mv : Nat)
  deriving DecidableEq, Repr

end Sys2Proof.Machine
end

