-- ==== Sys2Proof/Machine/StateKeys.lean ====
section
/-! DEFINITION. The plain data of the key store (R287 to R315), of the ledger die (R306, R307, R432, R438 to R447) and
of the random-number subsystem (R265 to R286). -/

namespace Sys2Proof.Machine

open Sys2Proof

/-! ## The key store -/

/-- A key record of the ledger die (R306). -/
structure KeyRec where
  ver : Nat
  keyId : Bytes
  homeDev : Nat
  type : Nat
  floor : Nat
  limit : Nat
  grants : Nat
  mac : Bytes
  deriving DecidableEq, Repr

/-- The key store's registers and derived keys (R287 to R289, R315). -/
structure Kst where
  derived : Bool
  certMatch : Bool
  srk : Bytes
  lmk : Bytes
  attMldsaSeed : Bytes
  attP384 : Bytes
  result : Nat
  done : Bool
  argSlot : Nat
  peerDev : Nat
  peerSlot : Nat
  desc : Bytes
  dmiss : Nat
  vaultMib : Nat
  vaultKey : Bool
  /-- descriptors resident in the descriptor cache, most recent first, by pool: a TIMING_ISOLATED reach's own, or 64 -/
  dcache : Tbl (List Nat)
  /-- slots whose material is in the hot store, most recent first, by pool -/
  hot : Tbl (List Nat)
  /-- how often secret material has been shared (R291) -/
  sharings : Nat
  deriving DecidableEq, Repr

def Kst.reset : Kst where
  derived := false
  certMatch := false
  srk := []
  lmk := []
  attMldsaSeed := []
  attP384 := []
  result := 0
  done := true
  argSlot := 0
  peerDev := 0
  peerSlot := 0
  desc := List.replicate 32 0
  dmiss := 0
  vaultMib := 0
  vaultKey := false
  dcache := []
  hot := []
  sharings := 0

/-! ## The Spring and the random subsystem -/

/-- SPR_STAT.STATE (R286). -/
inductive SprState where
  | off | startup | running | failed | resetting | dead
  deriving DecidableEq, Repr

def SprState.code : SprState → Nat
  | .off => 0 | .startup => 1 | .running => 2 | .failed => 3 | .resetting => 4 | .dead => 5

/-- One noise source (R266, R286), with what its health tests have seen (R267): the last raw bit and the length of its run,
the raw bits of the open autocorrelation window, and the conditioned outputs that wait for its close (R268); a failure in the
start-up test that runs (R281, R283); and its last 32 raw bits (R284). -/
structure Source where
  inUse : Bool
  excluded : Bool
  rate : Nat
  last : Bool
  run : Nat
  window : Bytes
  held : List Bytes
  bad : Bool
  raw : BitVec 32
  deriving DecidableEq, Repr

def Source.off : Source where
  inUse := false
  excluded := false
  rate := 0
  last := false
  run := 0
  window := []
  held := []
  bad := false
  raw := 0

/-- The health tests of a source start anew. -/
def Source.fresh (x : Source) : Source := { x with last := false, run := 0, window := [], held := [] }

/-- SPR_DRBG_STAT.STATE (R286). -/
inductive DrbgState where
  | uninstantiated | awaitingSeed | ready
  deriving DecidableEq, Repr

def DrbgState.code : DrbgState → Nat
  | .uninstantiated => 0 | .awaitingSeed => 1 | .ready => 2

/-- One CTR_DRBG instance (R270 to R272): its key and V, the generate requests since its last reseed. -/
structure Drbg where
  st : DrbgState
  key : Bytes
  v : Bytes
  count : Nat
  reseeds : Nat
  due : Bool
  pers : Bytes
  /-- a TIMING_ISOLATED reach: the frame whose reserved seed it has used (R89, R269) -/
  seedFrame : Option Nat
  deriving DecidableEq, Repr

def Drbg.reset : Drbg where
  st := .uninstantiated
  key := []
  v := []
  count := 0
  reseeds := 0
  due := false
  pers := []
  seedFrame := none

/-- A waiting reseed or instantiation (R269): the instance, the additional input, and the RESEED job behind it. -/
structure SeedReq where
  inst : Nat
  extra : Bytes
  job : Option Nat
  deriving DecidableEq, Repr

/-- One mask expander (R273, R274): the Keccak-p[400] state, blocks since the last reseed, reseeds, and whether its
tile is throttled for want of it. -/
structure Expander where
  sponge : Bytes
  seeded : Bool
  blocks : Nat
  reseeds : Nat
  due : Bool
  throttled : Bool
  /-- the frame slot, counted through all frames, in which it was reseeded last (R218) -/
  slot : Option Nat
  deriving DecidableEq, Repr

def Expander.reset : Expander where
  sponge := []
  seeded := false
  blocks := 0
  reseeds := 0
  due := false
  throttled := false
  slot := none

/-- A function's random-data FIFO (R276, R277). -/
structure RndFifo where
  bytes : Bytes
  latch : Bytes
  err : Bool
  deriving DecidableEq, Repr

def RndFifo.reset : RndFifo where
  bytes := []
  latch := List.replicate 4 0
  err := false

/-- The Spring and the random subsystem (R265 to R286). -/
structure Spr where
  st : SprState
  sources : List Source
  /-- the next source the conditioner takes (R268) -/
  nextSource : Nat
  seeds : List Bytes
  /-- failures of the last 24 h (R282) -/
  fails24 : Nat
  failTotal : Nat
  failTest : Nat
  failSource : Nat
  autoReset : Bool
  result : Nat
  done : Bool
  seedUs : Nat
  startAt : Nat
  drbgSel : Nat
  expSel : Nat
  testSrc : Nat
  testMode : Nat
  /-- PATTERN in force, and its LFSR (R284) -/
  pattern : Bool
  lfsr : BitVec 32
  /-- a block reset followed a failure, or the manager started it while RUNNING (R141) -/
  afterFailure : Bool
  /-- generate requests and reseeds started before a failure and not yet complete (R280, R283) -/
  transfers : Nat
  drbg : Tbl Drbg
  waiting : List SeedReq
  exp : Tbl Expander
  /-- blinding buffer of each BNU (R275) -/
  blind : Tbl Bytes
  fifo : Tbl RndFifo
  deriving DecidableEq, Repr

def Spr.reset : Spr where
  st := .off
  sources := List.replicate 4 Source.off
  nextSource := 0
  seeds := []
  fails24 := 0
  failTotal := 0
  failTest := 0
  failSource := 0
  autoReset := true
  result := 0
  done := true
  seedUs := 0
  startAt := 0
  drbgSel := 0
  expSel := 0
  testSrc := 0
  testMode := 0
  pattern := false
  lfsr := 1
  afterFailure := false
  transfers := 0
  drbg := []
  waiting := []
  exp := []
  blind := []
  fifo := []

end Sys2Proof.Machine
end

