-- ==== Sys2Proof/Machine/StateEngines.lean ====
section
/-! DEFINITION. The plain data of the engines: tiles and their microcode sequencers (R205 to R264, R316 to R333),
control cores (R334 to R354), chains and customer profiles (R208, R221), hash contexts and measurement registers
(R237 to R247), HBM (R355 to R370). -/

namespace Sys2Proof.Machine

open Sys2Proof

/-- STATE of a tile's status register (R229, R249, R264, R354). Cores use RECOVERY and FAILED as well (R346). -/
inductive TileSt where
  | disabled | idle | busy | resetting | recovery | failed
  deriving DecidableEq, Repr

def TileSt.code : TileSt → Nat
  | .disabled => 0 | .idle => 1 | .busy => 2 | .resetting => 3 | .recovery => 4 | .failed => 5

/-- One tile: PT, HT, BNU, CU or CC. An HT has five records, one for each lane and one for its core; the record of lane 0
is also that of the tile (R230, log entry 93). -/
structure Tile where
  st : TileSt
  epoch : BitVec 32
  /-- running node: (job, node) -/
  node : Option (Nat × Nat)
  /-- reach of the running node, and of the one before it (R218, R274) -/
  reach : Nat
  lastReach : Option Nat
  order : Nat
  throttled : Bool
  busyCyc : Nat
  throttleCyc : Nat
  ce : Nat
  ue : Nat
  yields : Nat
  chkFail : Nat
  /-- since when busy cycles and stalled ones are not yet in their counters (R217, R229) -/
  busyAt : Nat
  throttleAt : Nat
  /-- what nodes left in the local memory for a dependant on the same tile, by 32 times the job and the node (R132, R226) -/
  passed : Tbl (List (Nat × BitVec 8))
  /-- BNU: the yield slice has expired (R143) -/
  sliceOver : Bool
  /-- BNU: when the slice timer last started (R143) -/
  sliceAt : Nat
  /-- chain that reserved the tile (R222) -/
  chainHold : Option Nat
  seqr : Seqr
  /-- what the running node holds in the tile: PT banks, HT messages, BNU span (R226, R237, R254) -/
  mem : List (Nat × BitVec 8)
  /-- the 1 KiB regions of the banks that the running node has written (R226) -/
  written : Nat
  startNs : Nat
  /-- the built-in routine whose last run met a ROM parity error here, and whether that came again on its restart, which
  disables the tile at the next boot (R318) -/
  romErr : Option Nat
  romBad : Bool
  deriving DecidableEq, Repr

def Tile.reset : Tile where
  st := .idle
  epoch := 0
  node := none
  reach := 0
  lastReach := none
  order := 0
  throttled := false
  busyCyc := 0
  throttleCyc := 0
  ce := 0
  ue := 0
  yields := 0
  chkFail := 0
  sliceOver := false
  sliceAt := 0
  busyAt := 0
  throttleAt := 0
  passed := []
  chainHold := none
  seqr := Seqr.reset
  mem := []
  written := 0
  startNs := 0
  romErr := none
  romBad := false

/-- When a core's results are ready (R347, R348), in cycles since its node started. -/
structure Score where
  /-- the cycle of the last instruction issued -/
  cycle : Nat
  /-- the cycle at whose end a register is ready -/
  ints : Tbl Nat
  floats : Tbl Nat
  vecs : Tbl Nat
  /-- the first cycle in which a unit may start a beat -/
  units : Tbl Nat
  last : Nat
  /-- a load waits for input (R337) -/
  stalled : Bool
  deriving DecidableEq, Repr

def Score.reset : Score where
  cycle := 0
  ints := []
  floats := []
  vecs := []
  units := []
  last := 0
  stalled := false

/-- A control core beyond its tile record (R334 to R346). Registers are lists of 32. -/
structure Core where
  ownerMode : Bool
  overlay : Bool
  iregs : Vector (BitVec 64) 32
  fregs : Vector (BitVec 64) 32
  /-- vector registers as numbers of VLEN bits -/
  vregs : Vector (BitVec 512) 32
  act : BitVec 64
  pc : Nat
  score : Score
  prog : Nat
  /-- result range declared by COMMIT (R339) -/
  result : Option (Nat × Nat)
  /-- pc of the COMMIT and the instructions executed after it -/
  commitPc : Nat
  postCount : Nat
  /-- CCO_LIMIT when the node was dispatched (R354) -/
  limit : Nat
  /-- 256 KiB scratch (R336) -/
  scratch : List (Nat × BitVec 8)
  /-- a register-file error after COMMIT: recovery begins at END (R353) -/
  recoverAtEnd : Bool
  recoveryFails : Nat
  deriving DecidableEq, Repr

def Core.reset : Core where
  ownerMode := false
  overlay := true
  iregs := Vector.replicate 32 0
  fregs := Vector.replicate 32 0
  vregs := Vector.replicate 32 0
  act := 0
  pc := 0
  score := Score.reset
  prog := 0
  result := none
  commitPc := 0
  postCount := 0
  limit := 16777216
  scratch := []
  recoverAtEnd := false
  recoveryFails := 0

/-- A span of operand slots that a BNU node holds until it ends (R254). -/
structure Span where
  bnu : Nat
  reach : Nat
  job : Nat
  node : Nat
  first : Nat
  count : Nat
  deriving DecidableEq, Repr

/-- A customer prime profile (R208): q, LOG2N, −q⁻¹ mod 2³² and 2⁶⁴ mod q once committed. -/
structure CustProf where
  q : Nat
  log2n : Nat
  qinv : Nat
  mont : Nat
  deriving DecidableEq, Repr

def CustProf.reset : CustProf where
  q := 3
  log2n := 8
  qinv := 0
  mont := 0

/-- The control store of one engine type (R316, R317, R329): patch RAM and match registers; ROM is `Config.romWord`,
the customer region is the committed UCODE_CUST image. -/
structure CtlStore where
  patch : List (BitVec 192)
  level : Nat
  mandatory : Bool
  digest : Bytes
  /-- match registers in use: (ROM address, patch address) -/
  matches_ : List (Nat × Nat)
  custDigest : Bytes
  abandon : Nat
  intRestart : Nat
  fac : Nat
  csErr : Nat
  deriving DecidableEq, Repr

def CtlStore.reset : CtlStore where
  patch := []
  level := 0
  mandatory := false
  digest := List.replicate 48 0
  matches_ := []
  custDigest := List.replicate 48 0
  abandon := 0
  intRestart := 0
  fac := 0
  csErr := 0

/-- The selections and results of the engine blocks' command registers (R229, R249, R264, R333, R354, R437). -/
structure Sel where
  ptSel : Nat
  htSel : Nat
  bnuSel : Nat
  bnuReach : Nat
  ccSel : Nat
  ccProg : Nat
  mcsSel : Nat
  ptResult : Nat
  htResult : Nat
  bnuResult : Nat
  ccResult : Nat
  ptDone : Bool
  htDone : Bool
  bnuDone : Bool
  ccDone : Bool
  /-- the unit of each class's last RESET that ran: its end is what DONE waits for -/
  ptRuns : Nat
  htRuns : Nat
  bnuRuns : Nat
  ccRuns : Nat
  ccLimit : Nat
  /-- CCO_FAULTS and CCO_PROG_RUNS -/
  ccFaults : Nat
  progRuns : Tbl Nat
  /-- HSH_MEAS_SEL -/
  measDevice : Bool
  measReach : Nat
  measIndex : Nat
  /-- what the last read of HSH_MEAS_DATA[0] latched (R247) -/
  measLatch : Bytes
  deriving DecidableEq, Repr

def Sel.reset : Sel where
  ptSel := 0
  htSel := 0
  bnuSel := 0
  bnuReach := 0
  ccSel := 0
  ccProg := 0
  mcsSel := 0
  ptResult := 0
  htResult := 0
  bnuResult := 0
  ccResult := 0
  ptDone := true
  htDone := true
  bnuDone := true
  ccDone := true
  ptRuns := 0
  htRuns := 0
  bnuRuns := 0
  ccRuns := 0
  ccLimit := 16777216
  ccFaults := 0
  progRuns := []
  measDevice := true
  measReach := 0
  measIndex := 0
  measLatch := List.replicate 48 0

end Sys2Proof.Machine
end

