-- ==== Sys2Proof/Machine/StateSystem.lean ====
section
/-! DEFINITION. The plain data of the rest of the device: HBM controller (R355 to R370), Confluence (R371 to R389),
fuses and life cycle (R390 to R405), Levee (R406 to R419), reset and boot (R420 to R437), firmware update (R438 to
R450), events and snapshots (R451 to R470), clocks, power and pins (R471 to R498). -/

namespace Sys2Proof.Machine

open Sys2Proof

/-! ## HBM -/

/-- What a placed stretch of HBM holds (R359, R363). -/
inductive PlaceKind where
  | reserve | descriptors | vault | priv | tree | matrix | mce
  deriving DecidableEq, Repr

/-- A stretch of lines interleaved over channels (R363, R364): line L of it lies on channel `chans[L mod k]` at line
`base + L / k`. `reach` is 64 for what no reach owns. -/
structure Place where
  kind : PlaceKind
  reach : Nat
  chans : List Nat
  base : Nat
  lines : Nat
  deriving DecidableEq, Repr

/-- The HBM controller and its stack (R355 to R370). A line's logical address is channel × 2^24 + line. The stack holds its
ciphertext as 64 cells from 64 × that number on, and the MACs of eight lines in each line of the channel's MAC region, which
follows the usable lines; an unlisted byte is zero. -/
structure Hbm where
  keysValid : Bool
  layout : List Place
  mem : List (Nat × BitVec 8)
  /-- the key registers: K_MAC, and the key of each place by its number (R359, R360) -/
  kMac : List (BitVec 8)
  keys : Tbl (List (BitVec 8))
  /-- key registers whose draw waits for the Spring (R280) -/
  keyDue : List Nat
  /-- pages written, by place and page: the generation of the place they were written in, plus 1 (R362) -/
  written : Tbl Nat
  /-- poisoned lines, and lines that a spare holds (R366) -/
  poisoned : List Nat
  spare : List Nat
  /-- spares used, by channel -/
  sparesUsed : Tbl Nat
  mappedOut : Option Nat
  pinRate24 : Bool
  ce : Tbl Nat
  ue : Tbl Nat
  macFail : Tbl Nat
  lastPoison : Nat
  /-- lines the patrol scrub has read, by channel (R368) -/
  scrubbed : Tbl Nat
  sel : Nat
  /-- the last line delivered to a reader -/
  readLine : Bytes
  deriving DecidableEq, Repr

def Hbm.reset : Hbm where
  keysValid := false
  layout := []
  mem := []
  kMac := []
  keys := []
  keyDue := []
  written := []
  poisoned := []
  spare := []
  sparesUsed := []
  mappedOut := none
  pinRate24 := false
  ce := []
  ue := []
  macFail := []
  lastPoison := 0
  scrubbed := []
  sel := 0
  readLine := []

/-! ## Confluence -/

/-- CFL_PORT_STAT.STATE (R372, R389). -/
inductive PortSt where
  | disabled | down | training | trained | attesting | up | refused
  deriving DecidableEq, Repr

def PortSt.code : PortSt → Nat
  | .disabled => 0 | .down => 1 | .training => 2 | .trained => 3 | .attesting => 4 | .up => 5 | .refused => 6

/-- Where the handshake of a port stands (R373). -/
inductive Handshake where
  | none | sentHello | sentReply | sentFinish
  deriving DecidableEq, Repr

/-- One Confluence port (R371 to R389). -/
structure Port where
  st : PortSt
  refuse : Nat
  lanesOk : Nat
  /-- DEV_ID of the peer's PROBEs, then of the attested peer -/
  peerDev : Nat
  hs : Handshake
  initiator : Bool
  /-- time of the first PROBE received, and of the last HELLO or REPLY sent -/
  probed : Option Nat
  sentAt : Nat
  /-- the handshake: the initiator's ML-KEM seed, ek and ct, and the 64 bytes of new keys until they are in use -/
  seed : Bytes
  ek : Bytes
  ct : Bytes
  newKeys : Bytes
  rxKey : Bytes
  txKey : Bytes
  txFrames : Nat
  rxFrames : Nat
  /-- the last frame as it left the port (R376) -/
  wire : Bytes
  upSince : Nat
  tagFail : Nat
  retrains : Nat
  linkDelay : Nat
  /-- last ADVERT of the peer (R380): backlog, threshold, reach epochs, FENCED flag, cluster-key source -/
  peerBacklog : Nat
  peerThreshold : Nat
  peerEpochs : List (Nat × Nat)
  peerFenced : Bool
  peerKeyDev : Nat
  peerHasKey : Bool
  /-- last TIME of the peer (R384): its master, whether that is locked, its hops, and the exchanges while upstream -/
  peerMaster : Option (Nat × Bool × Nat)
  exchanges : Nat
  deriving DecidableEq, Repr

def Port.reset : Port where
  st := .disabled
  refuse := 0
  lanesOk := 0
  peerDev := 0
  hs := .none
  initiator := false
  probed := none
  sentAt := 0
  seed := []
  ek := []
  ct := []
  newKeys := []
  rxKey := []
  txKey := []
  txFrames := 0
  rxFrames := 0
  wire := []
  upSince := 0
  tagFail := 0
  retrains := 0
  linkDelay := 0
  peerBacklog := 0
  peerThreshold := 0
  peerEpochs := []
  peerFenced := false
  peerKeyDev := 0
  peerHasKey := false
  peerMaster := none
  exchanges := 0

/-- A request sent to another device that waits for its answer (R381, R388): its SEQ, class, target, reach, slot and job,
the time it was sent, whether it was sent again, and whether it waits for the receiver's next ADVERT. -/
structure CflReq where
  id : Nat
  cls : Nat
  dest : Nat
  reach : Nat
  slot : Nat
  job : Option Nat
  sentAt : Nat
  resent : Bool
  again : Bool
  /-- KST_CMD PLACE waits for it (R310) -/
  place : Bool
  body : Bytes
  deriving DecidableEq, Repr

/-- The Confluence block beside its ports. -/
structure Cfl where
  ports : Tbl Port
  sel : Nat
  pendingReq : List CflReq
  nextReq : Nat
  seq : Nat
  /-- floods already forwarded, and floods already acted on: (source device, sequence) (R378) -/
  seen : List (Nat × Nat)
  acted : List (Nat × Nat)
  clusterKey : Option Bytes
  keyDev : Nat
  timeValid : Bool
  /-- cluster time is device time plus an offset, slewed from `timeOffset` at `slewAt` to `timeTarget` (R384, R385) -/
  timeOffset : Int
  timeTarget : Int
  slewAt : Nat
  masterDev : Nat
  hops : Nat
  ppsLock : Bool
  ppsLast : Option Nat
  ppsGood : Nat
  timeSetLo : Nat
  timeSetHi : Nat
  msgTx : Nat
  msgRx : Nat
  drop : Nat
  staleIn : Nat
  ignored : Nat
  fencedDevs : List Nat
  /-- CFL_CTRL, and the upper half that the last CFL_TIME_LO read latched -/
  uncertOk : Bool
  retrainEn : Bool
  timeHi : Nat
  deriving DecidableEq, Repr

def Cfl.reset : Cfl where
  ports := []
  sel := 0
  pendingReq := []
  nextReq := 0
  seq := 0
  seen := []
  acted := []
  clusterKey := none
  keyDev := 0
  timeValid := false
  timeOffset := 0
  timeTarget := 0
  slewAt := 0
  masterDev := 0
  hops := 0
  ppsLock := false
  ppsLast := none
  ppsGood := 0
  timeSetLo := 0
  timeSetHi := 0
  msgTx := 0
  msgRx := 0
  drop := 0
  staleIn := 0
  ignored := 0
  fencedDevs := []
  uncertOk := false
  retrainEn := true
  timeHi := 0

/-! ## Events and snapshots -/

/-- One event source (R458, R459). -/
structure EvtSrc where
  pending : Bool
  mask : Bool
  unsent : Nat
  cause : Nat
  /-- time of the oldest unsent occurrence -/
  oldest : Nat
  deriving DecidableEq, Repr

def EvtSrc.reset : EvtSrc where
  pending := false
  mask := false
  unsent := 0
  cause := 0
  oldest := 0

/-- The event controller; routing comes from the committed EVENT records and the defaults of R457. -/
structure Evt where
  src : Tbl EvtSrc
  sel : Nat
  deriving DecidableEq, Repr

/-- One capture record: the domain's timestamp and the trigger sources (R462). -/
structure CapRec where
  stamp : Nat
  sources : Nat
  deriving DecidableEq, Repr

/-- The snapshot controller (R461 to R470). -/
structure Snp where
  broadcast : Bool
  enLevee : Bool
  enCfl : Bool
  enCmd : Bool
  enPin : Bool
  arm : Bool
  frozen : Bool
  fullView : Bool
  sources : Nat
  matchEn : Bool
  matchSrc : Nat
  selClass : Nat
  selInst : Nat
  selWord : Nat
  missed : Nat
  captures : Nat
  record : CapRec
  deriving DecidableEq, Repr

def Snp.reset : Snp where
  broadcast := false
  enLevee := true
  enCfl := false
  enCmd := true
  enPin := false
  arm := true
  frozen := false
  fullView := false
  sources := 0
  matchEn := false
  matchSrc := 0
  selClass := 0
  selInst := 0
  selWord := 0
  missed := 0
  captures := 0
  record := { stamp := 0, sources := 0 }

/-! ## Fuses and life cycle -/

/-- The life-cycle states (R390). -/
inductive LcState where
  | blank | testLocked | testUnlocked | personalised | owned | fieldReturn | scrapped
  deriving DecidableEq, Repr

/-- The fuse array (R391 to R393, R287, R440, R441, R482). A thermometer of n burned steps is the bitmap 2^n − 1; a
field counts as programmed when one of its bits is set. -/
structure Fuses where
  code : List (BitVec 64)
  gen : List Nat
  used : List Nat
  cosign : List Nat
  therm : List Nat
  testDig : List Bytes
  persDig : Bytes
  ownDig : Bytes
  scrapDig : Bytes
  ownerMldsa : Bytes
  ownerEcdsa : Bytes
  returnDig : Bytes
  reownDig : Bytes
  testMldsa : Bytes
  testEcdsa : Bytes
  fwMldsa : Bytes
  fwEcdsa : Bytes
  rootSet : Bool
  deviceId : Nat
  smallStack : Bool
  stepping : Nat
  /-- M0 and the temperature allowance, in ps (R479, R482) -/
  m0 : Nat
  tempPs : Nat
  deriving DecidableEq, Repr

/-- The erase steps of R400. -/
inductive EraseStep where
  | e1 | e2 | e3 | e4 | e5
  deriving DecidableEq, Repr

/-- One piece of work of an accepted transition (R398, R400): a fuse pulse on a bit of the owner fields (160 bytes of
LCS_DATA), of the consumption bits, of the state code or of the root generation; an erase step; the completion. -/
inductive LcWork where
  | owner (bit : Nat)
  | used (bit copy : Nat)
  | code (bit copy : Nat)
  | erase (step : EraseStep)
  | gen (bit copy : Nat)
  /-- a step of the thermometer (R441) and COSIGN_REQ (R440), which belong to no transition -/
  | therm (bit copy : Nat)
  | cosign (copy : Nat)
  | complete
  deriving DecidableEq, Repr

/-- The transition record of the boot journal (R398): the target code, the owner fields to program, the work the
transition calls for in its order, and the erase and generation steps whose own records have committed. -/
structure TransRec where
  target : BitVec 64
  owner : Bytes
  work : List LcWork
  erased : List EraseStep
  deriving DecidableEq, Repr

/-- The life-cycle controller (R390 to R405). -/
structure Lcs where
  /-- as voted at boot step 1: state, position (63 for SCRAPPED or STATE 7), STATE 7, generation, consumption bits -/
  st : LcState
  pos : Nat
  byVote : Bool
  gen : Nat
  used : Nat
  vote : Nat
  /-- raw copies as sensed at boot step 1, and the fuse fields found programmed (LCS_DIGESTS) -/
  copies : List (BitVec 64)
  digests : Nat
  sensed : Bool
  erase : Nat
  pending : Bool
  work : List LcWork
  result : Nat
  done : Bool
  debugOpen : Bool
  token : Bytes
  data : Bytes
  fails : Nat
  lockout : Bool
  lockAt : Nat
  tap : TapInstr
  deriving DecidableEq, Repr

def Lcs.reset : Lcs where
  st := .scrapped
  pos := 63
  byVote := false
  gen := 0
  used := 0
  vote := 0
  copies := [0, 0, 0]
  digests := 0
  sensed := false
  erase := 0
  pending := false
  work := []
  result := 0
  done := true
  debugOpen := false
  token := List.replicate 32 0
  data := List.replicate 160 0
  fails := 0
  lockout := false
  lockAt := 0
  tap := .idcode

/-! ## Levee -/

/-- The configuration of a Levee source (R406, R408). -/
structure LevCfg where
  actions : Nat
  alarmSel : Nat
  countN : Nat
  windowMs : Nat
  bistH : Nat
  deriving DecidableEq, Repr

/-- One Levee source (R407 to R411): its detectors, whether source 25 has counted their disagreement, the open window,
the latch, and whether ALARM_OUT and THROTTLE have run for the latched source. -/
structure LevSrc where
  detA : Bool
  detB : Bool
  disagree : Bool
  count : Nat
  openAt : Option Nat
  latched : Bool
  alarm : Bool
  throttle : Bool
  deriving DecidableEq, Repr

def LevSrc.reset : LevSrc where
  detA := false
  detB := false
  disagree := false
  count := 0
  openAt := none
  latched := false
  alarm := false
  throttle := false

/-- A log entry (R418). -/
structure LogEntry where
  time : Nat
  source : Nat
  kind : Nat
  actions : Nat
  det : Nat
  set : Nat
  count : Nat
  deriving DecidableEq, Repr

/-- A source's part in an alarm set: index, detectors, count at the trip. -/
structure TripRec where
  source : Nat
  det : Nat
  count : Nat
  deriving DecidableEq, Repr

/-- An alarm set (R412). -/
structure AlarmSet where
  no : Nat
  time : Nat
  trips : List TripRec
  union : Nat
  deriving DecidableEq, Repr

/-- A queued response action (R412): its rank and the sets it runs for. -/
structure LevAct where
  rank : Nat
  sets : List AlarmSet
  deriving DecidableEq, Repr

/-- A stimulation test (R414). -/
structure Bist where
  running : Bool
  source : Nat
  detB : Bool
  /-- a trip of the live detector ended the test without a verdict (R413) -/
  result : Nat
  done : Bool
  pass : Bool
  fail : Bool
  deriving DecidableEq, Repr

/-- The Levee (R406 to R419). -/
structure Lev where
  src : Tbl LevSrc
  /-- the Levee watches: from boot step 2 on -/
  watching : Bool
  sets : Nat
  setNo : Nat
  gather : Option AlarmSet
  gatherAt : Nat
  queue : List LevAct
  fenced : Bool
  cleared : Bool
  halted : Bool
  hold : Bool
  summaryRun : Nat
  copyLost : Bool
  /-- the always-on state was lost, or ran on VBAT, before this boot -/
  aoLost : Bool
  battRun : Bool
  log : List LogEntry
  logTotal : Nat
  logIdx : Nat
  logLatch : Bytes
  sel : Nat
  bist : Bist
  deriving DecidableEq, Repr

def Lev.reset : Lev where
  src := []
  watching := false
  sets := 0
  setNo := 0
  gather := none
  gatherAt := 0
  queue := []
  fenced := false
  cleared := false
  halted := false
  hold := false
  summaryRun := 0
  copyLost := false
  aoLost := false
  battRun := false
  log := []
  logTotal := 0
  logIdx := 0
  logLatch := List.replicate 16 0
  sel := 0
  bist := { running := false, source := 0, detB := false, result := 0, done := true, pass := false, fail := false }

/-! ## Reset and boot -/

/-- The record of a boot (R432): its number, RST_CAUSE and the outcomes of steps 1 to 17. -/
structure BootRec where
  no : Nat
  cause : Nat
  steps : List Nat
  deriving DecidableEq, Repr

/-- States of a basin (R427, RST_BASIN_STAT). -/
inductive BasinSt where
  | inService | draining | drained | resetting | selfTest | disabled
  deriving DecidableEq, Repr

def BasinSt.code : BasinSt → Nat
  | .inService => 0 | .draining => 1 | .drained => 2 | .resetting => 3 | .selfTest => 4 | .disabled => 5

/-- A pulse in progress that holds a reset (R425). -/
inductive Pulse where
  | fuse | ledger
  deriving DecidableEq, Repr

/-- The reset controller and the boot (R420 to R437). -/
structure Rst where
  pwrgood : Bool
  resetN : Bool
  perstN : Bool
  /-- the device is held in reset or its boot has not started -/
  inReset : Bool
  /-- the coming boot was restarted by step 8 and is not counted (R399, R433) -/
  uncounted : Bool
  /-- causes of a reset that waits for the pulse's end (R425) -/
  heldCause : Option Nat
  /-- causes of a fence that waits for the end of a pulse or of a block reset (R429) -/
  heldFence : Option Nat
  pulse : Option Pulse
  /-- the boot step running, 1 to 17 -/
  step : Nat
  /-- the boot waits in its step for a command of the outside (R278, R372, R65) -/
  waiting : Bool
  /-- ports whose training step 15 still waits for -/
  portsLeft : List Nat
  /-- steps that run their alternative in this boot, and the step retried in it (R431) -/
  alts : List Nat
  retried : List Nat
  outcomes : List Nat
  altUsed : Bool
  inService : Bool
  safeStandby : Bool
  fenced : Bool
  sluiceStopped : Bool
  linkUp : Bool
  result : Nat
  done : Bool
  blkResult : Nat
  blkDone : Bool
  /-- what the last block reset of RST_BLK_CMD that ran acts on -/
  blkRuns : Option ResetTarget
  basins : Tbl BasinSt
  bootUs : Nat
  wdtMs : Nat
  wdtArmed : Bool
  jrnlSel : Nat
  /-- units disabled by boot steps 5 and 14 and by known-answer tests, as bitmaps -/
  disPt : Nat
  disHt : Nat
  disBnu : Nat
  disCu : Nat
  disCc : Nat
  /-- what this boot observes, as BOOT_START gave it -/
  obs : BootObs
  deriving DecidableEq, Repr

def Rst.reset : Rst where
  pwrgood := true
  resetN := false
  perstN := false
  inReset := true
  uncounted := false
  heldCause := none
  heldFence := none
  pulse := none
  step := 1
  waiting := false
  portsLeft := []
  alts := []
  retried := []
  outcomes := List.replicate 17 0
  altUsed := false
  inService := false
  safeStandby := false
  fenced := false
  sluiceStopped := false
  linkUp := false
  result := 0
  done := true
  blkResult := 0
  blkDone := true
  blkRuns := none
  basins := []
  bootUs := 0
  wdtMs := 1000
  wdtArmed := false
  jrnlSel := 0
  disPt := 0
  disHt := 0
  disBnu := 0
  disCu := 0
  disCc := 0
  obs := BootObs.good

/-! ## The always-on domain -/

/-- What the always-on domain keeps over a device reset and, on the backup cell, without the main supply (R415 to
R418, R420, R421, R432, R433). -/
structure Ao where
  large : Bool
  clockPlan : Nat
  /-- the battery sources' configuration (R408), by source -/
  table : Option (List (Nat × LevCfg))
  summary : Nat
  /-- the wrapped copy of the summary (R416): the cover key that wrapped it and the actions it holds -/
  copy : Option (Bytes × Nat)
  coverKey : Option Bytes
  log : List LogEntry
  logLost : Nat
  onBattery : Bool
  battRun : Bool
  lost : Bool
  zeroised : Bool
  /-- the counts of the battery sources' windows on the backup cell -/
  battery : Tbl LevSrc
  alarmPins : Nat
  cause : Nat
  bootCur : Option BootRec
  bootPrev : Option BootRec
  /-- boots of the last 10 minutes that did not reach service -/
  recent : Nat
  /-- ports whose training faulted the controller on the previous boot (R430, step 15) -/
  badPorts : List Nat
  /-- the always-on count at the last release of the device reset, in ns (R418) -/
  base : Nat
  deriving DecidableEq, Repr

def Ao.reset : Ao where
  large := false
  clockPlan := 0
  table := none
  summary := 0
  copy := none
  coverKey := none
  log := []
  logLost := 0
  onBattery := false
  battRun := false
  lost := false
  zeroised := false
  battery := []
  alarmPins := 0
  cause := 1
  bootCur := none
  bootPrev := none
  recent := 0
  badPorts := []
  base := 0

/-! ## The ledger die beside its key records -/

/-- FWU_SLOT.STATE (R450). -/
inductive FwSlotSt where
  | invalid | valid | active | failed | belowFloor
  deriving DecidableEq, Repr

def FwSlotSt.code : FwSlotSt → Nat
  | .invalid => 0 | .valid => 1 | .active => 2 | .failed => 3 | .belowFloor => 4

/-- A firmware slot (R438 to R442). -/
structure FwSlot where
  st : FwSlotSt
  svn : Nat
  digest : Bytes
  /-- FLAGS.PATCH_MANDATORY of its package (R329) -/
  mandatory : Bool
  deriving DecidableEq, Repr

/-- The ledger die's boot journal, serial floors, firmware slots and certificate (R59, R289, R398, R432, R442, R444). -/
structure Ledger where
  readOnly : Bool
  floors : List (Bytes × Nat)
  /-- boot records, newest first, at most 64, and how many boots were recorded -/
  boots : List BootRec
  total : Nat
  trans : Option TransRec
  cert : Bytes
  slotA : FwSlot
  slotB : FwSlot
  /-- the slot boot step 9 selects: 0 A, 1 B -/
  active : Nat
  /-- a TRIAL record without CONFIRM: the trial slot -/
  trial : Option Nat
  /-- a CONFIRM record whose thermometer steps are not all burned: its SVN (R446) -/
  confirmed : Option Nat
  deriving DecidableEq, Repr

/-! ## Firmware update -/

/-- FWU_STAT.STATE (R450). -/
inductive FwuState where
  | idle | staging | staged | armed | switching | trial | fallingBack
  deriving DecidableEq, Repr

def FwuState.code : FwuState → Nat
  | .idle => 0 | .staging => 1 | .staged => 2 | .armed => 3 | .switching => 4 | .trial => 5 | .fallingBack => 6

/-- The firmware-update controller (R442 to R450). -/
structure Fwu where
  st : FwuState
  result : Nat
  done : Bool
  last : Nat
  err : Nat
  srcLo : Nat
  srcHi : Nat
  len : Nat
  drainMs : Nat
  actLo : Nat
  actHi : Nat
  /-- the armed instant in cluster time -/
  instant : Nat
  ignored : Nat
  digest : Bytes
  /-- the slot now running: 0 A, 1 B -/
  running : Nat
  runSvn : Nat
  /-- the fallback's reason while FALLING_BACK: the LAST code it leads to -/
  fallCode : Nat
  trialEnd : Nat
  jobsLeft : Nat
  testsOk : Bool
  /-- when intake stopped, and whether the warm restart runs (drained or at the limit) -/
  drainAt : Nat
  restarting : Bool
  deriving DecidableEq, Repr

def Fwu.reset : Fwu where
  st := .idle
  result := 0
  done := true
  last := 0
  err := 0
  srcLo := 0
  srcHi := 0
  len := 0
  drainMs := 15
  actLo := 0
  actHi := 0
  instant := 0
  ignored := 0
  digest := List.replicate 48 0
  running := 0
  runSvn := 0
  fallCode := 0
  trialEnd := 0
  jobsLeft := 0
  testsOk := false
  drainAt := 0
  restarting := false

/-! ## Clocks and power -/

/-- The CLK and PWR registers (R471 to R485). -/
structure Pwr where
  fclkMhz : Nat
  planMhz : Nat
  fclkLock : Bool
  hclkLock : Bool
  mclkLock : Bool
  bclkLock : Bool
  xtalOk : Bool
  bclkOnRc : Bool
  result : Nat
  done : Bool
  planning : Bool
  marginLow : Bool
  sramLow : Bool
  eyeLow : Bool
  point : Nat
  targetMv : Nat
  goalMv : Nat
  /-- the voltage that the regulator on the board holds, which a device reset does not change (R483) -/
  heldMv : Nat
  meas : Measured
  measured : Bool
  serviceDays : Nat
  temp : Int
  pecErr : Bool
  noAck : Bool
  alert : Bool
  statusWord : Nat
  nextAt : Nat
  /-- a re-plan waits: for a PMBus fault to end (R483), or for TRIAL -/
  retry : Bool
  deferred : Bool
  deriving DecidableEq, Repr

def Pwr.reset : Pwr where
  fclkMhz := 0
  planMhz := 0
  fclkLock := false
  hclkLock := false
  mclkLock := false
  bclkLock := false
  xtalOk := false
  bclkOnRc := false
  result := 0
  done := true
  planning := false
  marginLow := false
  sramLow := false
  eyeLow := false
  point := 0
  targetMv := 800
  goalMv := 800
  heldMv := 800
  meas := Measured.zero
  measured := false
  serviceDays := 0
  temp := 0
  pecErr := false
  noAck := false
  alert := false
  statusWord := 0
  nextAt := 0
  retry := false
  deferred := false

/-! ## Pins and the management port -/

/-- The output pins (R411, R461, R493, R497); true is asserted. -/
structure Pins where
  fault : Bool
  therm : Bool
  trigOut : Bool
  smbAlert : Bool
  /-- the conditions of R497 as last seen: bit 0 FAULT_N, bit 1 THERM_N, bit 2 + i source i latched -/
  alertSeen : Nat
  addrSel : Nat
  deriving DecidableEq, Repr

def Pins.reset : Pins where
  fault := false
  therm := false
  trigOut := false
  smbAlert := false
  alertSeen := 0
  addrSel := 0

/-- The management port's own selections (R496). -/
structure Mgmt where
  levSrc : Nat
  levLog : Nat
  jrnl : Nat
  snp : Nat
  hbm : Nat
  cfl : Nat
  drbg : Nat
  exp : Nat
  deriving DecidableEq, Repr

def Mgmt.reset : Mgmt where
  levSrc := 0
  levLog := 0
  jrnl := 0
  snp := 0
  hbm := 0
  cfl := 0
  drbg := 0
  exp := 0

end Sys2Proof.Machine
end

