-- ==== Sys2Proof/Machine/State.lean ====
section
/-! DEFINITION. The state of the LX9 (plain data), the reasons a step can stop, and the state right after reset. -/

namespace Sys2Proof.Machine

open Sys2Proof

/-- Faults. The manual leaves no outcome undefined (R5), so no command ends in one; the type keeps the outcome's shape.
Safe: no run stops here. -/
inductive Fault where
  /-- raised by no meaning; safe -/
  | none
  deriving DecidableEq, Repr

/-- Refusals. -/
inductive Refusal where
  /-- a row of the table whose meaning is not written; raised by exec's arm of that row; safe -/
  | notModelled (mnemonic : String)
  deriving DecidableEq, Repr

/-- The whole device. -/
structure State where
  /-- nanoseconds since the release of the device reset (R412, R462) -/
  now : Nat
  wsh : Wsh
  /-- the committed configuration -/
  cfg : Setup
  glb : Glb
  fns : Tbl FnState
  reaches : Tbl ReachState
  /-- queues by number: function × 64 + queue -/
  queues : Tbl Queue
  jobs : List Job
  runs : List Run
  weir : Weir
  kst : Kst
  slots : Tbl Slot
  records : List KeyRec
  spr : Spr
  /-- tiles by number: class × 256 + index, with the class codes of R125 -/
  tiles : Tbl Tile
  chainEpoch : Tbl (BitVec 32)
  cores : Tbl Core
  /-- pages of each BNU's operand memory by reach (R253), and the spans held in it (R254) -/
  parts : Tbl (List (Nat × Nat))
  spans : List Span
  sel : Sel
  /-- control stores by engine type: 0 PT, 1 HT, 2 BNU, 3 CU -/
  stores : Tbl CtlStore
  cprof : Tbl CustProf
  /-- the 16 device measurement registers and their extension counts (R244) -/
  meas : List Bytes
  measCnt : List Nat
  hbm : Hbm
  cfl : Cfl
  evt : Evt
  snp : Snp
  fuse : Fuses
  lcs : Lcs
  lev : Lev
  rst : Rst
  ao : Ao
  ledger : Ledger
  fwu : Fwu
  pwr : Pwr
  pins : Pins
  mgmt : Mgmt
  /-- what the device has put on its buses, oldest first: the model's record of its outputs -/
  tx : List Out
  /-- the commands that wait, first in, first out -/
  pending : List Instr
  deriving DecidableEq, Repr

/-- A programmed digest field whose content is the part's own (log entry 3). -/
def fuseFilled (n : Nat) : Bytes := List.replicate n 0xA5

/-- The fuses of the reset state: an LX9-16H-IX of stepping B0, OWNED at generation 0 (log entry 3). -/
def Fuses.reset : Fuses where
  code := List.replicate 3 0x7FFFF
  gen := [0, 0, 0]
  used := [0, 0, 0]
  cosign := [0, 0, 0]
  therm := [0, 0, 0]
  testDig := List.replicate 8 (fuseFilled 32)
  persDig := fuseFilled 32
  ownDig := fuseFilled 32
  scrapDig := fuseFilled 32
  ownerMldsa := fuseFilled 48
  ownerEcdsa := zeros 48
  returnDig := fuseFilled 32
  reownDig := fuseFilled 32
  testMldsa := fuseFilled 48
  testEcdsa := zeros 48
  fwMldsa := fuseFilled 48
  fwEcdsa := fuseFilled 48
  rootSet := true
  deviceId := 0
  smallStack := false
  stepping := 2
  m0 := 180
  tempPs := 12

/-- The ledger die of the reset state: nothing recorded, slot A ACTIVE, slot B INVALID (log entry 6). -/
def Ledger.reset : Ledger where
  readOnly := false
  floors := []
  boots := []
  total := 0
  trans := none
  cert := []
  slotA := { st := .active, svn := 0, digest := zeros 48, mandatory := false }
  slotB := { st := .invalid, svn := 0, digest := zeros 48, mandatory := false }
  active := 0
  trial := none
  confirmed := none

/-- The Watershed controller after reset (R71). -/
def Wsh.reset : Wsh where
  st := .empty
  staging := []
  loaded := 0
  errCode := 0
  errType := 0
  errOffset := 0
  applyUs := 0
  serial := 0
  digest := zeros 48
  floorStale := false
  partialFlag := false
  configured := false
  parsed := none
  commitAt := 0
  springWait := false

/-- The GLB registers after reset (R93). -/
def Glb.reset : Glb where
  speed := 0
  width := 0
  linkSlow := false
  numVfs := 0
  vfEnable := false
  selReach := 0
  reachResult := 0
  reachDone := true
  selVf := 0
  vfResult := 0
  vfDone := true
  reachRuns := 0
  vfRuns := 0

/-- The machine right after a power-on reset (R421, R428): nothing but fuses, ledger and always-on domain carries
anything in, every block is at the reset values of its register tables, and the boot has not started. -/
def State.reset : State where
  now := 0
  wsh := Wsh.reset
  cfg := Setup.empty
  glb := Glb.reset
  fns := []
  reaches := []
  queues := []
  jobs := []
  runs := []
  weir := Weir.reset
  kst := Kst.reset
  slots := []
  records := []
  spr := Spr.reset
  tiles := []
  chainEpoch := []
  cores := []
  parts := []
  spans := []
  sel := Sel.reset
  stores := []
  cprof := []
  meas := List.replicate 16 measZero
  measCnt := List.replicate 16 0
  hbm := Hbm.reset
  cfl := Cfl.reset
  evt := { src := [], sel := 0 }
  snp := Snp.reset
  fuse := Fuses.reset
  lcs := Lcs.reset
  lev := Lev.reset
  rst := Rst.reset
  ao := Ao.reset
  ledger := Ledger.reset
  fwu := Fwu.reset
  pwr := Pwr.reset
  pins := Pins.reset
  mgmt := Mgmt.reset
  tx := []
  pending := []

end Sys2Proof.Machine
end

