-- ==== Sys2Proof/Machine/Stream.lean ====
section
/-! DEFINITION. The Watershed stream format (R38 to R56) and the structural part of its validation (R60 checks 1 to 5,
7 and 10 to 12): parsing records from bytes, the layout rules of R42, field ranges and the resource rules of R61. What
the checks need of the device is handed in as `ValEnv`. -/

namespace Sys2Proof.Machine

open Sys2Proof

/-- A failed check: its code (R60), the TYPE of the failing record (0 for header checks), its offset and the failing field. -/
structure VErr where
  code : Nat
  type : Nat
  off : Nat
  /-- offset of the failing field in the record's value, for two failures of one record (R60) -/
  fld : Nat := 0
  deriving DecidableEq, Repr

/-- The stream header (R39). -/
structure Header where
  magicOk : Bool
  format : Nat
  hdrLen : Nat
  stepMask : Nat
  totalLen : Nat
  serial : Nat
  target : Nat
  count : Nat
  flags : Nat
  rsvdOk : Bool
  deriving DecidableEq, Repr

def parseHeader (bs : Bytes) : Header where
  magicOk := slice bs 0 4 == [0x4C, 0x58, 0x57, 0x53]
  format := fieldLe bs 4 2
  hdrLen := fieldLe bs 6 2
  stepMask := fieldLe bs 8 4
  totalLen := fieldLe bs 0xC 4
  serial := fieldLe bs 0x10 8
  target := fieldLe bs 0x18 8
  count := fieldLe bs 0x20 4
  flags := fieldLe bs 0x24 4
  rsvdOk := allZero (slice bs 0x28 24)

/-- One record before its value is read (R40). -/
structure Raw where
  type : Nat
  rflags : Nat
  off : Nat
  val : Bytes
  padOk : Bool
  deriving DecidableEq, Repr

/-- Rounds up to a multiple of 8. -/
def up8 (n : Nat) : Nat := (n + 7) / 8 * 8

/-- The record headers that tile `bs` from offset `off` exactly (R40, check 5); `none` when they do not. -/
def tileRecords : Nat → Nat → Bytes → Option (List Raw)
  | _, _, [] => some []
  | 0, _, _ :: _ => none
  | fuel + 1, off, bs =>
    if bs.length < 8 then none
    else
      let len := fieldLe bs 4 4
      let step := 8 + up8 len
      if bs.length < step then none
      else
        (tileRecords fuel (off + step) (bs.drop step)).map fun rest =>
          { type := fieldLe bs 0 2, rflags := fieldLe bs 2 2, off := off, val := slice bs 8 len,
            padOk := allZero (slice bs (8 + len) (up8 len - len)) } :: rest

/-- Check 7's rules for SIGNATURE records (R504): the first record that breaks one. `ecdsa` says whether R58 requires an
ECDSA signature. A stream without any SIGNATURE record fails at its header. -/
def sigShapeOk (alg : Nat) (r : Raw) : Bool :=
  let keyLen := if alg = 1 then 2592 else 97
  let sigLen := if alg = 1 then 4627 else 96
  fieldLe r.val 0 1 == alg && allZero (slice r.val 1 1) && fieldLe r.val 2 2 == keyLen &&
    fieldLe r.val 4 2 == sigLen && allZero (slice r.val 6 2) && r.val.length == 8 + keyLen + sigLen

def sigPolicy (ecdsa : Bool) (rs : List Raw) : Option VErr :=
  let after := rs.dropWhile fun r => r.type != 0xFF
  let bad (r : Raw) : Option VErr := some { code := 0x09, type := r.type, off := r.off }
  match after with
  | [] => some { code := 0x09, type := 0, off := 0 }
  | [a] => if !sigShapeOk 1 a || ecdsa then bad a else none
  | a :: b :: rest =>
    if !sigShapeOk 1 a then bad a
    else if b.type != 0xFF || !sigShapeOk 2 b || !ecdsa then bad b
    else match rest with
      | [] => none
      | c :: _ => bad c

/-- The parsed value of a SIGNATURE record (R56). -/
def parseSig (r : Raw) : SigRec :=
  let k := fieldLe r.val 2 2
  { alg := fieldLe r.val 0 1, key := slice r.val 8 k, sig := r.val.drop (8 + k) }

/-! ## Check 10: structure -/

/-- The most records of a TYPE that R43 allows in the stream; `none` for an unknown TYPE. One record for each source or
engine type makes 26, 2,048 and 4 at most, whatever SOURCE or ENGINE they name (DEDUCED, log entry 108). -/
def maxCount (part : Bool) : Nat → Option Nat
  | 0x01 => some (if part then 0 else 1)
  | 0x02 => some 64
  | 0x03 => some 256
  | 0x04 => some 64
  | 0x05 => some (if part then 0 else 256)
  | 0x06 => some (if part then 0 else 26)
  | 0x07 => some (if part then 0 else 2048)
  | 0x08 => some (if part then 0 else 1)
  | 0x09 => some (if part then 0 else 4)
  | 0x0A => some (if part then 0 else 1024)
  | 0x0B => some (if part then 0 else 1)
  | 0xFF => some 2
  | _ => none

/-- The sub-key of a record that may stand once per value: SOURCE of LEVEE and EVENT, ENGINE of UCODE_CUST (R43). -/
def onceKey (r : Raw) : Option Nat :=
  match r.type with
  | 0x06 => some (fieldLe r.val 0 1)
  | 0x07 => some (fieldLe r.val 0 2)
  | 0x09 => some (fieldLe r.val 0 1)
  | _ => none

/-- The violations of check 10 in record order; `seen` holds the records before. Within one record the field at the lowest
offset decides: TYPE and RFLAGS in the header stand before the padding (R60). -/
def structErrs (part : Bool) : List Raw → List Raw → List VErr
  | _, [] => []
  | seen, r :: rest =>
    let lastType := (seen.map Raw.type).foldl max 0
    let same := seen.filter fun x => x.type == r.type
    let here : List VErr :=
      match maxCount part r.type with
      | none =>
        if r.type < lastType then [{ code := 0x0B, type := r.type, off := r.off }]
        else if !bitOf r.rflags 0 then [{ code := 0x0C, type := r.type, off := r.off }]
        else if !r.padOk then [{ code := 0x0B, type := r.type, off := r.off }]
        else []
      | some m =>
        if r.type < lastType || !r.padOk || m ≤ same.length ||
            ((onceKey r).isSome && same.any fun x => onceKey x == onceKey r) then
          [{ code := 0x0B, type := r.type, off := r.off }]
        else []
    here ++ structErrs part (seen ++ [r]) rest

/-- Records that must stand at least once: DEVICE in a full stream and REACH in both (R43). A record that is absent has no
TYPE and no offset of its own: both are reported as 0 (DESIGN CHOICE, log entry 79). -/
def missingErrs (part : Bool) (rs : List Raw) : List VErr :=
  if (!part && !(rs.any fun r => r.type == 0x01)) || !(rs.any fun r => r.type == 0x02) then
    [{ code := 0x0B, type := 0, off := 0 }]
  else []

/-! ## Check 11: layouts and field ranges -/

/-- R42 for one record: `req` bytes are required, a LENGTH up to the layout's end `len` stops at one of `bounds`, and
bytes beyond the layout are zero. Answers the value of exactly `len` bytes, absent fields zero. -/
def layout (req : Nat) (bounds : List Nat) (len : Nat) (v : Bytes) : Option Bytes :=
  if v.length < req then none
  else if v.length < len then (if bounds.contains v.length then some (fit len v) else none)
  else if allZero (v.drop len) then some (v.take len) else none

/-- Keeps a parsed value when its ranges hold. -/
def guardOpt {α : Type} (ok : Bool) (a : α) : Option α := if ok then some a else none

def parseDevice (fmt : Nat) (v0 : Bytes) : Option DeviceRec :=
  (layout 16 [16] (if fmt < 3 then 16 else 20) v0).bind fun v =>
    let tick := fieldLe v 4 4
    let vault := fieldLe v 8 4
    let frame := fieldLe v 12 4
    let flags := fieldLe v 16 4
    guardOpt (fieldLe v 0 1 ≤ 1 && fieldLe v 1 1 ≤ 1 && 1 ≤ fieldLe v 2 1 && fieldLe v 2 1 ≤ 64 &&
        fieldLe v 3 1 == 0 && 100 ≤ tick && tick ≤ 1000000 && 64 ≤ vault && vault ≤ 4096 && 64 ≤ frame &&
        frame ≤ 6400 && flags ≤ 1)
      { large := fieldLe v 0 1 == 1, clockPlan := fieldLe v 1 1, reachCount := fieldLe v 2 1, tickNs := tick,
        vaultMib := vault, frameUs := frame, degradeOk := flags == 1 }

def parseReach (fmt : Nat) (v0 : Bytes) : Option ReachRec :=
  (layout 0xA0 [0xA0, 0xA1, 0xA4] (if fmt < 2 then 0xA0 else 0xA8) v0).bind fun v =>
    let strict := fieldLe v 1 1
    let weight := fieldLe v 6 2
    let persLen := fieldLe v 0x12 1
    guardOpt (fieldLe v 0 1 ≤ 63 && strict ≤ 1 && fieldLe v 2 1 ≤ 3 && fieldLe v 3 1 ≤ 64 &&
        4 ≤ fieldLe v 4 2 && fieldLe v 4 2 ≤ 256 &&
        (if strict == 1 then weight == 0 else 1 ≤ weight) && fieldLe v 8 4 ≤ 1048575 &&
        1 ≤ fieldLe v 0xC 4 && fieldLe v 0xC 4 ≤ 1048576 && persLen ≤ 32 && fieldLe v 0x13 1 == 0 &&
        allZero (slice v 0x28 8) && allZero (slice v (0x80 + persLen) (32 - persLen)) &&
        fieldLe v 0xA0 1 ≤ 1 && allZero (slice v 0xA1 3))
      { id := fieldLe v 0 1, strict := strict == 1, maskMin := fieldLe v 2 1, queues := fieldLe v 3 1,
        slotWords := fieldLe v 4 2, weight := weight, keyBase := fieldLe v 8 4, keyCount := fieldLe v 0xC 4,
        pchMask := fieldLe v 0x10 2, prio0Rate := fieldLe v 0x14 4, privMib := fieldLe v 0x18 4,
        treeMib := fieldLe v 0x1C 4, matrixMib := fieldLe v 0x20 4, mceMib := fieldLe v 0x24 4,
        ownerDigest := slice v 0x30 48, functions := fieldLe v 0x60 32, pers := slice v 0x80 persLen,
        vlen256 := fieldLe v 0xA0 1 == 1, rateLimit := fieldLe v 0xA4 4 }

def parseTile (v0 : Bytes) : Option TileRec :=
  (layout 56 [] 56 v0).bind fun v =>
    let mode := fieldLe v 1 1
    let mask := fieldLe v 8 8
    guardOpt (fieldLe v 0 1 ≤ 63 && mode ≤ 2 && allZero (slice v 2 6) && (mode == 1 || mask == 0) &&
        allZero (slice v 0x2C 4))
      { reach := fieldLe v 0 1, mode := if mode = 0 then .owned else if mode = 1 then .framed else .pooled,
        slotMask := mask, pt := fieldLe v 0x10 16, ht := fieldLe v 0x20 16, bnu := fieldLe v 0x30 4,
        cu := fieldLe v 0x34 2, cc := fieldLe v 0x36 2 }

def parseChain (v0 : Bytes) : Option ChainRec :=
  (layout 16 [] 16 v0).bind fun v =>
    let len := fieldLe v 2 1
    let prof := fieldLe v 3 1
    let tiles := (slice v 8 len).map BitVec.toNat
    guardOpt (fieldLe v 0 1 ≤ 63 && fieldLe v 1 1 ≤ 63 && 2 ≤ len && len ≤ 8 &&
        (prof ≤ 3 || (0x10 ≤ prof && prof ≤ 0x1F)) && fieldLe v 4 1 ≤ 3 && allZero (slice v 5 3) &&
        tiles.all (· < 128) && (slice v (8 + len) (8 - len)).all (· == 0xFF))
      { id := fieldLe v 0 1, reach := fieldLe v 1 1, length := len, profile := prof, order := fieldLe v 4 1,
        tiles := tiles }

/-- The opcodes that have a built-in template are the defined ones; `opDefined` of the opcode table is handed in. -/
def parseNode (idx : Nat) (v : Bytes) : Option NodeRec :=
  (NodeClass.ofCode (fieldLe v 0 1)).bind fun cls =>
    let deps := fieldLe v 4 4
    guardOpt (fieldLe v 1 1 ≤ 1 && deps < 2 ^ idx && allZero (slice v 12 4) &&
        (cls != .cc || fieldLe v 2 2 ≤ 1023))
      { cls := cls, output := fieldLe v 1 1 == 1, routine := fieldLe v 2 2, deps := deps, arg := fieldLe v 8 4 }

def parseNodes : Nat → Nat → Bytes → Option (List NodeRec)
  | 0, _, _ => some []
  | n + 1, idx, v =>
    (parseNode idx (v.take 16)).bind fun a => (parseNodes n (idx + 1) (v.drop 16)).map (a :: ·)

/-- The node mask of everything a node waits for, directly or through others (R52). -/
def ancestors (nodes : List NodeRec) : Nat → Nat → Nat
  | 0, _ => 0
  | fuel + 1, i =>
    match nodes[i]? with
    | none => 0
    | some n => (bitList n.deps 32).foldl (fun m j => m ||| 2 ^ j ||| ancestors nodes fuel j) 0

/-- R52's rule: an OUTPUT node exists, and every other one has the first among its ancestors. -/
def outputRule (nodes : List NodeRec) : Bool :=
  match nodes.findIdx? NodeRec.output with
  | none => false
  | some f =>
    (List.range nodes.length).all fun i =>
      i ≤ f || !((nodes[i]?.map NodeRec.output).getD false) || (ancestors nodes 32 i).testBit f

/-- First address of the customer region, and the end of patch RAM (R316). -/
def customerBase : Nat := 0x8000
def patchEnd : Nat := 0x4200

/-- The engine type (R54) whose control store runs a node of a class. -/
def engineOf : NodeClass → Option Nat
  | .pt | .ptChain => some 0
  | .ht => some 1
  | .bnu => some 2
  | .cu => some 3
  | _ => none

/-- R331 on a GRAPH node: a ROUTINE in the customer region lies in the engine's image, and the template's reaches within
the image's. `cust` gives an engine's REACH_MASK and WORD_COUNT. -/
def custNodeOk (cust : Nat → Option (Nat × Nat)) (mask : Nat) (n : NodeRec) : Bool :=
  match engineOf n.cls with
  | none => true
  | some e =>
    if n.routine < customerBase then true
    else match cust e with
      | none => false
      | some (m, c) => customerBase < n.routine && n.routine < customerBase + c && (mask &&& m) == mask

def parseGraph (opDefined : Nat → Bool) (cust : Nat → Option (Nat × Nat)) (v0 : Bytes) : Option GraphRec :=
  let n := fieldLe v0 5 1
  let len := 16 + 16 * n
  (layout len [] len v0).bind fun v =>
    (parseNodes n 0 (v.drop 16)).bind fun nodes =>
      let act := fieldLe v 4 1
      let op := fieldLe v 2 2
      let tpl := fieldLe v 0 2
      guardOpt (0x100 ≤ tpl && tpl ≤ 0x1FF && act ≤ 1 && 1 ≤ n && n ≤ 32 && allZero (slice v 6 2) &&
          (if act == 0 then 0xF00 ≤ op && op ≤ 0xFFF else opDefined op) && outputRule nodes &&
          (act == 0 || nodes.all fun x => x.cls != .cc && x.routine < patchEnd) &&
          nodes.all (custNodeOk cust (fieldLe v 8 8)))
        { template := tpl, opcode := op, override := act == 1, reachMask := fieldLe v 8 8, nodes := nodes }

def parseLevee (v0 : Bytes) : Option LeveeRec :=
  (layout 12 [] 12 v0).bind fun v =>
    let n := fieldLe v 4 2
    let w := fieldLe v 8 4
    guardOpt (fieldLe v 0 1 ≤ 25 && fieldLe v 1 1 ≤ 3 && fieldLe v 2 2 < 512 && 1 ≤ n && n ≤ 1024 &&
        fieldLe v 6 2 ≤ 8760 && 1 ≤ w && w ≤ 86400000 &&
        (!([13, 14, 21, 22].contains (fieldLe v 0 1)) || bitOf (fieldLe v 2 2) 0))
      { source := fieldLe v 0 1, alarmSel := fieldLe v 1 1, actions := fieldLe v 2 2, countN := n,
        bistPeriodH := fieldLe v 6 2, windowMs := w }

/-- The event sources that R451 to R456 list; every other number is reserved. -/
def eventListed (n : Nat) : Bool :=
  if n < 0x100 then
    [0x000, 0x001, 0x002, 0x008, 0x009, 0x010, 0x011, 0x012, 0x013, 0x014, 0x040, 0x041, 0x048, 0x050, 0x051,
     0x052, 0x053, 0x054, 0x055, 0x056, 0x058].contains n || (0x020 ≤ n && n ≤ 0x03F)
  else if n < 0x200 then n % 32 ≤ 9
  else if n < 0x280 then n ≤ 0x219 || (0x220 ≤ n && n ≤ 0x239) || n == 0x240 || n == 0x241
  else if n < 0x300 then n ≤ 0x287 || (0x290 ≤ n && n ≤ 0x294)
  else n < 0x800

def parseEvent (v0 : Bytes) : Option EventRec :=
  (layout 24 [] 24 v0).bind fun v =>
    let src := fieldLe v 0 2
    let fl := fieldLe v 2 1
    let func := fieldLe v 3 1
    let group := decide (0x400 ≤ src)
    guardOpt (eventListed src && fl ≤ 3 && allZero (slice v 12 4) &&
        (group || fieldLe v 16 8 == 0) &&
        (if bitOf fl 1 then 1 ≤ func else group || func == 0))
      { source := src, masked := bitOf fl 0, toVf := bitOf fl 1, func := func, vector := fieldLe v 4 2,
        coalCount := fieldLe v 6 2, coalTimeUs := fieldLe v 8 4, queueMask := fieldLe v 16 8 }

/-- The route entries. DESIGN CHOICE (log entry 109): a DEST_ID above 4095 and a PORT above 7 are out of range. -/
def parseRoutes : Nat → Bytes → Option (List (Nat × Nat))
  | 0, _ => some []
  | n + 1, v =>
    if fieldLe v 2 1 ≤ 7 && fieldLe v 3 1 == 0 && fieldLe v 0 2 ≤ 4095 then
      (parseRoutes n (v.drop 4)).map ((fieldLe v 0 2, fieldLe v 2 1) :: ·)
    else none

def parseConfluence (v0 : Bytes) : Option ConfluenceRec :=
  let n := fieldLe v0 0x18 2
  let len := 0x20 + 4 * n
  (layout len [] len v0).bind fun v =>
    (parseRoutes n (v.drop 0x20)).bind fun routes =>
      let dims := [fieldLe v 4 1, fieldLe v 5 1, fieldLe v 6 1]
      let dirs := (slice v 0x10 8).map BitVec.toNat
      guardOpt (fieldLe v 0 2 ≤ 4095 && fieldLe v 2 1 ≤ 3 && dims.all (fun d => 1 ≤ d && d ≤ 16) &&
          fieldLe v 7 1 ≤ 1 && dirs.all (· ≤ 8) && n ≤ 256 && allZero (slice v 0x1A 6))
        { devId := fieldLe v 0 2, topology := fieldLe v 2 1, portEn := fieldLe v 3 1, dimX := dims.getD 0 1,
          dimY := dims.getD 1 1, dimZ := dims.getD 2 1, keyPolicy := fieldLe v 7 1,
          spillThreshold := fieldLe v 8 4, clusterId := fieldLe v 12 4, portDir := dirs, routes := routes }

def parseWords : Nat → Bytes → List (BitVec 192)
  | 0, _ => []
  | n + 1, v => BitVec.ofNat 192 (leNat (v.take 24)) :: parseWords n (v.drop 24)

def parseUcode (imageOk : Nat → List (BitVec 192) → Bool) (v0 : Bytes) : Option UcodeRec :=
  let n := fieldLe v0 2 2
  let len := 16 + 24 * n
  (layout len [] len v0).bind fun v =>
    let words := parseWords n (v.drop 16)
    guardOpt (fieldLe v 0 1 ≤ 3 && fieldLe v 1 1 == 0 && 1 ≤ n && n ≤ 2048 && allZero (slice v 4 4) &&
        imageOk (fieldLe v 0 1) words)
      { engine := fieldLe v 0 1, reachMask := fieldLe v 8 8, words := words, digest := sha3_384 v0 }

def parseProg (v0 : Bytes) : Option ProgRec :=
  let c := fieldLe v0 8 4
  let dl := fieldLe v0 12 4
  let len := 16 + c + dl
  (layout len [] len v0).bind fun v =>
    let e := fieldLe v 4 4
    guardOpt (fieldLe v 0 2 ≤ 1023 && fieldLe v 2 1 ≤ 63 && fieldLe v 3 1 == 0 && e % 4 == 0 && e < c &&
        c % 4 == 0 && c ≤ 262144 && dl ≤ 262144)
      { id := fieldLe v 0 2, reach := fieldLe v 2 1, entry := e, code := slice v 16 c, data := slice v (16 + c) dl }

/-- RESET_POLICY with the defaults of R53 for the fields beyond LENGTH. -/
def parsePolicy (dflt : PolicyRec) (v0 : Bytes) : Option PolicyRec :=
  (layout 0 [0, 2, 3, 4, 8] 12 v0).bind fun v =>
    let p : PolicyRec :=
      { wdtMs := if v0.length < 2 then dflt.wdtMs else fieldLe v 0 2
        devResetEn := if v0.length < 3 then dflt.devResetEn else fieldLe v 2 1 == 1
        confirmS := if v0.length < 8 then dflt.confirmS else fieldLe v 4 4
        confirmJobs := if v0.length < 12 then dflt.confirmJobs else fieldLe v 8 4 }
    guardOpt (100 ≤ p.wdtMs && p.wdtMs ≤ 10000 && fieldLe v 2 1 ≤ 1 && fieldLe v 3 1 == 0 && 10 ≤ p.confirmS &&
        p.confirmS ≤ 3600) p

/-- A record's parsed value with its place in the stream. -/
inductive Rec where
  | device (r : DeviceRec) | reach (r : ReachRec) | tile (r : TileRec) | chain (r : ChainRec) | graph (r : GraphRec)
  | levee (r : LeveeRec) | event (r : EventRec) | confluence (r : ConfluenceRec) | ucode (r : UcodeRec)
  | prog (r : ProgRec) | policy (r : PolicyRec) | skip
  deriving DecidableEq, Repr

/-- Check 11 on one record: RFLAGS' reserved bits, and the record's own layout and ranges. -/
def parseRec (opDefined : Nat → Bool) (imageOk : Nat → List (BitVec 192) → Bool)
    (cust : Nat → Option (Nat × Nat)) (fmt : Nat) (r : Raw) :
    Option Rec :=
  if r.rflags ≥ 2 then none
  else match r.type with
    | 0x01 => (parseDevice fmt r.val).map .device
    | 0x02 => (parseReach fmt r.val).map .reach
    | 0x03 => (parseTile r.val).map .tile
    | 0x04 => (parseChain r.val).map .chain
    | 0x05 => (parseGraph opDefined cust r.val).map .graph
    | 0x06 => (parseLevee r.val).map .levee
    | 0x07 => (parseEvent r.val).map .event
    | 0x08 => (parseConfluence r.val).map .confluence
    | 0x09 => (parseUcode imageOk r.val).map .ucode
    | 0x0A => (parseProg r.val).map .prog
    | 0x0B => (parsePolicy Setup.empty.policy r.val).map .policy
    | _ => some .skip

/-- Parses every record, or names the first that fails check 11. -/
def parseRecs (f : Raw → Option Rec) : List Raw → Except VErr (List (Nat × Rec))
  | [] => .ok []
  | r :: rs =>
    match f r with
    | none => .error { code := 0x0D, type := r.type, off := r.off }
    | some a => (parseRecs f rs).map ((r.off, a) :: ·)

end Sys2Proof.Machine
end

