-- ==== Sys2Proof/Machine/StreamRules.lean ====
section
/-! DEFINITION. The resource rules of a Watershed stream (R61, R62, check 12), the quiesce rule of a partial stream
(R66, check 13), and the configuration a stream gives (R65, R67, R68). -/

namespace Sys2Proof.Machine

open Sys2Proof

/-- What the checks need to know of the device. -/
structure ValEnv where
  stepping : Nat
  deviceId : Nat
  /-- the digests a signer must match (R58), when a signer is permitted -/
  signer : Option (Bytes × Option Bytes)
  floors : List (Bytes × Nat)
  lastSerial : Nat
  configured : Bool
  /-- units disabled at boot: bitmaps of PT, HT, BNU, CU, CC -/
  disPt : Nat
  disHt : Nat
  disBnu : Nat
  disCu : Nat
  disCc : Nat
  smallStack : Bool
  mappedOut : Option Nat
  /-- reaches that exist and are not quiesced -/
  busyReaches : List Nat
  current : Setup
  /-- pages of each BNU by reach (R253) -/
  parts : List (Nat × List (Nat × Nat))
  deriving DecidableEq, Repr

/-- Tiles per basin by class (R21), and the basin of a tile (R47). -/
def tilesPerBasin : NodeClass → Nat
  | .pt => 16 | .ptChain => 16 | .ht => 12 | .bnu => 4 | .cu => 2 | .cc => 2 | _ => 1

def basinOf (c : NodeClass) (i : Nat) : Nat := i / tilesPerBasin c

/-- The bitmap a TILE_ALLOC record grants of one class (R47). -/
def TileRec.map (t : TileRec) : NodeClass → Nat
  | .pt => t.pt | .ptChain => t.pt | .ht => t.ht | .bnu => t.bnu | .cu => t.cu | .cc => t.cc | _ => 0

def tileClasses : List NodeClass := [.pt, .ht, .bnu, .cu, .cc]

/-- Do two grants name a common tile? -/
def TileRec.meets (a b : TileRec) : Bool := tileClasses.any fun c => (a.map c &&& b.map c) != 0

/-- R61: may these two grants share a tile? -/
def TileRec.compatible (a b : TileRec) : Bool :=
  match a.mode, b.mode with
  | .framed, .framed => (a.slotMask &&& b.slotMask) == 0
  | .pooled, .pooled => true
  | _, _ => false

/-- One violation of check 12, at the field of the record's value that stands lowest among those the rule names. -/
def err (code type off : Nat) (fld : Nat := 0) : List VErr := [{ code := code, type := type, off := off, fld := fld }]

/-- For each element, its violations given the elements before it. -/
def scanErrs {α : Type} (f : List α → α → List VErr) : List α → List α → List VErr
  | _, [] => []
  | seen, a :: rest => f seen a ++ scanErrs f (seen ++ [a]) rest

/-- Vault quota of a reach in MiB (R292). -/
def vaultQuota (vaultMib keyCount : Nat) : Nat := (vaultMib - 32) * keyCount / 1048576

/-- The four region sizes of a reach (R45). -/
def ReachRec.regions (r : ReachRec) : Nat := r.privMib + r.treeMib + r.matrixMib + r.mceMib

/-- The HBM a stream may use in MiB (R2). -/
def hbmCapacity (small mapped : Bool) : Nat :=
  if small then (if mapped then 6464 else 6912) else (if mapped then 13184 else 14080)

/-- R61 on reaches: identity, functions, queues, key slots, HBM and pseudo-channels. A sum is reported at the record that
first exceeds it (DESIGN CHOICE, log entry 107). -/
def reachErrs (env : ValEnv) (vault : Nat) (rs : List (Nat × ReachRec)) : List VErr :=
  scanErrs (fun seen (x : Nat × ReachRec) =>
    let off := x.1
    let r := x.2
    let queues := (seen ++ [x]).map fun y => popCount y.2.functions 256 * y.2.queues
    let hbm := (seen ++ [x]).map fun y => y.2.regions
    let pch := (seen ++ [x]).foldl (fun m y => m ||| y.2.pchMask) 0
    (if seen.any (fun y => y.2.id == r.id) then err 0x0E 2 off else []) ++
    (if r.id != 0 && bitOf r.functions 0 then err 0x0E 2 off 0x60 else []) ++
    (if r.id == 0 && !bitOf r.functions 0 then err 0x0E 2 off 0x60 else []) ++
    (if seen.any (fun y => (y.2.functions &&& r.functions) / 2 != 0) then err 0x10 2 off 0x60 else []) ++
    (if 4096 < queues.sum then err 0x0E 2 off 3 else []) ++
    (if 1048576 < r.keyBase + r.keyCount then err 0x0E 2 off 8 else []) ++
    (if seen.any (fun y => r.keyBase < y.2.keyBase + y.2.keyCount && y.2.keyBase < r.keyBase + r.keyCount) then
      err 0x10 2 off 8 else []) ++
    (if hbmCapacity env.smallStack env.mappedOut.isSome < vault + hbm.sum then err 0x11 2 off 0x18 else []) ++
    (if r.pchMask != 0 && !r.strict then err 0x0E 2 off 0x10 else []) ++
    (if seen.any (fun y => (y.2.pchMask &&& r.pchMask) != 0) then err 0x10 2 off 0x10 else []) ++
    (if (if env.mappedOut.isSome then 11 else 12) < popCount pch 16 ||
        env.mappedOut.any (fun n => bitOf r.pchMask n) then err 0x11 2 off 0x10 else []) ++
    (if r.pchMask != 0 &&
        (if env.smallStack then 432 else 880) * popCount r.pchMask 16 <
          r.regions + ceilDiv (32 * r.keyCount) 1048576 + vaultQuota vault r.keyCount then err 0x11 2 off 0x0C else []))
    [] rs

/-- The field of a TILE_ALLOC record that holds the bitmap of a class (R47). -/
def mapField : NodeClass → Nat
  | .ht => 0x20 | .bnu => 0x30 | .cu => 0x34 | .cc => 0x36 | _ => 0x10

/-- The first bitmap of a grant with a tile that meets the condition. -/
def TileRec.firstField (t : TileRec) (f : NodeClass → Nat) : Nat :=
  ((tileClasses.find? fun c => (t.map c &&& f c) != 0).map mapField).getD 0

/-- The bitmap of a class that names the units disabled at boot. -/
def ValEnv.disabled (env : ValEnv) : NodeClass → Nat
  | .pt => env.disPt | .ht => env.disHt | .bnu => env.disBnu | .cu => env.disCu | .cc => env.disCc | _ => 0

/-- R61 and R62 on tile grants. `rs` are the reaches of the configuration that would result. -/
def tileErrs (env : ValEnv) (degrade : Bool) (streamReaches : List Nat) (rs : List ReachRec)
    (ts : List (Nat × TileRec)) : List VErr :=
  scanErrs (fun seen (x : Nat × TileRec) =>
    let off := x.1
    let t := x.2
    let strict := (rs.find? fun r => r.id == t.reach).map ReachRec.strict
    let absent := tileClasses.any fun c => (t.map c &&& env.disabled c) != 0
    (if absent && !(degrade && t.mode == .pooled) then err 0x0F 3 off (t.firstField env.disabled) else []) ++
    (seen.flatMap fun y => if t.meets y.2 && !t.compatible y.2 then err 0x10 3 off (t.firstField y.2.map) else []) ++
    (if off != 0 && !streamReaches.contains t.reach then err 0x0E 3 off else []) ++
    (if (strict == some true && t.mode == .pooled) || (strict == some false && t.mode == .framed) then
      err 0x0E 3 off 1 else [])) [] ts

/-- Does a list name a number twice? -/
def hasDup : List Nat → Bool
  | [] => false
  | a :: as => as.contains a || hasDup as

/-- R61 on chains. -/
def chainErrs (env : ValEnv) (custPt : Bool) (streamReaches : List Nat) (rs : List ReachRec) (ts : List TileRec)
    (cs : List (Nat × ChainRec)) : List VErr :=
  scanErrs (fun seen (x : Nat × ChainRec) =>
    let off := x.1
    let c := x.2
    let own (i : Nat) := ts.any fun t => t.reach == c.reach && bitOf t.pt i && t.mode != .pooled
    let minOrder := ((rs.find? fun r => r.id == c.reach).map ReachRec.maskMin).getD 0
    (if c.tiles.any (fun i => bitOf env.disPt i) then err 0x0F 4 off 8 else []) ++
    (if seen.any (fun y => y.2.tiles.any (c.tiles.contains ·)) then err 0x10 4 off 8 else []) ++
    (if seen.any (fun y => y.2.id == c.id) || (off != 0 && !streamReaches.contains c.reach) || c.order < minOrder ||
        (0x10 ≤ c.profile && !custPt) then err 0x0E 4 off else []) ++
    (if !(c.tiles.all fun i => basinOf .pt i == basinOf .pt (c.tiles.headD 0)) || hasDup c.tiles ||
        !(c.tiles.all own) then err 0x0E 4 off 8 else [])) [] cs

/-- MSI-X vectors of the PF and of each VF (R72). -/
def msixVectors (fn : Nat) : Nat := if fn = 0 then 256 else 64

/-- R61 on one EVENT record: TO_VF only for sources of the VF's reach; vectors below the table's size. -/
def eventOk (rs : List ReachRec) (e : EventRec) : Bool :=
    let ofVf := rs.any fun r => bitOf r.functions e.func && 0 < e.func &&
      (0x400 ≤ e.source || (0x300 ≤ e.source && (e.source - 0x300) / 4 == r.id))
    if e.toVf then ofVf && e.vector < msixVectors e.func else e.vector < msixVectors 0

def eventErrs (rs : List ReachRec) (es : List (Nat × EventRec)) : List VErr :=
  es.flatMap fun x => if eventOk rs x.2 then [] else err 0x0E 7 x.1

/-- R61 on the events a partial stream keeps: an EVENT record that the resulting reaches break stands in no record of the
stream; the stream's first REACH record is reported (DESIGN CHOICE, log entry 79). -/
def keptEventErrs (rs : List ReachRec) (kept : List EventRec) (at_ : Nat) : List VErr :=
  if kept.all (eventOk rs) then [] else err 0x0E 2 at_

/-- R61 on the cluster. A port with any direction, spare and host-adjacent ones included, must be enabled (DESIGN CHOICE,
log entry 80). -/
def clusterOk (large : Bool) (c : ConfluenceRec) : Bool :=
  let n := c.dimX * c.dimY * c.dimZ
  let dir (i : Nat) : Bool := (c.portDir.getD i 0) != 0
  let uses (d : Nat) : Bool := c.portDir.contains d
  n ≤ (if large then 4096 else 64) && c.devId < n &&
  (List.range 8).all (fun p => !dir p || bitOf c.portEn p) &&
  (match c.topology with
    | 0 => n == 1 && c.portDir.all (· == 0)
    | 1 => 2 ≤ c.dimX && c.dimY == 1 && c.dimZ == 1 && !(uses 3) && !(uses 4) && !(uses 5) && !(uses 6)
    | 2 => c.dimZ == 1 && !(uses 5) && !(uses 6)
    | _ => true) &&
  (c.topology == 0 || (
    (2 ≤ c.dimX || (!(uses 1) && !(uses 2))) && (2 ≤ c.dimY || (!(uses 3) && !(uses 4))) &&
    (2 ≤ c.dimZ || (!(uses 5) && !(uses 6)))))

/-- R61 on owner programs and the templates that name them. -/
def progErrs (streamReaches : List Nat) (ps : List (Nat × ProgRec)) : List VErr :=
  scanErrs (fun seen (x : Nat × ProgRec) =>
    let p := x.2
    let size := ((seen ++ [x]).filter fun y => y.2.reach == p.reach).map fun y => y.2.code.length + y.2.data.length
    if seen.any (fun y => y.2.id == p.id) || !streamReaches.contains p.reach || 1048576 < size.sum then
      err 0x0E 0x0A x.1 else []) [] ps

def graphErrs (ps : List ProgRec) (gs : List (Nat × GraphRec)) : List VErr :=
  gs.flatMap fun x =>
    if x.2.nodes.all fun n => n.cls != .cc ||
        ps.any fun p => p.id == n.routine && bitOf x.2.reachMask p.reach then []
    else err 0x0E 5 x.1

/-- The place of a check-12 code in the table of R60, for two failures of one field. -/
def codeRank (c : Nat) : Nat := if c = 0x0F then 0 else if c = 0x10 then 1 else if c = 0x11 then 2 else 3

/-- Does a failure come before another: at a lower record, at a lower field of one record, or earlier in the table of R60 at
one field (log entry 107)? -/
def VErr.before (a b : VErr) : Bool :=
  a.off < b.off || (a.off == b.off && (a.fld < b.fld || (a.fld == b.fld && codeRank a.code < codeRank b.code)))

/-- The failure of the field at the lowest offset (R60). -/
def firstErr : List VErr → Option VErr
  | [] => none
  | e :: es =>
    match firstErr es with
    | none => some e
    | some f => if f.before e then some f else some e

/-! ## The configuration a stream gives -/

def collect {α : Type} (f : Rec → Option α) (rs : List (Nat × Rec)) : List (Nat × α) :=
  rs.filterMap fun x => (f x.2).map fun a => (x.1, a)

def recReach : Rec → Option ReachRec | .reach r => some r | _ => none
def recTile : Rec → Option TileRec | .tile r => some r | _ => none
def recChain : Rec → Option ChainRec | .chain r => some r | _ => none
def recGraph : Rec → Option GraphRec | .graph r => some r | _ => none
def recLevee : Rec → Option LeveeRec | .levee r => some r | _ => none
def recEvent : Rec → Option EventRec | .event r => some r | _ => none
def recCfl : Rec → Option ConfluenceRec | .confluence r => some r | _ => none
def recUcode : Rec → Option UcodeRec | .ucode r => some r | _ => none
def recProg : Rec → Option ProgRec | .prog r => some r | _ => none
def recPolicy : Rec → Option PolicyRec | .policy r => some r | _ => none
def recDevice : Rec → Option DeviceRec | .device r => some r | _ => none

/-- R62: drops the tiles disabled at boot from a POOLED grant. -/
def dropDisabled (env : ValEnv) (t : TileRec) : TileRec :=
  if t.mode = .pooled then
    { t with pt := t.pt - (t.pt &&& env.disPt), ht := t.ht - (t.ht &&& env.disHt),
             bnu := t.bnu - (t.bnu &&& env.disBnu), cu := t.cu - (t.cu &&& env.disCu),
             cc := t.cc - (t.cc &&& env.disCc) }
  else t

/-- The configuration after the commit: a full stream stands alone; a partial stream replaces the reaches it names with
their tiles and chains and keeps the rest (R67). -/
def resultSetup (env : ValEnv) (part : Bool) (rs : List (Nat × Rec)) : Setup :=
  let reaches := (collect recReach rs).map Prod.snd
  let named := reaches.map ReachRec.id
  let tiles := (collect recTile rs).map fun x => dropDisabled env x.2
  let chains := (collect recChain rs).map Prod.snd
  let cur := env.current
  if part then
    { cur with
      reaches := cur.reaches.filter (fun r => !named.contains r.id) ++ reaches
      tiles := cur.tiles.filter (fun t => !named.contains t.reach) ++ tiles
      chains := cur.chains.filter (fun c => !named.contains c.reach) ++ chains }
  else
    { device := (((collect recDevice rs).map Prod.snd).head?).getD Setup.empty.device
      reaches := reaches
      tiles := tiles
      chains := chains
      graphs := (collect recGraph rs).map Prod.snd
      levee := (collect recLevee rs).map Prod.snd
      events := (collect recEvent rs).map Prod.snd
      confluence := ((collect recCfl rs).map Prod.snd).head?
      ucode := (collect recUcode rs).map Prod.snd
      progs := (collect recProg rs).map Prod.snd
      policy := (((collect recPolicy rs).map Prod.snd).head?).getD Setup.empty.policy }

/-! ## Operand-memory partitions (R253) -/

/-- The reaches that may use a BNU, rising. -/
def Setup.bnuUsers (c : Setup) (i : Nat) : List Nat :=
  (List.range 64).filter fun r => c.tiles.any fun t => t.reach == r && bitOf t.bnu i

/-- A full commit's partitions of one BNU. -/
def Setup.fullPages (c : Setup) (i : Nat) : List (Nat × Nat) :=
  let us := c.bnuUsers i
  us.map fun r => (r, 128 / us.length)

/-- A partial commit's partitions of one BNU: the reaches of the stream share what they held and what nobody holds. -/
def Setup.partialPages (c : Setup) (old : List (Nat × Nat)) (named : List Nat) (i : Nat) : List (Nat × Nat) :=
  let kept := old.filter fun x => !named.contains x.1
  let us := (c.bnuUsers i).filter fun r => named.contains r
  let free := 128 - (kept.map Prod.snd).sum
  kept ++ us.map fun r => (r, free / us.length)

def Setup.pages (c : Setup) (old : List (Nat × List (Nat × Nat))) (part : Bool) (named : List Nat) (i : Nat) :
    List (Nat × Nat) :=
  if part then c.partialPages (tget [] old i) named i else c.fullPages i

/-- A partial stream that leaves a reach fewer than 2 pages of a BNU it may use. -/
def pageErrs (env : ValEnv) (c : Setup) (named : List Nat) (ts : List (Nat × TileRec)) : List VErr :=
  ts.flatMap fun x =>
    if (bitList x.2.bnu 32).any fun i =>
        (c.pages env.parts true named i).any fun p => p.1 == x.2.reach && p.2 < 2 then err 0x0E 3 x.1 0x30 else []

/-- Check 12 (R61, R62). A missing reach 0 has no record: RECORD_TYPE and offset 0 (DESIGN CHOICE, log entry 107). -/
def resourceErrs (env : ValEnv) (part : Bool) (rs : List (Nat × Rec)) : Option VErr :=
  let cfg := resultSetup env part rs
  let old {α : Type} (xs : List α) : List (Nat × α) := xs.map fun a => (0, a)
  let streamReaches := (collect recReach rs).map fun x => x.2.id
  let keep (i : Nat) : Bool := !streamReaches.contains i
  let reaches := (if part then old (env.current.reaches.filter fun r => keep r.id) else []) ++ collect recReach rs
  let tiles := (if part then old (env.current.tiles.filter fun t => keep t.reach) else []) ++ collect recTile rs
  let chains := (if part then old (env.current.chains.filter fun c => keep c.reach) else []) ++ collect recChain rs
  let dev := (collect recDevice rs).head?
  let devErrs := match dev with
    | some (off, d) => if part || d.reachCount == (collect recReach rs).length then [] else err 0x0E 1 off
    | none => []
  let zeroErrs := if part || streamReaches.contains 0 then [] else err 0x0E 0 0
  let custPt := cfg.ucode.any fun u => u.engine == 0
  let all := devErrs ++ zeroErrs ++ reachErrs env cfg.device.vaultMib reaches ++
    tileErrs env cfg.device.degradeOk streamReaches cfg.reaches tiles ++
    chainErrs env custPt streamReaches cfg.reaches cfg.tiles chains ++
    eventErrs cfg.reaches (collect recEvent rs) ++
    (if part then keptEventErrs cfg.reaches env.current.events (((collect recReach rs).head?.map Prod.fst).getD 0) else []) ++
    (collect recCfl rs).flatMap (fun x => if clusterOk cfg.device.large x.2 then [] else err 0x0E 8 x.1) ++
    (if part then pageErrs env cfg streamReaches (collect recTile rs) else []) ++
    progErrs streamReaches (collect recProg rs) ++
    graphErrs cfg.progs (collect recGraph rs)
  firstErr (all.filter fun e => !part || e.off != 0)

/-- Check 13 (R66): every existing reach the partial stream names is quiesced, and every tile it grants is unallocated
or allocated only to reaches it names. -/
def quiesceErr (env : ValEnv) (part : Bool) (rs : List (Nat × Rec)) : Option VErr :=
  if !part then none
  else
    let reaches := collect recReach rs
    let named := reaches.map fun x => x.2.id
    let others := env.current.tiles.filter fun t => !named.contains t.reach
    let all :=
      reaches.flatMap (fun x => if env.busyReaches.contains x.2.id then err 0x12 2 x.1 else []) ++
      (collect recTile rs).flatMap (fun x => if others.any (x.2.meets ·) then err 0x12 3 x.1 else [])
    firstErr all

end Sys2Proof.Machine
end

