-- ==== Sys2Proof/Machine/Ops.lean ====
section
/-! DEFINITION. The named operations that every block shares: access to the tables of State, device and cluster time,
MSI-X messages and events (R451 to R460), capture requests (R461 to R463), flooded messages (R378, R379), pins
(R497), and the conditions under which the host and the engines are heard (R403, R411, R434, R436). -/

namespace Sys2Proof.Machine

open Sys2Proof

/-! ## Tables -/

def State.fn (s : State) (n : Nat) : FnState := tget FnState.reset s.fns n
def State.setFn (s : State) (n : Nat) (f : FnState) : State := { s with fns := tset s.fns n f }
def State.reach (s : State) (n : Nat) : ReachState := tget ReachState.reset s.reaches n
def State.setReach (s : State) (n : Nat) (r : ReachState) : State := { s with reaches := tset s.reaches n r }
def qkey (fn q : Nat) : Nat := fn * 64 + q
def State.queue (s : State) (k : Nat) : Queue := tget Queue.reset s.queues k
def State.setQueue (s : State) (k : Nat) (q : Queue) : State := { s with queues := tset s.queues k q }
def State.slot (s : State) (n : Nat) : Slot := tget Slot.reset s.slots n
def State.setSlot (s : State) (n : Nat) (x : Slot) : State := { s with slots := tset s.slots n x }

/-- The key of a tile's record; units 1 to 4 of an HT have records of their own (R230, log entry 93). -/
def tkey (c : NodeClass) (i : Nat) : Nat := c.code * 256 + i
def laneKey (i u : Nat) : Nat := tkey .ht i + 4096 * u

/-- What a key names: class code, number, and unit. -/
def keyClass (k : Nat) : Nat := k % 4096 / 256
def keyIndex (k : Nat) : Nat := k % 256
def keyUnit (k : Nat) : Nat := k / 4096

/-- The keys of all records of a tile. -/
def unitKeys (c : NodeClass) (i : Nat) : List Nat :=
  match c with
  | .ht => (List.range 5).map (laneKey i)
  | c => [tkey c i]

def State.tile (s : State) (k : Nat) : Tile := tget Tile.reset s.tiles k
def State.setTile (s : State) (k : Nat) (t : Tile) : State := { s with tiles := tset s.tiles k t }
def State.cprofOf (s : State) (k : Nat) : CustProf := tget CustProf.reset s.cprof k
def State.core (s : State) (i : Nat) : Core := tget Core.reset s.cores i
def State.setCore (s : State) (i : Nat) (c : Core) : State := { s with cores := tset s.cores i c }
def State.port (s : State) (p : Nat) : Port := tget Port.reset s.cfl.ports p
def State.setPort (s : State) (p : Nat) (x : Port) : State :=
  { s with cfl := { s.cfl with ports := tset s.cfl.ports p x } }
def State.source (s : State) (n : Nat) : EvtSrc := tget EvtSrc.reset s.evt.src n
def State.setSource (s : State) (n : Nat) (e : EvtSrc) : State :=
  { s with evt := { s.evt with src := tset s.evt.src n e } }
def State.drbg (s : State) (i : Nat) : Drbg := tget Drbg.reset s.spr.drbg i
def State.setDrbg (s : State) (i : Nat) (d : Drbg) : State :=
  { s with spr := { s.spr with drbg := tset s.spr.drbg i d } }
def State.basin (s : State) (b : Nat) : BasinSt := tget .inService s.rst.basins b
def State.setBasin (s : State) (b : Nat) (x : BasinSt) : State :=
  { s with rst := { s.rst with basins := tset s.rst.basins b x } }
def State.job (s : State) (id : Nat) : Option Job := s.jobs.find? fun j => j.id == id

/-- One job, in the unit of a rate-limit bucket's content (R140). -/
def jobUnit : Nat := 1000000000

/-- Replaces the job of a number. -/
def State.setJob (s : State) (j : Job) : State :=
  { s with jobs := s.jobs.map fun x => if x.id = j.id then j else x }

def State.sent (s : State) (o : Out) : State := { s with tx := s.tx ++ [o] }

/-- The committed REACH record of a reach. -/
def Setup.reach (c : Setup) (r : Nat) : Option ReachRec := c.reaches.find? fun x => x.id == r

/-- The reach a function belongs to in the committed configuration (R45, R61). -/
def Setup.reachOf (c : Setup) (fn : Nat) : Option Nat := (c.reaches.find? fun x => bitOf x.functions fn).map ReachRec.id

def reachBits : List Nat := List.range 64

/-! ## When the device hears -/

/-- The life cycle is SCRAPPED, by code or by vote, as boot step 1 found it (R403). -/
def State.scrapped (s : State) : Bool := s.lcs.sensed && s.lcs.st == .scrapped

/-- Register accesses reach the device: as `hostOpen`, and under a HALT, where status registers still work (R411). -/
def State.hostLinked (s : State) : Bool := !s.rst.inReset && s.rst.linkUp && !s.scrapped

/-- PF and VF registers answer: the endpoint has left Configuration Request Retry Status (R436), the part is not
SCRAPPED (R403), and HALT has not run (R411). -/
def State.hostOpen (s : State) : Bool := !s.rst.inReset && s.rst.linkUp && !s.scrapped && !s.lev.halted

/-- The engines, the Sluice and the ports run: no reset, no SAFE_STANDBY (R434), no HALT (R411). -/
def State.alive (s : State) : Bool :=
  !s.rst.inReset && !s.rst.safeStandby && !s.lev.halted && !s.scrapped

/-- Boot step 1 has ended, or the boot has stopped in SAFE_STANDBY, so status and management port answer (R434, R494). -/
def State.awake (s : State) : Bool := !s.rst.inReset && (s.lcs.sensed || s.rst.safeStandby)

/-- The function is there: the PF, or a VF that VF Enable and NumVFs enable (R78). -/
def State.fnOpen (s : State) (fn : Nat) : Bool := fn == 0 || (s.glb.vfEnable && fn ≤ s.glb.numVfs)

/-- The function is there and belongs to a present reach: CONFIGURED (R77, R78, R93). -/
def State.fnConfigured (s : State) (fn : Nat) : Bool :=
  s.fnOpen fn && (match s.cfg.reachOf fn with | some r => (s.reach r).st != .absent | none => false)

/-- The effect of a host command, which a closed device ignores. -/
def hostCmd (s t : State) : Host.Outcome State Fault Refusal := .next (if s.hostOpen then t else s)

/-- The effect of an event inside the running device, which does not occur in one that is stopped. -/
def engineCmd (s t : State) : Host.Outcome State Fault Refusal := .next (if s.alive then t else s)

/-! ## Time -/

/-- Cluster time's offset: corrections are slewed at no more than 100 ppm (R385). -/
def Cfl.offsetAt (c : Cfl) (now : Nat) : Int :=
  let step : Int := Int.ofNat ((now - c.slewAt) / 10000)
  let d := c.timeTarget - c.timeOffset
  c.timeOffset + (if step < d then step else if d < -step then -step else d)

def State.clusterTime (s : State) : Nat := (Int.ofNat s.now + s.cfl.offsetAt s.now).toNat

/-- The timestamp of logs and captures (R412, R462). -/
def State.stamp (s : State) : Nat := if s.cfl.timeValid then s.clusterTime else s.now

/-- FCLK now, in MHz: THROTTLE limits it to 625 while a source with THROTTLE is latched (R411). -/
def State.fclk (s : State) : Nat :=
  if s.lev.src.any fun x => x.2.latched && x.2.throttle then min 625 s.pwr.fclkMhz else s.pwr.fclkMhz

/-- The running frame slot, counted from device time 0, and the start of a slot, rounded up to a nanosecond (R136). -/
def State.slotNo (s : State) : Nat := s.now * 64 / (s.cfg.device.frameUs * 1000)
def State.slotStart (s : State) (n : Nat) : Nat := ceilDiv (n * s.cfg.device.frameUs * 1000) 64

/-- The end of a commit: WSH_APPLY_US counts from the COMMIT write, the wait of R279 included (R65, R71). -/
def State.stampCommit (s : State) : State := { s with wsh := { s.wsh with applyUs := (s.now - s.wsh.commitAt) / 1000 } }

/-! ## Sizes of the fleet -/

def classCount : NodeClass → Nat
  | .pt => 128 | .ht => 96 | .bnu => 32 | .cu => 16 | .cc => 16 | .ptChain => 64 | _ => 0

/-- Is the committed class LARGE; before the first COMMIT the always-on copy applies (R420). -/
def State.large (s : State) : Bool := if s.wsh.configured then s.cfg.device.large else s.ao.large

/-- TIMING_ISOLATED: a STRICT reach with dedicated pseudo-channels and no POOLED grant (R88, R89). -/
def State.isolated (s : State) (r : Nat) : Bool :=
  match s.cfg.reach r with
  | none => false
  | some x => x.strict && x.pchMask != 0

/-! ## MSI-X -/

/-- TotalVFs and InitialVFs of the SR-IOV capability (R72). -/
def totalVfs : Nat := 255

/-- Vectors of a function: 256 on the PF, 64 on a VF (R72). -/
def vectorsOf (fn : Nat) : Nat := if fn = 0 then 256 else 64

/-- Relaxed Ordering is enabled: Device Control's bit of the PF, which holds for its VFs (R72, log entry 114). -/
def State.relaxed (s : State) : Bool := bitOf (s.fn 0).devCtl 4

/-- A write of output data to host memory; completion entries and MSI-X messages never carry the attribute (R72). -/
def State.dataWrite (s : State) (fn : Nat) (p : Nat × Bytes) : Out := .hostWrite fn p.1 p.2 s.relaxed

/-- May a message of this function and vector leave now (R458, R74)? A VF that is not enabled is absent (R78). -/
def State.msixOpen (s : State) (fn v : Nat) : Bool :=
  let f := s.fn fn
  s.fnOpen fn && f.msixEnable && !f.funcMask && f.vecOpen.contains v && !f.d3hot && v < vectorsOf fn

def addOnce (xs : List Nat) (v : Nat) : List Nat := if xs.contains v then xs else xs ++ [v]

/-- Sets the PBA bit of a blocked vector (R458). -/
def State.blockVector (s : State) (fn v : Nat) : State :=
  let f := s.fn fn
  s.setFn fn { f with pba := addOnce f.pba v }

/-- A queue's direct message (R456): sent, or kept for the time the vector opens. -/
def State.directMsg (s : State) (fn v : Nat) : State :=
  if s.msixOpen fn v then s.sent (.msix fn v)
  else
    let s := s.blockVector fn v
    s.setFn fn { s.fn fn with direct := addOnce (s.fn fn).direct v }

/-! ## Events -/

/-- Where a source's message goes and how it coalesces (R456 to R458): function, vector, COAL_COUNT, COAL_TIME_US. -/
structure Route where
  fn : Nat
  vector : Nat
  count : Nat
  timeUs : Nat
  deriving DecidableEq, Repr

def defaultVector (src : Nat) : Nat :=
  if src < 0x100 then 0 else if src < 0x200 then 1 else if src < 0x280 then 2 else if src < 0x300 then 3
  else 4 + (src - 0x300) / 4

def State.route (s : State) (src : Nat) : Route :=
  match s.cfg.events.find? fun e => e.source == src with
  | some e => { fn := if e.toVf then e.func else 0, vector := e.vector, count := e.coalCount, timeUs := e.coalTimeUs }
  | none => { fn := 0, vector := defaultVector src, count := 0, timeUs := 0 }

/-- Sends the source's message, or leaves it counted behind a closed vector (R458). -/
def State.sendEvent (s : State) (src : Nat) : State :=
  let r := s.route src
  if s.msixOpen r.fn r.vector then
    (s.sent (.msix r.fn r.vector)).setSource src { s.source src with unsent := 0 }
  else s.blockVector r.fn r.vector

/-- Has the unsent count reached its limit (R458)? With both coalescing values 0 every occurrence does. -/
def coalDue (r : Route) (unsent : Nat) : Bool :=
  if r.count == 0 && r.timeUs == 0 then true else r.count != 0 && r.count ≤ unsent

/-- One occurrence of a source (R458); a reserved number never occurs (R451). -/
def State.raise0 (s : State) (src cause : Nat) : State :=
  if !eventListed src then s
  else
    let e := s.source src
    let e' := { e with pending := true, unsent := e.unsent + 1, cause := cause,
                       oldest := if e.unsent = 0 then s.now else e.oldest }
    let s := s.setSource src e'
    if !e'.mask && coalDue (s.route src) e'.unsent then s.sendEvent src else s

/-! ## Messages -/

def State.upPorts (s : State) : List Nat := (List.range 8).filter fun p => (s.port p).st == .up

def State.devId (s : State) : Nat := (s.cfg.confluence.map ConfluenceRec.devId).getD 0

/-- The IV of a port's next frame: the direction byte, three zero bytes, the frame counter (R376). -/
def Port.frameIv (x : Port) : Bytes := toLe 1 (b2n (!x.initiator)) ++ zeros 3 ++ toLe 8 x.txFrames

/-- A message as it leaves the port: once keys are in use, under AES-256-GCM with the frame header as AAD (R376; the header
and the frame's size are free, log entry 16). -/
def Port.onWire (x : Port) (cls : Nat) (body : Bytes) : Bytes :=
  if x.txKey.isEmpty then body
  else
    let h := Config.frameHeader cls body.length
    let c := gcmSeal x.txKey x.frameIv h body 16
    h ++ c.1 ++ c.2

/-- One frame leaves a port: its counter moves on (R376). -/
def State.sendFrame (s : State) (p cls dest : Nat) (body : Bytes) : State :=
  let x := s.port p
  (s.sent (.frame p cls dest body)).setPort p { x with wire := x.onWire cls body, txFrames := x.txFrames + 1 }

def State.countTx (s : State) : State := { s with cfl := { s.cfl with msgTx := satAdd 0xFFFFFFFF s.cfl.msgTx 1 } }

/-- The EPOCH that a message of a device-level class carries: this device's own (R379). -/
def State.ownEpoch (s : State) : Nat := (s.reach 0).epoch.toNat

/-- The 24-byte message header (R379). -/
def msgHeader (cls flags ttl reach src dst epoch seq len status : Nat) : Bytes :=
  toLe 1 cls ++ toLe 1 flags ++ toLe 1 ttl ++ toLe 1 reach ++ toLe 2 src ++ toLe 2 dst ++ toLe 4 epoch ++ toLe 4 seq ++
    toLe 4 len ++ toLe 4 status

/-- Floods a message of this device on every UP port (R378), and remembers its own number. -/
def State.flood (s : State) (cls : Nat) (payload : Bytes) : State :=
  let ports := s.upPorts
  let body := msgHeader cls 1 48 0xFF s.devId 0xFFFF s.ownEpoch s.cfl.seq payload.length 0 ++ payload
  let t := (ports.foldl (fun t p => State.sendFrame t p cls 0xFFFF body) s).countTx
  { t with cfl := { t.cfl with seq := s.cfl.seq + 1, seen := s.cfl.seen ++ [(s.devId, s.cfl.seq)] } }

/-! ## Captures -/

/-- Trigger sources (R461) as bits of SNP_STAT.SOURCES. -/
inductive Trigger where
  | pin | command | eventMatch | confluence | levee
  deriving DecidableEq, Repr

def Trigger.bit : Trigger → Nat
  | .pin => 0 | .command => 1 | .eventMatch => 2 | .confluence => 3 | .levee => 4

def Snp.enabled (n : Snp) : Trigger → Bool
  | .pin => n.enPin | .command => n.enCmd | .eventMatch => n.matchEn | .confluence => n.enCfl | .levee => n.enLevee

/-- The FULL view of R464. -/
def State.fullView (s : State) : Bool := s.lcs.st == .blank || s.lcs.st == .testUnlocked

def Snp.missOne (n : Snp) : Snp := { n with missed := satAdd 0xFFFFFFFF n.missed 1 }

/-- A request that takes a capture (R462, R463), with event 0x058. -/
def State.takeCapture (s : State) (t : Trigger) : State :=
  let src := 2 ^ t.bit
  let s := { s with snp := { s.snp with
    frozen := true, sources := src, fullView := s.fullView, captures := s.snp.captures + 1,
    record := { stamp := s.stamp, sources := src } } }
  let s := s.raise0 0x058 (b2n s.snp.fullView * 256 + src)
  -- an armed match on event 0x058 itself finds the device frozen
  if s.snp.matchEn && s.snp.matchSrc == 0x058 then { s with snp := s.snp.missOne } else s

/-- A request of an enabled source (R461 to R463): TRIG_OUT, the flood of a local request, and the capture or the missed
count. Nothing is captured before boot step 16 (R465). -/
def State.requestCapture (s : State) (t : Trigger) : State :=
  if !s.snp.enabled t then s
  else
    let s := { s with pins := { s.pins with trigOut := true } }
    let s := if s.snp.broadcast && t != .confluence then s.flood 0x04 [] else s
    if s.snp.frozen then { s with snp := s.snp.missOne }
    else if s.snp.arm && s.rst.inService then s.takeCapture t
    else s

/-- An occurrence with the event-match trigger (R461). -/
def State.raise (s : State) (src cause : Nat) : State :=
  let s := s.raise0 src cause
  if eventListed src && s.snp.matchEn && s.snp.matchSrc == src then s.requestCapture .eventMatch else s

/-- A reach source's cause (R455). -/
def reachCause (kind fn q detail : Nat) : Nat := kind * 2 ^ 24 + fn * 2 ^ 16 + q * 2 ^ 8 + detail

def State.raiseReach (s : State) (r k cause : Nat) : State := s.raise (0x300 + 4 * r + k) cause

def State.raiseBasin (s : State) (b k cause : Nat) : State := s.raise (0x100 + 32 * b + k) cause

/-- The signal of one written completion entry (R456): its queue's lowest group, or the queue's own vector. -/
def State.signalQueue (s : State) (fn q : Nat) : State :=
  let groups := (s.cfg.events.filter fun e => 0x400 ≤ e.source && e.func == fn && bitOf e.queueMask q).map
    EventRec.source
  match groups with
  | [] => s.directMsg fn (if fn = 0 then 68 + q else q)
  | g :: gs => s.raise (gs.foldl min g) 0

/-! ## The boot journal (R432) -/

/-- Writes the outcome of a boot step: 1 OK, 2 by alternative, 3 failed. The ledger's journal holds it once its record
of this boot exists and the die is not read-only. -/
def State.stepOutcome (s : State) (n code : Nat) : State :=
  let put (r : BootRec) : BootRec := { r with steps := r.steps.set (n - 1) code }
  let no := (s.ao.bootCur.map BootRec.no).getD 0
  let boots := match s.ledger.boots with
    | r :: rest => if r.no = no ∧ s.ledger.readOnly = false then put r :: rest else r :: rest
    | [] => []
  { s with
    rst := { s.rst with outcomes := s.rst.outcomes.set (n - 1) code }
    ao := { s.ao with bootCur := s.ao.bootCur.map put }
    ledger := { s.ledger with boots := boots } }

/-! ## Pins -/

/-- The conditions of R497 as a bitmap: FAULT_N, THERM_N, then each latched Levee source. -/
def State.alertConds (s : State) : Nat :=
  b2n s.pins.fault + 2 * b2n s.pins.therm +
    (s.lev.src.foldl (fun m x => if x.2.latched then m ||| 2 ^ (x.1 + 2) else m) 0)

/-- SMB_ALERT_N follows its conditions; after a response it needs one that was clear to become true (R497). -/
def State.alertPin (s : State) : State :=
  let c := s.alertConds
  let rising := c != (c &&& s.pins.alertSeen)
  { s with pins := { s.pins with alertSeen := c, smbAlert := c != 0 && (s.pins.smbAlert || rising) } }

def State.faultPin (s : State) : State := ({ s with pins := { s.pins with fault := true } }).alertPin

end Sys2Proof.Machine
end

