-- ==== Sys2Proof/Machine/FwuOps.lean ====
section
/-! DEFINITION. Votes over the three fuse copies (R392, R440, R441) and the state of the firmware-update controller
(R450, R452). -/

namespace Sys2Proof.Machine

open Sys2Proof

/-- The value that two of three copies hold. -/
def vote3 {α : Type} [DecidableEq α] : List α → Option α
  | [a, b, c] => if a = b ∨ a = c then some a else if b = c then some b else none
  | _ => none

/-- COSIGN_REQ: burned in three copies and voted (R440). -/
def Fuses.cosignReq (f : Fuses) : Bool := (vote3 f.cosign).any (· != 0)

/-- T, the thermometer steps burned (R441): the copies are bitmaps. -/
def Fuses.thermSteps (f : Fuses) : Nat := popCount ((vote3 f.therm).getD 0) 128

/-- A slot whose SVN has fallen below T. -/
def FwSlot.under (x : FwSlot) (t : Nat) : FwSlot :=
  if x.st ≠ .invalid ∧ x.svn < t then { x with st := .belowFloor } else x

/-- The CONFIRM record's burn is complete: every slot below T is locked out (R441, R446). -/
def State.lockSlots (s : State) : State :=
  let t := s.fuse.thermSteps
  { s with ledger := { s.ledger with
    slotA := s.ledger.slotA.under t, slotB := s.ledger.slotB.under t, confirmed := none } }

/-- FWU_STAT bits [15:0]. -/
def State.fwuLow (s : State) : Nat :=
  b2n s.fwu.done * 2 ^ 15 + b2n s.fuse.cosignReq * 2 ^ 14 + s.fwu.last * 2 ^ 12 + s.fwu.running * 2 ^ 11 + s.fwu.st.code

/-- A change of FWU_STAT.STATE by the switch, the confirmation or the fallback (R444, R446, R447), with its event (R452);
staging and arming raise none. -/
def State.fwuGoes (s : State) (x : FwuState) : State :=
  if s.fwu.st = x then s
  else
    let s := { s with fwu := { s.fwu with st := x } }
    s.raise 0x008 s.fwuLow

end Sys2Proof.Machine
end

