-- ==== Sys2Proof/Machine/Attr.lean ====
section
/-! DEFINITION. The slot attribute word (R294), the types and the USAGE each allows (R295, R191), the lengths of clear
and public encodings (R164 to R181, R189, R192, R198, R300), and the narrowing rule of R297. -/

namespace Sys2Proof.Machine

open Sys2Proof

def attrType (a : BitVec 64) : Nat := bitsOf a.toNat 5 0
def attrParam (a : BitVec 64) : Nat := bitsOf a.toNat 13 6
def attrUsage (a : BitVec 64) : Nat := bitsOf a.toNat 29 14
def attrOrigin (a : BitVec 64) : Nat := bitsOf a.toNat 31 30
def attrExportable (a : BitVec 64) : Bool := bitOf a.toNat 32
def attrNeverExport (a : BitVec 64) : Bool := bitOf a.toNat 33
def attrMaskMin (a : BitVec 64) : Nat := bitsOf a.toNat 35 34
def attrStateful (a : BitVec 64) : Bool := bitOf a.toNat 36
def attrDetFallback (a : BitVec 64) : Bool := bitOf a.toNat 37
def attrReplicable (a : BitVec 64) : Bool := bitOf a.toNat 38
def attrLocked (a : BitVec 64) : Bool := bitOf a.toNat 39
def attrOwner (a : BitVec 64) : Nat := bitsOf a.toNat 45 40
def attrRsvd (a : BitVec 64) : Nat := bitsOf a.toNat 63 46

/-- USAGE bits (R294). -/
def uSign : Nat := 1
def uVerify : Nat := 2
def uEncaps : Nat := 4
def uDecaps : Nat := 8
def uAgree : Nat := 16
def uDerive : Nat := 32
def uWrap : Nat := 64
def uUnwrap : Nat := 128
def uMacGen : Nat := 256
def uMacVer : Nat := 512
def uEncrypt : Nat := 1024
def uDecrypt : Nat := 2048
def uAttest : Nat := 4096
def uCustomer : Nat := 8192

/-- Is every bit of `a` in `b`? -/
def subMask (a b : Nat) : Bool := (a &&& b) == a

/-- The fields of a word whose setting is the LX9's own: TYPE, PARAM, ORIGIN, STATEFUL, OWNER_REACH (R296). -/
structure AttrOwn where
  type : Nat
  param : Nat
  origin : Nat
  stateful : Bool
  owner : Nat
  deriving DecidableEq, Repr

/-- A word with those fields set over the caller's other fields. -/
def attrSet (a : BitVec 64) (o : AttrOwn) : BitVec 64 :=
  let keep := bitsOf a.toNat 29 14 * 2 ^ 14 + bitsOf a.toNat 35 32 * 2 ^ 32 + bitsOf a.toNat 39 37 * 2 ^ 37
  BitVec.ofNat 64 (o.type + o.param * 2 ^ 6 + o.origin * 2 ^ 30 + b2n o.stateful * 2 ^ 36 + o.owner * 2 ^ 40 + keep)

/-- `a` with bits cleared or set. -/
def attrClear (a : BitVec 64) (bit : Nat) : BitVec 64 := a &&& ~~~(BitVec.ofNat 64 (2 ^ bit))
def attrAdd (a : BitVec 64) (bit : Nat) : BitVec 64 := a ||| BitVec.ofNat 64 (2 ^ bit)

/-- Hash and n of an LMS typecode, and its height (R174). -/
def lmsInfo (t : Nat) : Option (Nat × Nat × Nat) :=
  if 0x05 ≤ t && t ≤ 0x18 then
    let k := (t - 5) / 5
    some (k, if k % 2 = 0 then 32 else 24, 5 * ((t - 5) % 5 + 1))
  else none

/-- Hash, n and p of an LM-OTS typecode (R174). -/
def otsInfo (t : Nat) : Option (Nat × Nat × Nat) :=
  if 1 ≤ t && t ≤ 0x10 then
    let k := (t - 1) / 4
    let w := (t - 1) % 4
    let p := if k % 2 = 0 then [265, 133, 67, 34].getD w 0 else [200, 101, 51, 26].getD w 0
    some (k, if k % 2 = 0 then 32 else 24, p)
  else none

/-- n, total height and layers of an XMSS OID: SHA2 and SHAKE256 with n = 32 or 24, heights 10, 16, 20 (R179). -/
def xmssInfo (oid : Nat) : Option (Nat × Nat × Nat) :=
  let h := fun b => [10, 16, 20].getD (oid - b) 0
  if 0x01 ≤ oid && oid ≤ 0x03 then some (32, h 0x01, 1)
  else if 0x0D ≤ oid && oid ≤ 0x0F then some (24, h 0x0D, 1)
  else if 0x10 ≤ oid && oid ≤ 0x12 then some (32, h 0x10, 1)
  else if 0x13 ≤ oid && oid ≤ 0x15 then some (24, h 0x13, 1)
  else none

/-- n, total height and layers of an XMSS^MT OID (R179). -/
def xmssMtInfo (oid : Nat) : Option (Nat × Nat × Nat) :=
  let hd := fun (b : Nat) => [(20, 2), (20, 4), (40, 2), (40, 4), (40, 8), (60, 3), (60, 6), (60, 12)].getD (oid - b) (0, 1)
  if 0x01 ≤ oid && oid ≤ 0x08 then some (32, (hd 0x01).1, (hd 0x01).2)
  else if 0x21 ≤ oid && oid ≤ 0x28 then some (24, (hd 0x21).1, (hd 0x21).2)
  else if 0x29 ≤ oid && oid ≤ 0x30 then some (32, (hd 0x29).1, (hd 0x29).2)
  else if 0x31 ≤ oid && oid ≤ 0x38 then some (24, (hd 0x31).1, (hd 0x31).2)
  else none

/-- Is TYPE with PARAM one that R295 lists? -/
def typeParamOk (t p : Nat) : Bool :=
  match t with
  | 0x01 | 0x02 => p ≤ 2
  | 0x03 => p ≤ 0xB
  | 0x04 | 0x05 => (lmsInfo p).isSome
  | 0x06 => (xmssInfo p).isSome
  | 0x07 => (xmssMtInfo p).isSome
  | 0x08 => p ≤ 4 || (8 ≤ p && p ≤ 12)
  | 0x10 => p ≤ 6
  | 0x11 => 15 ≤ p && p ≤ 255
  | 0x12 => p ≤ 1
  | 0x20 | 0x21 => p ≤ 1
  | 0x22 | 0x23 | 0x24 | 0x25 => p ≤ 255
  | _ => false

/-- The USAGE bits a TYPE and PARAM allow, ATTEST included (R295, R191). -/
def usageAllowed (t p : Nat) : Nat :=
  uAttest + uCustomer +
  (match t with
    | 0x01 | 0x08 | 0x12 => uEncaps + uDecaps
    | 0x02 | 0x03 | 0x04 | 0x05 | 0x06 | 0x07 => uSign + uVerify
    | 0x10 => if p ≤ 2 then uSign + uVerify + uAgree + uDerive else if p ≤ 4 then uSign + uVerify else uAgree
    | 0x11 => uSign + uVerify + uEncrypt + uDecrypt
    | 0x20 => uEncrypt + uDecrypt + uWrap + uUnwrap
    | 0x21 => uEncrypt + uDecrypt
    | 0x22 | 0x23 => uMacGen + uMacVer + uDerive
    | 0x24 => uDerive + uMacGen + uMacVer
    | 0x25 => uDerive
    | _ => 0)

/-- DET_FALLBACK is allowed for ML-DSA, SLH-DSA, P-curve and RSA keys (R295). -/
def detFallbackAllowed (t p : Nat) : Bool := t == 0x02 || t == 0x03 || (t == 0x10 && p ≤ 2) || t == 0x11

def isStatefulType (t : Nat) : Bool := 0x04 ≤ t && t ≤ 0x07

/-- The symmetric types: AES, AES-XTS, HMAC, KMAC, generic (R295). -/
def isSymmetric (t : Nat) : Bool := 0x20 ≤ t && t ≤ 0x24

/-- A symmetric type's key length (R295, R196). -/
def symLen (t p : Nat) : Nat :=
  match t with
  | 0x20 => if p = 0 then 16 else 32
  | 0x21 => if p = 0 then 32 else 64
  | 0x25 => p + 1
  | _ => 8 * (p + 1)

/-- Codes of a word that R294 and R295 list: TYPE, PARAM, USAGE, and the flags a type allows. -/
def attrCodesOk (a : BitVec 64) : Bool :=
  let t := attrType a
  let p := attrParam a
  attrRsvd a == 0 && typeParamOk t p && subMask (attrUsage a) (usageAllowed t p) &&
    (!attrDetFallback a || detFallbackAllowed t p) && (!attrReplicable a || !isStatefulType t)

/-! ## Sizes -/

/-- ML-KEM: encapsulation key, decapsulation key, ciphertext (R164). -/
def mlKemSizes (v : Nat) : Nat × Nat × Nat :=
  match v with | 0 => (800, 1632, 768) | 1 => (1184, 2400, 1088) | _ => (1568, 3168, 1568)

/-- ML-DSA: public key, private key, signature (R169). -/
def mlDsaSizes (v : Nat) : Nat × Nat × Nat :=
  match v with | 0 => (1312, 2560, 2420) | 1 => (1952, 4032, 3309) | _ => (2592, 4896, 4627)

/-- SLH-DSA: n and signature (R172). -/
def slhSizes (v : Nat) : Nat × Nat :=
  match v % 6 with
  | 0 => (16, 7856) | 1 => (16, 17088) | 2 => (24, 16224) | 3 => (24, 35664) | 4 => (32, 29792) | _ => (32, 49856)

/-- Classic McEliece: public key, private key, ciphertext (R181). -/
def mceSizes (v : Nat) : Nat × Nat × Nat :=
  match v % 8 with
  | 0 => (261120, 6492, 96) | 1 => (524160, 13608, 156) | 2 => (1044992, 13932, 208)
  | 3 => (1047319, 13948, 194) | _ => (1357824, 14120, 208)

/-- Curves: private key, public key, signature, shared secret (R189). -/
def ecSizes (c : Nat) : Nat × Nat × Nat × Nat :=
  match c with
  | 0 => (32, 65, 64, 32) | 1 => (48, 97, 96, 48) | 2 => (66, 133, 132, 66) | 3 => (32, 32, 64, 0)
  | 4 => (57, 57, 114, 0) | 5 => (32, 32, 0, 32) | _ => (56, 56, 0, 56)

/-- Hybrid: encapsulation key, decapsulation key, ciphertext, CONCAT output (R198). -/
def hybSizes (v : Nat) : Nat × Nat × Nat × Nat :=
  if v = 0 then (1216, 2432, 1120, 64) else (1665, 3216, 1665, 80)

/-- LMS signature and public key of one tree (R175). -/
def lmsSizes (n h p : Nat) : Nat × Nat := (4 + (4 + n + p * n) + 4 + h * n, 24 + n)

/-- XMSS and XMSS^MT signature sizes (R180). -/
def xmssSigLen (mt : Bool) (n h d : Nat) : Nat :=
  let len := if n = 32 then 67 else 51
  if mt then ceilDiv h 8 + n + (h + d * len) * n else 4 + n + (len + h) * n

/-- The public-key encoding's length; 0 for symmetric types. HSS adds 4 bytes to LMS. -/
def pubLen (t p : Nat) : Nat :=
  match t with
  | 0x01 => (mlKemSizes p).1
  | 0x02 => (mlDsaSizes p).1
  | 0x03 => 2 * (slhSizes p).1
  | 0x04 => ((lmsInfo p).map fun x => 24 + x.2.1).getD 0
  | 0x05 => ((lmsInfo p).map fun x => 28 + x.2.1).getD 0
  | 0x06 => ((xmssInfo p).map fun x => 4 + 2 * x.1).getD 0
  | 0x07 => ((xmssMtInfo p).map fun x => 4 + 2 * x.1).getD 0
  | 0x08 => (mceSizes p).1
  | 0x10 => (ecSizes p).2.1
  | 0x11 => 8 * (p + 1) + 4
  | 0x12 => (hybSizes p).1
  | _ => 0

/-- The clear private encoding's length (R300). -/
def clearLen (t p : Nat) : Nat :=
  match t with
  | 0x01 => (mlKemSizes p).2.1
  | 0x02 => (mlDsaSizes p).2.1
  | 0x03 => 4 * (slhSizes p).1
  | 0x04 | 0x05 => ((lmsInfo p).map fun x => 25 + 2 * x.2.1).getD 0
  | 0x06 => ((xmssInfo p).map fun x => 4 + 4 * x.1).getD 0
  | 0x07 => ((xmssMtInfo p).map fun x => 4 + 4 * x.1).getD 0
  | 0x08 => (mceSizes p).2.1
  | 0x10 => (ecSizes p).1
  | 0x11 => let k := 8 * (p + 1); k + 4 + 5 * (k / 2)
  | 0x12 => (hybSizes p).2.1
  | _ => symLen t p

/-- RESTRICT's narrowing (R297): `new` against `old`. -/
def attrNarrows (old new : BitVec 64) : Bool :=
  let o := attrUsage old
  let n := attrUsage new
  attrRsvd new == 0 && subMask n o && n != 0 &&
  (!attrExportable new || attrExportable old) && (!attrDetFallback new || attrDetFallback old) &&
  (!attrReplicable new || attrReplicable old) &&
  (attrNeverExport new || !attrNeverExport old) && (attrLocked new || !attrLocked old) &&
  decide (attrMaskMin old ≤ attrMaskMin new) &&
  attrType new == attrType old && attrParam new == attrParam old && attrOrigin new == attrOrigin old &&
  attrStateful new == attrStateful old && attrOwner new == attrOwner old

/-- The ML-KEM variant and the curve of a hybrid variant. -/
def hybParts (v : Nat) : Nat × Nat := if v = 0 then (1, 5) else (2, 1)

/-- The copies of secret material a slot keeps, and its footprint (R291, R292). -/
def copyCount (a : BitVec 64) (pubOnly : Bool) : Nat := if pubOnly then 1 else max 2 (attrMaskMin a + 1)

def footprint (len copies : Nat) : Nat := (len + 63) / 64 * 64 * copies

end Sys2Proof.Machine
end

