-- ==== Sys2Proof/Machine/Modular.lean ====
section
/-! DEFINITION. Arithmetic modulo a number and polynomials over it, for the schemes of the standards that the manual names
(R164, R169, R189, R192): powers, inverses, the number-theoretic transform by repeated splitting, and packed
coefficients. -/

namespace Sys2Proof.Machine

open Sys2Proof

/-- Square and multiply over the exponent's bits, the lowest first. -/
def powModGo : Nat → Nat → Nat → Nat → Nat → Nat
  | 0, _, _, _, acc => acc
  | f + 1, b, e, n, acc => powModGo f (b * b % n) (e / 2) n (if e % 2 = 1 then acc * b % n else acc)

def powMod (b e n : Nat) : Nat := powModGo (e.log2 + 1) (b % n) e n (1 % n)

def addMod (q a b : Nat) : Nat := (a + b) % q
def subMod (q a b : Nat) : Nat := (a + (q - b % q)) % q

/-- The inverse modulo a prime. -/
def invPrime (q a : Nat) : Nat := powMod a (q - 2) q

/-- Euclid's algorithm with the coefficient of `a` carried along modulo `n`: `r0 = c0 · a`, `r1 = c1 · a` modulo n. -/
def invGo : Nat → Nat → Nat → Nat → Nat → Nat → Nat
  | 0, _, _, c0, _, _ => c0
  | f + 1, r0, r1, c0, c1, n => if r1 = 0 then c0 else invGo f r1 (r0 % r1) c1 (subMod n c0 (r0 / r1 * c1)) n

/-- The inverse of `a` modulo any `n` prime to it. -/
def invMod (a n : Nat) : Nat := invGo (2 * n.log2 + 4) (a % n) n 1 0 n

/-! ## Polynomials, lowest coefficient first -/

abbrev Poly := List Nat

def Poly.plus (q : Nat) (a b : Poly) : Poly := (a.zip b).map fun x => addMod q x.1 x.2
def Poly.minus (q : Nat) (a b : Poly) : Poly := (a.zip b).map fun x => subMod q x.1 x.2
def Poly.scale (q k : Nat) (a : Poly) : Poly := a.map fun x => x * k % q
def Poly.sum (q n : Nat) (ps : List Poly) : Poly := ps.foldl (Poly.plus q) (List.replicate n 0)

/-- A ring of polynomials modulo X^256 + 1 over the prime `q`: `root` has order 2 · `half`, and the modulus is
X^256 − root^half, which splits `depth` times. -/
structure Splitting where
  q : Nat
  root : Nat
  half : Nat
  depth : Nat
  deriving DecidableEq, Repr

/-- The residues of `f` modulo the factors, in the order of splitting. -/
def Splitting.split (r : Splitting) : Nat → Nat → Poly → Poly
  | 0, _, f => f
  | d + 1, e, f =>
    let m := f.length / 2
    let up := Poly.scale r.q (powMod r.root (e / 2) r.q) (f.drop m)
    r.split d (e / 2) (Poly.plus r.q (f.take m) up) ++ r.split d (e / 2 + r.half) (Poly.minus r.q (f.take m) up)

/-- The polynomial with given residues. -/
def Splitting.join (r : Splitting) : Nat → Nat → Poly → Poly
  | 0, _, f => f
  | d + 1, e, f =>
    let m := f.length / 2
    let a := r.join d (e / 2) (f.take m)
    let b := r.join d (e / 2 + r.half) (f.drop m)
    let two := (r.q + 1) / 2
    Poly.scale r.q two (Poly.plus r.q a b) ++
      Poly.scale r.q (two * invPrime r.q (powMod r.root (e / 2) r.q)) (Poly.minus r.q a b)

/-- The exponents of the last factors, in the order of splitting. -/
def Splitting.leaves (r : Splitting) : Nat → Nat → List Nat
  | 0, e => [e]
  | d + 1, e => r.leaves d (e / 2) ++ r.leaves d (e / 2 + r.half)

def Splitting.forward (r : Splitting) (f : Poly) : Poly := r.split r.depth r.half f
def Splitting.back (r : Splitting) (f : Poly) : Poly := r.join r.depth r.half f

/-- Products modulo the last factors: of degree one, or X² − root^e. -/
def Splitting.times (r : Splitting) (a b : Poly) : Poly :=
  if r.depth = 8 then (a.zip b).map fun x => x.1 * x.2 % r.q
  else
    ((List.range 128).zip (r.leaves r.depth r.half)).flatMap fun x =>
      let g (p : Poly) (i : Nat) : Nat := (p.drop (2 * x.1 + i)).headD 0
      [(g a 0 * g b 0 + g a 1 * g b 1 % r.q * powMod r.root x.2 r.q) % r.q, (g a 0 * g b 1 + g a 1 * g b 0) % r.q]

/-- A matrix by rows times a vector, all of them transformed. -/
def Splitting.apply (r : Splitting) (rows : List (List Poly)) (v : List Poly) : List Poly :=
  rows.map fun row => Poly.sum r.q 256 ((row.zip v).map fun x => r.times x.1 x.2)

/-! ## Packed coefficients -/

/-- Numbers of `d` bits laid one behind the other, the first lowest, in `n` bytes. -/
def packBits (d n : Nat) (xs : List Nat) : Bytes := toLe n (xs.foldr (fun x acc => x % 2 ^ d + 2 ^ d * acc) 0)

/-- `n` numbers of `d` bits. -/
def unpackBits (d : Nat) : Nat → Nat → List Nat
  | 0, _ => []
  | n + 1, v => v % 2 ^ d :: unpackBits d n (v / 2 ^ d)

def unpackBytes (d n : Nat) (bs : Bytes) : List Nat := unpackBits d n (leNat bs)

/-- `bs` cut into pieces of `n` bytes, `count` of them. -/
def pieces (n count : Nat) (bs : Bytes) : List Bytes := (List.range count).map fun i => slice bs (n * i) n

end Sys2Proof.Machine
end

