-- ==== Sys2Proof/Machine/MlKem.lean ====
section
/-! DEFINITION. ML-KEM as FIPS 203 defines it (R164 to R168, log entry 22). The variant is 0, 1 or 2. -/

namespace Sys2Proof.Machine

open Sys2Proof

def kemRing : Splitting := { q := 3329, root := 17, half := 128, depth := 7 }

/-- Rank of the module, η₁, d_u and d_v. -/
def kemRank (v : Nat) : Nat := v + 2
def kemEta (v : Nat) : Nat := if v = 0 then 3 else 2
def kemDu (v : Nat) : Nat := if v ≤ 1 then 10 else 11
def kemDv (v : Nat) : Nat := if v ≤ 1 then 4 else 5

/-- Two 12-bit candidates of three bytes; those below q are coefficients. -/
def kemCandidates : Nat → Bytes → Poly
  | 0, _ => []
  | n + 1, bs =>
    let w := leNat (bs.take 3)
    (([w % 4096, w / 4096].filter fun x => x < 3329)) ++ kemCandidates n (bs.drop 3)

/-- A uniform transformed polynomial of ρ, column and row. -/
def kemUniform (rho : Bytes) (col row : Nat) : Poly :=
  (kemCandidates 672 (shake128 (rho ++ toLe 1 col ++ toLe 1 row) 2016)).take 256

/-- The matrix Â by rows, or its transpose. -/
def kemMatrix (v : Nat) (rho : Bytes) (transposed : Bool) : List (List Poly) :=
  (List.range (kemRank v)).map fun i => (List.range (kemRank v)).map fun k =>
    if transposed then kemUniform rho i k else kemUniform rho k i

/-- A polynomial of the centred binomial distribution: each coefficient the ones of η bits less those of the next η. -/
def kemNoise (eta : Nat) (key : Bytes) (nonce : Nat) : Poly :=
  (unpackBytes (2 * eta) 256 (shake256 (key ++ toLe 1 nonce) (64 * eta))).map fun x =>
    subMod 3329 (popCount x eta) (popCount (x / 2 ^ eta) eta)

def kemNoises (eta : Nat) (key : Bytes) (first count : Nat) : List Poly :=
  (List.range count).map fun i => kemNoise eta key (first + i)

/-- Rounding to `d` bits, and back. -/
def kemPress (d x : Nat) : Nat := (2 ^ (d + 1) * x + 3329) / 6658 % 2 ^ d
def kemUnpress (d y : Nat) : Nat := (6658 * y + 2 ^ d) / 2 ^ (d + 1)

def kemPack (d : Nat) (p : Poly) : Bytes := packBits d (32 * d) p
def kemUnpack (d : Nat) (b : Bytes) : Poly := unpackBytes d 256 b
def kemPackAll (ps : List Poly) : Bytes := ps.flatMap (kemPack 12)
def kemUnpackAll (n : Nat) (b : Bytes) : List Poly := (pieces 384 n b).map fun x => (kemUnpack 12 x).map (· % 3329)

/-- The decapsulation key of d ‖ z: secret, encapsulation key, its hash, z. -/
def mlKemNew (v : Nat) (seed : Bytes) : Bytes :=
  let k := kemRank v
  let g := sha3_512 (seed.take 32 ++ toLe 1 k)
  let s := (kemNoises (kemEta v) (g.drop 32) 0 k).map kemRing.forward
  let e := (kemNoises (kemEta v) (g.drop 32) k k).map kemRing.forward
  let t := ((kemRing.apply (kemMatrix v (g.take 32) false) s).zip e).map fun x => Poly.plus 3329 x.1 x.2
  let ek := kemPackAll t ++ g.take 32
  kemPackAll s ++ ek ++ sha3_256 ek ++ fit 32 (seed.drop 32)

/-- The ciphertext of a 32-byte message under coins `r`, with the matrix Â of the key given transposed. -/
def kemEncrypt (v : Nat) (rows : List (List Poly)) (ek m r : Bytes) : Bytes :=
  let k := kemRank v
  let y := (kemNoises (kemEta v) r 0 k).map kemRing.forward
  let e1 := kemNoises 2 r k k
  let e2 := kemNoise 2 r (2 * k)
  let u := (((kemRing.apply rows y).map kemRing.back).zip e1).map fun x => Poly.plus 3329 x.1 x.2
  let ty := kemRing.back (((kemRing.apply [kemUnpackAll k ek] y)).headD [])
  let w := Poly.sum 3329 256 [ty, e2, (unpackBytes 1 256 m).map (kemUnpress 1)]
  (u.flatMap fun p => kemPack (kemDu v) (p.map (kemPress (kemDu v)))) ++ kemPack (kemDv v) (w.map (kemPress (kemDv v)))

/-- The matrix that encryption under an encapsulation key uses. -/
def kemEkMatrix (v : Nat) (ek : Bytes) : List (List Poly) := kemMatrix v (ek.drop (384 * kemRank v)) true

/-- Ciphertext and shared secret for the drawn m. -/
def mlKemEncapsWith (v : Nat) (rows : List (List Poly)) (ek m : Bytes) : Bytes × Bytes :=
  let g := sha3_512 (m ++ sha3_256 ek)
  (kemEncrypt v rows ek m (g.drop 32), g.take 32)

/-- The message inside a ciphertext. -/
def kemDecrypt (v : Nat) (dk c : Bytes) : Bytes :=
  let k := kemRank v
  let du := kemDu v
  let u := (pieces (32 * du) k c).map fun b => (kemUnpack du b).map (kemUnpress du)
  let w := (kemUnpack (kemDv v) (c.drop (32 * du * k))).map (kemUnpress (kemDv v))
  let su := kemRing.back ((kemRing.apply [kemUnpackAll k dk] (u.map kemRing.forward)).headD [])
  kemPack 1 ((Poly.minus 3329 w su).map (kemPress 1))

/-- The encapsulation key inside a decapsulation key. -/
def mlKemEk (v : Nat) (dk : Bytes) : Bytes := slice dk (384 * (v + 2)) (mlKemSizes v).1

/-- The shared secret, or J(z ‖ c) when the ciphertext is not the one its own message gives (R166). -/
def mlKemDecapsWith (v : Nat) (rows : List (List Poly)) (dk c : Bytes) : Bytes :=
  let ek := mlKemEk v dk
  let m := kemDecrypt v dk c
  let g := sha3_512 (m ++ slice dk (384 * kemRank v + ek.length) 32)
  if kemEncrypt v rows ek m (g.drop 32) == c then g.take 32
  else shake256 (slice dk (384 * kemRank v + ek.length + 32) 32 ++ c) 32

end Sys2Proof.Machine
end

