-- ==== Sys2Proof/Machine/Curves.lean ====
section
/-! DEFINITION. The elliptic curves of R189 as their standards define them (log entry 22): P-256, P-384 and P-521 with ECDSA
and ECDH (FIPS 186-5, SP 800-56A), Ed25519 and Ed448 (RFC 8032), X25519 and X448 (RFC 7748). -/

namespace Sys2Proof.Machine

open Sys2Proof

/-! ## P-curves -/

/-- y² = x³ − 3x + b over a prime field, with a base point of prime order. -/
structure PCurve where
  p : Nat
  b : Nat
  order : Nat
  base : Nat × Nat
  deriving DecidableEq, Repr

def curveP256 : PCurve :=
  { p := 2 ^ 256 - 2 ^ 224 + 2 ^ 192 + 2 ^ 96 - 1
    b := 0x5ac635d8aa3a93e7b3ebbd55769886bc651d06b0cc53b0f63bce3c3e27d2604b
    order := 0xffffffff00000000ffffffffffffffffbce6faada7179e84f3b9cac2fc632551
    base := (0x6b17d1f2e12c4247f8bce6e563a440f277037d812deb33a0f4a13945d898c296,
      0x4fe342e2fe1a7f9b8ee7eb4a7c0f9e162bce33576b315ececbb6406837bf51f5) }

def curveP384 : PCurve :=
  { p := 2 ^ 384 - 2 ^ 128 - 2 ^ 96 + 2 ^ 32 - 1
    b := 0xb3312fa7e23ee7e4988e056be3f82d19181d9c6efe8141120314088f5013875ac656398d8a2ed19d2a85c8edd3ec2aef
    order := 0xffffffffffffffffffffffffffffffffffffffffffffffffc7634d81f4372ddf581a0db248b0a77aecec196accc52973
    base := (0xaa87ca22be8b05378eb1c71ef320ad746e1d3b628ba79b9859f741e082542a385502f25dbf55296c3a545e3872760ab7,
      0x3617de4a96262c6f5d9e98bf9292dc29f8f41dbd289a147ce9da3113b5f0b8c00a60b1ce1d7e819d7a431d7c90ea0e5f) }

def curveP521 : PCurve :=
  { p := 2 ^ 521 - 1
    b := 0x51953eb9618e1c9a1f929a21a0b68540eea2da725b99b315f3b8b489918ef109e156193951ec7e937b1652c0bd3bb1bf073573df883d2c34f1ef451fd46b503f00
    order := 2 ^ 521 - 0x5ae79787c40d069948033feb708f65a2fc44a36477663b851449048e16ec79bf7
    base := (0xc6858e06b70404e9cd9e3ecb662395b4429c648139053fb521f828af606b4d3dbaa14b5e77efe75928fe1dc127a2ffa8de3348b3c1856a429bf97e7e31c2e5bd66,
      0x11839296a789a3bc0045c8a5fb42c7d1bd998f54449579b446817afbd17273e662c97ee72995ef42640c550b9013fad0761353c7086a272c24088be94769fd16650) }

def pCurve (v : Nat) : PCurve := match v with | 0 => curveP256 | 1 => curveP384 | _ => curveP521

/-- Is (x, y) a point of the curve with coordinates below p? -/
def PCurve.on (c : PCurve) (x y : Nat) : Bool :=
  x < c.p && y < c.p && (y * y + 3 * x) % c.p == (x * x * x + c.b) % c.p

/-- The chord or tangent at two points; none is the point at infinity. -/
def PCurve.add (c : PCurve) (a b : Option (Nat × Nat)) : Option (Nat × Nat) :=
  match a, b with
  | none, x => x
  | x, none => x
  | some (x1, y1), some (x2, y2) =>
    if x1 == x2 && (y1 + y2) % c.p == 0 then none
    else
      let slope :=
        if x1 == x2 then (3 * (x1 * x1 % c.p + (c.p - 1))) * invPrime c.p (2 * y1 % c.p) % c.p
        else subMod c.p y2 y1 * invPrime c.p (subMod c.p x2 x1) % c.p
      let x := subMod c.p (slope * slope) (x1 + x2)
      some (x, subMod c.p (slope * subMod c.p x1 x) y1)

/-- A multiple of a point, over the bits of the factor. -/
def PCurve.times (c : PCurve) : Nat → Nat → Option (Nat × Nat) → Option (Nat × Nat)
  | 0, _, _ => none
  | f + 1, k, a =>
    let rest := c.times f (k / 2) (c.add a a)
    if k % 2 = 1 then c.add a rest else rest

def PCurve.mul (c : PCurve) (k : Nat) (a : Option (Nat × Nat)) : Option (Nat × Nat) := c.times (k.log2 + 1) k a

/-- The uncompressed encoding, `w` bytes a coordinate; the point at infinity has none, and what stands for it is open. -/
def pEncode (v : Nat) (a : Option (Nat × Nat)) : Bytes :=
  let w := (ecSizes v).1
  match a with
  | some (x, y) => 4 :: (toBe w x ++ toBe w y)
  | none => fit (1 + 2 * w) (Config.noPoint v)

def pDecode (v : Nat) (b : Bytes) : Nat × Nat :=
  let w := (ecSizes v).1
  (beNat (slice b 1 w), beNat (slice b (1 + w) w))

/-- R190 on an uncompressed point. -/
def pPointOk (v : Nat) (pub : Bytes) : Bool :=
  let a := pDecode v pub
  pub.length == 1 + 2 * (ecSizes v).1 && pub.take 1 == [4] && (pCurve v).on a.1 a.2

/-- A number from 1 to n − 1 from surplus random bits (FIPS 186-5). -/
def pScalar (v : Nat) (rnd : Bytes) : Nat := beNat rnd % ((pCurve v).order - 1) + 1

/-! ### ECDSA -/

/-- The leftmost bits of a digest, as many as the order has. -/
def PCurve.truncate (c : PCurve) (digest : Bytes) : Nat :=
  let have_ := 8 * digest.length
  let bits := c.order.log2 + 1
  if bits < have_ then beNat digest / 2 ^ (have_ - bits) else beNat digest

/-- One signature try: r and s under a nonce. -/
def PCurve.rs (c : PCurve) (d z k : Nat) : Nat × Nat :=
  let r := ((c.mul k (some c.base)).map Prod.fst).getD 0 % c.order
  (r, invPrime c.order k * (z + r * d) % c.order)

/-- The signature under the first nonce of a sequence that lies in range and leaves neither part 0. -/
def PCurve.signWith (c : PCurve) (d z : Nat) (nonce : Nat → Nat) : Nat → Nat → Nat × Nat
  | 0, i => c.rs d z (nonce i)
  | f + 1, i =>
    let k := nonce i
    let x := c.rs d z k
    if 1 ≤ k && k < c.order && x.1 != 0 && x.2 != 0 then x else c.signWith d z nonce f (i + 1)

/-- The keyed hash that deterministic ECDSA uses for a HASH_ALG code: HMAC; for the SHAKE codes it is open. -/
def nonceMac (alg : Option Nat) (key m : Bytes) : Bytes :=
  match alg with
  | some h => hmac h key m
  | none => Config.xofMac key m

/-- Output blocks joined until they hold the wanted bytes. -/
def nonceFill (alg : Option Nat) (k : Bytes) (want : Nat) : Nat → Bytes → Bytes → Bytes × Bytes
  | 0, v, t => (v, t)
  | f + 1, v, t =>
    if want ≤ t.length then (v, t)
    else
      let v := nonceMac alg k v
      nonceFill alg k want f v (t ++ v)

/-- The generator's key and value after `i` rejected candidates, and the candidate there. -/
def nonceAt (c : PCurve) (alg : Option Nat) : Nat → Bytes → Bytes → Nat
  | 0, k, v => c.truncate ((nonceFill alg k (ceilDiv (c.order.log2 + 1) 8) 80 v []).2.take (ceilDiv (c.order.log2 + 1) 8))
  | i + 1, k, v =>
    let v := (nonceFill alg k (ceilDiv (c.order.log2 + 1) 8) 80 v []).1
    let k := nonceMac alg k (v ++ [0])
    nonceAt c alg i k (nonceMac alg k v)

/-- The nonces of deterministic ECDSA (FIPS 186-5). -/
def detNonce (c : PCurve) (alg : Option Nat) (hl d z : Nat) (i : Nat) : Nat :=
  let w := ceilDiv (c.order.log2 + 1) 8
  let seed := toBe w d ++ toBe w (z % c.order)
  let v0 := List.replicate hl 1
  let k1 := nonceMac alg (zeros hl) (v0 ++ [0] ++ seed)
  let v1 := nonceMac alg k1 v0
  let k2 := nonceMac alg k1 (v1 ++ [1] ++ seed)
  nonceAt c alg i k2 (nonceMac alg k2 v1)

/-- r ‖ s, each as wide as the order (R189). -/
def ecdsaEncode (v : Nat) (x : Nat × Nat) : Bytes := toBe (ecSizes v).1 x.1 ++ toBe (ecSizes v).1 x.2

/-- A hedged signature: the nonce of the drawn bytes, and the numbers after it if that one will not do. -/
def ecdsaHedged (v : Nat) (priv digest rnd : Bytes) : Bytes :=
  let c := pCurve v
  ecdsaEncode v (c.signWith (beNat priv) (c.truncate digest) (fun i => (pScalar v rnd - 1 + i) % (c.order - 1) + 1) 64 0)

def ecdsaDeterministic (v : Nat) (priv digest : Bytes) (alg : Option Nat) (hl : Nat) : Bytes :=
  let c := pCurve v
  let z := c.truncate digest
  ecdsaEncode v (c.signWith (beNat priv) z (detNonce c alg hl (beNat priv) z) 64 0)

/-- FIPS 186-5 verification; r and s out of range are no error of the input (R190). -/
def ecdsaAccepts (v : Nat) (pub digest sig : Bytes) : Bool :=
  let c := pCurve v
  let w := (ecSizes v).1
  let r := beNat (sig.take w)
  let s := beNat (sig.drop w)
  let i := invPrime c.order s
  let a := c.add (c.mul (c.truncate digest * i % c.order) (some c.base)) (c.mul (r * i % c.order) (some (pDecode v pub)))
  1 ≤ r && r < c.order && 1 ≤ s && s < c.order &&
    (match a with | some q => q.1 % c.order == r | none => false)

/-! ## Edwards curves -/

/-- a x² + y² = 1 + d x² y², with the base point's order and the bytes of a value. -/
structure EdCurve where
  p : Nat
  a : Nat
  d : Nat
  order : Nat
  base : Nat × Nat
  width : Nat
  deriving DecidableEq, Repr

/-- The roots of a square: raised to (p + 3) / 8 with the root of −1, or to (p + 1) / 4. -/
def sqrtMod (p u : Nat) : Option Nat :=
  let r := if p % 4 = 3 then powMod u ((p + 1) / 4) p
    else
      let c := powMod u ((p + 3) / 8) p
      if c * c % p == u % p then c else c * powMod 2 ((p - 1) / 4) p % p
  if r * r % p == u % p then some r else none

def p25519 : Nat := 2 ^ 255 - 19
def p448 : Nat := 2 ^ 448 - 2 ^ 224 - 1

def edCurve (v : Nat) : EdCurve :=
  if v = 3 then
    let y := 4 * invPrime p25519 5 % p25519
    { p := p25519, a := p25519 - 1, d := subMod p25519 0 (121665 * invPrime p25519 121666),
      order := 2 ^ 252 + 27742317777372353535851937790883648493,
      base := (0x216936D3CD6E53FEC0A4E231FDD6DC5C692CC7609525A7B2C9562D608F25D51A, y), width := 32 }
  else
    { p := p448, a := 1, d := p448 - 39081,
      order := 2 ^ 446 - 13818066809895115352007386748515426880336692474882178609894547503885,
      base := (224580040295924300187604334099896036246789641632564134246125461686950415467406032909029192869357953282578032075146446173674602635247710,
        298819210078481492676017930443930673437544040154080242095928241372331506189835876003536878655418784733982303233503462500531545062832660),
      width := 57 }

/-- The complete addition law. -/
def EdCurve.add (c : EdCurve) (a b : Nat × Nat) : Nat × Nat :=
  let k := c.d * (a.1 * b.1 % c.p) % c.p * (a.2 * b.2 % c.p) % c.p
  (((a.1 * b.2 + b.1 * a.2) % c.p) * invPrime c.p ((1 + k) % c.p) % c.p,
   subMod c.p (a.2 * b.2) (c.a * (a.1 * b.1)) * invPrime c.p (subMod c.p 1 k) % c.p)

def EdCurve.times (c : EdCurve) : Nat → Nat → Nat × Nat → Nat × Nat
  | 0, _, _ => (0, 1)
  | f + 1, k, a =>
    let rest := c.times f (k / 2) (c.add a a)
    if k % 2 = 1 then c.add a rest else rest

def EdCurve.mul (c : EdCurve) (k : Nat) (a : Nat × Nat) : Nat × Nat := c.times (k.log2 + 1) k a

/-- y in little-endian order with the sign of x as the top bit. -/
def EdCurve.encode (c : EdCurve) (a : Nat × Nat) : Bytes := toLe c.width (a.2 + a.1 % 2 * 2 ^ (8 * c.width - 1))

/-- The point of an encoding, none when it does not decode (RFC 8032). -/
def EdCurve.decode (c : EdCurve) (b : Bytes) : Option (Nat × Nat) :=
  let n := leNat b
  let sign := n / 2 ^ (8 * c.width - 1)
  let y := n % 2 ^ (8 * c.width - 1)
  if b.length != c.width || c.p ≤ y then none
  else
    let u := subMod c.p (y * y) 1
    let w := subMod c.p (c.d * (y * y % c.p)) c.a
    (sqrtMod c.p (u * invPrime c.p w % c.p)).bind fun x =>
      if x == 0 then (if sign = 1 then none else some (0, y))
      else some (if x % 2 = sign then x else c.p - x, y)

/-- The hash of a curve with its domain prefix: none for plain Ed25519. `dom` is the pre-hash flag, the context's length
and the context. -/
def edHash (v : Nat) (dom m : Bytes) : Bytes :=
  if v = 3 then
    sha512 ((if dom == [0, 0] then [] else ascii "SigEd25519 no Ed25519 collisions" ++ dom) ++ m)
  else shake256 (ascii "SigEd448" ++ dom ++ m) 114

/-- The secret scalar and the prefix of a private key. -/
def edSecret (v : Nat) (priv : Bytes) : Nat × Bytes :=
  if v = 3 then
    let h := sha512 priv
    (leNat (h.take 32) % 2 ^ 254 / 8 * 8 + 2 ^ 254, h.drop 32)
  else
    let h := shake256 priv 114
    (leNat (h.take 56) % 2 ^ 447 / 4 * 4 + 2 ^ 447, h.drop 57)

def edPub (v : Nat) (priv : Bytes) : Bytes :=
  let c := edCurve v
  c.encode (c.mul (edSecret v priv).1 c.base)

def eddsaSignature (v : Nat) (priv dom m : Bytes) : Bytes :=
  let c := edCurve v
  let x := edSecret v priv
  let r := leNat (edHash v dom (x.2 ++ m)) % c.order
  let rb := c.encode (c.mul r c.base)
  let k := leNat (edHash v dom (rb ++ edPub v priv ++ m))
  rb ++ toLe c.width ((r + k * x.1) % c.order)

/-- The cofactored equation [8][S]B = [8]R + [8][k]A (R191). -/
def eddsaAccepts (v : Nat) (pub dom m sig : Bytes) : Bool :=
  let c := edCurve v
  let s := leNat (sig.drop c.width)
  match c.decode (sig.take c.width), c.decode pub with
  | some r, some a =>
    let k := leNat (edHash v dom (sig.take c.width ++ pub ++ m)) % c.order
    s < c.order && c.mul (8 * s) c.base == c.add (c.mul 8 r) (c.mul (8 * k) a)
  | _, _ => false

/-! ## Montgomery curves -/

/-- Prime, (A − 2) / 4 and the base value of X25519 and X448. -/
def montCurve (v : Nat) : Nat × Nat × Nat := if v = 5 then (p25519, 121665, 9) else (p448, 39081, 5)

/-- The scalar of a private key: its low bits cleared and its top bit set. -/
def montScalar (v : Nat) (priv : Bytes) : Nat :=
  if v = 5 then leNat priv % 2 ^ 254 / 8 * 8 + 2 ^ 254 else leNat priv % 2 ^ 447 / 4 * 4 + 2 ^ 447

/-- A value of the wire as a field element; X25519 masks the top bit (R190). -/
def montValue (v : Nat) (u : Bytes) : Nat :=
  let p := (montCurve v).1
  (if v = 5 then leNat u % 2 ^ 255 else leNat u) % p

/-- One step of the ladder from the top bit down: [n]P and [n + 1]P, projective, with P's value. -/
def montStep (p a24 x1 : Nat) (st : (Nat × Nat) × (Nat × Nat)) (bit : Nat) : (Nat × Nat) × (Nat × Nat) :=
  let (lo, hi) := if bit = 1 then (st.2, st.1) else st
  let s := (lo.1 + lo.2) % p
  let t := subMod p lo.1 lo.2
  let ss := s * s % p
  let tt := t * t % p
  let e := subMod p ss tt
  let da := subMod p hi.1 hi.2 * s % p
  let cb := (hi.1 + hi.2) * t % p
  let sum := (da + cb) % p
  let dif := subMod p da cb
  let dbl := (ss * tt % p, e * (ss + a24 * e) % p)
  let add := (sum * sum % p, x1 * (dif * dif % p) % p)
  if bit = 1 then (add, dbl) else (dbl, add)

def montMul (v k u : Nat) : Nat :=
  let c := montCurve v
  let r := (List.range 448).foldl (fun st i => montStep c.1 c.2.1 u st (k / 2 ^ (447 - i) % 2)) ((1, 0), (u, 1))
  r.1.1 * invPrime c.1 r.1.2 % c.1

/-! ## All seven -/

/-- R190 on a public value of a curve. -/
def ecPublicOk (v : Nat) (pub : Bytes) : Bool :=
  if v ≤ 2 then pPointOk v pub
  else if v ≤ 4 then ((edCurve v).decode pub).isSome
  else pub.length == (ecSizes v).2.1

/-- R191: a scalar for the P-curves, a random string for the others. -/
def ecNew (v : Nat) (rnd : Bytes) : Bytes :=
  if v ≤ 2 then toBe (ecSizes v).1 (pScalar v rnd) else fit (ecSizes v).1 rnd

def ecPubOf (v : Nat) (priv : Bytes) : Bytes :=
  if v ≤ 2 then pEncode v ((pCurve v).mul (beNat priv) (some (pCurve v).base))
  else if v ≤ 4 then edPub v priv
  else toLe (ecSizes v).1 (montMul v (montScalar v priv) (montCurve v).2.2)

/-- The shared secret, or none for a peer value that fails R190 or an all-zero Montgomery result. -/
def agreeSecret (v : Nat) (priv pub : Bytes) : Option Bytes :=
  if !ecPublicOk v pub then none
  else if v ≤ 2 then
    match (pCurve v).mul (beNat priv) (some (pDecode v pub)) with
    | some a => some (toBe (ecSizes v).1 a.1)
    | none => some (fit (ecSizes v).1 (Config.noPoint v))
  else
    let k := montMul v (montScalar v priv) (montValue v pub)
    if k = 0 then none else some (toLe (ecSizes v).1 k)

end Sys2Proof.Machine
end

