-- ==== Sys2Proof/Machine/CflOps.lean ====
section
/-! DEFINITION. Confluence port states (R372), addressing and unicast sending: coordinates and neighbours (R61), routes (R377), and the
messages this device originates (R379, R380). -/

namespace Sys2Proof.Machine

open Sys2Proof

/-- A change of a port's state, with its event (R454). -/
def State.portGoes (s : State) (p : Nat) (st : PortSt) (refuse : Nat) : State :=
  let x := s.port p
  let t := s.setPort p { x with st := st, refuse := refuse }
  if x.st = st then t else t.raise (0x280 + p) st.code

def Setup.portEn (c : Setup) (p : Nat) : Bool := c.confluence.any fun r => bitOf r.portEn p

def ConfluenceRec.coord (c : ConfluenceRec) (d : Nat) : Nat × Nat × Nat :=
  (d % c.dimX, d / c.dimX % c.dimY, d / (c.dimX * c.dimY))

def ConfluenceRec.device (c : ConfluenceRec) (x y z : Nat) : Nat := x + c.dimX * (y + c.dimY * z)

/-- One coordinate's neighbour up or down a dimension of size `n`; a mesh does not wrap. -/
def stepDim (wrap up : Bool) (n x : Nat) : Option Nat :=
  if n ≤ 1 then none
  else if up then (if x + 1 < n then some (x + 1) else if wrap then some 0 else none)
  else (if x = 0 then (if wrap then some (n - 1) else none) else some (x - 1))

/-- The neighbour of device `d` in a dimension direction 1 to 6 (R53, R61). -/
def ConfluenceRec.neighbour (c : ConfluenceRec) (d dir : Nat) : Option Nat :=
  let p := c.coord d
  let wrap : Bool := c.topology != 2
  let up : Bool := dir % 2 == 1
  match dir with
  | 1 | 2 => (stepDim wrap up c.dimX p.1).map fun x => c.device x p.2.1 p.2.2
  | 3 | 4 => (stepDim wrap up c.dimY p.2.1).map fun y => c.device p.1 y p.2.2
  | 5 | 6 => (stepDim wrap up c.dimZ p.2.2).map fun z => c.device p.1 p.2.1 z
  | _ => none

/-- The direction that corrects one dimension: the shorter way round a ring or torus, + on a tie (R377). -/
def dimDir (wrap : Bool) (plus n a b : Nat) : List Nat :=
  if a = b then []
  else
    let fwd := (b + n - a) % n
    if wrap then (if fwd ≤ n - fwd then [plus] else [plus + 1]) else (if a < b then [plus] else [plus + 1])

/-- The directions still to correct, in dimension order. -/
def ConfluenceRec.dirs (c : ConfluenceRec) (src dst : Nat) : List Nat :=
  let a := c.coord src
  let b := c.coord dst
  let wrap : Bool := c.topology != 2
  dimDir wrap 1 c.dimX a.1 b.1 ++ dimDir wrap 3 c.dimY a.2.1 b.2.1 ++ dimDir wrap 5 c.dimZ a.2.2 b.2.2

def State.isUp (s : State) (p : Nat) : Bool := (s.port p).st == .up

/-- A port of the direction that is UP, or a spare port that is UP to the same neighbour. -/
def State.portToward (s : State) (c : ConfluenceRec) (dir : Nat) : Option Nat :=
  match (List.range 8).find? fun p => c.portDir.getD p 0 == dir && s.isUp p with
  | some p => some p
  | none =>
    (c.neighbour c.devId dir).bind fun d =>
      (List.range 8).find? fun p => c.portDir.getD p 0 == 7 && s.isUp p && (s.port p).peerDev == d

/-- The port of a route entry, or a spare port to the same neighbour. -/
def State.routeEntry (s : State) (c : ConfluenceRec) (dst : Nat) : Option Nat :=
  ((c.routes.find? fun r => r.1 == dst).map Prod.snd).bind fun p =>
    if s.isUp p then some p else
      let dir := c.portDir.getD p 0
      if 1 ≤ dir && dir ≤ 6 then s.portToward c dir else none

/-- The output port of a unicast message (R377). -/
def State.routeTo (s : State) (dst : Nat) : Option Nat :=
  match s.cfg.confluence with
  | none => none
  | some c =>
    match s.routeEntry c dst with
    | some p => some p
    | none => if c.topology = 0 then none else (c.dirs c.devId dst).findSome? (s.portToward c)

def State.dropMsg (s : State) : State := { s with cfl := { s.cfl with drop := satAdd 0xFFFFFFFF s.cfl.drop 1 } }

/-- A message of this device with SEQ `seq` on its route, or discarded (R377, R379). -/
def State.sendAs (s : State) (seq cls flags reach dst epoch status : Nat) (payload : Bytes) : State :=
  match s.routeTo dst with
  | none => s.dropMsg
  | some p =>
    let body := msgHeader cls flags 48 reach s.devId dst epoch seq payload.length status ++ payload
    (s.sendFrame p cls dst body).countTx

/-- A request of this device: it takes the next SEQ. -/
def State.sendNew (s : State) (cls reach dst epoch : Nat) (payload : Bytes) : State :=
  State.sendAs { s with cfl := { s.cfl with seq := s.cfl.seq + 1 } } s.cfl.seq cls 0 reach dst epoch 0 payload

/-- A link-local message on one port. -/
def State.sendLocal (s : State) (port cls : Nat) (payload : Bytes) : State :=
  let body := msgHeader cls 2 48 0xFF s.devId 0xFFFF s.ownEpoch s.cfl.seq payload.length 0 ++ payload
  let t := (s.sendFrame port cls 0xFFFF body).countTx
  { t with cfl := { t.cfl with seq := s.cfl.seq + 1 } }

/-- The epoch of a reach as a directly linked peer last advertised it; 0 when it has no such reach. -/
def Port.epochOf (p : Port) (r : Nat) : Option Nat := (p.peerEpochs.find? fun e => e.1 == r).map Prod.snd

/-- The epoch of a reach on a device as this device last learned it (R379). -/
def State.knownEpoch (s : State) (dev r : Nat) : Nat :=
  ((s.upPorts.findSome? fun p => if (s.port p).peerDev == dev then (s.port p).epochOf r else none)).getD 0

/-- A request waits for its answer (R388). -/
def State.awaitReply (s : State) (q : CflReq) : State := { s with cfl := { s.cfl with pendingReq := s.cfl.pendingReq ++ [q] } }

def State.dropReq (s : State) (id : Nat) : State :=
  { s with cfl := { s.cfl with pendingReq := s.cfl.pendingReq.filter fun (q : CflReq) => q.id != id } }

end Sys2Proof.Machine
end

