-- ==== Sys2Proof/Machine/Mceliece.lean ====
section
/-! DEFINITION. Classic McEliece as its published specification defines it (R181, R182, log entry 22). Variants 0 to 4;
8 to 12 are the f variants, which differ in key generation only. -/

namespace Sys2Proof.Machine

open Sys2Proof

/-- Field degree m and polynomial, code length, errors, and the lower terms of F(y): exponent and coefficient. -/
structure MceSet where
  m : Nat
  field : Nat
  n : Nat
  t : Nat
  taps : List (Nat × Nat)
  /-- semi-systematic form: the last 32 pivots within 64 columns -/
  semi : Bool
  deriving DecidableEq, Repr

def mceSet (v : Nat) : MceSet :=
  let f12 := 2 ^ 12 + 2 ^ 3 + 1
  let f13 := 2 ^ 13 + 2 ^ 4 + 2 ^ 3 + 2 + 1
  let t128 := [(7, 1), (2, 1), (1, 1), (0, 1)]
  match v % 8 with
  | 0 => { m := 12, field := f12, n := 3488, t := 64, taps := [(3, 1), (1, 1), (0, 2)], semi := 8 ≤ v }
  | 1 => { m := 13, field := f13, n := 4608, t := 96, taps := [(10, 1), (9, 1), (6, 1), (0, 1)], semi := 8 ≤ v }
  | 2 => { m := 13, field := f13, n := 6688, t := 128, taps := t128, semi := 8 ≤ v }
  | 3 => { m := 13, field := f13, n := 6960, t := 119, taps := [(8, 1), (0, 1)], semi := 8 ≤ v }
  | _ => { m := 13, field := f13, n := 8192, t := 128, taps := t128, semi := 8 ≤ v }

/-- Elements of the field, and rows of the check matrix. -/
def MceSet.q (p : MceSet) : Nat := 2 ^ p.m
def MceSet.rows (p : MceSet) : Nat := p.m * p.t

/-! ## The field -/

/-- Add-and-double multiplication over the bits of `b`. -/
def MceSet.mulGo (p : MceSet) : Nat → Nat → Nat → Nat → Nat
  | 0, _, _, acc => acc
  | k + 1, a, b, acc =>
    let d := if 2 * a < p.q then 2 * a else Nat.xor (2 * a) p.field
    p.mulGo k d (b / 2) (if b % 2 = 1 then Nat.xor acc a else acc)

def MceSet.mul (p : MceSet) (a b : Nat) : Nat := p.mulGo p.m a b 0

/-- a^(2^m − 2): the product of its proper iterated squares. -/
def MceSet.inv (p : MceSet) (a : Nat) : Nat :=
  ((List.range (p.m - 1)).foldl (fun (s : Nat × Nat) _ => let x := p.mul s.1 s.1; (x, p.mul s.2 x)) (a, 1)).2

/-- A polynomial with its leading term at the end, at a point. -/
def MceSet.eval (p : MceSet) (f : Poly) (x : Nat) : Nat := f.foldr (fun c acc => Nat.xor c (p.mul acc x)) 0

def xorPoly (a b : Poly) : Poly := (a.zip b).map fun x => Nat.xor x.1 x.2

/-- Multiplication by y modulo F(y), and of two residues. -/
def MceSet.shift (p : MceSet) (f : Poly) : Poly :=
  let top := f.getLastD 0
  p.taps.foldl (fun g x => g.set x.1 (Nat.xor (g.getD x.1 0) (p.mul top x.2))) (0 :: f.dropLast)

def MceSet.mulResidue (p : MceSet) (f g : Poly) : Poly :=
  g.foldr (fun c acc => xorPoly (p.shift acc) (f.map (p.mul c))) (List.replicate p.t 0)

/-! ## Linear algebra over the field -/

/-- Rows with the first column eliminated, pivot rows first to last, each without its leading 1. -/
def MceSet.triangle (p : MceSet) : Nat → List Poly → Option (List Poly)
  | 0, _ => some []
  | k + 1, rows =>
    match rows.findIdx? fun r => r.headD 0 != 0 with
    | none => none
    | some i =>
      let lead := rows.getD i []
      let norm := lead.tail.map (p.mul (p.inv (lead.headD 0)))
      let rest := (rows.eraseIdx i).map fun r => xorPoly r.tail (norm.map (p.mul (r.headD 0)))
      (p.triangle k rest).map (norm :: ·)

/-- The solution of a triangle whose rows end in their right sides. -/
def MceSet.solve (p : MceSet) (rows : List Poly) : Poly :=
  rows.foldr (fun r xs => ((xs.zip r).foldl (fun s c => Nat.xor s (p.mul c.1 c.2)) (r.getLastD 0)) :: xs) []

/-! ## Permutations as control bits of a Beneš network -/

def sortPairs (xs : List (Nat × Nat)) : List (Nat × Nat) :=
  xs.mergeSort fun a b => a.1 < b.1 || (a.1 == b.1 && a.2 ≤ b.2)

/-- `c` rearranged so that its entry at `i` comes to place π(i). -/
def placed (c pi : List Nat) : List Nat := (sortPairs (pi.zip c)).map Prod.snd

/-- Neighbours exchanged. -/
def swapPairs : List Nat → List Nat
  | a :: b :: xs => b :: a :: swapPairs xs
  | xs => xs

def flip1 (x : Nat) : Nat := Nat.xor x 1
def minEach (a b : List Nat) : List Nat := (a.zip b).map fun x => min x.1 x.2
def evens : List Nat → List Nat
  | a :: _ :: xs => a :: evens xs
  | xs => xs
def odds (xs : List Nat) : List Nat := evens (xs.drop 1)
/-- Each entry of `xs` flipped where its pair's bit is set. -/
def flipBy (xs bits : List Nat) : List Nat := (xs.zip (bits.flatMap fun b => [b, b])).map fun x => Nat.xor x.1 x.2
def weave : List Nat → List Nat → List Nat
  | a :: xs, b :: ys => a :: b :: weave xs ys
  | _, _ => []

/-- The least place on each place's cycle, found by doubling. -/
def cycleMins : Nat → List Nat → List Nat → List Nat → List Nat
  | 0, c, _, _ => c
  | k + 1, c, p, q => cycleMins k (minEach c (placed c q)) (placed p q) (placed q p)

/-- The control bits of a permutation of 2^m places. -/
def controlBits : Nat → List Nat → List Nat
  | 0, _ => []
  | 1, pi => [pi.headD 0]
  | m + 2, pi =>
    let n := pi.length
    let ids := List.range n
    let p := swapPairs pi
    let q := pi.map flip1
    let p1 := placed p q
    let q1 := placed q p
    let c := cycleMins m (minEach ids p1) (placed p1 q1) (placed q1 p1)
    let f := (evens c).map (· % 2)
    let fpi := placed (flipBy ids f) (placed ids pi)
    let l := (evens fpi).map (· % 2)
    let mid := placed fpi (flipBy ids l)
    let half (e : List Nat) : List Nat := controlBits (m + 1) (e.map (· / 2))
    f ++ weave (half (evens mid)) (half (odds mid)) ++ l

/-- One layer of the network: the pairs of distance `gap` whose bit is set change places. -/
def networkLayer (gap : Nat) (xs bits : List Nat) : List Nat :=
  let n := xs.length / (2 * gap)
  (List.range n).flatMap fun b =>
    let lo := slice2 xs (2 * gap * b) gap
    let hi := slice2 xs (2 * gap * b + gap) gap
    let on := slice2 bits (gap * b) gap
    let pick (f : Nat × Nat × Nat → Nat) : List Nat := (on.zip (lo.zip hi)).map f
    pick (fun x => if x.1 = 1 then x.2.2 else x.2.1) ++ pick (fun x => if x.1 = 1 then x.2.1 else x.2.2)
where slice2 (xs : List Nat) (off len : Nat) : List Nat := (xs.drop off).take len

/-- The permutation that control bits spell. -/
def networkPerm (m : Nat) (bits : List Nat) : List Nat :=
  (List.range (2 * m - 1)).foldl (fun xs i =>
    networkLayer (2 ^ min i (2 * m - 2 - i)) xs ((bits.drop (i * 2 ^ (m - 1))).take (2 ^ (m - 1)))) (List.range (2 ^ m))

/-! ## Key generation -/

/-- The lowest `m` bits turned round. -/
def turned (m x : Nat) : Nat := (List.range m).foldl (fun a i => 2 * a + x / 2 ^ i % 2) 0

def hasTwins : List (Nat × Nat) → Bool
  | a :: b :: xs => a.1 == b.1 || hasTwins (b :: xs)
  | _ => false

/-- The order of the field elements: places sorted by 32-bit numbers, none when two are equal. -/
def MceSet.ordering (p : MceSet) (bs : Bytes) : Option (List Nat) :=
  let xs := sortPairs ((unpackBytes 32 p.q bs).zip (List.range p.q))
  if hasTwins xs then none else some (xs.map Prod.snd)

/-- The minimal polynomial of the residue that the bytes spell, without its leading 1; none when its degree is too low. -/
def MceSet.goppa (p : MceSet) (bs : Bytes) : Option Poly :=
  let beta := (unpackBytes 16 p.t bs).map (· % p.q)
  let powers := (List.range p.t).foldl (fun (a : List Poly) _ => p.mulResidue (a.headD []) beta :: a)
    [1 :: List.replicate (p.t - 1) 0]
  let columns := powers.reverse
  (p.triangle p.t ((List.range p.t).map fun i => columns.map fun c => c.getD i 0)).map p.solve

/-- The check matrix of support α and polynomial g, as the bits of its rows, column 0 lowest. -/
def MceSet.checkRows (p : MceSet) (g alpha : List Nat) : List Nat :=
  let first := alpha.map fun a => p.inv (p.eval (g ++ [1]) a)
  let all := ((List.range p.t).foldl (fun (acc : List (List Nat)) _ =>
    ((acc.headD []).zip alpha).map (fun x => p.mul x.1 x.2) :: acc) [first]).reverse.take p.t
  all.flatMap fun hs => (List.range p.m).map fun b => hs.foldr (fun x acc => 2 * acc + x / 2 ^ b % 2) 0

/-- One column of the elimination: its pivot row, when there is one, is cleared out of every other row. -/
def pivotColumn (st : List Nat × List Nat × List Nat) (c : Nat) : List Nat × List Nat × List Nat :=
  match st.2.1.findIdx? fun r => r.testBit c with
  | none => st
  | some i =>
    let r := st.2.1.getD i 0
    let clear (x : Nat) : Nat := if x.testBit c then Nat.xor x r else x
    (st.1.map clear ++ [r], (st.2.1.eraseIdx i).map clear, st.2.2 ++ [c])

/-- Two columns of a row change places. -/
def swapBits (i j x : Nat) : Nat :=
  if x.testBit i == x.testBit j then x else Nat.xor x (2 ^ i + 2 ^ j)

def swapPlaces (i j : Nat) (xs : List Nat) : List Nat := (xs.set i (xs.getD j 0)).set j (xs.getD i 0)

/-- The systematic form: the rows of T, the permutation with the pivot columns moved to the front, and the pivots' mask; none
when the pivots lie elsewhere. -/
def MceSet.systematic (p : MceSet) (g pi : List Nat) : Option (List Nat × List Nat × Nat) :=
  let mu := if p.semi then 32 else 0
  let fixed := p.rows - mu
  let rows := p.checkRows g ((pi.take p.n).map (turned p.m))
  let r := (List.range (fixed + 2 * mu)).foldl pivotColumn ([], rows, [])
  if r.2.2.length = p.rows ∧ r.2.2.take fixed = List.range fixed then
    let swaps := (List.range mu).map fun k => (fixed + k, r.2.2.getD (fixed + k) 0)
    let rows := r.1.map fun x => swaps.foldl (fun x s => swapBits s.1 s.2 x) x
    some (rows.map fun x => x / 2 ^ p.rows, swaps.foldl (fun xs s => swapPlaces s.1 s.2 xs) pi,
      if mu = 0 then 2 ^ 32 - 1 else (swaps.map fun s => 2 ^ (s.2 - fixed)).sum)
  else none

def MceSet.packT (p : MceSet) (rows : List Nat) : Bytes := rows.flatMap (toLe (ceilDiv (p.n - p.rows) 8))

/-- Private and public key of a seed, or none when this attempt fails; and the seed of the next attempt. -/
def MceSet.attempt (p : MceSet) (seed : Bytes) : Option (Bytes × Bytes) × Bytes :=
  let s := p.n / 8
  let e := shake256 (64 :: seed) (s + 4 * p.q + 2 * p.t + 32)
  let next := e.drop (s + 4 * p.q + 2 * p.t)
  match p.ordering (slice e s (4 * p.q)), p.goppa (slice e (s + 4 * p.q) (2 * p.t)) with
  | some pi, some g =>
    (match p.systematic g pi with
     | some (rows, pi, mask) =>
       (some (seed ++ toLe 8 mask ++ g.flatMap (toLe 2) ++ packBits 1 ((2 * p.m - 1) * 2 ^ (p.m - 4)) (controlBits p.m pi) ++
         e.take s, p.packT rows), next)
     | none => (none, next))
  | _, _ => (none, next)

/-- Attempts until one succeeds, with their number (R158, R182). -/
def MceSet.keygen (p : MceSet) : Nat → Nat → Bytes → Bytes × Bytes × Nat
  | 0, n, _ => ([], [], n)
  | f + 1, n, seed =>
    match p.attempt seed with
    | (some k, _) => (k.1, k.2, n + 1)
    | (none, next) => p.keygen f (n + 1) next

def mceNew (v : Nat) (seed : Bytes) : Bytes × Bytes × Nat := (mceSet v).keygen 65536 0 (fit 32 seed)

/-- The parts of a private key behind its seed and mask: g, the support, s. -/
def MceSet.parse (p : MceSet) (sk : Bytes) : Poly × List Nat × Bytes :=
  let net := (2 * p.m - 1) * 2 ^ (p.m - 4)
  (unpackBytes 16 p.t (slice sk 40 (2 * p.t)),
   ((networkPerm p.m (unpackBytes 1 (8 * net) (slice sk (40 + 2 * p.t) net))).take p.n).map (turned p.m),
   sk.drop (40 + 2 * p.t + net))

/-- The public key of a private one. -/
def mcePub (v : Nat) (sk : Bytes) : Bytes :=
  let p := mceSet (v % 8)
  let net := (2 * p.m - 1) * 2 ^ (p.m - 4)
  let pi := networkPerm p.m (unpackBytes 1 (8 * net) (slice sk (40 + 2 * p.t) net))
  match p.systematic (p.parse sk).1 pi with
  | some r => p.packT r.1
  | none => []

/-! ## Encapsulation -/

/-- Draws of 16 bits that an error vector takes. -/
def MceSet.picks (p : MceSet) : Nat := if p.n = p.q then p.t else 2 * p.t

/-- The bytes that Encaps draws for its error vector (log entry 22). -/
def mceDraw (v : Nat) : Nat := 2 * (mceSet v).picks

/-- The places of the errors that drawn bytes give, or none when too few are in range or two are equal. -/
def MceSet.places (p : MceSet) (bs : Bytes) : Option (List Nat) :=
  let xs := (((unpackBytes 16 p.picks bs).map (· % p.q)).filter (· < p.n)).take p.t
  if xs.length = p.t ∧ !hasTwins (sortPairs (xs.map fun x => (x, 0))) then some xs else none

/-- The first of the draws that gives an error vector: the bytes drawn, then those of the draws that follow. -/
def MceSet.errors (p : MceSet) (v : Nat) (rnd : Bytes) : Nat → Nat → List Nat
  | 0, _ => List.range p.t
  | f + 1, k =>
    match p.places (if k = 0 then rnd else fit (2 * p.picks) (Config.mceRedraw v rnd k)) with
    | some xs => xs
    | none => p.errors v rnd f (k + 1)

/-- Is the number of ones odd? -/
def oddOnes (n x : Nat) : Nat := popCount x n % 2

/-- The syndrome of an error vector under (I | T). -/
def MceSet.syndrome (p : MceSet) (pub : Bytes) (e : Nat) : Nat :=
  let k := p.n - p.rows
  let w := ceilDiv k 8
  ((pieces w p.rows pub).zip (List.range p.rows)).foldr (fun r acc =>
    2 * acc + Nat.xor (e / 2 ^ r.2 % 2) (oddOnes k (Nat.land (leNat r.1) (e / 2 ^ p.rows)))) 0

def MceSet.cipherLen (p : MceSet) : Nat := ceilDiv p.rows 8

/-- Ciphertext and shared secret. -/
def mceEncapsWith (v : Nat) (pub rnd : Bytes) : Bytes × Bytes :=
  let p := mceSet v
  let e := ((p.errors v rnd 65536 0).map fun i => 2 ^ i).sum
  let c := toLe p.cipherLen (p.syndrome pub e)
  (c, shake256 ([1] ++ toLe (p.n / 8) e ++ c) 32)

/-! ## Decapsulation -/

/-- One step of Berlekamp and Massey: connection polynomial, its predecessor, length, gap, last discrepancy. -/
structure BmState where
  c : Poly
  b : Poly
  len : Nat
  gap : Nat
  disc : Nat
  deriving DecidableEq, Repr

def MceSet.bmStep (p : MceSet) (s : List Nat) (st : BmState) (k : Nat) : BmState :=
  let d := ((List.range (st.len + 1)).map fun i => p.mul (st.c.getD i 0) (s.getD (k - i) 0)).foldl Nat.xor 0
  if d = 0 then { st with gap := st.gap + 1 }
  else
    let scaled := List.replicate st.gap 0 ++ st.b.map (p.mul (p.mul d (p.inv st.disc)))
    let n := max st.c.length scaled.length
    let wide (f : Poly) : Poly := f ++ List.replicate (n - f.length) 0
    let c := xorPoly (wide st.c) (wide scaled)
    if 2 * st.len ≤ k then { c := c, b := st.c, len := k + 1 - st.len, gap := 1, disc := d }
    else { st with c := c, gap := st.gap + 1 }

/-- The power sums Σ α^k / g(α)² over the set places, k below 2t. -/
def MceSet.powerSums (p : MceSet) (weights alpha : List Nat) (e : Nat) : List Nat :=
  let on := (((List.range p.n).zip (weights.zip alpha)).filter fun x => e.testBit x.1).map Prod.snd
  ((List.range (2 * p.t)).foldl (fun (st : List Nat × List (Nat × Nat)) _ =>
    ((st.2.map Prod.fst).foldl Nat.xor 0 :: st.1, st.2.map fun x => (p.mul x.1 x.2, x.2))) ([], on)).1.reverse

/-- The error vector of weight t behind a syndrome, or none. -/
def MceSet.decode (p : MceSet) (g alpha : List Nat) (syn : Nat) : Option Nat :=
  let weights := alpha.map fun a => let x := p.inv (p.eval (g ++ [1]) a); p.mul x x
  let s := p.powerSums weights alpha syn
  let st := (List.range (2 * p.t)).foldl (p.bmStep s) { c := [1], b := [1], len := 0, gap := 1, disc := 1 }
  let locator := ((st.c ++ List.replicate (p.t + 1) 0).take (st.len + 1)).reverse
  let es := ((List.range p.n).zip alpha).filter fun x => p.eval locator x.2 == 0
  let e := (es.map fun x => 2 ^ x.1).sum
  if es.length = p.t ∧ p.powerSums weights alpha e = s then some e else none

/-- The shared secret, H(0, s, C) when decoding fails (R182). -/
def mceDecapsWith (v : Nat) (sk c : Bytes) : Bytes :=
  let p := mceSet (v % 8)
  let k := p.parse sk
  match p.decode k.1 k.2.1 (leNat c % 2 ^ p.rows) with
  | some e => shake256 ([1] ++ toLe (p.n / 8) e ++ c) 32
  | none => shake256 ([0] ++ k.2.2 ++ c) 32

end Sys2Proof.Machine
end

