-- ==== Sys2Proof/Machine/Opcodes.lean ====
section
/-! DEFINITION. The opcodes (R152, R184), what each asks of the entry's key slot (R156, R162, R186, R194 to R202), the
engine classes of its template (R34, R48, R125) and the randomness it draws (R160, R165, R169, R172, R191 to R202,
R271). -/

namespace Sys2Proof.Machine

open Sys2Proof

/-- The operation an opcode names. -/
inductive Op where
  | nop | fence | random | reseed | attest
  | mlKemKeygen | mlKemEncaps | mlKemDecaps
  | mlDsaKeygen | mlDsaSign | mlDsaVerify
  | slhDsaKeygen | slhDsaSign | slhDsaVerify
  | lmsKeygen | lmsSign | lmsVerify | lmsIndexQuery
  | xmssKeygen | xmssSign | xmssVerify | xmssIndexQuery
  | mcelieceKeygen | mcelieceEncaps | mcelieceDecaps
  | ecKeygen | ecSign | ecVerify | agree
  | rsaKeygen | rsaPssSign | rsaV15Sign | rsaPssVerify | rsaV15Verify | rsaOaepEncrypt | rsaOaepDecrypt
  | hash | hmacGenerate | hmacVerify | kmacGenerate | kmacVerify
  | aesGcmEncrypt | aesGcmDecrypt | aesCtr | aesXtsEncrypt | aesXtsDecrypt
  | kdfCounterHmac | kdfKmac256 | hkdf | hkdfExpand
  | generate | importWrapped | importClear | exportWrapped | exportPublic | restrict | delete
  | hybridKeygen | hybridEncaps | hybridDecaps
  | ownerOpcode
  deriving DecidableEq, Repr

/-- The operation and variant of an opcode outside 0x0Fxx; `none` where R152 and R184 define none. -/
def opOf (c : Nat) : Option (Op × Nat) :=
  let v := c % 16
  let rng (o : Op) (n : Nat) : Option (Op × Nat) := if v ≤ n then some (o, v) else none
  match c / 16 with
  | 0x000 => if v = 0 then some (.nop, 0) else if v = 1 then some (.fence, 0) else none
  | 0x001 => if v = 0 then some (.random, 0) else if v = 1 then some (.reseed, 0) else none
  | 0x002 => if v = 0 then some (.attest, 0) else none
  | 0x010 => rng .mlKemKeygen 2
  | 0x011 => rng .mlKemEncaps 2
  | 0x012 => rng .mlKemDecaps 2
  | 0x020 => rng .mlDsaKeygen 2
  | 0x021 => rng .mlDsaSign 2
  | 0x022 => rng .mlDsaVerify 2
  | 0x030 => rng .slhDsaKeygen 0xB
  | 0x031 => rng .slhDsaSign 0xB
  | 0x032 => rng .slhDsaVerify 0xB
  | 0x040 => rng .lmsKeygen 1
  | 0x041 => rng .lmsSign 1
  | 0x042 => rng .lmsVerify 1
  | 0x043 => rng .lmsIndexQuery 1
  | 0x050 => rng .xmssKeygen 1
  | 0x051 => rng .xmssSign 1
  | 0x052 => rng .xmssVerify 1
  | 0x053 => rng .xmssIndexQuery 1
  | 0x060 => if v ≤ 4 || (8 ≤ v && v ≤ 12) then some (.mcelieceKeygen, v) else none
  | 0x061 => rng .mcelieceEncaps 4
  | 0x062 => rng .mcelieceDecaps 4
  | 0x080 => rng .ecKeygen 6
  | 0x081 => rng .ecSign 4
  | 0x082 => rng .ecVerify 4
  | 0x083 => if v ≤ 2 || v = 5 || v = 6 then some (.agree, v) else none
  | 0x090 => rng .rsaKeygen 0
  | 0x091 => if v = 0 then some (.rsaPssSign, 0) else if v = 1 then some (.rsaV15Sign, 0) else none
  | 0x092 => if v = 0 then some (.rsaPssVerify, 0) else if v = 1 then some (.rsaV15Verify, 0) else none
  | 0x093 => rng .rsaOaepEncrypt 0
  | 0x094 => rng .rsaOaepDecrypt 0
  | 0x0A0 => rng .hash 0xD
  | 0x0A1 => rng .hmacGenerate 9
  | 0x0A2 => rng .hmacVerify 9
  | 0x0A3 => rng .kmacGenerate 1
  | 0x0A4 => rng .kmacVerify 1
  | 0x0B0 => if v = 0 then some (.aesGcmEncrypt, 0) else if v = 1 then some (.aesGcmDecrypt, 0) else none
  | 0x0B1 => rng .aesCtr 0
  | 0x0B2 => if v = 0 then some (.aesXtsEncrypt, 0) else if v = 1 then some (.aesXtsDecrypt, 0) else none
  | 0x0C0 => if v = 0 then some (.kdfCounterHmac, 0) else if v = 1 then some (.kdfKmac256, 0) else none
  | 0x0C1 => if v = 0 then some (.hkdf, 0) else if v = 1 then some (.hkdfExpand, 0) else none
  | 0x0D0 => rng .generate 0
  | 0x0D1 => if v = 0 then some (.importWrapped, 0) else if v = 1 then some (.importClear, 0) else none
  | 0x0D2 => if v = 0 then some (.exportWrapped, 0) else if v = 1 then some (.exportPublic, 0) else none
  | 0x0D3 => rng .restrict 0
  | 0x0D4 => rng .delete 0
  | 0x0E0 => rng .hybridKeygen 1
  | 0x0E1 => rng .hybridEncaps 1
  | 0x0E2 => rng .hybridDecaps 1
  | _ => none

/-- Is the opcode a built-in one (R51's OVERRIDE range, R124)? -/
def opDefined (c : Nat) : Bool := (opOf c).isSome

/-- The owner ADD template of an opcode for a reach: the lowest TEMPLATE_ID that applies (R124). -/
def lowestGraph : List GraphRec → Option GraphRec
  | [] => none
  | g :: gs =>
    match lowestGraph gs with
    | none => some g
    | some h => if h.template < g.template then some h else some g

def ownerGraph (gs : List GraphRec) (override : Bool) (reach opcode : Nat) : Option GraphRec :=
  lowestGraph (gs.filter fun g => g.override == override && g.opcode == opcode && bitOf g.reachMask reach)

/-- The operation an entry's opcode names for a reach (check 2 of R106). -/
def jobOp (gs : List GraphRec) (reach opcode : Nat) : Option (Op × Nat) :=
  if 0xF00 ≤ opcode && opcode ≤ 0xFFF then (ownerGraph gs false reach opcode).map fun _ => (.ownerOpcode, 0)
  else opOf opcode

/-- How an operation treats KEY_SLOT (check 9). -/
inductive KeyUse where
  | required | optional | forbidden | free
  deriving DecidableEq, Repr

def Op.keyUse : Op → KeyUse
  | .nop | .fence | .random | .reseed | .hash => .forbidden
  | .mlKemEncaps | .mcelieceEncaps | .mlDsaVerify | .slhDsaVerify | .lmsVerify | .xmssVerify | .ecVerify
  | .rsaPssVerify | .rsaV15Verify | .rsaOaepEncrypt | .hybridEncaps => .optional
  | .ownerOpcode => .free
  | _ => .required

/-- Does the operation fill the slot that KEY_SLOT names (check 13, R290)? -/
def Op.creates : Op → Bool
  | .mlKemKeygen | .mlDsaKeygen | .slhDsaKeygen | .lmsKeygen | .xmssKeygen | .mcelieceKeygen | .ecKeygen
  | .rsaKeygen | .hybridKeygen | .generate | .importWrapped | .importClear => true
  | _ => false

/-- Does the operation draw an index from its key's lease (R177)? -/
def Op.drawsIndex : Op → Bool
  | .lmsSign | .xmssSign => true
  | _ => false

/-- Does the operation load the material of its key slot (R183)? Key management on the descriptor and index queries read the
slot and load nothing; an operation that fills its slot has no key. -/
def Op.loadsKey (o : Op) : Bool :=
  !o.creates && (match o with | .restrict | .delete | .lmsIndexQuery | .xmssIndexQuery => false | _ => true)

/-- The BNU routine validates a public value of the input before the key is loaded (R260). -/
def Op.validatesFirst : Op → Bool
  | .agree | .hybridDecaps => true
  | _ => false

def Op.isKeygen : Op → Bool
  | .mlKemKeygen | .mlDsaKeygen | .slhDsaKeygen | .lmsKeygen | .xmssKeygen | .mcelieceKeygen | .ecKeygen
  | .rsaKeygen | .hybridKeygen => true
  | _ => false

/-- Post-quantum opcodes take the block of R153, the others that of R185, NOP and FENCE none. -/
inductive Block where
  | pq | classic | none | owner
  deriving DecidableEq, Repr

def Op.block : Op → Block
  | .nop | .fence => .none
  | .ownerOpcode => .owner
  | .mlKemKeygen | .mlKemEncaps | .mlKemDecaps | .mlDsaKeygen | .mlDsaSign | .mlDsaVerify | .slhDsaKeygen
  | .slhDsaSign | .slhDsaVerify | .lmsKeygen | .lmsSign | .lmsVerify | .lmsIndexQuery | .xmssKeygen | .xmssSign
  | .xmssVerify | .xmssIndexQuery | .mcelieceKeygen | .mcelieceEncaps | .mcelieceDecaps => .pq
  | _ => .classic

def Op.isVerify : Op → Bool
  | .mlDsaVerify | .slhDsaVerify | .lmsVerify | .xmssVerify | .ecVerify | .rsaPssVerify | .rsaV15Verify => true
  | _ => false

/-- Does a slot of this TYPE and PARAM serve the operation (check 15)? -/
def Op.typeOk (o : Op) (v t p : Nat) : Bool :=
  match o with
  | .mlKemEncaps | .mlKemDecaps => t == 0x01 && p == v
  | .mlDsaSign | .mlDsaVerify => t == 0x02 && p == v
  | .slhDsaSign | .slhDsaVerify => t == 0x03 && p == v
  | .lmsSign | .lmsVerify | .lmsIndexQuery => t == 0x04 + v
  | .xmssSign | .xmssVerify | .xmssIndexQuery => t == 0x06 + v
  | .mcelieceEncaps | .mcelieceDecaps => t == 0x08 && p % 8 == v
  | .ecSign | .ecVerify | .agree => t == 0x10 && p == v
  | .rsaPssSign | .rsaV15Sign | .rsaPssVerify | .rsaV15Verify | .rsaOaepEncrypt | .rsaOaepDecrypt => t == 0x11
  | .hmacGenerate | .hmacVerify => t == 0x22 || t == 0x24
  | .kmacGenerate | .kmacVerify => t == 0x23 || t == 0x24
  | .aesGcmEncrypt | .aesGcmDecrypt | .aesCtr => t == 0x20
  | .aesXtsEncrypt | .aesXtsDecrypt => t == 0x21
  | .hybridEncaps | .hybridDecaps => t == 0x12 && p == v
  | _ => true

/-- The USAGE bits of which the slot must hold one (check 15); 0 asks for none. -/
def Op.usage : Op → Nat
  | .mlKemEncaps | .mcelieceEncaps | .hybridEncaps => uEncaps
  | .mlKemDecaps | .mcelieceDecaps | .hybridDecaps => uDecaps
  | .mlDsaSign | .slhDsaSign | .lmsSign | .xmssSign | .ecSign | .rsaPssSign | .rsaV15Sign => uSign
  | .mlDsaVerify | .slhDsaVerify | .lmsVerify | .xmssVerify | .ecVerify | .rsaPssVerify | .rsaV15Verify => uVerify
  | .lmsIndexQuery | .xmssIndexQuery => uSign + uVerify
  | .agree => uAgree
  | .rsaOaepEncrypt | .aesGcmEncrypt | .aesXtsEncrypt => uEncrypt
  | .rsaOaepDecrypt | .aesGcmDecrypt | .aesXtsDecrypt => uDecrypt
  | .aesCtr => uEncrypt + uDecrypt
  | .hmacGenerate | .kmacGenerate => uMacGen
  | .hmacVerify | .kmacVerify => uMacVer
  | .kdfCounterHmac | .kdfKmac256 | .hkdf | .hkdfExpand => uDerive
  | .attest => uAttest
  | _ => 0

/-- The engine classes of an operation's built-in template, in the order its nodes run (R34); the last one writes the
output. NOP and FENCE have no node (R200). R34 names the engines, not the graphs (DEDUCED, log
entry 104). -/
def Op.classes : Op → List NodeClass
  | .nop | .fence | .ownerOpcode => []
  | .random | .reseed | .attest | .generate | .importClear | .exportPublic | .restrict | .delete => [.cc]
  | .importWrapped | .exportWrapped => [.cu, .cc]
  | .mlKemKeygen | .mlKemEncaps | .mlKemDecaps => [.ht, .pt]
  | .mlDsaKeygen | .mlDsaSign | .mlDsaVerify => [.ht, .ptChain]
  | .slhDsaKeygen | .slhDsaSign | .slhDsaVerify | .lmsKeygen | .lmsSign | .lmsVerify | .lmsIndexQuery
  | .xmssKeygen | .xmssSign | .xmssVerify | .xmssIndexQuery => [.ht]
  | .mcelieceKeygen | .mcelieceEncaps | .mcelieceDecaps => [.hbmMove, .ht, .pt]
  | .ecKeygen | .agree => [.bnu]
  | .ecSign | .ecVerify | .rsaKeygen | .rsaPssSign | .rsaV15Sign | .rsaPssVerify | .rsaV15Verify
  | .rsaOaepEncrypt | .rsaOaepDecrypt => [.ht, .bnu]
  | .hash | .hmacGenerate | .hmacVerify | .kmacGenerate | .kmacVerify
  | .kdfCounterHmac | .kdfKmac256 | .hkdf | .hkdfExpand => [.ht]
  | .aesGcmEncrypt | .aesGcmDecrypt | .aesCtr | .aesXtsEncrypt | .aesXtsDecrypt => [.cu]
  | .hybridKeygen | .hybridEncaps | .hybridDecaps => [.bnu, .ht, .pt]

/-- HASH_ALG codes as hash indices 0 to 9 of the Hash variants (R153, R185); codes 7 and 8 are SHAKE. -/
def hashAlgVariant : Nat → Option Nat
  | 1 => some 1 | 2 => some 2 | 3 => some 3 | 4 => some 7 | 5 => some 8 | 6 => some 9
  | 9 => some 0 | 10 => some 4 | 11 => some 5 | 12 => some 6 | _ => none

/-- Digest length of Hash variants 0 to 9 (R184, R194). -/
def hashLen : Nat → Nat
  | 0 => 28 | 1 => 32 | 2 => 48 | 3 => 64 | 4 => 28 | 5 => 32 | 6 => 28 | 7 => 32 | 8 => 48 | 9 => 64 | _ => 0

/-- Output length of a HASH_ALG or PH_ALG code (R161). -/
def algLen (c : Nat) : Nat :=
  match c with | 7 => 32 | 8 => 64 | _ => ((hashAlgVariant c).map hashLen).getD 0

/-! ## Parameter-block fields (R153, R185) -/

def pFlags (p : Bytes) : Nat := fieldLe p 0 2
def pDeterministic (p : Bytes) : Bool := bitOf (pFlags p) 0
def pPrehash (p : Bytes) : Bool := bitOf (pFlags p) 1
def pDigestIn (p : Bytes) : Bool := bitOf (pFlags p) 2
def pToSlot (p : Bytes) : Bool := bitOf (pFlags p) 3
def pIvGen (p : Bytes) : Bool := bitOf (pFlags p) 4
def pConcat (p : Bytes) : Bool := bitOf (pFlags p) 5
def pExtend (p : Bytes) : Bool := bitOf (pFlags p) 6
def pCtxLen (p : Bytes) : Nat := fieldLe p 2 1
def pMaskOrder (p : Bytes) : Nat := fieldLe p 3 1
def pAlg (p : Bytes) : Nat := fieldLe p 4 1
def pByte5 (p : Bytes) : Nat := fieldLe p 5 1
def pTagLen (p : Bytes) : Nat := fieldLe p 6 1
def pWordA (p : Bytes) : Nat := fieldLe p 8 4
def pWordB (p : Bytes) : Nat := fieldLe p 12 4
def pAttr (p : Bytes) : BitVec 64 := BitVec.ofNat 64 (fieldLe p 16 8)
def pDest (p : Bytes) : Nat := fieldLe p 24 4
def pSigLen (p : Bytes) : Nat := fieldLe p 28 4
def pOutBytes (p : Bytes) : Nat := fieldLe p 32 4
def pModBits (p : Bytes) : Nat := fieldLe p 36 2
def pSaltLen (p : Bytes) : Nat := fieldLe p 38 2
def pPubExp (p : Bytes) : Nat := fieldLe p 40 4
def pIv (p : Bytes) : Bytes := slice p 48 16

/-- n of an LMS, HSS, XMSS or XMSS^MT key of a TYPE and PARAM. -/
def statefulN (t p : Nat) : Nat :=
  match t with
  | 0x04 | 0x05 => ((lmsInfo p).map fun x => x.2.1).getD 0
  | 0x06 => ((xmssInfo p).map fun x => x.1).getD 0
  | _ => ((xmssMtInfo p).map fun x => x.1).getD 0

/-- The bytes an operation asks of its reach's DRBG through ENTROPY-WAIT; `none` when it draws none. The counts R271
leaves to the opcode (key generation of the classical schemes) are the seed lengths of their standards. A DET_FALLBACK
key draws like any other and falls back only at a Spring failure (R160, R191, R193). -/
def Op.draws (o : Op) (v : Nat) (param : Bytes) : Option Nat :=
  match o with
  | .random => some (pOutBytes param)
  | .mlKemKeygen => some 64
  | .mlKemEncaps => some 32
  | .mlDsaKeygen => some 32
  | .mlDsaSign => if pDeterministic param then none else some 32
  | .slhDsaKeygen => some (3 * (slhSizes v).1)
  | .slhDsaSign => if pDeterministic param then none else some (slhSizes v).1
  | .lmsKeygen => some (16 + ((lmsInfo (pWordA param)).map fun x => x.2.1).getD 32)
  | .xmssKeygen =>
    some (3 * (((if v = 0 then xmssInfo (pWordA param) else xmssMtInfo (pWordA param)).map fun x => x.1).getD 32))
  | .mcelieceKeygen => some 32
  | .mcelieceEncaps => some (mceDraw v)
  | .ecKeygen => some ((ecSizes v).1 + if v ≤ 2 then 8 else 0)
  | .ecSign => if v ≤ 2 && !pDeterministic param then some ((ecSizes v).1 + 8) else none
  | .rsaKeygen => some 64
  | .rsaPssSign => if pDeterministic param || pSaltLen param == 0 then none else some (pSaltLen param)
  | .rsaOaepEncrypt => some (((hashAlgVariant (pAlg param)).map hashLen).getD 0)
  | .aesGcmEncrypt => if pIvGen param then some 12 else none
  | .generate => some (symLen (attrType (pAttr param)) (attrParam (pAttr param)))
  | .hybridKeygen => some (if v = 0 then 64 + 32 else 64 + 56)
  | .hybridEncaps => some (if v = 0 then 32 + 32 else 32 + 56)
  | _ => none

/-- Hedged operations that may fall back under DET_FALLBACK (R160, R191, R193). -/
def Op.hedged : Op → Bool
  | .mlDsaSign | .slhDsaSign | .ecSign | .rsaPssSign => true
  | _ => false

end Sys2Proof.Machine
end

