-- ==== Sys2Proof/Machine/Checks.lean ====
section
/-! DEFINITION. The checks of a fetched entry that need no input data: fragment tables (R102, R103), and for checks 10
to 12 and 15, 16 the rules of each opcode's parameter block, input layout and output size (R153 to R163, R185 to R202,
R297, R300, R305). The order of the checks and what they do to the job are in Machine/Sluice.lean. -/

namespace Sys2Proof.Machine

open Sys2Proof

/-- A submission entry from its 64 bytes (R99). -/
def parseEntry (b : Bytes) : Entry :=
  { opcode := fieldLe b 0 2, ctrl := fieldLe b 2 2, cid := fieldLe b 4 2, flowId := fieldLe b 6 2,
    slot := fieldLe b 8 4 % 2 ^ 20, delay := fieldLe b 8 4 / 2 ^ 20, inLen := fieldLe b 12 4,
    paramAddr := fieldLe b 16 8, outAddr := fieldLe b 24 8, inAddr := fieldLe b 32 8, tail := slice b 40 24 }

/-! ## CTRL (R100) -/

def Entry.prio (e : Entry) : Nat := e.ctrl % 8
def Entry.compReq (e : Entry) : Bool := bitOf e.ctrl 3
def Entry.inline (e : Entry) : Bool := bitOf e.ctrl 4
def Entry.keyValid (e : Entry) : Bool := bitOf e.ctrl 5
def Entry.flow (e : Entry) : Bool := bitOf e.ctrl 6
def Entry.spillable (e : Entry) : Bool := bitOf e.ctrl 7

/-- The inline input (R101). -/
def Entry.inlineInput (e : Entry) : Bytes := (toLe 8 e.inAddr ++ e.tail).take e.inLen

/-- Check 1 of R106. -/
def check1 (e : Entry) : Bool :=
  e.ctrl < 256 && e.flowId < 4096 && (e.flow || e.flowId == 0) && (e.keyValid || e.slot == 0) &&
    !(e.inline && 32 < e.inLen) && e.paramAddr % 8 == 0 && (e.inline || allZero e.tail)

/-! ## Fragment tables -/

/-- The data entries of one table up to its LAST or LINK entry, and whether it is LAST; `none` when R103 is broken. R103 gives
an output buffer no alignment, and none is checked (DESIGN CHOICE, log entry 86). -/
def scanTable : Nat → List Frag → Option (List Frag × Bool)
  | 0, _ => none
  | _, [] => none
  | fuel + 1, f :: fs =>
    if 4 ≤ f.flags || f.flags == 3 then none
    else if bitOf f.flags 0 then some ([f], true)
    else if bitOf f.flags 1 then (if f.len == 0 && f.addr % 16 == 0 then some ([], false) else none)
    else (scanTable fuel fs).map fun r => (f :: r.1, r.2)

/-- One table holds at most 1,024 entries (R103). -/
def tableOk (t : List Frag) : Option (List Frag × Bool) := scanTable 1024 t

/-- The whole output chain: at most 256 tables, the last one ending in LAST (R103, R105). -/
def chainFrags : Nat → List (List Frag) → Option (List Frag)
  | 0, _ => none
  | _, [] => none
  | fuel + 1, t :: ts =>
    (tableOk t).bind fun r => if r.2 then some r.1 else (chainFrags fuel ts).map (r.1 ++ ·)

def outputChain (ts : List (List Frag)) : Option (List Frag) := chainFrags 256 ts

def fragSum (fs : List Frag) : Nat := (fs.map Frag.len).sum

/-! ## Check 10: the parameter block -/

/-- ATTR of a new key whose TYPE and PARAM the LX9 sets: TYPE, PARAM, ORIGIN, OWNER_REACH and STATEFUL hold 0 (R162). -/
def newAttrOk (a : BitVec 64) (t p : Nat) : Bool :=
  attrType a == 0 && attrParam a == 0 && attrOrigin a == 0 && attrOwner a == 0 && !attrStateful a &&
    attrRsvd a == 0 && attrUsage a != 0 && subMask (attrUsage a) (usageAllowed t p) &&
    (!attrDetFallback a || detFallbackAllowed t p) && (!attrReplicable a || !isStatefulType t)

/-- ATTR of a new key whose TYPE and PARAM the caller names (GENERATE, IMPORT_CLEAR, KDF results; R201, R202, R300). -/
def typedAttrOk (a : BitVec 64) : Bool :=
  attrOrigin a == 0 && attrOwner a == 0 && !attrStateful a && attrCodesOk a && attrUsage a != 0

/-- USAGE of a shared secret that goes to a slot (R168, R201). -/
def secretAttrOk (a : BitVec 64) (t p : Nat) : Bool := newAttrOk a t p

/-- The TYPE and PARAM a KeyGen gives its slot (R162, R295). -/
def keygenType (o : Op) (v : Nat) (p : Bytes) : Nat × Nat :=
  match o with
  | .mlKemKeygen => (0x01, v)
  | .mlDsaKeygen => (0x02, v)
  | .slhDsaKeygen => (0x03, v)
  | .lmsKeygen => (0x04 + v, pWordA p)
  | .xmssKeygen => (0x06 + v, pWordA p)
  | .mcelieceKeygen => (0x08, v)
  | .ecKeygen => (0x10, v)
  | .rsaKeygen => (0x11, pModBits p / 64 - 1)
  | .hybridKeygen => (0x12, v)
  | _ => (attrType (pAttr p), attrParam (pAttr p))

/-- Check 10 for the block of R153. -/
def pqParamOk (o : Op) (v : Nat) (p : Bytes) : Bool :=
  let fl := pFlags p
  let sigOp := o == .mlDsaSign || o == .slhDsaSign || o == .mlDsaVerify || o == .slhDsaVerify
  let signOp := o == .mlDsaSign || o == .slhDsaSign
  let kemOp := o == .mlKemEncaps || o == .mlKemDecaps || o == .mcelieceEncaps || o == .mcelieceDecaps
  let allowed := (if signOp then 1 else 0) + (if sigOp then 6 else 0) + (if kemOp then 8 else 0)
  let public_ := o.isVerify || o == .lmsIndexQuery || o == .xmssIndexQuery
  let t := keygenType o v p
  subMask fl allowed && (!pDigestIn p || pPrehash p) &&
  (sigOp || pCtxLen p == 0) &&
  (if public_ then pMaskOrder p == 0 else pMaskOrder p ≤ 3) &&
  (if pPrehash p then 1 ≤ pAlg p && pAlg p ≤ 8 else pAlg p == 0) &&
  (if o == .lmsKeygen && v == 1 then 1 ≤ pByte5 p && pByte5 p ≤ 8 else pByte5 p == 0) &&
  allZero (slice p 6 2) &&
  (match o with
    | .lmsKeygen =>
      match lmsInfo (pWordA p), otsInfo (pWordB p) with
      | some a, some b => a.1 == b.1 && a.2.1 == b.2.1
      | _, _ => false
    | .xmssKeygen => ((if v = 0 then xmssInfo (pWordA p) else xmssMtInfo (pWordA p)).isSome) && pWordB p == 0
    | _ => pWordA p == 0 && pWordB p == 0) &&
  (if o.isKeygen then newAttrOk (pAttr p) t.1 t.2
   else if pToSlot p then secretAttrOk (pAttr p) 0x24 3 else pAttr p == 0) &&
  (if pToSlot p then pDest p < 2 ^ 20 else pDest p == 0) &&
  (o.isVerify || pSigLen p == 0) && allZero (slice p 32 32)

/-- HASH_ALG codes an RSA, ECDSA or KDF job may give (R191, R193, R197). -/
def algFixed (c : Nat) : Bool := (hashAlgVariant c).isSome

/-- Which classic fields an operation names (R185): those it does not name must be 0. -/
structure Fields where
  flags : Nat := 0
  ctx : Bool := false
  alg : Bool := false
  meas : Bool := false
  tag : Bool := false
  lenA : Bool := false
  lenB : Bool := false
  attr : Bool := false
  sigLen : Bool := false
  outBytes : Bool := false
  modBits : Bool := false
  salt : Bool := false
  exp : Bool := false
  iv : Bool := false
  deriving DecidableEq, Repr

def classicFields (o : Op) (v : Nat) (keyValid : Bool) : Fields :=
  match o with
  | .random => { outBytes := true }
  | .ecKeygen => { attr := true }
  | .ecSign => if v ≤ 2 then { flags := 1 + 4, alg := true } else { flags := 2 + 4, ctx := true, alg := true }
  | .ecVerify =>
    if v ≤ 2 then { flags := 4, alg := true, sigLen := true }
    else { flags := 2 + 4, ctx := true, alg := true, sigLen := true }
  | .agree => { flags := 8, attr := true }
  | .rsaKeygen => { attr := true, modBits := true, exp := true }
  | .rsaPssSign => { flags := 1 + 4, alg := true, salt := true }
  | .rsaV15Sign => { flags := 4, alg := true }
  | .rsaPssVerify => { flags := 4, alg := true, salt := true, sigLen := true, modBits := !keyValid }
  | .rsaV15Verify => { flags := 4, alg := true, sigLen := true, modBits := !keyValid }
  | .rsaOaepEncrypt => { alg := true, lenA := true, modBits := !keyValid }
  | .rsaOaepDecrypt => { alg := true, lenA := true }
  | .hash =>
    if v ≤ 9 then { flags := 64, meas := true }
    else if v ≤ 0xB then { outBytes := true } else { outBytes := true, lenA := true, lenB := true }
  | .hmacVerify => { tag := true }
  | .kmacGenerate => { lenA := true, outBytes := true }
  | .kmacVerify => { lenA := true, tag := true }
  | .aesGcmEncrypt => { flags := 16, tag := true, lenA := true, iv := true }
  | .aesGcmDecrypt => { tag := true, lenA := true, iv := true }
  | .aesCtr | .aesXtsEncrypt | .aesXtsDecrypt => { iv := true }
  | .kdfCounterHmac | .hkdf =>
    { flags := 8, alg := true, lenA := true, lenB := true, attr := true, outBytes := true }
  | .kdfKmac256 => { flags := 8, lenA := true, lenB := true, attr := true, outBytes := true }
  | .hkdfExpand => { flags := 8, alg := true, lenB := true, attr := true, outBytes := true }
  | .generate | .importClear | .importWrapped | .restrict => { attr := true }
  | .hybridKeygen => { attr := true }
  | .hybridEncaps | .hybridDecaps => { flags := 8 + 32, attr := true }
  | _ => {}

def xofLike : Op → Nat → Bool
  | .random, _ => true
  | .hash, v => 0xA ≤ v
  | .kmacGenerate, _ => true
  | .kdfCounterHmac, _ | .kdfKmac256, _ | .hkdf, _ | .hkdfExpand, _ => true
  | _, _ => false

/-- TYPE and PARAM of the key a TO_SLOT result becomes (R168, R201). -/
def toSlotType (o : Op) (v : Nat) (p : Bytes) : Nat × Nat :=
  match o with
  | .agree => (0x25, (ecSizes v).2.2.2 - 1)
  | .hybridEncaps | .hybridDecaps => (0x24, if pConcat p then (hybSizes v).2.2.2 / 8 - 1 else 3)
  | .mlKemEncaps | .mlKemDecaps | .mcelieceEncaps | .mcelieceDecaps => (0x24, 3)
  | _ => (attrType (pAttr p), attrParam (pAttr p))

def isKdf : Op → Bool
  | .kdfCounterHmac | .kdfKmac256 | .hkdf | .hkdfExpand => true
  | _ => false

/-- Does ATTR.USAGE ask IMPORT_CLEAR for a public key (R300)? -/
def importsPublic (a : BitVec 64) : Bool := subMask (attrUsage a) (uVerify + uEncaps + uAttest + uCustomer)

/-- Check 10 for the block of R185, but for the parts that depend on the slot. -/
def classicParamOk (o : Op) (v : Nat) (keyValid : Bool) (reach : Nat) (p : Bytes) : Bool :=
  let f := classicFields o v keyValid
  let alg := pAlg p
  subMask (pFlags p) f.flags && pMaskOrder p ≤ 3 && allZero (slice p 7 1) && allZero (slice p 0x2C 4) &&
  (f.ctx || pCtxLen p == 0) &&
  -- HASH_ALG
  (if !f.alg then alg == 0
   else match o with
    | .ecSign | .ecVerify =>
      if v ≤ 2 then 1 ≤ alg && alg ≤ 12
      else if pPrehash p then alg == (if v = 3 then 3 else 8) else alg == 0 && !pDigestIn p
    | _ => algFixed alg) &&
  -- MEAS
  (if f.meas && pExtend p then
     (if bitOf (pByte5 p) 7 then reach == 0 && 0x88 ≤ pByte5 p && pByte5 p ≤ 0x8F else pByte5 p ≤ 31)
   else pByte5 p == 0) &&
  -- TAG_LEN
  (if !f.tag then pTagLen p == 0
   else match o with
    | .aesGcmEncrypt | .aesGcmDecrypt => 12 ≤ pTagLen p && pTagLen p ≤ 16
    | .hmacVerify => pTagLen p == 0 || (8 ≤ pTagLen p && pTagLen p ≤ hashLen v)
    | _ => pTagLen p == 0 || 8 ≤ pTagLen p) &&
  (f.lenA || pWordA p == 0) && (f.lenB || pWordB p == 0) &&
  -- ATTR and DEST_SLOT
  (if !f.attr then pAttr p == 0
   else if o.isKeygen then newAttrOk (pAttr p) (keygenType o v p).1 (keygenType o v p).2
   else match o with
    | .generate => typedAttrOk (pAttr p) && isSymmetric (attrType (pAttr p))
    | .importClear =>
      typedAttrOk (pAttr p) && !isStatefulType (attrType (pAttr p)) && attrType (pAttr p) != 0x25
    | .importWrapped => pAttr p == 0 || (attrCodesOk (pAttr p) && attrOwner (pAttr p) == 0)
    | .restrict => attrCodesOk (pAttr p)
    | _ =>
      if !pToSlot p then pAttr p == 0
      else if isKdf o then
        typedAttrOk (pAttr p) && isSymmetric (attrType (pAttr p)) &&
          pOutBytes p == symLen (attrType (pAttr p)) (attrParam (pAttr p))
      else secretAttrOk (pAttr p) (toSlotType o v p).1 (toSlotType o v p).2) &&
  (if pToSlot p then pDest p < 2 ^ 20 else pDest p == 0) &&
  (f.sigLen || pSigLen p == 0) &&
  (if f.outBytes then 1 ≤ pOutBytes p && pOutBytes p ≤ 65536 else pOutBytes p == 0) &&
  (if !f.modBits then pModBits p == 0
   else if o == .rsaKeygen then pModBits p % 1024 == 0 && 2048 ≤ pModBits p && pModBits p ≤ 16384
   else pModBits p % 64 == 0 && 1024 ≤ pModBits p && pModBits p ≤ 16384) &&
  (f.salt || pSaltLen p == 0) &&
  (if f.exp then pPubExp p == 0 || (65537 ≤ pPubExp p && pPubExp p % 2 == 1) else pPubExp p == 0) &&
  (if !f.iv then allZero (pIv p)
   else match o with
    | .aesGcmEncrypt | .aesGcmDecrypt => allZero (slice p 0x3C 4)
    | _ => true) &&
  -- HKDF output bound (R197)
  (match o with
    | .hkdf | .hkdfExpand => pOutBytes p ≤ 255 * algLen alg
    | _ => true)

/-- The modulus length in bytes an RSA job works with, when a live RSA slot or MOD_BITS gives it (R156, R192). -/
def rsaK (keyValid : Bool) (slotAttr : Option (BitVec 64)) (p : Bytes) : Option Nat :=
  if keyValid then (slotAttr.filter fun a => attrType a == 0x11).map fun a => 8 * (attrParam a + 1)
  else some (pModBits p / 8)

/-- The parts of check 10 that depend on a LIVE slot of the job's reach (R156). -/
def slotParamOk (o : Op) (keyValid : Bool) (slotAttr : Option (BitVec 64)) (p : Bytes) : Bool :=
  match o with
  | .restrict =>
    match slotAttr with
    | some a => attrNarrows a (pAttr p) && pAttr p != a
    | none => true
  | .rsaPssSign =>
    match rsaK keyValid slotAttr p with
    | some k => pSaltLen p + algLen (pAlg p) + 2 ≤ k
    | none => true
  | _ => true

/-- Full MAC tag length of a verify job (R194). -/
def macTagLen (o : Op) (v : Nat) (p : Bytes) : Nat :=
  if pTagLen p != 0 then pTagLen p
  else match o with
    | .hmacVerify => hashLen v
    | _ => if v = 0 then 32 else 64

/-- Check 11: does IN_LEN fit the input layout (R163, R190 to R202)? -/
def inLenOk (o : Op) (v : Nat) (keyValid : Bool) (slotAttr : Option (BitVec 64)) (p : Bytes) (n : Nat) : Bool :=
  let ctx := pCtxLen p
  let msg (pre : Nat) : Bool := if pDigestIn p then n == pre + algLen (pAlg p) else pre ≤ n
  let key (len : Nat) : Nat := if keyValid then 0 else len
  match o with
  | .nop | .fence | .random | .mlKemKeygen | .mlDsaKeygen | .slhDsaKeygen | .lmsKeygen | .xmssKeygen
  | .mcelieceKeygen | .ecKeygen | .rsaKeygen | .hybridKeygen | .lmsIndexQuery | .xmssIndexQuery | .generate
  | .exportWrapped | .exportPublic | .restrict | .delete => n == 0
  | .reseed => n ≤ 64
  | .attest => 8 ≤ n && n ≤ 64
  | .mlKemEncaps => n == key (mlKemSizes v).1
  | .mlKemDecaps => n == (mlKemSizes v).2.2
  | .mcelieceEncaps => n == key (mceSizes v).1
  | .mcelieceDecaps => n == (mceSizes v).2.2
  | .hybridEncaps => n == key (hybSizes v).1
  | .hybridDecaps => n == (hybSizes v).2.2.1
  | .mlDsaSign | .slhDsaSign => msg ctx
  | .mlDsaVerify => pSigLen p == (mlDsaSizes v).2.2 && msg (key (mlDsaSizes v).1 + pSigLen p + ctx)
  | .slhDsaVerify => pSigLen p == (slhSizes v).2 && msg (key (2 * (slhSizes v).1) + pSigLen p + ctx)
  | .lmsSign | .xmssSign => true
  | .lmsVerify => key (if v = 0 then 48 else 52) + pSigLen p ≤ n
  | .xmssVerify => key 52 + pSigLen p ≤ n
  | .ecSign => msg (if v ≤ 2 then 0 else ctx)
  | .ecVerify =>
    pSigLen p == (ecSizes v).2.2.1 && msg (key (ecSizes v).2.1 + pSigLen p + (if v ≤ 2 then 0 else ctx))
  | .agree => true
  | .rsaPssSign | .rsaV15Sign => msg 0
  | .rsaPssVerify | .rsaV15Verify =>
    match rsaK keyValid slotAttr p with
    | some k => pSigLen p == k && msg (key (k + 4) + k)
    | none => msg (pSigLen p)
  | .rsaOaepEncrypt =>
    match rsaK keyValid slotAttr p with
    | some k => let pre := key (k + 4) + pWordA p
                pre ≤ n && n - pre + 2 * algLen (pAlg p) + 2 ≤ k
    | none => pWordA p ≤ n
  | .rsaOaepDecrypt =>
    match rsaK keyValid slotAttr p with
    | some k => n == pWordA p + k
    | none => pWordA p ≤ n
  | .hash => if v ≤ 0xB then true else pWordA p + pWordB p ≤ n
  | .hmacGenerate => true
  | .kmacGenerate => pWordA p ≤ n
  | .hmacVerify => macTagLen o v p ≤ n
  | .kmacVerify => macTagLen o v p + pWordA p ≤ n
  | .aesGcmEncrypt => pWordA p ≤ n
  | .aesGcmDecrypt => pWordA p + pTagLen p ≤ n
  | .aesCtr => true
  | .aesXtsEncrypt | .aesXtsDecrypt => 16 ≤ n && n ≤ 16777216
  | .kdfCounterHmac | .kdfKmac256 | .hkdf => n == pWordA p + pWordB p
  | .hkdfExpand => n == pWordB p
  | .importClear =>
    let a := pAttr p
    n == (if importsPublic a && !isSymmetric (attrType a) then pubLen (attrType a) (attrParam a)
          else clearLen (attrType a) (attrParam a))
  | .importWrapped => true
  | .ownerOpcode => true

/-! ## Blobs (R302, R304, R305) -/

def blobMagic : Bytes := [0x4C, 0x58, 0x4B, 0x42]

/-- R304 items 1 and 2, and R305's reserved fields of version 1. -/
def blobHeadOk (b : Bytes) (attr : BitVec 64) : Bool :=
  let w := BitVec.ofNat 64 (fieldLe b 8 8)
  let v := fieldLe b 4 2
  b.take 4 == blobMagic && (v == 2 || v == 1) && fieldLe b 6 2 == 64 && fieldLe b 0x16 2 == 0 && attrCodesOk w &&
    (v == 2 || (!attrDetFallback w && !attrReplicable w && fieldLe b 0x14 2 == 0)) &&
    (attr == 0 || (attrOwner attr == 0 &&
      attrNarrows (w &&& ~~~(BitVec.ofNat 64 (63 * 2 ^ 40))) attr))

/-- The word of an imported slot: the blob's, or the narrowed one, owned by the importing reach. -/
def importWord (b : Bytes) (attr : BitVec 64) (reach : Nat) : BitVec 64 :=
  let w := if attr = 0 then BitVec.ofNat 64 (fieldLe b 8 8) else attr
  (w &&& ~~~(BitVec.ofNat 64 (63 * 2 ^ 40))) ||| BitVec.ofNat 64 (reach * 2 ^ 40)

/-- Does a blob hold a public key alone: its word has only public uses and its material that encoding's length (R300;
DEDUCED, log entry 95)? -/
def blobPublic (w : BitVec 64) (n : Nat) : Bool :=
  importsPublic w && pubLen (attrType w) (attrParam w) != 0 && n == pubLen (attrType w) (attrParam w)

/-- R304 item 3. -/
def blobLenOk (b : Bytes) (inLen : Nat) : Bool :=
  let w := BitVec.ofNat 64 (fieldLe b 8 8)
  let n := fieldLe b 0x10 4
  n + 80 == inLen && (n == clearLen (attrType w) (attrParam w) || blobPublic w n)

/-- The blob holds a public key alone. -/
def blobPubOnly (b : Bytes) : Bool := blobPublic (BitVec.ofNat 64 (fieldLe b 8 8)) (fieldLe b 0x10 4)

/-- A version 1 blob (R305). -/
def blobV1 (b : Bytes) : Bool := fieldLe b 4 2 == 1

/-! ## Checks 15 and 16 -/

/-- Check 15 beyond TYPE, PARAM and USAGE: a secret KDF result to the host (R201), one that a NEVER_EXPORTABLE key computes
(R299; DEDUCED, log entry 123), exports (R202, R299), LOCKED (R298). -/
def check15Extra (o : Op) (a : BitVec 64) (p : Bytes) : Bool :=
  match o with
  | .kdfCounterHmac | .kdfKmac256 | .hkdf | .hkdfExpand => pToSlot p || (attrExportable a && !attrNeverExport a)
  | .mlKemDecaps | .mcelieceDecaps | .hybridDecaps | .agree => pToSlot p || !attrNeverExport a
  | .exportWrapped => attrExportable a
  | .exportPublic => 0 < pubLen (attrType a) (attrParam a)
  | .restrict | .delete => !attrLocked a
  | _ => true

/-- Output size of a stateful signature for the key's TYPE, PARAM and clear encoding (R175, R180): HSS takes LEVELS
from the key, LM-OTS parameters from its typecode. -/
def statefulSigLen (t p : Nat) (mat : Bytes) : Nat :=
  match t with
  | 0x04 | 0x05 =>
    match lmsInfo p, otsInfo (beNat (slice mat 5 4)) with
    | some l, some o =>
      let n := l.2.1
      let S := (lmsSizes n l.2.2 o.2.2).1
      let P := (lmsSizes n l.2.2 o.2.2).2
      if t = 0x04 then S else 4 + (fieldLe mat 0 1 - 1) * (S + P) + S
    | _, _ => 0
  | 0x06 => ((xmssInfo p).map fun x => xmssSigLen false x.1 x.2.1 x.2.2).getD 0
  | _ => ((xmssMtInfo p).map fun x => xmssSigLen true x.1 x.2.1 x.2.2).getD 0

/-- The output size check 16 asks for (R105, R163, R189 to R202, R305). `attestLen` is the exact length of an ATTEST
statement. -/
def outSize (o : Op) (v : Nat) (keyValid : Bool) (slot : Slot) (p : Bytes) (inLen attestLen : Nat) : Nat :=
  let a := slot.attr
  let k := (rsaK keyValid (some a) p).getD 0
  let secret (n : Nat) : Nat := if pToSlot p then 0 else n
  match o with
  | .nop | .fence | .reseed | .generate | .importClear | .importWrapped | .restrict | .delete => 0
  | .mlDsaVerify | .slhDsaVerify | .lmsVerify | .xmssVerify | .ecVerify | .rsaPssVerify | .rsaV15Verify
  | .hmacVerify | .kmacVerify => 0
  | .random => pOutBytes p
  | .attest => attestLen
  | .mlKemKeygen | .mlDsaKeygen | .slhDsaKeygen | .lmsKeygen | .xmssKeygen | .mcelieceKeygen | .ecKeygen
  | .hybridKeygen | .rsaKeygen => pubLen (keygenType o v p).1 (keygenType o v p).2
  | .mlKemEncaps => (mlKemSizes v).2.2 + secret 32
  | .mlKemDecaps => secret 32
  | .mcelieceEncaps => (mceSizes v).2.2 + secret 32
  | .mcelieceDecaps => secret 32
  | .hybridEncaps => (hybSizes v).2.2.1 + secret (if pConcat p then (hybSizes v).2.2.2 else 32)
  | .hybridDecaps => secret (if pConcat p then (hybSizes v).2.2.2 else 32)
  | .mlDsaSign => (mlDsaSizes v).2.2
  | .slhDsaSign => (slhSizes v).2
  | .lmsSign | .xmssSign => statefulSigLen (attrType a) (attrParam a) slot.mat
  | .lmsIndexQuery | .xmssIndexQuery => 24
  | .ecSign => (ecSizes v).2.2.1
  | .agree => secret (ecSizes v).2.2.2
  | .rsaPssSign | .rsaV15Sign | .rsaOaepEncrypt => k
  | .rsaOaepDecrypt => k - 2 * algLen (pAlg p) - 2
  | .hash => if v ≤ 9 then hashLen v else pOutBytes p
  | .hmacGenerate => hashLen v
  | .kmacGenerate => pOutBytes p
  | .aesGcmEncrypt => (if pIvGen p then 12 else 0) + (inLen - pWordA p) + pTagLen p
  | .aesGcmDecrypt => inLen - pWordA p - pTagLen p
  | .aesCtr | .aesXtsEncrypt | .aesXtsDecrypt => inLen
  | .kdfCounterHmac | .kdfKmac256 | .hkdf | .hkdfExpand => secret (pOutBytes p)
  | .exportWrapped => (if slot.mat.isEmpty then slot.pub.length else slot.mat.length) + 80
  | .exportPublic => pubLen (attrType a) (attrParam a)
  | .ownerOpcode => 0

end Sys2Proof.Machine
end

