-- ==== Sys2Proof/Machine/HbmCode.lean ====
section
/-! DEFINITION. What the HBM stack holds of a line (R357 to R360): the RS(36,32) codeword over GF(2^16) with its place on the
pins, XTS-AES-256 under the region's key, and the line MAC. -/

namespace Sys2Proof.Machine

open Sys2Proof

/-! ## The line code (R357, R358) -/

/-- Symbol `j` of a burst of 32 data bytes: what pins DQ[4j+3:4j] carry over the four beats. Beat `b` carries bytes 8b to
8b + 7, pin 0 the lowest bit, and the first beat fills a symbol's lowest bits (DESIGN CHOICE, log entry 97). -/
def burstSymbol (burst : Bytes) (j : Nat) : Nat :=
  ((List.range 4).map fun b => fieldLe burst (8 * b) 8 / 2 ^ (4 * j) % 16 * 2 ^ (4 * b)).sum

/-- The 32 data symbols of a line: burst 0 carries symbols 0 to 15, burst 1 symbols 16 to 31. -/
def dataSymbols (line : Bytes) : List Nat :=
  (List.range 32).map fun i => burstSymbol (slice line (32 * (i / 16)) 32) (i % 16)

/-- Product in GF(2^16), bit by bit of `b`. -/
def gf16Go : Nat → Nat → Nat → Nat → Nat
  | 0, _, _, z => z
  | n + 1, a, b, z =>
    gf16Go n (if a * 2 < 65536 then a * 2 else (a * 2) ^^^ (65536 + Config.codePoly.toNat)) (b / 2)
      (if b % 2 = 1 then z ^^^ a else z)

def gf16Mul (a b : Nat) : Nat := gf16Go 16 a b 0

def gf16Pow (a : Nat) : Nat → Nat
  | 0 => 1
  | n + 1 => gf16Mul a (gf16Pow a n)

/-- One more root: the polynomial, highest coefficient first, times x + root. -/
def polyTimes (root : Nat) (g : List Nat) : List Nat := List.zipWith (· ^^^ ·) (g ++ [0]) (0 :: g.map (gf16Mul root))

/-- The generator polynomial's four lower coefficients: roots are four successive powers of x. -/
def codeGen : List Nat :=
  ((List.range 4).foldl (fun g i => polyTimes (gf16Pow 2 (Config.codeRoot + i)) g) [1]).drop 1

/-- The remainder after one more data symbol. -/
def checkStep (r : List Nat) (d : Nat) : List Nat :=
  let f := d ^^^ r.headD 0
  List.zipWith (· ^^^ ·) (r.drop 1 ++ [0]) (codeGen.map (gf16Mul f))

/-- The four check symbols of a line. -/
def checkSymbols (ds : List Nat) : List Nat := ds.foldl checkStep [0, 0, 0, 0]

/-- The codeword of a line: 32 data symbols, then four check symbols. -/
def codeword (line : Bytes) : List Nat := dataSymbols line ++ checkSymbols (dataSymbols line)

/-- Place in the codeword of symbol `j` of a burst: symbols 16 and 17 are check symbols, two in each burst. -/
def codeIndex (burst j : Nat) : Nat := if j < 16 then 16 * burst + j else 32 + 2 * burst + (j - 16)

/-- Bits by which symbol `i` of the codeword differs from what was written. -/
def flipsAt (e : List BadSymbol) (i : Nat) : Nat :=
  (e.filter fun x => x.burst < 2 && x.sym < 18 && codeIndex x.burst x.sym == i).foldl (fun a x => a ^^^ x.flips % 65536) 0

/-- Symbols in error. -/
def badSymbols (e : List BadSymbol) : Nat := ((List.range 36).filter fun i => flipsAt e i != 0).length

/-- What the decoder makes of a stored line. -/
inductive Decoded where
  | clean
  | corrected
  | detected
  | wrong (line : Bytes)
  deriving DecidableEq, Repr

/-- Any error in two symbols is corrected; an error in more is detected or miscorrected (R358): which, and what a
miscorrected line holds, is free (log entry 97). -/
def decodeLine (line : Bytes) (e : List BadSymbol) : Decoded :=
  let n := badSymbols e
  if n = 0 then .clean
  else if n ≤ 2 then .corrected
  else
    match Config.beyondCode (codeword line) ((List.range 36).map (flipsAt e)) with
    | some v => .wrong (fit 64 v)
    | none => .detected

/-- The line as the decoder delivers it; none when it detects an error. -/
def Decoded.line (d : Decoded) (stored : Bytes) : Option Bytes :=
  match d with
  | .clean | .corrected => some stored
  | .wrong v => some v
  | .detected => none

/-! ## Encryption and MACs (R359, R360) -/

/-- The tweak: the logical address as 16 bytes. -/
def lineTweak (addr : Nat) : Bytes := toLe 16 addr

def cipherLine (key : Bytes) (addr : Nat) (plain : Bytes) : Bytes := fit 64 (xtsEnc key (lineTweak addr) (fit 64 plain))

def plainLine (key : Bytes) (addr : Nat) (cipher : Bytes) : Bytes := fit 64 (xtsDec key (lineTweak addr) cipher)

/-- REGION_TAG. -/
def regionTag (kind reach creation : Nat) : Bytes := toLe 1 kind ++ toLe 1 reach ++ toLe 2 creation ++ zeros 4

def lineMac (kMac : Bytes) (addr : Nat) (tag cipher : Bytes) : Bytes :=
  (aesCmac kMac (toLe 8 addr ++ tag ++ cipher)).take 8

/-! ## Keys (R359) -/

/-- The number of a place: its kind and its reach, 64 for what no reach owns. -/
def PlaceKind.code : PlaceKind → Nat
  | .reserve => 0 | .descriptors => 1 | .vault => 2 | .priv => 3 | .tree => 4 | .matrix => 5 | .mce => 6

def placeId (k : PlaceKind) (reach : Nat) : Nat := k.code * 128 + reach

/-- KIND of a region tag. -/
def PlaceKind.tag : PlaceKind → Nat
  | .reserve => 0 | .descriptors | .vault => 1 | .priv => 2 | .tree => 3 | .matrix => 4 | .mce => 5

/-- The key registers hold the vault key once, for every vault place. -/
def PlaceKind.keyId (k : PlaceKind) (holder : Nat) : Nat :=
  match k with
  | .descriptors | .vault => placeId .vault 64
  | k => placeId k holder

def lineKey (c l : Nat) : Nat := c * 2 ^ 24 + l

end Sys2Proof.Machine
end

