-- ==== Sys2Proof/Machine/HbmLines.lean ====
section
/-! DEFINITION. Where HBM holds what (R336, R363, R364), the fresh-page map (R362), and lines as they are written and read
without an error (R359 to R361). -/

namespace Sys2Proof.Machine

open Sys2Proof

/-! ## Placement -/

def linesPerMib : Nat := 16384

/-- Lines of a channel, data and MAC region (R355). -/
def State.chanLines (s : State) : Nat := (if s.fuse.smallStack then 512 else 1024) * linesPerMib
def State.usableLines (s : State) : Nat := (if s.fuse.smallStack then 448 else 896) * linesPerMib

def Hbm.chanOn (h : Hbm) (c : Nat) : Bool := c < 16 && h.mappedOut != some c

/-- The channels no reach has dedicated (R364). -/
def State.sharedChans (s : State) : List Nat :=
  (List.range 16).filter fun c => s.hbm.chanOn c && !(s.cfg.reaches.any fun r => bitOf r.pchMask c)

def Hbm.chansOf (h : Hbm) (mask : Nat) : List Nat := (bitList mask 16).filter h.chanOn

/-- A place still without its base. -/
def unplaced (k : PlaceKind) (reach : Nat) (chans : List Nat) (mib : Nat) : List Place :=
  if mib = 0 then [] else [{ kind := k, reach := reach, chans := chans, base := 0, lines := mib * linesPerMib }]

/-- The four regions of a reach, in their order. -/
def ReachRec.placeRegions (x : ReachRec) (chans : List Nat) : List Place :=
  unplaced .priv x.id chans x.privMib ++ unplaced .tree x.id chans x.treeMib ++ unplaced .matrix x.id chans x.matrixMib ++
    unplaced .mce x.id chans x.mceMib

/-- What a configuration places, in the order of R363: the device reserve, the vault, the reach regions; a reach with
dedicated channels has its own reserve, descriptors, vault quota and regions there (R364). -/
def State.wantedPlaces (s : State) : List Place :=
  let shared := s.sharedChans
  let rs := s.cfg.reaches.mergeSort fun a b => a.id ≤ b.id
  let own := rs.filter fun x => x.pchMask != 0
  let quota (x : ReachRec) : Nat := vaultQuota s.cfg.device.vaultMib x.keyCount
  let chans (x : ReachRec) : List Nat := if x.pchMask = 0 then shared else s.hbm.chansOf x.pchMask
  let taken := (own.map fun x => 16 * (chans x).length).sum
  unplaced .reserve 64 shared (256 - taken) ++
    (own.flatMap fun x => unplaced .reserve x.id (chans x) (16 * (chans x).length)) ++
    unplaced .descriptors 64 shared 32 ++
    (own.flatMap fun x => unplaced .descriptors x.id (chans x) (ceilDiv (32 * x.keyCount) 1048576)) ++
    unplaced .vault 64 shared (s.cfg.device.vaultMib - 32 - (own.map quota).sum) ++
    (own.flatMap fun x => unplaced .vault x.id (chans x) (quota x)) ++
    rs.flatMap fun x => x.placeRegions (chans x)

/-- Lines that a place takes on each of its channels. -/
def Place.depth (p : Place) : Nat := ceilDiv p.lines p.chans.length

def Place.clashes (p q : Place) : Bool :=
  p.chans.any (q.chans.contains ·) && p.base < q.base + q.depth && q.base < p.base + p.depth

/-- Puts a place at the lowest free line of its channels. -/
def putPlace (ps : List Place) (p : Place) : List Place :=
  let bases := 0 :: ps.map fun q => q.base + q.depth
  let free := bases.filter fun b => !(ps.any fun q => ({ p with base := b } : Place).clashes q)
  ps ++ [{ p with base := (free.min?).getD 0 }]

def Place.same (p q : Place) : Bool := p.kind == q.kind && p.reach == q.reach && p.chans == q.chans && p.lines == q.lines

/-- The number of a place in the fresh-page map. -/
def Place.id (p : Place) : Nat := placeId p.kind p.reach

def pageKey (p : Place) (page : Nat) : Nat := p.id * 2 ^ 22 + page

/-- Lays out HBM: anew at a full commit; at a partial one, new and resized places go into free capacity and every other
place stays (R363). The pages of a new place are fresh (R362). -/
def State.layHbm (s : State) (part : Bool) (created : List Nat) : State :=
  let want := s.wantedPlaces
  let keep := if part then s.hbm.layout.filter fun p => want.any p.same && !created.contains p.reach else []
  let fresh := want.filter fun p => !(keep.any p.same)
  let ids := fresh.map Place.id
  { s with hbm := { s.hbm with
    layout := fresh.foldl putPlace keep
    written := s.hbm.written.filter fun (x : Nat × Nat) => !ids.contains (x.1 / 2 ^ 22) } }

/-! ## Lines -/

/-- Where a line lies: its place and its number there. -/
def State.placeOf (s : State) (c l : Nat) : Option (Place × Nat) :=
  s.hbm.layout.findSome? fun p =>
    match p.chans.findIdx? (· == c) with
    | none => none
    | some k =>
      let n := (l - p.base) * p.chans.length + k
      if p.base ≤ l ∧ n < p.lines then some (p, n) else none

/-- The channel and line of a place's line. -/
def Place.at (p : Place) (n : Nat) : Nat :=
  lineKey (p.chans.getD (n % p.chans.length) 0) (p.base + n / p.chans.length)

/-- The generation of a place: its key's (R359, R428), which a reach reset redraws for regions alone. -/
def State.placeGen (s : State) (p : Place) : Nat :=
  if 64 ≤ p.reach then 0 else if p.kind = .reserve then (s.reach p.reach).creations else (s.reach p.reach).regionGen

/-- Is the page fresh (R362)? -/
def State.fresh (s : State) (p : Place) (n : Nat) : Bool :=
  tget 0 s.hbm.written (pageKey p (n / 64)) != s.placeGen p + 1

/-! ### Keys, MACs and what the stack holds (R359 to R361) -/

/-- A program's image as the stack holds it: its code and then its data, each in whole lines (R336). -/
def ProgRec.image (p : ProgRec) : Bytes :=
  p.code ++ zeros ((64 - p.code.length % 64) % 64) ++ p.data ++ zeros ((64 - p.data.length % 64) % 64)

def ProgRec.lines (p : ProgRec) : Nat := p.image.length / 64

/-- The reserve that holds lines for a reach: its own on dedicated channels, else the shared one (R359, R364). -/
def State.reserveOf (s : State) (r : Nat) : Nat := if (s.cfg.reach r).any fun x => x.pchMask != 0 then r else 64

/-- The program whose image a reserve line holds, and the line's number there. -/
def State.progAt (s : State) (p : Place) (n : Nat) : Option (ProgRec × Nat) :=
  (s.cfg.progs.find? fun g =>
    p.kind == .reserve && s.reserveOf g.reach == p.reach && Config.progLine g.id ≤ n && n < Config.progLine g.id + g.lines).map
      fun g => (g, n - Config.progLine g.id)

/-- The reach that a line is held for, 64 for the device (R359). -/
def State.holder (s : State) (p : Place) (n : Nat) : Nat :=
  if p.kind = .reserve ∧ p.reach = 64 then
    match s.progAt p n with
    | some (g, _) => g.reach
    | none => Config.reserveHolder n
  else p.reach

/-- The line's key, when its register holds one. -/
def State.keyOfLine (s : State) (p : Place) (n : Nat) : Option Bytes :=
  (s.hbm.keys.find? fun x => x.1 == p.kind.keyId (s.holder p n)).map Prod.snd

/-- The line's REGION_TAG. -/
def State.tagOfLine (s : State) (p : Place) (n : Nat) : Bytes :=
  let h := if p.kind = .vault ∨ p.kind = .descriptors then 64 else s.holder p n
  if h < 64 then regionTag p.kind.tag h (s.reach h).creations else regionTag p.kind.tag 0xFF 0

/-- Where the stack holds the MAC of a line, in its MAC line. -/
def State.macAddr (s : State) (c l : Nat) : Nat := 64 * lineKey c (s.usableLines + l / 8) + 8 * (l % 8)

/-- A line's stored ciphertext. -/
def Hbm.line (h : Hbm) (c l : Nat) : Bytes := memRead h.mem (64 * lineKey c l) 64

/-- The MAC line that covers a line. -/
def State.macLineOf (s : State) (c l : Nat) : Bytes := memRead s.hbm.mem (64 * lineKey c (s.usableLines + l / 8)) 64

/-- A whole line is written: encrypted, its MAC put into its MAC line, and valid again (R361, R366). -/
def State.setLine (s : State) (c l : Nat) (p : Place) (n : Nat) (bs : Bytes) : State :=
  match s.keyOfLine p n with
  | none => s
  | some key =>
    let x := cipherLine key (lineKey c l) bs
    let mac := lineMac s.hbm.kMac (lineKey c l) (s.tagOfLine p n) x
    { s with hbm := { s.hbm with
      mem := memWrite (memWrite s.hbm.mem (64 * lineKey c l) x) (s.macAddr c l) mac
      poisoned := s.hbm.poisoned.filter fun (k : Nat) => k != lineKey c l } }

/-- The same by a place's line number. -/
def State.setPlaceLine (s : State) (p : Place) (n : Nat) (bs : Bytes) : State :=
  s.setLine (p.chans.getD (n % p.chans.length) 0) (p.base + n / p.chans.length) p n bs

/-- The bytes of a place from an offset on, as a reader gets them (R362), and whether a line of them is poisoned (R366). -/
def State.placeLine (s : State) (p : Place) (n : Nat) : Bytes :=
  if s.fresh p n then zeros 64
  else
    match s.keyOfLine p n with
    | some key => plainLine key (p.at n) (memRead s.hbm.mem (64 * p.at n) 64)
    | none => zeros 64

def Place.linesOf (off n : Nat) : List Nat := (List.range (ceilDiv (off % 64 + n) 64)).map fun i => off / 64 + i

def State.placeBytes (s : State) (p : Place) (off n : Nat) : Bytes :=
  slice ((Place.linesOf off n).flatMap (s.placeLine p)) (off % 64) n

def State.placePoisoned (s : State) (p : Place) (off n : Nat) : Bool :=
  (Place.linesOf off n).any fun l => !s.fresh p l && s.hbm.poisoned.contains (p.at l)

/-- The first write to a page writes zeros, under the page's key, to every line of it (R362). -/
def State.openPage (s : State) (p : Place) (n : Nat) : State :=
  if !s.fresh p n then s
  else
    let first := n / 64 * 64
    let s := (List.range (min 64 (p.lines - first))).foldl (fun s i => s.setPlaceLine p (first + i) []) s
    { s with hbm := { s.hbm with written := tset s.hbm.written (pageKey p (n / 64)) (s.placeGen p + 1) } }

/-- A whole line of a place is written. -/
def State.putLine (s : State) (p : Place) (n : Nat) (bs : Bytes) : State := (s.openPage p n).setPlaceLine p n bs

/-- Whole lines of a place from one on, those that it has. -/
def State.putBytes (s : State) (p : Place) (first : Nat) (bs : Bytes) : State :=
  ((List.range (ceilDiv bs.length 64)).filter fun i => first + i < p.lines).foldl
    (fun s i => s.putLine p (first + i) (slice bs (64 * i) 64)) s

/-- The place of a kind that serves a reach: on its dedicated channels, or else the shared one (R89, R364). -/
def State.storePlace (s : State) (k : PlaceKind) (r : Nat) : Option Place :=
  s.hbm.layout.find? fun p => p.kind == k && p.reach == s.reserveOf r

/-- Every program's image goes into the reserve at a full commit (R336). -/
def State.placeProgram (s : State) (g : ProgRec) : State :=
  match s.storePlace .reserve g.reach with
  | none => s
  | some p => s.putBytes p (Config.progLine g.id) g.image

def State.placePrograms (s : State) : State := s.cfg.progs.foldl State.placeProgram s

/-- The lines of a program's image that are poisoned (R367). -/
def State.progPoison (s : State) (g : ProgRec) : List Nat :=
  match s.storePlace .reserve g.reach with
  | none => []
  | some p => if s.hbm.poisoned.isEmpty then []
      else (List.range g.lines).filter fun i => s.hbm.poisoned.contains (p.at (Config.progLine g.id + i))

end Sys2Proof.Machine
end

