-- ==== Sys2Proof/Machine/Microword.lean ====
section
/-! DEFINITION. The microword (R319 to R321), its legality by engine type, and the checks of a customer image (R327,
R330, R331). -/

namespace Sys2Proof.Machine

open Sys2Proof

abbrev UWord := BitVec 192

/-- Bits [hi:lo] of a microword (R319). -/
def uf (w : UWord) (hi lo : Nat) : Nat := bitsOf w.toNat hi lo

/-- SEQ codes (R320). -/
inductive Seq where
  | next | jump | call | ret | rept | loop | setcnt | brFlag | brReveal | fin | bad
  deriving DecidableEq, Repr

def Seq.ofCode : Nat → Seq
  | 0 => .next | 1 => .jump | 2 => .call | 3 => .ret | 4 => .rept | 5 => .loop | 6 => .setcnt | 7 => .brFlag
  | 8 => .brReveal | 9 => .fin | _ => .bad

def uSeq (w : UWord) : Seq := Seq.ofCode (uf w 191 188)
def uCommit (w : UWord) : Bool := bitOf w.toNat 187
def uYield (w : UWord) : Bool := bitOf w.toNat 186
def uRnd (w : UWord) : Bool := bitOf w.toNat 185
def uCnt (w : UWord) : Nat := uf w 184 182
def uFlag (w : UWord) : Nat := uf w 181 176
def uTarget (w : UWord) : Nat := uf w 175 160
def uWait (w : UWord) : Nat := uf w 159 156
def uImm (w : UWord) : Nat := uf w 63 0

/-! ## PT, HT, BNU and CU fields (R321) -/

def ptBf (w : UWord) : Nat := uf w 155 152
def ptShare (w : UWord) : Nat := uf w 151 150
def ptSamp (w : UWord) : Nat := uf w 99 96
def ptPack (w : UWord) : Nat := uf w 95 90
def ptConv (w : UWord) : Nat := uf w 89 86
def ptCmp (w : UWord) : Nat := uf w 85 82
def ptXbar (w : UWord) : Nat := uf w 81 78
def ptShuf (w : UWord) : Nat := uf w 77 72
def ptMove (w : UWord) : Nat := uf w 71 64
def htUnit (w : UWord) : Nat := uf w 155 153
def htFunc (w : UWord) : Nat := uf w 152 149
def htOp (w : UWord) : Nat := uf w 148 145
def htDest (w : UWord) : Nat := uf w 111 108
def bnuOp (w : UWord) : Nat := uf w 155 151
def bnuCurve (w : UWord) : Nat := uf w 79 72
def cuMode (w : UWord) : Nat := uf w 154 151
def cuOp (w : UWord) : Nat := uf w 150 147
def cuKeySrc (w : UWord) : Nat := uf w 115 112

/-- Every field of the word has a code the tables of R319 to R321 list, and RSVD bits are 0; a BNU operand is 1 to 256 words
(R252). -/
def wordLegal (eng : Nat) (w : UWord) : Bool :=
  decide (uSeq w ≠ .bad) && uWait w ≤ 4 && !((uSeq w == .rept) && uTarget w == 0) &&
  (!uYield w || eng == 1 || eng == 2) &&
  (match eng with
    | 0 => ptBf w ≤ 8 && ptSamp w ≤ 10 && ptPack w ≤ 10 && ptConv w ≤ 6 && ptCmp w ≤ 4 && ptXbar w ≤ 2 &&
        ptMove w ≤ 6
    | 1 => htUnit w ≤ 4 && htFunc w ≤ 14 && htOp w ≤ 9 && htDest w ≤ 5 && uf w 107 96 == 0
    | 2 => bnuOp w ≤ 13 && uf w 148 140 ≤ 255 && (bnuCurve w ≤ 6 || bnuCurve w == 0xFF) && uf w 71 64 == 0
    | _ => cuMode w ≤ 7 && cuOp w ≤ 6 && cuKeySrc w ≤ 2 && uf w 111 96 == 0)

/-- Does TARGET of the word hold an address (R320)? -/
def targetIsAddr (w : UWord) : Bool :=
  match uSeq w with
  | .jump | .call | .loop | .brFlag | .brReveal => true
  | _ => false

/-- What a customer image may not name (R331). -/
def custForbidden (eng : Nat) (w : UWord) : Bool :=
  match eng with
  | 0 => ptMove w == 6
  | 1 => htDest w == 4 || htDest w == 5
  | 2 => false
  | _ => cuKeySrc w == 2 || cuMode w == 7

/-- The post-commit section that starts at word `i` of the image: the words up to the first END, at most 64 of them
(R327); `none` when no END follows in time. -/
def postSection (ws : List UWord) (i : Nat) : Option (List UWord) :=
  let rest := (ws.drop i).take 64
  match rest.findIdx? fun w => uSeq w == .fin with
  | none => none
  | some k => some (rest.take (k + 1))

/-- R327 on a post-commit section of `sec` starting at control-store address `base`. -/
def postOk (base : Nat) (sec : List UWord) : Bool :=
  sec.all fun w =>
    !uCommit w && !uRnd w && !uYield w && uSeq w != .call && uSeq w != .brReveal &&
    (match uSeq w with
      | .jump | .loop | .brFlag => base ≤ uTarget w && uTarget w < base + sec.length
      | _ => true)

/-- The image header (R330). -/
def imageHeaderOk (eng : Nat) (w : UWord) : Bool :=
  let span := uf w 175 160
  uf w 191 176 == 0x4C43 && uf w 127 0 == 0 &&
    (if eng = 2 then 1 ≤ span && span ≤ 32768 else span == 0)

/-- CYCLE_LIMIT of an image (R330). -/
def imageCycles (w : UWord) : Nat := if uf w 159 128 = 0 then 16777216 else uf w 159 128

/-- R331 on a whole image. -/
def imageOk (eng : Nat) (ws : List UWord) : Bool :=
  match ws with
  | [] => false
  | h :: _ =>
    imageHeaderOk eng h &&
    (List.range ws.length).all fun i =>
      i == 0 ||
      (match ws[i]? with
        | none => true
        | some w =>
          wordLegal eng w && !uYield w && !custForbidden eng w &&
          (!uCommit w ||
            (match postSection ws (i + 1) with
              | none => false
              | some sec => postOk (customerBase + i + 1) sec)) &&
          (!targetIsAddr w || uTarget w < patchEnd ||
            (customerBase < uTarget w && uTarget w < customerBase + ws.length)))

end Sys2Proof.Machine
end

