-- ==== Sys2Proof/Machine/JobOps.lean ====
section
/-! DEFINITION. What the commands on jobs share: which tiles a reach may use (R47, R48, R62, R255), templates (R124,
R127), the readiness and the end of nodes (R126, R141), the end of a job with its one status (R114, R116, R122),
and what an idle device still owes a queue (R79, R107 to R112). -/

namespace Sys2Proof.Machine

open Sys2Proof

/-! ## Job and flow -/

/-- The entry's flow in its queue (R111): explicit and its number, or the default flow. -/
def Entry.flowKey (e : Entry) : Bool × Nat := (e.flow, if e.flow then e.flowId % 4096 else 0)

def Job.sameFlow (a b : Job) : Bool := a.fn == b.fn && a.q == b.q && a.entry.flowKey == b.entry.flowKey

def Job.key (j : Job) : Nat := qkey j.fn j.q

/-- The job's operation and variant (R106 check 2). -/
def State.opOfJob (s : State) (j : Job) : Option (Op × Nat) := jobOp s.cfg.graphs j.reach j.entry.opcode

/-- Retired, whether or not its completion has been written. -/
def Job.retired (j : Job) : Bool := j.st == .retired || j.st == .covered

def Job.ended (j : Job) : Bool := j.st == .ended || j.retired

/-- The attribute word of the job's key slot when it is LIVE. -/
def State.jobSlot (s : State) (j : Job) : Option Slot :=
  let x := s.slot j.entry.slot
  if j.entry.keyValid && x.st == .live then some x else none

/-- The attribute word of the job's key: that of the copy it loaded, or else of its slot while that is LIVE. -/
def State.keyWord (s : State) (j : Job) : Option (BitVec 64) :=
  match j.keyCopy with
  | some x => some x.attr
  | none => (s.jobSlot j).map Slot.attr

/-- The function that a built-in template's HT nodes hash with, as a FUNC code: it decides between a lane and the core (R230,
R231, log entry 93). -/
def hashFunc (alg : Nat) : Nat := (hashAlgVariant alg).getD 11

def Op.htFunc (o : Op) (v : Nat) (param : Bytes) (keyParam : Nat) : Nat :=
  let p := if o.creates then pWordA param else keyParam
  match o with
  | .hash | .hmacGenerate | .hmacVerify => v
  | .kmacGenerate | .kmacVerify => 12 + v
  | .kdfKmac256 => 13
  | .kdfCounterHmac | .hkdf | .hkdfExpand | .rsaPssSign | .rsaV15Sign | .rsaPssVerify | .rsaV15Verify | .rsaOaepEncrypt
  | .rsaOaepDecrypt => hashFunc (pAlg param)
  | .ecSign | .ecVerify => if v = 3 then 3 else if v = 4 then 11 else hashFunc (pAlg param)
  | .slhDsaKeygen | .slhDsaSign | .slhDsaVerify => if v < 6 then 1 else 11
  | .lmsKeygen | .lmsSign | .lmsVerify => if ((lmsInfo p).map Prod.fst).getD 2 < 2 then 1 else 11
  | .xmssKeygen | .xmssSign | .xmssVerify => if p < (if v = 0 then 0x10 else 0x29) then 1 else 11
  | _ => 11

def State.htFuncOf (s : State) (j : Job) : Nat :=
  match s.opOfJob j with
  | some (o, v) =>
    o.htFunc v j.param (((s.keyWord j).map attrParam).getD (pWordA j.param))
  | none => 11

/-! ## Tiles of a reach -/

/-- The grants that cover a tile. -/
def Setup.grants (c : Setup) (cls : NodeClass) (i : Nat) : List TileRec := c.tiles.filter fun t => bitOf (t.map cls) i

/-- May the reach use the tile? Customer and owner mode never run on FRAMED tiles (R332, R335). -/
def Setup.mayUse (c : Setup) (cls : NodeClass) (i r : Nat) (customer : Bool) : Bool :=
  (c.grants cls i).any fun t => t.reach == r && !(customer && t.mode == .framed)

def Rst.disabled (r : Rst) : NodeClass → Nat
  | .pt => r.disPt | .ptChain => r.disPt | .ht => r.disHt | .bnu => r.disBnu | .cu => r.disCu | .cc => r.disCc | _ => 0

/-- Is a tile fitted, enabled and in a basin that is not DISABLED? -/
def State.tileOn (s : State) (cls : NodeClass) (i : Nat) : Bool :=
  i < classCount cls && !bitOf (s.rst.disabled cls) i && (s.tile (tkey cls i)).st != .disabled &&
    (s.tile (tkey cls i)).st != .failed && s.basin (basinOf cls i) != .disabled

/-- A chain whose basin is in service and none of whose tiles is disabled or under reset. -/
def State.chainInService (s : State) (c : ChainRec) : Bool :=
  let b := s.basin (basinOf .pt (c.tiles.headD 0))
  (b == .inService || b == .draining) &&
    c.tiles.all fun i => s.tileOn .pt i && (s.tile (tkey .pt i)).st != .resetting

/-- The tiles of a class in a basin. -/
def basinTiles (cls : NodeClass) (b : Nat) : List Nat :=
  (List.range (tilesPerBasin cls)).map fun k => b * tilesPerBasin cls + k

/-- A node's tile class: a PT-chain node can run on single PTs (R50). -/
def tileClass : NodeClass → NodeClass
  | .ptChain => .pt
  | c => c

/-- Customer mode and owner mode (R332, R335): routines of the customer region, and owner programs. -/
def NodeRec.customer (n : NodeRec) (owner : Bool) : Bool :=
  match n.cls with
  | .cc => owner
  | .pt | .ptChain | .ht | .bnu | .cu => customerBase ≤ n.routine
  | _ => false

/-! ## Operand memory of the BNUs (R253 to R257) -/

/-- Words of a curve field: P-256, P-384, P-521, Ed25519, Ed448, X25519, X448. -/
def curveWords (v : Nat) : Nat :=
  match v with | 0 => 4 | 1 => 6 | 2 => 9 | 3 => 4 | 4 => 7 | 5 => 4 | _ => 7

/-- Which MASK_MIN of a key counts for an operation's order (R30, R155, R187): the operation has no masked work and runs
unmasked; it has no secret key; it makes the key; or it uses the key. -/
inductive MaskKey where
  | unmasked | noKey | newKey | ownKey
  deriving DecidableEq, Repr

def Op.maskKey : Op → MaskKey
  | .mlDsaVerify | .slhDsaVerify | .lmsVerify | .xmssVerify | .lmsIndexQuery | .xmssIndexQuery | .ecVerify
  | .rsaPssVerify | .rsaV15Verify | .rsaOaepEncrypt | .hash | .nop | .fence | .random | .reseed | .attest
  | .aesGcmEncrypt | .aesGcmDecrypt | .aesCtr | .aesXtsEncrypt | .aesXtsDecrypt
  | .generate | .importWrapped | .importClear | .exportWrapped | .exportPublic | .restrict | .delete => .unmasked
  | .mlKemEncaps | .mcelieceEncaps | .hybridEncaps => .noKey
  | .mlKemKeygen | .mlDsaKeygen | .slhDsaKeygen | .lmsKeygen | .xmssKeygen | .mcelieceKeygen | .ecKeygen | .rsaKeygen
  | .hybridKeygen => .newKey
  | _ => .ownKey

/-- The masking order an operation runs at, on a key with this attribute word (R30, R155, R187). -/
def State.jobOrder (s : State) (o : Op) (reach : Nat) (key : Option (BitVec 64)) (param : Bytes) : Nat :=
  let r := ((s.cfg.reach reach).map ReachRec.maskMin).getD 0
  match o.maskKey with
  | .unmasked => 0
  | .noKey => max (pMaskOrder param) r
  | .newKey => max (pMaskOrder param) (max r (attrMaskMin (pAttr param)))
  | .ownKey => max (pMaskOrder param) (max r ((key.map attrMaskMin).getD 0))

/-- SPAN_WORDS of the committed BNU image (R330). -/
def Setup.customSpan (c : Setup) : Nat :=
  ((c.ucode.find? fun u => u.engine == 2).map fun u => uf (u.words.headD 0) 175 160).getD 0

/-- F of R254 for an operation at order `d`; `k` is the modulus length in bytes. -/
def spanWords (c : Setup) (o : Op) (v d k : Nat) : Nat :=
  let m := k / 8
  let ec (w : Nat) : Nat := (24 + 6 * d) * w + 32
  match o with
  | .ecKeygen | .ecSign | .agree => ec (curveWords v)
  | .hybridKeygen | .hybridEncaps | .hybridDecaps => ec (if v = 0 then 4 else 6)
  | .ecVerify => 32 * curveWords v + 32
  | .rsaPssSign | .rsaV15Sign | .rsaOaepDecrypt => (22 + 2 * d) * (m / 2 + 1) + 32
  | .rsaPssVerify | .rsaV15Verify | .rsaOaepEncrypt => 4 * m + 32
  | .rsaKeygen => 12 * m + 32
  | .ownerOpcode => c.customSpan
  | _ => 0

/-- Words of the operands an operation works on (R252): the curve's field, the modulus, or its half for a CRT private
operation; `k` is the modulus length in bytes. -/
def operandWords (o : Op) (v k : Nat) : Nat :=
  match o with
  | .ecKeygen | .ecSign | .ecVerify | .agree => curveWords v
  | .hybridKeygen | .hybridEncaps | .hybridDecaps => if v = 0 then 4 else 6
  | .rsaPssSign | .rsaV15Sign | .rsaOaepDecrypt => k / 16
  | .rsaPssVerify | .rsaV15Verify | .rsaOaepEncrypt | .rsaKeygen => k / 8
  | _ => 0

/-- Longest segment in FCLK cycles (R256): a ladder step, or 64 Montgomery multiplications of the words that an RSA operation
works on (R252). -/
def segmentCycles (o : Op) (k : Nat) : Nat :=
  match o with
  | .rsaPssSign | .rsaV15Sign | .rsaOaepDecrypt | .rsaPssVerify | .rsaV15Verify | .rsaOaepEncrypt | .rsaKeygen =>
    64 * (ceilDiv (operandWords o 0 k * operandWords o 0 k) 8 + 6)
  | _ => 240

/-- What a job asks of a BNU: its footprint in words, the words of its operands, and its longest segment in cycles. -/
structure BnuNeed where
  words : Nat
  operand : Nat
  cycles : Nat
  deriving DecidableEq, Repr

def State.bnuNeed (s : State) (reach : Nat) (keyValid : Bool) (key : Option (BitVec 64)) (o : Op) (v : Nat) (param : Bytes) :
    BnuNeed :=
  let k := if o == .rsaKeygen then pModBits param / 8 else (rsaK keyValid key param).getD 0
  { words := spanWords s.cfg o v (s.jobOrder o reach key param) k, operand := operandWords o v k, cycles := segmentCycles o k }

/-- OPERAND_SLOT_WORDS of a reach (R45). -/
def Setup.slotWords (c : Setup) (r : Nat) : Nat := ((c.reach r).map ReachRec.slotWords).getD 1

def State.pagesOf (s : State) (bnu r : Nat) : Nat := tget 0 (tget [] s.parts bnu) r

/-- Slots of a reach's partition on a unit (R253). -/
def State.partSlots (s : State) (bnu r : Nat) : Nat := s.pagesOf bnu r * 256 / s.cfg.slotWords r

/-- R255: does the unit count as a tile for the job? A segment on a FRAMED unit fits its slot. -/
def State.bnuFits (s : State) (bnu r : Nat) (n : BnuNeed) : Bool :=
  ceilDiv n.words (s.cfg.slotWords r) ≤ s.partSlots bnu r &&
    (s.cfg.grants .bnu bnu).any fun t => t.reach == r &&
      (t.mode != .framed || n.cycles * 1000 * 64 ≤ s.cfg.device.frameUs * 1000 * s.pwr.fclkMhz)

/-- The first run of `count` free slots of a reach's partition (R254). -/
def State.freeRun (s : State) (bnu r count : Nat) : Option Nat :=
  let held := s.spans.filter fun x => x.bnu == bnu && x.reach == r
  (List.range (s.partSlots bnu r + 1 - count)).find? fun f =>
    held.all fun x => f + count ≤ x.first || x.first + x.count ≤ f

/-- The span a node takes at its first dispatch, or none when no run is free (R254). -/
def State.takeSpan (s : State) (bnu r job node : Nat) (n : BnuNeed) : Option State :=
  if s.spans.any fun x => x.bnu == bnu && x.job == job && x.node == node then some s
  else
    let count := ceilDiv n.words (s.cfg.slotWords r)
    (s.freeRun bnu r count).map fun f =>
      { s with spans := s.spans ++ [{ bnu := bnu, reach := r, job := job, node := node, first := f, count := count }] }

/-- Does a basin offer the reach a tile for the node (R48, R255)? -/
def State.basinOffers (s : State) (r b : Nat) (owner : Bool) (need : BnuNeed) (n : NodeRec) : Bool :=
  match n.cls with
  | .hbmMove | .entropyWait => true
  | c =>
    (basinTiles (tileClass c) b).any fun i =>
      s.tileOn (tileClass c) i && s.cfg.mayUse (tileClass c) i r (n.customer owner) &&
        (c != .bnu || s.bnuFits i r need)

/-! ## Templates -/

def mkNode (cls : NodeClass) (output : Bool) (deps : Nat) : NodeRec :=
  { cls := cls, output := output, routine := 0, deps := deps, arg := 0 }

/-- The template of R127's worked graph. Its matrix-vector node, and that of the other ML-DSA templates, can run on a chain
(R34, R50, R223; DEDUCED, log entry 18); where no chain of the reach takes it, it is a node for one PT. HashML-DSA has a CC node
in front, which encodes the hash's object identifier into M′ (R334). -/
def mlDsaSignNodes (hedged prehash : Bool) : List NodeRec :=
  [mkNode (if hedged then .entropyWait else .ht) false 0, mkNode .ht false (if prehash then 512 else 0), mkNode .hbmMove false 0,
   mkNode .pt false 0, mkNode .ht false 3, mkNode .ptChain false 28, mkNode .ht false 32, mkNode .pt false 64,
   mkNode .pt true 128] ++ (if prehash then [mkNode .cc false 0] else [])

/-- A chain of nodes, each waiting for the one before; the last one writes the output. -/
def chainNodes : Nat → List NodeClass → List NodeRec
  | _, [] => []
  | i, [c] => [mkNode c true (if i = 0 then 0 else 2 ^ (i - 1))]
  | i, c :: c' :: cs => mkNode c false (if i = 0 then 0 else 2 ^ (i - 1)) :: chainNodes (i + 1) (c' :: cs)

/-- The engine classes of a built-in template, in the order in which the data flow: those of R34, and a CC node that encodes
DigestInfo or an object identifier (R334; DEDUCED, log entry 104). -/
def Op.classesFor (o : Op) (param : Bytes) : List NodeClass :=
  match o with
  | .rsaV15Sign | .rsaV15Verify => [.ht, .cc, .bnu]
  | .mlDsaVerify | .slhDsaSign | .slhDsaVerify => (if pPrehash param then [.cc] else []) ++ o.classes
  | _ => o.classes

def builtinNodes (o : Op) (v : Nat) (param : Bytes) : List NodeRec :=
  let hedged := (o.draws v param).isSome || o == .reseed
  if o == .mlDsaSign then mlDsaSignNodes hedged (pPrehash param)
  else if o.classes.isEmpty then []
  else chainNodes 0 ((if hedged then [.entropyWait] else []) ++ o.classesFor param)

/-- The template a job of the reach runs from (R124), and whether it is an owner's ADD template. -/
def Setup.templateOf (c : Setup) (r opcode : Nat) (o : Op) (v : Nat) (param : Bytes) : List NodeRec × Bool :=
  match ownerGraph c.graphs true r opcode with
  | some g => (g.nodes, false)
  | none =>
    if o == .ownerOpcode then
      match ownerGraph c.graphs false r opcode with
      | some g => (g.nodes, true)
      | none => ([], true)
    else (builtinNodes o v param, false)

/-- Can some basin run the template for the reach (R48, check 3)? -/
def State.basinRuns (s : State) (r b : Nat) (owner : Bool) (need : BnuNeed) (ns : List NodeRec) : Bool :=
  s.basin b != .disabled && ns.all (s.basinOffers r b owner need)

/-- Is the basin open to a new job (R130, R427)? -/
def State.basinHomes (s : State) (r b : Nat) (owner : Bool) (need : BnuNeed) (ns : List NodeRec) : Bool :=
  s.basin b == .inService && s.basinRuns r b owner need ns

def State.canRun (s : State) (r : Nat) (owner : Bool) (need : BnuNeed) (ns : List NodeRec) : Bool :=
  ns.isEmpty || (List.range 8).any fun b => s.basinRuns r b owner need ns

/-! ## Nodes -/

/-- The tiles and chains a node may run on in its basin, with their epochs now (R145). -/
def State.resolve (s : State) (r b : Nat) (owner : Bool) (n : NodeRec) : List (Nat × BitVec 32) :=
  match n.cls with
  | .entropyWait => []
  | .hbmMove => [(tkey .hbmMove b, (s.tile (tkey .hbmMove b)).epoch)]
  | c =>
    let t := tileClass c
    let singles := ((basinTiles t b).filter fun i => s.cfg.mayUse t i r (n.customer owner)).map fun i =>
      (tkey t i, (s.tile (tkey t i)).epoch)
    let chains := if c = .ptChain then
        (s.cfg.chains.filter fun x => x.reach == r && basinOf .pt (x.tiles.headD 0) == b).map fun x =>
          (tkey .ptChain x.id, tget 0 s.chainEpoch x.id)
      else []
    chains ++ singles

def Job.node (j : Job) (i : Nat) : Option Node := j.nodes[i]?

def Job.setNode (j : Job) (i : Nat) (n : Node) : Job := { j with nodes := j.nodes.set i n }

def NodeSt.isDone : NodeSt → Bool
  | .done => true
  | _ => false

def Job.doneMask (j : Job) : Nat :=
  ((List.range j.nodes.length).filter fun i =>
    match j.nodes[i]? with | some n => n.st.isDone | none => false).foldl (fun m i => m + 2 ^ i) 0

/-- A hedged signature whose key has DET_FALLBACK (R141, R160). -/
def State.mayFallBack (s : State) (j : Job) : Bool :=
  match s.opOfJob j, s.jobSlot j with
  | some (o, _), some x => o.hedged && attrDetFallback x.attr
  | _, _ => false

/-- No block reset that follows a Spring failure has completed yet (R141, R280). -/
def State.springDown (s : State) : Bool :=
  s.spr.st == .failed || s.spr.st == .dead || (s.spr.st == .resetting && s.spr.afterFailure)

/-! ## Delay lists (R137, R138) -/

/-- The DEVICE list's own entries: waits for a rate-limit token, and return timers of spilled jobs (R137). -/
def Job.onDevice (j : Job) : Bool := j.st == .rateWait || (j.st == .spilled && j.spillAt.isSome)

/-- Entries a basin's list holds: 0 TIMED, 1 ENTROPY, 2 BACKOFF. -/
def State.listUsed (s : State) (b kind : Nat) (only : Option Nat) : Nat :=
  ((s.jobs.filter fun j => j.basin == b && (only.all fun r => j.reach == r)).map fun j =>
    match kind with
    | 0 => b2n (j.st == .delayed)
    | 1 => (j.nodes.filter fun n => match n.st with | .entropyWait _ => true | _ => false).length
    | _ => (j.nodes.filter fun n => match n.st with | .backoff _ => true | _ => false).length).sum

def State.isolatedIn (s : State) (b : Nat) : List Nat :=
  (s.cfg.reaches.filter fun x => s.isolated x.id &&
    tileClasses.any fun c => (basinTiles c b).any fun i => s.cfg.mayUse c i x.id false).map ReachRec.id

/-- Entries that TIMING_ISOLATED reaches use of a basin's list (R138). -/
def State.ownUsed (s : State) (b kind : Nat) : List Nat := (s.isolatedIn b).map fun r => s.listUsed b kind (some r)

/-- Entries of a basin's list that the other reaches use. -/
def State.sharedUsed (s : State) (b kind : Nat) : Nat := s.listUsed b kind none - (s.ownUsed b kind).sum

def State.sharedSize (s : State) (b : Nat) : Nat := 1792 - 64 * (s.isolatedIn b).length

/-- The DEVICE list's own entries and what overflowed into it. -/
def State.deviceUsed (s : State) : Nat :=
  (s.jobs.filter Job.onDevice).length +
  ((List.range 8).flatMap fun b => (List.range 3).map fun k =>
    s.sharedUsed b k - s.sharedSize b + ((s.ownUsed b k).map fun n => n - 64).sum).sum

/-- Is there room on the DEVICE list (R138)? -/
def State.deviceRoom (s : State) : Bool := s.deviceUsed < 8192

/-- Is there an entry of the basin's own list for a request of the reach: of its 64 reserved ones for a TIMING_ISOLATED reach,
of the rest for the others (R89, R138)? -/
def State.basinRoom (s : State) (b kind r : Nat) : Bool :=
  if (s.isolatedIn b).contains r then s.listUsed b kind (some r) < 64 else s.sharedUsed b kind < s.sharedSize b

/-- A request that waits for a delay-list entry (R138): its job, its reach and basin, its node or none for the job's own, the
list it asks for (0 TIMED, 1 ENTROPY, 2 BACKOFF, 3 DEVICE) and its place in the order of arrival. -/
structure ListReq where
  job : Nat
  reach : Nat
  basin : Nat
  node : Option Nat
  kind : Nat
  seq : Nat
  deriving DecidableEq, Repr

/-- The job's own request, and those of its nodes. -/
def Job.listReqs (j : Job) : List ListReq :=
  let req (node : Option Nat) (kind seq : Nat) : ListReq :=
    { job := j.id, reach := j.reach, basin := j.basin, node := node, kind := kind, seq := seq }
  let own := match j.st with
    | .delayPend => [req none 0 j.listSeq]
    | .ratePend => [req none 3 j.listSeq]
    | .spilled => if j.spillAt.isNone then [req none 3 j.listSeq] else []
    | _ => []
  own ++ (List.range j.nodes.length).filterMap fun i =>
    match (j.nodes[i]?).map Node.st with
    | some (.listWait e _ q) => some (req (some i) (if e then 1 else 2) q)
    | _ => none

/-- The requests that wait. -/
def State.listReqs (s : State) : List ListReq := (s.jobs.filter fun j => j.status.isNone).flatMap Job.listReqs

/-- May a new request take an entry of the DEVICE list: none waits for one before it (R138)? -/
def State.deviceOpen (s : State) : Bool := s.deviceRoom && s.listReqs.isEmpty

/-- May a new request of the reach take an entry: of the basin's list, if no earlier one of its share waits for that, or else
of the DEVICE list (R138)? -/
def State.listRoom (s : State) (b kind r : Nat) : Bool :=
  let mine := (s.isolatedIn b).contains r
  (s.basinRoom b kind r && !(s.listReqs.any fun q => q.basin == b && q.kind == kind &&
      (if mine then q.reach == r else !(s.isolatedIn b).contains q.reach))) || s.deviceOpen

def State.freeEntries (s : State) : Nat :=
  65536 - ((s.jobs.filter Job.onDevice).length +
    ((List.range 8).flatMap fun b => (List.range 3).map fun k => s.listUsed b k none).sum +
    ((List.range 32).filter fun i => (s.tile (tkey .bnu i)).node.isSome).length)

/-! ## Staging SRAM (R21, R23) -/

/-- Bytes of a basin's staging SRAM for the staging areas of its jobs: 4 MiB less its 512 context entries of 2,048 bytes (R21,
R237). No address of a job's staging area lies beyond. -/
def stagingBytes : Nat := 4194304 - 512 * 2048

/-- Bytes that the jobs of a basin hold in its staging SRAM. -/
def State.stageHeld (s : State) (b : Nat) : Nat :=
  ((s.jobs.filter fun j => j.basin == b && j.status.isNone).map fun j => j.stage.length).sum

/-- Is there room for so many bytes more? -/
def State.stageRoom (s : State) (b n : Nat) : Bool := s.stageHeld b + n ≤ stagingBytes

/-! ## Control stores -/

def State.store (s : State) (e : Nat) : CtlStore := tget CtlStore.reset s.stores e
def State.setStore (s : State) (e : Nat) (c : CtlStore) : State := { s with stores := tset s.stores e c }

/-- The engine type of a tile class: 0 PT, 1 HT, 2 BNU, 3 CU. -/
def engOf (cls : Nat) : Option Nat :=
  match cls with
  | 0 => some 0 | 2 => some 1 | 3 => some 2 | 4 => some 3 | _ => none

/-- The tile class of an engine type. -/
def engClass : Nat → NodeClass
  | 0 => .pt | 1 => .ht | 2 => .bnu | _ => .cu

def State.custImage (s : State) (eng : Nat) : List UWord :=
  ((s.cfg.ucode.find? fun u => u.engine == eng).map UcodeRec.words).getD []

/-- A match register redirects a ROM address to patch RAM (R329). -/
def CtlStore.redirect (c : CtlStore) (a : Nat) : Nat :=
  match c.matches_.find? fun m => m.1 == a with
  | some m => 0x4000 + m.2
  | none => a

/-- The word at an address of the map; none outside it and at the image header, which is never executed (R316, R330). -/
def State.fetchWord (s : State) (eng addr : Nat) : Option UWord :=
  let c := s.store eng
  let a := c.redirect addr
  if a < 0x4000 then some (Config.romWord eng a)
  else if a < patchEnd then some (c.patch.getD (a - 0x4000) 0)
  else if customerBase < a then (s.custImage eng)[a - customerBase]?
  else none

/-- Routines abandoned before their COMMIT count in MCS_ABANDON (R324, R333). -/
def State.countAbandon (s : State) (p : Nat × Nat → Bool) : State :=
  (s.tiles.filter fun x => x.2.node.any p && !x.2.seqr.committed).foldl (fun s x =>
    match engOf (keyClass x.1) with
    | some e => s.setStore e { s.store e with abandon := satAdd 0xFFFFFFFF (s.store e).abandon 1 }
    | none => s) s

/-! ## Ending jobs -/

/-- The tile gives up its node: idle, with its sequencer and the memory the node wrote cleared (R114, R226, R261). -/
def Tile.release (t : Tile) : Tile :=
  { t with st := if t.st = .busy then .idle else t.st, node := none, lastReach := some t.reach, order := 0, mem := [],
           written := 0, seqr := Seqr.reset, sliceOver := false, chainHold := none }

/-- What the nodes of a job passed on in the tile's memory is zeroed when the job ends (R226). -/
def Tile.forget (t : Tile) (id : Nat) : Tile := { t with passed := t.passed.filter fun x => x.1 / 32 != id }

/-- What one node left or delivered in the tile's memory is zeroed when it is abandoned (R226, R324). -/
def Tile.forgetNode (t : Tile) (id i : Nat) : Tile := { t with passed := t.passed.filter fun x => x.1 != id * 32 + i }

/-! ### Credit and cycles of POOLED tiles (R135) -/

/-- FCLK cycles of a span of time. -/
def State.cyclesOf (s : State) (ns : Nat) : Nat := ns * s.fclk / 1000

def creditKey (b c r : Nat) : Nat := (b * 8 + c) * 64 + r
def State.credit (s : State) (b c r : Nat) : Int := tget 0 s.weir.credits (creditKey b c r)
def State.setCredit (s : State) (b c r : Nat) (v : Int) : State :=
  { s with weir := { s.weir with credits := tset s.weir.credits (creditKey b c r) v } }

/-- How a tile is granted now: its mode, and the reaches that may use it in the running slot (R134, R136). -/
def State.tileModeNow (s : State) (c : NodeClass) (i : Nat) : TileMode × List Nat :=
  match s.cfg.grants c i with
  | [] => (.none, [])
  | g :: gs =>
    match g.mode with
    | .framed => (.framed, ((g :: gs).filter fun t => bitOf t.slotMask s.weir.slot).map TileRec.reach)
    | m => (m, (g :: gs).map TileRec.reach)

/-- A dispatched node costs its reach the cycles it used of a POOLED tile (R135). -/
def State.chargeCredit (s : State) (k r cyc : Nat) : State :=
  let c := (NodeClass.ofCode (keyClass k)).getD .hbmMove
  let b := basinOf c (keyIndex k)
  match s.tileModeNow c (keyIndex k) with
  | (.pooled, _) => s.setCredit b c.code r (s.credit b c.code r - Int.ofNat cyc)
  | _ => s

/-- Busy cycles and stalled cycles of a tile up to now, saturating (R229, R249, R264). -/
def State.busyCycles (s : State) (k : Nat) : Nat :=
  let t := s.tile k
  satAdd 0xFFFFFFFF t.busyCyc (if t.node.isSome then s.cyclesOf (s.now - t.busyAt) else 0)

def State.stallCycles (s : State) (k : Nat) : Nat :=
  let t := s.tile k
  satAdd 0xFFFFFFFF t.throttleCyc (if t.throttled then s.cyclesOf (s.now - t.throttleAt) else 0)

/-- The stall of a tile ends, with its cycles counted (R217). -/
def State.endStall (s : State) (k : Nat) : State :=
  let t := s.tile k
  s.setTile k { t with throttled := false, throttleCyc := s.stallCycles k, throttleAt := s.now }

/-- A core that runs no node: registers and scratch zeroed (R341). -/
def Core.idle (c : Core) : Core := { Core.reset with overlay := c.overlay, recoveryFails := c.recoveryFails }

/-- The cores go into their overlay (R345). -/
def State.overlayOn (s : State) (p : Nat → Bool) : State :=
  ((List.range 16).filter p).foldl (fun s i => s.setCore i { s.core i with overlay := true }) s

/-- The core goes into recovery and takes no node, with its basin's event (R346, R453). -/
def State.recover (s : State) (i : Nat) : State :=
  ((s.setCore i { s.core i with overlay := true }).setTile (tkey .cc i)
    { s.tile (tkey .cc i) with st := .recovery }).raiseBasin (basinOf .cc i) 6 i

/-- An engine gives up its node: its busy cycles count, its reach's credit is charged unless the node had priority 0, and a
core is zeroed and goes into recovery when that was due at its END (R135, R341, R353). -/
def State.leaveTile (s : State) (k : Nat) : State :=
  let urgent := ((s.tile k).node.bind fun n => s.job n.1).any fun j => j.entry.prio == 0
  let s := if urgent then s else s.chargeCredit k (s.tile k).reach (s.cyclesOf (s.now - (s.tile k).startNs))
  let s := s.endStall k
  let recovers := keyClass k == NodeClass.cc.code && (s.core (keyIndex k)).recoverAtEnd
  let s := if keyClass k = NodeClass.cc.code then s.setCore (keyIndex k) (s.core (keyIndex k)).idle else s
  let t := s.tile k
  let s := s.setTile k { t.release with busyCyc := s.busyCycles k }
  if recovers then s.recover (keyIndex k) else s

/-- Has the routine that a tile runs passed its own COMMIT (R126, R339)? -/
def State.tileCommitted (s : State) (k : Nat) : Bool :=
  (s.tile k).seqr.committed || (keyClass k == NodeClass.cc.code && (s.core (keyIndex k)).result.isSome)

/-- The tiles that run a node of the job, all of them or those before their COMMIT. -/
def State.jobTiles (s : State) (id : Nat) (all : Bool) : List Nat :=
  ((s.tiles.filter fun x => x.2.node.any fun n => n.1 == id).map Prod.fst).filter fun k => all || !s.tileCommitted k

/-- Frees the tiles that run nodes of the job, all of them or those before their COMMIT, and the spans of all others. -/
def State.freeTiles (s : State) (id : Nat) (all : Bool) : State :=
  let s := (s.jobTiles id all).foldl State.leaveTile s
  { s with spans := s.spans.filter fun x => x.job != id || s.tiles.any fun t => t.2.node == some (id, x.node) }

/-- The engines that run a node give it up. -/
def State.leaveTiles (s : State) (id i : Nat) : State :=
  ((s.tiles.filter fun x => x.2.node == some (id, i)).map Prod.fst).foldl State.leaveTile s

/-- A node is abandoned: its engines give it up, and what it wrote in the memory of PTs is zeroed (R226, R324). -/
def State.abandon (s : State) (id i : Nat) : State :=
  let s := s.leaveTiles id i
  { s with tiles := s.tiles.map fun (x : Nat × Tile) => (x.1, x.2.forgetNode id i) }

/-- A tile still runs a node of the job. -/
def State.runsNode (s : State) (id : Nat) : Bool := s.tiles.any fun x => x.2.node.any fun n => n.1 == id

/-- Covered jobs whose last node has ended are gone. -/
def State.sweepJobs (s : State) : State := { s with jobs := s.jobs.filter fun j => j.st != .covered || s.runsNode j.id }

/-- Covered jobs that `p` names are over: what their nodes still ran has reached its end before the reset or the removal that
takes their tiles (R126). -/
def State.settleCovered (s : State) (p : Job → Bool) : State :=
  let ids := (s.jobs.filter fun j => j.st == .covered && p j).map Job.id
  (ids.foldl (fun s id => s.freeTiles id true) s).sweepJobs

def Status.success : Status → Bool
  | .ok | .okMigrated | .okAbortLate | .okDeterministicFallback => true
  | _ => false

/-- A reservation that the job did not turn into a key returns to EMPTY (R290). -/
def State.dropReservation (s : State) (j : Job) : State :=
  match j.reserved with
  | none => s
  | some n => if (s.slot n).st = .reserved then s.setSlot n Slot.reset else s

/-- A node of an ended job: done, running on past its COMMIT where its tile keeps it (R126), or cancelled, with its saved
context gone (R114). -/
def Node.cancel (n : Node) (runs : Nat → Bool) : Node :=
  let n := { n with saved := none, ctx := .lane, inHbm := false, intr := none, served := false }
  match n.st with
  | .done => n
  | .running t => { n with st := if runs t then .running t else .cancelled }
  | _ => { n with st := .cancelled }

def Job.cancelNodes (j : Job) (runs : Nat → Bool) : Job := { j with nodes := j.nodes.map fun n => n.cancel runs }

/-- Does a status end every routine of the job? A failure, an abort and a flush leave those past their COMMIT to run on
(R126, R328). -/
def Status.endsAll (st : Status) : Bool := st.success || st == .verifyFalse

/-! ### Contexts that lie in HBM (R240, R241) -/

/-- Writes the 32 lines of a spilled record into the reserve of its reach. -/
def State.putCtx (s : State) (reach id i : Nat) (record : Bytes) : State :=
  match s.storePlace .reserve reach with
  | none => s
  | some p => s.putBytes p (Config.ctxLine id i) (fit 2048 record)

/-- The spilled contexts of a job are overwritten when it ends (R241). -/
def State.wipeCtxs (s : State) (j : Job) : State :=
  ((List.range j.nodes.length).filter fun i => (j.nodes[i]?).any Node.inHbm).foldl (fun s i => s.putCtx j.reach j.id i []) s

/-- Gives a job its one status (R122): the first failure or the success stands, its tiles are freed and wiped, its
waiting reseed and transfers end, and a failed job keeps no output and no reservation. -/
def State.endJob (s : State) (id : Nat) (st : Status) (detail : Nat) : State :=
  match s.job id with
  | none => s
  | some j =>
    if j.status.isSome then s
    else
      let st := if st = .ok && j.abortLate then .okAbortLate else st
      let s := if st.success then s else s.dropReservation j
      let s := if st.success || st == .verifyFalse then s else s.countAbandon fun n => n.1 == id
      let s := (s.freeTiles id st.endsAll).wipeCtxs j
      let j' := { j.cancelNodes (fun k => (s.tile k).node.any fun n => n.1 == id) with
        status := some st, detail := detail, st := .ended, output := if st.success then j.output else [], stage := [],
        extend := if j.committed then j.extend else none, reserved := none }
      let s := { s.setJob j' with tiles := s.tiles.map fun (x : Nat × Tile) => (x.1, x.2.forget id) }
      { s with spr := { s.spr with
          waiting := s.spr.waiting.filter fun w => w.job != some id
          transfers := s.spr.transfers - (j.nodes.filter Node.served).length } }

/-- A failure of the running device that ends the job: before the commit point `st`, after it FAULT_AFTER_COMMIT
(R126, R128, R327). -/
def State.failJob (s : State) (id : Nat) (st : Status) (detail : Nat) : State :=
  match s.job id with
  | none => s
  | some j => s.endJob id (if j.committed then .faultAfterCommit else st) (if j.committed then 0 else detail)

/-- The message that aborts a spilled job on its peer (R113): a request of class 0x0B with the SEQ of the forwarding, STATUS
ABORTED and no payload (log entry 88). -/
def State.spillAbort (s : State) (j : Job) : State :=
  match s.cfl.pendingReq.find? fun q => q.cls == 0x0B && q.job == some j.id with
  | none => s
  | some q =>
    let x := s.port j.spillPort
    let ep := ((x.peerEpochs.find? fun e => e.1 == j.reach).map Prod.snd).getD 0
    (s.sendFrame j.spillPort 0x0B x.peerDev
      (msgHeader 0x0B 0 48 j.reach s.devId x.peerDev ep q.id 0 Status.aborted.code)).countTx

/-- A node that ended FAULT_AFTER_COMMIT counts in MCS_FAC of its engine type (R327, R333). -/
def State.countFac (s : State) (id i : Nat) : State :=
  match (s.tiles.find? fun x => x.2.node == some (id, i)).bind fun x => engOf (keyClass x.1) with
  | some e => s.setStore e { s.store e with fac := satAdd 0xFFFFFFFF (s.store e).fac 1 }
  | none => s

/-- A node ends without a result. -/
def State.dropNode (s : State) (id i : Nat) : State :=
  let s := s.abandon id i
  let s := { s with spans := s.spans.filter fun p => !(p.job == id && p.node == i) }
  match s.job id with
  | none => s
  | some j => (match j.node i with
    | some n => (s.setJob (j.setNode i { n with st := .cancelled })).sweepJobs
    | none => s)

/-- The failure of a node: past its COMMIT it ends the node and, as its first failure, the job FAULT_AFTER_COMMIT (R327). -/
def State.failNode (s : State) (id i : Nat) (st : Status) : State :=
  if s.tiles.any fun x => x.2.node == some (id, i) && s.tileCommitted x.1 then
    ((s.countFac id i).endJob id .faultAfterCommit 0).dropNode id i
  else s.failJob id st 0

/-- An abort that takes effect at the Weir (R114, R115); a spilled job is aborted on its peer (R113). DESIGN CHOICE (log entry
116): an OK that has not retired yet becomes OK_ABORT_LATE. -/
def State.abortJob (s : State) (id : Nat) : State :=
  match s.job id with
  | none => s
  | some j =>
    if j.st = .ended then
      (if j.status = some .ok && j.committed then s.setJob { j with status := some .okAbortLate } else s)
    else if j.retired then s
    else if j.st = .spilled then
      (if j.abortLate then s else (s.spillAbort j).setJob { j with abortLate := true })
    else if j.committed then s.setJob { j with abortLate := true }
    else s.endJob id .aborted 0

/-- A Levee flush (R116): ALARM_FLUSH before the commit point, the job's own status after it; ABORTED for a spilled job whose
abort came first (R115). -/
def State.flushJob (s : State) (id : Nat) : State :=
  match s.job id with
  | none => s
  | some j => if j.status.isSome || j.committed then s
    else s.endJob id (if j.abortLate then .aborted else .alarmFlush) 0

def State.flushAll (s : State) (p : Job → Bool) : State :=
  ((s.jobs.filter p).map Job.id).foldl State.flushJob s

/-! ## Readiness -/

def State.takeSeq (s : State) : State := { s with weir := { s.weir with seq := s.weir.seq + 1 } }

/-- One more place in the order of arrival of delay-list requests (R138). -/
def State.takeListSeq (s : State) : State := { s with weir := { s.weir with listSeq := s.weir.listSeq + 1 } }

/-- The job's first node is dispatched (R149, R150): a priority-0 job that comes later than 5 µs and its DELAY after the
doorbell has missed its bound. An ENTROPY-WAIT node counts when it starts waiting. -/
def State.markDispatch (s : State) (id : Nat) : State :=
  match s.job id with
  | none => s
  | some j =>
    if j.firstDispatch then s
    else
      let late : Bool := j.entry.prio == 0 && j.forPeer.isNone &&
        decide (j.doorbellNs + 5000 + j.entry.delay * s.cfg.device.tickNs < s.now)
      let s := s.setJob { j with firstDispatch := true, lbm := j.lbm || late }
      if late then
        let r := s.reach j.reach
        (s.setReach j.reach { r with lbm := satAdd 0xFFFFFFFF r.lbm 1 }).raiseReach j.reach 0 (reachCause 1 j.fn j.q 0)
      else s

/-- A request for a delay-list entry that finds none: it takes the next place in the order of arrival (R138). -/
def State.listFull (s : State) (basin : Nat) : State :=
  (State.raiseBasin { s with weir := { s.weir with delayOvf := true } } basin 9 0).takeListSeq

/-- An ENTROPY-WAIT node that becomes ready (R141): it ends at once after a Spring failure, and waits otherwise. -/
def State.startEntropy (s : State) (id i : Nat) : State :=
  let s := s.markDispatch id
  match s.job id with
  | none => s
  | some j =>
    match j.node i with
    | none => s
    | some n =>
      if s.springDown then
        (if s.mayFallBack j then s.setJob { j.setNode i { n with st := .done } with entropy := .fallback }
         else s.failJob id .entropyFailed 0)
      else
        let span := 1000 * s.weir.timeoutUs
        if s.listRoom j.basin 1 j.reach then
          s.setJob { j.setNode i { n with st := .entropyWait (s.now + span) } with entropy := .pending }
        else
          (s.setJob { j.setNode i { n with st := .listWait true span s.weir.listSeq } with entropy := .pending }).listFull
            j.basin

/-- Makes one node ready, in the order of readiness (R126, R133). -/
def State.readyNode (s : State) (id i : Nat) : State :=
  match s.job id with
  | none => s
  | some j =>
    match j.node i with
    | none => s
    | some n =>
      if j.status.isSome then s
      else if n.info.cls = .entropyWait then s.startEntropy id i
      else
        let owner := (s.opOfJob j).map Prod.fst == some .ownerOpcode
        let n' := { n with st := .ready, seq := s.weir.seq, resolved := s.resolve j.reach j.basin owner n.info }
        (s.setJob (j.setNode i n')).takeSeq

/-- Every waiting node of the job whose dependences have completed becomes ready (R126). -/
def State.wakeNodes (s : State) (id : Nat) : State :=
  match s.job id with
  | none => s
  | some j =>
    let m := j.doneMask
    let due := (List.range j.nodes.length).filter fun i =>
      match j.nodes[i]? with
      | some n => n.st == .waiting && (n.info.deps &&& m) == n.info.deps
      | none => false
    due.foldl (fun s i => s.readyNode id i) s

/-- A fallback node that completes at once may wake another (R141): the ready rule is applied as often as there are nodes. -/
def State.settleNodes (s : State) (id : Nat) : State :=
  match s.job id with
  | none => s
  | some j => j.nodes.foldl (fun s _ => s.wakeNodes id) s

/-! ## What a queue still owes -/

/-- Jobs fetched whose completion has not been written (R79, R113). -/
def State.outstanding (s : State) (fn q : Nat) : Nat :=
  (s.jobs.filter fun j => j.fn == fn && j.q == q && j.forPeer.isNone && j.st != .covered).length

def State.fnOutstanding (s : State) (fn : Nat) : Nat := ((List.range 64).map fun q => s.outstanding fn q).sum

/-- The functions of a reach. -/
def Setup.fnsOf (c : Setup) (r : Nat) : List Nat :=
  match c.reach r with
  | none => []
  | some x => bitList x.functions 256

/-- Is fetching stopped for a function by quiesce, D3hot or the state of its reach (R79, R80, R74)? -/
def State.fetchOpen (s : State) (fn : Nat) : Bool :=
  match s.cfg.reachOf fn with
  | none => false
  | some r => (s.reach r).st == .serving && !(s.fn fn).quiesce && !(s.fn fn).d3hot

/-- The number of queue pairs granted to a function. -/
def Setup.queuesOf (c : Setup) (fn : Nat) : Nat := ((c.reachOf fn).bind c.reach |>.map ReachRec.queues).getD 0

/-- Is the queue pair granted and its function there (R77, R94)? -/
def State.granted (s : State) (fn q : Nat) : Bool := q < s.cfg.queuesOf fn && s.fnConfigured fn

/-- Yielded nodes whose context a BNU holds (R257). -/
def State.bnuHeld (s : State) (i : Nat) : Nat :=
  (s.jobs.map fun j => (j.nodes.filter fun n => n.saved.isSome && n.st == .yielded (tkey .bnu i)).length).sum

/-! ## Tokens (R111) -/

def State.isolatedCount (s : State) : Nat := (s.cfg.reaches.filter fun x => s.isolated x.id).length

/-- Tokens held: by fetched jobs until they retire, and longer while their completion waits (R111, R112). -/
def State.tokensHeld (s : State) (p : Nat → Bool) : Nat := (s.jobs.filter fun j => j.token && p j.reach).length

def State.poolFree (s : State) (r : Nat) : Bool :=
  if s.isolated r then s.tokensHeld (· == r) < 4096
  else s.tokensHeld (fun x => !s.isolated x) < 65536 - 4096 * s.isolatedCount

/-- Tokens held by one flow of a queue. -/
def State.flowHeld (s : State) (fn q : Nat) (flow : Bool × Nat) : Nat :=
  (s.jobs.filter fun x => x.token && x.fn == fn && x.q == q && x.entry.flowKey == flow).length

/-- Is there a reorder token for an entry of the flow (R111)? -/
def State.tokenFree (s : State) (fn q r : Nat) (flow : Bool × Nat) : Bool :=
  s.poolFree r && s.flowHeld fn q flow < 256

end Sys2Proof.Machine
end

