-- ==== Sys2Proof/Machine/MlDsa.lean ====
section
/-! DEFINITION. ML-DSA as FIPS 204 defines it (R169 to R171, log entry 22). The variant is 0, 1 or 2; a polynomial's
coefficients are residues from 0 to q − 1. -/

namespace Sys2Proof.Machine

open Sys2Proof

def dsaQ : Nat := 8380417

def dsaRing : Splitting := { q := dsaQ, root := 1753, half := 256, depth := 8 }

/-- Rows and columns of the matrix, η, τ, the bits of γ₁, (q − 1) / γ₂, ω, and the bytes of c̃. -/
structure DsaSet where
  rows : Nat
  cols : Nat
  eta : Nat
  tau : Nat
  maskBits : Nat
  gap : Nat
  hints : Nat
  challenge : Nat
  deriving DecidableEq, Repr

def dsaSet (v : Nat) : DsaSet :=
  match v with
  | 0 => { rows := 4, cols := 4, eta := 2, tau := 39, maskBits := 17, gap := 88, hints := 80, challenge := 32 }
  | 1 => { rows := 6, cols := 5, eta := 4, tau := 49, maskBits := 19, gap := 32, hints := 55, challenge := 48 }
  | _ => { rows := 8, cols := 7, eta := 2, tau := 60, maskBits := 19, gap := 32, hints := 75, challenge := 64 }

def DsaSet.gamma1 (p : DsaSet) : Nat := 2 ^ p.maskBits
def DsaSet.gamma2 (p : DsaSet) : Nat := (dsaQ - 1) / p.gap
def DsaSet.beta (p : DsaSet) : Nat := p.tau * p.eta
/-- Bits of a coefficient of s₁ and s₂, and of w₁. -/
def DsaSet.etaBits (p : DsaSet) : Nat := if p.eta = 2 then 3 else 4
def DsaSet.highBits (p : DsaSet) : Nat := if p.gap = 88 then 6 else 4

/-- The distance of a residue from 0, and the largest one of a vector. -/
def dsaSize (x : Nat) : Nat := min (x % dsaQ) (dsaQ - x % dsaQ)
def dsaNorm (ps : List Poly) : Nat := ps.foldl (fun m p => p.foldl (fun m x => max m (dsaSize x)) m) 0

def dsaPlus (a b : List Poly) : List Poly := (a.zip b).map fun x => Poly.plus dsaQ x.1 x.2
def dsaMinus (a b : List Poly) : List Poly := (a.zip b).map fun x => Poly.minus dsaQ x.1 x.2

/-! ## Sampling -/

/-- The first residues among candidates of three bytes, their top bit dropped. -/
def dsaUniform (seed : Bytes) : Poly :=
  (((pieces 3 448 (shake128 seed 1344)).map fun b => leNat b % 2 ^ 23).filter fun x => x < dsaQ).take 256

/-- The matrix Â of ρ, by rows. -/
def dsaMatrix (p : DsaSet) (rho : Bytes) : List (List Poly) :=
  (List.range p.rows).map fun r => (List.range p.cols).map fun c => dsaUniform (rho ++ toLe 1 c ++ toLe 1 r)

/-- Coefficients within η of 0 from half bytes. -/
def dsaShort (eta : Nat) (seed : Bytes) : Poly :=
  ((unpackBytes 4 1088 (shake256 seed 544)).filterMap fun x =>
    if eta = 2 then (if x < 15 then some (subMod dsaQ 2 (x % 5)) else none)
    else if x < 9 then some (subMod dsaQ 4 x) else none).take 256

def dsaShorts (p : DsaSet) (seed : Bytes) (first count : Nat) : List Poly :=
  (List.range count).map fun i => dsaShort p.eta (seed ++ toLe 2 (first + i))

/-- Coefficients `top − x` packed in `d` bits, and back. -/
def dsaPack (d top : Nat) (w : Poly) : Bytes := packBits d (32 * d) (w.map fun x => subMod dsaQ top x)
def dsaUnpack (d top : Nat) (b : Bytes) : Poly := (unpackBytes d 256 b).map fun x => subMod dsaQ top x

/-- The mask y of a counter. -/
def dsaMask (p : DsaSet) (seed : Bytes) (kappa : Nat) : List Poly :=
  (List.range p.cols).map fun r =>
    dsaUnpack (p.maskBits + 1) p.gamma1 (shake256 (seed ++ toLe 2 (kappa + r)) (32 * (p.maskBits + 1)))

/-- The first of the bytes that names a place up to `i`, and the bytes behind it. -/
def dsaPlace (i : Nat) : Bytes → Nat × Bytes
  | [] => (0, [])
  | b :: bs => if b.toNat ≤ i then (b.toNat, bs) else dsaPlace i bs

/-- The challenge: τ coefficients ±1, shuffled into place from the position 256 − τ on, by the bytes of a stream. -/
def dsaBallOf (tau : Nat) (h : Bytes) : Poly :=
  let signs := leNat (h.take 8)
  ((List.range tau).foldl (fun (st : Poly × Bytes) k =>
    let i := 256 - tau + k
    let x := dsaPlace i st.2
    let c := (st.1.set i (st.1.getD x.1 0)).set x.1 (if signs.testBit k then dsaQ - 1 else 1)
    (c, x.2)) (List.replicate 256 0, h.drop 8)).1

def dsaBall (p : DsaSet) (seed : Bytes) : Poly := dsaBallOf p.tau (shake256 seed 1096)

/-! ## Rounding -/

/-- The 13 low bits of a residue, centred, and what stands above them. -/
def dsaLow13 (x : Nat) : Nat := if x % 8192 ≤ 4096 then x % 8192 else dsaQ + x % 8192 - 8192
def dsaHigh13 (x : Nat) : Nat := (x + 4095) / 8192

/-- The multiple of 2γ₂ nearest to a residue, as its number, and the centred rest. -/
def DsaSet.high (p : DsaSet) (x : Nat) : Nat :=
  let h := (x % dsaQ + p.gamma2 - 1) / (2 * p.gamma2)
  if 2 * h = p.gap then 0 else h
def DsaSet.low (p : DsaSet) (x : Nat) : Nat := subMod dsaQ x (2 * p.gamma2 * p.high x)

/-- The high part with its hint applied. -/
def DsaSet.useHint (p : DsaSet) (hint : Nat) (x : Nat) : Nat :=
  let m := p.gap / 2
  let r := p.low x
  if hint = 0 then p.high x
  else if r != 0 && r ≤ p.gamma2 then (p.high x + 1) % m else (p.high x + m - 1) % m

def DsaSet.packHigh (p : DsaSet) (w : List Poly) : Bytes := w.flatMap fun f => packBits p.highBits (32 * p.highBits) f

/-- The positions of the ones of each hint polynomial, then how many there are up to each. -/
def DsaSet.packHints (p : DsaSet) (h : List Poly) : Bytes :=
  let ones (f : Poly) : List Nat := (List.range 256).filter fun i => f.getD i 0 == 1
  let counts := (List.range p.rows).map fun i => ((h.take (i + 1)).map fun f => (ones f).length).sum
  fit p.hints ((h.flatMap ones).map fun i => BitVec.ofNat 8 i) ++ counts.map fun n => BitVec.ofNat 8 n

def risingBytes : List Nat → Bool
  | a :: b :: xs => a < b && risingBytes (b :: xs)
  | _ => true

/-- The hint polynomials of an encoding, or none when it is not canonical. -/
def DsaSet.unpackHints (p : DsaSet) (b : Bytes) : Option (List Poly) :=
  let place (i : Nat) : Nat := ((b.drop i).headD 0).toNat
  let stop (i : Nat) : Nat := if i = 0 then 0 else place (p.hints + i - 1)
  let part (i : Nat) : List Nat := (List.range (stop (i + 1) - stop i)).map fun j => place (stop i + j)
  if (List.range p.rows).all (fun i => stop i ≤ stop (i + 1) && stop (i + 1) ≤ p.hints && risingBytes (part i)) &&
      allZero (slice b (stop p.rows) (p.hints - stop p.rows)) then
    some ((List.range p.rows).map fun i =>
      let ones := part i
      (List.range 256).map fun k => b2n (ones.contains k))
  else none

/-! ## Keys -/

/-- The parts of a private key: ρ, K, tr, s₁, s₂, t₀. -/
structure DsaKey where
  rho : Bytes
  key : Bytes
  tr : Bytes
  s1 : List Poly
  s2 : List Poly
  t0 : List Poly
  deriving DecidableEq, Repr

def dsaParse (p : DsaSet) (sk : Bytes) : DsaKey :=
  let n := 32 * p.etaBits
  let short (b : Bytes) : Poly := dsaUnpack p.etaBits p.eta b
  { rho := sk.take 32, key := slice sk 32 32, tr := slice sk 64 64,
    s1 := (pieces n p.cols (sk.drop 128)).map short,
    s2 := (pieces n p.rows (sk.drop (128 + n * p.cols))).map short,
    t0 := (pieces 416 p.rows (sk.drop (128 + n * (p.cols + p.rows)))).map (dsaUnpack 13 4096) }

/-- t = A s₁ + s₂. -/
def dsaT (p : DsaSet) (rho : Bytes) (s1 s2 : List Poly) : List Poly :=
  dsaPlus ((dsaRing.apply (dsaMatrix p rho) (s1.map dsaRing.forward)).map dsaRing.back) s2

def dsaPubOf (rho : Bytes) (t : List Poly) : Bytes := rho ++ t.flatMap fun f => packBits 10 320 (f.map dsaHigh13)

/-- The public key of a private one. -/
def mlDsaPub (v : Nat) (sk : Bytes) : Bytes :=
  let p := dsaSet v
  let k := dsaParse p sk
  dsaPubOf k.rho (dsaT p k.rho k.s1 k.s2)

/-- The private key of the seed ξ. -/
def mlDsaNew (v : Nat) (xi : Bytes) : Bytes :=
  let p := dsaSet v
  let h := shake256 (fit 32 xi ++ toLe 1 p.rows ++ toLe 1 p.cols) 128
  let rho := h.take 32
  let s1 := dsaShorts p (slice h 32 64) 0 p.cols
  let s2 := dsaShorts p (slice h 32 64) p.cols p.rows
  let t := dsaT p rho s1 s2
  rho ++ h.drop 96 ++ shake256 (dsaPubOf rho t) 64 ++ (s1 ++ s2).flatMap (dsaPack p.etaBits p.eta) ++
    t.flatMap fun f => dsaPack 13 4096 (f.map dsaLow13)

/-! ## Signing -/

/-- A transformed polynomial times each of a vector. -/
def dsaTimes (c : Poly) (v : List Poly) : List Poly := v.map fun f => dsaRing.back (dsaRing.times c f)

/-- One iteration of the rejection loop: the signature, or none when a bound is broken. The vectors of the key come
transformed. -/
def dsaAttempt (p : DsaSet) (rows : List (List Poly)) (k : DsaKey) (mu seed : Bytes) (kappa : Nat) : Option Bytes :=
  let y := dsaMask p seed kappa
  let w := (dsaRing.apply rows (y.map dsaRing.forward)).map dsaRing.back
  let ct := shake256 (mu ++ p.packHigh (w.map fun f => f.map p.high)) p.challenge
  let c := dsaRing.forward (dsaBall p ct)
  let z := dsaPlus y (dsaTimes c k.s1)
  let r := dsaMinus w (dsaTimes c k.s2)
  let ct0 := dsaTimes c k.t0
  let hints := (r.zip ct0).map fun x => (x.1.zip x.2).map fun a => b2n (p.high a.1 != p.high (addMod dsaQ a.1 a.2))
  if dsaNorm z < p.gamma1 - p.beta && dsaNorm (r.map fun f => f.map p.low) < p.gamma2 - p.beta &&
      dsaNorm ct0 < p.gamma2 && (hints.map List.sum).sum ≤ p.hints then
    some (ct ++ z.flatMap (dsaPack (p.maskBits + 1) p.gamma1) ++ p.packHints hints)
  else none

/-- The first iteration that succeeds, with its number counted from 1; FIPS 204 lets a bound of 814 stand. -/
def dsaLoop (p : DsaSet) (rows : List (List Poly)) (k : DsaKey) (mu seed : Bytes) : Nat → Nat → Bytes × Nat
  | 0, n => ([], n)
  | f + 1, n =>
    match dsaAttempt p rows k mu seed (p.cols * n) with
    | some sig => (sig, n + 1)
    | none => dsaLoop p rows k mu seed f (n + 1)

/-- Signature and iterations for a message representative M′ and rnd, with the key's matrix given (R158, R160, R170). -/
def mlDsaSignWith (v : Nat) (rows : List (List Poly)) (sk msg rnd : Bytes) : Bytes × Nat :=
  let p := dsaSet v
  let k := dsaParse p sk
  let mu := shake256 (k.tr ++ msg) 64
  let up (xs : List Poly) : List Poly := xs.map dsaRing.forward
  dsaLoop p rows { k with s1 := up k.s1, s2 := up k.s2, t0 := up k.t0 } mu (shake256 (k.key ++ fit 32 rnd ++ mu) 64) 814 0

/-! ## Verification -/

def mlDsaAccepts (v : Nat) (pk msg sig : Bytes) : Bool :=
  let p := dsaSet v
  let n := 32 * (p.maskBits + 1)
  let ct := sig.take p.challenge
  let z := (pieces n p.cols (sig.drop p.challenge)).map (dsaUnpack (p.maskBits + 1) p.gamma1)
  match p.unpackHints (sig.drop (p.challenge + n * p.cols)) with
  | none => false
  | some h =>
    let mu := shake256 (shake256 pk 64 ++ msg) 64
    let c := dsaRing.forward (dsaBall p ct)
    let t1 := (pieces 320 p.rows (pk.drop 32)).map fun b =>
      dsaRing.times c (dsaRing.forward ((unpackBytes 10 256 b).map fun x => x * 8192 % dsaQ))
    let az := dsaRing.apply (dsaMatrix p (pk.take 32)) (z.map dsaRing.forward)
    let w := (dsaMinus az t1).map dsaRing.back
    let high := (w.zip h).map fun x => (x.1.zip x.2).map fun a => p.useHint a.2 a.1
    dsaNorm z < p.gamma1 - p.beta && ct == shake256 (mu ++ p.packHigh high) p.challenge

/-- The matrix of a private or public key: both begin with ρ. -/
def dsaKeyMatrix (v : Nat) (key : Bytes) : List (List Poly) := dsaMatrix (dsaSet v) (key.take 32)

end Sys2Proof.Machine
end

