-- ==== Sys2Proof/Machine/LevOps.lean ====
section
/-! DEFINITION. The Levee's shared operations: the sources' configuration (R406, R408), counting and tripping (R409,
R410), alarm sets (R412), the two logs (R418) and the battery rules (R415, R416). -/

namespace Sys2Proof.Machine

open Sys2Proof

/-! ## Configuration -/

def aLog : Nat := 0x1
def aEvent : Nat := 0x2
def aAlarm : Nat := 0x4
def aThrottle : Nat := 0x8
def aClearKeys : Nat := 0x10
def aFence : Nat := 0x20
def aClearAll : Nat := 0x40
def aHalt : Nat := 0x80
def aReset : Nat := 0x100

/-- Default actions, N and W of R406. -/
def leveeDefault (i : Nat) : LevCfg :=
  let c (a n w : Nat) : LevCfg := { actions := a, alarmSel := 1, countN := n, windowMs := w, bistH := 0 }
  if i ≤ 5 then c 7 4 1000
  else if i ≤ 7 then c 3 1 1
  else if i ≤ 9 then c 7 4 1000
  else if i = 10 then c 15 2 100
  else if i = 11 then c 3 2 100
  else if i = 12 then c (7 + 0x10 + 0x20) 1 1
  else if i ≤ 14 then c (7 + 0x40 + 0x80) 1 1
  else if i ≤ 19 then c 0 1 1
  else if i = 20 then c (7 + 0x10 + 0x20) 2 10
  else if i = 21 then c (7 + 0x10 + 0x100) 1 1
  else if i ≤ 23 then c 3 1 1
  else if i = 24 then c 11 16 1000
  else c 3 8 86400000

/-- The sources the always-on domain watches too. -/
def isBattery (i : Nat) : Bool := i == 7 || i == 10 || i == 11 || (14 ≤ i && i ≤ 19)

/-- Sources whose condition does not persist (R410). -/
def isTransient (i : Nat) : Bool := i == 9 || (20 ≤ i && i ≤ 23) || i == 25

/-- A source's configuration of the committed stream: its LEVEE record, or its default (R406, R408). -/
def Setup.levCfg (c : Setup) (i : Nat) : LevCfg :=
  match c.levee.find? fun r => r.source == i with
  | some r => { actions := r.actions, alarmSel := r.alarmSel, countN := r.countN, windowMs := r.windowMs,
                bistH := r.bistPeriodH }
  | none => leveeDefault i

/-- A battery source's configuration on the always-on domain (R408). -/
def Ao.levCfg (a : Ao) (i : Nat) : LevCfg :=
  match a.table with
  | some t => if isBattery i then tget (leveeDefault i) t i else leveeDefault i
  | none => leveeDefault i

/-- The configuration in force (R408). A test schedule is counted from the full COMMIT, so before it there is none
(R414). -/
def State.levCfg (s : State) (i : Nat) : LevCfg :=
  if s.wsh.configured then s.cfg.levCfg i else { s.ao.levCfg i with bistH := 0 }

def State.levSrc (s : State) (i : Nat) : LevSrc := tget LevSrc.reset s.lev.src i
def State.setLevSrc (s : State) (i : Nat) (x : LevSrc) : State :=
  { s with lev := { s.lev with src := tset s.lev.src i x } }

def Lev.latchedMap (l : Lev) : Nat := l.src.foldl (fun m x => if x.2.latched then m ||| 2 ^ x.1 else m) 0

/-- THROTTLE is in force (R411). -/
def Lev.throttling (l : Lev) : Bool := l.src.any fun x => x.2.latched && x.2.throttle

/-- The asserted ALARM_OUT pins (R411, R416). -/
def State.alarmOut (s : State) : Nat :=
  s.lev.src.foldl (fun m x => if x.2.latched && x.2.alarm then m ||| (s.levCfg x.1).alarmSel else m) s.ao.alarmPins

/-! ## The logs (R418) -/

/-- Appends an entry to the ring of 1,024. -/
def Lev.put (l : Lev) (e : LogEntry) : Lev :=
  let xs := l.log ++ [e]
  { l with log := xs.drop (xs.length - 1024), logTotal := l.logTotal + 1 }

/-- Appends to the always-on log, which keeps its oldest 64 entries. -/
def Ao.put (a : Ao) (e : LogEntry) : Ao :=
  if a.log.length < 64 then { a with log := a.log ++ [e] } else { a with logLost := satAdd 0xFFFF a.logLost 1 }

/-- One entry for a set of union `u`: THROTTLE or a higher action puts it into the always-on log too. -/
def State.levLog (s : State) (e : LogEntry) (u : Nat) : State :=
  let s := { s with lev := s.lev.put e }
  if aThrottle ≤ u then { s with ao := s.ao.put e } else s

/-! ## Counting (R409, R410) -/

/-- One event of a source: `none` when it only counts, `some n` when it trips with `n` events in its window. -/
def LevSrc.count1 (x : LevSrc) (c : LevCfg) (now : Nat) : LevSrc × Option Nat :=
  let fresh : Bool := match x.openAt with
    | some t => decide (1000000 * c.windowMs ≤ now - t)
    | none => true
  let y := if fresh then { x with count := 0, openAt := some now } else x
  let y := { y with count := y.count + 1 }
  if c.countN ≤ y.count then ({ y with latched := true, openAt := none }, some y.count) else (y, none)

def detBits (a b : Bool) : Nat := b2n a + 2 * b2n b

/-- A trip joins the open alarm set, or opens a gathering interval of 1 µs (R412). -/
def State.joinSet (s : State) (t : TripRec) (acts : Nat) : State :=
  match s.lev.gather with
  | some g => { s with lev := { s.lev with
      gather := some { g with trips := g.trips ++ [t], union := g.union ||| acts } } }
  | none => { s with lev := { s.lev with
      gather := some { no := 0, time := s.stamp, trips := [t], union := acts }, gatherAt := s.now } }

/-- Counts one event of a source that is enabled and not latched (R408 to R410). -/
def State.levCount (s : State) (i det : Nat) : State :=
  let c := s.levCfg i
  let x := s.levSrc i
  if c.actions == 0 || x.latched || !s.lev.watching then s
  else
    let r := x.count1 c s.now
    let s := s.setLevSrc i r.1
    match r.2 with
    | none => s
    | some n => (s.joinSet { source := i, det := det, count := n } c.actions).alertPin

/-- A detector of a source trips (R407, R410). A second detector that agrees adds no event; a transient source's
detector pair is the pair of its last event. -/
def State.detectorTrip (s : State) (i : Nat) (detB : Bool) : State :=
  let x := s.levSrc i
  let own := if detB then x.detB else x.detA
  let other := if detB then x.detA else x.detB
  let set (y : LevSrc) : LevSrc := if detB then { y with detB := true } else { y with detA := true }
  if isTransient i then
    if other && !own && !x.disagree then s.setLevSrc i (set x)
    else
      let s := s.setLevSrc i (set { x with detA := false, detB := false, disagree := false })
      s.levCount i (detBits (!detB) detB)
  else if own then s
  else if other then s.setLevSrc i (set x)
  else (s.setLevSrc i (set x)).levCount i (detBits (!detB) detB)

/-- The two detectors have differed for more than 10 µs: source 25 counts, or source 21 for source 25's own copies
(R407). -/
def State.disagreement (s : State) (i : Nat) : State :=
  let x := s.levSrc i
  if x.detA == x.detB || x.disagree then s
  else (s.setLevSrc i { x with disagree := true }).levCount (if i = 25 then 21 else 25) 3

/-! ## Alarm sets (R412) -/

/-- LARGE class runs FENCE in place of RESET (R53, R408). -/
def classUnion (large : Bool) (u : Nat) : Nat := if large && bitOf u 8 then (u - aReset) ||| aFence else u

/-- The ranks a union queues, ascending; CLEAR_ALL includes CLEAR_VOLATILE_KEYS (R411). -/
def unionRanks (u : Nat) : List Nat := (bitList u 9).filter fun r => !(r == 4 && bitOf u 6)

/-- An action joins the queue in rank order; one that is queued already serves the later set too (R412). -/
def joinQueue (rank : Nat) (g : AlarmSet) : List LevAct → List LevAct
  | [] => [{ rank := rank, sets := [g] }]
  | a :: q =>
    if a.rank = rank then { a with sets := a.sets ++ [g] } :: q
    else if rank < a.rank then { rank := rank, sets := [g] } :: a :: q
    else a :: joinQueue rank g q

/-- The ALARM message's payload: source device, Levee source, actions, cluster time (R380, log entry 16). -/
def alarmPayload (dev : Nat) (g : AlarmSet) : Bytes :=
  toLe 2 dev ++ toLe 1 ((g.trips.map TripRec.source).headD 0) ++ toLe 1 0 ++ toLe 2 g.union ++ toLe 2 0 ++ toLe 8 g.time

/-- The gathering interval closes: the set is numbered, its actions queue in rank order, and a set with EVENT or a
higher action floods one ALARM and asks for a snapshot (R412). DEDUCED (log entry 99): the one ALARM of a set that holds
HALT is the one that HALT floods (R411). -/
def State.closeGather (s : State) : State :=
  match s.lev.gather with
  | none => s
  | some g =>
    let g := { g with no := (s.lev.setNo + 1) % 256, union := classUnion s.large g.union }
    let s := { s with lev := { s.lev with
      gather := none, setNo := s.lev.setNo + 1, sets := satAdd 255 s.lev.sets 1,
      queue := (unionRanks g.union).foldl (fun q r => joinQueue r g q) s.lev.queue } }
    let s := if aEvent ≤ g.union && !bitOf g.union 7 then s.flood 0x02 (alarmPayload s.devId g) else s
    if aEvent ≤ g.union then s.requestCapture .levee else s

/-! ## The backup cell (R415, R416) -/

def Ao.batSrc (a : Ao) (i : Nat) : LevSrc := tget LevSrc.reset a.battery i

/-- One source's sample: the events it and source 25 count, as trips of the sample's set. -/
def Ao.sampleOne (a : Ao) (i : Nat) (da db : Bool) (now : Nat) : Ao × List TripRec :=
  let c := a.levCfg i
  if c.actions == 0 then (a, [])
  else
    let x := a.batSrc i
    let y := { x with detA := da, detB := db, disagree := da != db }
    let r := if (da || db) && !(x.detA || x.detB) && !x.latched then y.count1 c now else (y, none)
    let a := { a with battery := tset a.battery i r.1 }
    let t := match r.2 with | some n => [{ source := i, det := detBits da db, count := n : TripRec }] | none => []
    if da != db && !x.disagree then
      let z := a.batSrc 25
      if z.latched then (a, t)
      else
        let r := z.count1 (a.levCfg 25) now
        ({ a with battery := tset a.battery 25 r.1 },
          t ++ match r.2 with | some n => [{ source := 25, det := 3, count := n : TripRec }] | none => [])
    else (a, t)

/-- What a battery set runs: LOG, ALARM_OUT and the zeroisation of the cover key; all else is pending (R416). The copy
is wrapped before the zeroisation. -/
def Ao.runSet (a : Ao) (trips : List TripRec) (stamp no : Nat) : Ao :=
  let u0 := trips.foldl (fun u t => u ||| (a.levCfg t.source).actions) 0
  let u := classUnion a.large u0
  let e (t : TripRec) : LogEntry :=
    { time := stamp, source := t.source, kind := 4, actions := u, det := t.det, set := no, count := t.count }
  let a := if bitOf u 0 then trips.foldl (fun a t => a.put (e t)) a else a
  let a := if bitOf u 2 then
      { a with alarmPins := trips.foldl (fun m t => m ||| (a.levCfg t.source).alarmSel) a.alarmPins }
    else a
  let a := { a with summary := a.summary ||| (u - u % 8 + (u &&& aEvent)) }
  let a := match a.coverKey with | some k => { a with copy := some (k, a.summary) } | none => a
  if bitOf u 6 then { a with coverKey := none, zeroised := true } else a

/-- One sample of the battery sources (R415). -/
def State.batterySample (s : State) (da db : Nat) : State :=
  let r := ((List.range 26).filter isBattery).foldl (fun (p : Ao × List TripRec) i =>
    let q := p.1.sampleOne i (bitOf da i) (bitOf db i) (s.ao.base + s.now)
    (q.1, p.2 ++ q.2)) (s.ao, [])
  if r.2.isEmpty then { s with ao := r.1 }
  else
    { s with ao := r.1.runSet r.2 (s.ao.base + s.now) ((s.lev.setNo + 1) % 256),
             lev := { s.lev with setNo := s.lev.setNo + 1 } }

end Sys2Proof.Machine
end

