-- ==== Sys2Proof/Machine/Random.lean ====
section
/-! DEFINITION. The random subsystem: seeds, DRBG instances, mask expanders, blinding buffers, random-data windows, and
the Spring's failure and recovery (R265 to R286). -/

namespace Sys2Proof.Machine

open Sys2Proof

/-- The number of the device DRBG (R286). -/
def devInst : Nat := 64

def drbgDue : Nat := 2 ^ 20
def drbgLimit : Nat := 2 ^ 32
def expDue : Nat := 2 ^ 16
def expLimit : Nat := 2 ^ 24

/-- SPR_FAIL (R286). -/
def Spr.failWord (x : Spr) : Nat := x.failTotal * 2 ^ 24 + x.failTest * 16 + x.failSource

/-! ## Draws -/

/-- May an instance serve a generate request (R272, R278, R280)? -/
def State.drbgOpen (s : State) (i : Nat) : Bool :=
  s.spr.st == .running && (s.drbg i).st == .ready && (s.drbg i).count < drbgLimit

/-- Queues a reseed of an instance that waits for none yet (R269, R272). -/
def State.queueReseed (s : State) (i : Nat) : State :=
  if s.spr.waiting.any fun w => w.inst == i && w.job.isNone then s
  else { s with spr := { s.spr with waiting := s.spr.waiting ++ [{ inst := i, extra := [], job := none }] } }

/-- One generate request of `n` bytes (R271, R272): the bytes, the count, the due reseed and the block. -/
def State.generate (s : State) (i n : Nat) : Bytes × State :=
  let d := s.drbg i
  let r := drbgGen d.key d.v n
  let c := d.count + 1
  let s := s.setDrbg i { d with key := r.2.1, v := r.2.2, count := c, due := d.due || drbgDue ≤ c }
  let s := if drbgDue ≤ c && !d.due then s.queueReseed i else s
  let s := if c = drbgLimit then
      (if i = devInst then s.raise 0x014 0 else s.raiseReach i 2 (reachCause 1 0 0 0)) else s
  (r.1, s)

/-! ## Seeds -/

/-- The place of a waiting request in R269's order: class, then the higher count, then the lower number. -/
def State.seedRank (s : State) (w : SeedReq) : Nat :=
  let d := s.drbg w.inst
  let cls := if w.inst = devInst then 0 else if s.isolated w.inst && d.st == .ready then 1
    else if d.st == .awaitingSeed then 2 else 3
  (cls * 2 ^ 40 + (2 ^ 33 - min d.count (2 ^ 33))) * 128 + w.inst

def State.firstSeedReq (s : State) (ws : List SeedReq) : Option SeedReq :=
  ws.foldl (fun best w =>
    match best with
    | none => some w
    | some b => if s.seedRank w < s.seedRank b then some w else some b) none

/-- A TIMING_ISOLATED reach with FRAMED tiles draws only in the slots it holds (R89, R269), and its DRBG is reseeded only
there. -/
def State.drawTurn (s : State) (r : Nat) : Bool :=
  let fs := s.cfg.tiles.filter fun t => t.reach == r && t.mode == .framed
  !s.isolated r || fs.isEmpty || fs.any fun t => bitOf t.slotMask s.weir.slot

def removeFirst {α : Type} [DecidableEq α] (x : α) : List α → List α
  | [] => []
  | y :: ys => if y = x then ys else y :: removeFirst x ys

/-- Instantiation from one seed and 128 bits of a second (R270). -/
def State.instantiate (s : State) (i : Nat) (seed nonce : Bytes) : State :=
  let d := s.drbg i
  let kv := drbgInit seed (nonce.take 16) d.pers
  s.setDrbg i { d with st := .ready, key := kv.1, v := kv.2, count := 0, due := false }

/-- A reseed with one seed and the additional input of a RESEED job (R270, R272). -/
def State.reseed (s : State) (i : Nat) (seed extra : Bytes) : State :=
  let d := s.drbg i
  let kv := drbgReseedKv d.key d.v seed extra
  s.setDrbg i { d with key := kv.1, v := kv.2, count := 0, due := false, reseeds := satAdd 0xFFFFFFFF d.reseeds 1 }

/-- The frame now; none where none runs (R136). -/
def State.frameNo (s : State) : Option Nat :=
  if s.weir.frameRun && s.cfg.device.frameUs != 0 then some (s.slotNo / 64) else none

/-- Has the reach's DRBG capacity reserved to it (R89, R269, R286)? -/
def State.ownSeed (s : State) (i : Nat) : Bool := i < 64 && s.isolated i && (s.drbg i).st == .ready

/-- Has the reach its reserved seed of this frame still (R269)? -/
def State.seedKept (s : State) (i : Nat) : Bool :=
  s.ownSeed i && (s.frameNo.isNone || (s.drbg i).seedFrame != s.frameNo)

/-- Seeds of the queue that other requests leave alone (R269). -/
def State.keptSeeds (s : State) : Nat := ((List.range 64).filter s.seedKept).length

/-- The reserved seed of this frame is used. -/
def State.useFrame (s : State) (i : Nat) : State := s.setDrbg i { s.drbg i with seedFrame := s.frameNo }

/-- The seeds a request may take now: a TIMING_ISOLATED reach's reseed its reserved one, of which the lower reaches have theirs
first while the queue is short; every other what is not reserved. -/
def State.seedsFor (s : State) (w : SeedReq) : List Bytes :=
  if s.ownSeed w.inst then
    (if s.seedKept w.inst && ((List.range w.inst).filter s.seedKept).length < s.spr.seeds.length then s.spr.seeds.take 1 else [])
  else s.spr.seeds.take (s.spr.seeds.length - s.keptSeeds)

/-- May a waiting request be served now: there are seeds for it, and a TIMING_ISOLATED reach's reseed falls into a slot the
reach holds (R89, R269)? -/
def State.servable (s : State) (w : SeedReq) : Bool :=
  (s.drbg w.inst).st == .uninstantiated || (!(s.seedsFor w).isEmpty && (!s.ownSeed w.inst || s.drawTurn w.inst))

/-- Serves the first of these waiting requests from the seed queue, if it holds the seeds the request takes (R269,
R270). While the Spring does not run none is served (R280, R283). -/
def State.serveSeedOf (s : State) (ws : List SeedReq) : State :=
  match s.firstSeedReq (ws.filter fun w => s.servable w && s.spr.st == .running) with
  | none => s
  | some w =>
    let drop (n : Nat) (s : State) : State :=
      { s with spr := { s.spr with seeds := s.spr.seeds.drop n, waiting := removeFirst w s.spr.waiting } }
    match (s.drbg w.inst).st, s.seedsFor w with
    | .awaitingSeed, a :: b :: _ => (drop 2 s).instantiate w.inst a b
    | .ready, a :: _ =>
      let s := ((drop 1 s).reseed w.inst a w.extra).useFrame w.inst
      match w.job with
      | some id => s.endJob id .ok 0
      | none => s
    | .uninstantiated, _ => drop 0 s
    | _, _ => s

def State.serveSeed (s : State) : State := s.serveSeedOf s.spr.waiting

/-- R65, R270: a new reach's DRBG is instantiated from the seed queue. -/
def State.startDrbg (s : State) (i : Nat) (pers : Bytes) : State :=
  let s := s.setDrbg i { Drbg.reset with st := .awaitingSeed, pers := pers }
  State.serveSeed { s with spr := { s.spr with
    waiting := s.spr.waiting ++ [{ inst := i, extra := [], job := none }] } }

/-- Draws the XTS key of a place from the device DRBG (R65, R359); while that cannot serve, the request waits (R280). -/
def State.drawRegionKey (s : State) (id : Nat) : State :=
  if s.drbgOpen devInst then
    let r := s.generate devInst 64
    { r.2 with hbm := { r.2.hbm with keys := tset r.2.hbm.keys id r.1 } }
  else { s with hbm := { s.hbm with
    keys := s.hbm.keys.filter fun x => x.1 != id, keyDue := s.hbm.keyDue.filter (· != id) ++ [id] } }

/-- The key draws that waited for the Spring. -/
def State.drawDue (s : State) : State :=
  s.hbm.keyDue.foldl State.drawRegionKey { s with hbm := { s.hbm with keyDue := [] } }

/-- Removal of a reach's DRBG (R85). -/
def State.stopDrbg (s : State) (i : Nat) : State :=
  let s := s.setDrbg i Drbg.reset
  { s with spr := { s.spr with waiting := s.spr.waiting.filter (·.inst != i) } }

def State.devicePers (s : State) : Bytes := ascii "LX9-DEVICE" ++ toLe 8 s.fuse.deviceId

/-! ## Mask expanders and blinding buffers -/

def State.exp (s : State) (e : Nat) : Expander := tget Expander.reset s.spr.exp e
def State.setExp (s : State) (e : Nat) (x : Expander) : State :=
  { s with spr := { s.spr with exp := tset s.spr.exp e x } }

/-- The expander of a tile: PT[n] is n, HT[n] is 128 + n. -/
def expOf (cls : NodeClass) (i : Nat) : Option Nat :=
  match cls with
  | .pt => some i
  | .ht => some (128 + i)
  | _ => none

/-- The records of the expander's tile. -/
def expUnits (e : Nat) : List Nat := if e < 128 then [tkey .pt e] else unitKeys .ht (e - 128)

/-- Is the expander's tile FRAMED (R274)? -/
def State.expFramed (s : State) (e : Nat) : Bool :=
  (if e < 128 then s.tileModeNow .pt e else s.tileModeNow .ht (e - 128)).1 == .framed

/-- A stalled engine goes on (R217). -/
def State.resume (s : State) (k : Nat) : State := if (s.tile k).throttled then s.endStall k else s

/-- One reseed from the device DRBG (R271, R273): the blocks start again and a throttled tile resumes (R217). -/
def State.reseedExp (s : State) (e : Nat) : State :=
  if s.drbgOpen devInst then
    let g := s.generate devInst 32
    let s := g.2
    let x := s.exp e
    let s := s.setExp e { x with sponge := Config.expanderAbsorb x.sponge g.1 e x.reseeds, seeded := true, blocks := 0,
                                 due := false, throttled := false, reseeds := x.reseeds + 1,
                                 slot := some s.slotNo }
    (expUnits e).foldl State.resume s
  else s

/-- An expander that passes to another reach, or whose tile is reset, is cleared before it is seeded again (R227, R274,
R428). -/
def State.passExp (s : State) (e : Nat) : State :=
  (s.setExp e { s.exp e with sponge := [], seeded := false, blocks := 0, due := true }).reseedExp e

/-- A tile that starts a node of another reach than its last one reseeds first (R218, R274); where the device DRBG cannot
serve, it draws nothing until it can. -/
def State.turnExp (s : State) (e : Nat) : State :=
  if s.drbgOpen devInst then s.reseedExp e else s.setExp e { s.exp e with seeded := false, due := true }

/-- The engine stops for want of randomness (R217, R236, R258): its stall begins, or goes on with the cycle of this word. -/
def State.stall (s : State) (k : Nat) : State :=
  let t := s.tile k
  s.setTile k { t with throttled := true, throttleAt := s.now,
                       throttleCyc := satAdd 0xFFFFFFFF (s.stallCycles k) 1 }

/-- The first throttle raises the basin's event (R274, R453). -/
def State.throttleTile (s : State) (e k : Nat) : State :=
  let i := keyIndex k
  let s := if (s.exp e).throttled then s
    else if e < 128 then s.raiseBasin (basinOf .pt i) 1 i else s.raiseBasin (basinOf .ht i) 2 i
  (s.setExp e { s.exp e with throttled := true }).stall k

/-! ### Blocks (R273) -/

/-- One block: a permutation, of which the rate part goes out. -/
def Expander.block (x : Expander) : Bytes × Expander :=
  let st := keccak400 (fit 50 x.sponge)
  (st.take 32, { x with sponge := st, blocks := x.blocks + 1, due := x.due || expDue ≤ x.blocks + 1 })

def Expander.take : Nat → Expander → Bytes × Expander
  | 0, x => ([], x)
  | n + 1, x =>
    let a := x.block
    let b := Expander.take n a.2
    (a.1 ++ b.1, b.2)

/-- Blocks left before the limit. -/
def Expander.left (x : Expander) : Nat := if x.seeded then expLimit - x.blocks else 0

/-- Takes `n` blocks for the engine `k`, or throttles it and takes none (R217, R236, R273). -/
def State.takeBlocks (s : State) (e k n : Nat) : Option Bytes × State :=
  if (s.exp e).left < n then (none, s.throttleTile e k)
  else
    let r := (s.exp e).take n
    (some r.1, (s.setExp e r.2).resume k)

def State.blind (s : State) (i : Nat) : Bytes := tget [] s.spr.blind i
def State.setBlind (s : State) (i : Nat) (b : Bytes) : State :=
  { s with spr := { s.spr with blind := tset s.spr.blind i b } }

/-- A refill of a blinding buffer that holds 256 bytes or fewer (R275). -/
def State.refillBlind (s : State) (i : Nat) : State :=
  if s.drbgOpen devInst && (s.blind i).length ≤ 256 then
    let g := s.generate devInst 256
    (g.2.setBlind i (g.2.blind i ++ g.1)).resume (tkey .bnu i)
  else s

/-- Takes `n` 64-bit blinding words, or stalls the unit when the buffer holds fewer (R258, R275). -/
def State.takeWords (s : State) (i n : Nat) : Option Bytes × State :=
  let b := s.blind i
  let k := tkey .bnu i
  if b.length < 8 * n then
    (none, (if (s.tile k).throttled then s else s.raiseBasin (basinOf .bnu i) 3 i).stall k)
  else (some (b.take (8 * n)), (s.setBlind i (b.drop (8 * n))).resume k)

/-- Expander or blinding buffer of a unit: cleared and filled anew (R227, R275, R428). -/
def State.clearRandom (s : State) (c : NodeClass) (i : Nat) : State :=
  match expOf c i with
  | some e => s.passExp e
  | none => if c = .bnu then (s.setBlind i []).refillBlind i else s

/-! ## Failure (R280, R282) -/

/-- A node that waits for randomness not yet on its way. -/
def NodeSt.awaitsEntropy : NodeSt → Bool
  | .entropyWait _ => true
  | .listWait e _ _ => e
  | _ => false

/-- A waiting node whose request has not been served. -/
def Node.awaits (n : Node) : Bool := n.st.awaitsEntropy && !n.served

/-- The Spring has failed while the job waits: fallback, or ENTROPY_FAILED (R141). A request served before the failure runs
to its end (R280). -/
def State.entropyLost (s : State) (j : Job) : State :=
  if j.ended || ((j.nodes.all fun n => !n.awaits) && !(s.spr.waiting.any fun w => w.job == some j.id)) then s
  else if s.mayFallBack j then
    (s.setJob { j with
      nodes := j.nodes.map fun n => if n.awaits then { n with st := .done } else n,
      entropy := .fallback }).settleNodes j.id
  else s.failJob j.id .entropyFailed 0

/-- A health-test failure or a failed block reset (R280 to R282). -/
def State.springFail (s : State) (source test : Nat) : State :=
  let n := s.spr.fails24 + 1
  let dead : Bool := decide (3 ≤ n)
  let s := { s with spr := { s.spr with
    st := if dead then .dead else .failed, fails24 := n, failTotal := satAdd 255 s.spr.failTotal 1, failTest := test,
    failSource := source, afterFailure := true, seeds := [], sources := s.spr.sources.map Source.fresh,
    fifo := s.spr.fifo.map fun (x : Nat × RndFifo) => (x.1, { x.2 with bytes := [] }) } }
  let s := s.raise 0x010 s.spr.failWord
  let s := if dead then s.raise 0x012 0 else s
  let s := s.levCount 23 3
  let js := s.jobs.filter fun j =>
    (j.nodes.any fun n => n.st.awaitsEntropy) || s.spr.waiting.any fun w => w.job == some j.id
  js.foldl State.entropyLost s

def Spr.source (x : Spr) (i : Nat) : Source := x.sources.getD i Source.off
def Spr.setSource (x : Spr) (i : Nat) (y : Source) : Spr := { x with sources := x.sources.set i y }

/-- A source fails while the start-up test of a block reset runs: it is for that reset to exclude it (R281, R283). -/
def State.startFailed (s : State) (i : Nat) : State :=
  { s with spr := s.spr.setSource i { s.spr.source i with bad := true } }

/-- R280: counted once; in FAILED and DEAD, and before the first seed, there is nothing to stop. In RESETTING the start-up test
runs (DESIGN CHOICE, log entry 122: what follows it is one instant). -/
def execSpringHealthFail (source test : Nat) (s : State) : Host.Outcome State Fault Refusal :=
  engineCmd s (if test = 0 ∨ 3 < test then s
    else if s.spr.st = .resetting then s.startFailed source
    else if s.spr.st = .running ∧ (s.spr.source source).inUse then s.springFail source test else s)

/-! ## Health tests and conditioner (R267, R268) -/

/-- The raw bits of some bytes, oldest first (R286). -/
def rawBitsOf (b : Bytes) : List Bool := b.flatMap fun x => (List.range 8).map fun i => x.getLsbD i

/-- The run of identical bits after these ones, and whether one has reached 61. -/
def runAfter (last : Bool) (run : Nat) (bits : List Bool) : Bool × Nat × Bool :=
  bits.foldl (fun x b =>
    let n := if x.2.1 ≠ 0 && x.1 == b then x.2.1 + 1 else 1
    (b, n, x.2.2 || decide (61 ≤ n))) (last, run, false)

/-- Adaptive proportion: the window's first bit value occurs 840 times. -/
def proportionFails (bits : List Bool) : Bool := decide (840 ≤ (bits.filter fun b => b == bits.headD false).length)

/-- Lag-1 autocorrelation over 4,096 bits: |T − E| > 320, both sides times 4,096. -/
def lagFails (bits : List Bool) : Bool :=
  let t := ((bits.zip (bits.drop 1)).filter fun p => p.1 != p.2).length * 4096
  let n := (bits.filter id).length
  let e := 2 * n * (4096 - n)
  decide (320 * 4096 < t - e + (e - t))

/-- What the tests and the conditioner make of 1,024 raw bits of a source: the test that fails or 0, the source after them, and
the outputs whose windows have all closed. The proportion's window is these bits; the autocorrelation's is four such blocks
(DESIGN CHOICE, log entry 122). -/
structure Heard where
  test : Nat
  src : Source
  outs : List Bytes
  deriving DecidableEq, Repr

def Source.hear (x : Source) (raw : Bytes) : Heard :=
  let bits := rawBitsOf raw
  let r := runAfter x.last x.run bits
  let window := x.window ++ raw
  let held := x.held ++ [sha3_256 raw]
  let full : Bool := decide (512 ≤ window.length)
  let test := if r.2.2 then 1 else if proportionFails bits then 2 else if full && lagFails (rawBitsOf window) then 3 else 0
  let x := { x with last := r.1, run := r.2.1, raw := BitVec.ofNat 32 (leNat (raw.drop (raw.length - 4))) }
  if test ≠ 0 then { test := test, src := x.fresh, outs := [] }
  else if full then { test := 0, src := { x with window := [], held := [] }, outs := held }
  else { test := 0, src := { x with window := window, held := held }, outs := [] }

/-- The next source in use. -/
def nextSourceFrom (xs : List Source) : Nat → Nat → Nat
  | 0, i => i
  | n + 1, i => if (xs.getD i Source.off).inUse then i else nextSourceFrom xs n ((i + 1) % 4)

/-- The source whose raw bits the conditioner takes now. -/
def Spr.turn (x : Spr) : Nat := nextSourceFrom x.sources 4 x.nextSource

/-- The subsystem after a source has given a block. -/
def Spr.heard (x : Spr) (i : Nat) (h : Heard) : Spr := { x.setSource i h.src with nextSource := (i + 1) % 4 }

/-! ## Block reset (R281) -/

/-- SPR_CMD RESET, or an automatic try: accepted when no transfer remains and the Spring is neither DEAD nor under reset
(R283). A pattern stays in force until a reset with MODE 0 (R284). -/
def State.springReset (s : State) (auto : Bool) : State :=
  if s.spr.transfers = 0 ∧ s.rst.fenced = false ∧ s.spr.st ≠ .dead ∧ s.spr.st ≠ .resetting then
    { s with spr := { s.spr with
      st := .resetting, startAt := s.now, done := auto && s.spr.done,
      result := if auto then s.spr.result else Status.ok.code,
      sources := s.spr.sources.map fun (x : Source) => { x.fresh with bad := false },
      pattern := if s.spr.testMode = 2 then true else if s.spr.testMode = 0 then false else s.spr.pattern, lfsr := 1 } }
  else if auto then s
  else { s with spr := { s.spr with result := Status.busy.code } }

def execSpringBlockReset (auto : Bool) (s : State) : Host.Outcome State Fault Refusal :=
  if auto then engineCmd s (if s.spr.autoReset && s.spr.st == .failed then s.springReset true else s)
  else hostCmd s (s.springReset false)

/-- Raw bits as the chain takes them: the pattern stands in for the sources while it is in force (R284). -/
def State.rawBits (s : State) (raw : Bytes) : Bytes × State :=
  if s.spr.pattern then
    (Config.patternBytes s.spr.lfsr raw.length,
      { s with spr := { s.spr with lfsr := Config.patternNext s.spr.lfsr raw.length } })
  else (raw, s)

/-- The sources as a start-up test leaves them: rates, and those that failed it excluded. -/
def startSources (rates : List Nat) (failed : Nat) : List Source :=
  (List.range 4).map fun i => { Source.off with inUse := !bitOf failed i, excluded := bitOf failed i, rate := rates.getD i 0 }

/-- The raw bits that follow a start-up test, taken from the sources in turn (R268): the subsystem after them, the outputs whose
windows have closed, and the sources of which a block failed a test. -/
def Spr.startRun (x : Spr) (raw : Bytes) : Spr × List Bytes × Nat :=
  ((blocksOf 128 raw).filter (·.length == 128)).foldl (fun r b =>
    let i := r.1.turn
    let h := (r.1.source i).hear b
    (r.1.heard i h, r.2.1 ++ h.outs, if h.test = 0 then r.2.2 else r.2.2 ||| 2 ^ i)) (x, [], 0)

/-- What a start gives: the sources that fail it, and the subsystem with its outputs in the seed queue's order. -/
structure Start where
  failed : Nat
  spr : Spr
  outs : List Bytes
  deriving DecidableEq, Repr

/-- A source fails the start-up test when a test fails or its raw rate is below 150 Mbit/s (R267). -/
def startFails (rates : List Nat) (failed : Nat) : Nat :=
  ((List.range 4).filter fun i => bitOf failed i || rates.getD i 0 < 150).foldl (fun m i => m + 2 ^ i) 0

/-- The start-up test of the sources (R267): those of which the rate or a test fails, now or while the reset ran (R283), and the
first outputs. -/
def Spr.start (x : Spr) (rates : List Nat) (failed : Nat) (raw : Bytes) : Start :=
  let seen := ((List.range 4).filter fun i => (x.source i).bad).foldl (fun m i => m ||| 2 ^ i) failed
  let f := startFails rates seen
  let r := Spr.startRun { x with sources := startSources rates f, nextSource := 0 } raw
  let g := f ||| r.2.2
  { failed := g, outs := r.2.1
    spr := { r.1 with sources := r.1.sources.mapIdx fun i (y : Source) => { y with inUse := !bitOf g i, excluded := bitOf g i } } }

def State.raiseExcluded (s : State) (failed : Nat) : State :=
  (bitList failed 4).foldl (fun s i => s.raise 0x013 i) s

/-- The expanders that are due or at their limit, but those of FRAMED tiles within a slot, and the buffers that want a refill
(R274, R281). -/
def State.reseedDue (s : State) : State :=
  let es := (s.spr.exp.filter fun x => !s.expFramed x.1 && (x.2.due || x.2.throttled || expLimit ≤ x.2.blocks)).map Prod.fst
  let bs := (s.spr.blind.filter fun x => x.2.length ≤ 256).map Prod.fst
  bs.foldl State.refillBlind (es.foldl State.reseedExp s)

/-- The DRBGs that a block reset reseeds after the device DRBG (R281). -/
def State.drbgReaches (s : State) : List Nat :=
  (s.spr.drbg.filter fun x => x.1 != devInst && x.2.st == .ready).map Prod.fst

/-- Serves the reseeds of these instances, one after the other as R269 orders them. -/
def State.reseedThese : List Nat → State → State
  | [], s => s
  | _ :: is, s => State.reseedThese is (s.serveSeedOf (s.spr.waiting.filter fun w => w.job.isNone && (s.drbg w.inst).st == .ready))

/-- A block reset with at least three good sources: the device DRBG and what waits for it, what is due, then every reach DRBG
(R281); the queue keeps 64 seeds of what is left. -/
def State.springRestored (s : State) (x : Start) : State :=
  let s := { s with spr := { x.spr with
    seeds := s.spr.seeds ++ x.outs, st := .running, afterFailure := false, done := true,
    seedUs := (s.now - s.spr.startAt) / 1000 } }
  let s := (if (s.drbg devInst).st = .ready then (s.queueReseed devInst).reseedThese [devInst]
    else s.startDrbg devInst s.devicePers).drawDue.reseedDue
  let s := State.reseedThese s.drbgReaches (s.drbgReaches.foldl State.queueReseed s)
  let s := { s with spr := { s.spr with seeds := s.spr.seeds.take 64 } }
  (s.raiseExcluded x.failed).raise 0x011 0

/-- R281: the reset ends, RUNNING with three or four sources once the seeds of its reseeds are there, or failed and counted; a
failed one excludes none. -/
def State.springResetDone (s : State) (rates : List Nat) (failed : Nat) (raw : Bytes) : State :=
  let r := s.rawBits raw
  let x := r.2.spr.start rates failed r.1
  if popCount x.failed 4 ≤ 1 then
    (if (s.spr.seeds ++ x.outs).length < 2 + s.drbgReaches.length then s else r.2.springRestored x)
  else
    let first := (bitList x.failed 4).headD 0
    let sources := s.spr.sources.mapIdx fun i (y : Source) => { y with excluded := false, bad := false, rate := rates.getD i 0 }
    let s := { s with spr := { s.spr with sources := sources, done := true } }
    s.springFail first (if 150 ≤ rates.getD first 0 then 4 else 5)

def execSpringBlockResetDone (rates : List Nat) (failed : Nat) (raw : Bytes) (s : State) :
    Host.Outcome State Fault Refusal :=
  engineCmd s (if s.spr.st = .resetting then s.springResetDone rates failed raw else s)

/-- SPR_CMD RESEED_ALL: every instance becomes due (R286). -/
def State.reseedAll (s : State) : State :=
  let insts := (s.spr.drbg.filter fun x => x.2.st == .ready).map Prod.fst
  let s := insts.foldl (fun s i => (s.setDrbg i { s.drbg i with due := true }).queueReseed i) s
  { s with spr := { s.spr with result := Status.ok.code, done := true } }

def execReseedAll (s : State) : Host.Outcome State Fault Refusal := hostCmd s s.reseedAll

/-- R282: a failure leaves the 24 h window; DEAD stays. -/
def execSpringFailAgeOut (s : State) : Host.Outcome State Fault Refusal :=
  engineCmd s { s with spr := { s.spr with fails24 := s.spr.fails24 - 1 } }

/-! ## The running chain -/

/-- R267, R268, R284: 1,024 raw bits of the next source in use: they fail a test, or what they let close enters the queue. -/
def State.condition (s : State) (raw : Bytes) : State :=
  let r := s.rawBits (fit 128 raw)
  let s := r.2
  let i := s.spr.turn
  let h := (s.spr.source i).hear r.1
  let s := { s with spr := { s.spr.heard i h with seeds := (s.spr.seeds ++ h.outs).take 64 } }
  if h.test = 0 then s else s.springFail i h.test

def execConditionerOutput (raw : Bytes) (s : State) : Host.Outcome State Fault Refusal :=
  engineCmd s (if s.spr.st = .running then s.condition raw else s)

/-- The bytes an ENTROPY-WAIT node asks for: its ARG in an owner template, else the opcode's count (R271). -/
def State.entropyCount (s : State) (j : Job) (n : Node) : Nat :=
  if n.info.arg != 0 then min n.info.arg 65536
  else match s.opOfJob j with
    | some (o, v) => (o.draws v j.param).getD 0
    | none => 0

/-- R271, R272: the reach's DRBG serves the first waiting node of a job; the transfer then runs to its end (R280). -/
def State.serveEntropy (s : State) (id : Nat) : State :=
  match s.job id with
  | none => s
  | some j =>
    match j.nodes.findIdx? Node.awaits with
    | none => s
    | some i =>
      match j.node i with
      | none => s
      | some n =>
        if 0 < s.entropyCount j n && s.drbgOpen j.reach && s.drawTurn j.reach then
          let g := s.generate j.reach (s.entropyCount j n)
          let s := g.2.setJob { j.setNode i { n with served := true } with rnd := j.rnd ++ g.1 }
          { s with spr := { s.spr with transfers := s.spr.transfers + 1 } }
        else s

def execDrbgGenerate (job : Nat) (s : State) : Host.Outcome State Fault Refusal := engineCmd s (s.serveEntropy job)

def execDrbgReseed (s : State) : Host.Outcome State Fault Refusal :=
  engineCmd s s.serveSeed

/-- R274: an expander that is due, at its limit or unseeded is reseeded; that of a FRAMED tile never within a slot (R218). -/
def execMaskExpanderReseed (exp : Nat) (s : State) : Host.Outcome State Fault Refusal :=
  let x := s.exp exp
  engineCmd s (if exp < 224 && !s.expFramed exp && (!x.seeded || x.due || x.throttled) then s.reseedExp exp else s)

def execBlindingBufferRefill (unit : Nat) (s : State) : Host.Outcome State Fault Refusal :=
  engineCmd s (if unit < 32 then s.refillBlind unit else s)

/-! ## Random-data windows (R276, R277) -/

def State.fifo (s : State) (fn : Nat) : RndFifo := tget RndFifo.reset s.spr.fifo fn
def State.setFifo (s : State) (fn : Nat) (f : RndFifo) : State :=
  { s with spr := { s.spr with fifo := tset s.spr.fifo fn f } }

/-- R276: one request of the reach's DRBG for exactly the free space. -/
def State.refillFifo (s : State) (fn : Nat) : State :=
  match s.cfg.reachOf fn with
  | none => s
  | some r =>
    let n := (s.fifo fn).bytes.length
    if s.drbgOpen r && s.drawTurn r && n ≤ 128 then
      let g := s.generate r (256 - n)
      g.2.setFifo fn { g.2.fifo fn with bytes := (g.2.fifo fn).bytes ++ g.1 }
    else s

def execRndFifoRefill (fn : Nat) (s : State) : Host.Outcome State Fault Refusal := engineCmd s (s.refillFifo fn)

/-- R277: DATA_LO takes a draw, or returns 0 and sets ERR. -/
def State.readLo (s : State) (fn : Nat) : State :=
  let f := s.fifo fn
  if s.spr.st = .running ∧ 8 ≤ f.bytes.length then
    (s.setFifo fn { f with bytes := f.bytes.drop 8, latch := slice f.bytes 4 4 }).sent (.readData (f.bytes.take 4))
  else
    let s' := s.setFifo fn { f with latch := zeros 4, err := true }
    let s' := match s.cfg.reachOf fn with
      | some r => if f.err then s' else s'.raiseReach r 2 (reachCause 2 fn 0 0)
      | none => s'
    s'.sent (.readData (zeros 4))

/-- R277: DATA_HI returns the latch and clears it. -/
def State.readHi (s : State) (fn : Nat) : State :=
  let f := s.fifo fn
  (s.setFifo fn { f with latch := zeros 4 }).sent (.readData f.latch)

/-- A read of a random-data register: a VF of no present reach reads 0 and nothing changes (R77); the PF's window is
there whether or not reach 0 is (R78). -/
def State.rndRead (s : State) (fn : Nat) (f : State → State) : State :=
  if !s.fnOpen fn then s
  else if fn != 0 && !s.fnConfigured fn then s.sent (.readData (zeros 4))
  else f s

def execRndDataLoRead (fn : Nat) (s : State) : Host.Outcome State Fault Refusal :=
  hostCmd s (s.rndRead fn fun s => s.readLo fn)

def execRndDataHiRead (fn : Nat) (s : State) : Host.Outcome State Fault Refusal :=
  hostCmd s (s.rndRead fn fun s => s.readHi fn)

/-! ## Test access -/

/-- R284: writable in TEST_UNLOCKED only; MODE 3 is ignored. -/
def State.writeSprTest (s : State) (value : Nat) : State :=
  if s.lcs.st = .testUnlocked then
    { s with spr := { s.spr with
      testSrc := bitsOf value 3 2, testMode := if bitsOf value 1 0 = 3 then s.spr.testMode else bitsOf value 1 0 } }
  else s

def execSprTestWrite (value : Nat) (s : State) : Host.Outcome State Fault Refusal := hostCmd s (s.writeSprTest value)

end Sys2Proof.Machine
end

