-- ==== Sys2Proof/Machine/KeyOps.lean ====
section
/-! DEFINITION. What the commands on keys share: the descriptor cache and the hot store (R291), the slot write and the
invalidation of a slot (R183, R290, R314), copies to peers (R383), and the ledger's records and leases (R177, R306 to
R309). -/

namespace Sys2Proof.Machine

open Sys2Proof

/-! ## Stores (R291) -/

/-- The pool a reach's descriptors and material live in: its own when it is TIMING_ISOLATED (R89). -/
def State.keyPool (s : State) (r : Nat) : Nat := if s.isolated r then r else 64

/-- The most recently used first, cut to what fits. -/
def touch (n cap : Nat) (xs : List Nat) : List Nat := (n :: xs.filter (· != n)).take cap

/-- Descriptors a pool holds: 1,024 for each TIMING_ISOLATED reach, the rest shared. -/
def State.descCap (s : State) (pool : Nat) : Nat := if pool < 64 then 1024 else 65536 - 1024 * s.isolatedCount

/-- Bytes of a slot's material in a store. -/
def Slot.bytes (x : Slot) : Nat :=
  if x.mat.isEmpty then footprint x.pub.length 1 else footprint x.mat.length (copyCount x.attr false)

def State.hotCap (s : State) (pool : Nat) : Nat :=
  if pool < 64 then 262144 else 16777216 - 262144 * s.isolatedCount

/-- The longest prefix of a list of slots that fits `cap` bytes: the least recently used leave first. -/
def fitPrefix (size : Nat → Nat) : Nat → List Nat → List Nat
  | _, [] => []
  | cap, n :: ns => if size n ≤ cap then n :: fitPrefix size (cap - size n) ns else []

/-! ### Shares and the vault (R291, R293) -/

/-- The copies that the stores hold of a key: the Boolean shares of secret material, or the one copy of a public key. -/
def Slot.copies (x : Slot) : List Bytes :=
  if x.mat.isEmpty then [x.pub] else x.shares.foldl xorBytes x.mat :: x.shares

/-- Secret material is shared anew with fresh masking randomness. -/
def State.shareAnew (s : State) (n : Nat) : State :=
  let x := s.slot n
  if x.mat.isEmpty then s
  else
    let share (i : Nat) : Bytes := fit x.mat.length (Config.keyShare s.kst.sharings i)
    let t := s.setSlot n { x with shares := (List.range (copyCount x.attr false - 1)).map share }
    { t with kst := { t.kst with sharings := s.kst.sharings + 1 } }

/-- The reach whose range holds a slot, 64 for none. -/
def State.slotReach (s : State) (n : Nat) : Nat :=
  ((s.cfg.reaches.find? fun x => x.keyBase ≤ n && n < x.keyBase + x.keyCount).map ReachRec.id).getD 64

/-- A slot's material goes to the vault: its copies, or zeros. -/
def State.putVault (s : State) (n : Nat) (copies : List Bytes) : State :=
  match s.storePlace .vault (s.slotReach n) with
  | none => s
  | some p => s.putBytes p (Config.vaultLine n) (copies.flatMap fun c => fit (footprint c.length 1) c)

/-- A slot's material is written back, shared anew. -/
def State.writeBack (s : State) (n : Nat) : State := (s.shareAnew n).putVault n ((s.shareAnew n).slot n).copies

/-- LOC: the store that holds the material, and its unit there. -/
def State.locOf (s : State) (n : Nat) : Nat :=
  let hot := s.kst.hot.any fun p => p.2.contains n
  (if hot then 1 else 2) * 2 ^ 30 + Config.locUnit n % 2 ^ 30

def State.descriptor (s : State) (n : Nat) : Bytes :=
  let x := s.slot n
  if x.st != .live then zeros 32
  else
    let pub := x.mat.isEmpty
    let len := if pub then x.pub.length else x.mat.length
    toLe 8 x.attr.toNat ++ toLe 4 (s.locOf n) ++ toLe 4 (copyCount x.attr pub * 2 ^ 24 + len) ++ fit 16 x.keyId

/-- The first slot of a descriptor table: of the device, or of a reach's own. -/
def State.tableBase (s : State) (p : Place) : Nat := if p.reach < 64 then ((s.cfg.reach p.reach).map ReachRec.keyBase).getD 0 else 0

/-- The descriptor of a slot goes to its table, in the line that it shares with a neighbour of the same table. -/
def State.putDesc (s : State) (n : Nat) : State :=
  match s.storePlace .descriptors (s.slotReach n) with
  | none => s
  | some p =>
    let line := (n - s.tableBase p) / 2
    let half (k : Nat) : Bytes :=
      let m := s.tableBase p + 2 * line + k
      if s.storePlace .descriptors (s.slotReach m) = some p then s.descriptor m else zeros 32
    s.putBytes p line (half 0 ++ half 1)

/-- A descriptor is read: a miss counts in KST_DMISS (R315), and those that leave the cache go to their tables. -/
def State.touchDesc (s : State) (r n : Nat) : State :=
  let p := s.keyPool r
  let xs := tget [] s.kst.dcache p
  let miss := b2n (!xs.contains n)
  let kept := touch n (s.descCap p) xs
  let s := { s with kst := { s.kst with dcache := tset s.kst.dcache p kept, dmiss := satAdd 0xFFFFFFFF s.kst.dmiss miss } }
  (xs.filter fun k => !kept.contains k).foldl State.putDesc s

/-- Material comes into the hot store, and the least recently used leaves it for the vault. -/
def State.touchHot (s : State) (r n : Nat) : State :=
  let p := s.keyPool r
  let xs := n :: (tget [] s.kst.hot p).filter (· != n)
  let kept := fitPrefix (fun k => (s.slot k).bytes) (s.hotCap p) xs
  let s := { s with kst := { s.kst with hot := tset s.kst.hot p kept } }
  (xs.drop kept.length).foldl State.writeBack s

def State.hotUsed (s : State) : Nat := ((s.kst.hot.flatMap Prod.snd).map fun n => (s.slot n).bytes).sum

def State.leaveStores (s : State) (n : Nat) : State :=
  { s with
    kst := { s.kst with
      hot := s.kst.hot.map fun (x : Nat × List Nat) => (x.1, x.2.filter (· != n)),
      dcache := s.kst.dcache.map fun (x : Nat × List Nat) => (x.1, x.2.filter (· != n)) },
    reaches := s.reaches.map fun (x : Nat × ReachState) => (x.1, { x.2 with
      matrices := x.2.matrices.filter (· != n), trees := x.2.trees.filter (· != n),
      mceKeys := x.2.mceKeys.filter (· != n) }) }

/-! ## The caches of a reach's HBM (R168, R170, R177, R182) -/

/-- Bytes of a key's expanded matrix: 16-bit coefficients in ML-KEM, 32-bit ones in ML-DSA (R168, R170, R224). -/
def matrixBytes (a : BitVec 64) : Nat :=
  let p := attrParam a
  match attrType a with
  | 0x01 => (p + 2) * (p + 2) * 512
  | 0x02 => (dsaSet p).rows * (dsaSet p).cols * 1024
  | 0x12 => (p + 3) * (p + 3) * 512
  | _ => 0

/-- Bytes of the trees of a key: 2n for each leaf of a tree on each level, 64 MiB at height 20 with n = 32 (R177). -/
def treeBytes (x : Slot) : Nat :=
  let p := attrParam x.attr
  match attrType x.attr with
  | 0x04 => ((lmsInfo p).map fun i => 2 ^ (i.2.2 + 1) * i.2.1).getD 0
  | 0x05 => ((lmsInfo p).map fun i => fieldLe x.mat 0 1 * (2 ^ (i.2.2 + 1) * i.2.1)).getD 0
  | 0x06 => ((xmssInfo p).map fun i => 2 ^ (i.2.1 + 1) * i.1).getD 0
  | 0x07 => ((xmssMtInfo p).map fun i => i.2.2 * (2 ^ (i.2.1 / i.2.2 + 1) * i.1)).getD 0
  | _ => 0

/-- The most recently used entries that fit `cap` bytes; an entry larger than the cache displaces none. -/
def cacheUse (size : Nat → Nat) (cap n : Nat) (xs : List Nat) : List Nat :=
  if cap < size n then xs
  else fitPrefix size cap (n :: xs.filter (· != n))

def mib (n : Nat) : Nat := n * 1048576

/-- The expanded matrix of a key in its storage width, row after row (R168, R170, R224). -/
def matrixImage (x : Slot) : Bytes :=
  let p := attrParam x.attr
  let bytes (w : Nat) (m : List (List Poly)) : Bytes := m.flatMap fun row => row.flatMap fun f => f.flatMap (toLe w)
  match attrType x.attr with
  | 0x01 => bytes 2 (kemEkMatrix p x.pub)
  | 0x02 => bytes 4 (dsaKeyMatrix p x.pub)
  | 0x12 => bytes 2 (kemEkMatrix (p + 1) (x.pub.take (mlKemSizes (p + 1)).1))
  | _ => []

/-- An entry of a reach's cache is filled (0 matrices, 2 McEliece keys): its bytes go to the reach's region. -/
def State.fillCache (s : State) (k : PlaceKind) (which r n : Nat) (bs : Bytes) : State :=
  match s.hbm.layout.find? fun p => p.kind == k && p.reach == r with
  | none => s
  | some p => s.putBytes p (Config.cacheLine which n) bs

/-- Is a line of an entry of `size` bytes poisoned (R367)? -/
def State.entryPoisoned (s : State) (k : PlaceKind) (which r n size : Nat) : Bool :=
  (s.hbm.layout.find? fun p => p.kind == k && p.reach == r).any fun p => s.placePoisoned p (64 * Config.cacheLine which n) size

/-- A key of the slot is used: its matrix or its trees come into the reach's caches (log entry 91). What is not there, or was
poisoned, is built from the slot, which writes its lines (R224, R367). -/
def State.touchCaches (s : State) (r n : Nat) : State :=
  match s.cfg.reach r with
  | none => s
  | some c =>
    let a := (s.slot n).attr
    let x := s.reach r
    if matrixBytes a != 0 then
      let xs := cacheUse (fun k => matrixBytes (s.slot k).attr) (mib c.matrixMib) n x.matrices
      let t := s.setReach r { x with matrices := xs }
      if xs.contains n && !x.matrices.contains n then t.fillCache .matrix 0 r n (matrixImage (s.slot n)) else t
    else if attrStateful a then
      let xs := cacheUse (fun k => treeBytes (s.slot k)) (mib c.treeMib) n x.trees
      let t := s.setReach r { x with trees := xs }
      if xs.contains n && !x.trees.contains n then
        t.fillCache .tree 1 r n (fit (treeBytes (s.slot n)) (Config.treeImage (s.slot n).mat))
      else t
    else if attrType a == 0x08 && x.mceKeys.contains n && s.entryPoisoned .mce 2 r n (s.slot n).pub.length then
      s.fillCache .mce 2 r n (s.slot n).pub
    else s

/-- Bytes that the public keys in a reach's McEliece cache take. -/
def State.mceUsed (s : State) (r : Nat) : Nat :=
  ((s.reach r).mceKeys.map fun k => pubLen 0x08 (attrParam (s.slot k).attr)).sum

/-- A new McEliece key pair also keeps its public key when the reach's cache has room (R182). -/
def State.cacheMce (s : State) (n : Nat) (x : Slot) : State :=
  let r := attrOwner x.attr
  match s.cfg.reach r with
  | none => s
  | some c =>
    if attrType x.attr == 0x08 && !x.mat.isEmpty && s.mceUsed r + pubLen 0x08 (attrParam x.attr) ≤ mib c.mceMib then
      (s.setReach r { s.reach r with mceKeys := addOnce (s.reach r).mceKeys n }).fillCache .mce 2 r n x.pub
    else s

/-- Does the slot hold a public key to encapsulate with: every one but a McEliece private key that the cache had no room
for (R182)? -/
def State.encapsReady (s : State) (n : Nat) : Bool :=
  let x := s.slot n
  attrType x.attr != 0x08 || x.mat.isEmpty || (s.reach (attrOwner x.attr)).mceKeys.contains n

/-! ## Copies to peers (R383) -/

def State.keyPolicy (s : State) : Bool := (s.cfg.confluence.map ConfluenceRec.keyPolicy) == some 1

/-- The OWNER_DIGEST of a reach. -/
def Setup.ownerOf (c : Setup) (r : Nat) : Bytes := fit 48 (((c.reach r).map ReachRec.ownerDigest).getD [])

/-- A copy's payload (log entry 16): slot, word, KEY_ID, home device, whether the copy is gone, the reach's OWNER_DIGEST
(R310), and the two encodings sealed under the cluster key with KEY_ID as AAD. -/
def keyPayload (key owner : Bytes) (seq n : Nat) (x : Slot) (gone : Bool) : Bytes :=
  let iv := Config.copyIv seq
  let sealed := gcmSeal key iv x.keyId (toLe 4 x.mat.length ++ x.mat ++ x.pub) 16
  toLe 4 n ++ toLe 8 x.attr.toNat ++ fit 16 x.keyId ++ toLe 2 x.homeDev ++ toLe 2 (b2n gone) ++ owner ++
    (if gone then [] else iv ++ sealed.1 ++ sealed.2)

/-- One copy to the peer on a port. -/
def State.copyTo (s : State) (n : Nat) (x : Slot) (gone : Bool) (p : Nat) : State :=
  match s.cfl.clusterKey with
  | none => s
  | some k =>
    let pt := s.port p
    match pt.epochOf (attrOwner x.attr) with
    | none => s
    | some e =>
      if pt.peerHasKey && !s.cfl.fencedDevs.contains pt.peerDev then
        let body := keyPayload k (s.cfg.ownerOf (attrOwner x.attr)) s.cfl.seq n x gone
        let q : CflReq := { id := s.cfl.seq, cls := 0x0A, dest := pt.peerDev, reach := attrOwner x.attr, slot := n,
                            job := none, sentAt := s.now, resent := false, again := false, place := false, body := body }
        (s.sendNew 0x0A (attrOwner x.attr) pt.peerDev e body).awaitReply q
      else s

def Slot.copied (x : Slot) : Bool := x.st == .live && attrReplicable x.attr && !attrStateful x.attr

/-- A copy to every peer: of a slot to be copied, or of one that was and is no more, whose copies mirror it. -/
def State.copyWhen (s : State) (n : Nat) (x : Slot) (gone had : Bool) : State :=
  if s.keyPolicy && (x.copied || had) then s.upPorts.foldl (fun s p => s.copyTo n x gone p) s else s

def State.copyAll (s : State) (n : Nat) (x : Slot) (gone : Bool) : State := s.copyWhen n x gone false

/-- A link has come UP: every slot to be copied goes to the new peer. -/
def State.copiesOnLink (s : State) (p : Nat) : State :=
  if s.keyPolicy then (s.slots.filter fun x => x.2.copied).foldl (fun s x => s.copyTo x.1 x.2 false p) s else s

/-! ## Key records of the ledger (R306) -/

/-- KMAC256(K, X, L) of R288, `n` bytes. -/
def rootKmac (k x : Bytes) (n : Nat) : Bytes := kmac256 k x n (ascii "LX9-ROOT")

/-- Bytes 0x00 to 0x2F of a record. -/
def KeyRec.body (r : KeyRec) : Bytes :=
  toLe 2 r.ver ++ zeros 2 ++ toLe 2 r.homeDev ++ toLe 2 r.type ++ toLe 8 r.floor ++ toLe 8 r.limit ++ fit 16 r.keyId ++
    toLe 8 r.grants

/-- The record as the controller writes it, with its MAC under LMK. -/
def KeyRec.sealed (lmk : Bytes) (r : KeyRec) : KeyRec := { r with mac := rootKmac lmk r.body 16 }

/-- A record whose MAC fails under the present LMK, or whose REC_VER the firmware does not know, is unusable. -/
def State.recordOk (s : State) (r : KeyRec) : Bool := r.ver == 1 && r.mac == rootKmac s.kst.lmk r.body 16

/-! ## Slot writes -/

/-- A slot's word and material are stored: shared, in the vault and in the hot store, with its descriptor (R291). -/
def State.storeSlot (s : State) (n : Nat) (x : Slot) : State :=
  (((s.setSlot n x).writeBack n).touchHot (attrOwner x.attr) n).putDesc n

/-- A slot is written and LIVE (R290, R314), and its copies follow. -/
def State.writeSlot (s : State) (n : Nat) (x : Slot) : State :=
  let x := { x with st := .live }
  let had := (s.slot n).copied
  ((s.storeSlot n x).cacheMce n x).copyWhen n x false had

/-- Jobs that named the slot and have not loaded its key end KEY_SLOT_EMPTY when they come to it (R183). -/
def State.loseKey (s : State) (n : Nat) : State :=
  { s with jobs := s.jobs.map fun (j : Job) =>
      if j.entry.keyValid && j.entry.slot == n && j.keyCopy.isNone && !j.ended then { j with keyGone := true } else j }

/-- Leases whose record is being written are consumed with the slot that holds them (R308). -/
def State.consumeLeases (s : State) (x : Slot) : State :=
  let top := ((x.cur.toList ++ x.nxt.toList).map Lease.stop).foldl max 0
  { s with records := s.records.map fun (r : KeyRec) =>
      if r.keyId = x.keyId ∧ x.homeDev = s.devId ∧ r.floor < top then KeyRec.sealed s.kst.lmk { r with floor := top }
      else r }

/-- R183: the slot is EMPTY and wiped in the vault, its leases are consumed and its copies are invalidated. -/
def State.invalidate (s : State) (n : Nat) : State :=
  let x := s.slot n
  if x.st = .empty then s
  else
    let s := if attrStateful x.attr && x.st == .live then s.consumeLeases x else s
    let s := (((s.loseKey n).setSlot n Slot.reset).leaveStores n).putVault n (x.copies.map fun c => zeros c.length)
    (s.putDesc n).copyAll n x true

/-- The slots of a range that are not EMPTY. -/
def State.slotsIn (s : State) (base count : Nat) : List Nat :=
  (s.slots.filter fun x => base ≤ x.1 && x.1 < base + count && x.2.st != .empty).map Prod.fst

def State.wipeRange (s : State) (base count : Nat) : State := (s.slotsIn base count).foldl State.invalidate s

/-! ## Ledger records and leases (R306 to R309) -/

def leaseSize : Nat := 65536

/-- LIMIT of a key (R176, R306). -/
def statefulLimit (t p : Nat) (mat : Bytes) : Nat :=
  let cap (e : Nat) : Nat := if e ≤ 63 then 2 ^ e else 2 ^ 64 - 1
  match t with
  | 0x04 => cap (((lmsInfo p).map fun x => x.2.2).getD 0)
  | 0x05 => cap (fieldLe mat 0 1 * ((lmsInfo p).map fun x => x.2.2).getD 0)
  | 0x06 => cap (((xmssInfo p).map fun x => x.2.1).getD 0)
  | _ => cap (((xmssMtInfo p).map fun x => x.2.1).getD 0)

def State.record (s : State) (keyId : Bytes) : Option KeyRec := s.records.find? fun r => r.keyId == keyId

def State.setRecord (s : State) (r : KeyRec) : State :=
  { s with records := s.records.map fun x => if x.keyId = r.keyId then r.sealed s.kst.lmk else x }

/-- The leases of a slot that wait for their record. -/
def Slot.uncommitted (x : Slot) : List Lease := (x.cur.toList ++ x.nxt.toList).filter fun l => !l.committed

/-- The first index not in any lease, written or being written. -/
def State.leaseFloor (s : State) (r : KeyRec) : Nat :=
  ((s.slots.filter fun x => x.2.keyId == r.keyId).flatMap fun x => (x.2.uncommitted.map Lease.stop)).foldl max r.floor

/-- A lease of the home device from its own record: the range, or the DETAIL of R309 and R158. -/
def State.homeLease (s : State) (keyId : Bytes) : Except Nat Lease :=
  match s.record keyId with
  | none => .error 2
  | some r =>
    if s.ledger.readOnly || !s.recordOk r then .error 2
    else
      let f := s.leaseFloor r
      if r.limit ≤ f then .error 1
      else .ok { next := f, stop := min (f + leaseSize) r.limit, committed := false }

/-- A record write begins (R425); a fuse pulse in progress stays the one that is marked. -/
def State.ledgerPulse (s : State) : State :=
  { s with rst := { s.rst with pulse := if s.rst.pulse = some .fuse then some .fuse else some .ledger } }

/-- The pulse that is left when no fuse pulse is in progress: a record write of a lease (R425). -/
def State.restPulse (s : State) : Option Pulse :=
  if s.slots.any fun y => !y.2.uncommitted.isEmpty then some .ledger else none

/-- An unusable record raises the key-store event when a lease is asked of it (R306). -/
def State.unusableEvent (s : State) (keyId : Bytes) : State :=
  match s.records.findIdx? fun r => r.keyId == keyId && !s.recordOk r with
  | some i => s.raise 0x041 i
  | none => s

/-- A lease client asks its home device (R310). -/
def State.askLease (s : State) (n : Nat) (x : Slot) (job : Option Nat) : State :=
  let r := attrOwner x.attr
  let body := toLe 4 n ++ fit 16 x.keyId
  let q : CflReq := { id := s.cfl.seq, cls := 0x06, dest := x.homeDev, reach := r, slot := n, job := job,
                      sentAt := s.now, resent := false, again := false, place := false, body := body }
  (s.sendNew 0x06 r x.homeDev (s.knownEpoch x.homeDev r) body).awaitReply q

/-- Does the slot already wait for a lease of its home device? -/
def State.leaseAsked (s : State) (n : Nat) : Bool := s.cfl.pendingReq.any fun q => q.cls == 0x06 && q.slot == n

/-- The slot asks for its next lease in advance: a refusal here ends no job (R307). -/
def State.askNext (s : State) (n : Nat) : State :=
  let x := s.slot n
  if x.homeDev = s.devId then
    match s.homeLease x.keyId with
    | .ok l => (s.setSlot n { x with nxt := some l }).ledgerPulse
    | .error _ => s.unusableEvent x.keyId
  else if s.leaseAsked n then s else s.askLease n x none

/-- What a draw answers. -/
inductive Draw where
  | index (i : Nat) (s : State)
  /-- the job waits for a grant of the home device -/
  | waits (s : State)
  | exhausted (detail : Nat) (s : State)

/-- The state after a draw. -/
def Draw.st : Draw → State
  | .index _ s => s
  | .waits s => s
  | .exhausted _ s => s

/-- Takes the first index of the current lease, and asks for the next lease when few are left (R307). -/
def State.takeIndex (s : State) (n : Nat) (l : Lease) : Draw :=
  let s := s.setSlot n { s.slot n with cur := some { l with next := l.next + 1 } }
  let few : Bool := decide (l.stop - (l.next + 1) ≤ 4096) && (s.slot n).nxt.isNone
  .index l.next (if few then s.askNext n else s)

def Lease.some? (l : Option Lease) : Option Lease := l.filter fun x => x.next < x.stop

/-- R177: one index of the slot's leases, or a new lease, or none. -/
def State.drawIndex (s : State) (n job : Nat) : Draw :=
  let x := s.slot n
  match Lease.some? x.cur with
  | some l => s.takeIndex n l
  | none =>
    match Lease.some? x.nxt with
    | some l => State.takeIndex (s.setSlot n { x with cur := some l, nxt := none }) n l
    | none =>
      if x.homeDev = s.devId then
        match s.homeLease x.keyId with
        | .ok l => State.takeIndex (s.setSlot n { x with cur := some l, nxt := none }).ledgerPulse n l
        | .error d => .exhausted d (s.unusableEvent x.keyId)
      else if s.leaseAsked n then .waits s else .waits (s.askLease n x (some job))

/-- Has the record of the lease that holds a drawn index committed (R177)? A client's grant always has. -/
def State.indexCommitted (s : State) (x : Slot) (i : Nat) : Bool :=
  x.homeDev != s.devId || (s.record x.keyId).any fun r => i < r.floor

/-! ## A job and its key (R183) -/

/-- The job draws its one index, at its dispatch (R177). -/
def State.drawFor (s : State) (j : Job) : State :=
  match s.drawIndex j.entry.slot j.id with
  | .index i t => t.setJob { j with index := some i }
  | .waits t => t
  | .exhausted d t => t.endJob j.id .leaseExhausted d

/-- The job's key material is loaded from its slot (R183). -/
def State.loadKey (s : State) (j : Job) : State :=
  ((s.setJob { j with keyCopy := some (s.slot j.entry.slot) }).touchHot j.reach j.entry.slot).touchCaches j.reach
    j.entry.slot

/-- The first dispatch of a job on an engine (R177, R183; DEDUCED, log entry 92): a stateful signature draws its index, and
every other job that uses key material loads it. A job whose slot is gone ends KEY_SLOT_EMPTY. -/
def State.takeKey (s : State) (id : Nat) : State :=
  match s.job id with
  | none => s
  | some j =>
    match s.opOfJob j with
    | none => s
    | some (o, _) =>
      if !j.entry.keyValid || !o.loadsKey || j.keyCopy.isSome || j.index.isSome then s
      else if j.keyGone || (s.slot j.entry.slot).st != .live then s.endJob id .keySlotEmpty 0
      else if !o.drawsIndex then s.loadKey j
      else
        let j := { j with drawSeq := some (j.drawSeq.getD s.weir.seq) }
        (s.setJob j).takeSeq.drawFor j

/-- The jobs that wait for a lease of the slot draw in the order of their dispatches (R177). -/
def State.drawWaiting (s : State) (n : Nat) : State :=
  let waits := s.jobs.filter fun j => j.entry.keyValid && j.entry.slot == n && j.drawSeq.isSome && j.index.isNone &&
    j.status.isNone && !j.keyGone
  ((waits.mergeSort fun a b => a.drawSeq.getD 0 ≤ b.drawSeq.getD 0).map Job.id).foldl State.takeKey s

/-- May the job's commit point execute, as far as its lease goes (R177)? -/
def State.leaseCommitted (s : State) (j : Job) : Bool :=
  match j.index, j.keyCopy with
  | some i, some x => s.indexCommitted x i
  | _, _ => true

/-- The record write of the slot's oldest uncommitted lease ends with its flag (R307); the first write of a KeyGen
creates the record (R177, R306). -/
def State.commitLease (s : State) (n : Nat) : State :=
  let x := s.slot n
  match x.uncommitted with
  | [] => s
  | l :: _ =>
    let mark (y : Option Lease) : Option Lease := y.map fun z => if z = l then { z with committed := true } else z
    let s := match s.record x.keyId with
      | some r => s.setRecord { r with floor := max r.floor l.stop, grants := r.grants + 1 }
      | none => { s with records := s.records ++ [KeyRec.sealed s.kst.lmk {
          ver := 1, keyId := x.keyId, homeDev := x.homeDev, type := attrType x.attr, floor := l.stop,
          limit := statefulLimit (attrType x.attr) (attrParam x.attr) x.mat, grants := 1, mac := [] }] }
    let s := s.setSlot n { x with cur := mark x.cur, nxt := if mark x.cur = x.cur then mark x.nxt else x.nxt }
    if s.rst.pulse = some .fuse then s else { s with rst := { s.rst with pulse := s.restPulse } }

/-- The slot of a KeyGen whose record has now been written becomes LIVE and the job ends (R177). -/
def State.finishKeygen (s : State) (n : Nat) : State :=
  match s.jobs.find? fun j => j.reserved == some n && j.committed && j.status.isNone with
  | some j => (s.writeSlot n (s.slot n)).endJob j.id .ok 0
  | none => s

def execLeaseCommit (slot : Nat) (s : State) : Host.Outcome State Fault Refusal :=
  .next (if (s.slot slot).uncommitted.isEmpty then s else
    let s := s.commitLease slot
    if (s.slot slot).st = .reserved then s.finishKeygen slot else s)

/-! ## KST_CMD QUERY (R293, R315) -/

def State.query (s : State) : State :=
  let n := s.kst.argSlot
  let s := s.touchDesc (attrOwner (s.slot n).attr) n
  { s with kst := { s.kst with desc := s.descriptor n, result := Status.ok.code, done := true } }

def execQuery (s : State) : Host.Outcome State Fault Refusal := hostCmd s s.query

/-! ## KST_CMD PLACE (R310) -/

/-- The device linked to a peer number, or reachable: PLACE needs the peer's reach and its KEY_POLICY. -/
def State.peerTakes (s : State) (dev r : Nat) : Bool :=
  match s.upPorts.find? fun p => (s.port p).peerDev == dev with
  | some p => ((s.port p).epochOf r).isSome && (s.port p).peerHasKey
  | none => (s.routeTo dev).isSome

def State.place1 (s : State) : State :=
  let x := s.slot s.kst.argSlot
  let r := attrOwner x.attr
  let fail (st : Status) (s : State) : State := { s with kst := { s.kst with result := st.code, done := true } }
  if x.st != .live || !attrStateful x.attr || x.homeDev != s.devId || !s.keyPolicy || s.cfl.clusterKey.isNone ||
      !s.peerTakes s.kst.peerDev r then fail .badParams s
  else if (s.reach r).st = .quiescing ∨ (s.reach r).st = .quiesced then fail .reachQuiescing s
  else
    match s.cfl.clusterKey with
    | none => fail .badParams s
    | some k =>
      let a := attrSet x.attr { type := attrType x.attr, param := attrParam x.attr, origin := 2, stateful := true, owner := r }
      let y := { x with attr := attrClear a 32 }
      let body := keyPayload k (s.cfg.ownerOf r) s.cfl.seq s.kst.peerSlot y false
      let q : CflReq := { id := s.cfl.seq, cls := 0x0A, dest := s.kst.peerDev, reach := r, slot := s.kst.peerSlot,
                          job := none, sentAt := s.now, resent := false, again := false, place := true, body := body }
      fail .ok ((s.sendNew 0x0A r s.kst.peerDev (s.knownEpoch s.kst.peerDev r) body).awaitReply q)

def execPlace (s : State) : Host.Outcome State Fault Refusal := hostCmd s s.place1

end Sys2Proof.Machine
end

