-- ==== Sys2Proof/Machine/Attest.lean ====
section
/-! DEFINITION. Keys derived from the root (R287 to R289) and attestation: the CBOR payload of R312 and the COSE_Sign
statement of R313. -/

namespace Sys2Proof.Machine

open Sys2Proof

/-! ## Derivation (R288) -/

def gByte (g : Nat) : Bytes := toLe 1 g

def deriveSrk (g : Nat) : Bytes := rootKmac Config.rootSecret (ascii "STORAGE-ROOT" ++ gByte g) 32
def deriveLmk (g : Nat) : Bytes := rootKmac Config.rootSecret (ascii "LEDGER-MAC" ++ gByte g) 32
def deriveXi (g : Nat) : Bytes := rootKmac Config.rootSecret (ascii "ATTEST-MLDSA87" ++ gByte g) 32
def deriveE (g : Nat) : Bytes := rootKmac Config.rootSecret (ascii "ATTEST-P384" ++ gByte g) 56

/-- d_att = (e_att mod (n − 1)) + 1. -/
def attestScalar (e : Bytes) : Bytes := toBe 48 (pScalar 1 e)

def deriveWrap (srk owner : Bytes) : Bytes := rootKmac srk (ascii "REACH-WRAP" ++ owner) 32
def deriveBlob (wk : Bytes) (ver : Nat) (salt : Bytes) : Bytes := rootKmac wk (ascii "BLOB" ++ toLe 2 ver ++ salt) 32
def blobSalt (wk header clear : Bytes) : Bytes := rootKmac wk (ascii "SALT" ++ header.take 48 ++ clear) 16

/-- The public attestation keys of the derived seeds. -/
def Kst.attMldsaPub (k : Kst) : Bytes := mlDsaPub 2 (mlDsaNew 2 k.attMldsaSeed)
def Kst.attP384Pub (k : Kst) : Bytes := ecPubOf 1 k.attP384

/-- The ledger's certificate chain certifies the keys of generation 0 (R289). -/
def State.derive (s : State) : State :=
  let g := s.lcs.gen
  { s with kst := { s.kst with
    derived := true, srk := deriveSrk g, lmk := deriveLmk g, attMldsaSeed := deriveXi g,
    attP384 := attestScalar (deriveE g), certMatch := !s.ledger.cert.isEmpty && g == 0 } }

/-! ## CBOR -/

/-- The head of a data item, in the shortest form (RFC 8949, core deterministic encoding). -/
def cborHead (major n : Nat) : Bytes :=
  let b (x : Nat) : Byte := BitVec.ofNat 8 (major * 32 + x)
  if n < 24 then [b n] else if n < 256 then b 24 :: toBe 1 n else if n < 65536 then b 25 :: toBe 2 n
  else if n < 2 ^ 32 then b 26 :: toBe 4 n else b 27 :: toBe 8 n

def cborUint (n : Nat) : Bytes := cborHead 0 n
def cborNeg (n : Nat) : Bytes := cborHead 1 (n - 1)
def cborBytes (bs : Bytes) : Bytes := cborHead 2 bs.length ++ bs
def cborText (t : String) : Bytes := cborHead 3 (ascii t).length ++ ascii t
def cborArray (xs : List Bytes) : Bytes := cborHead 4 xs.length ++ xs.flatten
def cborNull : Bytes := [0xF6]

/-- The head of a data item, read: major type, argument, and what follows; none for a longer form than it needs. -/
def cborRead (b : Bytes) : Option (Nat × Nat × Bytes) :=
  match b with
  | [] => none
  | h :: r =>
    let major := h.toNat / 32
    let x := h.toNat % 32
    if x < 24 then some (major, x, r)
    else if x ≤ 27 then
      let n := 2 ^ (x - 24)
      let v := beNat (r.take n)
      if n ≤ r.length && cborHead major v == h :: r.take n then some (major, v, r.drop n) else none
    else none

def LcState.name : LcState → String
  | .blank => "BLANK" | .testLocked => "TEST_LOCKED" | .testUnlocked => "TEST_UNLOCKED"
  | .personalised => "PERSONALISED" | .owned => "OWNED" | .fieldReturn => "FIELD_RETURN" | .scrapped => "SCRAPPED"

/-! ## The payload -/

/-- LIMIT − FLOOR of a key's usable record on this device (R306); a lease whose record is being written is out of it. -/
def State.recordLeft (s : State) (keyId : Bytes) : Nat :=
  match s.records.find? fun r => r.keyId == keyId && s.recordOk r with
  | some r => r.limit - s.leaseFloor r
  | none => 0

def Lease.left (l : Option Lease) : Nat := match l with | some x => x.stop - x.next | none => 0

/-- REMAINING (R178, R307): LIMIT − FLOOR, the current lease and any next one; a lease client shows its home device's
last report (R310). -/
def State.remaining (s : State) (x : Slot) : Nat :=
  (if x.homeDev = s.devId then s.recordLeft x.keyId else x.remote) + Lease.left x.cur + Lease.left x.nxt

/-- Keys 1 to 6 of R312. -/
def State.deviceClaims (s : State) : Bytes :=
  cborUint 1 ++ cborUint 1 ++
    cborUint 2 ++ cborBytes (toLe 8 s.fuse.deviceId) ++
    cborUint 3 ++ cborText s.lcs.st.name ++
    cborUint 4 ++ cborUint s.lcs.gen ++
    cborUint 5 ++ cborUint s.fwu.runSvn ++
    cborUint 6 ++ cborArray (s.meas.map cborBytes)

/-- Keys 1 to 12 of the map, in front of the nonce. -/
def State.attestFront (s : State) (r slot : Nat) : Bytes :=
  let x := s.slot slot
  let stateful := attrStateful x.attr
  cborHead 5 (if stateful then 15 else 14) ++
    s.deviceClaims ++
    cborUint 7 ++ cborUint r ++
    cborUint 8 ++ cborArray ((s.reach r).meas.map cborBytes) ++
    cborUint 9 ++ cborBytes (fit 48 (((s.cfg.reach r).map ReachRec.ownerDigest).getD [])) ++
    cborUint 10 ++ cborUint slot ++
    cborUint 11 ++ cborUint x.attr.toNat ++
    cborUint 12 ++ (if x.pub.isEmpty then cborNull else cborBytes (sha3_384 x.pub))

/-- Keys 14 and 15, behind the nonce. -/
def State.attestBack (s : State) (slot : Nat) : Bytes :=
  let x := s.slot slot
  cborUint 14 ++ cborUint s.clusterTime ++
    (if attrStateful x.attr then cborUint 15 ++ cborArray [cborUint x.homeDev, cborUint (s.remaining x)] else [])

/-- The payload with its nonce. -/
def attestPayload (front nonce back : Bytes) : Bytes := front ++ cborUint 13 ++ cborBytes nonce ++ back

/-! ## The statement (R313) -/

def bodyProtected : Bytes := cborHead 5 1 ++ cborUint 3 ++ cborText "application/lx9-attest+cbor"

def algProtected (neg : Nat) : Bytes := cborHead 5 1 ++ cborUint 1 ++ cborNeg neg

def sigStructure (prot payload : Bytes) : Bytes :=
  cborArray [cborText "Signature", cborBytes bodyProtected, cborBytes prot, cborBytes [], cborBytes payload]

def coseSignature (neg : Nat) (pub sig : Bytes) : Bytes :=
  cborArray [cborBytes (algProtected neg), cborHead 5 1 ++ cborUint 4 ++ cborBytes ((sha3_384 pub).take 8), cborBytes sig]

/-- A pure message representative with an empty context (FIPS 204). -/
def pureEmpty (m : Bytes) : Bytes := [0, 0] ++ m

/-- The tagged COSE_Sign structure with both signatures. -/
def Kst.statement (k : Kst) (payload : Bytes) : Bytes :=
  let sk := mlDsaNew 2 k.attMldsaSeed
  let sig1 := (mlDsaSignWith 2 (dsaKeyMatrix 2 sk) sk (pureEmpty (sigStructure (algProtected 50) payload)) (zeros 32)).1
  let sig2 := ecdsaDeterministic 1 k.attP384 (sha384 (sigStructure (algProtected 35) payload)) (some 2) 48
  cborHead 6 98 ++ cborArray [cborBytes bodyProtected, cborHead 5 0, cborBytes payload,
    cborArray [coseSignature 50 k.attMldsaPub sig1, coseSignature 35 k.attP384Pub sig2]]

end Sys2Proof.Machine
end

