-- ==== Sys2Proof/Machine/Events.lean ====
section
/-! DEFINITION. The commands on events and snapshots (R458 to R465). -/

namespace Sys2Proof.Machine

open Sys2Proof

/-- A command that a timer brings about: device time has reached the timer's instant (log entry 1). -/
def State.atTime (s : State) (t : Nat) : State := { s with now := max s.now t }

/-- COAL_TIME_US has passed since the oldest unsent occurrence (R458, R460). -/
def State.coalTimer (s : State) (src : Nat) : State :=
  let e := s.source src
  let r := s.route src
  if e.unsent != 0 && r.timeUs != 0 && !e.mask then (s.atTime (e.oldest + 1000 * r.timeUs)).sendEvent src else s

def execEventCoalTimer (source : Nat) (s : State) : Host.Outcome State Fault Refusal :=
  engineCmd s (s.coalTimer source)

/-- Writes one MASK bit; unmasking with an unsent count sends one message (R459). -/
def State.setMask (s : State) (src : Nat) (m : Bool) : State :=
  let e := s.source src
  let s := s.setSource src { e with mask := m }
  if e.mask && !m && e.unsent != 0 then s.sendEvent src else s

/-- The reach sources routed to a VF (R459, R469). -/
def State.vfSources (s : State) (vf : Nat) : List Nat :=
  match s.cfg.reachOf vf with
  | none => []
  | some r => (List.range 4).filter fun k => (s.route (0x300 + 4 * r + k)).fn == vf

/-- The VF register ignores writes while the VF is not configured (R77, R78). EVT_CFG for the PF (MASK is bit 31, of the source EVT_SEL names), VFN_EVT_MASK for a VF (R459, R469). -/
def State.maskWrite (s : State) (fn value : Nat) : State :=
  if !s.fnConfigured fn && fn != 0 then s
  else if fn = 0 then (if eventListed s.evt.sel then s.setMask s.evt.sel (bitOf value 31) else s)
  else
    let r := (s.cfg.reachOf fn).getD 0
    (s.vfSources fn).foldl (fun s k => s.setMask (0x300 + 4 * r + k) (bitOf value k)) s

def execEventMaskWrite (fn value : Nat) (s : State) : Host.Outcome State Fault Refusal :=
  hostCmd s (s.maskWrite fn value)

/-- The MSI-X state of a function after a change. -/
def FnState.msixChange (f : FnState) : MsixChange → FnState
  | .enable on => { f with msixEnable := on }
  | .funcMask on => { f with funcMask := on }
  | .vecMask v on => { f with vecOpen := if on then f.vecOpen.filter (· != v) else addOnce f.vecOpen v }

/-- After messages of a function are allowed again: one message for each unmasked source with an unsent count whose
vector was closed before and is open now, and each waiting queue message (R458). -/
def State.msixResend (old s : State) (fn : Nat) : State :=
  let opened (v : Nat) : Bool := !old.msixOpen fn v && s.msixOpen fn v
  let srcs := (s.evt.src.filter fun x =>
    !x.2.mask && x.2.unsent != 0 && (s.route x.1).fn == fn && opened (s.route x.1).vector).map Prod.fst
  let s1 := srcs.foldl (fun s n => s.sendEvent n) s
  let f := s1.fn fn
  let now := f.direct.filter opened
  let s2 := now.foldl (fun s v => s.sent (.msix fn v)) s1
  s2.setFn fn { f with direct := f.direct.filter (fun v => !opened v), pba := f.pba.filter (fun v => !opened v) }

/-- A mask bit stands in the table only for the function's own vectors (R72). -/
def msixWithin (fn : Nat) : MsixChange → Bool
  | .vecMask v _ => v < vectorsOf fn
  | _ => true

/-- A VF that is not enabled is absent (R78). -/
def State.msixStateChange (s : State) (fn : Nat) (c : MsixChange) : State :=
  if msixWithin fn c && s.fnOpen fn then State.msixResend s (s.setFn fn ((s.fn fn).msixChange c)) fn else s

def execMsixStateChange (fn : Nat) (change : MsixChange) (s : State) : Host.Outcome State Fault Refusal :=
  hostCmd s (s.msixStateChange fn change)

/-! ## Snapshots -/

def execTrigIn (s : State) : Host.Outcome State Fault Refusal := engineCmd s (s.requestCapture .pin)

def execCapture (s : State) : Host.Outcome State Fault Refusal := hostCmd s (s.requestCapture .command)

/-- RELEASE clears FROZEN (R463). -/
def execRelease (s : State) : Host.Outcome State Fault Refusal :=
  hostCmd s { s with snp := { s.snp with frozen := false, sources := 0 } }

/-- The 1 µs pulse of TRIG_OUT ends (R461). -/
def execTrigOutPulseEnd (s : State) : Host.Outcome State Fault Refusal :=
  .next { s with pins := { s.pins with trigOut := false } }

end Sys2Proof.Machine
end

