-- ==== Sys2Proof/Machine/HtData.lean ====
section
/-! DEFINITION. The lanes and the core of a hash tile (R230 to R238): block by block absorption, padding, squeezing, the
masked state, and what a masked step draws (R273). -/

namespace Sys2Proof.Machine

open Sys2Proof

/-- FUNC codes 0 to 5 run on the SHA-2 core, the others on a lane. -/
def isSha2 (f : Nat) : Bool := f ≤ 5

def sha2Of (f : Nat) : Sha2 := if f ≤ 1 then sha2w32 else sha2w64

/-- Bytes of a block; raw Keccak-f takes its whole state. -/
def htBlock (f : Nat) : Nat :=
  match f with
  | 10 | 12 => 168 | 11 | 13 => 136 | 14 => 200
  | f => hashBlock f

/-- Bytes of a SHA-2 digest. -/
def sha2Out (f : Nat) : Nat := match f with | 0 | 4 => 28 | 1 | 5 => 32 | 2 => 48 | _ => 64

def sha2Start (f : Nat) : List Nat :=
  match f with
  | 0 => ivNext.map fun x => x % 2 ^ 32
  | 1 => ivFirst.map fun x => x / 2 ^ 32
  | 2 => ivNext
  | 3 => ivFirst
  | 4 => ivOfName "SHA-512/224"
  | _ => ivOfName "SHA-512/256"

def Sha2.join (h : Sha2) (v : List Nat) : Bytes := v.flatMap fun x => toBe (h.width / 8) x
def Sha2.parts (h : Sha2) (b : Bytes) : List Nat := (List.range 8).map fun i => beNat (slice b (h.width / 8 * i) (h.width / 8))

/-- A unit at the start of a message. -/
def HashUnit.fresh (f : Nat) : HashUnit where
  func := f
  order := 0
  state := if isSha2 f then (sha2Of f).join (sha2Start f) else zeros 200
  buf := []
  shares := []
  bufs := []
  unmasked := false
  fed := 0
  fromInput := false
  lastSeen := false
  padded := false
  given := 0
  desc := 0

/-- The permutation of a lane's state. -/
def permute (state : Bytes) : Bytes := ofLanes (keccakF (toLanes 25 state))

/-- Drawn bytes of one masked step at order `d`: those of its refresh and those of its rounds (R273). -/
def refreshBytes (d : Nat) : Nat := 20 * d
def HashUnit.rounds (u : HashUnit) : Nat := if isSha2 u.func then (sha2Of u.func).rounds else 24
def HashUnit.stepBits (u : HashUnit) : Nat := u.rounds * (u.order * (u.order + 1) / 2 * 32) + u.order * 160

/-- A refresh: each further share register takes 160 bits of drawn randomness, and the first share the rest (R236, R273). -/
def HashUnit.refresh (u : HashUnit) (drawn : Bytes) : HashUnit :=
  { u with shares := ((List.range u.shares.length).zip u.shares).map fun x =>
      xorBytes x.2 (fit 200 (fit 20 (slice drawn (20 * x.1) 20))) }

/-- A block into the state and one permutation or compression. A masked one refreshes the shares first, and how it shares its
result anew R215 and R234 do not say; what the shares stand for is the function's. -/
def HashUnit.step (u : HashUnit) (drawn blk : Bytes) (more : List Bytes) : HashUnit :=
  let r := u.refresh drawn
  let ins := ((List.range r.shares.length).zip r.shares).map fun x => xorBytes x.2 (fit 200 (more.getD x.1 []))
  let first := ins.foldl xorBytes (xorBytes u.state (fit 200 blk))
  let others := (List.range u.shares.length).map fun k =>
    fit 200 (Config.maskedShare u.func (first :: ins) (drawn.drop (refreshBytes u.order)) k)
  if isSha2 u.func then
    { u with shares := others, state := (sha2Of u.func).join ((sha2Of u.func).compress ((sha2Of u.func).parts u.state) blk) }
  else { u with shares := others, state := permute (xorBytes u.state (fit 200 blk)) }

/-- The drawn bytes of step `i`. -/
def HashUnit.drawnAt (u : HashUnit) (drawn : Bytes) (i : Nat) : Bytes := drawn.drop (u.stepBits / 8 * i)

/-- Absorbs data, with the shares behind the first of what it stands for: whole blocks as they fill; raw Keccak-f adds it to
its state and waits for the permutation. -/
def HashUnit.feed (u : HashUnit) (drawn data : Bytes) (more : List Bytes) : HashUnit :=
  let share (k : Nat) : Bytes := fit data.length (more.getD k [])
  if u.func = 14 then
    { u with state := xorBytes u.state (fit 200 data), fed := u.fed + data.length,
             shares := ((List.range u.shares.length).zip u.shares).map fun x => xorBytes x.2 (fit 200 (share x.1)) }
  else
    let n := htBlock u.func
    let all := u.buf ++ data
    let rows := (List.range u.shares.length).map fun k => fit u.buf.length (u.bufs.getD k []) ++ share k
    let k := all.length / n
    { (List.range k).foldl (fun (u : HashUnit) i =>
        u.step (u.drawnAt drawn i) (slice all (n * i) n) (rows.map fun r => slice r (n * i) n)) u with
      buf := all.drop (n * k), bufs := rows.map fun r => r.drop (n * k), fed := u.fed + data.length }

/-- The domain byte of the function: IMM's low byte for the cSHAKE forms, where it is not 0 (log entry 25). -/
def htDomain (f imm : Nat) : Nat :=
  match f with
  | 10 | 11 => 0x1F
  | 12 | 13 => if imm % 256 = 0 then 0x04 else imm % 256
  | _ => 0x06

/-- Padding and the final block (R232). -/
def HashUnit.close (u : HashUnit) (drawn : Bytes) (imm : Nat) : HashUnit :=
  if u.padded then u
  else
    let n := htBlock u.func
    let last :=
      if isSha2 u.func then
        let h := sha2Of u.func
        u.buf ++ [0x80] ++ zeros ((2 * n - (u.buf.length + 1 + h.lenBytes) % n) % n) ++ toBe h.lenBytes (8 * u.fed)
      else keccakPad n (htDomain u.func imm) u.buf
    if u.func = 14 then { u with padded := true }
    else
      let bs := blocksOf n last
      { (List.range bs.length).foldl (fun (u : HashUnit) i =>
          u.step (u.drawnAt drawn i) (bs.getD i []) (u.bufs.map fun b => if i = 0 then b else [])) u with
        buf := [], bufs := [], padded := true }

/-- Output of a unit: what its shares stand for, and the shares behind the first (R235). -/
structure HtOut where
  value : Bytes
  more : List Bytes
  deriving DecidableEq, Repr

def HtOut.join (a b : HtOut) : HtOut :=
  { value := a.value ++ b.value, more := (a.more.zip b.more).map fun x => x.1 ++ x.2 }

/-- `n` bytes from a place of the state. -/
def HashUnit.window (u : HashUnit) (at_ n : Nat) : HtOut :=
  { value := fit n (slice u.state at_ n), more := u.shares.map fun s => fit n (slice s at_ n) }

/-- The next `n` bytes of output, in at most `f` pieces: a lane permutes when a block is used up. -/
def HashUnit.giveGo : Nat → HashUnit → Bytes → Nat → HtOut × HashUnit
  | 0, u, _, _ => (u.window 0 0, u)
  | f + 1, u, drawn, n =>
    if n = 0 then (u.window 0 0, u)
    else
      let b := htBlock u.func
      let turn := u.given != 0 && u.given % b == 0
      let v := if turn then u.step drawn [] [] else u
      let m := min n (b - v.given % b)
      let r := HashUnit.giveGo f { v with given := v.given + m } (if turn then u.drawnAt drawn 1 else drawn) (n - m)
      ((v.window (v.given % b) m).join r.1, r.2)

/-- The next `n` bytes of output. -/
def HashUnit.give (u : HashUnit) (drawn : Bytes) (n : Nat) : HtOut × HashUnit :=
  if isSha2 u.func then
    let m := min n (sha2Out u.func - u.given)
    let o := u.window u.given m
    ({ value := fit n o.value, more := o.more.map (fit n) }, { u with given := u.given + n })
  else u.giveGo (n / htBlock u.func + 2) drawn n

/-- Permutations or compressions that a word's operation runs: a masked one draws for each (R273). -/
def HashUnit.steps (u : HashUnit) (op n : Nat) : Nat :=
  let b := htBlock u.func
  match op with
  | 1 => (u.buf.length + n) / b
  | 2 => 1
  | 3 => if isSha2 u.func then ceilDiv (u.buf.length + 1 + (sha2Of u.func).lenBytes) b else 1
  | 4 => if isSha2 u.func then 0 else (u.given + n - 1) / b - (u.given - 1) / b
  | _ => 0

/-- Bits of masking randomness that an operation draws at the unit's order (R273): rounds of the steps, and the refresh of
the state shares before each step, a refresh word, and a save. -/
def HashUnit.maskBits (u : HashUnit) (op n : Nat) : Nat :=
  u.steps op n * u.stepBits + (if op = 5 ∨ op = 7 then u.order * 160 else 0)

/-- The unit runs masked from its first secret byte on (R234): the shares behind the first start at zero. -/
def HashUnit.mask (u : HashUnit) (d : Nat) : HashUnit :=
  if u.order < d then
    { u with order := d, shares := List.replicate d (zeros 200), bufs := List.replicate d (zeros u.buf.length) }
  else u

/-- The Boolean shares of an output at order `d`, the first one first (R235). -/
def HtOut.shares (o : HtOut) (d : Nat) : List Bytes :=
  let rows := (List.range d).map fun k => fit o.value.length (o.more.getD k [])
  rows.foldl xorBytes o.value :: rows

/-- Cycles of one permutation or compression (R231). -/
def stepCycles (f d : Nat) : Nat :=
  if isSha2 f then
    (if f ≤ 1 then [64, 256, 576, 896] else [80, 320, 720, 1120]).getD d 0
  else [12, 24, 54, 86].getD d 0

end Sys2Proof.Machine
end

