-- ==== Sys2Proof/Machine/Contexts.lean ====
section
/-! DEFINITION. The saved contexts of the hash tiles (R237 to R241): basin entries, their lazy use, and what spills to HBM. -/

namespace Sys2Proof.Machine

open Sys2Proof

/-- The node's context lies in a basin entry. -/
def CtxPlace.isEntry : CtxPlace → Bool
  | .entry _ => true
  | _ => false

def Node.inEntry (n : Node) : Bool := n.saved.isSome && n.ctx.isEntry

/-- Contexts of nodes of a basin's jobs that a property picks. -/
def State.ctxCount (s : State) (b : Nat) (p : Job → Node → Bool) : Nat :=
  ((s.jobs.filter fun j => j.basin == b).map fun j => (j.nodes.filter fun n => n.info.cls == .ht && p j n).length).sum

/-- Contexts that routines of a basin have saved by word and keep while they run (R321). -/
def State.wordSaves (s : State) (b : Nat) (p : Nat → Bool) : Nat :=
  ((s.tiles.filter fun x => keyClass x.1 == NodeClass.ht.code && basinOf .ht (keyIndex x.1) == b && p x.2.reach).map
    fun x => x.2.seqr.saves.length).sum

/-- Basin entries in use by the reaches that `p` names, and all of them (R237, R249). -/
def State.entriesUsed (s : State) (b : Nat) (p : Nat → Bool) : Nat :=
  s.ctxCount b (fun j n => n.inEntry && p j.reach) + s.wordSaves b p

/-- The TIMING_ISOLATED reaches that hold HTs in the basin: each has 32 entries of its own (R240). -/
def State.isolatedHts (s : State) (b : Nat) : List Nat :=
  (s.cfg.reaches.filter fun x => s.isolated x.id && (basinTiles .ht b).any fun i => s.cfg.mayUse .ht i x.id false).map
    ReachRec.id

/-- The reaches that share entries with one, and how many entries those are (R240). -/
def State.entryPool (s : State) (b r : Nat) : (Nat → Bool) × Nat :=
  if (s.isolatedHts b).contains r then ((· == r), 32)
  else (fun x => !(s.isolatedHts b).contains x, 512 - 32 * (s.isolatedHts b).length)

/-- The 2 KiB record of a kept context, by its first unit (R237). -/
def SavedCtx.record (c : SavedCtx) : Bytes :=
  let u := ((c.seqr.units.head?).map Prod.snd).getD (HashUnit.fresh 11)
  Config.ctxRecord [u.func, u.order, u.fed, u.desc, c.reach, c.tag] (u.shares.foldl xorBytes u.state :: u.shares)
    (u.bufs.foldl xorBytes u.buf :: u.bufs)

def State.setCtx (s : State) (id i : Nat) (c : CtxPlace) : State :=
  match s.job id with
  | none => s
  | some j => match j.node i with
    | none => s
    | some n => s.setJob (j.setNode i { n with ctx := c })

/-- A context in an entry: job, node, priority and the place of its save in the order of saves. -/
structure KeptCtx where
  job : Nat
  idx : Nat
  prio : Nat
  seq : Nat
  deriving DecidableEq, Repr

def Job.keptCtx (j : Job) (i : Nat) : Option KeptCtx :=
  match j.nodes[i]? with
  | some n =>
    (match n.ctx with
     | .entry q => if n.inEntry && n.info.cls == .ht then some { job := j.id, idx := i, prio := j.entry.prio, seq := q } else none
     | _ => none)
  | none => none

def State.keptCtxs (s : State) (b : Nat) (p : Nat → Bool) : List KeptCtx :=
  (s.jobs.filter fun j => j.basin == b && p j.reach).flatMap fun j => (List.range j.nodes.length).filterMap j.keptCtx

/-- The least recently saved context of the least urgent priority (R240). -/
def firstToSpill (xs : List KeptCtx) : Option KeptCtx :=
  xs.foldl (fun best x =>
    match best with
    | none => some x
    | some b => if b.prio < x.prio || (b.prio == x.prio && x.seq < b.seq) then some x else some b) none

/-- A context goes to HBM: its record is written there under its reach's key (R240). -/
def State.spillCtx (s : State) (id i : Nat) : State :=
  match s.job id with
  | none => s
  | some j => match j.node i with
    | none => s
    | some n =>
      let s := s.putCtx j.reach id i ((n.saved.map SavedCtx.record).getD [])
      s.setJob (j.setNode i { n with ctx := .spilled, inHbm := true })

/-- An entry for a context of a reach in a basin: a full basin spills one first (R240). -/
def State.makeEntry (s : State) (b r : Nat) : State :=
  let pool := s.entryPool b r
  if s.entriesUsed b pool.1 < pool.2 then s
  else match firstToSpill (s.keptCtxs b pool.1) with
    | some v => s.spillCtx v.job v.idx
    | none => s

/-- Puts a context into an entry of its basin (R237). -/
def State.saveCtx (s : State) (id i : Nat) : State :=
  match s.job id with
  | none => s
  | some j =>
    let s := s.makeEntry j.basin j.reach
    (s.setCtx id i (.entry s.weir.seq)).takeSeq

/-- Before a masked context is saved, its shares are refreshed from the tile's expander (R236, R273). -/
def State.refreshSaved (s : State) (k id i : Nat) : State :=
  match (s.job id).bind fun j => j.node i with
  | none => s
  | some n =>
    match n.saved with
    | none => s
    | some c =>
      let d := c.seqr.units.foldl (fun m u => max m u.2.order) 0
      if d = 0 then s
      else
        match s.takeBlocks (128 + keyIndex k) k (ceilDiv (d * 160) 256) with
        | (none, s) => s
        | (some drawn, s) =>
          let us := c.seqr.units.map fun (x : Nat × HashUnit) => (x.1, x.2.refresh drawn)
          (match s.job id with
            | some j => s.setJob (j.setNode i { n with saved := some { c with seqr := { c.seqr with units := us } } })
            | none => s)

/-- The nodes whose contexts lie in a lane still. -/
def State.laneCtxs (s : State) (k : Nat) : List (Nat × Nat) :=
  s.jobs.flatMap fun j => (List.range j.nodes.length).filterMap fun i =>
    match j.nodes[i]? with
    | some n => if n.st == .yielded k && n.ctx == .lane then some (j.id, i) else none
    | none => none

/-- Another node takes the lane: what lies in it is saved now (R238). -/
def State.saveLane (s : State) (k : Nat) : State := (s.laneCtxs k).foldl (fun s x => (s.refreshSaved k x.1 x.2).saveCtx x.1 x.2) s

/-- A spilled record has been read back for its job (R240): the first spilled context is in an entry again. -/
def State.restoreCtx (s : State) (id : Nat) : State :=
  match s.job id with
  | none => s
  | some j =>
    match j.nodes.findIdx? fun n => n.saved.isSome && n.ctx == .spilled with
    | some i => s.saveCtx id i
    | none => s

end Sys2Proof.Machine
end

