-- ==== Sys2Proof/Machine/Hbm.lean ====
section
/-! DEFINITION. HBM and its protection: line reads and writes (R361, R369), errors, poison and quarantine (R365 to R367) and the
patrol scrub (R368). -/

namespace Sys2Proof.Machine

open Sys2Proof

/-! ## Errors (R365 to R367) -/

def count32 (t : Tbl Nat) (k : Nat) : Tbl Nat := tset t k (satAdd 0xFFFFFFFF (tget 0 t k) 1)

def State.lineCorrected (s : State) (c l : Nat) : State :=
  State.raise { s with hbm := { s.hbm with ce := count32 s.hbm.ce c } } (0x020 + c) l

/-- Remaps a line to a spare of its channel while one is free (R366). -/
def Hbm.quarantine (h : Hbm) (c key : Nat) : Hbm :=
  if tget 0 h.sparesUsed c < 32768 then
    { h with sparesUsed := tset h.sparesUsed c (tget 0 h.sparesUsed c + 1), spare := addOnce h.spare key }
  else h

def Hbm.poison (h : Hbm) (key : Nat) : Hbm := { h with poisoned := addOnce h.poisoned key }

/-- A slot is lost with the vault line that held it (R183, R367). -/
def State.vaultLost (s : State) (n : Nat) : State :=
  let x := s.slot n
  if x.st = .empty then s
  else
    let r := attrOwner x.attr
    ((s.invalidate n).raise 0x040 n).raiseReach r 3 (2 ^ 24 + n)

/-- The slots whose vault copy uses a line of a vault place. -/
def State.slotsUsing (s : State) (p : Place) (n : Nat) : List Nat :=
  (s.slots.filter fun x => x.2.st == .live &&
    (let dedicated := ((s.cfg.reach (attrOwner x.2.attr)).map fun r => r.pchMask != 0).getD false
     p.reach == (if dedicated then attrOwner x.2.attr else 64)) &&
    Config.vaultLine x.1 ≤ n && n < Config.vaultLine x.1 + ceilDiv x.2.bytes 64).map Prod.fst

/-- The entries of a reach's matrix (0) or tree (1) cache that use the line are gone: their slots' next use rebuilds them
(R367). A McEliece entry is rebuilt in the same way and stays listed. -/
def State.dropEntries (s : State) (r n which : Nat) : State :=
  let x := s.reach r
  let size (k : Nat) : Nat := if which = 0 then matrixBytes (s.slot k).attr else treeBytes (s.slot k)
  let stays (k : Nat) : Bool := !(Config.cacheLine which k ≤ n && n < Config.cacheLine which k + ceilDiv (size k) 64)
  s.setReach r (if which = 0 then { x with matrices := x.matrices.filter stays } else { x with trees := x.trees.filter stays })

/-- The jobs with a spilled hash context in a reserve line (R240). -/
def State.ctxAt (s : State) (p : Place) (n : Nat) : List Nat :=
  (s.jobs.filter fun j => s.reserveOf j.reach == p.reach && (List.range j.nodes.length).any fun i =>
    ((j.nodes[i]?).any fun n => n.saved.isSome && n.ctx == .spilled) && Config.ctxLine j.id i ≤ n && n < Config.ctxLine j.id i + 32).map Job.id

/-- What else a poisoned line costs (R367). A program's line ends each later node that fetches it. -/
def State.lineLost (s : State) (c l : Nat) : State :=
  match s.placeOf c l with
  | none => s
  | some (p, n) =>
    match p.kind with
    | .descriptors =>
      let base := if p.reach < 64 then ((s.cfg.reach p.reach).map ReachRec.keyBase).getD 0 else 0
      (s.vaultLost (base + 2 * n)).vaultLost (base + 2 * n + 1)
    | .vault => (s.slotsUsing p n).foldl State.vaultLost s
    | .matrix => s.dropEntries p.reach n 0
    | .tree => s.dropEntries p.reach n 1
    | .reserve => (s.ctxAt p n).foldl (fun s id => s.failJob id .memUncorrectable 0) s
    | _ => s

def poisonWord (scrub : Bool) (kind c l : Nat) : Nat := 2 ^ 31 + b2n scrub * 2 ^ 30 + kind * 2 ^ 28 + c * 2 ^ 24 + l

/-- HBM_LAST_POISON and the poison event. -/
def State.poisonSeen (s : State) (scrub : Bool) (kind c l : Nat) : State :=
  let w := poisonWord scrub kind c l
  State.raise { s with hbm := { s.hbm with lastPoison := w } } (0x030 + c) w

/-- A line that fails ECC or its MAC. -/
def State.poisonLine (s : State) (scrub mac : Bool) (c l : Nat) : State :=
  let h := (s.hbm.poison (lineKey c l)).quarantine c (lineKey c l)
  let h := if mac then { h with macFail := count32 h.macFail c } else { h with ue := count32 h.ue c }
  (State.poisonSeen { s with hbm := h } scrub (b2n mac) c l).lineLost c l

/-- A MAC line that fails its ECC: its eight lines are poisoned where they lie. -/
def State.poisonMacLine (s : State) (scrub : Bool) (c l : Nat) : State :=
  let first := l / 8 * 8
  let ls := (List.range 8).map (first + ·)
  let h := s.hbm.quarantine c (2 ^ 28 + lineKey c (l / 8))
  let h := ls.foldl (fun h l => h.poison (lineKey c l)) { h with ue := count32 h.ue c }
  ls.foldl (fun s l => s.lineLost c l) (State.poisonSeen { s with hbm := h } scrub 2 c first)

/-- The MACs of a line's MAC line as they are read, and the state after that line's own code was checked; none when it fails
(R360, R366). -/
def State.readMacLine (s : State) (scrub : Bool) (c l : Nat) (e : List BadSymbol) : Option Bytes × State :=
  let d := decodeLine (s.macLineOf c l) e
  match d.line (s.macLineOf c l) with
  | none => (none, s.poisonMacLine scrub c l)
  | some v => (some v, if d = .corrected then s.lineCorrected c (s.usableLines + l / 8) else s)

/-- The ciphertext of a line after its checks, ECC and then the MAC, and the state after them; none when one fails (R361). -/
def State.checkLine (s : State) (scrub : Bool) (c l : Nat) (p : Place) (n : Nat) (e : LineErr) : Option Bytes × State :=
  let d := decodeLine (s.hbm.line c l) e.line
  match d.line (s.hbm.line c l) with
  | none => (none, s.poisonLine scrub false c l)
  | some x =>
    let s := if d = .corrected then s.lineCorrected c l else s
    match s.readMacLine scrub c l e.macLine with
    | (none, t) => (none, t)
    | (some macs, t) =>
      if slice macs (8 * (l % 8)) 8 = lineMac t.hbm.kMac (lineKey c l) (t.tagOfLine p n) x then (some x, t)
      else (none, t.poisonLine scrub true c l)

def Hbm.isPoisoned (h : Hbm) (key : Nat) : Bool := h.poisoned.contains key

/-- The job whose read met a poisoned line (R366). -/
def State.readFails (s : State) (job : Option Nat) : State :=
  match job with
  | some id => s.failJob id .memUncorrectable 0
  | none => s

/-! ## Accesses -/

/-- Does the job's reach own the line's place (R363)? Accesses of the key store and the move of device-reserve lines carry
no job of another reach. -/
def State.mayTouch (s : State) (job : Option Nat) (p : Place) : Bool :=
  match job.bind s.job with
  | none => true
  | some j => 64 ≤ p.reach || p.reach == j.reach

/-- An access outside the job's regions is an access fault: ENGINE_FAULT at once (R324, R363). -/
def State.accessFault (s : State) (job : Option Nat) : State :=
  match job with
  | some id => s.failJob id .engineFault 0
  | none => s

/-- The line's value as a reader gets it, or none when the access fails; and the state after its checks. -/
def State.fetchLine (s : State) (c l : Nat) (p : Place) (n : Nat) (e : LineErr) : Option Bytes × State :=
  if s.fresh p n then (some (zeros 64), s)
  else if s.hbm.isPoisoned (lineKey c l) then (none, s)
  else
    match s.checkLine false c l p n e with
    | (some x, t) => (some (plainLine ((t.keyOfLine p n).getD []) (lineKey c l) x), t)
    | (none, t) => (none, t)

/-- An access to a placed line of a channel in service, whose key is held; any other access does not occur. -/
def State.accessLine (s : State) (c l : Nat) (job : Option Nat) (f : Place → Nat → State) : State :=
  if !s.hbm.keysValid || !s.hbm.chanOn c then s
  else
    match s.placeOf c l with
    | none => s
    | some (p, n) =>
      if !s.mayTouch job p then s.accessFault job else if (s.keyOfLine p n).isNone then s else f p n

def State.readLine (s : State) (c l : Nat) (job : Option Nat) (check : LineErr) : State :=
  s.accessLine c l job fun p n =>
    match s.fetchLine c l p n check with
    | (some v, t) =>
      let t : State := { t with hbm := { t.hbm with readLine := v } }
      -- a restore of a hash context goes through here (R240)
      match job with
      | some id => if p.kind = .reserve then t.restoreCtx id else t
      | none => t
    | (none, t) => t.readFails job

def execHbmRead (chan line : Nat) (job : Option Nat) (check : LineErr) (s : State) :
    Host.Outcome State Fault Refusal := engineCmd s (s.readLine chan line job check)

def State.writeLine (s : State) (c l : Nat) (bs : Bytes) : State :=
  s.accessLine c l none fun p n => s.putLine p n bs

def execHbmWrite (chan line : Nat) (bytes : Bytes) (s : State) : Host.Outcome State Fault Refusal :=
  engineCmd s (s.writeLine chan line bytes)

def State.writePart (s : State) (c l off : Nat) (bs : Bytes) (job : Option Nat) (check : LineErr) : State :=
  s.accessLine c l job fun p n =>
    match s.fetchLine c l p n check with
    | (some v, t) => t.putLine p n ((overlayAt v off bs).take 64)
    | (none, t) => t.readFails job

def execHbmPartialWrite (chan line off : Nat) (bytes : Bytes) (job : Option Nat) (check : LineErr) (s : State) :
    Host.Outcome State Fault Refusal := engineCmd s (s.writePart chan line off bytes job check)

/-! ## The patrol scrub (R368) -/

def Hbm.scrubs (h : Hbm) (c : Nat) : Nat := tget 0 h.scrubbed c

/-- A line of a fresh page, or of no region, is checked for ECC only. -/
def State.scrubEcc (s : State) (c l : Nat) (e : LineErr) : State :=
  match decodeLine (s.hbm.line c l) e.line with
  | .corrected => s.lineCorrected c l
  | .detected => s.poisonLine true false c l
  | _ => s

/-- The next line of the channel: data lines, then the MAC region, whose line k holds the MACs of lines 8k to 8k + 7. -/
def State.scrub (s : State) (c : Nat) (check : LineErr) : State :=
  if !s.hbm.keysValid || !s.hbm.chanOn c then s
  else
    let l := s.hbm.scrubs c % s.chanLines
    let s := { s with hbm := { s.hbm with scrubbed := tset s.hbm.scrubbed c (s.hbm.scrubs c + 1) } }
    if s.usableLines ≤ l then
      match decodeLine (s.hbm.line c l) check.line with
      | .corrected => s.lineCorrected c l
      | .detected => s.poisonMacLine true c (8 * (l - s.usableLines))
      | _ => s
    else if s.hbm.isPoisoned (lineKey c l) then s
    else
      match s.placeOf c l with
      | some (p, n) => if s.fresh p n then s.scrubEcc c l check else (s.checkLine true c l p n check).2
      | none => s.scrubEcc c l check

def execPatrolScrub (chan : Nat) (check : LineErr) (s : State) : Host.Outcome State Fault Refusal :=
  engineCmd s (s.scrub chan check)

/-- Completed passes over every channel in service (R370). -/
def State.scrubPasses (s : State) : Nat :=
  ((((List.range 16).filter s.hbm.chanOn).map fun c => s.hbm.scrubs c / s.chanLines).min?).getD 0

end Sys2Proof.Machine
end

