-- ==== Sys2Proof/Machine/Watershed.lean ====
section
/-! DEFINITION. The Watershed controller: loading (R63, R64), validation (R57 to R62, R504), commit and the switch point
(R65 to R70, R145, R208, R246, R253, R279). -/

namespace Sys2Proof.Machine

open Sys2Proof

/-- The code STATE of R60: a command in a state that does not accept it. -/
def errState : Nat := 0x13

def State.wshError (s : State) (code type off : Nat) : State :=
  { s with wsh := { s.wsh with errCode := code, errType := type, errOffset := off } }

/-- WSH_ERR (R71). -/
def Wsh.errWord (w : Wsh) : Nat := w.errType * 65536 + w.errCode

/-- A command in the wrong state, a pending life-cycle transition and SAFE_STANDBY: the state stays and WSH_ERR.CODE
becomes STATE (R64, R397, R434). RECORD_TYPE and WSH_ERR_OFFSET keep what they held (DESIGN CHOICE, log entry 79). -/
def State.wshRefuse (s : State) : State := { s with wsh := { s.wsh with errCode := errState } }

def State.wshCmd (s : State) (ok : Bool) (t : State) : State :=
  if ok && !s.lcs.pending && !s.rst.safeStandby then t else s.wshRefuse

/-! ## Loading -/

def Wsh.mayBegin (w : Wsh) : Bool := w.st == .empty || w.st == .valid || w.st == .rejected || w.st == .committed

/-- R64: staging zeroed, LOADING. -/
def State.wshBegin (s : State) : State :=
  s.wshCmd s.wsh.mayBegin { s with wsh := { s.wsh with
    st := .loading, staging := [], loaded := 0, partialFlag := false, parsed := none } }

def execBegin (s : State) : Host.Outcome State Fault Refusal := hostCmd s s.wshBegin

/-- R63: the load window takes writes of any size in LOADING. DESIGN CHOICE (log entry 106): the bytes loaded end one past the
highest offset written, gaps being zero. -/
def State.loadWindow (s : State) (off : Nat) (bs : Bytes) : State :=
  if s.wsh.st = .loading ∧ off + bs.length ≤ 0x1000000 then
    { s with wsh := { s.wsh with staging := memWrite s.wsh.staging off bs, loaded := max s.wsh.loaded (off + bs.length) } }
  else s

def execLoadWindowWrite (offset : Nat) (bytes : Bytes) (s : State) : Host.Outcome State Fault Refusal :=
  hostCmd s (s.loadWindow offset bytes)

/-- The staged bytes from offset 0; a byte that was not written is 0 (BEGIN zeroes staging). -/
def unstage : List (Nat × Byte) → Nat → Nat → Bytes
  | _, _, 0 => []
  | [], _, n => zeros n
  | (k, v) :: t, i, n + 1 => if k = i then v :: unstage t (i + 1) n else 0 :: unstage ((k, v) :: t) (i + 1) n

def Wsh.bytes (w : Wsh) : Bytes := unstage w.staging 0 w.loaded

def execValidate (s : State) : Host.Outcome State Fault Refusal :=
  hostCmd s (s.wshCmd (s.wsh.st == .loading) { s with wsh := { s.wsh with st := .validating } })

/-- R64: DISCARD returns LOADING, VALID and REJECTED to EMPTY. -/
def State.wshDiscard (s : State) : State :=
  s.wshCmd (s.wsh.st == .loading || s.wsh.st == .valid || s.wsh.st == .rejected)
    { s with wsh := { s.wsh with st := .empty, staging := [], loaded := 0, partialFlag := false, parsed := none } }

def execDiscard (s : State) : Host.Outcome State Fault Refusal := hostCmd s s.wshDiscard

/-! ## Validation -/

def programmed (d : Bytes) : Bool := !allZero d

/-- The digests that the signer must match, by life-cycle state (R58). -/
def State.signer (s : State) : Option (Bytes × Option Bytes) :=
  let two (a b : Bytes) : Option (Bytes × Option Bytes) := some (a, if programmed b then some b else none)
  match s.lcs.st with
  | .owned => two s.fuse.ownerMldsa s.fuse.ownerEcdsa
  | .testUnlocked | .fieldReturn => two s.fuse.testMldsa s.fuse.testEcdsa
  | _ => none

def State.busyReaches (s : State) : List Nat :=
  (s.reaches.filter fun x => x.2.st != .absent && x.2.st != .quiesced).map Prod.fst

/-- What validation reads of the device. A unit that a later block reset disabled counts as disabled at boot (DESIGN
CHOICE, log entry 81). -/
def State.valEnv (s : State) : ValEnv where
  stepping := s.fuse.stepping
  deviceId := s.fuse.deviceId
  signer := s.signer
  floors := s.ledger.floors
  lastSerial := s.wsh.serial
  configured := s.wsh.configured
  disPt := s.rst.disPt
  disHt := s.rst.disHt
  disBnu := s.rst.disBnu
  disCu := s.rst.disCu
  disCc := s.rst.disCc
  smallStack := s.fuse.smallStack
  mappedOut := s.hbm.mappedOut
  busyReaches := s.busyReaches
  current := s.cfg
  parts := s.parts

def vErr (code type off : Nat) : VErr := { code := code, type := type, off := off }

/-- Checks 1 to 5: the header and the record headers. Record headers that do not tile the stream are reported as the header
checks are, with RECORD_TYPE and offset 0 (DESIGN CHOICE, log entry 79). -/
def headerErr (env : ValEnv) (h : Header) (bs : Bytes) : Except VErr (List Raw) :=
  if !h.magicOk then .error (vErr 1 0 0)
  else if h.format < 1 || 3 < h.format || h.hdrLen != 64 then .error (vErr 2 0 0)
  else if !bitOf h.stepMask env.stepping then .error (vErr 3 0 0)
  else if h.target != 2 ^ 64 - 1 && h.target != env.deviceId then .error (vErr 4 0 0)
  else if h.totalLen % 8 != 0 || 0x1000000 < h.totalLen || bs.length < h.totalLen || h.totalLen < 64 then
    .error (vErr 5 0 0)
  else
    match tileRecords (h.totalLen / 8) 64 ((bs.take h.totalLen).drop 64) with
    | none => .error (vErr 5 0 0)
    | some rs => if rs.length = h.count then .ok rs else .error (vErr 5 0 0)

/-- The context string of R57. -/
def wshContext : Bytes := ascii "LX9-WATERSHED"

/-- Check 7, SIG_KEY: each key's digest against its fuse digest. -/
def keyErr (mldsa : Bytes) (ecdsa : Option Bytes) (sigs : List (Nat × SigRec)) : Option VErr :=
  (sigs.find? fun x => some (sha3_384 x.2.key) != (if x.2.alg = 1 then some mldsa else ecdsa)).map fun x =>
    vErr 7 0xFF x.1

/-- R57: does a signature cover the signed bytes? -/
def sigVerifies (signed : Bytes) (x : SigRec) : Bool :=
  if x.alg = 1 then
    mlDsaAccepts 2 x.key ([0, BitVec.ofNat 8 wshContext.length] ++ wshContext ++ signed) x.sig
  else ecdsaAccepts 1 x.key (sha384 signed) x.sig

def sigErr (signed : Bytes) (sigs : List (Nat × SigRec)) : Option VErr :=
  (sigs.find? fun x => !sigVerifies signed x.2).map fun x => vErr 8 0xFF x.1

/-- The serial floor of a stream's signers (R59). -/
def floorOf (floors : List (Bytes × Nat)) (sigs : List SigRec) : Nat :=
  (sigs.map fun x => ((floors.find? fun f => f.1 == sha3_384 x.key).map Prod.snd).getD 0).foldl max 0

/-- REACH_MASK and WORD_COUNT of the images that the stream's own UCODE_CUST records carry (R331). -/
def rawCust (rs : List Raw) (eng : Nat) : Option (Nat × Nat) :=
  ((rs.filter fun r => r.type == 0x09).find? fun r => fieldLe r.val 0 1 == eng).map fun r =>
    (fieldLe r.val 8 8, fieldLe r.val 2 2)

/-- Every tile of a POOLED grant that boot disabled, once (R62). -/
def droppedTiles (env : ValEnv) (rs : List (Nat × Rec)) : List (Nat × Nat) :=
  let pool := ((collect recTile rs).map Prod.snd).filter fun t => t.mode == .pooled
  tileClasses.flatMap fun c =>
    ((List.range (classCount c)).filter fun i => bitOf (env.disabled c) i && pool.any fun t => bitOf (t.map c) i).map fun i =>
      (c.code, i)

/-- What MEAS[6] is extended with, in stream order (R246): the microwords of each image, the value of each OWNER_PROG. -/
def imageDigests (rs : List Raw) : List Bytes :=
  (rs.filter fun r => r.type == 0x09 || r.type == 0x0A).map fun r =>
    sha3_384 r.val

/-- Checks 10 to 13 on verified records. -/
def contentErr (env : ValEnv) (h : Header) (rs : List Raw) : Except VErr (List (Nat × Rec)) :=
  let part := bitOf h.flags 0
  if part != env.configured then .error (vErr 0x14 0 0)
  else
    match firstErr (missingErrs part rs ++ structErrs part [] rs) with
    | some e => .error e
    | none =>
      if h.flags ≥ 2 || 8 ≤ h.stepMask || !h.rsvdOk then .error (vErr 0x0D 0 0)
      else
        match parseRecs (parseRec opDefined imageOk (rawCust rs) h.format) rs with
        | .error e => .error e
        | .ok recs =>
          match resourceErrs env part recs with
          | some e => .error e
          | none =>
            match quiesceErr env part recs with
            | some e => .error e
            | none => .ok recs

/-- The whole of VALIDATE (R60): the parsed stream, or the first failing check. -/
def validateStream (env : ValEnv) (bs : Bytes) : Except VErr Stream :=
  let h := parseHeader bs
  match headerErr env h bs with
  | .error e => .error e
  | .ok rs =>
    match env.signer with
    | none => .error (vErr 6 0 0)
    | some (mldsa, ecdsa) =>
      match sigPolicy ecdsa.isSome rs with
      | some e => .error e
      | none =>
        let raws := rs.filter fun r => r.type == 0xFF
        let sigs := raws.map fun r => (r.off, parseSig r)
        let signed := bs.take ((raws.head?.map Raw.off).getD 0)
        match (keyErr mldsa ecdsa sigs).or (sigErr signed sigs) with
        | some e => .error e
        | none =>
          let part := bitOf h.flags 0
          if h.serial < floorOf env.floors (sigs.map Prod.snd) ∨ (part ∧ env.configured ∧ h.serial ≤ env.lastSerial) then
            .error (vErr 0x0A 0 0)
          else
            match contentErr env h rs with
            | .error e => .error e
            | .ok recs =>
              .ok { serial := h.serial, partialLoad := part, cfg := resultSetup env part recs,
                    sigs := sigs.map Prod.snd, digest := sha3_384 (bs.take h.totalLen),
                    named := (collect recReach recs).map fun x => x.2.id,
                    namedAt := (collect recReach recs).map fun x => (x.2.id, x.1), dropped := droppedTiles env recs,
                    images := imageDigests rs }

def State.reject (s : State) (e : VErr) : State :=
  let s := State.wshError { s with wsh := { s.wsh with st := .rejected, springWait := false } } e.code e.type e.off
  s.raise 0x001 s.wsh.errWord

/-- The end of validation. DESIGN CHOICE (log entry 112): WSH_STAT.PARTIAL shows the staged FLAGS bit from here on. -/
def State.validated (s : State) : State :=
  let bs := s.wsh.bytes
  let s := { s with wsh := { s.wsh with partialFlag := bitOf (parseHeader bs).flags 0 } }
  match validateStream s.valEnv bs with
  | .error e => s.reject e
  | .ok p => { s with wsh := { s.wsh with st := .valid, parsed := some p } }

def execValidationComplete (s : State) : Host.Outcome State Fault Refusal :=
  engineCmd s (if s.wsh.st = .validating then s.validated else s)

/-! ## COMMIT -/

/-- R68: does a REACH record replace the reach of that number that stands? -/
def replaces (a b : ReachRec) : Bool :=
  a.ownerDigest != b.ownerDigest || a.strict != b.strict || a.keyBase != b.keyBase || a.keyCount != b.keyCount

/-- The reaches a commit creates: all of a full stream, and the new and replaced ones of a partial one. -/
def State.createdBy (s : State) (p : Stream) : List Nat :=
  p.named.filter fun r =>
    match s.cfg.reach r, p.cfg.reach r with
    | some a, some b => !p.partialLoad || replaces a b
    | _, _ => true

/-- R66 once more at COMMIT. -/
def State.notQuiesced (s : State) (p : Stream) : Option VErr :=
  if !p.partialLoad then none
  else
    (p.namedAt.find? fun x => s.busyReaches.contains x.1).map fun x => vErr 0x12 2 x.2

/-- R65, R70: refused under a fence or halt; re-checked; then COMMITTING, with the wait of R279. -/
def State.wshCommit (s : State) : State :=
  match s.wsh.parsed with
  | none => s.wshRefuse
  | some p =>
    if s.rst.fenced || s.lev.fenced || s.lev.halted then s.wshRefuse
    else
      match s.notQuiesced p with
      | some e => State.reject { s with wsh := { s.wsh with applyUs := 0 } } e
      | none => { s with wsh := { s.wsh with
          st := .committing, commitAt := s.now,
          springWait := !(s.createdBy p).isEmpty && s.spr.st != .running } }

/-- COMMIT is answered under a halt as well (R70). -/
def execCommit (s : State) : Host.Outcome State Fault Refusal :=
  .next (if s.hostLinked then s.wshCmd (s.wsh.st == .valid) s.wshCommit else s)

/-- R279: 40 ms without the Spring end the commit. -/
def State.springTimeout (s : State) : State :=
  ((s.atTime (s.wsh.commitAt + 40000000)).stampCommit).reject (vErr errState 0 0)

def execCommitSpringWaitTimeout (s : State) : Host.Outcome State Fault Refusal :=
  engineCmd s (if s.wsh.st = .committing ∧ s.wsh.springWait ∧ s.spr.st ≠ .running then s.springTimeout else s)

/-! ## Measurements (R245) -/

def State.extendDev (s : State) (i : Nat) (d : Bytes) : State :=
  { s with meas := s.meas.set i (sha3_384 (s.meas.getD i measZero ++ d)),
           measCnt := s.measCnt.set i (satAdd 0xFFFFFFFF (s.measCnt.getD i 0) 1) }

/-! ## The switch point -/

/-- What R145 compares of a tile's role: the reaches with their frame slots, and the chains it is a member of, by
CHAIN_ID. DESIGN CHOICE (log entry 110): a reach replaced under its REACH_ID counts as the same reach. -/
def Setup.tileRole (c : Setup) (cls : NodeClass) (i : Nat) : List (Nat × Nat) × List Nat :=
  ((c.grants cls i).map fun t => (t.reach, t.slotMask),
    if cls = .pt then (c.chains.filter fun h => h.tiles.contains i).map ChainRec.id else [])

def sameSet {α : Type} [DecidableEq α] (a b : List α) : Bool := a.all (b.contains ·) && b.all (a.contains ·)

def roleDiffers (a b : List (Nat × Nat) × List Nat) : Bool := !(sameSet a.1 b.1 && sameSet a.2 b.2)

/-- The tiles whose role differs between two configurations, by key. -/
def changedTiles (old new : Setup) : List Nat :=
  tileClasses.flatMap fun c =>
    ((List.range (classCount c)).filter fun i => roleDiffers (old.tileRole c i) (new.tileRole c i)).map (tkey c)

def State.bumpTile (s : State) (k : Nat) : State := s.setTile k { s.tile k with epoch := (s.tile k).epoch + 1 }

def State.bumpChains (s : State) (old new : Setup) : State :=
  let ids := (new.chains.filter fun c => !old.chains.contains c).map ChainRec.id
  ids.foldl (fun (s : State) i => { s with chainEpoch := tset s.chainEpoch i (tget 0 s.chainEpoch i + 1) }) s

def State.bumpReach (s : State) (r : Nat) : State := s.setReach r { s.reach r with epoch := (s.reach r).epoch + 1 }

/-- The key registers of a reach's regions, which are drawn in this order and before its reserve key (R359; the order is
DESIGN CHOICE, log entry 97). -/
def ReachRec.regionKeys (x : ReachRec) : List Nat :=
  ([(PlaceKind.priv, x.privMib), (.tree, x.treeMib), (.matrix, x.matrixMib), (.mce, x.mceMib)].filter
    fun y => y.2 != 0).map fun y => placeId y.1 x.id

/-- The keys of a reach are discarded. -/
def State.dropRegionKeys (s : State) (r : Nat) : State :=
  { s with hbm := { s.hbm with
    keys := s.hbm.keys.filter fun y => !(y.1 % 128 == r), keyDue := s.hbm.keyDue.filter fun y => !(y % 128 == r) } }

/-- R65: the reach as created: measurements clear, wrapping key, region keys and DRBG drawn. That its bucket starts full is
DESIGN CHOICE (log entry 38). -/
def State.createReach (s : State) (x : ReachRec) (st : ReachSt) : State :=
  let old := s.reach x.id
  let s := s.setReach x.id { ReachState.reset with
    st := st, epoch := old.epoch, lbm := old.lbm, stale := old.stale, bucket := max 1 (x.rateLimit / 1000) * jobUnit,
    bucketAt := s.now,
    regionGen := old.regionGen + 1, creations := old.creations + 1, wrapKey := deriveWrap s.kst.srk x.ownerDigest }
  ((x.regionKeys ++ [placeId .reserve x.id]).foldl State.drawRegionKey (s.dropRegionKeys x.id)).startDrbg x.id (toLe 1 x.id ++ x.pers)

/-- The functions whose reach a commit creates, replaces or changes: their queues are freed and start disabled, and their
random-data FIFOs start empty (R65, R68, R85, R87). -/
def movedFns (old new : Setup) (created : List Nat) : List Nat :=
  (List.range 256).filter fun fn =>
    old.reachOf fn != new.reachOf fn || (new.reachOf fn).any created.contains

def State.freeFns (s : State) (fns : List Nat) : State :=
  { s with queues := s.queues.filter fun x => !fns.contains (x.1 / 64)
           spr := { s.spr with fifo := s.spr.fifo.filter fun x => !fns.contains x.1 } }

/-- R68: what a replacement wipes of the reach that stood. -/
def State.wipeReplaced (s : State) (r : Nat) : State :=
  match s.cfg.reach r with
  | none => s
  | some x => (s.wipeRange x.keyBase x.keyCount).stopDrbg r

/-- The memory of a tile that leaves a reach is wiped (R85, R227); a tile that runs another reach's node holds nothing
else. -/
def Tile.wiped (t : Tile) : Tile := { t with mem := [], passed := [], seqr := Seqr.reset, lastReach := none }

/-- The memories of an engine's units, when none of them runs a node (R85, R428). -/
def State.wipeMemory (s : State) (k : Nat) : State :=
  match NodeClass.ofCode (keyClass k) with
  | none => s
  | some c =>
    let us := unitKeys c (keyIndex k)
    if us.any fun u => (s.tile u).node.isSome then s else us.foldl (fun s u => s.setTile u (s.tile u).wiped) s

/-- A tile passes to another reach: its memory, and what feeds it with masking randomness (R85, R227, R274, R275). -/
def State.wipeTile (s : State) (k : Nat) : State :=
  match NodeClass.ofCode (keyClass k) with
  | none => s
  | some c =>
    if (unitKeys c (keyIndex k)).any fun u => (s.tile u).node.isSome then s
    else (s.wipeMemory k).clearRandom c (keyIndex k)

def State.wipeTiles (s : State) (ks : List Nat) : State := ks.foldl State.wipeTile s

/-- Partitions after the commit (R253, R262). -/
def State.repartition (s : State) (p : Stream) : State :=
  let parts := (List.range 32).map fun i => (i, p.cfg.pages s.parts p.partialLoad p.named i)
  { s with parts := parts.filter fun x => !x.2.isEmpty }

/-- R59: the floor of each signing key, raised to the committed SERIAL. -/
def raiseFloor (serial : Nat) : List (Bytes × Nat) → Bytes → List (Bytes × Nat)
  | [], d => [(d, serial)]
  | (k, v) :: t, d => if k = d then (k, max v serial) :: t else (k, v) :: raiseFloor serial t d

/-- The ledger write of the floor commits with the switch point itself, so that no reset falls between the two (DESIGN
CHOICE, log entry 82). -/
def State.commitFloor (s : State) (p : Stream) : State :=
  if s.ledger.readOnly then { s with wsh := { s.wsh with floorStale := true } }
  else
    let ds := p.sigs.map fun x => sha3_384 x.key
    { s with ledger := { s.ledger with floors := ds.foldl (raiseFloor p.serial) s.ledger.floors },
             wsh := { s.wsh with floorStale := false } }

/-! ### The customer prime profiles (R208) -/

/-- Newton's steps for the inverse of an odd number modulo 2^32. -/
def inv32 (q : Nat) : Nat :=
  (List.range 5).foldl (fun x _ => x * ((2 + 2 ^ 32 * 2 ^ 32 - q * x % 2 ^ 32) % 2 ^ 32) % 2 ^ 32) q

def CustProf.commit (c : CustProf) : CustProf :=
  { c with qinv := (2 ^ 32 - inv32 c.q) % 2 ^ 32, mont := 2 ^ 64 % c.q }

def State.commitProfiles (s : State) : State :=
  let ks := List.range 16
  let words := ks.flatMap fun k => toLe 4 (s.cprofOf k).q ++ toLe 4 (s.cprofOf k).log2n
  State.extendDev { s with cprof := ks.map fun k => (k, (s.cprofOf k).commit) } 5 (sha3_384 words)

/-! ### What only a full commit does -/

/-- R420, R408: the always-on copies. -/
def State.commitAo (s : State) : State :=
  { s with ao := { s.ao with
    large := s.cfg.device.large, clockPlan := s.cfg.device.clockPlan,
    table := some (((List.range 26).filter isBattery).map fun i => (i, s.cfg.levCfg i)) } }

/-- MASK of a source under the committed stream: its EVENT record's, and clear without one (R457, R459). -/
def Setup.masked (c : Setup) (src : Nat) : Bool := (c.events.find? fun e => e.source == src).any EventRec.masked

/-- A full COMMIT sets every MASK bit; one that it clears is unmasked as by a write (R459, R460, log entry 31). -/
def State.commitEvents (s : State) : State :=
  (s.cfg.events.map EventRec.source ++ s.evt.src.map Prod.fst).foldl (fun s n => s.setMask n (s.cfg.masked n)) s

/-- The customer images (R317): their digests, one for each engine type. -/
def State.commitImages (s : State) : State :=
  (List.range 4).foldl (fun (s : State) e =>
    match s.cfg.ucode.find? fun u => u.engine == e with
    | some u =>
      let d := u.digest
      { s with stores := tset s.stores e { tget CtlStore.reset s.stores e with custDigest := d } }
    | none => s) s

/-- The 32 bits of RST_JRNL_STEPS_LO (R437). -/
def stepsLo (xs : List Nat) : Nat := ((List.range 16).map fun i => (xs.getD i 0) * 4 ^ i).sum

/-- Occurrences of the boot that wait for the first full COMMIT (R417, R452). -/
def State.commitBootEvents (s : State) : State :=
  let s := if s.ledger.readOnly then s.raise 0x048 0 else s
  let s := if s.rst.altUsed then s.raise 0x051 (stepsLo s.rst.outcomes) else s
  if bitOf s.lev.summaryRun 1 then s.raise 0x240 s.lev.summaryRun else s

/-- R384: a device that follows no upstream neighbour is its own master. -/
def State.commitTime (s : State) : State :=
  State.raise { s with cfl := { s.cfl with timeValid := true, masterDev := s.devId, hops := 0 } } 0x292 0

/-- R373, R375: from its COMMIT an enabled, trained port attests; a refused port starts again; others are DISABLED. -/
def State.commitPort (s : State) (p : Nat) : State :=
  if !s.cfg.portEn p then s.portGoes p .disabled 0
  else
    match (s.port p).st with
    | .trained | .refused =>
      (s.setPort p { s.port p with hs := .none, probed := none }).portGoes p .attesting 0
    | _ => s

def State.commitPorts (s : State) : State := (List.range 8).foldl State.commitPort s

def State.commitFull (s : State) (p : Stream) : State :=
  let s := s.commitAo.commitEvents.commitImages.commitProfiles
  let s := p.images.foldl (fun s d => s.extendDev 6 d) s
  let s := s.commitTime.commitBootEvents.stepOutcome 17 1
  { s with
    rst := { s.rst with wdtMs := s.cfg.policy.wdtMs }
    kst := { s.kst with vaultMib := s.cfg.device.vaultMib } }

/-- The frame runs while the configuration grants a FRAMED tile, and shows the slot of the moment (R136). -/
def State.startFrame (s : State) : State :=
  { s with weir := { s.weir with frameRun := s.cfg.tiles.any fun t => t.mode == .framed, slot := s.slotNo % 64 } }

/-- Creates one reach of the stream: SERVING by a full stream, QUIESCED by a partial one (R65). -/
def State.createNamed (p : Stream) (s : State) (r : Nat) : State :=
  match p.cfg.reach r with
  | some x => s.createReach x (if p.partialLoad then .quiesced else .serving)
  | none => s

/-- The configuration that a stream gives from the one in force: reaches outside a partial stream stand as they are at the
switch point, a reach removed since VALIDATE included (R67). -/
def Stream.setupOver (p : Stream) (cur : Setup) : Setup :=
  if p.partialLoad then
    { cur with
      reaches := (cur.reaches.filter fun r => !p.named.contains r.id) ++ p.cfg.reaches.filter fun r => p.named.contains r.id
      tiles := (cur.tiles.filter fun t => !p.named.contains t.reach) ++ p.cfg.tiles.filter fun t => p.named.contains t.reach
      chains := (cur.chains.filter fun c => !p.named.contains c.reach) ++
        p.cfg.chains.filter fun c => p.named.contains c.reach }
  else p.cfg

/-- R65, R68, R69: installs a stream at its switch point. -/
def State.install (s : State) (p0 : Stream) : State :=
  let old := s.cfg
  let p := { p0 with cfg := p0.setupOver old }
  let created := s.createdBy p
  let s := s.settleCovered fun j => created.contains j.reach || p.named.contains j.reach
  let s := s.freeFns (movedFns old p.cfg created)
  let ks := changedTiles old p.cfg
  let s := created.foldl State.wipeReplaced s
  let s := { s.repartition p with
    cfg := p.cfg, wsh := { s.wsh with configured := true } }
  let s := s.layHbm p.partialLoad created
  let s := created.foldl (State.createNamed p) s
  let s := (ks.foldl State.bumpTile (s.wipeTiles ks)).bumpChains old p.cfg
  let s := p.named.foldl State.bumpReach s
  let s := s.startFrame
  let s := if p.partialLoad then s else s.placePrograms.commitFull p
  s.extendDev 4 p.digest

def State.switchPoint (s : State) (p : Stream) : State :=
  let s := (s.install p).commitFloor p
  let s := { s with wsh := { s.wsh with
    st := .committed, serial := p.serial, digest := p.digest, springWait := false, parsed := none } }.stampCommit
  let s := s.commitPorts
  let s := p.dropped.foldl (fun s d => s.raise 0x002 (d.1 * 256 + d.2)) s
  s.raise 0x000 (p.serial % 2 ^ 32)

def execCommitSwitchPoint (s : State) : Host.Outcome State Fault Refusal :=
  engineCmd s (match s.wsh.st, s.wsh.parsed with
    | .committing, some p =>
      if !s.rst.inService || (s.wsh.springWait && s.spr.st != .running) then s else s.switchPoint p
    | _, _ => s)

end Sys2Proof.Machine
end

