-- ==== Sys2Proof/Machine/Inputs.lean ====
section
/-! DEFINITION. What an operation takes from its job (R160, R161, R163, R191, R193): the parts of its input, the message
that a signature covers, the bytes it drew, and its loaded key. -/

namespace Sys2Proof.Machine

open Sys2Proof

/-! ## Input parts -/

/-- The parts of a verification's input: public key, signature, the rest (R163, R191, R193). -/
def verifyParts (j : Job) (keyLen : Nat) (x : Option Slot) : Bytes × Bytes × Bytes :=
  match x with
  | some s => (s.pub, j.input.take (pSigLen j.param), j.input.drop (pSigLen j.param))
  | none =>
    (j.input.take keyLen, slice j.input keyLen (pSigLen j.param), j.input.drop (keyLen + pSigLen j.param))

/-- A public key from the slot, or from the input's first `n` bytes. -/
def pubIn (j : Job) (x : Option Slot) (n : Nat) : Bytes := match x with | some s => s.pub | none => j.input.take n

/-- The digest of a HASH_ALG or PH_ALG code (R153, R185). -/
def hashAlg (c : Nat) (m : Bytes) : Bytes :=
  match c with
  | 7 => shake128 m 32
  | 8 => shake256 m 64
  | _ => hashVar ((hashAlgVariant c).getD 1) m

/-- Last arc of the object identifier 2.16.840.1.101.3.4.2 of a hash code. -/
def oidArc (c : Nat) : Nat :=
  match c with
  | 1 => 1 | 2 => 2 | 3 => 3 | 4 => 8 | 5 => 9 | 6 => 10 | 7 => 11 | 8 => 12 | 9 => 4 | 10 => 5 | 11 => 6 | _ => 7

/-- The DER encoding of the hash's object identifier (R161). -/
def oidDer (c : Nat) : Bytes :=
  [0x06, 0x09, 0x60, 0x86, 0x48, 0x01, 0x65, 0x03, 0x04, 0x02, BitVec.ofNat 8 (oidArc c)]

/-- Message or digest, as DIGEST_IN says. -/
def digestOf (p m : Bytes) : Bytes := if pDigestIn p then m else hashAlg (pAlg p) m

/-- M′ of R161 from the input behind the signature: ctx, then the message or digest. -/
def messageRep (p rest : Bytes) : Bytes :=
  let c := pCtxLen p
  let ctx := rest.take c
  let m := rest.drop c
  if pPrehash p then [1, BitVec.ofNat 8 c] ++ ctx ++ oidDer (pAlg p) ++ digestOf p m
  else [0, BitVec.ofNat 8 c] ++ ctx ++ m

/-! ## Keys and drawn bytes -/

/-- The clear encoding of a loaded key. -/
def slotMat (x : Option Slot) : Bytes := (x.map Slot.mat).getD []

/-- The drawn bytes, or those of deterministic signing. -/
def signRandom (j : Job) (det : Bytes) : Bytes :=
  if pDeterministic j.param || j.entropy == .fallback then det else j.rnd

/-- The signature of an ML-DSA job and the iterations of its rejection loop (R127, R158). -/
def mlDsaJob (j : Job) (v : Nat) : Bytes × Nat :=
  let sk := slotMat j.keyCopy
  mlDsaSignWith v (dsaKeyMatrix v sk) sk (messageRep j.param j.input) (signRandom j (zeros 32))

end Sys2Proof.Machine
end

