-- ==== Sys2Proof/Machine/Sluice.lean ====
section
/-! DEFINITION. The Sluice: doorbells (R95, R96), fetching (R97), the checks of a fetched entry in their order (R106,
R156, R186), streamed input (R104), retirement, runs and completions (R107 to R112), ENABLE, queue reset and abort
(R113 to R120). -/

namespace Sys2Proof.Machine

open Sys2Proof

/-! ## Rings (R95) -/

def Queue.sqSize (q : Queue) : Nat := 2 ^ q.sqLog2
def Queue.cqSize (q : Queue) : Nat := 2 ^ q.cqLog2

/-- (a − b) mod n. -/
def modSub (a b n : Nat) : Nat := (a + n - b % n) % n

def Queue.pending (q : Queue) : Nat := modSub q.tail q.head q.sqSize
def Queue.full (q : Queue) : Bool := (q.cqTail + 1) % q.cqSize == q.cqHead

/-- A refused doorbell (R96): DB_ERR and the queue's error event. -/
def State.doorbellError (s : State) (fn q : Nat) : State :=
  let k := qkey fn q
  let s := s.setQueue k { s.queue k with dbErr := true }
  match s.cfg.reachOf fn with
  | some r => s.raiseReach r 1 (reachCause 1 fn q 0)
  | none => s

/-- Is the reach of a function in a state that records doorbells (R86, row 4)? -/
def State.doorbellOpen (s : State) (fn q : Nat) : Bool :=
  s.granted fn q &&
    (match s.cfg.reachOf fn with
      | some r => (s.reach r).st != .resetting && (s.reach r).st != .removing
      | none => false)

/-- R96 for the SQ. -/
def State.sqDoorbell (s : State) (fn q d : Nat) : State :=
  if !s.doorbellOpen fn q then s
  else
    let k := qkey fn q
    let x := s.queue k
    if d < x.sqSize && x.pending ≤ modSub d x.head x.sqSize then
      if d = x.tail then s
      else s.setQueue k { x with tail := d, doorbells := x.doorbells ++ [(d, s.now)] }
    else s.doorbellError fn q

/-- R96 for the CQ. -/
def State.cqDoorbell (s : State) (fn q v : Nat) : State :=
  if !s.doorbellOpen fn q then s
  else
    let k := qkey fn q
    let x := s.queue k
    if v < x.cqSize && modSub v x.cqHead x.cqSize ≤ modSub x.cqTail x.cqHead x.cqSize then
      s.setQueue k { x with cqHead := v }
    else s.doorbellError fn q

def execSqDoorbell (fn q value : Nat) (s : State) : Host.Outcome State Fault Refusal :=
  hostCmd s (s.sqDoorbell fn q value)

def execCqDoorbell (fn q value : Nat) (s : State) : Host.Outcome State Fault Refusal :=
  hostCmd s (s.cqDoorbell fn q value)

/-! ## Fetching (R97) -/

/-- The Sluice fetches nothing on a slow link (R72), under a fence, while it is stopped, and during a firmware activation. -/
def State.intakeOpen (s : State) : Bool :=
  !s.glb.linkSlow && !s.rst.fenced && !s.lev.fenced && !s.rst.sluiceStopped && !s.lcs.pending && s.fwu.st != .switching &&
    s.fwu.st != .fallingBack

/-- Completions that D3hot held go out before any new fetch of the function (R74). -/
def State.d3Owed (s : State) (fn : Nat) : Bool := s.queues.any fun x => x.1 / 64 == fn && x.2.waiting.any Waiting.held

def State.mayFetch (s : State) (k : Nat) (x : Queue) : Bool :=
  x.enable && x.fetching == 0 && x.tokenWait.isNone && 0 < x.pending && s.granted (k / 64) (k % 64) &&
    s.fetchOpen (k / 64) && !s.d3Owed (k / 64)

/-- The next queue in the round robin. -/
def State.nextFetch (s : State) : Option (Nat × Queue) :=
  let xs := s.queues.filter fun x => s.mayFetch x.1 x.2
  match xs.find? fun x => s.weir.nextQueue ≤ x.1 with
  | some x => some x
  | none => xs.head?

/-- One read of at most 32 entries that ends at TAIL or at the end of the ring. -/
def Queue.fetchLen (x : Queue) : Nat := min 32 (min x.pending (x.sqSize - x.head))

def State.sqFetch (s : State) : State :=
  match s.nextFetch with
  | none => s
  | some (k, x) =>
    { s.setQueue k { x with fetching := x.fetchLen } with weir := { s.weir with nextQueue := k + 1 } }

def execSqFetch (s : State) : Host.Outcome State Fault Refusal := engineCmd s (if s.intakeOpen then s.sqFetch else s)

/-! ## Runs and completions (R107 to R112) -/

/-- The 32 bytes of a completion entry (R107). -/
def Completion.bytes (c : Completion) (sqHead now : Nat) (phase : Bool) : Bytes :=
  toLe 2 c.cid ++ toLe 2 c.status ++ toLe 2 sqHead ++ toLe 2 (b2n c.explicitFlow * 0x8000 + c.flowId) ++
    toLe 4 c.jobs.length ++ toLe 4 c.outLen ++ toLe 4 c.detail ++
    toLe 4 (min 0xFFFFFFFF ((now - c.doorbellNs) / 1000)) ++ toLe 4 0 ++
    toLe 4 (b2n c.closed * 8 + b2n c.spilled * 4 + b2n c.lbm * 2 + b2n phase)

/-- A fence stops the Sluice after the last outstanding completion (R116, R423). -/
def State.fenceDone (s : State) : State :=
  if (s.rst.fenced || s.lev.fenced) && (s.jobs.all fun j => j.st == .covered) then { s with rst := { s.rst with sluiceStopped := true } } else s

/-- The covered jobs are no longer outstanding. One that a node past its COMMIT still serves is kept until that node ends
(R126). -/
def State.dropJobs (s : State) (ids : List Nat) : State :=
  { s with jobs := s.jobs.filterMap fun j =>
      if !ids.contains j.id then some j
      else if s.runsNode j.id then some { j with st := .covered, token := false }
      else none }

/-- Writes one completion entry after the output writes it covers, and signals it (R107, R456). -/
def State.emitCompletion (s : State) (fn q : Nat) (w : Waiting) : State :=
  let k := qkey fn q
  let x := s.queue k
  let s := { s with tx := s.tx ++ w.writes.map fun (p : Nat × Bytes) => s.dataWrite fn p }
  let s := s.sent (.completion fn q x.cqTail (w.comp.bytes x.head s.now x.phase))
  let t := (x.cqTail + 1) % x.cqSize
  let s := s.setQueue k { x with cqTail := t, phase := if t = 0 then !x.phase else x.phase }
  ((s.dropJobs w.comp.jobs).signalQueue fn q).fenceDone

/-- A completion is written, or waits for CQ space or D0 behind those that wait already (R112, R74); a stopped Sluice
writes none, nor does one that HALT stands still (R116). -/
def State.writeCompletion (s : State) (fn q : Nat) (w : Waiting) : State :=
  let k := qkey fn q
  let x := s.queue k
  if s.rst.sluiceStopped || s.lev.halted then s
  else if x.waiting.isEmpty && !x.full && !(s.fn fn).d3hot then s.emitCompletion fn q w
  else s.setQueue k { x with waiting := x.waiting ++ [w], cqFull := x.cqFull || x.full }

/-- R112: waiting completions are written while the CQ has room. -/
def State.drainCq : Nat → Nat → Nat → State → State
  | 0, _, _, s => s
  | n + 1, fn, q, s =>
    let k := qkey fn q
    let x := s.queue k
    match x.waiting with
    | [] => s.setQueue k { x with cqFull := false }
    | w :: ws =>
      if (s.fn fn).d3hot || s.rst.sluiceStopped || s.lev.halted then s
      else if x.full then s.setQueue k { x with cqFull := true }
      else State.drainCq n fn q ((s.setQueue k { x with waiting := ws }).emitCompletion fn q w)

def State.cqSpace (s : State) (fn q : Nat) : State :=
  State.drainCq ((s.queue (qkey fn q)).waiting.length + 1) fn q s

def execCqSpaceAvailable (fn q : Nat) (s : State) : Host.Outcome State Fault Refusal :=
  engineCmd s (s.cqSpace fn q)

/-- Does the open run belong to the job's flow (R109, R111)? -/
def Run.ofJob (r : Run) (j : Job) : Bool :=
  r.fn == j.fn && r.q == j.q && (r.explicitFlow, r.flowId) == j.entry.flowKey

/-- Output bytes laid over the output buffers in table order (R105). -/
def layOut : List (Nat × Nat) → Bytes → List (Nat × Bytes)
  | [], _ => []
  | (a, n) :: bs, out =>
    if out.isEmpty then [] else if n = 0 then layOut bs out
    else (a, out.take n) :: layOut bs (out.drop n)

/-- The completion that names a job, with the jobs of its open run in front (R109). -/
def Job.completion (j : Job) (run : Option Run) : Completion :=
  let out := (j.status.getD .ok).success
  { cid := j.entry.cid, status := (j.status.getD .ok).code, explicitFlow := j.entry.flow, flowId := j.entry.flowKey.2,
    jobs := ((run.map fun r => r.last.jobs).getD []) ++ [j.id], outLen := if out then j.output.length else 0,
    detail := j.detail, doorbellNs := j.doorbellNs, closed := !j.entry.compReq, spilled := j.wasSpilled,
    lbm := j.lbm || (run.map fun r => r.last.lbm).getD false }

/-- Does the entry close its run (R110)? -/
def Job.closesRun (j : Job) (count : Nat) : Bool :=
  j.status != some .ok || j.entry.compReq || j.closeHere || count == 65536

/-- The job retires (R111): its output is written, and its run goes on or is closed. -/
def State.retire (s : State) (j : Job) : State :=
  let run := s.runs.find? fun r => r.ofJob j
  let c := j.completion run
  let d3 := (s.fn j.fn).d3hot
  let mine := if (j.status.getD .ok).success then layOut j.outBufs j.output else []
  let held := (run.map Run.writes).getD []
  let s := if d3 then s else { s with tx := s.tx ++ mine.map fun (p : Nat × Bytes) => s.dataWrite j.fn p }
  let writes := if d3 then held ++ mine else held
  let rest := s.runs.filter fun r => !r.ofJob j
  if j.closesRun c.jobs.length then
    (State.setJob { s with runs := rest } { j with st := .retired }).writeCompletion j.fn j.q
      { comp := c, writes := writes, held := d3 }
  else
    let r : Run := { fn := j.fn, q := j.q, explicitFlow := j.entry.flow, flowId := j.entry.flowKey.2, last := c,
                     writes := writes }
    State.setJob { s with runs := rest ++ [r] } { j with st := .retired, token := false }

/-- The answer to the origin of a job run for a peer (R148): CLASS 0x0B with the status and the whole output. -/
def State.answerPeer (s : State) (j : Job) (port seq : Nat) : State :=
  let out := if (j.status.getD .ok).success then j.output else []
  let dev := (s.port port).peerDev
  let body := msgHeader 0x0B 0 48 j.reach s.devId dev (s.knownEpoch dev j.reach) seq out.length
    (j.status.getD .ok).code ++ toLe 4 j.detail ++ out
  ((s.sendFrame port 0x0B dev body).countTx).dropJobs [j.id]

/-- R111: the status is fixed and every earlier entry of the flow has retired. -/
def State.mayRetire (s : State) (j : Job) : Bool :=
  j.st == .ended && j.extend.isNone &&
    s.jobs.all fun x => x.id ≥ j.id || x.forPeer.isSome || !x.sameFlow j || x.retired

/-- R446: in TRIAL a job that completes with a success status or VERIFY_FALSE counts. -/
def State.trialJob (s : State) (j : Job) : State :=
  if s.fwu.st = .trial ∧ ((j.status.getD .ok).success ∨ j.status = some .verifyFalse) then
    { s with fwu := { s.fwu with jobsLeft := s.fwu.jobsLeft - 1 } }
  else s

def State.jobRetire (s : State) (id : Nat) : State :=
  match s.job id with
  | none => s
  | some j =>
    match j.forPeer with
    | some p => if j.st = .ended ∧ j.extend.isNone then (s.answerPeer j p.1 p.2).trialJob j else s
    | none => if s.mayRetire j then (s.retire j).trialJob j else s

def execJobRetire (job : Nat) (s : State) : Host.Outcome State Fault Refusal :=
  engineCmd s (if s.rst.sluiceStopped then s else s.jobRetire job)

/-- Fetching stops for a queue (R110): each open run closes at the last fetched entry of its flow. A Sluice that has stopped or
that HALT stands still closes none (R116). -/
def State.closeRuns (s : State) (fn q : Nat) : State :=
  if s.rst.sluiceStopped || s.lev.halted then s else
  let mine := s.jobs.filter fun j => j.fn == fn && j.q == q && j.forPeer.isNone && !j.retired
  let isLast (j : Job) : Bool := mine.all fun x => x.id ≤ j.id || !x.sameFlow j
  let marked := (mine.filter isLast).map Job.id
  let s := { s with jobs := s.jobs.map fun (j : Job) => if marked.contains j.id then { j with closeHere := true } else j }
  let due := s.runs.filter fun r => r.fn == fn && r.q == q && !(mine.any fun j => r.ofJob j)
  let s := { s with runs := s.runs.filter fun r => !(r.fn == fn && r.q == q && !(mine.any fun j => r.ofJob j)) }
  due.foldl (fun s r => s.writeCompletion fn q
    { comp := { r.last with closed := true }, writes := r.writes, held := (s.fn fn).d3hot }) s

def State.closeFnRuns (s : State) (fn : Nat) : State := (List.range 64).foldl (fun s q => s.closeRuns fn q) s

/-! ## The checks of a fetched entry -/

/-- What the checks have read of an entry: its operation, its template, its first table and its output buffers. -/
structure Checked where
  op : Op
  variant : Nat
  inSum : Nat
  inDone : Bool
  out : List Frag
  /-- the slot a creating job reserves, with the word it will hold -/
  creates : Option (Nat × BitVec 64)
  deriving DecidableEq, Repr

/-- The outcome of the checks: the first that fails, with its number, or what they found. -/
abbrev CheckR (α : Type) := Except (Status × Nat) α

def failIf (bad : Bool) (st : Status) (n : Nat) : CheckR Unit := if bad then .error (st, n) else .ok ()

def Slot.liveFor (x : Slot) (r : Nat) : Bool := x.st == .live && attrOwner x.attr == r

/-- Bytes of the vault that a key of this word takes: its copies, of which a public key alone has one (R292). -/
def keyBytes (a : BitVec 64) (pubOnly : Bool) : Nat :=
  let t := attrType a
  let p := attrParam a
  footprint (if pubOnly then pubLen t p else clearLen t p) (copyCount a pubOnly)

/-- The slot holds, or is reserved for, a public key alone. -/
def Slot.pubOnly (x : Slot) : Bool := x.mat.isEmpty && !x.pub.isEmpty

/-- A reserved slot: its word, and for a public key alone room for that. -/
def reservedSlot (w : BitVec 64) (pubOnly : Bool) : Slot :=
  { Slot.reset with st := .reserved, attr := w, pub := if pubOnly then zeros (pubLen (attrType w) (attrParam w)) else [] }

/-- Vault bytes in use by a reach's slots. -/
def State.vaultUsed (s : State) (x : ReachRec) : Nat :=
  ((s.slots.filter fun e => x.keyBase ≤ e.1 && e.1 < x.keyBase + x.keyCount && e.2.st != .empty).map fun e =>
    keyBytes e.2.attr e.2.pubOnly).sum

def State.quotaOk (s : State) (x : ReachRec) (a : BitVec 64) (pubOnly : Bool) : Bool :=
  s.vaultUsed x + keyBytes a pubOnly ≤ vaultQuota s.cfg.device.vaultMib x.keyCount * 1048576

/-- The word a creating job's slot will have (R162, R168, R201, R202, R296). -/
def createdAttr (o : Op) (v reach : Nat) (p : Bytes) : BitVec 64 :=
  if o == .importWrapped then 0
  else
    let t := if pToSlot p then toSlotType o v p else keygenType o v p
    let origin := if pToSlot p then 1 else if o == .importClear then 3 else 0
    attrSet (pAttr p) { type := t.1, param := t.2, origin := origin, owner := reach, stateful := isStatefulType t.1 }

/-- Does the slot that a job creates hold a public key alone (R300)? -/
def createsPublic (o : Op) (w : BitVec 64) : Bool := o == .importClear && importsPublic w && !isSymmetric (attrType w)

/-- The attribute word of the slot an entry names, while it is LIVE. -/
def State.slotWord (s : State) (e : Entry) : Option (BitVec 64) :=
  if e.keyValid && (s.slot e.slot).st == .live then some (s.slot e.slot).attr else none

def inRange (x : ReachRec) (slot : Nat) : Bool := x.keyBase ≤ slot && slot < x.keyBase + x.keyCount

/-- Checks 1 to 8 of R106. -/
def State.sluiceChecks (s : State) (x : ReachRec) (e : Entry) (a : Arrival) : CheckR Checked := do
  failIf (!check1 e) .badParams 1
  match jobOp s.cfg.graphs x.id e.opcode with
  | none => .error (.badOpcode, 2)
  | some (o, v) =>
    let t := s.cfg.templateOf x.id e.opcode o v a.param
    failIf (!s.canRun x.id t.2 (s.bnuNeed x.id e.keyValid (s.slotWord e) o v a.param) t.1) .badOpcode 3
    failIf (e.prio == 0 && x.prio0Rate == 0) .badParams 4
    failIf (e.keyValid && !inRange x e.slot) .keyReachMismatch 5
    failIf a.readErr .busError 6
    let noIn := e.inline || e.inAddr == 0
    let noOut := e.outAddr == 0
    failIf ((!noIn && e.inAddr % 16 != 0) || e.outAddr % 16 != 0) .badParams 7
    let inp := if noIn then some ([], true) else tableOk a.inTable
    let out := if noOut then some [] else outputChain a.outTables
    match inp, out with
    | some i, some fs =>
      let sum := if e.inline then e.inLen else fragSum i.1
      failIf (if i.2 then sum != e.inLen else e.inLen < sum) .lengthMismatch 8
      .ok { op := o, variant := v, inSum := sum, inDone := i.2, out := fs, creates := none }
    | _, _ => .error (.badParams, 7)

/-- Checks 9 to 16 of R156 and R186. A non-zero IN_ADDR or OUT_ADDR of an operation that uses none fails no check
(DESIGN CHOICE, log entry 125). -/
def State.opcodeChecks (s : State) (x : ReachRec) (e : Entry) (a : Arrival) (c : Checked) : CheckR Checked := do
  let o := c.op
  let v := c.variant
  let p := a.param
  let slot := s.slot e.slot
  let word := if e.keyValid && slot.liveFor x.id then some slot.attr else none
  failIf (match o.keyUse with | .required => !e.keyValid | .forbidden => e.keyValid | _ => false) .badParams 9
  failIf (match o.block with
    | .none => e.paramAddr != 0
    | .owner => false
    | .pq => e.paramAddr == 0 || !pqParamOk o v p
    | .classic => e.paramAddr == 0 || !classicParamOk o v e.keyValid x.id p) .badParams 10
  failIf (!slotParamOk o e.keyValid word p) .badParams 10
  failIf (!inLenOk o v e.keyValid word p e.inLen) .badParams 11
  let toSlot := o.block != .owner && o.block != .none && pToSlot p
  let dest := if toSlot then pDest p else e.slot
  failIf (toSlot && !inRange x dest) .keyReachMismatch 12
  -- IMPORT_WRAPPED meets the rest of checks 10 to 16 when its blob has arrived (R304)
  let creating := toSlot || (o.creates && o != .importWrapped)
  let w := createdAttr o v x.id p
  failIf (creating && (s.slot dest).st != .empty) .badParams 13
  failIf (creating && !s.quotaOk x w (createsPublic o w)) .badParams 13
  let uses := e.keyValid && !o.creates && o != .ownerOpcode
  failIf (uses && slot.st != .live) .keySlotEmpty 13
  failIf (uses && attrOwner slot.attr != x.id) .keyReachMismatch 14
  failIf (uses && !(o.typeOk v (attrType slot.attr) (attrParam slot.attr) &&
    (o != .mcelieceEncaps || s.encapsReady e.slot) && (o.usage == 0 || (attrUsage slot.attr &&& o.usage) != 0) && check15Extra o slot.attr p)) .keyUsageDenied 15
  let attestLen := (s.kst.statement (attestPayload (s.attestFront x.id e.slot) (zeros e.inLen)
    (s.attestBack e.slot))).length
  let need := if o == .attest then attestLen else outSize o v e.keyValid slot p e.inLen 0
  let extendOnly := o == .hash && pExtend p && e.outAddr == 0
  failIf (!extendOnly && fragSum c.out < need) .outputTooSmall 16
  .ok { c with creates := if creating then some (dest, w) else none }

def State.entryChecks (s : State) (x : ReachRec) (e : Entry) (a : Arrival) : CheckR Checked :=
  match s.sluiceChecks x e a with
  | .error r => .error r
  | .ok c => s.opcodeChecks x e a c

/-! ## Arrival -/

/-- The acceptance time of the first doorbell that covers the entry at HEAD (R96, R107). -/
def Queue.coveredAt (x : Queue) : Nat :=
  ((x.doorbells.find? fun d => 0 < modSub d.1 x.head x.sqSize).map Prod.snd).getD 0

/-- HEAD passes one entry. -/
def Queue.advance (x : Queue) : Queue :=
  let h := (x.head + 1) % x.sqSize
  { x with head := h, doorbells := x.doorbells.filter fun d => d.1 != h }

/-- A job as fetched, before its checks. -/
def newJob (id fn q reach doorbell : Nat) (e : Entry) (a : Arrival) : Job where
  id := id
  fn := fn
  q := q
  reach := reach
  entry := e
  doorbellNs := doorbell
  param := a.param
  input := if e.inline then e.inlineInput else []
  inSum := 0
  inDone := false
  inTables := 1
  outBufs := []
  st := .fetched
  basin := 0
  template := 0
  nodes := []
  firstDispatch := false
  committed := false
  abortLate := false
  status := none
  detail := 0
  output := []
  stage := []
  lbm := false
  wasSpilled := false
  spillPort := 0
  spillAt := none
  noSpill := false
  paid := false
  listSeq := 0
  nodeWait := false
  token := true
  entropy := .none
  rnd := []
  attest := none
  reserved := none
  index := none
  drawSeq := none
  extend := none
  extSeq := 0
  forPeer := none
  keyCopy := none
  keyGone := false
  closeHere := false

/-- The job's whole input has arrived and its lengths agree. -/
def Job.inputReady (j : Job) : Bool := j.inDone && j.input.length == j.entry.inLen

/-- IMPORT_WRAPPED's checks 10, 11, 13 and 16 on its blob, and the word of its slot (R304, R305). -/
def State.importChecks (s : State) (j : Job) : CheckR (BitVec 64) := do
  let b := j.input
  let w := importWord b (pAttr j.param) j.reach
  let mine := j.reserved == some j.entry.slot
  let full : Bool := match s.cfg.reach j.reach with | some x => !s.quotaOk x w (blobPubOnly b) | none => true
  failIf (!blobHeadOk b (pAttr j.param)) .badParams 10
  failIf (!blobLenOk b j.entry.inLen) .badParams 11
  failIf (!mine && ((s.slot j.entry.slot).st != .empty || full)) .badParams 13
  failIf (blobV1 b && (j.outBufs.map Prod.snd).sum < j.entry.inLen) .outputTooSmall 16
  return w

/-- IMPORT_WRAPPED meets those checks when its blob has arrived, and reserves its slot there (R290, R304, R314). -/
def State.reserveImport (s : State) (id : Nat) : State :=
  match s.job id with
  | none => s
  | some j =>
    if !((s.opOfJob j).map Prod.fst == some .importWrapped && j.inputReady && j.reserved.isNone && j.status.isNone) then s
    else
      match s.importChecks j with
      | .error (st, d) => s.endJob id st d
      | .ok w => (s.setJob { j with reserved := some j.entry.slot }).setSlot j.entry.slot (reservedSlot w (blobPubOnly j.input))

/-- The job after its checks: ended by the first that failed, or ready for the Weir; a creating job reserves its slot
(R290). -/
def State.checkJob (s : State) (x : ReachRec) (j : Job) (a : Arrival) : State :=
  let r := s.entryChecks x j.entry a
  let s := if j.entry.keyValid && inRange x j.entry.slot then s.touchDesc x.id j.entry.slot else s
  match r with
  | .error (st, n) => { s with jobs := s.jobs ++ [{ j with status := some st, detail := n, st := .ended }] }
  | .ok c =>
    let o := c.op
    let att := if c.op == .attest then some (s.attestFront x.id j.entry.slot, s.attestBack j.entry.slot) else none
    let j := { j with inSum := c.inSum, inDone := c.inDone, outBufs := c.out.map fun f => (f.addr, f.len),
                      reserved := c.creates.map Prod.fst, attest := att }
    let s := { s with jobs := s.jobs ++ [j] }
    match c.creates with
    | some (n, w) => s.setSlot n (reservedSlot w (createsPublic o w))
    | none => if o == .importWrapped then s.reserveImport j.id else s

/-- Is there a reorder token for the entry (R111)? -/
def State.tokenFor (s : State) (j : Job) : Bool := s.tokenFree j.fn j.q j.reach j.entry.flowKey

/-- An unreadable SQ entry (R119). -/
def State.fetchError (s : State) (fn q : Nat) : State :=
  let k := qkey fn q
  let s := s.setQueue k { s.queue k with enable := false, fetchErr := true }
  let s := s.closeRuns fn q
  match s.cfg.reachOf fn with
  | some r => s.raiseReach r 1 (reachCause 2 fn q 0)
  | none => s

/-- Entries in ring order until one cannot be read or finds no token. -/
def State.arrive (fn q : Nat) (x : ReachRec) : List Arrival → State → State
  | [], s => s
  | a :: as, s =>
    let k := qkey fn q
    let qu := s.queue k
    if a.slotErr then s.fetchError fn q
    else
      let j := newJob s.weir.nextJob fn q x.id qu.coveredAt (parseEntry a.slot) a
      if !s.tokenFor j then s.setQueue k { qu with tokenWait := some j.entry.flowKey }
      else
        let s := { s.setQueue k qu.advance with weir := { s.weir with nextJob := s.weir.nextJob + 1 } }
        State.arrive fn q x as (s.checkJob x j a)

def State.entryArrival (s : State) (fn q : Nat) (es : List Arrival) : State :=
  let k := qkey fn q
  let n := (s.queue k).fetching
  match (s.cfg.reachOf fn).bind s.cfg.reach with
  | none => s
  | some x =>
    if n = 0 || s.rst.sluiceStopped then s
    else State.arrive fn q x (es.take n) (s.setQueue k { s.queue k with fetching := 0 })

def execEntryArrival (fn q : Nat) (entries : List Arrival) (s : State) : Host.Outcome State Fault Refusal :=
  engineCmd s (s.entryArrival fn q entries)

/-- R111: fetching resumes once a token is free. -/
def State.tokenAvailable (s : State) (fn q : Nat) : State :=
  let k := qkey fn q
  let x := s.queue k
  match s.cfg.reachOf fn, x.tokenWait with
  | some r, some flow => if s.tokenFree fn q r flow then s.setQueue k { x with tokenWait := none } else s
  | _, _ => s

def execTokenAvailable (fn q : Nat) (s : State) : Host.Outcome State Fault Refusal := engineCmd s (s.tokenAvailable fn q)

/-! ## Streamed input (R104) -/

/-- The node of a job that runs past its COMMIT. -/
def State.committedNode (s : State) (id : Nat) : Option Nat :=
  ((s.jobTiles id true).find? s.tileCommitted).bind fun k => (s.tile k).node.map Prod.snd

/-- One streamed read of a job (R104, R106). An error that meets a routine past its COMMIT ends it FAULT_AFTER_COMMIT
(R327). -/
def State.inputRead (s : State) (id : Nat) (r : StreamRead) : State :=
  match s.job id with
  | none => s
  | some j =>
    if j.status.isSome then s
    else
      match r with
      | .busError => (match s.committedNode id with
        | some i => s.failNode id i .busError
        | none => s.failJob id .busError 0)
      | .data bs => (s.setJob { j with input := (j.input ++ bs).take j.entry.inLen }).reserveImport id
      | .table es =>
        if j.inDone then s
        else
          match tableOk es with
          | none => s.endJob id .badParams 7
          | some (fs, last) =>
            let sum := j.inSum + fragSum fs
            if !last && 256 ≤ j.inTables + 1 then s.endJob id .badParams 7
            else if j.entry.inLen < sum || (last && sum != j.entry.inLen) then s.endJob id .lengthMismatch 8
            else (s.setJob { j with inSum := sum, inDone := last, inTables := j.inTables + 1 }).reserveImport id

def execInputStreamRead (job : Nat) (read : StreamRead) (s : State) : Host.Outcome State Fault Refusal :=
  engineCmd s (s.inputRead job read)

/-! ## ENABLE, reset, abort -/

/-- Bases and sizes that permit ENABLE (R118). -/
def Queue.valid (x : Queue) : Bool :=
  6 ≤ x.sqLog2 && x.sqLog2 ≤ 16 && 6 ≤ x.cqLog2 && x.cqLog2 ≤ 16 && x.sqBase != 0 && x.cqBase != 0 &&
    x.sqBase.toNat % 4096 == 0 && x.cqBase.toNat % 4096 == 0

/-- A partial commit in progress names the reach (R70, R118): submission stays off, and block resets are refused. -/
def State.commitNames (s : State) (r : Nat) : Bool :=
  s.wsh.st == .committing &&
    (match s.wsh.parsed with
      | some p => p.partialLoad && p.named.contains r
      | none => false)

def Queue.result! (x : Queue) (st : Status) : Queue := { x with result := st.code }

/-- Submission cannot be enabled now: a commit that names the reach (R70), a fence or halt (R70), or a pending
life-cycle transition (R397). -/
def State.resumeBlocked (s : State) (r : Nat) : Bool :=
  s.commitNames r || s.rst.fenced || s.lev.fenced || s.lev.halted || s.lcs.pending

def State.setEnable (s : State) (fn q : Nat) (on : Bool) : State :=
  let k := qkey fn q
  let x := s.queue k
  if !s.granted fn q then s
  else if !on then (s.setQueue k { x with enable := false, fetching := 0, result := Status.ok.code }).closeRuns fn q
  else if x.enable then s.setQueue k (x.result! .ok)
  else if s.resumeBlocked ((s.cfg.reachOf fn).getD 0) then s.setQueue k (x.result! .busy)
  else if !x.valid then s.setQueue k (x.result! .badParams)
  else s.setQueue k { x with enable := true, result := Status.ok.code }

def execSluQEnable (fn q : Nat) (enable : Bool) (s : State) : Host.Outcome State Fault Refusal :=
  hostCmd s (s.setEnable fn q enable)

/-- R120, R428: pointers, PHASE, ENABLE, DB_ERR and FETCH_ERR of a disabled, idle queue. -/
def Queue.pointerReset (x : Queue) : Queue :=
  { x with head := 0, tail := 0, cqHead := 0, cqTail := 0, phase := true, enable := false, dbErr := false,
           fetchErr := false, cqFull := false, tokenWait := none, fetching := 0, doorbells := [], waiting := [] }

def State.queueReset (s : State) (fn q : Nat) : State :=
  let k := qkey fn q
  let x := s.queue k
  if !s.granted fn q then s
  else if x.enable || s.outstanding fn q != 0 || s.rst.fenced || s.commitNames ((s.cfg.reachOf fn).getD 0) then
    s.setQueue k (x.result! .busy)
  else s.setQueue k (x.pointerReset.result! .ok)

def execQueueReset (fn q : Nat) (s : State) : Host.Outcome State Fault Refusal := hostCmd s (s.queueReset fn q)

/-- R113, R114: every outstanding job of the queue that matches. -/
def State.queueAbort (s : State) (fn q : Nat) (all : Bool) (cid : Nat) : State :=
  let k := qkey fn q
  if !s.granted fn q then s
  else
    let ids := (s.jobs.filter fun j => j.fn == fn && j.q == q && j.forPeer.isNone &&
      (all || j.entry.cid == cid)).map Job.id
    let s := s.setQueue k ((s.queue k).result! (if ids.isEmpty then .badParams else .ok))
    ids.foldl State.abortJob s

def execSluQAbort (fn q : Nat) (all : Bool) (cid : Nat) (s : State) : Host.Outcome State Fault Refusal :=
  hostCmd s (s.queueAbort fn q all cid)

end Sys2Proof.Machine
end

