-- ==== Sys2Proof/Machine/Weir.lean ====
section
/-! DEFINITION. The Weir: admission and placement (R129 to R132), arbitration (R133 to R136), delay lists (R137 to R140),
ENTROPY-WAIT (R141), yields, restarts and epochs (R143 to R146), spill (R147, R148), and the node table (R126, R127). -/

namespace Sys2Proof.Machine

open Sys2Proof

/-! ## Admission (R129) -/

def State.isOp (s : State) (j : Job) (o : Op) : Bool := (s.opOfJob j).map Prod.fst == some o

/-- An earlier FENCE of the queue holds the entry back (R200). -/
def State.fenceBlocks (s : State) (j : Job) : Bool :=
  s.jobs.any fun x => x.fn == j.fn && x.q == j.q && x.id < j.id && x.forPeer.isNone && x.status.isNone &&
    s.isOp x .fence

/-- The end of the first tick at or after `t` (R137). -/
def State.tickEnd (s : State) (t : Nat) : Nat := ceilDiv t (max 1 s.cfg.device.tickNs) * s.cfg.device.tickNs

/-- When a job's DELAY expires (R139). -/
def State.delayEnd (s : State) (j : Job) : Nat := j.doorbellNs + j.entry.delay * s.cfg.device.tickNs

def State.templateFor (s : State) (j : Job) : List NodeRec × Bool :=
  match s.opOfJob j with
  | some (o, v) => s.cfg.templateOf j.reach j.entry.opcode o v j.param
  | none => ([], false)

def State.needOf (s : State) (j : Job) : BnuNeed :=
  match s.opOfJob j with
  | some (o, v) => s.bnuNeed j.reach j.entry.keyValid (s.keyWord j) o v j.param
  | none => { words := 0, operand := 0, cycles := 0 }

/-- Ready and running nodes of a basin at a priority or a more urgent one (R130); a yielded node is back in its ready list
(R143), and a node past its COMMIT runs on after its job has ended (R126). -/
def State.basinLoad (s : State) (b prio : Nat) : Nat :=
  ((s.jobs.filter fun j => j.basin == b && j.entry.prio ≤ prio).map fun j =>
    (j.nodes.filter fun n => match n.st with | .ready => true | .running _ => true | .yielded _ => true | _ => false).length).sum

/-! ### Pipeline chains (R50, R222, R223) -/

/-- The profile that a node's routine selects (R207): a built-in one of 0 to 3, a customer's any. -/
def NodeRec.profile (n : NodeRec) : Nat :=
  let p := Config.routineProfile n.routine
  if n.routine < customerBase then p % 4 else if p % 20 < 4 then p % 20 else 12 + p % 20

/-- The PROFILE that a PT-chain node of the job requires (R50); an owner template's follows from its routine (R207). -/
def State.jobProfile (s : State) (j : Job) (n : NodeRec) : Option Nat :=
  match s.opOfJob j with
  | none => none
  | some (o, v) =>
    match o with
    | .mlKemKeygen | .mlKemEncaps | .mlKemDecaps | .hybridKeygen | .hybridEncaps | .hybridDecaps => some 0
    | .mlDsaKeygen | .mlDsaSign | .mlDsaVerify => some 1
    | .mcelieceKeygen | .mcelieceEncaps | .mcelieceDecaps => some (if v % 8 = 0 then 2 else 3)
    | .ownerOpcode => some n.profile
    | _ => none

/-- The frame slots that a chain's reach holds on every tile of it (R222). -/
def Setup.chainSlots (c : Setup) (h : ChainRec) : List Nat :=
  (List.range 64).filter fun k => h.tiles.all fun i => (c.grants .pt i).any fun t =>
    t.reach == h.reach && (t.mode != .framed || bitOf t.slotMask k)

/-- The masking order a job runs at. -/
def State.orderOf (s : State) (j : Job) : Nat :=
  match s.opOfJob j with
  | some (o, _) => s.jobOrder o j.reach (s.keyWord j) j.param
  | none => 0

/-- Is some tile of the chain FRAMED? -/
def Setup.chainFramed (c : Setup) (h : ChainRec) : Bool := h.tiles.any fun i => (c.grants .pt i).any fun t => t.mode == .framed

/-- Can the chain take the node: its reach's, in service, of the job's order and profile, with a common slot, and not on FRAMED
tiles for a customer routine (R332)? -/
def State.chainTakes (s : State) (h : ChainRec) (j : Job) (n : NodeRec) : Bool :=
  h.reach == j.reach && !(n.customer false && s.cfg.chainFramed h) && s.chainInService h && !(s.cfg.chainSlots h).isEmpty &&
    h.order == s.orderOf j && s.jobProfile j n == some h.profile

def ChainRec.basin (h : ChainRec) : Nat := basinOf .pt (h.tiles.headD 0)

/-- R130: a basin that holds a chain for each PT-chain node, unless no chain of the reach can take it (R50). -/
def State.chainHomes (s : State) (b : Nat) (j : Job) (ns : List NodeRec) : Bool :=
  ns.all fun n => n.cls != .ptChain ||
    (let hs := s.cfg.chains.filter fun h => s.chainTakes h j n
     hs.isEmpty || hs.any fun h => h.basin == b)

/-- The basin with the least load among those that fit; ties go to the lowest number (R130). -/
def State.homeBasin (s : State) (j : Job) : Option Nat :=
  let t := s.templateFor j
  let ok := (List.range 8).filter fun b => s.basinHomes j.reach b t.2 (s.needOf j) t.1 && s.chainHomes b j t.1 &&
    (!j.entry.keyValid || !s.isolated j.reach || (s.isolatedIn b).contains j.reach)
  ok.foldl (fun best b =>
    match best with
    | none => some b
    | some c => if s.basinLoad b j.entry.prio < s.basinLoad c j.entry.prio then some b else some c) none

/-! ## Spill (R147) -/

/-- Admitted jobs none of whose nodes has been dispatched. -/
def Job.waitsFirst (j : Job) : Bool :=
  match j.st with
  | .admitted | .delayed | .delayPend => true
  | .running => !j.firstDispatch && !j.nodes.isEmpty
  | _ => false

def State.backlog (s : State) : Nat := (s.jobs.filter Job.waitsFirst).length

def State.spillThreshold (s : State) : Nat := (s.cfg.confluence.map ConfluenceRec.spillThreshold).getD 0

/-- The directly linked peer to spill to: the lowest backlog below its own threshold. -/
def State.spillPeer (s : State) : Option Nat :=
  let ok := s.upPorts.filter fun p =>
    let x := s.port p
    x.peerBacklog < x.peerThreshold && !x.peerFenced && !s.cfl.fencedDevs.contains x.peerDev
  ok.foldl (fun best p =>
    match best with
    | none => some p
    | some c => if (s.port p).peerBacklog < (s.port c).peerBacklog then some p else some c) none

/-- R147. DESIGN CHOICE (log entry 117): the whole input has arrived, the job reserves no slot, and it is no FENCE. -/
def State.spillable (s : State) (j : Job) : Bool :=
  j.entry.spillable && !j.noSpill && j.forPeer.isNone && j.reserved.isNone && !s.isOp j .fence &&
    ((s.cfg.reach j.reach).any fun x => !x.strict) && 1 ≤ j.entry.prio && s.delayEnd j ≤ s.now &&
    (!j.entry.keyValid ||
      (let x := s.slot j.entry.slot
       x.st == .live && attrReplicable x.attr && !attrStateful x.attr)) &&
    s.spillThreshold != 0 && s.spillThreshold < s.backlog && j.inputReady

/-- Forwards a whole job (R147, R148): reach, epoch as learned, owner digest, KEY_ID, entry, parameters, input. -/
def State.spillTo (s : State) (j : Job) (p : Nat) : State :=
  let x := s.port p
  let ep := ((x.peerEpochs.find? fun e => e.1 == j.reach).map Prod.snd).getD 0
  let own := ((s.cfg.reach j.reach).map ReachRec.ownerDigest).getD []
  let key := if j.entry.keyValid then (s.slot j.entry.slot).keyId else []
  let payload := own ++ fit 16 key ++ toLe 2 j.entry.opcode ++ toLe 2 j.entry.ctrl ++ toLe 4 j.entry.slot ++
    fit 64 j.param ++ j.input
  let body := msgHeader 0x0B 0 48 j.reach s.devId x.peerDev ep s.cfl.seq payload.length 0 ++ payload
  let q : CflReq := { id := s.cfl.seq, cls := 0x0B, dest := x.peerDev, reach := j.reach, slot := 0, job := some j.id,
                      sentAt := s.now, resent := false, again := false, place := false, body := payload }
  let room := s.deviceOpen
  let place := s.weir.listSeq
  let seq := s.cfl.seq + 1
  let s := ((s.sendFrame p 0x0B x.peerDev body).countTx).awaitReply q
  let s := { s with weir := { s.weir with spillOut := satAdd 0xFFFFFFFF s.weir.spillOut 1 },
                    cfl := { s.cfl with seq := seq } }
  -- the return timer takes a DEVICE-list entry, or waits for one (R138, R148)
  if room then s.setJob { j with st := .spilled, spillPort := p, spillAt := some s.now }
  else
    let s := ({ s with weir := { s.weir with delayOvf := true } } : State).takeListSeq
    s.setJob { j with st := .spilled, spillPort := p, spillAt := none, listSeq := place }

/-! ## Placement -/

/-- Steps 3 and 4 of R129, or the wait for a basin that is out of service (R427). -/
def State.place (s : State) (j : Job) : State :=
  match (if s.spillable j then s.spillPeer else none) with
  | some p => s.spillTo j p
  | none =>
    let t := s.templateFor j
    if t.1.isEmpty then s.setJob { j with st := .running }
    else
      match s.homeBasin j with
      | some b =>
        let j := { j with basin := b }
        if s.delayEnd j ≤ s.now || j.entry.delay = 0 then s.setJob { j with st := .admitted }
        else if s.listRoom b 0 j.reach then s.setJob { j with st := .delayed }
        else (s.setJob { j with st := .delayPend, listSeq := s.weir.listSeq }).listFull b
      | none => if s.canRun j.reach t.2 (s.needOf j) t.1 then s.setJob j else s.endJob j.id .badOpcode 0

/-- Every basin that could home the job is out of service for now (R427): it waits in front of its rate limit. -/
def State.basinWait (s : State) (j : Job) : Bool :=
  let t := s.templateFor j
  (!s.spillable j || s.spillPeer.isNone) && !t.1.isEmpty && (s.homeBasin j).isNone &&
    s.canRun j.reach t.2 (s.needOf j) t.1

/-! ### The rate limit (R140) -/

def State.rateLimit (s : State) (r : Nat) : Nat := ((s.cfg.reach r).map ReachRec.rateLimit).getD 0

/-- The content of a reach's bucket at a time: it fills at RATE_LIMIT jobs a second up to max(1, RATE_LIMIT / 1,000). -/
def State.bucketAt (s : State) (r t : Nat) : Nat :=
  let x := s.reach r
  min (max 1 (s.rateLimit r / 1000) * jobUnit) (x.bucket + (t - x.bucketAt) * s.rateLimit r)

/-- Takes one job's worth from the bucket now. -/
def State.takeToken (s : State) (r : Nat) : State :=
  s.setReach r { s.reach r with bucket := s.bucketAt r s.now - jobUnit, bucketAt := s.now }

/-- When the bucket holds one job again. -/
def State.tokenAt (s : State) (r : Nat) : Nat :=
  let x := s.reach r
  max s.now (x.bucketAt + ceilDiv (jobUnit - x.bucket) (s.rateLimit r))

/-- The reach's rate limit, then placement (R140); a job that came back from a peer has met its limit (R147, R148). -/
def State.admitJob (s : State) (j : Job) : State :=
  if s.basinWait j then s
  else if s.rateLimit j.reach = 0 || j.paid then s.place { j with paid := true }
  else if jobUnit ≤ s.bucketAt j.reach s.now then (s.takeToken j.reach).place { j with paid := true }
  else if s.deviceOpen then s.setJob { j with st := .rateWait, listSeq := s.weir.listSeq } |>.takeListSeq
  else
    let t : State := { s with weir := { s.weir with delayOvf := true } }
    (t.setJob { j with st := .ratePend, listSeq := s.weir.listSeq }).takeListSeq

def State.jobAdmit (s : State) (id : Nat) : State :=
  match s.job id with
  | none => s
  | some j =>
    if j.st = .fetched && j.status.isNone && !s.fenceBlocks j then
      (if j.abortLate then s.endJob id .aborted 0 else s.admitJob j)
    else s

def execJobAdmit (job : Nat) (s : State) : Host.Outcome State Fault Refusal := engineCmd s (s.jobAdmit job)

/-- Node entries in use in a basin (R131). -/
def State.nodesUsed (s : State) (b : Nat) : Nat :=
  ((s.jobs.filter fun j => j.basin == b && !j.ended).map fun j => j.nodes.length).sum

def freshNode (n : NodeRec) : Node :=
  { info := n, st := .waiting, restarts := 0, seq := 0, iter := 0, resolved := [], cycles := 0, saved := none,
    ctx := .lane, inHbm := false, drawn := 0, avoid := none, intr := none, served := false }

/-- WEIR_STAT.NODE_WAIT: some instantiation waits for node entries (R131). -/
def State.instWaits (s : State) : Bool := s.jobs.any fun j => j.nodeWait && j.st == .admitted

/-- R131: the template's nodes are placed when the basin has entries, and those without DEPS become ready. -/
def State.instantiateJob (s : State) (id : Nat) : State :=
  match s.job id with
  | none => s
  | some j =>
    if j.st != .admitted || j.status.isSome then s
    else
      let ns := (s.templateFor j).1
      if s.nodesUsed j.basin + ns.length ≤ 16384 then
        (s.setJob { j with st := .running, nodes := ns.map freshNode, nodeWait := false }).settleNodes id
      else
        let t := s.setJob { j with nodeWait := true }
        if s.instWaits then t else t.raiseBasin j.basin 8 0

def execTemplateInstantiate (job : Nat) (s : State) : Host.Outcome State Fault Refusal :=
  engineCmd s (s.instantiateJob job)

/-- R139: the DELAY has expired. -/
def State.timedRelease (s : State) (id : Nat) : State :=
  match s.job id with
  | none => s
  | some j =>
    if j.st = .delayed then (s.atTime (s.tickEnd (s.delayEnd j))).setJob { j with st := .admitted } else s

def execTimedRelease (job : Nat) (s : State) : Host.Outcome State Fault Refusal := engineCmd s (s.timedRelease job)

/-- The job with the first place in the order of arrival among those `p` names (R137, R138). -/
def State.firstListed (s : State) (p : Job → Bool) : Option Job :=
  (s.jobs.filter p).foldl (fun best j =>
    match best with
    | none => some j
    | some b => if j.listSeq < b.listSeq then some j else some b) none

/-- R137, R140: the bucket holds a token again, and the first waiting job of the reach takes it at the end of the tick. -/
def State.rateRelease (s : State) (r : Nat) : State :=
  if s.rateLimit r = 0 then s
  else
    match s.firstListed fun j => j.reach == r && j.st == .rateWait with
    | some j =>
      if s.basinWait j then s
      else ((s.atTime (s.tickEnd (s.tokenAt r))).takeToken r).place { j with st := .fetched, paid := true }
    | none => s

def execRateLimitRelease (reach : Nat) (s : State) : Host.Outcome State Fault Refusal := engineCmd s (s.rateRelease reach)

/-! ## Arbitration (R133 to R136) -/

/-- One candidate: its job, its index and its place in the lists. -/
structure Cand where
  job : Nat
  idx : Nat
  reach : Nat
  prio : Nat
  seq : Nat
  deriving DecidableEq, Repr

/-- R50: a PT-chain node goes to single tiles only when no chain of its reach can take it. -/
def State.chainServes (s : State) (j : Job) (n : NodeRec) : Bool := s.cfg.chains.any fun h => s.chainTakes h j n

/-- May the node run on an engine of the class (R125)? -/
def State.classFits (s : State) (j : Job) (n : Node) (c : NodeClass) : Bool :=
  n.info.cls == c || (c == .pt && n.info.cls == .ptChain && !s.chainServes j n.info)

/-- The units of an HT that hold no node (R230); none of a tile that is out of service or under reset. -/
def State.freeUnits (s : State) (i : Nat) : List Nat :=
  if s.tileOn .ht i && (s.tile (tkey .ht i)).st != .resetting then
    (List.range 5).filter fun u => (s.tile (laneKey i u)).node.isNone
  else []

/-- The unit of an HT for a node (R230, R239): a built-in routine's first free lane, or the core for SHA-2; the lane in which
its context lies still. A customer routine takes all five, because its words may name any (log entry 93). -/
def State.unitFor (s : State) (i : Nat) (j : Job) (n : Node) : Option Nat :=
  let free := s.freeUnits i
  if n.info.customer false then (if free.length = 5 then some 0 else none)
  else
    match n.st, n.ctx with
    | .yielded t, .lane => if keyIndex t = i ∧ free.contains (keyUnit t) then some (keyUnit t) else none
    | _, _ => free.find? fun u => (u == 4) == isSha2 (s.htFuncOf j)

/-- Is the engine free to take a node (R134, R222, R223)? -/
def State.engineFree (s : State) (c : NodeClass) (i : Nat) : Bool :=
  let idle (t : Nat) : Bool := (s.tile t).st == .idle && (s.tile t).node.isNone
  match c with
  | .ht => !(s.freeUnits i).isEmpty
  | .hbmMove => i < 8 && idle (tkey c i)
  | .ptChain => (s.cfg.chains.any fun h => h.id == i && h.tiles.all fun t => s.tileOn .pt t && idle (tkey .pt t))
  | .entropyWait => false
  | _ => s.tileOn c i && idle (tkey c i)

/-- The engines of a class in a basin that the node may run on: tiles the reach may use, or chains that take it. -/
def State.enginesFor (s : State) (c : NodeClass) (b : Nat) (j : Job) (n : NodeRec) : List Nat :=
  match c with
  | .ptChain => (s.cfg.chains.filter fun h => h.basin == b && s.chainTakes h j n).map ChainRec.id
  | _ => (basinTiles c b).filter fun i => s.cfg.mayUse c i j.reach (n.customer (s.isOp j .ownerOpcode))

/-- Is the node in a ready list, or yielded where this engine can resume it (R132, R143, R239)? -/
def nodeWaits (n : Node) (k : Nat) (c : NodeClass) : Bool :=
  match n.st with
  | .ready => true
  | .yielded t =>
    if c = .ht then
      match n.ctx with
      | .lane => keyIndex t == keyIndex k
      | .entry _ => true
      | .spilled => false
    else t == k
  | _ => false

/-- A PT-chain node that a chain of its reach will take, and the lowest-numbered such chain. -/
def State.chainReady (s : State) (b : Nat) : List (Cand × ChainRec) :=
  (s.jobs.filter fun j => j.basin == b && j.st == .running && j.status.isNone).flatMap fun j =>
    (List.range j.nodes.length).filterMap fun x =>
      match j.nodes[x]? with
      | none => none
      | some n =>
        if n.st == .ready && n.info.cls == .ptChain then
          (s.cfg.chains.find? fun h => h.basin == b && s.chainTakes h j n.info).map fun h =>
            ({ job := j.id, idx := x, reach := j.reach, prio := j.entry.prio, seq := n.seq }, h)
        else none

/-- R222: the first PT-chain node of a ready list reserves the tiles of its chain against single-tile nodes that are not
more urgent. -/
def State.ptReserved (s : State) (i b prio : Nat) : Bool :=
  let xs := s.chainReady b
  let list (r : Nat) : Nat := if s.isolated r then r else 64
  xs.any fun x => x.1.prio ≤ prio && x.2.tiles.contains i &&
    xs.all fun y => y.1.prio != x.1.prio || list y.1.reach != list x.1.reach || x.1.seq ≤ y.1.seq

/-! ### Memory passed on (R132, R226) -/

/-- The regions of a PT's memory that node `m` leaves to `n`, one bit each: what the routines pass on, and all that an HT has
delivered there (R132, R215, R226). -/
def NodeRec.passedTo (m n : NodeRec) : Nat :=
  match m.cls, n.cls with
  | .pt, .pt => Config.passedRegions m.routine n.routine % 2 ^ 64
  | .ht, .pt => 2 ^ 64 - 1
  | _, _ => 0

/-- The regions that node `i` leaves to some node. -/
def Job.leaves (j : Job) (i : Nat) : Nat :=
  j.nodes.foldl (fun m n => if bitOf n.info.deps i then m ||| ((j.nodes[i]?).map fun x => x.info.passedTo n.info).getD 0 else m) 0

/-- What the tile holds for node `n` of the job, left there by nodes it depends on. -/
def State.keptFor (s : State) (k : Nat) (j : Job) (n : NodeRec) : Tbl (List Host.Cell) :=
  (s.tile k).passed.filter fun p => p.1 / 32 == j.id && bitOf n.deps (p.1 % 32) &&
    (j.nodes[p.1 % 32]?).any fun m => m.info.passedTo n != 0

/-- Does the tile hold memory that a node it depends on has left to node `n` of the job? -/
def State.keepsFor (s : State) (k : Nat) (j : Job) (n : NodeRec) : Bool := !(s.keptFor k j n).isEmpty

/-- The memory that a node finds in its tile: what was left to it, and zeros (R226). -/
def State.inherited (s : State) (k : Nat) (j : Job) (n : NodeRec) : List Host.Cell :=
  (s.keptFor k j n).foldl (fun m p => p.2.foldl (fun m c => memSet m c.1 c.2) m) []

/-- R132: a node whose inputs lie in a PT's memory runs on that PT. -/
def State.staysWith (s : State) (k : Nat) (j : Job) (n : NodeRec) : Bool :=
  s.keepsFor k j n || !(s.tiles.any fun t => s.keepsFor t.1 j n)

/-- R144, R223: a restart after a fault takes the engine of the fault only when no other one that may run the node is
free. -/
def State.restartFits (s : State) (c : NodeClass) (i b : Nat) (j : Job) (n : Node) : Bool :=
  n.avoid != some (tkey c i) || !((s.enginesFor c b j n.info).any fun k => k != i && s.engineFree c k &&
    (c != .pt || s.staysWith (tkey c k) j n.info))

/-- The nodes that wait for an engine, whether or not one of its units is free. -/
def State.waiters (s : State) (c : NodeClass) (i b : Nat) : List Cand :=
  let k := tkey c i
  (s.jobs.filter fun j => j.basin == b && j.st == .running && j.status.isNone).flatMap fun j =>
    let owner := s.isOp j .ownerOpcode
    (List.range j.nodes.length).filterMap fun x =>
      match j.nodes[x]? with
      | none => none
      | some n =>
        let may := match c with
          | .hbmMove => true
          | .ptChain => s.cfg.chains.any fun h => h.id == i && s.chainTakes h j n.info &&
              (s.cfg.chainSlots h).contains s.weir.slot
          | .pt => s.cfg.mayUse c i j.reach (n.info.customer owner) && !s.ptReserved i b j.entry.prio &&
              s.staysWith k j n.info
          | _ => s.cfg.mayUse c i j.reach (n.info.customer owner)
        if nodeWaits n k c && s.classFits j n c && may && s.restartFits c i b j n then
          some { job := j.id, idx := x, reach := j.reach, prio := j.entry.prio, seq := n.seq }
        else none

/-- The unit of an HT that a waiting node can have now. -/
def State.candUnit (s : State) (i : Nat) (x : Cand) : Option Nat :=
  match s.job x.job with
  | none => none
  | some j =>
    match j.node x.idx with
    | none => none
    | some n => s.unitFor i j n

def State.candidates (s : State) (c : NodeClass) (i b : Nat) : List Cand :=
  (s.waiters c i b).filter fun x => c != .ht || (s.candUnit i x).isSome

def Cand.before (a b : Cand) : Bool := a.prio < b.prio || (a.prio == b.prio && a.seq < b.seq)

def firstCand (xs : List Cand) : Option Cand :=
  xs.foldl (fun best c => match best with | none => some c | some b => if c.before b then some c else some b) none

def firstReady (xs : List Cand) : Option Cand :=
  xs.foldl (fun best c => match best with | none => some c | some b => if c.seq < b.seq then some c else some b) none

/-! ### The weighted rule of POOLED tiles (R135) -/

def State.weight (s : State) (r : Nat) : Nat := ((s.cfg.reach r).map ReachRec.weight).getD 1

/-- Rounds until some reach of the pool has positive credit. -/
def State.roundsNeeded (s : State) (b c : Nat) (rs : List Nat) : Nat :=
  let need (r : Nat) : Nat := ceilDiv ((1 - s.credit b c r).toNat) (64 * max 1 (s.weight r))
  rs.foldl (fun m r => min m (need r)) ((rs.map need).headD 0)

/-- Reaches of the pool without ready nodes of the class (`busy` names those with some) keep no credit; when none of the
tile's candidate reaches `rs` has credit, rounds are added for every reach with ready nodes. -/
def State.creditRounds (s : State) (b c : Nat) (pool busy rs : List Nat) : State :=
  let s := (pool.filter fun r => !busy.contains r).foldl (fun s r => s.setCredit b c r 0) s
  let k := s.roundsNeeded b c rs
  busy.foldl (fun s r => s.setCredit b c r (s.credit b c r + Int.ofNat (k * 64 * s.weight r))) s

def dedup (xs : List Nat) : List Nat := xs.foldl (fun ys x => if ys.contains x then ys else ys ++ [x]) []

/-- The reaches with nodes of the class in the basin's ready lists. -/
def State.readyReaches (s : State) (c : NodeClass) (b : Nat) : List Nat :=
  dedup ((s.jobs.filter fun j => j.basin == b && j.st == .running && j.status.isNone && j.nodes.any fun n =>
    s.classFits j n c && (match n.st with | .ready => true | .yielded _ => true | _ => false)).map Job.reach)

/-- Choice on a POOLED tile (R134, R135): a priority-0 node in order of readiness, else a reach with credit. -/
def State.pooledChoice (s : State) (c : NodeClass) (i b : Nat) (xs : List Cand) : Option Cand × State :=
  match firstReady (xs.filter fun x => x.prio == 0) with
  | some x => (some x, s)
  | none =>
    let rs := dedup (xs.map Cand.reach)
    let pool := (s.cfg.grants c i).map TileRec.reach
    let s := s.creditRounds b c.code pool ((s.readyReaches c b).filter pool.contains) rs
    let ok := rs.filter fun r => 0 < s.credit b c.code r
    match ok with
    | [] => (none, s)
    | r :: rs => let r := rs.foldl min r; (firstCand (xs.filter fun x => x.reach == r), s)

/-- A node's longest run in FCLK cycles: a BNU node's segment up to its next yield point (R256, R257), else what the
routine takes (log entry 36). -/
def State.nodeCycles (s : State) (j : Job) (n : NodeRec) : Nat :=
  if n.cls = .bnu then (s.needOf j).cycles
  else Config.routineCycles n.cls.code j.entry.opcode (s.orderOf j) j.entry.inLen

/-- Does the candidate's worst case end within the running slot at the FCLK in force (R89, R134, R136)? -/
def State.fitsSlot (s : State) (x : Cand) : Bool :=
  match s.job x.job with
  | none => false
  | some j =>
    match j.node x.idx with
    | none => false
    | some n => s.now + ceilDiv (s.nodeCycles j n.info * 1000) s.fclk ≤ s.slotStart (s.slotNo + 1)

/-- Does a chain hold a FRAMED tile (R222)? -/
def State.framedChain (s : State) (i : Nat) : Bool :=
  ((s.cfg.chains.find? fun h => h.id == i).map ChainRec.tiles).any fun ts =>
    ts.any fun t => (s.tileModeNow .pt t).1 == .framed

/-- The next node for a free engine (R134). DESIGN CHOICE (log entry 87): R134 gives the HBM-move engine and a chain no mode;
each takes the lowest priority number, first-in within it, over all reaches. A chain on FRAMED tiles takes a node only when its
worst case ends within the slot (R222). -/
def State.chooseNode (s : State) (c : NodeClass) (i b : Nat) : Option Cand × State :=
  let xs := s.candidates c i b
  match c with
  | .hbmMove => (firstCand xs, s)
  | .ptChain => (firstCand (if s.framedChain i then xs.filter s.fitsSlot else xs), s)
  | _ =>
    let m := s.tileModeNow c i
    let xs := xs.filter fun x => m.2.contains x.reach
    match m.1 with
    | .pooled => s.pooledChoice c i b xs
    | .framed => (firstCand (xs.filter s.fitsSlot), s)
    | _ => (firstCand xs, s)

/-! ## Dispatch -/

/-- An engine or chain that is not disabled (R146). -/
def State.engineUsable (s : State) (k : Nat) : Bool :=
  match NodeClass.ofCode (keyClass k) with
  | some .ptChain => s.cfg.chains.any fun h => h.id == keyIndex k && h.tiles.all fun i => s.tileOn .pt i
  | some .hbmMove => true
  | some c => s.tileOn c (keyIndex k)
  | none => false

/-- Can the reach still use an engine for the node in its basin (R146)? -/
def State.stillUsable (s : State) (j : Job) (n : Node) : Bool :=
  (s.resolve j.reach j.basin (s.isOp j .ownerOpcode) n.info).any fun e => s.engineUsable e.1

/-- Entry registers of an owner program (R338). -/
def ownerEntry (p : ProgRec) (arg inLen stage prio reach : Nat) : Core :=
  let r := Core.reset.iregs
  let v (n : Nat) : BitVec 64 := BitVec.ofNat 64 n
  { Core.reset with
    ownerMode := true, pc := p.entry, prog := p.id
    iregs := (((((r.set 1 (v arg)).set 2 (v inLen)).set 3 (v 0x200000)).set 4 (v stage)).set 5 (v prio)).set 6 (v reach) }

/-- A core that takes a node: the owner program's entry state, or service mode. -/
def State.startCore (s : State) (i : Nat) (j : Job) (n : NodeRec) (owner : Bool) : State :=
  let c := s.core i
  match (if owner then s.cfg.progs.find? fun p => p.id == n.routine else none) with
  | some p =>
    s.setCore i { ownerEntry p n.arg j.entry.inLen j.stage.length j.entry.prio j.reach with
      overlay := c.overlay, recoveryFails := c.recoveryFails, limit := s.sel.ccLimit }
  | none => s.setCore i { Core.reset with overlay := c.overlay, recoveryFails := c.recoveryFails }

/-- A tile that takes a node of another reach than its last one reseeds its expander first (R218, R236, R274). A FRAMED tile
reseeds for a slot: at its start where masked work waits for it then, and otherwise before its first masked work in it
(DESIGN CHOICE, log entry 119). -/
def State.passRandom (s : State) (k r order : Nat) : State :=
  match (NodeClass.ofCode (keyClass k)).bind fun c => expOf c (keyIndex k) with
  | none => s
  | some e =>
    if s.expFramed e then (if 1 ≤ order && (s.exp e).slot != some s.slotNo then s.turnExp e else s)
    else if (s.tile k).lastReach = some r then s
    else s.turnExp e

/-- The tiles that one dispatch occupies: a chain's members, or the engine itself. -/
def Setup.occupied (c : Setup) (cls : NodeClass) (i : Nat) : List Nat :=
  match cls with
  | .ptChain => (((c.chains.find? fun h => h.id == i).map ChainRec.tiles).getD []).map fun t => tkey .pt t
  | _ => [tkey cls i]

/-- Puts a node on the BACKOFF list for a span of time, or makes it wait for an entry (R137, R138, R144, R146). -/
def State.backOff (s : State) (j : Job) (i : Nat) (n : Node) (span : Nat) : State :=
  if s.listRoom j.basin 2 j.reach then
    s.setJob (j.setNode i { n with st := .backoff (s.tickEnd (s.now + span)), resolved := [] })
  else
    (s.setJob (j.setNode i { n with st := .listWait false span s.weir.listSeq, resolved := [] })).listFull j.basin

/-- A fault abandons the node before its COMMIT: it waits BACKOFF_TICKS × 2^(k−1) ticks for restart k, and after
MAX_RESTART restarts the job ends ENGINE_FAULT, or FAULT_AFTER_COMMIT once it has committed (R128). -/
def State.nodeFault (s : State) (id i : Nat) : State :=
  let s := (s.countAbandon fun n => n == (id, i)).abandon id i
  match s.job id with
  | none => s
  | some j =>
    match j.node i with
    | none => s
    | some n =>
      if j.status.isSome then s
      else if s.weir.maxRestart ≤ n.restarts then s.failJob id .engineFault 0
      else
        let span := max 1 s.weir.backoffTicks * 2 ^ n.restarts * s.cfg.device.tickNs
        let k := match n.st with | .running t => some t | _ => n.intr
        s.backOff j i { n with restarts := n.restarts + 1, avoid := k.map (· % 4096), intr := none, drawn := 0 } span

/-- STALE_ROLE at dispatch (R146): counted, and re-resolved after one tick on the BACKOFF list. -/
def State.staleRole (s : State) (j : Job) (i : Nat) (n : Node) : State :=
  let r := s.reach j.reach
  (s.setReach j.reach { r with stale := satAdd 0xFFFFFFFF r.stale 1 }).backOff j i n s.cfg.device.tickNs

/-- The sequencer at a routine's entry: its address and the public flags (R319). -/
def startSeqr (j : Job) (n : NodeRec) : Seqr :=
  { Seqr.reset with upc := n.routine, flags := Config.publicFlags n.arg j.entry.opcode }

/-- The same for an engine's record: the unit that a built-in HT node holds is ready for its function, masked at the job's
order (R234). -/
def State.startFor (s : State) (c : NodeClass) (k : Nat) (j : Job) (n : NodeRec) : Seqr :=
  if c = .ht && !n.customer false then
    { startSeqr j n with units := [(keyUnit k, (HashUnit.fresh (s.htFuncOf j)).mask (s.orderOf j))] }
  else startSeqr j n

/-- The records that one dispatch occupies: those of a chain's members, the engine's, or the HT's units. -/
def State.occupied (s : State) (c : NodeClass) (i k : Nat) (n : NodeRec) : List Nat :=
  if c = .ht then (if n.customer false then unitKeys .ht i else [k]) else s.cfg.occupied c i

/-- Puts the node on the engine (R134). A further unit of a customer's HT only follows the routine of lane 0. -/
def State.runNode (s : State) (c : NodeClass) (k i : Nat) (j : Job) (x : Nat) (n : Node) : State :=
  let owner := s.isOp j .ownerOpcode
  let order := s.orderOf j
  let ctx := n.saved.getD
    { seqr := s.startFor c k j n.info, mem := s.inherited k j n.info, written := 0, reach := j.reach, tag := j.id }
  let s := s.setJob (j.setNode x { n with st := .running k, saved := none, ctx := .lane, avoid := none, intr := none })
  let s := (s.occupied c i k n.info).foldl (fun s t =>
    let s := if c = .ht then s.saveLane t else s
    let u := s.tile t
    s.setTile t { u with st := .busy, node := some (j.id, x), reach := j.reach, order := order, startNs := s.now, busyAt := s.now,
                         sliceOver := false, sliceAt := s.now, chainHold := if c = .ptChain then some i else none,
                         seqr := { ctx.seqr with ended := c == .ht && t != k }, mem := ctx.mem, written := ctx.written }) s
  let s := (s.occupied c i k n.info).foldl (fun s t => if keyUnit t = keyUnit k then s.passRandom t j.reach order else s) s
  let s := if c = .cc then s.startCore i j n.info owner else s
  let s := s.markDispatch j.id
  if (s.opOfJob j).any fun o => o.1.validatesFirst then s else s.takeKey j.id

/-- R254: a BNU node that finds no run of free slots, or a reach whose earlier node waits there, waits for a span. -/
def State.spanBlocked (s : State) (i : Nat) (j : Job) (x : Nat) : Bool :=
  !(s.spans.any fun p => p.bnu == i && p.job == j.id && p.node == x) &&
    s.jobs.any fun y => y.reach == j.reach && y.nodes.any fun m => m.st == .spanWait (tkey .bnu i)

/-- The span of a BNU node, unless another node of the reach waits for one before it (R254). -/
def State.spanFor (s : State) (i : Nat) (j : Job) (x : Nat) : Option State :=
  if s.spanBlocked i j x then none else s.takeSpan i j.reach j.id x (s.needOf j)

/-- A restored record of another reach or job is an uncorrectable error of the record (R239). -/
def State.checkRecord (s : State) (j : Job) (x : Nat) (n : Node) : State :=
  if n.saved.any fun c => c.reach != j.reach || c.tag != j.id then s.nodeFault j.id x else s

def State.dispatchTo (s : State) (c : NodeClass) (i : Nat) (cand : Cand) : State :=
  match s.job cand.job with
  | none => s
  | some j =>
    match j.node cand.idx with
    | none => s
    | some n =>
      let k := tkey c i
      let epoch := if c = .ptChain then tget 0 s.chainEpoch i else (s.tile k).epoch
      if !(n.resolved.contains (k, epoch)) then s.staleRole j cand.idx n
      else if c = .ht then
        match s.unitFor i j n with
        | some u => (s.runNode c (laneKey i u) i j cand.idx n).checkRecord j cand.idx n
        | none => s
      else if c = .bnu then
        match s.spanFor i j cand.idx with
        | some s => s.runNode c k i j cand.idx n
        | none => s.setJob (j.setNode cand.idx { n with st := .spanWait k })
      else s.runNode c k i j cand.idx n

/-- The basin of an engine. -/
def State.engineBasin (s : State) (c : NodeClass) (i : Nat) : Nat :=
  match c with
  | .hbmMove => i
  | .ptChain => basinOf .pt ((((s.cfg.chains.find? fun h => h.id == i).map ChainRec.tiles).getD []).headD 0)
  | _ => basinOf c i

/-- A ready node that was resolved to an engine which is out of use, and for which its reach has none left (R146). -/
def State.stranded (s : State) (k : Nat) : List Cand :=
  (s.jobs.filter fun j => j.st == .running && j.status.isNone).flatMap fun j =>
    (List.range j.nodes.length).filterMap fun x =>
      match j.nodes[x]? with
      | none => none
      | some n =>
        if n.st == .ready && (n.resolved.any fun e => e.1 == k) && !s.stillUsable j n then
          some { job := j.id, idx := x, reach := j.reach, prio := j.entry.prio, seq := n.seq }
        else none

/-- An engine that is out of use refuses the node that names it with STALE_ROLE (R146). -/
def State.strandedDispatch (s : State) (k : Nat) : State :=
  match firstCand (s.stranded k) with
  | none => s
  | some x =>
    match s.job x.job with
    | none => s
    | some j => match j.node x.idx with | some n => s.staleRole j x.idx n | none => s

def State.nodeDispatch (s : State) (c : NodeClass) (i : Nat) : State :=
  if !s.engineFree c i then (if s.engineUsable (tkey c i) then s else s.strandedDispatch (tkey c i))
  else
    let r := s.chooseNode c i (s.engineBasin c i)
    match r.1 with
    | none => s
    | some x => r.2.dispatchTo c i x

def execNodeDispatch (cls tile : Nat) (s : State) : Host.Outcome State Fault Refusal :=
  engineCmd s (match NodeClass.ofCode cls with
    | some c => s.nodeDispatch c tile
    | none => s)

/-! ## Completion of a node (R126, R127) -/

/-- The cells of the regions that a bitmap names, or of all others. -/
def regionCells (named : Bool) (regions : Nat) (m : List Host.Cell) : List Host.Cell :=
  m.filter fun c => bitOf regions (c.1 / 1024) == named

/-- A node of the job ends: the regions it wrote are zeroed, but for those that it leaves to its dependants (R132, R226). -/
def Tile.pass (t : Tile) (id i leaves : Nat) : Tile :=
  let kept := t.passed.map fun (p : Nat × List Host.Cell) => if p.1 / 32 = id then (p.1, regionCells false t.written p.2) else p
  { t with passed := if (leaves &&& t.written) = 0 then kept
      else tset kept (id * 32 + i) (regionCells true (leaves &&& t.written) t.mem) }

def State.passMemory (s : State) (id i : Nat) : State :=
  let leaves := ((s.job id).map fun j => if j.status.isNone then j.leaves i else 0).getD 0
  { s with tiles := s.tiles.map fun (x : Nat × Tile) =>
      if x.2.node = some (id, i) then (x.1, x.2.pass id i leaves) else x }

/-- The node has completed: its dependants may become ready; its span stays until the node's end (R254). In a job that has
ended, a node past its COMMIT only ends (R126). -/
def State.finishNode (s : State) (id i : Nat) : State :=
  let s := (s.passMemory id i).leaveTiles id i
  let s := { s with spans := s.spans.filter fun p => !(p.job == id && p.node == i) }
  match s.job id with
  | none => s
  | some j =>
    match j.node i with
    | none => s
    | some n =>
      let s := (s.setJob (j.setNode i { n with st := .done })).sweepJobs
      if j.status.isSome then s else s.settleNodes id

/-- R127: the last node of the ML-DSA signing loop reports REPEAT, and every node of the loop is armed again. -/
def State.repeatLoop (s : State) (id : Nat) : State :=
  match s.job id with
  | none => s
  | some j =>
    let ns := (List.range j.nodes.length).filterMap fun i => (j.nodes[i]?).map fun n =>
      if 5 ≤ i && i ≤ 7 then { n with st := .waiting, iter := n.iter + 1, resolved := [], drawn := 0 } else n
    (s.setJob { j with nodes := ns }).wakeNodes id

/-- The job runs a built-in template: no OVERRIDE applies to it (R124, R127). -/
def State.builtinJob (s : State) (j : Job) : Bool := (ownerGraph s.cfg.graphs true j.reach j.entry.opcode).isNone

def NodeSt.isRunning : NodeSt → Bool
  | .running _ => true
  | _ => false

/-- The built-in signing loop of an ML-DSA job reports REPEAT as often as the algorithm rejects (R127, R158). -/
def State.repeats (s : State) (j : Job) (n : Node) : Bool :=
  match s.opOfJob j with
  | some (.mlDsaSign, v) => n.iter + 1 < (mlDsaJob j v).2
  | _ => false

/-! ### Masking randomness of built-in routines (R216, R273) -/

/-- Words of a BNU's buffer that an operation takes at order `d` (R273). -/
def Op.blindWords (o : Op) (d : Nat) : Nat :=
  match o with
  | .ecKeygen | .ecSign | .agree | .hybridKeygen | .hybridEncaps | .hybridDecaps => 4 + 2 * (d + 1)
  | .rsaPssSign | .rsaV15Sign | .rsaOaepDecrypt => 6
  | _ => 0

/-- Bits that masked permutations or compressions of a function draw at order `d` (R273). -/
def maskedStepBits (f d : Nat) : Nat := { HashUnit.fresh f with order := d }.stepBits

/-- What a built-in node's routine draws by its COMMIT: expander blocks, at most one a cycle, or blinding words (R216, R273). A
masked one draws for a step at least; a PT shuffles secret data at order 0 too (R220). -/
def State.maskNeed (s : State) (j : Job) (n : NodeRec) : Nat :=
  let d := s.orderOf j
  let steps := max 1 (Config.maskSteps n.cls.code j.entry.opcode d j.entry.inLen)
  let layers := Config.shuffledLayers n.cls.code j.entry.opcode d j.entry.inLen
  let most := max 1 (Config.routineCycles n.cls.code j.entry.opcode d j.entry.inLen)
  match s.opOfJob j, n.cls with
  | some (o, _), .pt | some (o, _), .ptChain =>
    if o.maskKey = .unmasked then 0 else min most (ceilDiv (steps * 256 * (d * (d + 1) / 2) + layers) 8)
  | some _, .ht => if d = 0 then 0 else ceilDiv (steps * maskedStepBits (s.htFuncOf j) d) 256
  | some (o, _), .bnu => o.blindWords d
  | _, _ => 0

/-- The expander of a tile by its record. -/
def expAt (k : Nat) : Nat := ((NodeClass.ofCode (keyClass k)).bind fun c => expOf c (keyIndex k)).getD 0

/-- Expander blocks of the tiles that run the node: all of them, or what is left, and then the tiles throttle (R217). -/
def State.nodeBlocks (s : State) (j : Job) (i : Nat) (n : Node) (need : Nat) : Bool × State :=
  let ks := (s.tiles.filter fun x => x.2.node == some (j.id, i)).map Prod.fst
  let m := ks.foldl (fun m k => min m (s.exp (expAt k)).left) need
  let dry := ks.filter fun k => (s.exp (expAt k)).left < need
  let s := ks.foldl (fun s k => (s.takeBlocks (expAt k) k m).2) s
  let s := s.setJob (j.setNode i { n with drawn := n.drawn + m })
  if m < need then (false, dry.foldl (fun s k => s.throttleTile (expAt k) k) s) else (true, s)

/-- Draws what a running built-in node still needs; false where it stalls (R217, R236, R258). -/
def State.nodeMasks (s : State) (id i : Nat) : Bool × State :=
  match s.job id with
  | none => (true, s)
  | some j =>
    match j.node i with
    | none => (true, s)
    | some n =>
      let need := s.maskNeed j n.info - n.drawn
      match n.st with
      | .running k =>
        -- no post-commit section draws (R217, R236, R258)
        if need = 0 || s.tileCommitted k then (true, s)
        else if n.info.cls = .bnu then
          match s.takeWords (keyIndex k) need with
          | (some _, s) => (true, s.setJob (j.setNode i { n with drawn := n.drawn + need }))
          | (none, s) => (false, s)
        else s.nodeBlocks j i n need
      | _ => (true, s)

/-- A built-in routine ends: the signing loop's last node may arm the loop again (R126, R127). -/
def State.endRoutine (s : State) (j : Job) (i : Nat) (n : Node) (again : Bool) : State :=
  if i = 7 && s.isOp j .mlDsaSign && s.builtinJob j then
    if again != s.repeats j n then s
    else if again then (s.leaveTiles j.id i).repeatLoop j.id else s.finishNode j.id i
  else s.finishNode j.id i

/-- A built-in node completes after its COMMIT (R126), which its microwords have executed; where none of them has run, COMMIT and
END fall together here (log entry 118), but for the first OUTPUT node, whose COMMIT is the job's commit point. Routines of the customer region and
owner programs complete by their own END, and the tiles of a job that is gone are given up. -/
def State.nodeComplete (s : State) (id i : Nat) (again : Bool) : State :=
  match s.job id with
  | none => s.dropNode id i
  | some j =>
    match j.node i with
    | none => s
    | some n =>
      if !n.st.isRunning || n.info.customer (s.isOp j .ownerOpcode) then s
      else if n.cycles != 0 && !(s.tiles.any fun x => x.2.node == some (id, i) && s.tileCommitted x.1) then s
      else if some i = (j.nodes.findIdx? fun m => m.info.output) && !j.committed then s
      else
        let r := s.nodeMasks id i
        if r.1 then
          match r.2.job id with
          | some j => r.2.endRoutine j i n again
          | none => r.2
        else r.2

def execNodeComplete (job node : Nat) (again : Bool) (s : State) : Host.Outcome State Fault Refusal :=
  engineCmd s (s.nodeComplete job node again)

/-! ## Restarts (R144, R324, R325) -/

/-- An interrupt restarts the routine at once and counts no restart (R325). -/
def State.nodeInterrupt (s : State) (id i k : Nat) : State :=
  let s := ((s.countAbandon fun n => n == (id, i)).abandon id i).readyNode id i
  match s.job id with
  | some j => (match j.node i with | some n => s.setJob (j.setNode i { n with drawn := 0, intr := some k }) | none => s)
  | none => s

/-- The BACKOFF entry expires: the node is resolved and ready again (R144, R146). -/
def State.backoffExpiry (s : State) (id i : Nat) : State :=
  match s.job id with
  | none => s
  | some j =>
    match j.node i with
    | none => s
    | some n =>
      match n.st with
      | .backoff t =>
        if j.status.isSome then s
        else if s.stillUsable j n then (s.atTime t).readyNode id i
        else (s.atTime t).failJob id .badOpcode 0
      | _ => s

def execBackoffExpiry (job node : Nat) (s : State) : Host.Outcome State Fault Refusal :=
  engineCmd s (s.backoffExpiry job node)

/-! ## The frame (R136) -/

/-- A slot ends on a FRAMED tile: a routine that has not committed is interrupted, whose reach ever holds the next slot
(R136, R325). -/
def State.slotEnds (s : State) (k : Nat) : State :=
  let t := s.tile k
  match NodeClass.ofCode (keyClass k), t.node with
  | some c, some (id, i) =>
    if (s.tileModeNow c (keyIndex k)).1 = .framed && !s.tileCommitted k then
      let s := match engOf (keyClass k) with
        | some e => s.setStore e { s.store e with intRestart := satAdd 0xFFFFFFFF (s.store e).intRestart 1 }
        | none => s
      s.nodeInterrupt id i k
    else s
  | _, _ => s

/-- Has a reach masked work for the tiles of a class in a basin: a node not done yet of a job at order 1 or above (R218)? -/
def State.maskedWork (s : State) (c : NodeClass) (b r : Nat) : Bool :=
  s.jobs.any fun j => j.basin == b && j.reach == r && j.st == .running && j.status.isNone && 1 ≤ s.orderOf j &&
    j.nodes.any fun n => tileClass n.info.cls == c && !n.st.isDone

/-- R218, R236, R274: a FRAMED tile reseeds at the start of a slot in which the reach that holds it has masked work. -/
def State.slotReseed (s : State) (k : Nat) : State :=
  match NodeClass.ofCode (keyClass k) with
  | some c =>
    match expOf c (keyIndex k), s.tileModeNow c (keyIndex k) with
    | some e, (.framed, r :: _) =>
      if !s.maskedWork c (basinOf c (keyIndex k)) r then s
      else if (unitKeys c (keyIndex k)).all fun u => (s.tile u).lastReach == some r then s.reseedExp e else s.turnExp e
    | _, _ => s
  | none => s

def State.frameSlot (s : State) : State :=
  if s.cfg.device.frameUs = 0 || !s.weir.frameRun then s
  else
    let n := s.slotNo + 1
    let s := { s with now := s.slotStart n, weir := { s.weir with slot := n % 64 } }
    let ks := s.tiles.map Prod.fst
    (dedup (ks.map fun k => k % 4096)).foldl State.slotReseed (ks.foldl State.slotEnds s)

def execFrameSlotStart (s : State) : Host.Outcome State Fault Refusal := engineCmd s s.frameSlot

/-! ## Delay lists and randomness -/

/-- WEIR_BNU_SLICE, 0 taken as 1 (R151). -/
def State.sliceNs (s : State) : Nat := 1000 * max 1 s.weir.sliceUs

/-- R137, R143: the slice timer of the running BNU node. -/
def State.sliceExpiry (s : State) (i : Nat) : State :=
  let k := tkey .bnu i
  let t := s.tile k
  if t.node.isSome then
    (s.atTime (s.tickEnd (t.sliceAt + s.sliceNs))).setTile k { t with sliceOver := true }
  else s

def execBnuSliceExpiry (unit : Nat) (s : State) : Host.Outcome State Fault Refusal := engineCmd s (s.sliceExpiry unit)

def firstReq (rs : List ListReq) : Option ListReq :=
  rs.foldl (fun best r => match best with | none => some r | some b => if r.seq < b.seq then some r else some b) none

/-- A request takes an entry (R138): a timer that starts late expires late. -/
def State.takeEntry (s : State) (j : Job) (r : ListReq) : State :=
  match r.node with
  | some i =>
    (match j.node i with
     | some n =>
       (match n.st with
        | .listWait true d _ => s.setJob (j.setNode i { n with st := .entropyWait (s.now + d) })
        | .listWait false d _ => s.setJob (j.setNode i { n with st := .backoff (s.tickEnd (s.now + d)) })
        | _ => s)
     | none => s)
  | none =>
    match j.st with
    | .delayPend => s.setJob { j with st := if s.delayEnd j ≤ s.now then .admitted else .delayed }
    | .ratePend => s.setJob { j with st := .rateWait }
    | .spilled => s.setJob { j with spillAt := some s.now }
    | _ => s

/-- Can a waiting request take an entry that freed in a basin: one of its own list there, or one of the DEVICE list, which serves
every basin (R138)? -/
def State.entryServes (s : State) (b : Nat) (r : ListReq) : Bool :=
  s.deviceRoom || (r.kind != 3 && r.basin == b && s.basinRoom b r.kind r.reach)

/-- R138: the first waiting request, in order of arrival, takes the freed entry. -/
def State.entryFreed (s : State) (b : Nat) : State :=
  match firstReq (s.listReqs.filter (s.entryServes b)) with
  | none => s
  | some r => match s.job r.job with | some j => s.takeEntry j r | none => s

def execDelayEntryFreed (basin : Nat) (s : State) : Host.Outcome State Fault Refusal := engineCmd s (s.entryFreed basin)

/-- R141, delivered: the bytes that were on their way to a node arrive, and the node completes. -/
def State.entropyDelivered (s : State) (id : Nat) : State :=
  match s.job id with
  | none => s
  | some j =>
    match j.nodes.findIdx? Node.served with
    | none => s
    | some i =>
      match j.node i with
      | none => s
      | some n =>
        if j.status.isSome then s
        else
          let s := { s with spr := { s.spr with transfers := s.spr.transfers - 1 } }
          (s.setJob { j.setNode i { n with st := .done, served := false } with entropy := .delivered }).settleNodes id

def execEntropyWaitDelivered (job : Nat) (s : State) : Host.Outcome State Fault Refusal :=
  engineCmd s (s.entropyDelivered job)

/-- The first deadline of a job's ENTROPY-WAIT nodes. -/
def Job.entropyEnd (j : Job) : Option Nat :=
  j.nodes.foldl (fun d n =>
    match n.st, d with
    | .entropyWait t, none => some t
    | .entropyWait t, some u => some (min t u)
    | _, d => d) none

/-- R137, R141: timeout. -/
def State.entropyTimeout (s : State) (id : Nat) : State :=
  match s.job id with
  | none => s
  | some j =>
    match j.entropyEnd with
    | some t => if j.status.isNone then (s.atTime (s.tickEnd t)).failJob id .entropyUnavailable 0 else s
    | none => s

def execEntropyWaitTimeout (job : Nat) (s : State) : Host.Outcome State Fault Refusal :=
  engineCmd s (s.entropyTimeout job)

/-! ## Yields (R143, R238) -/

/-- The BNU node has run for a whole slice since it was last dispatched (R143). -/
def State.sliceRun (s : State) (i : Nat) : Bool :=
  let t := s.tile (tkey .bnu i)
  t.sliceOver || s.sliceNs ≤ s.now - t.startNs

/-- A BNU node gives way to a more urgent one that waits for its unit; after the slice, also to one of its own priority with
a shorter operand length (R143). -/
def State.bnuYields (s : State) (i : Nat) (j : Job) : Bool :=
  (s.candidates .bnu i j.basin).any fun x =>
    x.prio < j.entry.prio ||
      (x.prio == j.entry.prio && s.sliceRun i && (match s.job x.job with
        | some y => (s.needOf y).operand < (s.needOf j).operand
        | none => false))

/-- Does a waiting node need a unit of this kind: a customer routine needs all five (log entry 93)? -/
def State.needsUnit (s : State) (k : Nat) (x : Cand) : Bool :=
  (s.job x.job).any fun y => ((y.node x.idx).any fun n => n.info.customer false) || (keyUnit k == 4) == isSha2 (s.htFuncOf y)

/-- An HT node gives way to a more urgent one that needs its unit and finds none free; and, when its next step would not end
within 2,400 cycles of its dispatch, to any of its own or a more urgent priority that waits for its HT (R238). -/
def State.htYields (s : State) (k : Nat) (j : Job) : Bool :=
  let i := keyIndex k
  let long := 2400 - stepCycles (s.htFuncOf j) (s.orderOf j) ≤ s.cyclesOf (s.now - (s.tile k).startNs)
  (s.waiters .ht i j.basin).any fun x => (s.candUnit i x).isNone &&
    ((x.prio < j.entry.prio && s.needsUnit k x) || (x.prio ≤ j.entry.prio && long))

/-- On a FRAMED BNU a node yields at the last yield point whose segment ends within the slot: the next one would not (R257). -/
def State.slotYields (s : State) (c : NodeClass) (k : Nat) (j : Job) (x : Nat) : Bool :=
  c == .bnu && (s.tileModeNow c (keyIndex k)).1 == .framed &&
    !s.fitsSlot { job := j.id, idx := x, reach := j.reach, prio := j.entry.prio, seq := 0 }

/-- Is the routine at a word with YP? A routine of which no microword has run reaches its yield points where the command says
(R256, R319, log entry 118). -/
def State.atYield (s : State) (c : NodeClass) (k : Nat) (n : Node) : Bool :=
  n.cycles == 0 || (s.fetchWord (if c = .ht then 1 else 2) (s.tile k).seqr.upc).any uYield

/-- The running node reaches a yield point or a block boundary: it gives the engine up where another needs it, its context
kept in place (R143, R238, R257). Customer routines have none (R331). -/
def State.yieldPoint (s : State) (c : NodeClass) (k : Nat) : State :=
  match (s.tile k).node with
  | none => s
  | some (id, x) =>
    match s.job id with
    | none => s
    | some j =>
      match j.node x with
      | none => s
      | some n =>
        if s.tileCommitted k || n.info.customer false || !s.atYield c k n then s
        else if (if c = .ht then s.htYields k j else s.bnuYields (keyIndex k) j) || s.slotYields c k j x then
          let t := s.tile k
          let ctx : SavedCtx := { seqr := t.seqr, mem := t.mem, written := t.written, reach := j.reach, tag := j.id }
          let s := s.leaveTiles id x
          let t := s.tile k
          (s.setTile k { t with yields := satAdd 0xFFFFFFFF t.yields 1 }).setJob
            (j.setNode x { n with st := .yielded k, saved := some ctx, ctx := .lane })
        else s.setTile k { s.tile k with sliceAt := s.now }

def execYieldPoint (cls tile : Nat) (s : State) : Host.Outcome State Fault Refusal :=
  engineCmd s (match NodeClass.ofCode cls with
    | some .bnu => s.yieldPoint .bnu (tkey .bnu tile)
    | some .ht => s.yieldPoint .ht (laneKey (tile % 4096) (tile / 4096))
    | _ => s)

/-- The nodes that wait for a span on a unit, in order of readiness. -/
def State.spanWaiters (s : State) (i : Nat) : List Cand :=
  s.jobs.flatMap fun j => (List.range j.nodes.length).filterMap fun x =>
    match j.nodes[x]? with
    | some n => if n.st = .spanWait (tkey .bnu i) then
        some { job := j.id, idx := x, reach := j.reach, prio := 0, seq := n.seq } else none
    | none => none

/-- The span that a waiter would take now. -/
def State.waiterSpan (s : State) (i : Nat) (c : Cand) : Option State :=
  (s.job c.job).bind fun j => s.takeSpan i j.reach j.id c.idx (s.needOf j)

/-- The first waiter of each reach that finds a run of free slots in its partition (R254). -/
def State.spanReady (s : State) (i : Nat) : List Cand :=
  let ws := s.spanWaiters i
  ws.filter fun c => (ws.all fun d => d.reach != c.reach || c.seq ≤ d.seq) && (s.waiterSpan i c).isSome

/-- R254: the first waiter of a partition gets its span and is ready again. -/
def State.spanGrant (s : State) (i : Nat) : State :=
  match firstReady (s.spanReady i) with
  | none => s
  | some c =>
    match s.waiterSpan i c, (s.job c.job).bind fun j => (j.node c.idx).map fun n => (j, n) with
    | some t, some (j, n) => t.setJob (j.setNode c.idx { n with st := .ready })
    | _, _ => s

def execBnuSpanGrant (unit : Nat) (s : State) : Host.Outcome State Fault Refusal := engineCmd s (s.spanGrant unit)

/-! ## Spill (R148) -/

/-- The REFUSE answer to a request (R380, R381). -/
def State.refuse (s : State) (port reach seq : Nat) (st : Status) : State :=
  let dev := (s.port port).peerDev
  let epoch := s.knownEpoch dev reach
  let s := (s.sendFrame port 0x07 dev (msgHeader 0x07 0 48 reach s.devId dev epoch seq 0 st.code)).countTx
  { s with cfl := { s.cfl with
    staleIn := if st = .staleRole then satAdd 0xFFFFFFFF s.cfl.staleIn 1 else s.cfl.staleIn } }

/-- The KEY_ID that a spilled job's slot must hold (R383). -/
def State.spillKeyOk (s : State) (e : Entry) (keyId : Bytes) : Bool :=
  !e.keyValid || ((s.slot e.slot).st == .live && (s.slot e.slot).keyId == keyId)

/-- The job a peer runs: no queue and no output buffers of its own. -/
def peerJob (id port : Nat) (now : Nat) (m : SpillMsg) : Job :=
  let e := parseEntry m.slot
  { newJob id 0 64 m.reach now e { slot := m.slot, slotErr := false, param := m.param, inTable := [], outTables := [],
                                   readErr := false } with
    input := m.input, inSum := m.input.length, inDone := true, token := false, forPeer := some (port, m.seq), noSpill := true }

/-- R113: the origin aborts a job that runs here for it. -/
def State.peerAbort (s : State) (port seq : Nat) : State :=
  match s.jobs.find? fun j => j.forPeer == some (port, seq) with
  | some j => s.abortJob j.id
  | none => s

/-- A SPILL message (R81, R148, R381, R383). DESIGN CHOICE (log entry 84): a reach that is not SERVING or is STRICT, and a
backlog above the threshold, refuse with REACH_QUIESCING. -/
def State.spillArrives (s : State) (port : Nat) (m : SpillMsg) : State :=
  let e := parseEntry m.slot
  if (s.port port).st != .up || s.rst.fenced || s.lev.fenced then s
  else if m.abort then s.peerAbort port m.seq
  else
    match s.cfg.reach m.reach with
    | none => s.refuse port m.reach m.seq .staleRole
    | some x =>
      let r := s.reach m.reach
      if r.epoch.toNat != m.epoch || x.ownerDigest != m.ownerDigest then s.refuse port m.reach m.seq .staleRole
      else if r.st != .serving || x.strict || s.spillThreshold < s.backlog then
        s.refuse port m.reach m.seq .reachQuiescing
      else if !s.spillKeyOk e m.keyId then s.refuse port m.reach m.seq .keyReachMismatch
      else
        { s with
          jobs := s.jobs ++ [peerJob s.weir.nextJob port s.now m]
          weir := { s.weir with nextJob := s.weir.nextJob + 1, spillIn := satAdd 0xFFFFFFFF s.weir.spillIn 1 } }

def execSpill (port : Nat) (msg : SpillMsg) (s : State) : Host.Outcome State Fault Refusal :=
  engineCmd s (s.spillArrives port msg)

def allStatuses : List Status :=
  [.ok, .okMigrated, .okAbortLate, .okDeterministicFallback, .verifyFalse, .aborted, .lengthMismatch, .badOpcode,
   .badParams, .keySlotEmpty, .keyUsageDenied, .keyReachMismatch, .outputTooSmall, .pointInvalid, .busy,
   .entropyUnavailable, .entropyFailed, .memUncorrectable, .engineFault, .faultAfterCommit, .busError, .staleRole,
   .reachQuiescing, .leaseExhausted, .latencyBoundMissed, .alarmFlush]

/-- The status of a code (R121). -/
def statusOf (c : Nat) : Option Status := allStatuses.find? fun st => st.code == c

/-- The request of a spilled job no longer waits for a reply. -/
def State.endSpill (s : State) (id : Nat) : State :=
  { s with cfl := { s.cfl with
    pendingReq := s.cfl.pendingReq.filter fun (q : CflReq) => !(q.cls == 0x0B && q.job == some id) } }

/-- The whole result of a spilled job has arrived (R148); an output beyond the job's buffers ends it OUTPUT_TOO_SMALL (R105). -/
def State.spillResult (s : State) (id status detail : Nat) (output : Bytes) : State :=
  match s.job id, statusOf status with
  | some j, some st =>
    if j.st = .spilled then
      let s := (s.endSpill id).setJob { j with output := output, wasSpilled := true }
      if st.success && (j.outBufs.map Prod.snd).sum < output.length then s.endJob id .outputTooSmall 0
      else s.endJob id st detail
    else s
  | _, _ => s

def execSpillResult (job status detail : Nat) (output : Bytes) (s : State) : Host.Outcome State Fault Refusal :=
  engineCmd s (s.spillResult job status detail output)

/-- The job is homed locally, runs from its start, and is never offered again (R147, R148). -/
def State.spillHome (s : State) (j : Job) : State :=
  let s := s.endSpill j.id
  if j.abortLate then s.endJob j.id .aborted 0
  else
    let j := { j with st := .fetched, noSpill := true, spillAt := none }
    if s.basinWait j then s.setJob j else s.place j

def State.spillTimer (s : State) (id : Nat) : State :=
  match s.job id with
  | none => s
  | some j =>
    match j.st, j.spillAt with
    | .spilled, some t => (s.atTime (s.tickEnd (t + 10000000))).spillHome j
    | _, _ => s

def execSpillTimerExpiry (job : Nat) (s : State) : Host.Outcome State Fault Refusal := engineCmd s (s.spillTimer job)

end Sys2Proof.Machine
end

