-- ==== Sys2Proof/Machine/Confluence.lean ====
section
/-! DEFINITION. Confluence: ports (R371, R372), the link handshake (R373 to R376), routing and floods (R377, R378), cluster
time (R384, R385), and what a received message does (R380 to R388, R443). -/

namespace Sys2Proof.Machine

open Sys2Proof

/-! ## Time source (R384) -/

/-- A way to a master: is the master locked, its DEV_ID, the hops to it, the port toward it. -/
structure Way where
  locked : Bool
  master : Nat
  hops : Nat
  port : Option Nat
  deriving DecidableEq, Repr

/-- A locked master before an unlocked one, then the lowest DEV_ID, then the fewest hops. -/
def Way.better (a b : Way) : Bool :=
  if a.locked != b.locked then a.locked
  else if a.master != b.master then a.master < b.master
  else a.hops < b.hops

/-- The ways this device knows of: itself, and each UP neighbour's, one hop further; 30 hops is the most there is. -/
def State.ways (s : State) : List Way :=
  { locked := s.cfl.ppsLock, master := s.devId, hops := 0, port := none } ::
    s.upPorts.filterMap fun p => (s.port p).peerMaster.bind fun m =>
      if m.1 = s.devId ∨ 30 ≤ m.2.2 then none
      else some { locked := m.2.1, master := m.1, hops := m.2.2 + 1, port := some p }

def State.bestWay (s : State) : Way :=
  s.ways.foldl (fun a b => if b.better a then b else a)
    { locked := s.cfl.ppsLock, master := s.devId, hops := 0, port := none }

def State.clearExchanges (s : State) : State :=
  (List.range 8).foldl (fun s p => s.setPort p { s.port p with exchanges := 0 }) s

/-- Follows the best way. A new master makes TIME_VALID wait for two exchanges, or for none on the master itself. -/
def State.chooseMaster (s : State) : State :=
  if !s.wsh.configured then s
  else
    let w := s.bestWay
    let t := { s with cfl := { s.cfl with hops := w.hops } }
    if w.master = s.cfl.masterDev then t
    else
      let t := { t with cfl := { t.cfl with masterDev := w.master, timeValid := w.port.isNone } }
      t.clearExchanges.raise 0x292 0

/-- Corrects cluster time: slewed; a forward step up to 1 ms is made at once while a new source is being taken (R385). -/
def State.correctTime (s : State) (target : Int) : State :=
  let off := s.cfl.offsetAt s.now
  let want := target - Int.ofNat s.now
  let atOnce : Bool := !s.cfl.timeValid && decide (off < want) && decide (want ≤ off + 1000000)
  { s with cfl := { s.cfl with timeOffset := if atOnce then want else off, timeTarget := want, slewAt := s.now } }

/-! ## Ports going up and down -/

def State.notePort (s : State) (p : Nat) (f : Port → Port) : State := s.setPort p (f (s.port p))

/-- What a port keeps when its link is lost: its counts and its lanes. -/
def Port.lost (x : Port) : Port :=
  { Port.reset with st := x.st, refuse := x.refuse, lanesOk := x.lanesOk, tagFail := x.tagFail, retrains := x.retrains }

/-- The link of a port is lost: keys and handshake are gone, jobs spilled over it come home (R148), and its neighbour's
time is no way any more. -/
def State.linkLost (s : State) (p : Nat) (st : PortSt) (refuse : Nat) : State :=
  let gone := s.jobs.filter fun j => j.st == .spilled && j.spillPort == p
  let s := (s.notePort p Port.lost).portGoes p st refuse
  (gone.foldl (fun s j => s.spillHome j) s).chooseMaster

def State.refusePort (s : State) (p code : Nat) : State := s.linkLost p .refused code

def PortSt.locked : PortSt → Bool
  | .trained | .attesting | .up | .refused => true
  | _ => false

def execPortLockLoss (port : Nat) (s : State) : Host.Outcome State Fault Refusal :=
  engineCmd s (if (s.port port).st.locked then
    (s.linkLost port .down 0).notePort port fun x => { x with lanesOk := 0 } else s)

def execPortRetrain (port : Nat) (s : State) : Host.Outcome State Fault Refusal :=
  engineCmd s (if (s.port port).st = .down ∧ s.cfl.retrainEn = true ∧ s.cfg.portEn port = true then
    (s.portGoes port .training 0).notePort port fun x => { x with retrains := satAdd 0xFFFF x.retrains 1 } else s)

/-- Training ends (R371, R372): with four lanes the port is TRAINED, and attests at once after the first COMMIT. -/
def State.portTrained (s : State) (p lanes : Nat) : State :=
  if (s.port p).st != .training then s
  else
    let s := s.notePort p fun x => { x with lanesOk := lanes % 16 }
    if lanes % 16 != 15 then s.portGoes p .down 0
    else if !s.wsh.configured then s.portGoes p .trained 0
    else (s.notePort p fun x => { x with hs := .none, probed := none }).portGoes p .attesting 0

/-! ## The link handshake (R373 to R376) -/

def State.clusterId (s : State) : Nat := (s.cfg.confluence.map ConfluenceRec.clusterId).getD 0

/-- PROBE, not authenticated: DEV_ID and CLUSTER_ID. -/
def State.probeSend (s : State) (p : Nat) : State :=
  if (s.port p).st = .attesting ∧ (s.port p).hs = .none then
    s.sendLocal p 0x09 (toLe 1 1 ++ toLe 2 s.devId ++ toLe 4 s.clusterId)
  else s

def execProbeSend (port : Nat) (s : State) : Host.Outcome State Fault Refusal := engineCmd s (s.probeSend port)

/-- A link statement of this device over a handshake transcript (R374), with its chain. -/
def State.linkStatement (s : State) (p : Nat) (transcript : Bytes) : Bytes :=
  let payload := cborHead 5 11 ++ s.deviceClaims ++
    cborUint 16 ++ cborUint s.devId ++ cborUint 17 ++ cborUint s.clusterId ++
    cborUint 18 ++ cborBytes (fit 48 s.fuse.ownerMldsa) ++ cborUint 19 ++ cborUint p ++
    cborUint 20 ++ cborBytes (sha3_384 transcript)
  let st := s.kst.statement payload
  toLe 4 st.length ++ st ++ s.ledger.cert

/-- ML-KEM-1024's encapsulation key of a seed d ‖ z. -/
def kemEk (seed : Bytes) : Bytes := mlKemEk 2 (mlKemNew 2 seed)

/-- HELLO, with a fresh ek drawn from the device DRBG. -/
def State.sendHello (s : State) (p : Nat) : State :=
  if !s.drbgOpen devInst then s
  else
    let g := s.generate devInst 64
    let ek := kemEk g.1
    let s := g.2.notePort p fun x => { x with hs := .sentHello, initiator := true, seed := g.1, ek := ek, sentAt := s.now }
    s.sendLocal p 0x09 (toLe 1 2 ++ ek ++ s.linkStatement p ek)

/-- A received PROBE chooses the roles (R373). -/
def State.gotProbe (s : State) (p dev : Nat) : State :=
  let x := s.port p
  if x.st != .attesting || x.hs != .none then s
  else if dev = s.devId then s.refusePort p 6
  else
    let s := s.notePort p fun x => { x with peerDev := dev, probed := some (x.probed.getD s.now) }
    if s.devId < dev then s.sendHello p else s

/-- Counts a frame and a message for this device. -/
def State.countRx (s : State) (p : Nat) : State :=
  let s := s.notePort p fun x => { x with rxFrames := x.rxFrames + 1 }
  { s with cfl := { s.cfl with msgRx := satAdd 0xFFFFFFFF s.cfl.msgRx 1 } }

def State.linkHears (s : State) (p : Nat) : Bool := (s.port p).st == .attesting || (s.port p).st == .up

def execProbe (port devId clusterId : Nat) (s : State) : Host.Outcome State Fault Refusal :=
  let _ := clusterId
  engineCmd s (if s.linkHears port then (s.countRx port).gotProbe port devId else s)

/-- Check 6 of R375. -/
def State.neighbourOk (s : State) (p dev : Nat) : Bool :=
  match s.cfg.confluence with
  | none => false
  | some c =>
    let dir := c.portDir.getD p 0
    if 1 ≤ dir && dir ≤ 6 then c.neighbour c.devId dir == some dev
    else if dir = 7 then (List.range 8).any fun q =>
      let d := c.portDir.getD q 0
      1 ≤ d && d ≤ 6 && c.neighbour c.devId d == some dev
    else if dir = 8 then c.routes.any fun r => r.1 == dev && r.2 == p
    else false

/-- The claims of a link statement as its payload holds them (R312, R374): a map of 11 entries, keys 1 to 6 and 16 to 20. -/
def linkClaims (m : Bytes) : Option (Bytes × Nat × Nat × Nat × Bytes × Nat × Bytes) :=
  let key (k : Nat) (b : Bytes) : Option Bytes :=
    match cborRead b with | some (0, n, r) => if n = k then some r else none | _ => none
  let num (b : Bytes) : Option (Nat × Bytes) := match cborRead b with | some (0, n, r) => some (n, r) | _ => none
  let str (t : Nat) (b : Bytes) : Option (Bytes × Bytes) :=
    match cborRead b with
    | some (mt, n, r) => if mt = t && n ≤ r.length then some (r.take n, r.drop n) else none
    | none => none
  match cborRead m with
  | some (5, 11, b) => do
    let b ← key 1 b
    let v ← num b
    let d ← (key 2 v.2).bind (str 2)
    let st ← (key 3 d.2).bind (str 3)
    let g ← (key 4 st.2).bind num
    let svn ← (key 5 g.2).bind num
    let b ← key 6 svn.2
    match cborRead b with
    | some (4, 16, b) =>
      -- 16 byte strings of 48, each with its two-byte head
      let b ← key 16 (b.drop (16 * 50))
      let dev ← num b
      let cl ← (key 17 dev.2).bind num
      let own ← (key 18 cl.2).bind (str 2)
      let port ← (key 19 own.2).bind num
      let tr ← (key 20 port.2).bind (str 2)
      if v.1 = 1 && tr.2.isEmpty then some (st.1, g.1, dev.1, cl.1, own.1, port.1, tr.1) else none
    | _ => none
  | _ => none

/-- Are the fields that the statement comes with those of its signed payload? -/
def linkClaimsOk (m : LinkStatement) : Bool :=
  match linkClaims m.payload with
  | some (st, g, dev, cl, own, port, tr) =>
    m.owned == (st == ascii "OWNED") && m.gen == g && m.devId == dev && m.clusterId == cl && m.ownerDigest == own &&
      m.port == port && m.transcript == tr
  | none => false

/-- The acceptance checks of R375 in their order; 0 when every one passes. -/
def State.statementCode (s : State) (p : Nat) (m : LinkStatement) (transcript : Bytes) : Nat :=
  let keys := Config.chainKeys m.chain
  let sig1 := mlDsaAccepts 2 keys.1 (pureEmpty (sigStructure (algProtected 50) m.payload)) m.sigMldsa
  let sig2 := ecdsaAccepts 1 keys.2 (sha384 (sigStructure (algProtected 35) m.payload)) m.sigEcdsa
  if !(sig1 && sig2 && linkClaimsOk m && m.transcript == sha3_384 transcript) then 1
  else if !(Config.chainOk m.chain || (s.cfl.uncertOk && 0 < m.gen)) then 2
  else if !m.owned then 3
  else if m.ownerDigest != fit 48 s.fuse.ownerMldsa then 4
  else if m.clusterId != s.clusterId then 5
  else if !(s.neighbourOk p m.devId && m.devId == (s.port p).peerDev) then 6
  else 0

/-- The 64 bytes of link keys (R376): initiator to responder, then the reverse. -/
def linkKeys (k ek ct : Bytes) : Bytes :=
  kmac256 k (ascii "LX9-LINK" ++ sha3_384 (ek ++ ct)) 64 (ascii "LX9-LINK")

def State.sendReply (s : State) (p : Nat) : State :=
  let x := s.port p
  s.sendLocal p 0x09 (toLe 1 3 ++ x.ct ++ s.linkStatement p (x.ek ++ x.ct))

/-- A HELLO reaches the responder: checked, encapsulated, answered. -/
def State.gotHello (s : State) (p : Nat) (ek : Bytes) (m : LinkStatement) : State :=
  let x := s.port p
  if x.initiator || x.probed.isNone then s
  else
    match s.statementCode p m ek with
    | 0 =>
      if !s.drbgOpen devInst then s
      else
        let g := s.generate devInst 32
        let r := mlKemEncapsWith 2 (kemEkMatrix 2 ek) ek g.1
        let ct := fit 1568 r.1
        let s := g.2.notePort p fun x => { x with
          hs := .sentReply, ek := ek, ct := ct, newKeys := linkKeys (fit 32 r.2) ek ct, sentAt := s.now }
        s.sendReply p
    | k + 1 => s.refusePort p (k + 1)

/-- On an UP link a HELLO of the initiator begins a rekey: its own time limit starts. -/
def State.noteRekey (s : State) (p : Nat) : State :=
  let x := s.port p
  if x.st = .up ∧ x.hs = .none then s.notePort p fun x => { x with probed := some s.now } else s

def execHello (port : Nat) (ek : Bytes) (stmt : LinkStatement) (s : State) : Host.Outcome State Fault Refusal :=
  engineCmd s (if s.linkHears port then ((s.countRx port).noteRekey port).gotHello port ek stmt else s)

/-- New keys come into use. -/
def Port.install (x : Port) (now : Nat) : Port :=
  let a := x.newKeys.take 32
  let b := x.newKeys.drop 32
  { x with txKey := if x.initiator then a else b, rxKey := if x.initiator then b else a, newKeys := [], seed := [],
           probed := none, upSince := now, txFrames := 0, rxFrames := 0 }

/-- A device of KEY_POLICY 1 draws a candidate for the cluster key at its first link-up (R382). -/
def State.drawCluster (s : State) : State :=
  if s.keyPolicy && s.cfl.clusterKey.isNone && s.drbgOpen devInst then
    let g := s.generate devInst 32
    State.raise { g.2 with cfl := { g.2.cfl with clusterKey := some g.1, keyDev := s.devId } } 0x293 0
  else s

/-- The handshake completes: the port is UP. A peer whose link was not UP has re-attested (R387); a rekey ends no fence. -/
def State.linkUp (s : State) (p : Nat) (hs : Handshake) : State :=
  let s := s.notePort p fun x => { x.install s.now with hs := hs }
  let dev := (s.port p).peerDev
  let s := if s.isUp p then s else
    { s with cfl := { s.cfl with fencedDevs := s.cfl.fencedDevs.filter fun (d : Nat) => d != dev } }
  (s.portGoes p .up 0).drawCluster

def State.sendFinish (s : State) (p : Nat) : State :=
  let x := s.port p
  s.sendLocal p 0x09 (toLe 1 4 ++ fit 16 (Config.finishTag (x.txKey ++ x.rxKey) (x.ek ++ x.ct)))

/-- A REPLY reaches the initiator: checked, decapsulated, answered with FINISH; a repeated one is answered again. -/
def State.gotReply (s : State) (p : Nat) (ct : Bytes) (m : LinkStatement) : State :=
  let x := s.port p
  if !x.initiator then s
  else if x.hs = .sentFinish ∧ x.ct = ct then s.sendFinish p
  else if x.hs != .sentHello then s
  else
    match s.statementCode p m (x.ek ++ ct) with
    | 0 =>
      let dk := mlKemNew 2 x.seed
      let k := mlKemDecapsWith 2 (kemEkMatrix 2 (mlKemEk 2 dk)) dk ct
      let s := s.notePort p fun x => { x with ct := ct, newKeys := linkKeys k x.ek ct }
      (s.linkUp p .sentFinish).sendFinish p
    | k + 1 => s.refusePort p (k + 1)

def execReply (port : Nat) (ct : Bytes) (stmt : LinkStatement) (s : State) : Host.Outcome State Fault Refusal :=
  engineCmd s (if s.linkHears port then (s.countRx port).gotReply port ct stmt else s)

/-- FINISH verifies (R373). -/
def State.gotFinish (s : State) (p : Nat) (tag : Bytes) : State :=
  let x := s.port p
  if x.hs = .sentReply ∧ tag = fit 16 (Config.finishTag x.newKeys (x.ek ++ x.ct)) then s.linkUp p .none else s

def execFinish (port : Nat) (tag : Bytes) (s : State) : Host.Outcome State Fault Refusal :=
  engineCmd s (if s.linkHears port then (s.countRx port).gotFinish port tag else s)

/-- A HELLO or REPLY is sent again after 1 ms. -/
def State.resend (s : State) (p : Nat) : State :=
  let x := s.port p
  let t := s.atTime (x.sentAt + 1000000)
  match x.hs with
  | .sentHello => t.sendHello p
  | .sentReply => (t.notePort p fun x => { x with sentAt := t.now }).sendReply p
  | _ => s

def execHandshakeResend (port : Nat) (s : State) : Host.Outcome State Fault Refusal :=
  engineCmd s (if s.linkHears port then s.resend port else s)

/-- 5 ms from the first PROBE received. -/
def State.handshakeLate (s : State) (p : Nat) : State :=
  match (s.port p).probed with
  | some t => (s.atTime (t + 5000000)).refusePort p 7
  | none => s

def execHandshakeTimeout (port : Nat) (s : State) : Host.Outcome State Fault Refusal :=
  engineCmd s (if s.linkHears port then s.handshakeLate port else s)

/-- After 2^40 frames or 3,600 s the initiator begins the handshake again; traffic goes on under the keys in use. -/
def State.rekey (s : State) (p : Nat) : State :=
  let x := s.port p
  if x.st != .up || !x.initiator || x.hs = .sentHello then s
  else
    let t := if x.txFrames < 2 ^ 40 ∧ x.rxFrames < 2 ^ 40 then s.atTime (x.upSince + 3600000000000) else s
    (t.notePort p fun x => { x with probed := some t.now }).sendHello p

def execRekey (port : Nat) (s : State) : Host.Outcome State Fault Refusal := engineCmd s (s.rekey port)

/-- A frame whose tag fails is discarded, and its message with it (R376). -/
def execLinkFrameTagFail (port : Nat) (s : State) : Host.Outcome State Fault Refusal :=
  engineCmd s (if s.isUp port then
    (s.notePort port fun x => { x with tagFail := satAdd 0xFFFF x.tagFail 1, rxFrames := x.rxFrames + 1 }).dropMsg else s)

/-! ## Messages in transit (R377, R378) -/

def hdrBytes (h : MsgHdr) (cls ttl len : Nat) : Bytes :=
  msgHeader cls h.flags ttl h.reach h.src h.dst h.epoch h.seq len h.status

def State.forward (s : State) (cls : Nat) (h : MsgHdr) (body : Bytes) : State :=
  if h.ttl ≤ 1 then s.dropMsg
  else
    match s.routeTo h.dst with
    | none => s.dropMsg
    | some p => s.sendFrame p cls h.dst (hdrBytes h cls (h.ttl - 1) body.length ++ body)

def execMessageForward (port cls : Nat) (hdr : MsgHdr) (body : Bytes) (s : State) : Host.Outcome State Fault Refusal :=
  engineCmd s (if s.isUp port && hdr.dst != s.devId then
    (s.notePort port fun x => { x with rxFrames := x.rxFrames + 1 }).forward cls hdr body else s)

/-- Forwards a (SRC_DEV, SEQ) pair once. -/
def State.floodOn (s : State) (p cls : Nat) (h : MsgHdr) (body : Bytes) : State :=
  if s.cfl.seen.contains (h.src, h.seq) then s
  else
    let s := { s with cfl := { s.cfl with seen := s.cfl.seen ++ [(h.src, h.seq)] } }
    if h.ttl ≤ 1 then s.dropMsg
    else
      (s.upPorts.filter (· != p)).foldl (fun s q => s.sendFrame q cls 0xFFFF (hdrBytes h cls (h.ttl - 1) body.length ++ body)) s

def execFloodForward (port cls : Nat) (hdr : MsgHdr) (body : Bytes) (s : State) : Host.Outcome State Fault Refusal :=
  engineCmd s (if s.isUp port then s.floodOn port cls hdr body else s)

/-! ## Time messages (R384, R385) -/

/-- A TIME message: the master followed, whether it is locked, the hops to it, cluster time. -/
def State.timeBody (s : State) : Bytes :=
  let w := s.bestWay
  toLe 2 w.master ++ toLe 1 (b2n w.locked) ++ toLe 1 w.hops ++ toLe 4 0 ++ toLe 8 s.clusterTime

def execTimeExchange (port : Nat) (s : State) : Host.Outcome State Fault Refusal :=
  engineCmd s (if s.isUp port then s.sendLocal port 0x01 s.timeBody else s)

/-- The neighbour's time, taken when it is the neighbour one hop nearer the master. -/
def State.gotTime (s : State) (p : Nat) (m : TimeMsg) : State :=
  let s := (s.notePort p fun x => { x with
    linkDelay := m.delayNs, peerMaster := some (m.master, m.locked, m.hops) }).chooseMaster
  if s.bestWay.port != some p then s
  else
    let s := s.notePort p fun x => { x with exchanges := min 2 (x.exchanges + 1) }
    let s := s.correctTime (Int.ofNat (m.time + m.delayNs))
    if (s.port p).exchanges = 2 ∧ s.cfl.timeValid = false then
      State.raise { s with cfl := { s.cfl with timeValid := true } } 0x292 0
    else s

def execTime (port : Nat) (msg : TimeMsg) (s : State) : Host.Outcome State Fault Refusal :=
  engineCmd s (if s.isUp port then (s.countRx port).gotTime port msg else s)

/-- The nearest whole second of cluster time. -/
def nearestSecond (t : Nat) : Nat := (t + 500000000) / 1000000000 * 1000000000

/-- A rising edge on PPS_IN (R385). -/
def State.ppsEdge (s : State) : State :=
  let hit : Bool := match s.cfl.ppsLast with
    | some t => decide (s.now ≤ t + 1000000100) && decide (t + 999999900 ≤ s.now)
    | none => false
  let good := if hit then min 3 (s.cfl.ppsGood + 1) else 0
  let lock : Bool := good == 3
  let was := s.cfl.ppsLock
  let s := { s with cfl := { s.cfl with ppsLast := some s.now, ppsGood := good, ppsLock := lock } }
  let s := if lock != was then (s.raise 0x292 0).chooseMaster else s
  if lock && s.bestWay.port.isNone then s.correctTime (Int.ofNat (nearestSecond s.clusterTime)) else s

def execPpsInEdge (s : State) : Host.Outcome State Fault Refusal := engineCmd s s.ppsEdge

/-- The time master takes a later time (R385). -/
def State.timeSet (s : State) (hi : Nat) : State :=
  let v := hi * 2 ^ 32 + s.cfl.timeSetLo
  let off : Int := Int.ofNat v - Int.ofNat s.now
  let s := { s with cfl := { s.cfl with timeSetHi := hi } }
  if s.wsh.configured && s.bestWay.port.isNone && s.clusterTime < v then
    { s with cfl := { s.cfl with timeOffset := off, timeTarget := off, slewAt := s.now } }
  else s

def execCflTimeSet (hi : Nat) (s : State) : Host.Outcome State Fault Refusal := hostCmd s (s.timeSet hi)

/-! ## Flooded classes (R386, R387, R443) -/

/-- Acts once on a flooded message of another device. -/
def State.onFlood (s : State) (p : Nat) (h : MsgHdr) (f : State → State) : State :=
  if !s.isUp p || h.src = s.devId || s.cfl.acted.contains (h.src, h.seq) then s
  else
    let s := s.countRx p
    f { s with cfl := { s.cfl with acted := s.cfl.acted ++ [(h.src, h.seq)] } }

def execAlarm (port : Nat) (hdr : MsgHdr) (s : State) : Host.Outcome State Fault Refusal :=
  engineCmd s (s.onFlood port hdr fun s => s.raise 0x290 hdr.src)

/-- A lease request that ends without a grant: its job ends LEASE_EXHAUSTED with DETAIL 3, with the KEYS event (R310,
R455). -/
def State.leaseFails (s : State) (q : CflReq) : State :=
  let s := s.dropReq q.id
  match q.job with
  | none => s
  | some id =>
    let s := s.endJob id .leaseExhausted 3
    s.raiseReach q.reach 3 (2 * 2 ^ 24 + q.slot)

/-- A device is known to be fenced (R387). -/
def State.learnFence (s : State) (dev : Nat) : State :=
  let s := { s with cfl := { s.cfl with fencedDevs := addOnce s.cfl.fencedDevs dev } }
  (s.cfl.pendingReq.filter fun q => q.cls == 0x06 && q.dest == dev).foldl State.leaseFails s

def execFenced (port : Nat) (hdr : MsgHdr) (s : State) : Host.Outcome State Fault Refusal :=
  engineCmd s (s.onFlood port hdr fun s => (s.learnFence hdr.src).raise 0x291 hdr.src)

def execTrigger (port : Nat) (hdr : MsgHdr) (s : State) : Host.Outcome State Fault Refusal :=
  engineCmd s (s.onFlood port hdr fun s => (s.raise 0x294 hdr.src).requestCapture .confluence)

/-- R443: a device whose staged digest matches arms or disarms; any other ignores and counts. -/
def State.activateMsg (s : State) (instant : Nat) (digest : Bytes) (cancel : Bool) : State :=
  let mine : Bool := digest == s.fwu.digest
  if !cancel && mine && (s.fwu.st == .staged || s.fwu.st == .armed) then
    { s with fwu := { s.fwu with instant := instant, st := .armed } }
  else if cancel && mine && s.fwu.st == .armed then { s with fwu := { s.fwu with st := .staged } }
  else { s with fwu := { s.fwu with ignored := satAdd 0xFFFFFFFF s.fwu.ignored 1 } }

def execFwActivate (port : Nat) (hdr : MsgHdr) (instant : Nat) (digest : Bytes) (cancel : Bool) (s : State) :
    Host.Outcome State Fault Refusal :=
  engineCmd s (s.onFlood port hdr fun s => s.activateMsg instant digest cancel)

/-! ## Unicast requests and answers (R310, R381, R388) -/

/-- A request for this device that it may act on: a fenced device acts on none (R387). -/
def State.hearsRequest (s : State) (p : Nat) (h : MsgHdr) : Bool :=
  s.isUp p && h.dst == s.devId && !s.rst.fenced && !s.lev.fenced

/-- The answer to a request: its SEQ, the epoch of the target as last learned. -/
def State.answer (s : State) (h : MsgHdr) (cls status : Nat) (body : Bytes) : State :=
  s.sendAs h.seq cls 0 h.reach h.src (s.knownEpoch h.src h.reach) status body

def State.refuseReq (s : State) (h : MsgHdr) (st : Status) : State :=
  let s := s.answer h 0x07 st.code []
  if st = .staleRole then { s with cfl := { s.cfl with staleIn := satAdd 0xFFFFFFFF s.cfl.staleIn 1 } } else s

/-- The epoch check of a request (R381): the reach exists and its epoch is the one named. -/
def State.epochOk (s : State) (h : MsgHdr) : Bool :=
  match s.cfg.reach h.reach with
  | some _ => (s.reach h.reach).epoch.toNat == h.epoch
  | none => false

/-- The home device grants a lease after its record commit, or refuses (R81, R307, R309, R310). -/
def State.gotLeaseReq (s : State) (h : MsgHdr) (keyId : Bytes) : State :=
  if !s.epochOk h then s.refuseReq h .staleRole
  else if (s.reach h.reach).st = .quiescing ∨ (s.reach h.reach).st = .quiesced then s.refuseReq h .reachQuiescing
  else
    match s.homeLease keyId, s.record keyId with
    | .ok l, some r =>
      let s := s.setRecord { r with floor := max r.floor l.stop, grants := r.grants + 1 }
      s.answer h 0x06 0 (toLe 8 l.next ++ toLe 8 l.stop ++ toLe 8 (r.limit - l.stop))
    | _, _ => (s.unusableEvent keyId).answer h 0x06 Status.leaseExhausted.code []

def execLeaseReq (port : Nat) (hdr : MsgHdr) (keyId : Bytes) (s : State) : Host.Outcome State Fault Refusal :=
  engineCmd s (if s.hearsRequest port hdr then (s.countRx port).gotLeaseReq hdr keyId else s)

def State.reqOf (s : State) (h : MsgHdr) : Option CflReq :=
  s.cfl.pendingReq.find? fun q => q.id == h.seq && q.dest == h.src

/-- A granted range becomes the slot's current or next lease, from which the jobs that wait for it draw; a refusal under R309
ends the request (R310); an answer that nothing waits for is discarded (R388). -/
def State.gotGrant (s : State) (h : MsgHdr) (start stop remain : Nat) : State :=
  match s.reqOf h with
  | none => s
  | some q =>
    if q.cls != 0x06 then s
    else if h.status != 0 then s.leaseFails q
    else
      let x := s.slot q.slot
      let l : Lease := { next := start, stop := stop, committed := true }
      let x := { x with remote := remain }
      let s := s.dropReq q.id
      if x.st != .live then s
      else if (Lease.some? x.cur).isNone then (s.setSlot q.slot { x with cur := some l }).drawWaiting q.slot
      else s.setSlot q.slot { x with nxt := some l }

def State.hearsReply (s : State) (p : Nat) (h : MsgHdr) : Bool := s.isUp p && h.dst == s.devId

def execLeaseGrant (port : Nat) (hdr : MsgHdr) (start stop remain : Nat) (s : State) :
    Host.Outcome State Fault Refusal :=
  engineCmd s (if s.hearsReply port hdr then (s.countRx port).gotGrant hdr start stop remain else s)

def State.grantLate (s : State) (req : Nat) : State :=
  match s.cfl.pendingReq.find? fun q => q.id == req && q.cls == 0x06 with
  | some q => (s.atTime (q.sentAt + 10000000)).leaseFails q
  | none => s

def execLeaseGrantTimeout (req : Nat) (s : State) : Host.Outcome State Fault Refusal := engineCmd s (s.grantLate req)

/-- A refusal that is final ends the request by its class's rule (R147, R310, R383). -/
def State.reqFails (s : State) (q : CflReq) : State :=
  if q.cls = 0x06 then s.leaseFails q
  else
    let s := s.dropReq q.id
    -- a placement refused: no such reach, or no empty slot, on the peer (DEDUCED, log entry 98)
    let s := if q.place then { s with kst := { s.kst with result := Status.badParams.code } } else s
    match q.job.bind s.job with
    | some j => if j.st = .spilled then s.spillHome j else s
    | none => s

/-- The first STALE_ROLE waits for the receiver's next ADVERT; any other refusal is final (R381). -/
def State.gotRefuse (s : State) (h : MsgHdr) (status : Nat) : State :=
  match s.reqOf h with
  | none => s
  | some q =>
    if status = Status.staleRole.code ∧ q.resent = false then
      { s with cfl := { s.cfl with
        pendingReq := s.cfl.pendingReq.map fun (r : CflReq) => if r.id = q.id then { r with again := true } else r } }
    else s.reqFails q

def execRefuse (port : Nat) (hdr : MsgHdr) (status : Nat) (s : State) : Host.Outcome State Fault Refusal :=
  engineCmd s (if s.hearsReply port hdr then (s.countRx port).gotRefuse hdr status else s)

/-- Sends a refused request again, once, under the epoch now known. -/
def State.sendAgain (s : State) (q : CflReq) : State :=
  let id := s.cfl.seq
  let s := s.dropReq q.id
  (s.sendNew q.cls q.reach q.dest (s.knownEpoch q.dest q.reach) q.body).awaitReply
    { q with id := id, resent := true, again := false }

/-! ## ADVERT (R147, R380 to R382, R387) -/

def State.advertBody (s : State) : Bytes :=
  let rs := s.cfg.reaches.map fun r => toLe 1 r.id ++ toLe 4 (s.reach r.id).epoch.toNat
  let key := if s.keyPolicy then s.cfl.clusterKey.getD [] else []
  toLe 4 s.backlog ++ toLe 4 s.spillThreshold ++ toLe 1 (b2n (s.rst.fenced || s.lev.fenced)) ++
    toLe 1 (b2n (!key.isEmpty)) ++ toLe 2 s.cfl.keyDev ++ toLe 2 rs.length ++ rs.flatten ++ key

def execAdvertSend (port : Nat) (s : State) : Host.Outcome State Fault Refusal :=
  engineCmd s (if s.isUp port then s.sendLocal port 0x08 s.advertBody else s)

/-- The side whose key has the higher source takes the other's (R382). -/
def State.takeClusterKey (s : State) (m : AdvertMsg) : State :=
  match m.key with
  | some k =>
    if s.keyPolicy && (s.cfl.clusterKey.isNone || m.keyDev < s.cfl.keyDev) then
      State.raise { s with cfl := { s.cfl with clusterKey := some k, keyDev := m.keyDev } } 0x293 0
    else s
  | none => s

def State.gotAdvert (s : State) (p : Nat) (m : AdvertMsg) : State :=
  let had := (s.port p).peerHasKey
  let dev := (s.port p).peerDev
  let s := s.notePort p fun x => { x with
    peerBacklog := m.backlog, peerThreshold := m.threshold, peerEpochs := m.epochs, peerFenced := m.fenced,
    peerKeyDev := m.keyDev, peerHasKey := m.key.isSome }
  let s := if m.fenced && !s.cfl.fencedDevs.contains dev then s.learnFence dev else s
  let s := s.takeClusterKey m
  let s := (s.cfl.pendingReq.filter fun q => q.again && q.dest == dev).foldl State.sendAgain s
  if m.key.isSome && !had then s.copiesOnLink p else s

def execAdvert (port : Nat) (msg : AdvertMsg) (s : State) : Host.Outcome State Fault Refusal :=
  engineCmd s (if s.isUp port then (s.countRx port).gotAdvert port msg else s)

/-! ## Key copies (R310, R383) -/

/-- The word of a copy: ORIGIN IMPORTED_WRAPPED, and otherwise the same. -/
def copyWord (a : BitVec 64) : BitVec 64 :=
  attrSet a { type := attrType a, param := attrParam a, origin := 2, stateful := attrStateful a, owner := attrOwner a }

/-- The two encodings that a copy carries, once its tag verifies under the cluster key with KEY_ID as AAD. -/
def openCopy (key : Bytes) (k : KeyMsg) : Option (Bytes × Bytes) :=
  let n := k.sealed.length
  (gcmOpen key (k.sealed.take 12) k.keyId (slice k.sealed 12 (n - 28)) (k.sealed.drop (n - 16))).map fun m =>
    (slice m 4 (fieldLe m 0 4), m.drop (4 + fieldLe m 0 4))

/-- The copy's slot is LIVE. A copy whose tag fails is discarded (log entry 16). -/
def State.installCopy (s : State) (k : KeyMsg) (a : BitVec 64) : State :=
  match s.cfl.clusterKey.bind fun key => openCopy key k with
  | none => s
  | some m =>
    s.storeSlot k.slot { Slot.reset with
      st := .live, attr := a, mat := m.1, pub := m.2, keyId := k.keyId, homeDev := k.homeDev }

/-- A copy for a reach of this device: of the same OWNER_DIGEST, under KEY_POLICY 1, into its range (R310, R383). -/
def State.copyFits (s : State) (h : MsgHdr) (k : KeyMsg) : Bool :=
  s.keyPolicy && s.cfl.clusterKey.isSome && attrOwner k.attr == h.reach && k.owner == s.cfg.ownerOf h.reach &&
    (match s.cfg.reach h.reach with
     | some x => x.keyBase ≤ k.slot && k.slot < x.keyBase + x.keyCount
     | none => false)

/-- A copy, its RESTRICT, or its loss. -/
def State.gotCopy (s : State) (h : MsgHdr) (k : KeyMsg) : State :=
  let x := s.slot k.slot
  if !s.epochOk h then s.refuseReq h .staleRole
  else if !s.copyFits h k || (x.st != .empty && x.keyId != k.keyId) then s.refuseReq h .keyReachMismatch
  else if k.gone then s.invalidate k.slot
  else s.installCopy k (copyWord k.attr)

def execKeyRepl (port : Nat) (hdr : MsgHdr) (key : KeyMsg) (s : State) : Host.Outcome State Fault Refusal :=
  engineCmd s (if s.hearsRequest port hdr then (s.countRx port).gotCopy hdr key else s)

/-- A placement: an empty slot becomes a lease client's, not exportable. -/
def State.gotPlace (s : State) (h : MsgHdr) (k : KeyMsg) : State :=
  if !s.epochOk h then s.refuseReq h .staleRole
  else if !s.copyFits h k || (s.slot k.slot).st != .empty then s.refuseReq h .keyReachMismatch
  else s.installCopy k (attrClear (copyWord k.attr) 32)

def execKeyPlace (port : Nat) (hdr : MsgHdr) (key : KeyMsg) (s : State) : Host.Outcome State Fault Refusal :=
  engineCmd s (if s.hearsRequest port hdr then (s.countRx port).gotPlace hdr key else s)

end Sys2Proof.Machine
end

