-- ==== Sys2Proof/Machine/LifeCycle.lean ====
section
/-! DEFINITION. The life cycle (R390 to R405): the vote, tokens and transitions, the burn and its journal, the erase, and
the JTAG port. -/

namespace Sys2Proof.Machine

open Sys2Proof

/-! ## Codes and the vote (R391, R392) -/

/-- The code of a position; 64 is SCRAPPED. -/
def posCode (n : Nat) : BitVec 64 := BitVec.ofNat 64 (2 ^ n - 1)

/-- The position of a valid code. -/
def codePos (c : BitVec 64) : Option Nat := (64 :: List.range 34).find? fun n => posCode n == c

def posState (n : Nat) : LcState :=
  if n = 0 then .blank
  else if n ≤ 17 then (if n % 2 = 1 then .testLocked else .testUnlocked)
  else if n = 18 then .personalised
  else if n = 64 then .scrapped
  else if n % 2 = 1 then .owned else .fieldReturn

/-- The generation of a thermometer bitmap 2^g − 1. -/
def thermOf (n x : Nat) : Option Nat := (List.range (n + 1)).find? fun g => 2 ^ g - 1 == x

/-- Does a voted position agree with the voted generation and consumption bits? -/
def lifeAgrees (pos gen used : Nat) : Bool :=
  match posState pos with
  | .owned => gen == (pos - 19) / 2
  | .fieldReturn => gen == (pos - 20) / 2 || gen == (pos - 20) / 2 + 1
  | .testUnlocked => used % 2 ^ (pos / 2) == 2 ^ (pos / 2) - 1
  | _ => true

/-- A vote of the three fields: position, generation, consumption bits. -/
def Fuses.lifeVote (f : Fuses) : Option (Nat × Nat × Nat) :=
  match (vote3 f.code).bind codePos, (vote3 f.gen).bind (thermOf 7), vote3 f.used with
  | some p, some g, some u => if lifeAgrees p g u then some (p, g, u) else none
  | _, _, _ => none

/-- The fuse fields found programmed: LCS_DIGESTS (R405). -/
def Fuses.digestMap (f : Fuses) : Nat :=
  let bit (n : Nat) (d : Bytes) : Nat := if programmed d then 2 ^ n else 0
  bit 0 f.persDig + bit 1 f.ownDig + bit 2 f.scrapDig + bit 3 f.ownerMldsa + bit 4 f.ownerEcdsa + bit 5 f.returnDig +
    bit 6 f.reownDig + b2n f.rootSet * 128 + bit 16 f.testMldsa + bit 17 f.testEcdsa +
    ((List.range 8).map fun k => bit (8 + k) (f.testDig.getD k [])).sum

/-- ERASE as the fuses show it: a FIELD_RETURN part whose generation has advanced is erased (R400, R402). -/
def eraseOf (pos gen : Nat) : Nat :=
  if posState pos = .fieldReturn then (if gen = (pos - 20) / 2 + 1 then 2 else 1) else 0

/-- Boot step 1's vote (R392). -/
def State.voteLife (s : State) : State :=
  let f := s.fuse
  let same := (vote3 f.code).getD 0
  let agree := ((List.range 3).map fun c => if f.code.getD c 0 = same ∧ (vote3 f.code).isSome then 2 ^ c else 0).sum
  let l := { s.lcs with copies := f.code, digests := f.digestMap, sensed := true, vote := agree }
  let out : Lcs :=
    match f.lifeVote with
    | some (p, g, u) =>
      { l with st := posState p, pos := if p = 64 then 63 else p, byVote := false, gen := g, used := u,
               erase := eraseOf p g }
    | none =>
      { l with st := .scrapped, pos := 63, byVote := true, gen := ((vote3 f.gen).bind (thermOf 7)).getD 0,
               used := (vote3 f.used).getD 0, erase := 0 }
  { s with lcs := out }

/-- Does a fuse copy disagree with its vote? Boot step 2 counts it as an event of source 22. -/
def Fuses.disagrees (f : Fuses) : Bool :=
  let split {α : Type} [DecidableEq α] (xs : List α) : Bool := xs.any fun x => xs.any fun y => x != y
  split f.code || split f.gen || split f.used

/-! ## Tokens and transitions (R394 to R396) -/

/-- The ERASE steps of a transition, and whether a generation step follows (R400). -/
inductive LcErase where
  | none | after | before
  deriving DecidableEq, Repr

/-- A transition of the table of R395 from the voted state. -/
structure LcTrans where
  target : Nat
  digest : Option Bytes
  label : Bytes
  owner : Bool
  used : Option Nat
  erase : LcErase
  deriving DecidableEq, Repr

def plainTrans (target : Nat) (digest : Bytes) (label : String) : LcTrans :=
  { target := target, digest := some digest, label := ascii label, owner := false, used := none, erase := .none }

/-- Command 0x1. -/
def State.lcTestLock (s : State) : Option LcTrans :=
  let l := s.lcs
  let free (n : Nat) : LcTrans :=
    { target := n, digest := none, label := [], owner := false, used := none, erase := .none }
  match l.st with
  | .blank =>
    if l.digests / 256 % 256 = 255 ∧ bitOf l.digests 0 ∧ bitOf l.digests 2 ∧ bitOf l.digests 16 then some (free 1) else none
  | .testUnlocked => some (free (l.pos + 1))
  | _ => none

/-- Command 0x2. -/
def State.lcTestUnlock (s : State) : Option LcTrans :=
  let j := s.lcs.pos / 2
  if s.lcs.st = .testLocked ∧ j ≤ 7 ∧ bitOf s.lcs.used j = false then
    some { target := s.lcs.pos + 1, digest := some (s.fuse.testDig.getD j []),
           label := ascii "LX9-LC-UNLOCK" ++ toLe 1 j, owner := false, used := some j, erase := .none }
  else none

/-- Command 0x3. -/
def State.lcPersonalise (s : State) : Option LcTrans :=
  if s.lcs.st = .testLocked ∧ s.fuse.rootSet ∧ s.fuse.deviceId ≠ 0 ∧ programmed s.fuse.ownDig ∧
      programmed s.fuse.fwMldsa ∧ programmed s.fuse.fwEcdsa then
    some (plainTrans 18 s.fuse.persDig "LX9-LC-PERSONALISE")
  else none

/-- Command 0x4. -/
def State.lcOwn (s : State) : Option LcTrans :=
  match s.lcs.st with
  | .personalised => some { plainTrans 19 s.fuse.ownDig "LX9-LC-OWN" with owner := true }
  | .fieldReturn =>
    if s.lcs.erase = 2 ∧ allZero s.lcs.data then some (plainTrans (s.lcs.pos + 1) s.fuse.reownDig "LX9-LC-REOWN") else none
  | _ => none

/-- Command 0x5. -/
def State.lcReturn (s : State) : Option LcTrans :=
  if s.lcs.st = .owned ∧ s.lcs.gen ≤ 6 then
    some { plainTrans (s.lcs.pos + 1) s.fuse.returnDig "LX9-LC-RETURN" with erase := .after }
  else none

/-- Command 0x6. -/
def State.lcScrap (s : State) : Option LcTrans :=
  if s.lcs.st = .scrapped then none
  else
    let e : LcErase := if s.lcs.st = .owned ∨ s.lcs.st = .fieldReturn then .before else .none
    some { plainTrans 64 s.fuse.scrapDig "LX9-LC-SCRAP" with erase := e }

/-- The owner fields' layout (R396, check 3). -/
def ownerDataOk (d : Bytes) : Bool := programmed (slice d 96 32) && programmed (slice d 128 32)

def tokenOk (t : LcTrans) (token : Bytes) : Bool :=
  match t.digest with
  | none => true
  | some d => cshake256 token 32 [] t.label == d

/-- The end of a command: its RESULT, and LCS_TOKEN and LCS_DATA zeroed (R394). -/
def State.lcEnd (s : State) (st : Status) : State :=
  { s with lcs := { s.lcs with result := st.code, done := true, token := zeros 32, data := zeros 160 } }

/-- Check 1 of R396, with the collisions of R404. -/
def State.lcBusy (s : State) : Bool :=
  s.lcs.pending || !s.lcs.done || s.lcs.lockout || !s.busyReaches.isEmpty || s.lev.fenced || s.rst.fenced ||
    s.lev.halted || s.rst.safeStandby || s.wsh.st == .committing

/-! ## The burn (R398, R400) -/

def threeCopies (f : Nat → LcWork) : List LcWork := (List.range 3).map f

def eraseWork : List LcWork := [.erase .e1, .erase .e2, .erase .e3, .erase .e4, .erase .e5]

/-- The work of an accepted transition, in its order. -/
def State.lcWork (s : State) (t : LcTrans) : List LcWork :=
  let owner : List LcWork := if t.owner then
      ((List.range 1280).filter fun b => bitOf (leNat s.lcs.data) b).map LcWork.owner else []
  let used := match t.used with | some j => threeCopies (LcWork.used j) | none => []
  let have_ := (vote3 s.fuse.code).getD 0
  let bits := ((List.range 64).filter fun b => (posCode t.target).getLsbD b && !have_.getLsbD b).flatMap fun b =>
    threeCopies (LcWork.code b)
  owner ++ used ++ (if t.erase = .before then eraseWork else []) ++ bits ++
    (if t.erase = .after then eraseWork ++ threeCopies (LcWork.gen s.lcs.gen) else []) ++ [.complete]

def LcWork.isPulse : LcWork → Bool
  | .erase _ => false
  | .complete => false
  | _ => true

/-- A new pulse may start: no reset waits and no HALT or RESET is queued (R404, R425). -/
def State.mayPulse (s : State) : Bool :=
  s.rst.heldCause.isNone && s.rst.pwrgood && !s.lev.halted && !(s.lev.queue.any fun a => a.rank ≥ 7)

/-- The transition's completion is journalled: ERASE is complete where it ran, and the command has finished. -/
def State.lcComplete (s : State) : State :=
  let erase := if s.lcs.erase = 1 then 2 else s.lcs.erase
  State.lcEnd { s with
    lcs := { s.lcs with work := [], erase := erase }
    rst := { s.rst with pulse := s.restPulse }
    ledger := { s.ledger with trans := none } } .ok

/-- Begins the piece of work at the head. -/
def State.lcNext (s : State) : State :=
  match s.lcs.work with
  | [] => { s with rst := { s.rst with pulse := s.restPulse } }
  | .complete :: _ => s.lcComplete
  | .erase _ :: _ => { s with lcs := { s.lcs with erase := 1 }, rst := { s.rst with pulse := s.restPulse } }
  | _ => { s with rst := { s.rst with pulse := if s.mayPulse then some .fuse else s.restPulse } }

/-- Check 2, and what follows it when it fails: BAD_PARAMS, or a mismatch with its 1 s (R394, R396, R397). A ledger that
is read-only takes no transition record, so nothing is burned. -/
def State.lcAccept (s : State) (cmd : Nat) (t : LcTrans) : State :=
  if t.owner && !ownerDataOk s.lcs.data then s.lcEnd .badParams
  else if !tokenOk t s.lcs.token then
    State.lcEnd { s with lcs := { s.lcs with
      fails := satAdd 0xFFFFFFFF s.lcs.fails 1, lockout := true, lockAt := s.now } } .verifyFalse
  else
    let work := s.lcWork t
    let rec_ : TransRec := { target := posCode t.target, owner := if t.owner then s.lcs.data else [], work := work, erased := [] }
    let tap : TapInstr := match s.lcs.tap with | .other _ => .bypass | x => x
    let s := { s with lcs := { s.lcs with pending := true, done := false, debugOpen := false, tap := tap } }
    let s := if s.ledger.readOnly then s
      else { s with ledger := { s.ledger with trans := some rec_ }, lcs := { s.lcs with work := s.lcs.work ++ work } }
    s.lcNext.raise 0x056 cmd

def State.lcCmd (s : State) (cmd : Nat) (t : Option LcTrans) : State :=
  if s.lcBusy then { s with lcs := { s.lcs with result := Status.busy.code, token := zeros 32, data := zeros 160 } }
  else
    match t with
    | none => s.lcEnd .badParams
    | some t => s.lcAccept cmd t

def execTestLock (s : State) : Host.Outcome State Fault Refusal := hostCmd s (s.lcCmd 1 s.lcTestLock)
def execTestUnlock (s : State) : Host.Outcome State Fault Refusal := hostCmd s (s.lcCmd 2 s.lcTestUnlock)
def execPersonalise (s : State) : Host.Outcome State Fault Refusal := hostCmd s (s.lcCmd 3 s.lcPersonalise)
def execTakeOwnership (s : State) : Host.Outcome State Fault Refusal := hostCmd s (s.lcCmd 4 s.lcOwn)
def execFieldReturn (s : State) : Host.Outcome State Fault Refusal := hostCmd s (s.lcCmd 5 s.lcReturn)
def execScrap (s : State) : Host.Outcome State Fault Refusal := hostCmd s (s.lcCmd 6 s.lcScrap)

/-! ## Fuse pulses -/

def orAt (xs : List Nat) (i bit : Nat) : List Nat := xs.set i (xs.getD i 0 ||| 2 ^ bit)

/-- Sets bit `bit` of a byte string. -/
def orBit (d : Bytes) (n bit : Nat) : Bytes :=
  let d := fit n d
  d.set (bit / 8) (d.getD (bit / 8) 0 ||| BitVec.ofNat 8 (2 ^ (bit % 8)))

/-- One burned bit. -/
def Fuses.burn (f : Fuses) : LcWork → Fuses
  | .owner b =>
    if b < 384 then { f with ownerMldsa := orBit f.ownerMldsa 48 b }
    else if b < 768 then { f with ownerEcdsa := orBit f.ownerEcdsa 48 (b - 384) }
    else if b < 1024 then { f with returnDig := orBit f.returnDig 32 (b - 768) }
    else { f with reownDig := orBit f.reownDig 32 (b - 1024) }
  | .used b c => { f with used := orAt f.used c b }
  | .code b c => { f with code := f.code.set c (f.code.getD c 0 ||| BitVec.ofNat 64 (2 ^ b)) }
  | .gen b c => { f with gen := orAt f.gen c b }
  | .therm b c => { f with therm := orAt f.therm c b }
  | .cosign c => { f with cosign := orAt f.cosign c 0 }
  | _ => f

def LcWork.isTherm : LcWork → Bool
  | .therm _ _ => true
  | _ => false

/-- What follows the last pulse of a firmware-update burn: slots below T are locked out (R441), REQUIRE_COSIGN has
finished (R440). -/
def State.burned (s : State) : LcWork → State
  | .therm _ _ => if s.lcs.work.any LcWork.isTherm then s else s.lockSlots
  | .cosign 2 => { s with fwu := { s.fwu with done := true } }
  | _ => s

/-- Burns that belong to no transition go before what a transition still has to do, after the pulse in progress. -/
def State.startBurn (s : State) (ws : List LcWork) : State :=
  match s.lcs.work with
  | w :: rest =>
    if s.rst.pulse = some .fuse ∧ w.isPulse = true then { s with lcs := { s.lcs with work := w :: (ws ++ rest) } }
    else State.lcNext { s with lcs := { s.lcs with work := ws ++ (w :: rest) } }
  | [] => State.lcNext { s with lcs := { s.lcs with work := ws } }

/-- A pulse ends: its bit is burned, and the next work begins unless a reset or a HALT waits. -/
def State.pulseEnd (s : State) : State :=
  match s.lcs.work with
  | [] => s
  | w :: rest =>
    if s.rst.pulse = some .fuse ∧ w.isPulse = true then
      let s := { s with fuse := s.fuse.burn w, lcs := { s.lcs with work := rest }, rst := { s.rst with pulse := none } }
      (s.burned w).lcNext
    else s

/-- The pulse completes whatever else has happened (R425). -/
def execFusePulseEnd (s : State) : Host.Outcome State Fault Refusal := .next s.pulseEnd

/-! ## The erase (R400, R401) -/

/-- R311: every slot is invalidated, reservations go, the stores are zeroed and the vault key is discarded (R314). -/
def State.clearKeys (s : State) : State :=
  let ids := (s.jobs.filter fun j => j.reserved.isSome && j.status.isNone).map Job.id
  let s := ids.foldl (fun s id => s.failJob id .alarmFlush 0) s
  let s := (s.slotsIn 0 1048576).foldl State.invalidate s
  let gone := placeId .vault 64
  { s with kst := { s.kst with hot := [], dcache := [], vaultKey := false }
           hbm := { s.hbm with keys := s.hbm.keys.filter fun x => x.1 != gone, keyDue := s.hbm.keyDue.filter (· != gone) } }

/-- The vault key for the slots to come (DESIGN CHOICE, log entry 124): drawn at once, as at boot step 13. -/
def State.newVaultKey (s : State) : State :=
  let s := s.drawRegionKey (placeId .vault 64)
  { s with kst := { s.kst with vaultKey := true } }

/-- Every PT memory, operand memory, CC scratch, HT context and staging SRAM is zeroed. -/
def State.zeroMemories (s : State) : State :=
  { s with
    tiles := s.tiles.map fun (x : Nat × Tile) => (x.1, { x.2 with mem := [], passed := [], seqr := Seqr.reset })
    cores := s.cores.map fun (x : Nat × Core) => (x.1, x.2.idle)
    jobs := s.jobs.map fun (j : Job) => { j with
      stage := [], nodes := j.nodes.map fun (n : Node) => { n with saved := n.saved.map fun (c : SavedCtx) => { c with seqr := Seqr.reset, mem := [], written := 0 } } } }

/-- The cover key is zeroised (R416). -/
def State.zeroCover (s : State) : State := { s with ao := { s.ao with coverKey := none, zeroised := true } }

/-- Every HBM key and K_MAC is discarded: no line can be read any more. -/
def State.dropHbmKeys (s : State) : State := { s with hbm := { s.hbm with keysValid := false, kMac := [], keys := [], keyDue := [] } }

def State.eraseStep (s : State) : EraseStep → State
  | .e1 => s.clearKeys
  | .e2 => s.zeroCover
  | .e3 => s.zeroMemories
  | .e4 =>
    let s := s.dropHbmKeys
    { s with hbm := { s.hbm with mem := [], written := [], poisoned := [] } }
  | .e5 => { s with records := s.records.map fun (r : KeyRec) => KeyRec.sealed s.kst.lmk { r with floor := r.limit } }

/-- An erase step commits its record. -/
def State.eraseDone (s : State) : State :=
  match s.lcs.work with
  | .erase e :: rest =>
    if s.mayPulse then
      let s := s.eraseStep e
      let tr := s.ledger.trans.map fun (t : TransRec) => { t with erased := t.erased ++ [e] }
      State.lcNext { s with lcs := { s.lcs with work := rest }, ledger := { s.ledger with trans := tr } }
    else s
  | _ => s

def execEraseStepDone (s : State) : Host.Outcome State Fault Refusal := .next s.eraseDone

/-! ## Resumption at boot step 8 (R399, R401) -/

def LcWork.step? : LcWork → Option EraseStep
  | .erase e => some e
  | _ => none

/-- A step that a device reset erases by itself. -/
def EraseStep.byReset : EraseStep → Bool
  | .e1 | .e3 | .e4 => true
  | _ => false

/-- Resumes the work of a record: pulses burn again, which only sets bits; erase steps that have committed or that the
reset erased are done. -/
def State.resumeWork (s : State) (done : List EraseStep) : List LcWork → State
  | [] => s
  | .erase e :: rest => (if done.contains e || e.byReset then s else s.eraseStep e).resumeWork done rest
  | w :: rest => State.resumeWork { s with fuse := s.fuse.burn w } done rest

/-- What step 8 does with a record without completion; none when nothing is pending. -/
def State.resumeTrans (s : State) : Option State :=
  s.ledger.trans.map fun t =>
    let s := s.resumeWork t.erased t.work
    { s with ledger := { s.ledger with trans := none } }

/-! ## Timers and JTAG (R394, R402) -/

def execLcsLockoutEnd (s : State) : Host.Outcome State Fault Refusal :=
  .next (if s.lcs.lockout then
    let s := s.atTime (s.lcs.lockAt + 1000000000)
    { s with lcs := { s.lcs with lockout := false } } else s)

/-- R402: when the port opens at the end of boot step 8. -/
def State.jtagOpens (s : State) : Bool :=
  (match s.lcs.st with
   | .blank | .testUnlocked => true
   | .fieldReturn => s.lcs.erase == 2
   | _ => false) && s.ledger.trans.isNone && !s.lcs.pending

/-- While the port is closed, only IDCODE and BYPASS are decoded. -/
def execJtagTapInstruction (instr : TapInstr) (s : State) : Host.Outcome State Fault Refusal :=
  let t : TapInstr := match instr with
    | .other c => if s.lcs.debugOpen then .other c else .bypass
    | x => x
  .next { s with lcs := { s.lcs with tap := t } }

/-- TRST_N resets the TAP in every state. -/
def execTrstN (s : State) : Host.Outcome State Fault Refusal := .next { s with lcs := { s.lcs with tap := .idcode } }

end Sys2Proof.Machine
end

