-- ==== Sys2Proof/Machine/Power.lean ====
section
/-! DEFINITION. Clocks, power and ageing (R471 to R485), and the junction temperature (R493). -/

namespace Sys2Proof.Machine

open Sys2Proof

/-! ## The life estimate (R482) -/

/-- The remaining life in days: t × (f^−5 − 1) with f = (M0 − M) ÷ (M0 − M_lim), saturating. -/
def lifeDays (t m0 tempPs m : Nat) : Nat :=
  let a := m0 - m
  let b := m0 - (40 + tempPs)
  if t = 0 then 0xFFFF
  else if b ≤ a then 0
  else if a = 0 then 0xFFFE
  else min 0xFFFE (t * (b ^ 5 - a ^ 5) / a ^ 5)

/-- PWR_LIFE: not available while no margin has been measured. -/
def State.life (s : State) : Nat :=
  if s.pwr.measured then lifeDays s.pwr.serviceDays s.fuse.m0 s.fuse.tempPs s.pwr.meas.m else 0xFFFF

def execPwrServiceDaysWrite (days : Nat) (s : State) : Host.Outcome State Fault Refusal :=
  hostCmd s { s with pwr := { s.pwr with serviceDays := days % 65536 } }

/-! ## The re-plan (R478 to R481, R483) -/

def Measured.eyeLow (m : Measured) : Bool := m.hbmPct < 30 || m.pciePct < 30 || m.cflPct < 30

/-- A re-plan completes: its margins, its low conditions, and events 0x053 and 0x054. -/
def State.planDone (s : State) (readMv : Nat) : State :=
  let m := s.pwr.meas
  let p := { s.pwr with
    planning := false, done := true, result := Status.ok.code, measured := true, meas := { m with readMv := readMv },
    marginLow := m.needMv.isNone, sramLow := decide (m.sramMv < 40), eyeLow := Measured.eyeLow m, retry := false }
  let s := State.raise { s with pwr := p } 0x053 0
  if p.marginLow || p.sramLow || p.eyeLow || s.life < 365 then s.raise 0x054 0 else s

/-- Begins a re-plan: the goal is the lowest voltage that meets the required margin, or 850 mV (R481). -/
def State.planStart (s : State) (m : Measured) : State :=
  let goal := m.needMv.getD 850
  let s := { s with pwr := { s.pwr with
    planning := true, done := false, result := 0, meas := m, goalMv := goal, deferred := false } }
  if goal = s.pwr.targetMv then s.planDone m.readMv else s

def Pwr.faulty (p : Pwr) : Bool := p.noAck || p.pecErr || p.alert

/-- A warm restart is running (R444, R447). -/
def Fwu.warm (f : Fwu) : Bool := f.restarting

/-- A re-plan that is due now, under the collisions of R483. -/
def State.planDue (s : State) (m : Measured) : State :=
  if s.pwr.planning || s.pwr.point = 2 then s
  else if s.fwu.warm then { s with pwr := { s.pwr with deferred := true, meas := m, done := false } }
  else if s.pwr.faulty then { s with pwr := { s.pwr with retry := true, done := false } }
  else s.planStart m

def State.planResult (s : State) (st : Status) : State := { s with pwr := { s.pwr with result := st.code } }

/-- PWR_CMD REPLAN (R480). -/
def State.replan (s : State) (m : Measured) : State :=
  if !s.rst.inService || s.rst.safeStandby || s.pwr.point = 2 then s.planResult .badParams
  else if s.pwr.planning then s.planResult .busy
  else s.planDue m

def execReplan (meas : Measured) (s : State) : Host.Outcome State Fault Refusal := hostCmd s (s.replan meas)

/-- Every 24 h from the end of boot step 4; none at CONSERVATIVE. -/
def State.scheduled (s : State) (m : Measured) : State :=
  if s.pwr.point = 2 ∨ s.pwr.nextAt = 0 then s
  else
    let s := s.atTime s.pwr.nextAt
    let s := { s with pwr := { s.pwr with nextAt := s.pwr.nextAt + 86400000000000 } }
    s.planDue m

def execScheduledReplan (meas : Measured) (s : State) : Host.Outcome State Fault Refusal := engineCmd s (s.scheduled meas)

/-- The hourly attempt at a re-plan that a PMBus fault held off; a fault that persists ends it again. -/
def State.replanAgain (s : State) (m : Measured) : State :=
  if s.pwr.retry && !s.pwr.planning && !s.fwu.warm then State.planStart { s with pwr := { s.pwr with alert := false } } m
  else s

def execReplanRetry (meas : Measured) (s : State) : Host.Outcome State Fault Refusal := engineCmd s (s.replanAgain meas)

/-- One step of 5 mV, acknowledged (R476). -/
def State.vcoreStep (s : State) (readMv : Nat) : State :=
  let p := s.pwr
  if !p.planning || p.goalMv = p.targetMv then s
  else
    let v := if p.targetMv < p.goalMv then min p.goalMv (p.targetMv + 5) else max p.goalMv (p.targetMv - 5)
    let s := State.sent { s with pwr := { p with targetMv := v, heldMv := v } } (.vcore v)
    if v = p.goalMv then s.planDone readMv else s

def execVcoreStep (readMv : Nat) (s : State) : Host.Outcome State Fault Refusal := engineCmd s (s.vcoreStep readMv)

/-- A PMBus fault ends a running re-plan with BAD_PARAMS; the last acknowledged voltage stands (R476, R483). -/
def State.pmbusFault (s : State) (f : PmbFault) (word : Nat) : State :=
  let p := { s.pwr with statusWord := word % 65536 }
  let p : Pwr := match f with
    | .noAck => { p with noAck := true }
    | .pec => { p with pecErr := true }
    | .alert => { p with alert := true }
  if p.planning then
    let p := { p with planning := false, done := true, result := Status.badParams.code, goalMv := p.targetMv }
    State.raise { s with pwr := p } 0x053 0
  else { s with pwr := p }

def execPmbusFault (fault : PmbFault) (word : Nat) (s : State) : Host.Outcome State Fault Refusal :=
  .next (if s.awake then s.pmbusFault fault word else s)

/-- A warm restart abandons a running re-plan at its last acknowledged step; it runs again at TRIAL (R483). -/
def State.planAbandon (s : State) : State :=
  if s.pwr.planning then { s with pwr := { s.pwr with planning := false, deferred := true, goalMv := s.pwr.targetMv } } else s

def State.planResume (s : State) : State :=
  if s.pwr.deferred && !s.pwr.planning then s.planStart s.pwr.meas else s

/-! ## Boot steps 3 and 4 (R430, R477, R480) -/

/-- Step 3: the PLLs lock; its alternative runs FCLK at 1.10 GHz. Without REFCLK_H only BCLK runs, from the RC (R472). -/
def State.bootClocks (s : State) (alt : Bool) : State :=
  let ref := s.rst.obs.refclkOk
  { s with pwr := { s.pwr with
    fclkMhz := if !ref then 0 else if alt then 1100 else 1250,
    fclkLock := ref, hclkLock := ref, mclkLock := ref, bclkLock := true, xtalOk := s.rst.obs.xtalOk, bclkOnRc := !ref } }

/-- The commands that take the regulator from one voltage to another in steps of 5 mV (R476). -/
def vcoreSteps : Nat → Nat → Nat → List Nat
  | 0, _, _ => []
  | fuel + 1, v, goal =>
    let n := if v < goal then min goal (v + 5) else max goal (v - 5)
    if v = goal then [] else n :: vcoreSteps fuel n goal

def State.setPoint (s : State) (point mhz mv : Nat) (m : Option Measured) : State :=
  let p := { s.pwr with
    point := point, fclkMhz := mhz, planMhz := mhz, targetMv := mv, goalMv := mv, heldMv := mv,
    nextAt := if point = 2 then 0 else s.now + 86400000000000 }
  let steps := vcoreSteps 1024 s.pwr.heldMv mv
  let s := { s with pwr := p, tx := s.tx ++ steps.map Out.vcore }
  match m with
  | some m => State.planDone { s with pwr := { s.pwr with meas := m } } m.readMv
  | none => s

/-- Step 4: NORMAL, else REDUCED, else none; its alternative is CONSERVATIVE, at 0.85 V and not measured. -/
def State.bootPoint (s : State) (alt : Bool) : Option State :=
  let o := s.rst.obs
  if alt then some (s.setPoint 2 s.pwr.fclkMhz 850 none)
  else
    let reduced : Option State := o.measReduced.needMv.map fun v => s.setPoint 1 1100 v (some o.measReduced)
    if s.pwr.fclkMhz = 1100 ∨ s.ao.clockPlan = 1 then reduced
    else
      match o.meas.needMv with
      | some v => some (s.setPoint 0 1250 v (some o.meas))
      | none => reduced

/-! ## Junction temperature (R493) -/

/-- PWR_TEMP in 1/16 °C: THERM_N from 105 °C until below 100 °C; each assertion raises 0x055. -/
def State.therm (s : State) (tj : Int) : State :=
  let was := s.pins.therm
  let is : Bool := if was then !decide (tj < 1600) else decide (1680 ≤ tj)
  let s := State.alertPin { s with pwr := { s.pwr with temp := tj }, pins := { s.pins with therm := is } }
  if is && !was then s.raise 0x055 0 else s

def execThermThreshold (tj : Int) (s : State) : Host.Outcome State Fault Refusal :=
  .next (if s.awake then s.therm tj else s)

end Sys2Proof.Machine
end

