-- ==== Sys2Proof/Machine/Reach.lean ====
section
/-! DEFINITION. Functions and reaches: D3hot (R74), VF Enable (R78), quiesce, resume, reset and removal (R79 to R86, R93,
R426, R428). -/

namespace Sys2Proof.Machine

open Sys2Proof

/-! ## Power states (R74) -/

/-- A queue's fetch read in flight is dropped: HEAD has not passed its entries. -/
def State.stopFetch (s : State) (fn : Nat) : State :=
  { s with queues := s.queues.map fun (x : Nat × Queue) => if x.1 / 64 = fn then (x.1, { x.2 with fetching := 0 }) else x }

def State.enterD3 (s : State) (fn : Nat) : State :=
  let f := s.fn fn
  if f.d3hot || !s.fnOpen fn then s
  else
    let s := ((s.setFn fn { f with d3hot := true }).stopFetch fn).closeFnRuns fn
    let js := (s.jobs.filter fun j => j.fn == fn && j.forPeer.isNone).map Job.id
    let s := js.foldl State.abortJob s
    match js, s.cfg.reachOf fn with
    | _ :: _, some r => s.raiseReach r 1 (reachCause 4 fn 0 0)
    | _, _ => s

def execD3hotEntry (fn : Nat) (s : State) : Host.Outcome State Fault Refusal := hostCmd s (s.enterD3 fn)

/-- The outputs that open runs hold for D0. -/
def State.releaseRuns (s : State) (fn : Nat) : State :=
  let held := (s.runs.filter fun r => r.fn == fn).flatMap Run.writes
  { s with
    runs := s.runs.map fun (r : Run) => if r.fn = fn then { r with writes := [] } else r
    tx := s.tx ++ held.map fun (p : Nat × Bytes) => s.dataWrite fn p }

/-- R74: what D3hot held is written, in order, before any new fetch. -/
def State.returnD0 (s : State) (fn : Nat) : State :=
  let f := s.fn fn
  if !f.d3hot || !s.fnOpen fn then s
  else
    let t := s.setFn fn { f with d3hot := false }
    let t := (List.range 64).foldl (fun t q => t.cqSpace fn q) (t.releaseRuns fn)
    State.msixResend s t fn

def execD0Return (fn : Nat) (s : State) : Host.Outcome State Fault Refusal := hostCmd s (s.returnD0 fn)

/-! ## Quiesced functions (R79) -/

def State.fnStopped (s : State) (fn : Nat) : Bool :=
  (s.fn fn).quiesce || (match s.cfg.reachOf fn with
    | none => true
    | some r => (s.reach r).st != .serving) ||
  !(s.queues.any fun x => x.1 / 64 == fn && x.2.enable)

def State.fnQuiesced (s : State) (fn : Nat) : Bool := s.fnStopped fn && s.fnOutstanding fn == 0

/-- R78: NumVFs only while VF Enable is 0; clearing VF Enable only when every VF is quiesced. DESIGN CHOICE (log entry 83):
a NumVFs above TotalVFs stores TotalVFs. DESIGN CHOICE (log entry 115): an accepted clear keeps the VFs' own state and
shows OK without selecting a VF. -/
def State.vfEnableWrite (s : State) (enable : Bool) (n : Nat) : State :=
  if !s.glb.vfEnable then { s with glb := { s.glb with numVfs := min n totalVfs, vfEnable := enable } }
  else if enable then s
  else
    match (List.range s.glb.numVfs).find? fun i => !s.fnQuiesced (i + 1) with
    | some i => { s with glb := { s.glb with selVf := i + 1, vfResult := Status.busy.code, vfDone := true } }
    | none => { s with glb := { s.glb with vfEnable := false, vfResult := Status.ok.code, vfDone := true } }

def execVfEnableWrite (enable : Bool) (numVfs : Nat) (s : State) : Host.Outcome State Fault Refusal :=
  hostCmd s (s.vfEnableWrite enable numVfs)

/-! ## Results of GLB_REACH_CMD (R83, R93) -/

def State.reachResult (s : State) (r : Nat) (st : Status) : State :=
  { s with glb := { s.glb with selReach := r, reachResult := st.code, reachDone := true } }

def State.vfResult (s : State) (vf : Nat) (st : Status) : State :=
  { s with glb := { s.glb with selVf := vf, vfResult := st.code, vfDone := true } }

/-- First step of R83 for a VF command; a named VF that is not enabled is absent (R78). -/
def State.vfPresent (s : State) (vf : Nat) : Bool := vf != 0 && s.fnConfigured vf

/-- The end of a reach reset or removal, and of a VF reset or FLR: DONE waits for that of the last command (R93). -/
def Glb.reachEnds (g : Glb) (r : Nat) : Glb := { g with reachDone := g.reachDone || g.reachRuns == r }
def Glb.vfEnds (g : Glb) (vf : Nat) : Glb := { g with vfDone := g.vfDone || g.vfRuns == vf }

def ReachSt.changing (x : ReachSt) : Bool := x == .resetting || x == .removing

/-! ## Quiesce and resume (R80, R82, R86) -/

def State.quiesceReach (s : State) (r : Nat) : State :=
  let x := s.reach r
  match x.st with
  | .absent => s.reachResult r .badParams
  | .resetting | .removing => s.reachResult r .busy
  | .serving =>
    let s := s.setReach r { x with st := .quiescing }
    let s := (s.cfg.fnsOf r).foldl (fun s fn => (s.stopFetch fn).closeFnRuns fn) s
    s.reachResult r .ok
  | .quiescing | .quiesced => s.reachResult r .ok

def execQuiesce (reach : Nat) (s : State) : Host.Outcome State Fault Refusal := hostCmd s (s.quiesceReach reach)

def State.resumeReach (s : State) (r : Nat) : State :=
  let x := s.reach r
  match x.st with
  | .absent => s.reachResult r .badParams
  | .resetting | .removing => s.reachResult r .busy
  | .serving => s.reachResult r .ok
  | .quiescing | .quiesced =>
    if s.resumeBlocked r then s.reachResult r .busy
    else (s.setReach r { x with st := .serving }).reachResult r .ok

def execResume (reach : Nat) (s : State) : Host.Outcome State Fault Refusal := hostCmd s (s.resumeReach reach)

def State.quiesceVf (s : State) (vf : Nat) : State :=
  if !s.vfPresent vf then s.vfResult vf .badParams
  else if (s.fn vf).resetting then s.vfResult vf .busy
  else (((s.setFn vf { s.fn vf with quiesce := true }).stopFetch vf).closeFnRuns vf).vfResult vf .ok

def execQuiesceVf (vf : Nat) (s : State) : Host.Outcome State Fault Refusal := hostCmd s (s.quiesceVf vf)

def State.resumeVf (s : State) (vf : Nat) : State :=
  if !s.vfPresent vf then s.vfResult vf .badParams
  else if (s.fn vf).resetting || s.resumeBlocked ((s.cfg.reachOf vf).getD 0) then s.vfResult vf .busy
  else (s.setFn vf { s.fn vf with quiesce := false }).vfResult vf .ok

def execResumeVf (vf : Nat) (s : State) : Host.Outcome State Fault Refusal := hostCmd s (s.resumeVf vf)

/-- SELECT selects both and does nothing else (R93). -/
def execSelect (reach vf : Nat) (s : State) : Host.Outcome State Fault Refusal :=
  hostCmd s { s with glb := { s.glb with selReach := reach, selVf := vf } }

/-- No job of the reach is outstanding: none of its functions' and none that runs here for a peer (DESIGN CHOICE, log
entry 113). -/
def State.reachIdle (s : State) (r : Nat) : Bool :=
  ((s.cfg.fnsOf r).all fun fn => s.fnOutstanding fn == 0) && !(s.jobs.any fun j => j.reach == r && j.forPeer.isSome && j.st != .covered)

/-- R80: the last outstanding job has its completion written. VFN_STAT.IDLE is a view of the same condition. -/
def State.quiesceDone (s : State) : ResetTarget → State
  | .reach r =>
    let x := s.reach r
    if x.st = .quiescing ∧ s.reachIdle r = true then s.setReach r { x with st := .quiesced } else s
  | _ => s

def execQuiesceComplete (target : ResetTarget) (s : State) : Host.Outcome State Fault Refusal :=
  engineCmd s (s.quiesceDone target)

/-! ## VF reset (R84, R428) -/

/-- What a VF reset clears: its queues, its MSI-X and power state, and pending and coalescing state of its vectors. -/
def State.clearVf (s : State) (vf : Nat) : State :=
  let f := s.fn vf
  let s := { s with queues := s.queues.filter fun x => x.1 / 64 != vf }
  let s := { s with evt := { s.evt with src := s.evt.src.map fun (x : Nat × EvtSrc) =>
    if (s.route x.1).fn = vf then (x.1, { x.2 with pending := false, unsent := 0 }) else x } }
  s.setFn vf { FnState.reset with quiesce := f.quiesce, flrRefused := f.flrRefused }

def State.startVfReset (s : State) (vf : Nat) : State :=
  let s := s.clearVf vf
  s.setFn vf { s.fn vf with resetting := true }

def State.resetVf (s : State) (vf : Nat) : State :=
  if !s.vfPresent vf then s.vfResult vf .badParams
  else if !s.fnQuiesced vf || (s.fn vf).resetting || s.rst.fenced || s.commitNames ((s.cfg.reachOf vf).getD 0) then s.vfResult vf .busy
  else
    let s := (s.startVfReset vf).vfResult vf .ok
    { s with glb := { s.glb with vfDone := false, vfRuns := vf } }

def execResetVf (vf : Nat) (s : State) : Host.Outcome State Fault Refusal := hostCmd s (s.resetVf vf)

/-- R84: an FLR on a VF that is not quiesced is refused and shown; so is one on a VF whose reach a partial commit in
progress names (R70: DEDUCED, log entry 89). -/
def State.flr (s : State) (vf : Nat) : State :=
  if vf = 0 ∨ s.fnOpen vf = false then s
  else if s.fnQuiesced vf && !s.rst.fenced && !s.commitNames ((s.cfg.reachOf vf).getD 64) then s.startVfReset vf
  else
    let s := s.setFn vf { s.fn vf with flrRefused := true }
    match s.cfg.reachOf vf with
    | some r => s.raiseReach r 1 (reachCause 3 vf 0 0)
    | none => s

def execFlr (vf : Nat) (s : State) : Host.Outcome State Fault Refusal := hostCmd s (s.flr vf)

/-! ## Reach reset and removal (R83, R85, R428) -/

/-- The keys of the tiles a reach is granted. -/
def Setup.tilesOf (c : Setup) (r : Nat) : List Nat :=
  tileClasses.flatMap fun k =>
    ((List.range (classCount k)).filter fun i => (c.grants k i).any fun t => t.reach == r).map (tkey k)

def State.clearSources (s : State) (r : Nat) : State :=
  (List.range 4).foldl (fun s k =>
    let n := 0x300 + 4 * r + k
    s.setSource n { s.source n with pending := false, unsent := 0 }) s

def State.clearQueuesOf (s : State) (r : Nat) : State :=
  let fns := s.cfg.fnsOf r
  { s with queues := s.queues.filter fun x => !fns.contains (x.1 / 64) }

/-- What a reach reset clears (R428). -/
def State.clearReach (s : State) (x : ReachRec) : State :=
  let s := s.settleCovered fun j => j.reach == x.id
  let s := ((s.clearQueuesOf x.id).clearSources x.id).wipeRange x.keyBase x.keyCount
  let ks := s.cfg.tilesOf x.id
  let s := ks.foldl State.bumpTile (ks.foldl State.wipeMemory s)
  let y := s.reach x.id
  let s := s.setReach x.id { y with st := .resetting, epoch := y.epoch + 1, regionGen := y.regionGen + 1 }
  (x.regionKeys.foldl State.drawRegionKey s).startDrbg x.id (toLe 1 x.id ++ x.pers)

def State.resetReach (s : State) (r : Nat) : State :=
  match (s.reach r).st, s.cfg.reach r with
  | .absent, _ => s.reachResult r .badParams
  | _, none => s.reachResult r .badParams
  | .quiesced, some x =>
    if s.commitNames r || s.rst.fenced then s.reachResult r .busy
    else
      let s := (s.clearReach x).reachResult r .ok
      { s with glb := { s.glb with reachDone := false, reachRuns := r } }
  | _, _ => s.reachResult r .busy

def execResetReach (reach : Nat) (s : State) : Host.Outcome State Fault Refusal := hostCmd s (s.resetReach reach)

/-- What a removal wipes, and the epochs it increments (R85, R145). -/
def State.clearRemoved (s : State) (x : ReachRec) : State :=
  let s := s.settleCovered fun j => j.reach == x.id
  let s := ((s.wipeRange x.keyBase x.keyCount).freeFns (s.cfg.fnsOf x.id)).stopDrbg x.id
  let ks := s.cfg.tilesOf x.id
  let s := ks.foldl State.bumpTile (s.wipeTiles ks)
  let y := s.reach x.id
  let s := s.setReach x.id { y with
    st := .removing, epoch := y.epoch + 1, regionGen := y.regionGen + 1, wrapKey := [] }
  let s := s.dropRegionKeys x.id
  { s with parts := s.parts.map fun (p : Nat × List (Nat × Nat)) => (p.1, p.2.filter fun q => q.1 != x.id) }

def State.removeReach (s : State) (r : Nat) : State :=
  match (s.reach r).st, s.cfg.reach r with
  | .absent, _ => s.reachResult r .badParams
  | _, none => s.reachResult r .badParams
  | .quiesced, some x =>
    if r = 0 then s.reachResult r .badParams
    else if s.commitNames r then s.reachResult r .busy
    else
      let s := (s.clearRemoved x).reachResult r .ok
      { s with glb := { s.glb with reachDone := false, reachRuns := r } }
  | _, some _ => s.reachResult r (if r = 0 then .badParams else .busy)

def execRemoveReach (reach : Nat) (s : State) : Host.Outcome State Fault Refusal := hostCmd s (s.removeReach reach)

/-- R85: the reach's grants go, its VFs are not configured, and it is ABSENT. -/
def State.removeDone (s : State) (r : Nat) : State :=
  if (s.reach r).st != .removing then s
  else
    let s := s.setReach r { s.reach r with st := .absent }
    let c := s.cfg
    { s with
      cfg := { c with reaches := c.reaches.filter (·.id != r), tiles := c.tiles.filter (·.reach != r),
                      chains := c.chains.filter (·.reach != r) }
      glb := s.glb.reachEnds r }

def execRemoveReachDone (reach : Nat) (s : State) : Host.Outcome State Fault Refusal := engineCmd s (s.removeDone reach)

end Sys2Proof.Machine
end

