-- ==== Sys2Proof/Machine/Firmware.lean ====
section
/-! DEFINITION. Firmware update (R438 to R450): the package and its checks, staging, scheduled activation, the switch,
trial, confirmation and fallback. -/

namespace Sys2Proof.Machine

open Sys2Proof

/-! ## The package (R438, R439) -/

/-- One entry of the component table. -/
structure FwComp where
  type : Nat
  off : Nat
  len : Nat
  rsvdOk : Bool
  deriving DecidableEq, Repr

def fwComp (bs : Bytes) (i : Nat) : FwComp :=
  let b := slice bs (0x40 + 16 * i) 16
  { type := fieldLe b 0 2, off := fieldLe b 4 4, len := fieldLe b 8 4, rsvdOk := fieldLe b 2 2 == 0 && fieldLe b 12 4 == 0 }

/-- One signature entry. -/
structure FwSig where
  alg : Nat
  role : Nat
  rsvdOk : Bool
  key : Bytes
  sig : Bytes
  deriving DecidableEq, Repr

/-- The entries that tile the signature block exactly, each padded to 8 bytes; none when they do not. -/
def fwSigs : Nat → Bytes → Option (List FwSig)
  | _, [] => some []
  | 0, _ :: _ => none
  | fuel + 1, bs =>
    let k := fieldLe bs 2 2
    let n := fieldLe bs 4 2
    let step := up8 (8 + k + n)
    if bs.length < step then none
    else (fwSigs fuel (bs.drop step)).map fun rest =>
      { alg := fieldLe bs 0 1, role := fieldLe bs 1 1, rsvdOk := fieldLe bs 6 2 == 0, key := slice bs 8 k,
        sig := slice bs (8 + k) n } :: rest

/-- A package as it lies in the slot. -/
structure FwPkg where
  bytes : Bytes
  total : Nat
  svn : Nat
  flags : Nat
  comps : List FwComp
  sigs : Option (List FwSig)
  deriving DecidableEq, Repr

def parsePkg (bs : Bytes) : FwPkg :=
  let total := fieldLe bs 8 4
  { bytes := bs, total := total, svn := fieldLe bs 0xC 4, flags := fieldLe bs 0x20 4,
    comps := (List.range 4).map (fwComp bs), sigs := fwSigs bs.length (bs.drop total) }

def FwPkg.signed (p : FwPkg) : Bytes := p.bytes.take p.total

def FwPkg.digest (p : FwPkg) : Bytes := sha3_384 p.signed

def fwContext : Bytes := ascii "LX9-FIRMWARE"

/-! ## The package checks (R442) -/

def FwPkg.formatOk (p : FwPkg) : Bool :=
  fieldLe p.bytes 4 2 == 1 && fieldLe p.bytes 6 2 == 128 && p.flags < 2 && allZero (slice p.bytes 0x28 24) &&
    p.comps.all FwComp.rsvdOk && (p.sigs.getD []).all FwSig.rsvdOk

def FwComp.disjoint (a b : FwComp) : Bool := a.off + a.len ≤ b.off || b.off + b.len ≤ a.off

def FwPkg.lengthOk (p : FwPkg) : Bool :=
  p.bytes.length ≤ 0x1800000 && p.total % 8 == 0 && 0x80 ≤ p.total && p.total ≤ p.bytes.length &&
    (p.comps.all fun c => c.off % 8 == 0 && 0x80 ≤ c.off && c.off + c.len ≤ p.total) &&
    p.comps.Pairwise (fun a b => a.disjoint b = true) && p.sigs.isSome

/-- The fuse field that an entry's key must match (R440). -/
def Fuses.fwKey (f : Fuses) (x : FwSig) : Bytes :=
  if x.role = 0 then (if x.alg = 1 then f.fwMldsa else f.fwEcdsa) else if x.alg = 1 then f.ownerMldsa else f.ownerEcdsa

/-- The signatures that R440 calls for, as (ROLE, ALG) in their order. -/
def Fuses.fwPolicy (f : Fuses) : List (Nat × Nat) :=
  [(0, 1), (0, 2)] ++ (if f.cosignReq then [(1, 1)] ++ (if programmed f.ownerEcdsa then [(1, 2)] else []) else [])

def FwSig.shapeOk (x : FwSig) : Bool :=
  if x.alg = 1 then x.key.length == 2592 && x.sig.length == 4627 else x.key.length == 97 && x.sig.length == 96

def FwSig.verifies (signed : Bytes) (x : FwSig) : Bool :=
  if x.alg = 1 then
    mlDsaAccepts 2 x.key ([0, BitVec.ofNat 8 fwContext.length] ++ fwContext ++ signed) x.sig
  else ecdsaAccepts 1 x.key (sha384 signed) x.sig

def FwPkg.compsOk (p : FwPkg) (stepping : Nat) : Bool :=
  fieldLe p.bytes 0x24 4 == 4 && ([1, 2, 3, 4].all fun t => (p.comps.filter fun c => c.type == t).length == 1) &&
    p.comps.all fun c => Config.componentOk c.type stepping (slice p.bytes c.off c.len)

/-- R441: no older image than the thermometer or the running image. -/
def State.rollbackOk (s : State) (svn : Nat) : Bool := s.fuse.thermSteps ≤ svn && s.fwu.runSvn ≤ svn

/-- The first failing check, 0 for none. -/
def State.pkgCheck (s : State) (p : FwPkg) (written : Bool) : Nat :=
  let sigs := p.sigs.getD []
  let target := fieldLe p.bytes 0x18 8
  if slice p.bytes 0 4 != ascii "LXFW" then 1
  else if !p.formatOk then 2
  else if !bitOf (fieldLe p.bytes 0x14 4) s.fuse.stepping then 3
  else if target != 2 ^ 64 - 1 && target != s.fuse.deviceId then 4
  else if !p.lengthOk then 5
  else if sigs.any fun x => sha3_384 x.key != s.fuse.fwKey x then 6
  else if (sigs.map fun x => (x.role, x.alg)) != s.fuse.fwPolicy || !sigs.all FwSig.shapeOk then 7
  else if !sigs.all (FwSig.verifies p.signed) then 8
  else if !s.rollbackOk p.svn then 9
  else if !p.compsOk s.fuse.stepping then 10
  else if s.ledger.readOnly || !written then 11
  else 0

/-! ## Slots -/

def Ledger.slot (l : Ledger) (i : Nat) : FwSlot := if i = 0 then l.slotA else l.slotB

def Ledger.setSlot (l : Ledger) (i : Nat) (x : FwSlot) : Ledger :=
  if i = 0 then { l with slotA := x } else { l with slotB := x }

def State.setFwSlot (s : State) (i : Nat) (x : FwSlot) : State := { s with ledger := s.ledger.setSlot i x }

def FwSlot.none : FwSlot := { st := .invalid, svn := 0, digest := zeros 48, mandatory := false }

/-- The slot that is not running. -/
def Fwu.other (f : Fwu) : Nat := 1 - f.running

/-! ## Commands (R440, R442, R443, R450) -/

def State.fwuEnd (s : State) (st : Status) : State := { s with fwu := { s.fwu with result := st.code, done := true } }

/-- A command given in a state that does not accept it: BAD_PARAMS, with code STATE. -/
def State.fwuRefuse (s : State) : State := State.fwuEnd { s with fwu := { s.fwu with err := 12 } } .badParams

def State.stage (s : State) : State :=
  if s.lcs.pending then s.fwuEnd .busy
  else if !s.rst.inService || s.rst.safeStandby || !(s.fwu.st == .idle || s.fwu.st == .staged) then s.fwuRefuse
  else if s.fwu.srcLo % 4096 ≠ 0 then s.fwuEnd .badParams
  else
    let s := if s.ledger.readOnly then s else s.setFwSlot s.fwu.other FwSlot.none
    { s with fwu := { s.fwu with st := .staging, done := false, err := 0, digest := zeros 48 } }

def execStage (s : State) : Host.Outcome State Fault Refusal := hostCmd s s.stage

/-- The package lies in the slot, FWU_LEN bytes of it, and is checked. -/
def State.stagingEnds (s : State) (pkg : Bytes) (written : Bool) : State :=
  let p := parsePkg (fit s.fwu.len pkg)
  let code := s.pkgCheck p written
  if code = 0 then
    let s := s.setFwSlot s.fwu.other { st := .valid, svn := p.svn, digest := p.digest, mandatory := bitOf p.flags 0 }
    State.fwuEnd { s with fwu := { s.fwu with st := .staged, digest := p.digest } } .ok
  else
    State.fwuEnd { s with fwu := { s.fwu with st := .idle, err := code } }
      (if 6 ≤ code ∧ code ≤ 8 then .verifyFalse else .badParams)

def execStagingComplete (pkg : Bytes) (written : Bool) (s : State) : Host.Outcome State Fault Refusal :=
  engineCmd s (if s.fwu.st = .staging then s.stagingEnds pkg written else s)

/-- Payload of FW_ACTIVATE: the instant, whether it cancels, and the package digest (log entry 16). -/
def State.fwMessage (s : State) (cancel : Bool) : State :=
  s.flood 0x05 (toLe 8 s.fwu.instant ++ toLe 8 (b2n cancel) ++ s.fwu.digest)

/-- R443: the instant lies 10 ms to 24 h ahead, and cluster time is valid when a port is UP. -/
def State.armOk (s : State) (t : Nat) : Bool :=
  s.clusterTime + 10000000 ≤ t && t ≤ s.clusterTime + 86400000000000 && (s.upPorts.isEmpty || s.cfl.timeValid)

def State.arm (s : State) : State :=
  let t := s.fwu.actHi * 2 ^ 32 + s.fwu.actLo
  if s.lcs.pending then s.fwuEnd .busy
  else if !(s.fwu.st == .staged || s.fwu.st == .armed) then s.fwuRefuse
  else if !s.armOk t then s.fwuEnd .badParams
  else State.fwMessage (State.fwuEnd { s with fwu := { s.fwu with st := .armed, instant := t } } .ok) false

def execArm (s : State) : Host.Outcome State Fault Refusal := hostCmd s s.arm

def State.cancelArm (s : State) : State :=
  if s.fwu.st = .armed then State.fwMessage (State.fwuEnd { s with fwu := { s.fwu with st := .staged } } .ok) true
  else s.fwuRefuse

def execCancel (s : State) : Host.Outcome State Fault Refusal := hostCmd s s.cancelArm

/-- DISCARD marks a STAGED slot INVALID. -/
def State.fwDiscard (s : State) : State :=
  if s.fwu.st = .staged then
    State.fwuEnd (State.setFwSlot { s with fwu := { s.fwu with st := .idle, digest := zeros 48 } } s.fwu.other FwSlot.none) .ok
  else s.fwuRefuse

def execFwDiscard (s : State) : Host.Outcome State Fault Refusal := hostCmd s s.fwDiscard

/-- REQUIRE_COSIGN burns the bit in three copies, one pulse each, in OWNED only (R440). -/
def State.requireCosign (s : State) : State :=
  if s.lcs.st = .owned then
    State.startBurn { s with fwu := { s.fwu with result := Status.ok.code, done := false } } (threeCopies LcWork.cosign)
  else s.fwuRefuse

def execRequireCosign (s : State) : Host.Outcome State Fault Refusal := hostCmd s s.requireCosign

/-! ## The switch (R444) -/

/-- A fence or HALT stops the switch, the trial and the fallback (R449). -/
def State.fwHeld (s : State) : Bool := s.rst.fenced || s.lev.fenced || s.lev.halted

/-- Intake stops on every queue, as under quiesce (R80). -/
def State.stopAll (s : State) : State :=
  (((s.queues.map Prod.fst).map fun k => k / 64).eraseDups).foldl (fun s fn => (s.stopFetch fn).closeFnRuns fn) s

/-- Step 1: the TRIAL record is journalled and fetching stops. -/
def State.startSwitch (s : State) : State :=
  let s := { s with ledger := { s.ledger with trial := some s.fwu.other } }
  let s := State.stopAll { s with fwu := { s.fwu with drainAt := s.now, restarting := false } }
  s.fwuGoes .switching

/-- The armed instant. It is ignored while a transition is pending and after a fence or HALT, and the device is armed no
more. -/
def State.activation (s : State) : State :=
  if s.fwu.st ≠ .armed then s
  else
    let s := s.atTime (s.now + (s.fwu.instant - s.clusterTime))
    if s.fwHeld || s.lcs.pending then { s with fwu := { s.fwu with st := .staged } } else s.startSwitch

def execActivationInstant (s : State) : Host.Outcome State Fault Refusal :=
  .next (if s.awake then s.activation else s)

def FwuState.leaves (x : FwuState) : Bool := x == .switching || x == .fallingBack

/-- No job is left to run: every one has retired. -/
def State.drained (s : State) : Bool := s.jobs.all Job.retired

/-- The warm restart begins: the cores run in their overlay (R345). -/
def State.beginRestart (s : State) : State :=
  let s := s.overlayOn fun _ => true
  State.planAbandon { s with fwu := { s.fwu with restarting := true } }

/-- The warm restart has ended: the cores that serve leave their overlay, with their registers zeroed (R345). -/
def State.overlayOff (s : State) : State :=
  ((List.range 16).filter fun i => (s.tile (tkey .cc i)).st == .idle).foldl (fun s i =>
    s.setCore i { (s.core i).idle with overlay := false }) s

def execFwDrainComplete (s : State) : Host.Outcome State Fault Refusal :=
  engineCmd s (if s.fwu.st.leaves && !s.fwu.restarting && !s.fwHeld && s.drained then s.beginRestart else s)

/-- Step 3: each job still outstanding ends as an abort ends it. -/
def State.drainLimit (s : State) : State :=
  let s := s.atTime (s.fwu.drainAt + s.fwu.drainMs * 1000000)
  let ids := (s.jobs.filter fun j => !j.retired).map Job.id
  (ids.foldl State.abortJob s).beginRestart

def execFwDrainLimit (s : State) : Host.Outcome State Fault Refusal :=
  engineCmd s (if s.fwu.st.leaves && !s.fwu.restarting && !s.fwHeld then s.drainLimit else s)

/-- The patch bundle of a package is loaded into every control store (R317, R329): a match register holds a 14-bit ROM address and one of the 512 patch words (R316, R329). -/
def State.loadPatch (s : State) (x : FwSlot) : State :=
  [0, 1, 2, 3].foldl (fun s e => s.setStore e { s.store e with
    patch := (Config.patchWords x.digest e).take 512, level := Config.patchLevel x.digest e % 65536,
    mandatory := x.mandatory, digest := fit 48 (Config.patchDigest x.digest e),
    matches_ := ((Config.patchMatches x.digest e).take 16).map fun m => (m.1 % 0x4000, m.2 % 0x200) }) s

def GraphRec.inPatch (g : GraphRec) : Bool :=
  g.override && g.nodes.any fun n => 0x4000 ≤ n.routine && n.routine < 0x4200

/-- When the patch level changes, OVERRIDE templates with a routine in patch RAM are set aside (R444). -/
def State.setAside (old s : State) : State :=
  if [0, 1, 2, 3].all fun e => (old.store e).level == (s.store e).level then s
  else
    let gone := s.cfg.graphs.filter GraphRec.inPatch
    let s := { s with cfg := { s.cfg with graphs := s.cfg.graphs.filter fun g => !g.inPatch } }
    gone.foldl (fun s g => s.raise 0x009 g.template) s

/-- Step 4: what a warm restart clears and loads, from slot `i`. -/
def State.warmRestart (s : State) (i : Nat) : State :=
  let x := s.ledger.slot i
  let t := (s.zeroMemories.extendDev 7 x.digest).loadPatch x
  State.setAside s { t with fwu := { t.fwu with running := i, runSvn := x.svn, digest := x.digest } }

/-- Step 5 of the switch: the confirm window starts. -/
def State.startTrial (s : State) : State :=
  let p := s.cfg.policy
  let s := { s with fwu := { s.fwu with
    trialEnd := s.now + p.confirmS * 1000000000, jobsLeft := p.confirmJobs, testsOk := true, restarting := false } }
  (s.overlayOff.fwuGoes .trial).planResume

/-- The device falls back (R447): the trial slot is FAILED and the previous slot becomes the image. -/
def State.fallBack (s : State) (last : Nat) : State :=
  let i := s.fwu.running
  let s := s.setFwSlot i { s.ledger.slot i with st := .failed }
  State.fwuGoes { s with fwu := { s.fwu with fallCode := last, testsOk := false, drainAt := s.now } } .fallingBack

/-- The fallback ends on the previous image. -/
def State.fellBack (s : State) : State :=
  let s := { s with
    ledger := { s.ledger with trial := none }
    fwu := { s.fwu with last := s.fwu.fallCode, restarting := false, jobsLeft := 0, digest := zeros 48 } }
  (s.overlayOff.fwuGoes .idle).planResume

/-- The image is loaded and its known-answer tests end. A trial image that fails them falls back at once; a previous image
that fails them leaves intake stopped (log entry 28). -/
def State.restarted (s : State) (passed : Bool) : State :=
  let s := s.warmRestart s.fwu.other
  match s.fwu.st, passed with
  | .switching, true => s.startTrial
  | .switching, false => s.fallBack 3
  | _, true => s.fellBack
  | _, false => { s with fwu := { s.fwu with running := s.fwu.other } }

def execWarmRestartDone (passed : Bool) (s : State) : Host.Outcome State Fault Refusal :=
  engineCmd s (if s.fwu.st.leaves && s.fwu.restarting && !s.fwHeld && s.drained then s.restarted passed else s)

/-! ## Confirmation (R446, R441) -/

/-- The thermometer burns to `n` steps in three copies. -/
def Fuses.burnTherm (f : Fuses) (n : Nat) : Fuses := { f with therm := f.therm.map fun (x : Nat) => x ||| (2 ^ n - 1) }

/-- The pulses that raise the thermometer to min(SVN, 128) in its three copies. -/
def Fuses.thermWork (f : Fuses) (svn : Nat) : List LcWork :=
  ((List.range (min svn 128)).drop f.thermSteps).flatMap fun b => threeCopies (LcWork.therm b)

/-- Boot step 8 completes the burn that a CONFIRM record calls for (R446). -/
def State.raiseTherm (s : State) (svn : Nat) : State :=
  let s := if s.fuse.thermSteps < svn then { s with fuse := s.fuse.burnTherm (min svn 128) } else s
  if s.ledger.readOnly then s else s.lockSlots

/-- CONFIRM is journalled, the slot is ACTIVE, and the thermometer's pulses begin (R446). -/
def State.confirm (s : State) : State :=
  let i := s.fwu.running
  let x := s.ledger.slot i
  let y := s.ledger.slot (1 - i)
  let s := { s with ledger := { s.ledger with trial := none, active := i, confirmed := some x.svn } }
  let s := (s.setFwSlot i { x with st := .active }).setFwSlot (1 - i)
    { y with st := if y.st = .active then .valid else y.st }
  let ws := s.fuse.thermWork x.svn
  let s := if ws.isEmpty then s.lockSlots else s.startBurn ws
  State.fwuGoes { s with fwu := { s.fwu with last := 1, jobsLeft := 0, digest := zeros 48 } } .idle

def State.mayConfirm (s : State) : Bool :=
  s.fwu.st == .trial && s.fwu.testsOk && s.fwu.jobsLeft == 0 && s.now ≤ s.fwu.trialEnd && !s.fwHeld

def execFwConfirm (s : State) : Host.Outcome State Fault Refusal := engineCmd s (if s.mayConfirm then s.confirm else s)

/-- The window ends: a trial that could confirm in the same cycle confirms; any other falls back, and intake stops. -/
def State.windowEnds (s : State) : State :=
  let s := s.atTime s.fwu.trialEnd
  if s.mayConfirm then s.confirm else (State.stopAll { s with fwu := { s.fwu with jobsLeft := 0 } }).fallBack 2

def execConfirmWindowEnd (s : State) : Host.Outcome State Fault Refusal :=
  engineCmd s (if s.fwu.st = .trial ∧ s.fwHeld = false then s.windowEnds else s)

end Sys2Proof.Machine
end

