-- ==== Sys2Proof/Machine/Levee.lean ====
section
/-! DEFINITION. The Levee (R406 to R419): detectors, windows, alarm sets, the response actions, unlatching, stimulation
tests and battery samples; and the fence (R411, R423). RESET_ACTION stands with the device reset in Boot.lean. -/

namespace Sys2Proof.Machine

open Sys2Proof

/-! ## The fence (R116, R387, R411, R423) -/

/-- Adds bits to RST_CAUSE, which the always-on domain keeps (R421). -/
def State.addCause (s : State) (bits : Nat) : State := { s with ao := { s.ao with cause := s.ao.cause ||| bits } }

/-- Every function stops fetching, and its open runs close (R110). -/
def State.stopIntake (s : State) : State :=
  let s := { s with queues := s.queues.map fun (x : Nat × Queue) => (x.1, { x.2 with fetching := 0 }) }
  (dedup (s.queues.map fun x => x.1 / 64)).foldl State.closeFnRuns s

/-- The effects of a fence: intake stops, outstanding jobs end under R116 with their completions, then the Sluice stops;
FAULT_N; one FENCED message; event 0x050. A device fences once. -/
def State.fence (s : State) : State :=
  if s.rst.fenced then s
  else
    let s := { s with rst := { s.rst with fenced := true } }
    let s := ((s.stopIntake.flushAll fun _ => true).flood 0x03 []).faultPin
    s.fenceDone.raise 0x050 s.ao.cause

/-! ## Detectors (R407, R409, R410) -/

/-- The Levee hears its detectors: from boot step 2 on (R408). -/
def State.leveeOn (s : State) : Bool := !s.rst.inReset && s.lev.watching

/-- The stimulation test of a source ends without a verdict (R413). -/
def State.bistBroken (s : State) : State :=
  { s with lev := { s.lev with bist := { s.lev.bist with
    running := false, done := true, result := Status.busy.code, pass := false, fail := false } } }

/-- A detector trips. The stimulated detector's own trip counts nothing; the live one's ends the test (R413, R414). -/
def State.detectorEvent (s : State) (i : Nat) (detB : Bool) : State :=
  let b := s.lev.bist
  if (s.levCfg i).actions = 0 ∨ 25 < i then s
  else if b.running && b.source == i then (if b.detB = detB then s else s.bistBroken.detectorTrip i detB)
  else s.detectorTrip i detB

def execLeveeDetectorEvent (source : Nat) (detB : Bool) (s : State) : Host.Outcome State Fault Refusal :=
  .next (if s.leveeOn then s.detectorEvent source detB else s)

def execDetectorDisagreement (source : Nat) (s : State) : Host.Outcome State Fault Refusal :=
  .next (if s.leveeOn && (s.levCfg source).actions != 0 && source ≤ 25 &&
      !(s.lev.bist.running && s.lev.bist.source == source) then s.disagreement source else s)

/-- A detector reports its condition clear. -/
def State.conditionClear (s : State) (i : Nat) (detB : Bool) : State :=
  let x := s.levSrc i
  let y : LevSrc := if detB then { x with detB := false } else { x with detA := false }
  s.setLevSrc i { y with disagree := y.disagree && (y.detA || y.detB) }

def execLeveeConditionClear (source : Nat) (detB : Bool) (s : State) : Host.Outcome State Fault Refusal :=
  .next (if s.leveeOn && source ≤ 25 then s.conditionClear source detB else s)

/-- W has elapsed without a trip (R409). -/
def State.windowEnd (s : State) (i : Nat) : State :=
  let x := s.levSrc i
  match x.openAt with
  | some t =>
    if x.latched then s
    else (s.atTime (t + 1000000 * (s.levCfg i).windowMs)).setLevSrc i { x with count := 0, openAt := none }
  | none => s

def execLeveeWindowExpiry (source : Nat) (s : State) : Host.Outcome State Fault Refusal :=
  .next (if s.leveeOn then s.windowEnd source else s)

def execGatheringIntervalEnd (s : State) : Host.Outcome State Fault Refusal :=
  .next (if s.leveeOn && s.lev.gather.isSome then (s.atTime (s.lev.gatherAt + 1000)).closeGather else s)

/-- R410: takes effect only when both detectors report the condition clear. -/
def State.unlatch (s : State) (i : Nat) : State :=
  let x := s.levSrc i
  if !x.latched then s
  else if isTransient i || !(x.detA || x.detB) then
    (s.setLevSrc i { LevSrc.reset with disagree := false }).alertPin
  else s

def execLeveeUnlatch (source : Nat) (s : State) : Host.Outcome State Fault Refusal := hostCmd s (s.unlatch source)

/-! ## Actions (R411, R412) -/

/-- Runs the action at the head of the queue when it is the one of this rank. -/
def State.levAction (s : State) (rank : Nat) (f : List AlarmSet → State → State) : State :=
  match s.lev.queue with
  | a :: rest => if a.rank = rank then f a.sets { s with lev := { s.lev with queue := rest } } else s
  | [] => s

/-- A queued action runs; those that stop what a pulse is writing wait for its end (R411). -/
def runAction (s : State) (rank : Nat) (f : List AlarmSet → State → State) : Host.Outcome State Fault Refusal :=
  .next (if s.leveeOn && (rank < 7 || s.rst.pulse.isNone) then s.levAction rank f else s)

def eachTrip (sets : List AlarmSet) (f : State → AlarmSet → TripRec → State) (s : State) : State :=
  sets.foldl (fun s g => g.trips.foldl (fun s t => f s g t) s) s

/-- One entry for each source of the set; source 25's is a disagreement. -/
def tripEntry (g : AlarmSet) (t : TripRec) : LogEntry :=
  { time := g.time, source := t.source, kind := if t.source = 25 then 1 else 0, actions := g.union, det := t.det,
    set := g.no, count := t.count }

def execLog (s : State) : Host.Outcome State Fault Refusal :=
  runAction s 0 (eachTrip · fun s g t => s.levLog (tripEntry g t) g.union)

def execEvent (s : State) : Host.Outcome State Fault Refusal :=
  runAction s 1 (eachTrip · fun s g t => s.raise (0x200 + t.source) (g.no * 256 + t.source))

/-- Changes a source that is still latched. -/
def State.onLatched (s : State) (i : Nat) (f : LevSrc → LevSrc) : State :=
  let x := s.levSrc i
  if x.latched then s.setLevSrc i (f x) else s

def execAlarmOut (s : State) : Host.Outcome State Fault Refusal :=
  runAction s 2 (eachTrip · fun s _ t => s.onLatched t.source fun x => { x with alarm := true })

def execThrottle (s : State) : Host.Outcome State Fault Refusal :=
  runAction s 3 (eachTrip · fun s _ t => s.onLatched t.source fun x => { x with throttle := true })

def State.clearVolatile (s : State) : State := (s.flushAll fun _ => true).clearKeys

def execClearVolatileKeys (s : State) : Host.Outcome State Fault Refusal := runAction s 4 fun _ s => s.clearVolatile.newVaultKey

/-- FENCE, which in LARGE class is a cause of RST_CAUSE (R437). -/
def State.fenceAction (s : State) : State :=
  let s := if s.large then s.addCause 64 else s
  let s := s.fence
  { s with lev := { s.lev with fenced := true } }

def execFenceAction (s : State) : Host.Outcome State Fault Refusal := runAction s 5 fun _ s => s.fenceAction

/-- Every engine gives up its node; a job past its commit point stops with the device state and gets no status (R116). -/
def State.stopJobs (s : State) : State :=
  let s := ((s.tiles.filter fun x => x.2.node.isSome).map Prod.fst).foldl State.leaveTile s
  State.sweepJobs { s with
    spans := []
    jobs := s.jobs.map fun (j : Job) => if j.status.isSome then j.cancelNodes fun _ => false
      else { j.cancelNodes (fun _ => false) with st := .ended, stage := [], output := [], extend := none } }

/-- CLEAR_ALL: the Sluice stops at once, so that no completion is written, and nothing that ran goes on. -/
def State.clearAll (s : State) : State :=
  let s := { s with rst := { s.rst with sluiceStopped := true } }
  let s := s.clearVolatile.stopJobs.zeroMemories.dropHbmKeys.zeroCover.faultPin
  { s with
    spr := { s.spr with drbg := [], waiting := [] }
    lev := { s.lev with cleared := true } }

def execClearAll (s : State) : Host.Outcome State Fault Refusal := runAction s 6 fun _ s => s.clearAll

/-- HALT: one ALARM message for a set (R412), then everything stands still; a commit before its switch point is abandoned (R70),
which ends it for WSH_APPLY_US (R71). DESIGN CHOICE (log entry 79): the abandonment names no record. -/
def State.haltAll (s : State) (sets : List AlarmSet) : State :=
  let s := sets.foldl (fun s g => s.flood 0x02 (alarmPayload s.devId g)) s
  let s := if s.wsh.st = .committing then
      State.stampCommit (State.wshError { s with wsh := { s.wsh with st := .valid, springWait := false } } errState 0 0)
    else s
  ({ s with lev := { s.lev with halted := true } }).faultPin

def execHalt (s : State) : Host.Outcome State Fault Refusal := runAction s 7 fun sets s => s.haltAll sets

/-! ## Stimulation tests (R413, R414) -/

def State.bistResult (s : State) (st : Status) : State :=
  { s with lev := { s.lev with bist := { s.lev.bist with result := st.code } } }

def bistSource (i : Nat) : Bool := i ≤ 21 || i == 24

def State.bistStart (s : State) (i : Nat) (detB : Bool) : State :=
  if !bistSource i then s.bistResult .badParams
  else if !s.lev.watching || s.lev.bist.running || (s.levSrc i).latched || !s.rst.pwrgood then s.bistResult .busy
  else { s with lev := { s.lev with bist :=
    { running := true, source := i, detB := detB, result := Status.ok.code, done := false, pass := false, fail := false } } }

def execLevBistCmd (source : Nat) (detB : Bool) (s : State) : Host.Outcome State Fault Refusal :=
  hostCmd s (s.bistStart source detB)

/-- A source's own schedule, counted from the full COMMIT; a source that cannot be tested now is passed over. -/
def execBistSchedule (source : Nat) (detB : Bool) (s : State) : Host.Outcome State Fault Refusal :=
  .next (if s.leveeOn && s.wsh.configured && (s.levCfg source).bistH != 0 && bistSource source &&
      !s.lev.bist.running && !(s.levSrc source).latched then s.bistStart source detB else s)

/-- The verdict, logged; a failure counts one event of source 25 and raises the source's test event (R454). -/
def State.bistEnd (s : State) (passed : Bool) : State :=
  let b := s.lev.bist
  if !b.running then s
  else
    let s := { s with lev := { s.lev with bist := { b with
      running := false, done := true, pass := passed, fail := !passed } } }
    let e : LogEntry := { time := s.stamp, source := b.source, kind := if passed then 2 else 3, actions := 0,
                          det := if passed then detBits (!b.detB) b.detB else 0, set := 0, count := 0 }
    let s := s.levLog e 0
    if passed then s else (s.levCount 25 0).raise (0x220 + b.source) b.source

def execBistVerdict (passed : Bool) (s : State) : Host.Outcome State Fault Refusal :=
  .next (if s.leveeOn then s.bistEnd passed else s)

/-! ## The backup cell (R415, R416) -/

/-- Battery rules hold while the main supply is lost and until boot step 2 (R413, R415). -/
def execBatterySample (detA detB : Nat) (s : State) : Host.Outcome State Fault Refusal :=
  .next (if s.lev.watching then s else s.batterySample detA detB)

end Sys2Proof.Machine
end

