-- ==== Sys2Proof/Machine/Resets.lean ====
section
/-! DEFINITION. Block resets (R426, R428, R429): PT, HT, BNU, CU and CC, basins (R427), and the ends of the resets that
take time. -/

namespace Sys2Proof.Machine

open Sys2Proof

/-! ## Chains in service (R223) -/

def State.chainsUp (s : State) : List ChainRec := s.cfg.chains.filter s.chainInService

/-- The events of the chains that were in service before and are not now (R223, R453). -/
def State.chainEvents (s : State) (before : List ChainRec) : State :=
  (before.filter fun c => !s.chainInService c).foldl (fun s c =>
    s.raiseBasin (basinOf .pt (c.tiles.headD 0)) 7 c.id) s

/-! ## Units -/

/-- Sets a class's disabled bit for a unit: it reads DISABLED until the next device reset (R426). -/
def Rst.disable (r : Rst) (c : NodeClass) (i : Nat) : Rst :=
  match c with
  | .pt => { r with disPt := r.disPt ||| 2 ^ i }
  | .ht => { r with disHt := r.disHt ||| 2 ^ i }
  | .bnu => { r with disBnu := r.disBnu ||| 2 ^ i }
  | .cu => { r with disCu := r.disCu ||| 2 ^ i }
  | .cc => { r with disCc := r.disCc ||| 2 ^ i }
  | _ => r

/-- May a unit be reset: STATE is IDLE (R426), which a BNU that holds contexts is not (R264)? A unit of a disabled basin
reads DISABLED. A fenced device refuses block resets (R429). DESIGN CHOICE (log entry 111): a commit in progress refuses the
resets of queues, functions and reaches, and lets these run. -/
def State.unitIdle (s : State) (c : NodeClass) (i : Nat) : Bool :=
  !s.rst.fenced && i < classCount c && s.tileOn c i && ((unitKeys c i).all fun k => (s.tile k).st == .idle && (s.tile k).node.isNone) &&
    !(c == .bnu && 0 < s.bnuHeld i) && s.basin (basinOf c i) != .resetting && s.basin (basinOf c i) != .selfTest

/-- The unit goes under reset, a core in its overlay (R345); contexts that lie in an HT's lanes are saved, and a chain of a PT leaves service (R223,
R238). -/
def State.startUnit (s : State) (c : NodeClass) (i : Nat) : State :=
  let s := if c = .ht then (unitKeys .ht i).foldl State.saveLane s else s
  let s := if c = .cc then s.setCore i { s.core i with overlay := true } else s
  (s.setTile (tkey c i) { s.tile (tkey c i) with st := .resetting }).chainEvents s.chainsUp

def resetCode (ok : Bool) : Nat := if ok then Status.ok.code else Status.busy.code

def execPtTileReset (s : State) : Host.Outcome State Fault Refusal :=
  let ok := s.unitIdle .pt s.sel.ptSel
  let t := if ok then s.startUnit .pt s.sel.ptSel else s
  hostCmd s { t with sel := { t.sel with ptResult := resetCode ok, ptDone := !ok, ptRuns := if ok then t.sel.ptSel else t.sel.ptRuns } }

def execHtTileReset (s : State) : Host.Outcome State Fault Refusal :=
  let ok := s.unitIdle .ht s.sel.htSel
  let t := if ok then s.startUnit .ht s.sel.htSel else s
  hostCmd s { t with sel := { t.sel with htResult := resetCode ok, htDone := !ok, htRuns := if ok then t.sel.htSel else t.sel.htRuns } }

def execBnuUnitReset (s : State) : Host.Outcome State Fault Refusal :=
  let ok := s.unitIdle .bnu s.sel.bnuSel
  let t := if ok then s.startUnit .bnu s.sel.bnuSel else s
  hostCmd s { t with sel := { t.sel with bnuResult := resetCode ok, bnuDone := !ok, bnuRuns := if ok then t.sel.bnuSel else t.sel.bnuRuns } }

def execCcCoreReset (s : State) : Host.Outcome State Fault Refusal :=
  let ok := s.unitIdle .cc s.sel.ccSel
  let t := if ok then s.startUnit .cc s.sel.ccSel else s
  hostCmd s { t with sel := { t.sel with ccResult := resetCode ok, ccDone := !ok, ccRuns := if ok then t.sel.ccSel else t.sel.ccRuns } }

/-- RST_BLK_STAT after a command (R437). -/
def State.blkResult (s : State) (st : Status) (done : Bool) : State :=
  { s with rst := { s.rst with blkResult := st.code, blkDone := done } }

/-- A block reset that RST_BLK_CMD started: DONE is 0 until its end (R437). -/
def State.blkStarts (s : State) (t : ResetTarget) : State :=
  { s.blkResult .ok false with rst := { (s.blkResult .ok false).rst with blkRuns := some t } }

/-- The end of a block reset; DONE waits for that of the last command. -/
def Rst.blkEnds (r : Rst) (t : ResetTarget) : Rst := { r with blkDone := r.blkDone || r.blkRuns == some t }

def execCuReset (target : Nat) (s : State) : Host.Outcome State Fault Refusal :=
  hostCmd s (if s.unitIdle .cu target then (s.startUnit .cu target).blkStarts (.cu target) else s.blkResult .busy true)

/-! ## Basins (R427) -/

/-- A basin changes state, with its event and those of chains that leave service (R223, R453). -/
def State.basinGoes (s : State) (b : Nat) (x : BasinSt) : State :=
  let t := if x = .resetting then
      (s.settleCovered fun j => j.basin == b).overlayOn fun i => basinOf .cc i == b else s
  ((t.setBasin b x).raiseBasin b 0 x.code).chainEvents s.chainsUp

/-- A command on a basin that the manual refuses whatever the command: TARGET above 7 or DISABLED with BAD_PARAMS, a reset
in progress with BUSY. -/
def State.basinRefuses (s : State) (b : Nat) : Option Status :=
  if 7 < b then some .badParams
  else
    match s.basin b with
    | .disabled => some .badParams
    | .resetting | .selfTest => some .busy
    | _ => none

def State.basinDrain (s : State) (b : Nat) : State :=
  match s.basinRefuses b with
  | some st => s.blkResult st true
  | none => (if s.basin b = .inService then s.basinGoes b .draining else s).blkResult .ok true

def execBasinDrain (target : Nat) (s : State) : Host.Outcome State Fault Refusal := hostCmd s (s.basinDrain target)

/-- Jobs homed in a basin that have not retired. -/
def State.homedIn (s : State) (b : Nat) : Bool :=
  s.jobs.any fun j => j.basin == b && (match j.st with
    | .admitted | .delayed | .delayPend => true
    | .running | .ended => !j.nodes.isEmpty
    | .covered => true
    | _ => false)

def execBasinDrained (basin : Nat) (s : State) : Host.Outcome State Fault Refusal :=
  engineCmd s (if s.basin basin = .draining ∧ s.homedIn basin = false then s.basinGoes basin .drained else s)

def State.basinReset (s : State) (b : Nat) : State :=
  match s.basinRefuses b with
  | some st => s.blkResult st true
  | none => if s.basin b = .drained ∧ s.rst.fenced = false then (s.basinGoes b .resetting).blkStarts (.basin b) else s.blkResult .busy true

def execBasinReset (target : Nat) (s : State) : Host.Outcome State Fault Refusal := hostCmd s (s.basinReset target)

def State.basinResume (s : State) (b : Nat) : State :=
  match s.basinRefuses b with
  | some st => s.blkResult st true
  | none => (if s.basin b = .inService then s else s.basinGoes b .inService).blkResult .ok true

def execBasinResume (target : Nat) (s : State) : Host.Outcome State Fault Refusal := hostCmd s (s.basinResume target)

/-! ## The end of a block reset -/

/-- What a tile reset clears (R428): memories, registers and counters; the role epoch is one higher. A core's failed tests are
counted since device reset (R346), and a ROM word that failed twice disables the tile at the next boot (R318). -/
def State.clearUnit (s : State) (c : NodeClass) (i : Nat) : State :=
  let s := (unitKeys c i).foldl (fun s k => s.setTile k { Tile.reset with epoch := (s.tile k).epoch + 1, romBad := (s.tile k).romBad }) s
  let s := if c = .cc then s.setCore i { Core.reset with overlay := !s.rst.inService || s.fwu.restarting, recoveryFails := (s.core i).recoveryFails } else s
  s.clearRandom c i

/-- The unit's known-answer test failed: DISABLED until the next device reset, with its event (R426, R453). -/
def State.disableUnit (s : State) (c : NodeClass) (i : Nat) : State :=
  let s := { s with rst := s.rst.disable c i }
  (s.setTile (tkey c i) { s.tile (tkey c i) with st := .disabled }).raiseBasin (basinOf c i) 4 (tkey c i)

/-- A unit's reset ends with its known-answer test, and with it the class's last command if it was that one, whatever unit
the selection names now (R229, R249, R264, R354); `failed` holds the keys of the units that fail it. -/
def State.unitDone (s : State) (c : NodeClass) (i : Nat) (failed : List Nat) : State :=
  if (s.tile (tkey c i)).st != .resetting then s
  else
    let s := s.clearUnit c i
    let s := if failed.contains (tkey c i) then s.disableUnit c i else s
    match c with
    | .pt => { s with sel := { s.sel with ptDone := s.sel.ptDone || s.sel.ptRuns == i } }
    | .ht => { s with sel := { s.sel with htDone := s.sel.htDone || s.sel.htRuns == i } }
    | .bnu => { s with sel := { s.sel with bnuDone := s.sel.bnuDone || s.sel.bnuRuns == i } }
    | .cc => { s with sel := { s.sel with ccDone := s.sel.ccDone || s.sel.ccRuns == i } }
    | _ => { s with rst := s.rst.blkEnds (.cu i) }

/-- The basin's units, by class. -/
def basinUnits (b : Nat) : List (NodeClass × Nat) :=
  tileClasses.flatMap fun c => (basinTiles c b).map fun i => (c, i)

/-- A basin reset ends: its units run their tests in SELF_TEST, and it goes to DRAINED, or to DISABLED when every tile
has failed (R427). Units disabled before stay so, as do FAILED
cores (R346), and count as failed. -/
def State.basinDone (s : State) (b : Nat) (failed : List Nat) : State :=
  if s.basin b != .resetting then s
  else
    let units := (basinUnits b).filter fun u => (s.tile (tkey u.1 u.2)).st != .disabled && (s.tile (tkey u.1 u.2)).st != .failed && !bitOf (s.rst.disabled u.1) u.2
    let s := (units.foldl (fun s u => s.clearUnit u.1 u.2) s).basinGoes b .selfTest
    let lost := units.filter fun u => failed.contains (tkey u.1 u.2)
    let s := lost.foldl (fun s u => s.disableUnit u.1 u.2) s
    let s := s.basinGoes b (if lost.length = units.length then .disabled else .drained)
    { s with rst := s.rst.blkEnds (.basin b) }

def State.reachResetDone (s : State) (r : Nat) : State :=
  if (s.reach r).st != .resetting then s
  else
    let s := s.setReach r { s.reach r with st := .quiesced }
    { s with glb := s.glb.reachEnds r }

def State.vfResetDone (s : State) (vf : Nat) : State :=
  if !(s.fn vf).resetting then s
  else
    let s := s.setFn vf { s.fn vf with resetting := false }
    { s with glb := s.glb.vfEnds vf }

def State.blockDone (s : State) (t : ResetTarget) (failed : List Nat) : State :=
  match t with
  | .reach r => s.reachResetDone r
  | .vf n => s.vfResetDone n
  | .pt i => s.unitDone .pt i failed
  | .ht i => s.unitDone .ht i failed
  | .bnu i => s.unitDone .bnu i failed
  | .cc i => s.unitDone .cc i failed
  | .cu i => s.unitDone .cu i failed
  | .basin b => s.basinDone b failed

def execBlockResetComplete (target : ResetTarget) (failed : List Nat) (s : State) : Host.Outcome State Fault Refusal :=
  engineCmd s (s.blockDone target failed)

/-- A block reset is running (R429). -/
def State.blockBusy (s : State) : Bool :=
  s.tiles.any (fun x => x.2.st == .resetting) || s.rst.basins.any (fun x => x.2 == .resetting || x.2 == .selfTest) ||
    s.reaches.any (fun x => x.2.st == .resetting) || s.fns.any (fun x => x.2.resetting) || s.spr.st == .resetting

end Sys2Proof.Machine
end

