-- ==== Sys2Proof/Machine/Boot.lean ====
section
/-! DEFINITION. Reset, power-up and boot (R420 to R437), with the boot's part of other chapters: the fuse sense and vote
(R392), the Levee's step 2 (R417), the Spring's first seed (R278), the derivations (R288), the resumptions (R399, R435)
and the ports' training (R372). -/

namespace Sys2Proof.Machine

open Sys2Proof

/-! ## Causes (R421, R437) -/

def causePowerOn : Nat := 1
def causeResetN : Nat := 2
def causePerstN : Nat := 4
def causeDevReset : Nat := 8
def causeWatchdog : Nat := 16
def causeCritical : Nat := 32
def causeLevee : Nat := 64
def causeBootRetry : Nat := 128

/-- Adds causes; a CRITICAL cause brings its CRIT_UNIT. -/
def joinCause (old new : Nat) : Nat :=
  (old ||| new) % 256 + (if bitOf new 5 then new / 256 % 16 else old / 256 % 16) * 256

/-! ## The device reset (R421, R428) -/

/-- Actions that a device reset or a loss of supply leaves unrun: those queued and those of the open set (R413). -/
def Lev.unrun (l : Lev) : Nat :=
  l.queue.foldl (fun u a => u ||| 2 ^ a.rank) ((l.gather.map AlarmSet.union).getD 0)

/-- Unrun actions go to the pending summary; the copy is wrapped before a zeroisation that is queued (R413, R416). -/
def Ao.pend (a : Ao) (u : Nat) : Ao :=
  if u = 0 then a
  else
    let a := { a with summary := a.summary ||| u }
    let a := match a.coverKey with | some k => { a with copy := some (k, a.summary) } | none => a
    if bitOf u 6 then { a with coverKey := none, zeroised := true } else a

/-- What the always-on domain holds after a device reset: its count goes on, the new cause stands, and unrun Levee actions
are pending. Causes of a fence, or of a reset that is still held, stay beside the new one (R421, R423, R429). -/
def State.aoAfter (s : State) (cause u : Nat) : Ao :=
  let kept := if s.rst.fenced || s.rst.inReset then s.ao.cause else 0
  { s.ao.pend u with
    cause := joinCause kept cause, base := if s.cfl.timeValid then s.clusterTime else s.ao.base + s.now }

/-- The device column of the reset matrix: only the fuses, the ledger die, the always-on domain and the levels of the
pins stay; PWR_VCORE and PWR_TEMP read their reset values, while the regulator holds its voltage (R483). A tile whose ROM word failed twice
is known to the next boot (R318). -/
def State.cleared (s : State) : State :=
  { State.reset with
    fuse := s.fuse
    records := s.records
    ledger := { s.ledger with readOnly := false }
    ao := s.ao
    rst := { Rst.reset with pwrgood := s.rst.pwrgood, resetN := s.rst.resetN, perstN := s.rst.perstN }
    pwr := { Pwr.reset with heldMv := s.pwr.heldMv }
    pins := { Pins.reset with therm := s.pins.therm, addrSel := s.pins.addrSel }
    tx := s.tx
    tiles := (s.tiles.filter fun x => x.2.romBad).map fun (x : Nat × Tile) => (x.1, { Tile.reset with romBad := true })
    pending := s.pending }

/-- A device reset takes effect. -/
def State.deviceReset (s : State) (cause : Nat) : State :=
  let u := if s.large && bitOf s.lev.unrun 8 then classUnion true s.lev.unrun else s.lev.unrun
  (State.cleared { s with ao := s.aoAfter cause u }).alertPin

/-- A device reset that arrives during a fuse or ledger pulse is held until its end (R425). -/
def State.resetNow (s : State) (cause : Nat) : State :=
  if s.rst.inReset then { s with ao := { s.ao with cause := joinCause s.ao.cause cause } }
  else
    match s.rst.heldCause, s.rst.pulse with
    | some c, _ => { s with rst := { s.rst with heldCause := some (joinCause c cause) } }
    | none, some _ => { s with rst := { s.rst with heldCause := some cause } }
    | none, none => s.deviceReset cause

/-- A fence with its causes (R423). -/
def State.fenceFor (s : State) (cause : Nat) : State :=
  State.fence { s with ao := { s.ao with cause := joinCause s.ao.cause cause } }

/-- The pulse ends and the held reset takes effect; a held fence waits for running block resets too (R429). -/
def State.holdEnd (s : State) : State :=
  match s.rst.heldCause, s.rst.heldFence with
  | some c, _ => s.pulseEnd.deviceReset c
  | none, some c =>
    let s := s.pulseEnd
    if s.blockBusy then s else State.fenceFor { s with rst := { s.rst with heldFence := none } } c
  | none, none => s

def execResetHoldEnd (s : State) : Host.Outcome State Fault Refusal := .next s.holdEnd

/-- R420: an internal source resets the device in SMALL class and fences it in LARGE class, where a pulse and a running
block reset complete first (R429). -/
def State.internalReset (s : State) (cause : Nat) : State :=
  if !s.large then s.resetNow cause
  else if s.rst.pulse.isSome || s.blockBusy then
    { s with rst := { s.rst with heldFence := some (joinCause (s.rst.heldFence.getD 0) cause) } }
  else s.fenceFor cause

/-! ## Reset sources -/

/-- RESET_N is asserted: a cause only while PWRGOOD is asserted (R421). -/
def execResetN (s : State) : Host.Outcome State Fault Refusal :=
  .next (if s.rst.resetN then s
    else
      let t := { s with rst := { s.rst with resetN := true } }
      if s.rst.pwrgood then t.resetNow causeResetN else t)

def execPerstN (s : State) : Host.Outcome State Fault Refusal :=
  .next (if s.rst.perstN then s
    else
      let t := { s with rst := { s.rst with perstN := true } }
      if s.rst.pwrgood then t.resetNow causePerstN else t)

def execResetInputRelease (pin : ResetPin) (s : State) : Host.Outcome State Fault Refusal :=
  .next (match pin with
    | .resetN => { s with rst := { s.rst with resetN := false } }
    | .perstN => { s with rst := { s.rst with perstN := false } })

/-- The Levee's trips whose battery actions have not run: the always-on domain runs their LOG and ALARM_OUT (R413). -/
def State.levToBattery (s : State) : State :=
  let sets (r : Nat) : List AlarmSet := (s.lev.queue.filter fun a => a.rank == r).flatMap LevAct.sets
  let battery (g : AlarmSet) : List TripRec := g.trips.filter fun t => isBattery t.source
  let a := (sets 0).foldl (fun a g => (battery g).foldl (fun a t => Ao.put a (tripEntry g t)) a) s.ao
  let pinsOf (g : AlarmSet) : Nat := (battery g).foldl (fun m t => m ||| (s.levCfg t.source).alarmSel) 0
  { s with ao := { a with alarmPins := (sets 2).foldl (fun m g => m ||| pinsOf g) a.alarmPins } }

/-- The main supply is reported lost: the pulse in progress completes, the device is reset, THERM_N is released, the
regulator will come up at its default (R475, R490), and the always-on domain runs on the backup cell (R413, R425). -/
def State.supplyLost (s : State) : State :=
  if !s.rst.pwrgood then s
  else
    let s := State.pulseEnd { s with rst := { s.rst with pwrgood := false } }
    let s := s.levToBattery.deviceReset causePowerOn
    (State.alertPin { s with
      ao := { s.ao with onBattery := true, battRun := true }, pins := { s.pins with therm := false }, pwr := Pwr.reset })

def execPwrgoodDeassert (s : State) : Host.Outcome State Fault Refusal := .next s.supplyLost

/-- PWRGOOD rises: ADDR_SEL is sampled (R494) and POWER_ON stands in RST_CAUSE. -/
def State.supplyBack (s : State) (addrSel : Nat) : State :=
  if s.rst.pwrgood then s
  else { s with
    rst := { s.rst with pwrgood := true }
    pins := { s.pins with addrSel := addrSel % 4 }
    ao := { s.ao with onBattery := false, cause := joinCause s.ao.cause causePowerOn } }

def execPwrgoodAssert (addrSel : Nat) (s : State) : Host.Outcome State Fault Refusal := .next (s.supplyBack addrSel)

/-- VBAT is lost while the main supply is off (R416, R432, R433). -/
def execAlwaysOnStateLost (s : State) : Host.Outcome State Fault Refusal :=
  .next (if s.rst.pwrgood then s else { s with ao := { Ao.reset with lost := true, cause := 0 } })

/-- RST_CMD DEV_RESET (R420, R422). -/
def State.devReset (s : State) (key : Nat) : State :=
  if key ≠ 0xC1A5 then s
  else if s.large || !s.cfg.policy.devResetEn then
    { s with rst := { s.rst with result := Status.badParams.code, done := true } }
  else State.resetNow { s with rst := { s.rst with result := Status.ok.code, done := true } } causeDevReset

def execDevReset (key : Nat) (s : State) : Host.Outcome State Fault Refusal := hostCmd s (s.devReset key)

/-- The watchdog is armed at the end of boot step 16 (R424). -/
def execWatchdogExpiry (s : State) : Host.Outcome State Fault Refusal :=
  .next (if s.rst.wdtArmed then s.internalReset causeWatchdog else s)

/-- A critical-state error in unit 1 to 6 (R420, R437). -/
def execCriticalError (unit : Nat) (s : State) : Host.Outcome State Fault Refusal :=
  .next (if s.rst.inReset || unit = 0 || 6 < unit then s else s.internalReset (causeCritical + unit * 256))

/-- Levee action RESET: a device reset, or in LARGE class FENCE (R411). -/
def State.resetAction (s : State) : State := if s.large then s.fenceAction else s.resetNow causeLevee

def execResetAction (s : State) : Host.Outcome State Fault Refusal := runAction s 8 fun _ s => s.resetAction

/-- A boot that did not reach service leaves the 10-minute window (R433). -/
def execBootCountAgeOut (s : State) : Host.Outcome State Fault Refusal :=
  .next { s with ao := { s.ao with recent := s.ao.recent - 1 } }

/-! ## The PCIe link (R72) -/

def widthCode (lanes : Nat) : Nat := if lanes = 16 then 15 else lanes

/-- GLB_STAT (R93). -/
def Glb.stat (g : Glb) : Nat := widthCode g.width * 16 + b2n g.linkSlow * 8 + g.speed

/-- The link settles: SPEED is its code, 1 to 5; below 8 GT/s fetching stays stopped and event 0x052 is raised. -/
def State.linkSettles (s : State) (speed width : Nat) : State :=
  let slow : Bool := decide (speed < 3)
  let s := { s with glb := { s.glb with speed := speed, width := width, linkSlow := slow } }
  if slow then s.raise 0x052 s.glb.stat else s

def execLinkSettle (speed width : Nat) (s : State) : Host.Outcome State Fault Refusal :=
  .next (if s.rst.inReset || speed = 0 || 5 < speed || !([1, 4, 8, 16].contains width) then s
    else s.linkSettles speed width)

/-! ## Boot steps (R430) -/

/-- The steps that have an alternative (R430). -/
def altSteps : List Nat := [1, 3, 4, 5, 6, 7, 9, 10, 12, 14, 15]

/-- The steps whose record shows a failure (R431). -/
def BootRec.failed (r : BootRec) : List Nat := altSteps.filter fun n => r.steps.getD (n - 1) 0 == 3

/-- Step 1: the vote, and MEAS[3] over the state code, the generation and T (R246, R392). -/
def State.bootVote (s : State) : State :=
  let s := s.voteLife
  let code := if s.lcs.byVote then 2 ^ 64 - 1 else ((vote3 s.fuse.code).getD 0).toNat
  s.extendDev 3 (sha3_384 (toLe 8 code ++ toLe 1 s.lcs.gen ++ toLe 1 s.fuse.thermSteps))

/-- The union that boot step 2 runs: the summary and a copy that unwraps (R417). -/
def Ao.union (a : Ao) : Nat :=
  match a.copy with
  | some (k, u) => if a.coverKey = some k then a.summary ||| u else a.summary
  | none => a.summary

def Ao.copyLost (a : Ao) : Bool :=
  match a.copy with
  | some (k, _) => decide (a.coverKey ≠ some k)
  | none => false

def bootEntry (now kind source actions : Nat) : LogEntry :=
  { time := now, source := source, kind := kind, actions := actions, det := 0, set := 0, count := 0 }

/-- Step 2 (R417): the always-on log is imported, ALARM_OUT released, the union logged as run and cleared, and the Levee
watches; fuse copies that disagree, then lost always-on state, count one event each (R392, R416). -/
def State.bootLevee (s : State) : State :=
  let a := s.ao
  let u := a.union
  let l := a.log.foldl Lev.put s.lev
  let l := if u = 0 then l else l.put (bootEntry s.now 5 0xFF u)
  let l := if a.lost then l.put (bootEntry s.now 6 0xFF 0) else l
  let s := { s with
    lev := { l with watching := true, summaryRun := u, copyLost := a.copyLost, aoLost := a.lost, battRun := a.battRun,
                    hold := bitOf u 5 || bitOf u 7 }
    ao := { a with alarmPins := 0, summary := 0, copy := none, battery := [], lost := false, battRun := false } }
  let s := if s.fuse.disagrees then s.levCount 22 0 else s
  let s := if a.lost then (s.raise 0x241 0).levCount 7 0 else s
  if s.lev.hold && s.scrapped then s.faultPin else s

/-- Step 5's alternative: failing basins are DISABLED. -/
def State.bootBasins (s : State) (alt : Bool) : Option State :=
  if s.rst.obs.failBasins % 256 = 0 then some s
  else if alt then some ((bitList s.rst.obs.failBasins 8).foldl (fun s b => s.setBasin b .disabled) s)
  else none

/-- Step 6 begins: the sources are enabled, and the boot waits for the first seed (R278). -/
def State.bootSpring (s : State) : State :=
  { s with
    spr := { s.spr with st := .startup, startAt := s.now }
    rst := { s.rst with waiting := true } }

/-- Step 7: the ledger is mounted and its journal takes this boot's record; without the always-on record, the last one of
the journal names the alternatives of steps 8 to 17 (R432); the derivations (R288). -/
def State.bootLedger (s : State) (alt : Bool) : State :=
  let alts := if s.ao.bootPrev.isSome then s.rst.alts
    else s.rst.alts ++ ((s.ledger.boots.head?.map BootRec.failed).getD []).filter fun n => 8 ≤ n
  let l := { s.ledger with readOnly := alt }
  let l := if alt then l
    else { l with boots := (s.ao.bootCur.toList ++ l.boots).take 64, total := satAdd 0xFFFF l.total 1 }
  State.derive { s with ledger := l, rst := { s.rst with alts := alts } }

/-- Step 8 (R399, R435): a pending transition is completed and the boot restarts at step 1; a TRIAL record without CONFIRM
is closed and a CONFIRM record's burn completed (R446); then JTAG may open (R402). It fails where the ledger takes no completion. -/
def State.bootResume (s : State) : Option State :=
  match s.resumeTrans with
  | some t =>
    if s.ledger.readOnly then none
    else
      let u := t.cleared
      some { u with rst := { u.rst with uncounted := true } }
  | none =>
    let s := if s.ledger.readOnly then s else { s with ledger := { s.ledger with trial := none } }
    let s := match s.ledger.confirmed with | some v => s.raiseTherm v | none => s
    some { s with lcs := { s.lcs with debugOpen := s.jtagOpens } }

/-- A slot that boot may run (R441). -/
def FwSlot.bootable (x : FwSlot) : Bool := x.st != .invalid && x.st != .belowFloor

/-- Step 9: the slot is selected, verified and measured (R246); an inactive VALID slot stands STAGED, so that it may be
armed (R447). -/
def State.bootSlot (s : State) (alt : Bool) : Option State :=
  let i := if alt then 1 - s.ledger.active else s.ledger.active
  let x := s.ledger.slot i
  let y := s.ledger.slot (1 - i)
  if !x.bootable then none
  else
    let ready : Bool := y.st == .valid
    let s := { s with fwu := { s.fwu with
      running := i, runSvn := x.svn, st := if ready then .staged else .idle, digest := if ready then y.digest else zeros 48 } }
    let s := (s.extendDev 0 (sha3_384 Config.romIdentity)).extendDev 0 (Config.imageDigest x.digest 1)
    some ((s.extendDev 1 (Config.imageDigest x.digest 2)).extendDev 2 (Config.imageDigest x.digest 3))

/-- Step 10: the patch is loaded into the control stores and measured; its alternative leaves ROM only. -/
def State.bootPatch (s : State) (alt : Bool) : State :=
  if alt then s
  else
    let x := s.ledger.slot s.fwu.running
    (s.loadPatch x).extendDev 2 (Config.imageDigest x.digest 4)

/-- Step 12: training; its alternative maps the failing pseudo-channel out, or lowers the pin rate. -/
def State.bootHbm (s : State) (alt : Bool) : Option State :=
  match s.rst.obs.failPch, alt with
  | none, false => some s
  | some _, false => none
  | some c, true => some { s with hbm := { s.hbm with mappedOut := some (c % 16) } }
  | none, true => some { s with hbm := { s.hbm with pinRate24 := true } }

/-- Step 13: HBM keys from the device DRBG, and a cover key whenever none is held (R278, R314, R416). -/
def State.bootKeys (s : State) : Option State :=
  if (s.drbg devInst).st ≠ .ready then none
  else
    let k := s.generate devInst 32
    let s := { k.2 with hbm := { k.2.hbm with keysValid := true, kMac := k.1 }, kst := { k.2.kst with vaultKey := true } }
    let s := (s.drawRegionKey (placeId .vault 64)).drawRegionKey (placeId .reserve 64)
    match s.ao.coverKey with
    | some _ => some s
    | none =>
      let r := s.generate devInst 64
      some { r.2 with ao := { r.2.ao with coverKey := some r.1, zeroised := false } }

/-- The units of a class that step 14 finds failing: those that fail their tests now, and those whose ROM word failed again on a
restart (R318). -/
def State.bootFails (s : State) (c : NodeClass) : Nat :=
  let o := s.rst.obs
  let seen := match c with
    | .pt => o.failPt | .ht => o.failHt | .bnu => o.failBnu | .cu => o.failCu | .cc => o.failCc | _ => 0
  ((List.range (classCount c)).filter fun i => (unitKeys c i).any fun k => (s.tile k).romBad).foldl (fun m i => m ||| 2 ^ i) seen

/-- Step 14: failing units are DISABLED by the alternative. -/
def State.bootUnits (s : State) (alt : Bool) : Option State :=
  if tileClasses.all fun c => s.bootFails c == 0 then some s
  else if alt then some { s with
    rst := { s.rst with disPt := s.bootFails .pt, disHt := s.bootFails .ht, disBnu := s.bootFails .bnu,
                        disCu := s.bootFails .cu, disCc := s.bootFails .cc }
    tiles := s.tiles.map fun (x : Nat × Tile) => (x.1, { x.2 with romBad := false }) }
  else none

/-- The next port of step 15 begins its training. -/
def State.trainNext (s : State) : State :=
  match s.rst.portsLeft with
  | [] => s
  | p :: _ => s.portGoes p .training 0

/-- Step 15 begins (R372): the ports train one at a time; by the alternative, those that faulted the controller stay
DOWN. -/
def State.bootPorts (s : State) (alt : Bool) : State :=
  let bad := if alt then s.ao.badPorts else []
  let s := bad.foldl (fun s p => s.portGoes p .down 0) s
  let ps := (List.range 8).filter fun p => !bad.contains p
  State.trainNext { s with
    rst := { s.rst with portsLeft := ps, waiting := !ps.isEmpty }
    ao := { s.ao with badPorts := [] } }

/-- Step 16: service is reached; the watchdog is armed and the cores leave their overlay (R337, R424, R433). -/
def State.bootService (s : State) : State :=
  let s := { s with
    rst := { s.rst with inService := true, wdtArmed := true, bootUs := min 0xFFFFFFFF (s.now / 1000) }
    ao := { s.ao with recent := 0 } }
  (List.range 16).foldl (fun s i => s.setCore i { (s.core i).idle with overlay := false }) s

/-- The work of a step, by its alternative or normally; none where it fails. -/
def State.bootWork (s : State) (n : Nat) (alt : Bool) : Option State :=
  match n with
  | 1 => some s.bootVote
  | 2 => some s.bootLevee
  | 3 => some (s.bootClocks alt)
  | 4 => s.bootPoint alt
  | 5 => s.bootBasins alt
  | 6 => some s.bootSpring
  | 7 => some (s.bootLedger alt)
  | 8 => s.bootResume
  | 9 => s.bootSlot alt
  | 10 => some (s.bootPatch alt)
  | 11 => some { s with rst := { s.rst with linkUp := true } }
  | 12 => s.bootHbm alt
  | 13 => s.bootKeys
  | 14 => s.bootUnits alt
  | 15 => some (s.bootPorts alt)
  | _ => some s.bootService

/-! ## SAFE_STANDBY, failures and order (R403, R431 to R434) -/

def State.reached (s : State) (n : Nat) : Bool := s.rst.outcomes.getD (n - 1) 0 == 1 || s.rst.outcomes.getD (n - 1) 0 == 2

/-- R434: step 3 by its alternative if it has not completed, then step 11, and nothing else. -/
def State.safeStandby (s : State) : State :=
  let s := if s.reached 3 then s else ((s.bootClocks true).stepOutcome 3 2)
  let s := s.stepOutcome 11 1
  ({ s with rst := { s.rst with safeStandby := true, waiting := false, linkUp := true, step := 11 } }).faultPin

/-- A mandatory patch has no alternative (R431). -/
def State.hasAlt (s : State) (n : Nat) : Bool :=
  altSteps.contains n && !(n == 10 && (s.ledger.slot s.fwu.running).mandatory)

/-- A step fails (R431, R433). -/
def State.stepFails (s : State) (n : Nat) (alt : Bool) : State :=
  let s := State.stepOutcome { s with rst := { s.rst with waiting := false } } n 3
  if s.hasAlt n then
    if alt || 3 ≤ s.ao.recent then s.safeStandby else s.deviceReset causeBootRetry
  else if s.rst.retried.contains n then s.safeStandby
  else { s with rst := { s.rst with retried := s.rst.retried ++ [n] } }

/-- A step is done: its outcome is recorded before the next one starts. SCRAPPED runs steps 1, 2, 3 and 11 only, and a
pending FENCE or HALT stops the boot after step 11 (R403, R417). -/
def State.stepDone (s : State) (n : Nat) (alt : Bool) : State :=
  let s := s.stepOutcome n (if alt then 2 else 1)
  let s := { s with rst := { s.rst with altUsed := s.rst.altUsed || alt, waiting := false } }
  if s.scrapped && n = 11 then { s with rst := { s.rst with waiting := true } }
  else if s.lev.hold && n = 11 then s.safeStandby
  else { s with rst := { s.rst with step := if s.scrapped && n = 3 then 11 else n + 1 } }

/-- The boot has stopped or waits for what a later command brings. -/
def State.bootStopped (s : State) : Bool := s.rst.inReset || s.rst.safeStandby || s.rst.inService || s.rst.waiting

/-- Does the step running now exceed its time or fail its check in this try? Without REFCLK_H the boot does not pass
step 3 (R472). -/
def State.stepFailsNow (s : State) (n : Nat) : Bool :=
  bitOf (if s.rst.retried.contains n then s.rst.obs.failAgain else s.rst.obs.failSteps) n ||
    (n == 3 && !s.rst.obs.refclkOk)

/-- Runs boot steps until the boot has stopped or waits; at most 16 steps and their retries. -/
def State.bootRun : Nat → State → State
  | 0, s => s
  | fuel + 1, s =>
    if s.bootStopped then s
    else
      let n := s.rst.step
      let alt : Bool := s.rst.alts.contains n && s.hasAlt n
      if s.stepFailsNow n then State.bootRun fuel (s.stepFails n alt)
      else
        match s.bootWork n alt with
        | none => State.bootRun fuel (s.stepFails n alt)
        | some t => State.bootRun fuel (if t.bootStopped && !t.rst.inService then t else t.stepDone n alt)

def bootFuel : Nat := 40

/-- The record of the boot that starts (R432); the previous boot's record names the alternatives. -/
def State.bootBegin (s : State) (obs : BootObs) : State :=
  let prev := s.ao.bootCur
  let last := (prev.orElse fun _ => s.ledger.boots.head?).map BootRec.no
  let rec_ : BootRec := { no := last.getD 0 + 1, cause := s.ao.cause, steps := List.replicate 17 0 }
  { s with
    now := 0
    rst := { s.rst with
      inReset := false, resetN := false, perstN := false, uncounted := false, obs := obs, step := 1,
      alts := (prev.map BootRec.failed).getD [] }
    ao := { s.ao with
      bootPrev := prev, bootCur := some rec_, base := s.ao.base + s.now,
      recent := if s.rst.uncounted then s.ao.recent else min 3 (s.ao.recent + 1) } }

/-- The last reset input is released and the Headwater core runs the boot steps in order. -/
def State.bootStart (s : State) (obs : BootObs) : State :=
  if !s.rst.inReset || !s.rst.pwrgood || (s.rst.resetN && s.rst.perstN) then s
  else (s.bootBegin obs).bootRun bootFuel

def execBootStart (obs : BootObs) (s : State) : Host.Outcome State Fault Refusal := .next (s.bootStart obs)

/-- The boot goes on after a step it has waited in. -/
def State.bootOn (s : State) (n : Nat) : State :=
  (s.stepDone n (s.rst.alts.contains n)).bootRun bootFuel

/-- The step that waits exceeds its time. In step 15 the port that was training has faulted the controller. -/
def State.stepTimeout (s : State) (n : Nat) : State :=
  if !s.rst.waiting || s.rst.step ≠ n || s.scrapped then s
  else
    let s := if n = 15 then { s with ao := { s.ao with badPorts := s.rst.portsLeft.take 1 } } else s
    (s.stepFails n (s.rst.alts.contains n)).bootRun bootFuel

def execBootStepTimeout (step : Nat) (s : State) : Host.Outcome State Fault Refusal := .next (s.stepTimeout step)

/-- The start-up test ends (R267, R278): the first seeds, the device DRBG and RUNNING. A failing source is excluded only by
the alternative, and only if three pass. -/
def State.firstSeed (s : State) (rates : List Nat) (failed : Nat) (raw : Bytes) : State :=
  let x := s.spr.start rates failed raw
  let f := x.failed
  let alt := s.rst.alts.contains 6
  if (f != 0 && !(alt && popCount f 4 ≤ 1)) || x.outs.length < 2 then (s.stepFails 6 alt).bootRun bootFuel
  else
    let s := { s with spr := { x.spr with
      seeds := x.outs.take 64, st := .running, seedUs := (s.now - s.spr.startAt) / 1000 } }
    ((s.startDrbg devInst s.devicePers).raiseExcluded f).bootOn 6

def execSpringFirstSeed (rates : List Nat) (failed : Nat) (raw : Bytes) (s : State) :
    Host.Outcome State Fault Refusal :=
  .next (if s.rst.waiting && s.rst.step = 6 && !s.rst.inReset then s.firstSeed rates failed raw else s)

/-- A port of step 15 has trained or failed; the next one follows, and after the last one the boot goes on. -/
def State.bootPort (s : State) (p lanes : Nat) : State :=
  if s.rst.portsLeft.head? = some p then
    let s := s.portTrained p lanes
    let s := { s with rst := { s.rst with portsLeft := s.rst.portsLeft.drop 1 } }
    if s.rst.portsLeft.isEmpty then s.bootOn 15 else s.trainNext
  else s

def execPortTrainingDone (port lanes : Nat) (s : State) : Host.Outcome State Fault Refusal :=
  engineCmd s (if s.rst.waiting && s.rst.step = 15 then s.bootPort port lanes else s.portTrained port lanes)

end Sys2Proof.Machine
end

