-- ==== Sys2Proof/Machine/HashSig.lean ====
section
/-! DEFINITION. The stateful hash-based signatures as SP 800-208 and the standards under it define them (R174 to R180, log
entry 22): LMS and HSS (RFC 8554), XMSS and XMSS^MT (RFC 8391). -/

namespace Sys2Proof.Machine

open Sys2Proof

/-! ## LMS -/

/-- The hash of a row of R174: SHA-256, SHA-256/192, SHAKE256, SHAKE256/192. -/
def lmsHash (k : Nat) (m : Bytes) : Bytes :=
  match k with
  | 0 => sha256 m
  | 1 => (sha256 m).take 24
  | 2 => shake256 m 32
  | _ => shake256 m 24

/-- One tree's parameters: both typecodes, the hash, n, the height, the digit width and the chains. -/
structure LmsSet where
  tree : Nat
  ots : Nat
  hash : Nat
  n : Nat
  tall : Nat
  digit : Nat
  chains : Nat
  deriving DecidableEq, Repr

/-- The parameters of a pair of typecodes, none when a code is not supported or the two name different hashes (R174). -/
def lmsSet (tree ots : Nat) : Option LmsSet :=
  match lmsInfo tree, otsInfo ots with
  | some a, some b =>
    if a.1 != b.1 || a.2.1 != b.2.1 then none
    else some
      { tree := tree, ots := ots, hash := b.1, n := b.2.1, tall := a.2.2, digit := 2 ^ ((ots - 1) % 4), chains := b.2.2 }
  | _, _ => none

/-- A tree's key: I and SEED. -/
structure LmsKey where
  set : LmsSet
  ident : Bytes
  seed : Bytes
  deriving DecidableEq, Repr

/-- Digits of a digest and of its checksum, the latter shifted to the top of 16 bits. -/
def LmsSet.digits (p : LmsSet) (q : Bytes) : List Nat :=
  let take (bs : Bytes) (bits i : Nat) : Nat := beNat bs / 2 ^ (bits - p.digit * (i + 1)) % 2 ^ p.digit
  let u := 8 * p.n / p.digit
  let ds := (List.range u).map (take q (8 * p.n))
  let rest := p.chains - u
  let sum := (ds.map fun d => 2 ^ p.digit - 1 - d).sum * 2 ^ (16 - rest * p.digit)
  ds ++ (List.range rest).map (take (toBe 2 sum) 16)

/-- A chain from position `j` on. -/
def LmsSet.walk (p : LmsSet) (head : Bytes) : Nat → Nat → Bytes → Bytes
  | 0, _, m => m
  | k + 1, j, m => p.walk head k (j + 1) (lmsHash p.hash (head ++ toBe 1 j ++ m))

def lmsOtsHead (ident : Bytes) (q i : Nat) : Bytes := ident ++ toBe 4 q ++ toBe 2 i

/-- The secret start of chain `i` of leaf `q` (SP 800-208). -/
def LmsKey.start (x : LmsKey) (q i : Nat) : Bytes :=
  lmsHash x.set.hash (lmsOtsHead x.ident q i ++ [0xFF] ++ x.seed)

def LmsSet.otsKey (p : LmsSet) (ident : Bytes) (q : Nat) (ends : List Bytes) : Bytes :=
  lmsHash p.hash (ident ++ toBe 4 q ++ [0x80, 0x80] ++ ends.flatten)

def LmsKey.otsPub (x : LmsKey) (q : Nat) : Bytes :=
  x.set.otsKey x.ident q ((List.range x.set.chains).map fun i =>
    x.set.walk (lmsOtsHead x.ident q i) (2 ^ x.set.digit - 1) 0 (x.start q i))

def LmsSet.message (p : LmsSet) (ident : Bytes) (q : Nat) (c m : Bytes) : Bytes :=
  lmsHash p.hash (ident ++ toBe 4 q ++ [0x81, 0x81] ++ c ++ m)

/-- A leaf and an inner node, numbered from 1 at the root. -/
def LmsSet.leaf (p : LmsSet) (ident : Bytes) (r : Nat) (k : Bytes) : Bytes :=
  lmsHash p.hash (ident ++ toBe 4 r ++ [0x82, 0x82] ++ k)
def LmsSet.inner (p : LmsSet) (ident : Bytes) (r : Nat) (m : Bytes) : Bytes :=
  lmsHash p.hash (ident ++ toBe 4 r ++ [0x83, 0x83] ++ m)

/-- The node `r` with `z` levels below it. -/
def LmsKey.node (x : LmsKey) : Nat → Nat → Bytes
  | 0, r => x.set.leaf x.ident r (x.otsPub (r - 2 ^ x.set.tall))
  | z + 1, r => x.set.inner x.ident r (x.node z (2 * r) ++ x.node z (2 * r + 1))

def LmsKey.root (x : LmsKey) : Bytes := x.node x.set.tall 1

/-- R175: type, OTS type, I, root. -/
def LmsKey.pub (x : LmsKey) : Bytes := toBe 4 x.set.tree ++ toBe 4 x.set.ots ++ x.ident ++ x.root

/-- R175: q, the one-time signature with its randomizer, the tree's type, the path. -/
def LmsKey.sign (x : LmsKey) (q : Nat) (m : Bytes) : Bytes :=
  let p := x.set
  let c := fit p.n (Config.lmsRandomizer x.ident x.seed q)
  let y := ((List.range p.chains).zip (p.digits (p.message x.ident q c m))).flatMap fun d =>
    p.walk (lmsOtsHead x.ident q d.1) d.2 0 (x.start q d.1)
  let path := (List.range p.tall).flatMap fun z => x.node z (Nat.xor ((2 ^ p.tall + q) / 2 ^ z) 1)
  toBe 4 q ++ toBe 4 p.ots ++ c ++ y ++ toBe 4 p.tree ++ path

/-- The root that a leaf's node and its siblings lead to. -/
def LmsSet.climb (p : LmsSet) (ident : Bytes) : Nat → Nat → Bytes → Bytes → Bytes
  | 0, _, m, _ => m
  | k + 1, r, m, path =>
    p.climb ident k (r / 2)
      (p.inner ident (r / 2) (if r % 2 = 0 then m ++ path.take p.n else path.take p.n ++ m)) (path.drop p.n)

/-- The parameters that a public key's type fields name. -/
def lmsPubSet (pub : Bytes) : Option LmsSet := lmsSet (beNat (pub.take 4)) (beNat (slice pub 4 4))

/-- Length of one tree's signature and of its public key. -/
def LmsSet.sigLen (p : LmsSet) : Nat := (lmsSizes p.n p.tall p.chains).1
def LmsSet.pubLen (p : LmsSet) : Nat := (lmsSizes p.n p.tall p.chains).2

/-- One tree accepts a signature: its type fields are the key's, its leaf exists, and its path ends at the root. -/
def lmsAccepts (pub m sig : Bytes) : Bool :=
  match lmsPubSet pub with
  | none => false
  | some p =>
    let ident := slice pub 8 16
    let q := beNat (sig.take 4)
    let c := slice sig 8 p.n
    let y := (List.range p.chains).zip (p.digits (p.message ident q c m))
    let ends := y.map fun d =>
      p.walk (lmsOtsHead ident q d.1) (2 ^ p.digit - 1 - d.2) d.2 (slice sig (8 + p.n * (d.1 + 1)) p.n)
    let behind := sig.drop (8 + p.n * (p.chains + 1))
    sig.length == p.sigLen && pub.length == p.pubLen && beNat (slice sig 4 4) == p.ots && q < 2 ^ p.tall &&
      beNat (behind.take 4) == p.tree &&
      p.climb ident p.tall (2 ^ p.tall + q) (p.leaf ident (2 ^ p.tall + q) (p.otsKey ident q ends)) (behind.drop 4) ==
        pub.drop 24

/-! ## HSS -/

/-- The key of level `l` on the way to index `i`: the key's own at the top, below it one derived from the seed and the
indices above (R176); how is not stated (log entry 22). -/
def hssKey (p : LmsSet) (ident seed : Bytes) (levels i l : Nat) : LmsKey :=
  if l = 0 then { set := p, ident := ident, seed := seed }
  else
    let x := Config.hssChild (ident ++ seed) l (i / 2 ^ (p.tall * (levels - l)))
    { set := p, ident := fit 16 x, seed := fit p.n (x.drop 16) }

/-- R175: Nspk, each upper tree's signature of the public key below it, the signature of the message. -/
def hssSign (p : LmsSet) (ident seed : Bytes) (levels i : Nat) (m : Bytes) : Bytes :=
  let key := hssKey p ident seed levels i
  let leaf (l : Nat) : Nat := i / 2 ^ (p.tall * (levels - 1 - l)) % 2 ^ p.tall
  toBe 4 (levels - 1) ++
    ((List.range (levels - 1)).flatMap fun l => (key l).sign (leaf l) (key (l + 1)).pub ++ (key (l + 1)).pub) ++
    (key (levels - 1)).sign (leaf (levels - 1)) m

/-- Down the levels: each signature is parsed by its key's type fields, and the public key behind it by its own. -/
def hssDescend (m : Bytes) : Nat → Bytes → Bytes → Bool
  | 0, pub, sig => lmsAccepts pub m sig
  | k + 1, pub, sig =>
    match lmsPubSet pub with
    | none => false
    | some p =>
      let behind := sig.drop p.sigLen
      match lmsPubSet behind with
      | none => false
      | some c => lmsAccepts pub (behind.take c.pubLen) (sig.take p.sigLen) &&
          hssDescend m k (behind.take c.pubLen) (behind.drop c.pubLen)

def hssAccepts (pub m sig : Bytes) : Bool :=
  let levels := beNat (pub.take 4)
  1 ≤ levels && levels ≤ 8 && beNat (sig.take 4) + 1 == levels && hssDescend m (levels - 1) (pub.drop 4) (sig.drop 4)

/-! ## XMSS and XMSS^MT -/

/-- Hash family, n, total height and layers. -/
structure XmssSet where
  shake : Bool
  n : Nat
  tall : Nat
  layers : Nat
  deriving DecidableEq, Repr

/-- The set of an OID: SHA2 in the first half of R179's ranges, SHAKE256 in the second. -/
def xmssSet (mt : Bool) (oid : Nat) : Option XmssSet :=
  (if mt then xmssMtInfo oid else xmssInfo oid).map fun x =>
    { shake := if mt then 0x29 ≤ oid else 0x10 ≤ oid, n := x.1, tall := x.2.1, layers := x.2.2 }

def XmssSet.chains (p : XmssSet) : Nat := 2 * p.n + 3
def XmssSet.each (p : XmssSet) : Nat := p.tall / p.layers

/-- The five functions of SP 800-208 by their number: F, H, H_msg, PRF, PRF_keygen. -/
def XmssSet.keyed (p : XmssSet) (f : Nat) (key m : Bytes) : Bytes :=
  let x := toBe (if p.n = 32 then 32 else 4) f ++ key ++ m
  if p.shake then shake256 x p.n else (sha256 x).take p.n

/-- An address: layer, tree, type, and its four last words. -/
structure XmssAdrs where
  layer : Nat
  tree : Nat
  kind : Nat
  a : Nat
  b : Nat
  c : Nat
  mask : Nat
  deriving DecidableEq, Repr

def XmssAdrs.bytes (x : XmssAdrs) : Bytes :=
  toBe 4 x.layer ++ toBe 8 x.tree ++ ([x.kind, x.a, x.b, x.c, x.mask].flatMap (toBe 4))

/-- The set with SEED, which masks every hash. -/
structure XmssCtx where
  set : XmssSet
  seed : Bytes
  deriving DecidableEq, Repr

def XmssCtx.prf (x : XmssCtx) (ad : XmssAdrs) (mask : Nat) : Bytes := x.set.keyed 3 x.seed { ad with mask := mask }.bytes

/-- One step of a chain, and a masked hash of two nodes. -/
def XmssCtx.step (x : XmssCtx) (ad : XmssAdrs) (m : Bytes) : Bytes :=
  x.set.keyed 0 (x.prf ad 0) (xorBytes m (x.prf ad 1))
def XmssCtx.pair (x : XmssCtx) (ad : XmssAdrs) (l r : Bytes) : Bytes :=
  x.set.keyed 1 (x.prf ad 0) (xorBytes l (x.prf ad 1) ++ xorBytes r (x.prf ad 2))

def XmssCtx.walk (x : XmssCtx) (ad : XmssAdrs) : Nat → Nat → Bytes → Bytes
  | 0, _, m => m
  | k + 1, i, m => x.walk ad k (i + 1) (x.step { ad with c := i } m)

/-- One level of an L-tree: pairs are hashed, an odd last node moves up. -/
def XmssCtx.fold (x : XmssCtx) (ad : XmssAdrs) (z : Nat) : Nat → List Bytes → List Bytes
  | i, l :: r :: more => x.pair { ad with b := z, c := i } l r :: x.fold ad z (i + 1) more
  | _, rest => rest

def XmssCtx.ltree (x : XmssCtx) (ad : XmssAdrs) (ends : List Bytes) : Bytes :=
  ((List.range 8).foldl (fun ns z => x.fold { ad with kind := 1 } z 0 ns) ends).headD []

def xmssDigits (m : Bytes) : List Nat :=
  let ds := m.flatMap fun b => [b.toNat / 16, b.toNat % 16]
  let sum := (ds.map fun d => 15 - d).sum
  ds ++ [sum / 256 % 16, sum / 16 % 16, sum % 16]

/-- The secret start of a chain (SP 800-208). -/
def XmssCtx.start (x : XmssCtx) (sk : Bytes) (ad : XmssAdrs) (i : Nat) : Bytes :=
  x.set.keyed 4 sk (x.seed ++ { ad with kind := 0, b := i, c := 0, mask := 0 }.bytes)

/-- The leaf of a one-time key: `ad` names layer, tree and leaf. -/
def XmssCtx.leaf (x : XmssCtx) (sk : Bytes) (ad : XmssAdrs) : Bytes :=
  x.ltree ad ((List.range x.set.chains).map fun i => x.walk { ad with b := i } 15 0 (x.start sk ad i))

def xmssSpot (layer tree leaf : Nat) : XmssAdrs :=
  { layer := layer, tree := tree, kind := 0, a := leaf, b := 0, c := 0, mask := 0 }

/-- The node `i` at height `z` of a tree. -/
def XmssCtx.node (x : XmssCtx) (sk : Bytes) (layer tree : Nat) : Nat → Nat → Bytes
  | 0, i => x.leaf sk (xmssSpot layer tree i)
  | z + 1, i =>
    x.pair { xmssSpot layer tree 0 with kind := 2, b := z, c := i }
      (x.node sk layer tree z (2 * i)) (x.node sk layer tree z (2 * i + 1))

/-- The one-time signature of a leaf and its path. -/
def XmssCtx.treeSign (x : XmssCtx) (sk : Bytes) (layer tree i : Nat) (m : Bytes) : Bytes :=
  let ad := xmssSpot layer tree i
  (((List.range x.set.chains).zip (xmssDigits m)).flatMap fun d =>
    x.walk { ad with b := d.1 } d.2 0 (x.start sk ad d.1)) ++
  (List.range x.set.each).flatMap fun z => x.node sk layer tree z (Nat.xor (i / 2 ^ z) 1)

def XmssCtx.climb (x : XmssCtx) (layer tree : Nat) : Nat → Nat → Nat → Bytes → Bytes → Bytes
  | 0, _, _, m, _ => m
  | k + 1, z, i, m, path =>
    let ad := { xmssSpot layer tree 0 with kind := 2, b := z, c := i / 2 }
    let s := path.take x.set.n
    x.climb layer tree k (z + 1) (i / 2) (if i % 2 = 0 then x.pair ad m s else x.pair ad s m) (path.drop x.set.n)

/-- The root that a tree's signature of `m` leads to. -/
def XmssCtx.treeFrom (x : XmssCtx) (layer tree i : Nat) (m sig : Bytes) : Bytes :=
  let ad := xmssSpot layer tree i
  let n := x.set.n
  let ends := ((List.range x.set.chains).zip (xmssDigits m)).map fun d =>
    x.walk { ad with b := d.1 } (15 - d.2) d.2 (slice sig (d.1 * n) n)
  x.climb layer tree x.set.each 0 i (x.ltree ad ends) (sig.drop (x.set.chains * n))

/-- Tree and leaf of a layer on the way to an index. -/
def XmssSet.spot (p : XmssSet) (i layer : Nat) : Nat × Nat :=
  (i / 2 ^ (p.each * (layer + 1)), i / 2 ^ (p.each * layer) % 2 ^ p.each)

/-- The parts of a clear encoding behind the OID (R300): SK_SEED, SK_PRF, SEED. -/
def xmssRootOf (p : XmssSet) (seeds : Bytes) : Bytes :=
  let x : XmssCtx := { set := p, seed := slice seeds (2 * p.n) p.n }
  x.node (seeds.take p.n) (p.layers - 1) 0 p.each 0

/-- Bytes of the index at the head of a signature (R180). -/
def XmssSet.idxLen (p : XmssSet) (mt : Bool) : Nat := if mt then ceilDiv p.tall 8 else 4

/-- R180: index, randomizer, and for each layer the signature of the root below it. -/
def xmssSignature (mt : Bool) (p : XmssSet) (parts root : Bytes) (i : Nat) (m : Bytes) : Bytes :=
  let n := p.n
  let x : XmssCtx := { set := p, seed := slice parts (2 * n) n }
  let sk := parts.take n
  let r := p.keyed 3 (slice parts n n) (toBe 32 i)
  let md := p.keyed 2 (r ++ root ++ toBe n i) m
  toBe (p.idxLen mt) i ++ r ++ (List.range p.layers).flatMap fun l =>
    let t := p.spot i l
    x.treeSign sk l t.1 t.2 (if l = 0 then md else x.node sk (l - 1) (p.spot i (l - 1)).1 p.each 0)

def xmssAccepts (mt : Bool) (pub m sig : Bytes) : Bool :=
  match xmssSet mt (beNat (pub.take 4)) with
  | none => false
  | some p =>
    let n := p.n
    let x : XmssCtx := { set := p, seed := slice pub (4 + n) n }
    let i := beNat (sig.take (p.idxLen mt))
    let body := sig.drop (p.idxLen mt)
    let md := p.keyed 2 (body.take n ++ slice pub 4 n ++ toBe n i) m
    let w := (p.chains + p.each) * n
    let root := (List.range p.layers).foldl (fun m l =>
      let t := p.spot i l
      x.treeFrom l t.1 t.2 m (slice (body.drop n) (w * l) w)) md
    sig.length == xmssSigLen mt n p.tall p.layers && pub.length == 4 + 2 * n && i < 2 ^ p.tall && root == slice pub 4 n

end Sys2Proof.Machine
end

