-- ==== Sys2Proof/Machine/JobRun.lean ====
section
/-! DEFINITION. How an operation's result becomes the end of its job: the point at which its routine commits (R128,
R203), the key it loads (R183), its inputs (R163), and the slot it writes (R168, R201, R290, R314). -/

namespace Sys2Proof.Machine

open Sys2Proof

/-- What an operation answers: a status with its DETAIL, the output, and a slot it writes. -/
structure OpOut where
  st : Status
  detail : Nat
  out : Bytes
  put : Option (Nat × Slot)
  deriving DecidableEq, Repr

def OpOut.fail (st : Status) (detail : Nat) : OpOut := { st := st, detail := detail, out := [], put := none }
def OpOut.ok (out : Bytes) : OpOut := { st := .ok, detail := 0, out := out, put := none }
def OpOut.okDetail (out : Bytes) (d : Nat) : OpOut := { st := .ok, detail := d, out := out, put := none }
def OpOut.verdict (b : Bool) : OpOut := { st := if b then .ok else .verifyFalse, detail := 0, out := [], put := none }
def OpOut.pointInvalid : OpOut := OpOut.fail .pointInvalid 17

/-- Is the result past its commit point: a success, or the verdict VERIFY_FALSE of a verification (R203)? -/
def OpOut.commits (r : OpOut) : Bool := r.st.success || r.st == .verifyFalse

/-- The job's output node runs, or the operation has no node (R128, R200). -/
def Job.outputReady (j : Job) : Bool :=
  j.nodes.isEmpty || j.nodes.any fun n => n.info.output && (match n.st with | .running _ | .done => true | _ => false)

/-- The bytes a drawing operation needs have come, or its fallback (R141, R160). -/
def State.randomReady (s : State) (j : Job) : Bool :=
  match s.opOfJob j with
  | some (o, v) => (o.draws v j.param).isNone || j.entropy == .delivered || j.entropy == .fallback
  | none => false

/-- A tile that runs masked work of the job waits for masking randomness (R37, R157, R217, R275). -/
def State.throttled (s : State) (j : Job) : Bool :=
  s.tiles.any fun x => x.2.throttled && x.2.node.any fun n => n.1 == j.id

/-- Does the operation's routine run: its lengths have agreed (R104), its randomness has come, and its tile does not stall? -/
def State.mayStart (s : State) (j : Job) (o : Op) : Bool :=
  s.isOp j o && j.st == .running && j.status.isNone && j.inDone && j.outputReady && s.randomReady j && !s.throttled j

/-- May the operation's routine run to its result now? -/
def State.mayRun (s : State) (j : Job) (o : Op) : Bool := s.mayStart j o && j.inputReady

/-- A successful or FALSE result commits, writes its slot and ends the job; any other ends it before its commit point. -/
def State.applyOut (s : State) (j : Job) (r : OpOut) : State :=
  if r.commits then
    let s := s.setJob { j with committed := true, output := r.out }
    let s := match r.put with
      | some (n, x) => s.writeSlot n x
      | none => s
    s.endJob j.id r.st r.detail
  else s.endJob j.id r.st r.detail

/-- The output node's routine draws its masking randomness before it goes on with `f` (R217, R258); where it cannot, it
stalls. -/
def State.masked (s : State) (j : Job) (f : State → Job → State) : State :=
  match j.nodes.findIdx? fun n => n.info.output with
  | none => f s j
  | some i =>
    let r := s.nodeMasks j.id i
    if r.1 then
      match r.2.job j.id with
      | some j => f r.2 j
      | none => r.2
    else r.2

/-- Runs an operation that uses no key: `f` gets the variant. -/
def State.runPlain (s : State) (id : Nat) (o : Op) (f : Job → Nat → OpOut) : State :=
  match s.job id with
  | none => s
  | some j =>
    match s.opOfJob j with
    | some (_, v) => if s.mayRun j o then s.masked j fun s j => s.applyOut j (f j v) else s
    | none => s

/-- The public value of an agreement's input is valid (R190, R199). -/
def peerValueOk (o : Op) (v : Nat) (j : Job) : Bool :=
  match o with
  | .agree => ecPublicOk v j.input
  | .hybridDecaps => ecPublicOk (hybParts v).2 (j.input.drop (mlKemSizes (hybParts v).1).2.2)
  | _ => true

/-- The key of a job whose routine comes to it: after the validation of the public value where the routine begins with one
(R260). -/
def State.reachKey (s : State) (j : Job) (o : Op) (v : Nat) : State :=
  if peerValueOk o v j then s.takeKey j.id else s.endJob j.id .pointInvalid 17

/-- Runs an operation on its key slot when KEY_VALID names one: `f` gets the variant and the slot. -/
def State.runKeyed (s : State) (id : Nat) (o : Op) (f : Job → Nat → Option Slot → OpOut) : State :=
  match s.job id with
  | none => s
  | some j =>
    match s.opOfJob j with
    | none => s
    | some (_, v) =>
      if !s.mayRun j o then s
      else if !j.entry.keyValid then s.masked j fun s j => s.applyOut j (f j v none)
      else
        match j.keyCopy with
        | none => s.reachKey j o v
        | some x => s.masked j fun s j => s.applyOut j (f j v (some x))

/-- Runs an operation that reads its slot and loads no key material: the slot as it stands at the commit (R183, R297). -/
def State.runSlot (s : State) (id : Nat) (o : Op) (f : Job → Slot → OpOut) : State :=
  match s.job id with
  | none => s
  | some j =>
    let x := s.slot j.entry.slot
    if !s.mayRun j o then s
    else if j.keyGone || x.st != .live then s.endJob id .keySlotEmpty 0
    else s.applyOut j (f j x)

/-- The COMMIT of a job's first OUTPUT node whose post-commit section goes on: a stream (R126, R203), the record write of a
stateful KeyGen (R177). -/
def State.streamCommit (s : State) (j : Job) : State :=
  let s := s.setJob { j with committed := true }
  match j.nodes.findIdx? fun n => n.info.output with
  | none => s
  | some i => { s with tiles := s.tiles.map fun (x : Nat × Tile) =>
      if x.2.node = some (j.id, i) then (x.1, { x.2 with seqr := { x.2.seqr with committed := true } }) else x }

/-- Runs an operation that commits before its first output block (R203): it may commit when its lengths have agreed (R104),
before its whole input has come. -/
def State.runStream (s : State) (id : Nat) (o : Op) (f : Job → Nat → Option Slot → OpOut) : State :=
  match s.job id with
  | none => s
  | some j =>
    if s.mayStart j o && !j.committed && !j.inputReady && j.keyCopy.isSome then s.masked j State.streamCommit
    else s.runKeyed id o f

/-! ## Slots that operations write -/

def keyIdOf (t : Nat) (pub : Bytes) : Bytes := if 0x20 ≤ t then zeros 16 else (sha3_256 pub).take 16

/-- A LIVE slot of a word and its two encodings. -/
def newSlot (w : BitVec 64) (mat pub : Bytes) (home : Nat) : Slot :=
  { Slot.reset with st := .live, attr := w, mat := mat, pub := pub, keyId := keyIdOf (attrType w) pub, homeDev := home }

/-- A key pair generated into the job's slot: the public key is the output (R162, R163). -/
def State.keygenOut (s : State) (j : Job) (mat pub : Bytes) (detail : Nat) : OpOut :=
  { st := .ok, detail := detail, out := pub,
    put := some (j.entry.slot, newSlot (s.slot j.entry.slot).attr mat pub 0) }

/-- R201: NEVER_EXPORTABLE is forced on by a source key that may not be exported in the clear. -/
def derivedAttr (w : BitVec 64) (src : Option Slot) : BitVec 64 :=
  match src with
  | some x => if attrNeverExport x.attr || !attrExportable x.attr then attrAdd w 33 else w
  | none => w

/-- A secret result: into DEST_SLOT with TO_SLOT, else behind `pre` in the output (R168, R201). -/
def State.secretOut (s : State) (j : Job) (pre secret : Bytes) (src : Option Slot) : OpOut :=
  if pToSlot j.param then
    let n := pDest j.param
    { st := .ok, detail := 0, out := pre,
      put := some (n, newSlot (derivedAttr (s.slot n).attr src) secret [] 0) }
  else OpOut.ok (pre ++ secret)

/-- What a commits-on-fallback signature ends with (R160). -/
def signOut (j : Job) (sig : Bytes) (detail : Nat) : OpOut :=
  { st := if j.entropy = .fallback then .okDeterministicFallback else .ok, detail := detail, out := sig, put := none }

end Sys2Proof.Machine
end

