-- ==== Sys2Proof/Machine/SlhDsa.lean ====
section
/-! DEFINITION. SLH-DSA as FIPS 205 defines it (R172, R173, log entry 22). Variants 0 to 5 use SHA-2, 6 to 11 SHAKE. -/

namespace Sys2Proof.Machine

open Sys2Proof

/-- n, the layers, the height of one tree, the height and the number of FORS trees. -/
structure SlhSet where
  sha2 : Bool
  n : Nat
  layers : Nat
  tall : Nat
  forsTall : Nat
  fors : Nat
  deriving DecidableEq, Repr

def slhSet (v : Nat) : SlhSet :=
  let d (n layers tall forsTall fors : Nat) : SlhSet := { sha2 := v < 6, n, layers, tall, forsTall, fors }
  match v % 6 with
  | 0 => d 16 7 9 12 14 | 1 => d 16 22 3 6 33 | 2 => d 24 7 9 14 17 | 3 => d 24 22 3 8 33 | 4 => d 32 8 8 14 22
  | _ => d 32 17 4 9 35

/-- Height of the hypertree, bytes of a message digest, and chains of one WOTS+ key. -/
def SlhSet.height (p : SlhSet) : Nat := p.layers * p.tall
def SlhSet.mdLen (p : SlhSet) : Nat := ceilDiv (p.fors * p.forsTall) 8
def SlhSet.digestLen (p : SlhSet) : Nat :=
  p.mdLen + ceilDiv (p.height - p.tall) 8 + ceilDiv p.tall 8
def SlhSet.chains (p : SlhSet) : Nat := 2 * p.n + 3

/-- An address: layer, tree, type, and its three last words. -/
structure SlhAdrs where
  layer : Nat
  tree : Nat
  kind : Nat
  a : Nat
  b : Nat
  c : Nat
  deriving DecidableEq, Repr

/-- 32 bytes, or the 22 compressed ones of the SHA-2 sets. -/
def SlhAdrs.bytes (x : SlhAdrs) (short : Bool) : Bytes :=
  let tail := toBe 4 x.a ++ toBe 4 x.b ++ toBe 4 x.c
  if short then toBe 1 x.layer ++ toBe 8 x.tree ++ toBe 1 x.kind ++ tail
  else toBe 4 x.layer ++ toBe 12 x.tree ++ toBe 4 x.kind ++ tail

/-- The set with the public seed: what every tree computation needs. -/
structure SlhCtx where
  set : SlhSet
  seed : Bytes
  deriving DecidableEq, Repr

/-- The tweaked hash of a message; `wide` picks SHA-512 in the larger SHA-2 sets. -/
def SlhCtx.tweak (x : SlhCtx) (wide : Bool) (ad : SlhAdrs) (m : Bytes) : Bytes :=
  let p := x.set
  if !p.sha2 then shake256 (x.seed ++ ad.bytes false ++ m) p.n
  else if wide && p.n != 16 then (sha512 (x.seed ++ zeros (128 - p.n) ++ ad.bytes true ++ m)).take p.n
  else (sha256 (x.seed ++ zeros (64 - p.n) ++ ad.bytes true ++ m)).take p.n

/-- Hash of one block, and of more; PRF is the former on SK.seed. -/
def SlhCtx.one (x : SlhCtx) (ad : SlhAdrs) (m : Bytes) : Bytes := x.tweak false ad m
def SlhCtx.many (x : SlhCtx) (ad : SlhAdrs) (m : Bytes) : Bytes := x.tweak true ad m

/-! ## WOTS+ -/

/-- `steps` applications along a chain from position `i`. -/
def SlhCtx.walk (x : SlhCtx) (ad : SlhAdrs) : Nat → Nat → Bytes → Bytes
  | 0, _, m => m
  | k + 1, i, m => x.walk ad k (i + 1) (x.one { ad with c := i } m)

/-- The base-16 digits of a message and of its checksum. -/
def wotsDigits (m : Bytes) : List Nat :=
  let ds := m.flatMap fun b => [b.toNat / 16, b.toNat % 16]
  let sum := (ds.map fun d => 15 - d).sum
  ds ++ [sum / 256 % 16, sum / 16 % 16, sum % 16]

/-- The secret start of chain `i` of a WOTS+ key. -/
def SlhCtx.chainStart (x : SlhCtx) (sk : Bytes) (ad : SlhAdrs) (i : Nat) : Bytes :=
  x.one { ad with kind := 5, b := i, c := 0 } sk

def SlhCtx.wotsLeaf (x : SlhCtx) (ad : SlhAdrs) (ends : List Bytes) : Bytes :=
  x.many { ad with kind := 1, b := 0, c := 0 } ends.flatten

def SlhCtx.wotsPub (x : SlhCtx) (sk : Bytes) (ad : SlhAdrs) : Bytes :=
  x.wotsLeaf ad ((List.range x.set.chains).map fun i =>
    x.walk { ad with kind := 0, b := i } 15 0 (x.chainStart sk ad i))

def SlhCtx.wotsSign (x : SlhCtx) (sk : Bytes) (ad : SlhAdrs) (m : Bytes) : Bytes :=
  ((List.range x.set.chains).zip (wotsDigits m)).flatMap fun d =>
    x.walk { ad with kind := 0, b := d.1 } d.2 0 (x.chainStart sk ad d.1)

def SlhCtx.wotsFrom (x : SlhCtx) (ad : SlhAdrs) (m sig : Bytes) : Bytes :=
  x.wotsLeaf ad (((List.range x.set.chains).zip (wotsDigits m)).map fun d =>
    x.walk { ad with kind := 0, b := d.1 } (15 - d.2) d.2 (slice sig (d.1 * x.set.n) x.set.n))

/-! ## Trees -/

/-- The node `i` at height `z` over leaves `leaf`; the addresses are those of `ad` with height and index set. -/
def SlhCtx.node (x : SlhCtx) (ad : SlhAdrs) (leaf : Nat → Bytes) : Nat → Nat → Bytes
  | 0, i => leaf i
  | z + 1, i => x.many { ad with b := z + 1, c := i } (x.node ad leaf z (2 * i) ++ x.node ad leaf z (2 * i + 1))

/-- The siblings on the way from leaf `i` up. -/
def SlhCtx.path (x : SlhCtx) (ad : SlhAdrs) (leaf : Nat → Bytes) (tall i : Nat) : Bytes :=
  (List.range tall).flatMap fun z =>
    let k := i / 2 ^ z
    x.node ad leaf z (if k % 2 = 0 then k + 1 else k - 1)

/-- The root that a leaf and its siblings lead to, from height `z` on. -/
def SlhCtx.climb (x : SlhCtx) (ad : SlhAdrs) : Nat → Nat → Nat → Bytes → Bytes → Bytes
  | 0, _, _, m, _ => m
  | k + 1, z, i, m, path =>
    let up := x.many { ad with b := z + 1, c := i / 2 }
      (if i % 2 = 0 then m ++ path.take x.set.n else path.take x.set.n ++ m)
    x.climb ad k (z + 1) (i / 2) up (path.drop x.set.n)

def slhTreeAdrs (layer tree : Nat) : SlhAdrs := { layer := layer, tree := tree, kind := 2, a := 0, b := 0, c := 0 }

def SlhCtx.xmssLeaf (x : SlhCtx) (sk : Bytes) (layer tree i : Nat) : Bytes :=
  x.wotsPub sk { slhTreeAdrs layer tree with a := i }

/-- The root of one tree of the hypertree. -/
def SlhCtx.treeRoot (x : SlhCtx) (sk : Bytes) (layer tree : Nat) : Bytes :=
  x.node (slhTreeAdrs layer tree) (x.xmssLeaf sk layer tree) x.set.tall 0

/-- A signature of one tree: the one-time signature and the path. -/
def SlhCtx.treeSign (x : SlhCtx) (sk : Bytes) (layer tree i : Nat) (m : Bytes) : Bytes :=
  x.wotsSign sk { slhTreeAdrs layer tree with a := i } m ++
    x.path (slhTreeAdrs layer tree) (x.xmssLeaf sk layer tree) x.set.tall i

def SlhCtx.treeFrom (x : SlhCtx) (layer tree i : Nat) (m sig : Bytes) : Bytes :=
  let w := x.set.chains * x.set.n
  x.climb (slhTreeAdrs layer tree) x.set.tall 0 i
    (x.wotsFrom { slhTreeAdrs layer tree with a := i } m (sig.take w)) (sig.drop w)

/-- Tree and leaf of each layer: the low bits of the tree number are the leaf above. -/
def SlhCtx.spot (x : SlhCtx) (tree leaf layer : Nat) : Nat × Nat :=
  let at_ := tree * 2 ^ x.set.tall + leaf
  (at_ / 2 ^ (x.set.tall * (layer + 1)), at_ / 2 ^ (x.set.tall * layer) % 2 ^ x.set.tall)

/-- The signatures of all layers: each signs the root of the tree below it. -/
def SlhCtx.hyperSign (x : SlhCtx) (sk : Bytes) (tree leaf : Nat) (m : Bytes) : Bytes :=
  (List.range x.set.layers).flatMap fun l =>
    let t := x.spot tree leaf l
    x.treeSign sk l t.1 t.2 (if l = 0 then m else x.treeRoot sk (l - 1) (x.spot tree leaf (l - 1)).1)

def SlhCtx.hyperFrom (x : SlhCtx) (tree leaf : Nat) (m sig : Bytes) : Bytes :=
  let w := (x.set.chains + x.set.tall) * x.set.n
  (List.range x.set.layers).foldl (fun m l =>
    let t := x.spot tree leaf l
    x.treeFrom l t.1 t.2 m (slice sig (w * l) w)) m

/-! ## FORS -/

/-- The leaf each FORS tree reveals: groups of bits of the digest, the first highest. -/
def SlhSet.forsPicks (p : SlhSet) (md : Bytes) : List Nat :=
  (List.range p.fors).map fun i => beNat md / 2 ^ (8 * p.mdLen - p.forsTall * (i + 1)) % 2 ^ p.forsTall

def SlhCtx.forsSecret (x : SlhCtx) (sk : Bytes) (ad : SlhAdrs) (i : Nat) : Bytes :=
  x.one { ad with kind := 6, b := 0, c := i } sk
def SlhCtx.forsLeaf (x : SlhCtx) (ad : SlhAdrs) (i : Nat) (m : Bytes) : Bytes := x.one { ad with b := 0, c := i } m

/-- A subtree's nodes carry indices counted over all FORS trees: node `i` of height `z` of tree `t`. -/
def SlhCtx.forsSign (x : SlhCtx) (sk : Bytes) (ad : SlhAdrs) (md : Bytes) : Bytes :=
  let p := x.set
  ((List.range p.fors).zip (p.forsPicks md)).flatMap fun t =>
    let i := t.1 * 2 ^ p.forsTall + t.2
    x.forsSecret sk ad i ++ x.path ad (fun k => x.forsLeaf ad k (x.forsSecret sk ad k)) p.forsTall i

def SlhCtx.forsRoots (x : SlhCtx) (ad : SlhAdrs) (roots : List Bytes) : Bytes :=
  x.many { ad with kind := 4, b := 0, c := 0 } roots.flatten

def SlhCtx.forsFrom (x : SlhCtx) (ad : SlhAdrs) (md sig : Bytes) : Bytes :=
  let p := x.set
  let w := (p.forsTall + 1) * p.n
  x.forsRoots ad (((List.range p.fors).zip (p.forsPicks md)).map fun t =>
    let i := t.1 * 2 ^ p.forsTall + t.2
    let part := slice sig (t.1 * w) w
    x.climb ad p.forsTall 0 i (x.forsLeaf ad i (part.take p.n)) (part.drop p.n))

/-! ## The scheme -/

/-- MGF1 over a hash of `hl` bytes. -/
def mgfOf (h : Bytes → Bytes) (hl : Nat) (seed : Bytes) (n : Nat) : Bytes :=
  ((List.range (ceilDiv n hl)).flatMap fun i => h (seed ++ toBe 4 i)).take n

/-- The digest that picks the FORS leaves, the tree and the leaf. -/
def SlhCtx.pick (x : SlhCtx) (r root m : Bytes) : Bytes × Nat × Nat :=
  let p := x.set
  let d :=
    if !p.sha2 then shake256 (r ++ x.seed ++ root ++ m) p.digestLen
    else if p.n = 16 then mgfOf sha256 32 (r ++ x.seed ++ sha256 (r ++ x.seed ++ root ++ m)) p.digestLen
    else mgfOf sha512 64 (r ++ x.seed ++ sha512 (r ++ x.seed ++ root ++ m)) p.digestLen
  let rest := d.drop p.mdLen
  let t := ceilDiv (p.height - p.tall) 8
  (d.take p.mdLen, beNat (rest.take t) % 2 ^ (p.height - p.tall), beNat (rest.drop t) % 2 ^ p.tall)

/-- The randomizer of a message from SK.prf and opt_rand. -/
def SlhSet.randomizer (p : SlhSet) (prf opt m : Bytes) : Bytes :=
  if !p.sha2 then shake256 (prf ++ opt ++ m) p.n
  else (hmac (if p.n = 16 then 1 else 3) prf (opt ++ m)).take p.n

def slhCtx (v : Nat) (seed : Bytes) : SlhCtx := { set := slhSet v, seed := seed }

/-- PK.root of SK.seed, SK.prf and PK.seed. -/
def slhDsaRoot (v : Nat) (seeds : Bytes) : Bytes :=
  let n := (slhSet v).n
  (slhCtx v (slice seeds (2 * n) n)).treeRoot (seeds.take n) ((slhSet v).layers - 1) 0

def slhDsaNew (v : Nat) (seeds : Bytes) : Bytes := seeds ++ slhDsaRoot v seeds

def slhDsaSignature (v : Nat) (sk msg opt : Bytes) : Bytes :=
  let p := slhSet v
  let n := p.n
  let x := slhCtx v (slice sk (2 * n) n)
  let r := p.randomizer (slice sk n n) (fit n opt) msg
  let d := x.pick r (slice sk (3 * n) n) msg
  let ad : SlhAdrs := { layer := 0, tree := d.2.1, kind := 3, a := d.2.2, b := 0, c := 0 }
  let fors := x.forsSign (sk.take n) ad d.1
  r ++ fors ++ x.hyperSign (sk.take n) d.2.1 d.2.2 (x.forsFrom ad d.1 fors)

def slhDsaAccepts (v : Nat) (pk msg sig : Bytes) : Bool :=
  let p := slhSet v
  let n := p.n
  let x := slhCtx v (pk.take n)
  let d := x.pick (sig.take n) (pk.drop n) msg
  let w := p.fors * (p.forsTall + 1) * n
  let ad : SlhAdrs := { layer := 0, tree := d.2.1, kind := 3, a := d.2.2, b := 0, c := 0 }
  x.hyperFrom d.2.1 d.2.2 (x.forsFrom ad d.1 (slice sig n w)) (sig.drop (n + w)) == pk.drop n

end Sys2Proof.Machine
end

