-- ==== Sys2Proof/Machine/PqJobs.lean ====
section
/-! DEFINITION. The post-quantum operations (R152 to R183). -/

namespace Sys2Proof.Machine

open Sys2Proof

/-! ## ML-KEM (R164 to R168) -/

def State.mlKemKeygen (s : State) (j : Job) (v : Nat) : OpOut :=
  let dk := mlKemNew v j.rnd
  s.keygenOut j dk (mlKemEk v dk) 0

def execMlKemKeygen (job : Nat) (s : State) : Host.Outcome State Fault Refusal :=
  engineCmd s (s.runPlain job .mlKemKeygen s.mlKemKeygen)

/-- The two 12-bit coefficients of three bytes are below 3329 (R167). -/
def coeffsOk : Nat → Bytes → Bool
  | 0, _ => true
  | n + 1, bs =>
    let w := leNat (bs.take 3)
    w % 4096 < 3329 && w / 4096 < 3329 && coeffsOk n (bs.drop 3)

/-- The modulus check of FIPS 203. -/
def mlKemEkOk (v : Nat) (ek : Bytes) : Bool := coeffsOk (128 * (v + 2)) ek

def State.mlKemEncaps (s : State) (j : Job) (v : Nat) (x : Option Slot) : OpOut :=
  let ek := pubIn j x (mlKemSizes v).1
  if x.isNone && !mlKemEkOk v ek then OpOut.pointInvalid
  else
    let r := mlKemEncapsWith v (kemEkMatrix v ek) ek j.rnd
    s.secretOut j r.1 r.2 none

def execMlKemEncaps (job : Nat) (s : State) : Host.Outcome State Fault Refusal :=
  engineCmd s (s.runKeyed job .mlKemEncaps s.mlKemEncaps)

def State.mlKemDecaps (s : State) (j : Job) (v : Nat) (x : Option Slot) : OpOut :=
  let dk := slotMat x
  s.secretOut j [] (mlKemDecapsWith v (kemEkMatrix v (mlKemEk v dk)) dk j.input) x

def execMlKemDecaps (job : Nat) (s : State) : Host.Outcome State Fault Refusal :=
  engineCmd s (s.runKeyed job .mlKemDecaps s.mlKemDecaps)

/-! ## ML-DSA (R160, R161, R169 to R171) -/

def State.mlDsaKeygen (s : State) (j : Job) (v : Nat) : OpOut :=
  let sk := mlDsaNew v j.rnd
  s.keygenOut j sk (mlDsaPub v sk) 0

def execMlDsaKeygen (job : Nat) (s : State) : Host.Outcome State Fault Refusal :=
  engineCmd s (s.runPlain job .mlDsaKeygen s.mlDsaKeygen)

/-- The signature, and the iterations of the rejection loop as DETAIL (R158). -/
def mlDsaSign (j : Job) (v : Nat) (x : Option Slot) : OpOut :=
  let r := mlDsaJob { j with keyCopy := x } v
  signOut j r.1 r.2

def execMlDsaSign (job : Nat) (s : State) : Host.Outcome State Fault Refusal :=
  engineCmd s (s.runKeyed job .mlDsaSign mlDsaSign)

def mlDsaVerify (j : Job) (v : Nat) (x : Option Slot) : OpOut :=
  let q := verifyParts j (mlDsaSizes v).1 x
  OpOut.verdict (mlDsaAccepts v q.1 (messageRep j.param q.2.2) q.2.1)

def execMlDsaVerify (job : Nat) (s : State) : Host.Outcome State Fault Refusal :=
  engineCmd s (s.runKeyed job .mlDsaVerify mlDsaVerify)

/-! ## SLH-DSA (R172, R173) -/

def State.slhDsaKeygen (s : State) (j : Job) (v : Nat) : OpOut :=
  let sk := slhDsaNew v j.rnd
  s.keygenOut j sk (sk.drop (2 * (slhSizes v).1)) 0

def execSlhDsaKeygen (job : Nat) (s : State) : Host.Outcome State Fault Refusal :=
  engineCmd s (s.runPlain job .slhDsaKeygen s.slhDsaKeygen)

def slhDsaSign (j : Job) (v : Nat) (x : Option Slot) : OpOut :=
  let n := (slhSizes v).1
  let sk := slotMat x
  signOut j (slhDsaSignature v sk (messageRep j.param j.input) (signRandom j (slice sk (2 * n) n))) 0

def execSlhDsaSign (job : Nat) (s : State) : Host.Outcome State Fault Refusal :=
  engineCmd s (s.runKeyed job .slhDsaSign slhDsaSign)

def slhDsaVerify (j : Job) (v : Nat) (x : Option Slot) : OpOut :=
  let q := verifyParts j (2 * (slhSizes v).1) x
  OpOut.verdict (slhDsaAccepts v q.1 (messageRep j.param q.2.2) q.2.1)

def execSlhDsaVerify (job : Nat) (s : State) : Host.Outcome State Fault Refusal :=
  engineCmd s (s.runKeyed job .slhDsaVerify slhDsaVerify)

/-! ## LMS, HSS, XMSS and XMSS^MT (R174 to R180) -/

/-- The parameters, I and SEED in a clear LMS or HSS encoding (R300). -/
def lmsOfClear (mat : Bytes) : Option LmsKey :=
  (lmsSet (beNat (slice mat 1 4)) (beNat (slice mat 5 4))).map fun p =>
    { set := p, ident := slice mat 9 16, seed := slice mat 25 p.n }

/-- The root of a stateful key: of its tree, or of the top one, from the clear encoding without its root. -/
def statefulRoot (t : Nat) (mat : Bytes) : Bytes :=
  if t = 0x04 ∨ t = 0x05 then ((lmsOfClear mat).map LmsKey.root).getD []
  else ((xmssSet (t == 0x07) (beNat (mat.take 4))).map fun p => xmssRootOf p (mat.drop 4)).getD []

/-- The clear encoding of a new LMS or HSS key from I and SEED, with its root (R300). -/
def lmsNew (t : Nat) (j : Job) : Bytes :=
  let p := j.param
  let levels := if t = 0x05 then pByte5 p else 1
  let head := toLe 1 levels ++ toBe 4 (pWordA p) ++ toBe 4 (pWordB p) ++ j.rnd
  head ++ statefulRoot t head

/-- The public key inside the clear encoding (R175). -/
def lmsPub (t : Nat) (mat : Bytes) : Bytes :=
  let n := (mat.length - 25) / 2
  let pk := slice mat 1 24 ++ mat.drop (25 + n)
  if t = 0x05 then toBe 4 (fieldLe mat 0 1) ++ pk else pk

def xmssNew (t : Nat) (j : Job) : Bytes :=
  let head := toBe 4 (pWordA j.param) ++ j.rnd
  head ++ statefulRoot t head

/-- OID, root, SEED (R180). -/
def xmssPub (mat : Bytes) : Bytes :=
  let n := (mat.length - 4) / 4
  mat.take 4 ++ mat.drop (4 + 3 * n) ++ slice mat (4 + 2 * n) n

def statefulPub (t : Nat) (mat : Bytes) : Bytes := if t = 0x04 ∨ t = 0x05 then lmsPub t mat else xmssPub mat

def recordMax : Nat := 262144

/-- Records that KeyGens in their post-commit sections are writing. -/
def State.recordsPending (s : State) : Nat :=
  (s.jobs.filter fun j => j.committed && j.status.isNone && j.reserved.any fun n =>
    (s.record (s.slot n).keyId).isNone && attrStateful (s.slot n).attr).length

/-- A stateful KeyGen commits, and its record write, which holds the first lease, begins (R177, R306, R307). -/
def State.statefulKeygen (s : State) (j : Job) (t : Nat) (mat : Bytes) : State :=
  if s.ledger.readOnly then s.endJob j.id .leaseExhausted 2
  else if recordMax ≤ s.records.length + s.recordsPending then s.endJob j.id .badParams 13
  else
    let n := j.entry.slot
    let pub := statefulPub t mat
    let w := (s.slot n).attr
    let l : Lease := { next := 0, stop := min leaseSize (statefulLimit t (attrParam w) mat), committed := false }
    let s := s.streamCommit { j with output := pub }
    State.ledgerPulse (s.setSlot n { newSlot w mat pub s.devId with st := .reserved, cur := some l })

def State.runStatefulKeygen (s : State) (id : Nat) (o : Op) (mat : Job → Nat → Nat × Bytes) : State :=
  match s.job id with
  | none => s
  | some j =>
    match s.opOfJob j with
    | none => s
    | some (_, v) =>
      if s.mayRun j o && !j.committed then s.statefulKeygen j (mat j v).1 (mat j v).2 else s

def execLmsKeygen (job : Nat) (s : State) : Host.Outcome State Fault Refusal :=
  engineCmd s (s.runStatefulKeygen job .lmsKeygen fun j v => (0x04 + v, lmsNew (0x04 + v) j))

def execXmssKeygen (job : Nat) (s : State) : Host.Outcome State Fault Refusal :=
  engineCmd s (s.runStatefulKeygen job .xmssKeygen fun j v => (0x06 + v, xmssNew (0x06 + v) j))

/-- The signature of a loaded key under an index (R175, R176, R180). -/
def statefulSignature (x : Slot) (i : Nat) (m : Bytes) : Bytes :=
  let t := attrType x.attr
  if t = 0x04 ∨ t = 0x05 then
    match lmsOfClear x.mat with
    | some k => if t = 0x04 then k.sign i m else hssSign k.set k.ident k.seed (fieldLe x.mat 0 1) i m
    | none => []
  else
    match xmssSet (t == 0x07) (attrParam x.attr) with
    | some p => xmssSignature (t == 0x07) p (x.mat.drop 4) (x.mat.drop (4 + 3 * p.n)) i m
    | none => []

/-- The commit point of a stateful signature, which waits for the record of its lease (R177). -/
def State.releaseSignature (s : State) (j : Job) (x : Slot) (i : Nat) : State :=
  if s.indexCommitted x i then
    s.masked j fun s j => s.applyOut j (OpOut.okDetail (statefulSignature x i j.input) (i % 2 ^ 32))
  else s

/-- R177, R183: with its index drawn, the job loads its key and signs; a slot that was invalidated after the draw ends it,
and the index stays consumed. -/
def State.statefulSign (s : State) (id : Nat) (o : Op) : State :=
  match s.job id with
  | none => s
  | some j =>
    if !s.mayRun j o then s
    else
      match j.index, j.keyCopy with
      | none, _ => s.takeKey id
      | some i, some x => s.releaseSignature j x i
      | some i, none =>
        if j.keyGone || (s.slot j.entry.slot).st != .live then s.endJob id .keySlotEmpty 0
        else
          let x := s.slot j.entry.slot
          (s.loadKey j).releaseSignature { j with keyCopy := some x } x i

def execLmsSign (job : Nat) (s : State) : Host.Outcome State Fault Refusal := engineCmd s (s.statefulSign job .lmsSign)

def execXmssSign (job : Nat) (s : State) : Host.Outcome State Fault Refusal := engineCmd s (s.statefulSign job .xmssSign)

/-- Length of a public key in the input by its own type field; none when it names no supported set (R156, R174, R179). -/
def lmsKeyLen (v : Nat) (bs : Bytes) : Option Nat :=
  let off := 4 * v
  let t := beNat (slice bs off 4)
  match lmsInfo t, otsInfo (beNat (slice bs (off + 4) 4)) with
  | some a, some b => if a.1 = b.1 then some (off + 24 + a.2.1) else none
  | _, _ => none

def xmssKeyLen (v : Nat) (bs : Bytes) : Option Nat :=
  let oid := beNat (bs.take 4)
  ((if v = 0 then xmssInfo oid else xmssMtInfo oid).map fun x => 4 + 2 * x.1)

/-- Does a stateful scheme accept a signature? Type fields that differ from the key's make it false (R163). -/
def statefulAccepts (t : Nat) (pub m sig : Bytes) : Bool :=
  match t with
  | 0x04 => lmsAccepts pub m sig
  | 0x05 => hssAccepts pub m sig
  | 0x06 => xmssAccepts false pub m sig
  | _ => xmssAccepts true pub m sig

/-- The verdict of a stateful verification: the key from the slot or from the input. -/
def statefulVerify (t : Nat) (j : Job) (x : Option Slot) (len : Option Nat) : OpOut :=
  match x, len with
  | none, none => OpOut.pointInvalid
  | _, _ =>
    let n := len.getD 0
    if x.isNone ∧ j.input.length < n + pSigLen j.param then OpOut.fail .badParams 11
    else
      let q := verifyParts j n x
      OpOut.verdict (statefulAccepts t q.1 q.2.2 q.2.1)

def lmsVerify (j : Job) (v : Nat) (x : Option Slot) : OpOut := statefulVerify (0x04 + v) j x (lmsKeyLen v j.input)

def execLmsVerify (job : Nat) (s : State) : Host.Outcome State Fault Refusal :=
  engineCmd s (s.runKeyed job .lmsVerify lmsVerify)

def xmssVerify (j : Job) (v : Nat) (x : Option Slot) : OpOut := statefulVerify (0x06 + v) j x (xmssKeyLen v j.input)

def execXmssVerify (job : Nat) (s : State) : Host.Outcome State Fault Refusal :=
  engineCmd s (s.runKeyed job .xmssVerify xmssVerify)

/-- The next index this device would draw: from its leases, or the first one of the lease it would get (R178). -/
def State.nextIndex (s : State) (x : Slot) : Nat :=
  match Lease.some? x.cur, Lease.some? x.nxt with
  | some l, _ => l.next
  | none, some l => l.next
  | none, none =>
    if x.homeDev = s.devId then ((s.record x.keyId).map s.leaseFloor).getD 0
    else statefulLimit (attrType x.attr) (attrParam x.attr) x.mat - x.remote

/-- The index record of R178. -/
def State.indexRecord (s : State) (x : Slot) : OpOut :=
  OpOut.ok (toLe 8 (s.nextIndex x) ++ toLe 8 (s.remaining x) ++ toLe 4 (Lease.left x.cur) ++ toLe 2 x.homeDev ++ toLe 2 0)

def execLmsIndexQuery (job : Nat) (s : State) : Host.Outcome State Fault Refusal :=
  engineCmd s (s.runSlot job .lmsIndexQuery fun _ x => s.indexRecord x)

def execXmssIndexQuery (job : Nat) (s : State) : Host.Outcome State Fault Refusal :=
  engineCmd s (s.runSlot job .xmssIndexQuery fun _ x => s.indexRecord x)

/-! ## Classic McEliece (R181, R182) -/

def State.mcelieceKeygen (s : State) (j : Job) (v : Nat) : OpOut :=
  let r := mceNew v j.rnd
  s.keygenOut j r.1 r.2.1 r.2.2

def execMcelieceKeygen (job : Nat) (s : State) : Host.Outcome State Fault Refusal :=
  engineCmd s (s.runPlain job .mcelieceKeygen s.mcelieceKeygen)

def State.mcelieceEncaps (s : State) (j : Job) (v : Nat) (x : Option Slot) : OpOut :=
  let r := mceEncapsWith v (pubIn j x (mceSizes v).1) j.rnd
  s.secretOut j r.1 r.2 none

def execMcelieceEncaps (job : Nat) (s : State) : Host.Outcome State Fault Refusal :=
  engineCmd s (s.runKeyed job .mcelieceEncaps s.mcelieceEncaps)

def State.mcelieceDecaps (s : State) (j : Job) (v : Nat) (x : Option Slot) : OpOut :=
  s.secretOut j [] (mceDecapsWith v (slotMat x) j.input) x

def execMcelieceDecaps (job : Nat) (s : State) : Host.Outcome State Fault Refusal :=
  engineCmd s (s.runKeyed job .mcelieceDecaps s.mcelieceDecaps)

end Sys2Proof.Machine
end

