-- ==== Sys2Proof/Machine/ClassicJobs.lean ====
section
/-! DEFINITION. Elliptic-curve, RSA, hash, MAC, AES, key-derivation and hybrid operations (R184 to R201, R203). -/

namespace Sys2Proof.Machine

open Sys2Proof

/-! ## Elliptic curves (R189 to R191) -/

def State.ecKeygen (s : State) (j : Job) (v : Nat) : OpOut :=
  let k := ecNew v j.rnd
  s.keygenOut j k (ecPubOf v k) 0

def execEcKeygen (job : Nat) (s : State) : Host.Outcome State Fault Refusal :=
  engineCmd s (s.runPlain job .ecKeygen s.ecKeygen)

/-- The pre-hash flag, context length and context of an Edwards signature. -/
def edDom (p rest : Bytes) : Bytes :=
  [BitVec.ofNat 8 (b2n (pPrehash p)), BitVec.ofNat 8 (pCtxLen p)] ++ rest.take (pCtxLen p)

/-- The message of an Edwards signature, or its pre-hash. -/
def edMessage (p rest : Bytes) : Bytes :=
  let m := rest.drop (pCtxLen p)
  if pPrehash p then digestOf p m else m

/-- ECDSA with the drawn nonce, or deterministic on request and as fallback; EdDSA (R191). -/
def ecSign (j : Job) (v : Nat) (x : Option Slot) : OpOut :=
  let p := j.param
  let m := digestOf p j.input
  if 3 ≤ v then OpOut.ok (eddsaSignature v (slotMat x) (edDom p j.input) (edMessage p j.input))
  else if pDeterministic p || j.entropy == .fallback then
    signOut j (ecdsaDeterministic v (slotMat x) m (hashAlgVariant (pAlg p)) (algLen (pAlg p))) 0
  else signOut j (ecdsaHedged v (slotMat x) m j.rnd) 0

def execEcSign (job : Nat) (s : State) : Host.Outcome State Fault Refusal :=
  engineCmd s (s.runKeyed job .ecSign ecSign)

def ecVerify (j : Job) (v : Nat) (x : Option Slot) : OpOut :=
  let q := verifyParts j (ecSizes v).2.1 x
  let p := j.param
  if x.isNone && !ecPublicOk v q.1 then OpOut.pointInvalid
  else if v ≤ 2 then OpOut.verdict (ecdsaAccepts v q.1 (digestOf p q.2.2) q.2.1)
  else OpOut.verdict (eddsaAccepts v q.1 (edDom p q.2.2) (edMessage p q.2.2) q.2.1)

def execEcVerify (job : Nat) (s : State) : Host.Outcome State Fault Refusal :=
  engineCmd s (s.runKeyed job .ecVerify ecVerify)

def State.agree (s : State) (j : Job) (v : Nat) (x : Option Slot) : OpOut :=
  match agreeSecret v (slotMat x) j.input with
  | some k => s.secretOut j [] k x
  | none => OpOut.pointInvalid

def execAgree (job : Nat) (s : State) : Host.Outcome State Fault Refusal := engineCmd s (s.runKeyed job .agree s.agree)

/-! ## RSA (R192, R193) -/

/-- The parts of a clear RSA encoding (R300): n, e, p, q, dp, dq, qinv. -/
structure RsaKey where
  k : Nat
  n : Nat
  e : Nat
  p : Nat
  q : Nat
  dp : Nat
  dq : Nat
  qinv : Nat
  deriving DecidableEq, Repr

def parseRsa (k : Nat) (m : Bytes) : RsaKey :=
  let h := k / 2
  let f (i : Nat) : Nat := beNat (slice m (k + 4 + i * h) h)
  { k := k, n := beNat (m.take k), e := beNat (slice m k 4), p := f 0, q := f 1, dp := f 2, dq := f 3, qinv := f 4 }

/-- The private operation by CRT. -/
def RsaKey.private1 (r : RsaKey) (c : Nat) : Nat :=
  let m1 := powMod c r.dp r.p
  let m2 := powMod c r.dq r.q
  m2 + r.qinv * (m1 + r.p - m2 % r.p) % r.p * r.q

/-- Modulus length in bytes of a slot's RSA key. -/
def slotRsaLen (x : Option Slot) (p : Bytes) : Nat :=
  match x with
  | some s => 8 * (attrParam s.attr + 1)
  | none => pModBits p / 8

/-- R193 on a public key: modulus odd with its top bit set, e odd and at least 3. -/
def rsaPubOk (k : Nat) (pub : Bytes) : Bool :=
  let n := beNat (pub.take k)
  let e := beNat (slice pub k 4)
  n % 2 == 1 && n.testBit (8 * k - 1) && e % 2 == 1 && 3 ≤ e

/-- MGF1 (RFC 8017). -/
def mgf1 (alg : Nat) (seed : Bytes) (n : Nat) : Bytes :=
  ((List.range (n / max 1 (algLen alg) + 1)).flatMap fun i => hashAlg alg (seed ++ toBe 4 i)).take n

/-- EMSA-PSS for a modulus of a multiple of 8 bits: the top bit of the encoding is clear. -/
def clearTop (b : Bytes) : Bytes := match b with | [] => [] | x :: xs => (x &&& 0x7F) :: xs

def pssEncode (alg k : Nat) (digest salt : Bytes) : Bytes :=
  let h := hashAlg alg (zeros 8 ++ digest ++ salt)
  let db := zeros (k - salt.length - h.length - 2) ++ [1] ++ salt
  clearTop (xorBytes db (mgf1 alg h db.length)) ++ h ++ [0xBC]

/-- EMSA-PSS verification; `salt` is the length required, none for any. -/
def pssVerify (alg k : Nat) (digest em : Bytes) (salt : Option Nat) : Bool :=
  let hl := algLen alg
  let n := k - hl - 1
  let masked := em.take n
  let h := slice em n hl
  let db := clearTop (xorBytes masked (mgf1 alg h n))
  let rest := db.dropWhile (· == 0)
  let sl := rest.length - 1
  hl + 2 ≤ k && em.drop (k - 1) == [0xBC] && clearTop masked == masked && rest.take 1 == [1] &&
    (match salt with | some m => sl == m | none => true) &&
    hashAlg alg (zeros 8 ++ digest ++ rest.drop 1) == h

/-- EMSA-PKCS1-v1_5 with the DigestInfo of HASH_ALG. -/
def v15Encode (alg k : Nat) (digest : Bytes) : Bytes :=
  let hl := digest.length
  let t := [0x30, BitVec.ofNat 8 (17 + hl), 0x30, 0x0D] ++ oidDer alg ++ [0x05, 0x00, 0x04, BitVec.ofNat 8 hl] ++ digest
  [0, 1] ++ List.replicate (k - t.length - 3) 0xFF ++ [0] ++ t

def oaepEncode (alg k : Nat) (label msg seed : Bytes) : Bytes :=
  let lh := hashAlg alg label
  let db := lh ++ zeros (k - msg.length - 2 * lh.length - 2) ++ [1] ++ msg
  let mdb := xorBytes db (mgf1 alg seed db.length)
  [0] ++ xorBytes seed (mgf1 alg mdb seed.length) ++ mdb

def oaepDecode (alg k : Nat) (label em : Bytes) : Option Bytes :=
  let hl := algLen alg
  let mdb := em.drop (1 + hl)
  let seed := xorBytes (slice em 1 hl) (mgf1 alg mdb hl)
  let db := xorBytes mdb (mgf1 alg seed (k - hl - 1))
  let rest := (db.drop hl).dropWhile (· == 0)
  if em.take 1 == [0] && db.take hl == hashAlg alg label && rest.take 1 == [1] then some (rest.drop 1) else none

/-! ### Key generation (R192) -/

/-- One test of Miller and Rabin: `n − 1 = d · 2^s` with `x = base^d`. -/
def mrSquares (n : Nat) : Nat → Nat → Bool
  | 0, _ => false
  | k + 1, x => x == n - 1 || mrSquares n k (x * x % n)

def mrTest (n base : Nat) : Bool :=
  let twos := (List.range (n.log2 + 1)).takeWhile fun i => (n - 1) % 2 ^ (i + 1) == 0
  let x := powMod base ((n - 1) / 2 ^ twos.length) n
  x == 1 || mrSquares n twos.length x

/-- Does a candidate do as a prime of half the modulus's length (FIPS 186-5): large enough, odd, prime to e behind its
predecessor, far from `other`, and probably prime? -/
def rsaPrimeOk (bits e other : Nat) (bases : List Nat) (p : Nat) : Bool :=
  let half := bits / 2
  p % 2 == 1 && 2 ^ (bits - 1) ≤ p * p && p < 2 ^ half && Nat.gcd (p - 1) e == 1 &&
    (other == 0 || 2 ^ (half - 100) < (if p ≤ other then other - p else p - other)) &&
    bases.all fun b => mrTest p (b % (p - 3) + 2)

/-- The first candidate that does, from number `i` on, and the candidates tried. -/
def rsaSearch (seed : Bytes) (bits e other : Nat) : Nat → Nat → Nat × Nat
  | 0, i => (Config.rsaSpare seed i, i)
  | f + 1, i =>
    let p := Config.rsaCandidate seed i % 2 ^ (bits / 2)
    let bases := (List.range (max 1 (Config.rsaTests bits))).map (Config.rsaBase seed i)
    if rsaPrimeOk bits e other bases p then (p, i + 1) else rsaSearch seed bits e other f (i + 1)

/-- The clear encoding of a key pair from its primes (R300). -/
def rsaEncode (k e p q : Nat) : Bytes :=
  let h := k / 2
  toBe k (p * q) ++ toBe 4 e ++ toBe h p ++ toBe h q ++ toBe h (invMod e (p - 1)) ++ toBe h (invMod e (q - 1)) ++
    toBe h (invMod q p)

/-- FIPS 186-5: a first prime among at most 5 candidates a bit, a second one among at most 10. -/
def rsaNew (bits e : Nat) (seed : Bytes) : Bytes × Nat :=
  let p := rsaSearch seed bits e 0 (5 * bits) 0
  let q := rsaSearch seed bits e p.1 (10 * bits) p.2
  (rsaEncode (bits / 8) e p.1 q.1, q.2)

def State.rsaKeygen (s : State) (j : Job) (_ : Nat) : OpOut :=
  let p := j.param
  let k := pModBits p / 8
  let r := rsaNew (8 * k) (if pPubExp p = 0 then 65537 else pPubExp p) j.rnd
  s.keygenOut j r.1 (r.1.take (k + 4)) r.2

def execRsaKeygen (job : Nat) (s : State) : Host.Outcome State Fault Refusal :=
  engineCmd s (s.runPlain job .rsaKeygen s.rsaKeygen)

/-- The signature of an encoded message under the slot's key. -/
def rsaSignEm (x : Option Slot) (p em : Bytes) : Bytes :=
  let k := slotRsaLen x p
  toBe k ((parseRsa k (slotMat x)).private1 (beNat em))

def rsaPssSign (j : Job) (_ : Nat) (x : Option Slot) : OpOut :=
  let p := j.param
  let k := slotRsaLen x p
  let salt := (signRandom j (zeros (pSaltLen p))).take (pSaltLen p)
  signOut j (rsaSignEm x p (pssEncode (pAlg p) k (digestOf p j.input) salt)) 0

def execRsaPssSign (job : Nat) (s : State) : Host.Outcome State Fault Refusal :=
  engineCmd s (s.runKeyed job .rsaPssSign rsaPssSign)

def rsaV15Sign (j : Job) (_ : Nat) (x : Option Slot) : OpOut :=
  let p := j.param
  OpOut.ok (rsaSignEm x p (v15Encode (pAlg p) (slotRsaLen x p) (digestOf p j.input)))

def execRsaV15Sign (job : Nat) (s : State) : Host.Outcome State Fault Refusal :=
  engineCmd s (s.runKeyed job .rsaV15Sign rsaV15Sign)

/-- An RSA verification: R193's checks of the public values, then the verdict on the recovered encoding. -/
def rsaVerify (j : Job) (x : Option Slot) (verdict : Nat → Bytes → Bytes → Bool) : OpOut :=
  let p := j.param
  let k := slotRsaLen x p
  let q := verifyParts j (k + 4) x
  let n := beNat (q.1.take k)
  let c := beNat q.2.1
  if (x.isNone && !rsaPubOk k q.1) || n ≤ c then OpOut.pointInvalid
  else OpOut.verdict (verdict k (digestOf p q.2.2) (toBe k (powMod c (beNat (slice q.1 k 4)) n)))

def rsaPssVerify (j : Job) (_ : Nat) (x : Option Slot) : OpOut :=
  let sl := if pSaltLen j.param = 0xFFFF then none else some (pSaltLen j.param)
  rsaVerify j x fun k d em => pssVerify (pAlg j.param) k d em sl

def execRsaPssVerify (job : Nat) (s : State) : Host.Outcome State Fault Refusal :=
  engineCmd s (s.runKeyed job .rsaPssVerify rsaPssVerify)

def rsaV15Verify (j : Job) (_ : Nat) (x : Option Slot) : OpOut :=
  rsaVerify j x fun k d em => em == v15Encode (pAlg j.param) k d

def execRsaV15Verify (job : Nat) (s : State) : Host.Outcome State Fault Refusal :=
  engineCmd s (s.runKeyed job .rsaV15Verify rsaV15Verify)

def rsaOaepEncrypt (j : Job) (_ : Nat) (x : Option Slot) : OpOut :=
  let p := j.param
  let k := slotRsaLen x p
  let pub := pubIn j x (k + 4)
  if x.isNone && !rsaPubOk k pub then OpOut.pointInvalid
  else
    let rest := if x.isNone then j.input.drop (k + 4) else j.input
    let em := oaepEncode (pAlg p) k (rest.take (pWordA p)) (rest.drop (pWordA p)) (fit (algLen (pAlg p)) j.rnd)
    OpOut.ok (toBe k (powMod (beNat em) (beNat (slice pub k 4)) (beNat (pub.take k))))

def execRsaOaepEncrypt (job : Nat) (s : State) : Host.Outcome State Fault Refusal :=
  engineCmd s (s.runKeyed job .rsaOaepEncrypt rsaOaepEncrypt)

def rsaOaepDecrypt (j : Job) (_ : Nat) (x : Option Slot) : OpOut :=
  let p := j.param
  let k := slotRsaLen x p
  let r := parseRsa k (slotMat x)
  let c := beNat (j.input.drop (pWordA p))
  if r.n ≤ c then OpOut.pointInvalid
  else
    match oaepDecode (pAlg p) k (j.input.take (pWordA p)) (toBe k (r.private1 c)) with
    | some m => OpOut.ok m
    | none => OpOut.fail .badParams 18

def execRsaOaepDecrypt (job : Nat) (s : State) : Host.Outcome State Fault Refusal :=
  engineCmd s (s.runKeyed job .rsaOaepDecrypt rsaOaepDecrypt)

/-! ## Hash and MAC (R194, R195) -/

/-- The digest or XOF output of a Hash job. -/
def hashOut (v : Nat) (p m : Bytes) : Bytes :=
  let n := m.take (pWordA p)
  let c := slice m (pWordA p) (pWordB p)
  let rest := m.drop (pWordA p + pWordB p)
  match v with
  | 10 => shake128 m (pOutBytes p)
  | 11 => shake256 m (pOutBytes p)
  | 12 => if n.isEmpty && c.isEmpty then shake128 rest (pOutBytes p) else cshake128 rest (pOutBytes p) n c
  | 13 => if n.isEmpty && c.isEmpty then shake256 rest (pOutBytes p) else cshake256 rest (pOutBytes p) n c
  | _ => hashVar v m

/-- The register an EXTEND job names: 128 + n for a device register (R195). -/
def extendTarget (p : Bytes) : Nat := (if 128 ≤ pByte5 p then 128 else 0) + pByte5 p % 32

/-- The job ends with its digest, and an extension waits for the measurement unit (R247). -/
def State.hashJob (s : State) (id : Nat) : State :=
  match s.job id with
  | none => s
  | some j =>
    match s.opOfJob j with
    | none => s
    | some (_, v) =>
      if !s.mayRun j .hash then s
      else
        let d := hashOut v j.param j.input
        let ext := if pExtend j.param then some (extendTarget j.param, d) else none
        s.takeSeq.applyOut { j with extend := ext, extSeq := s.weir.seq } (OpOut.ok (if pExtend j.param && j.entry.outAddr == 0 then [] else d))

def execHash (job : Nat) (s : State) : Host.Outcome State Fault Refusal := engineCmd s (s.hashJob job)

/-- The job's extension is the first of those that wait, in the order of their COMMITs (R247). -/
def State.extendsNext (s : State) (j : Job) : Bool := s.jobs.all fun x => x.extend.isNone || j.extSeq ≤ x.extSeq

/-- R247: the measurement unit extends one register for one job, the first that waits. -/
def State.measExtend (s : State) (id : Nat) : State :=
  match s.job id with
  | none => s
  | some j =>
    match j.extend, s.extendsNext j with
    | none, _ | _, false => s
    | some (t, d), true =>
      let s := s.setJob { j with extend := none }
      if 128 ≤ t then s.extendDev (t - 128) d
      else
        let r := s.reach j.reach
        s.setReach j.reach { r with
          meas := r.meas.set t (sha3_384 (r.meas.getD t measZero ++ d))
          measCnt := r.measCnt.set t (satAdd 0xFFFFFFFF (r.measCnt.getD t 0) 1) }

def execMeasExtend (job : Nat) (s : State) : Host.Outcome State Fault Refusal := engineCmd s (s.measExtend job)

def hmacGenerate (j : Job) (v : Nat) (x : Option Slot) : OpOut := OpOut.ok (hmac v (slotMat x) j.input)

def execHmacGenerate (job : Nat) (s : State) : Host.Outcome State Fault Refusal :=
  engineCmd s (s.runKeyed job .hmacGenerate hmacGenerate)

def hmacVerify (j : Job) (v : Nat) (x : Option Slot) : OpOut :=
  let n := macTagLen .hmacVerify v j.param
  OpOut.verdict ((hmac v (slotMat x) (j.input.drop n)).take n == j.input.take n)

def execHmacVerify (job : Nat) (s : State) : Host.Outcome State Fault Refusal :=
  engineCmd s (s.runKeyed job .hmacVerify hmacVerify)

def kmacOf (v : Nat) (key m : Bytes) (out : Nat) (c : Bytes) : Bytes :=
  if v = 0 then kmac128 key m out c else kmac256 key m out c

def kmacGenerate (j : Job) (v : Nat) (x : Option Slot) : OpOut :=
  let n := pWordA j.param
  OpOut.ok (kmacOf v (slotMat x) (j.input.drop n) (pOutBytes j.param) (j.input.take n))

def execKmacGenerate (job : Nat) (s : State) : Host.Outcome State Fault Refusal :=
  engineCmd s (s.runKeyed job .kmacGenerate kmacGenerate)

def kmacVerify (j : Job) (v : Nat) (x : Option Slot) : OpOut :=
  let t := macTagLen .kmacVerify v j.param
  let n := pWordA j.param
  OpOut.verdict (kmacOf v (slotMat x) (j.input.drop (t + n)) t (slice j.input t n) == j.input.take t)

def execKmacVerify (job : Nat) (s : State) : Host.Outcome State Fault Refusal :=
  engineCmd s (s.runKeyed job .kmacVerify kmacVerify)

/-! ## AES (R196) -/

def aesGcmEncrypt (j : Job) (_ : Nat) (x : Option Slot) : OpOut :=
  let p := j.param
  let iv := if pIvGen p then fit 12 j.rnd else (pIv p).take 12
  let r := gcmSeal (slotMat x) iv (j.input.take (pWordA p)) (j.input.drop (pWordA p)) (pTagLen p)
  OpOut.ok ((if pIvGen p then iv else []) ++ r.1 ++ r.2)

def execAesGcmEncrypt (job : Nat) (s : State) : Host.Outcome State Fault Refusal :=
  engineCmd s (s.runStream job .aesGcmEncrypt aesGcmEncrypt)

/-- The associated data, ciphertext and tag of a decryption's input. -/
def gcmParts (j : Job) : Bytes × Bytes × Bytes :=
  let body := j.input.drop (pWordA j.param)
  let n := body.length - pTagLen j.param
  (j.input.take (pWordA j.param), body.take n, body.drop n)

/-- R196, R203: the first pass verifies the tag and commits; the second pass reads the input again and decrypts it. Input
that the device holds, of an entry with INLINE or from a peer, is not read again. -/
def State.gcmDecrypt (s : State) (id : Nat) : State :=
  match s.job id with
  | none => s
  | some j =>
    if !s.mayRun j .aesGcmDecrypt then s
    else
      match j.keyCopy with
      | none => s.takeKey id
      | some x =>
        let q := gcmParts j
        let iv := (pIv j.param).take 12
        if j.committed then s.applyOut j (OpOut.ok (gcmCrypt x.mat iv q.2.1))
        else
          match gcmOpen x.mat iv q.1 q.2.1 q.2.2 with
          | none => s.applyOut j (OpOut.verdict false)
          | some m =>
            if j.entry.inline || j.forPeer.isSome then s.applyOut j (OpOut.ok m)
            else s.streamCommit { j with input := [] }

def execAesGcmDecrypt (job : Nat) (s : State) : Host.Outcome State Fault Refusal := engineCmd s (s.gcmDecrypt job)

def aesCtrJob (j : Job) (_ : Nat) (x : Option Slot) : OpOut := OpOut.ok (aesCtr (slotMat x) (pIv j.param) j.input)

def execAesCtr (job : Nat) (s : State) : Host.Outcome State Fault Refusal :=
  engineCmd s (s.runStream job .aesCtr aesCtrJob)

def aesXtsEncrypt (j : Job) (_ : Nat) (x : Option Slot) : OpOut := OpOut.ok (xtsEnc (slotMat x) (pIv j.param) j.input)

def execAesXtsEncrypt (job : Nat) (s : State) : Host.Outcome State Fault Refusal :=
  engineCmd s (s.runStream job .aesXtsEncrypt aesXtsEncrypt)

def aesXtsDecrypt (j : Job) (_ : Nat) (x : Option Slot) : OpOut := OpOut.ok (xtsDec (slotMat x) (pIv j.param) j.input)

def execAesXtsDecrypt (job : Nat) (s : State) : Host.Outcome State Fault Refusal :=
  engineCmd s (s.runStream job .aesXtsDecrypt aesXtsDecrypt)

/-! ## Key derivation (R197) -/

/-- The two parts of a KDF's input. -/
def kdfParts (j : Job) : Bytes × Bytes := (j.input.take (pWordA j.param), j.input.drop (pWordA j.param))

def algVar (p : Bytes) : Nat := (hashAlgVariant (pAlg p)).getD 1

def State.kdfCounterHmac (s : State) (j : Job) (_ : Nat) (x : Option Slot) : OpOut :=
  let p := j.param
  s.secretOut j [] (kdfCounter (algVar p) (slotMat x) (kdfParts j).1 (kdfParts j).2 (pOutBytes p) (algLen (pAlg p))) x

def execKdfCounterHmac (job : Nat) (s : State) : Host.Outcome State Fault Refusal :=
  engineCmd s (s.runKeyed job .kdfCounterHmac s.kdfCounterHmac)

def State.kdfKmac256 (s : State) (j : Job) (_ : Nat) (x : Option Slot) : OpOut :=
  s.secretOut j [] (kmac256 (slotMat x) (kdfParts j).2 (pOutBytes j.param) (kdfParts j).1) x

def execKdfKmac256 (job : Nat) (s : State) : Host.Outcome State Fault Refusal :=
  engineCmd s (s.runKeyed job .kdfKmac256 s.kdfKmac256)

def State.hkdf (s : State) (j : Job) (_ : Nat) (x : Option Slot) : OpOut :=
  let p := j.param
  let n := algLen (pAlg p)
  let prk := hkdfExtract (algVar p) (kdfParts j).1 (slotMat x) n
  s.secretOut j [] (hkdfExpandOut (algVar p) prk (kdfParts j).2 (pOutBytes p) n) x

def execHkdf (job : Nat) (s : State) : Host.Outcome State Fault Refusal := engineCmd s (s.runKeyed job .hkdf s.hkdf)

def State.hkdfExpand (s : State) (j : Job) (_ : Nat) (x : Option Slot) : OpOut :=
  let p := j.param
  s.secretOut j [] (hkdfExpandOut (algVar p) (slotMat x) j.input (pOutBytes p) (algLen (pAlg p))) x

def execHkdfExpand (job : Nat) (s : State) : Host.Outcome State Fault Refusal :=
  engineCmd s (s.runKeyed job .hkdfExpand s.hkdfExpand)

/-! ## Hybrid KEM (R198, R199) -/

def State.hybridKeygen (s : State) (j : Job) (v : Nat) : OpOut :=
  let h := hybParts v
  let dk := mlKemNew h.1 (j.rnd.take 64)
  let k := ecNew h.2 (j.rnd.drop 64)
  s.keygenOut j (dk ++ k) (mlKemEk h.1 dk ++ ecPubOf h.2 k) 0

def execHybridKeygen (job : Nat) (s : State) : Host.Outcome State Fault Refusal :=
  engineCmd s (s.runPlain job .hybridKeygen s.hybridKeygen)

/-- The combined secret. -/
def hybSecret (v : Nat) (p kpq kec eph pk : Bytes) : Bytes :=
  if pConcat p then kpq ++ kec else sha3_256 (kpq ++ kec ++ eph ++ pk ++ ascii "LX9HYB" ++ [BitVec.ofNat 8 v])

def State.hybridEncaps (s : State) (j : Job) (v : Nat) (x : Option Slot) : OpOut :=
  let h := hybParts v
  let pub := pubIn j x (hybSizes v).1
  let ek := pub.take (mlKemSizes h.1).1
  let pk := pub.drop (mlKemSizes h.1).1
  if x.isNone && (!mlKemEkOk h.1 ek || !ecPublicOk h.2 pk) then OpOut.pointInvalid
  else
    let r := mlKemEncapsWith h.1 (kemEkMatrix h.1 ek) ek (j.rnd.take 32)
    let k := ecNew h.2 (j.rnd.drop 32)
    let eph := ecPubOf h.2 k
    match agreeSecret h.2 k pk with
    | none => OpOut.pointInvalid
    | some kec =>
      s.secretOut j (r.1 ++ eph) (hybSecret v j.param r.2 kec eph pk) x

def execHybridEncaps (job : Nat) (s : State) : Host.Outcome State Fault Refusal :=
  engineCmd s (s.runKeyed job .hybridEncaps s.hybridEncaps)

def State.hybridDecaps (s : State) (j : Job) (v : Nat) (x : Option Slot) : OpOut :=
  let h := hybParts v
  let n := (mlKemSizes h.1).2.2
  let eph := j.input.drop n
  let mat := slotMat x
  let dkLen := (mlKemSizes h.1).2.1
  let pk := ((x.map Slot.pub).getD []).drop (mlKemSizes h.1).1
  match agreeSecret h.2 (mat.drop dkLen) eph with
  | none => OpOut.pointInvalid
  | some kec =>
    let dk := mat.take dkLen
    let kpq := mlKemDecapsWith h.1 (kemEkMatrix h.1 (mlKemEk h.1 dk)) dk (j.input.take n)
    s.secretOut j [] (hybSecret v j.param kpq kec eph pk) x

def execHybridDecaps (job : Nat) (s : State) : Host.Outcome State Fault Refusal :=
  engineCmd s (s.runKeyed job .hybridDecaps s.hybridDecaps)

end Sys2Proof.Machine
end

