-- ==== Sys2Proof/Machine/CoreTiming.lean ====
section
/-! DEFINITION. The instruction formats of the control cores (R350) and the cycles their instructions take (R336, R347,
R348): in which cycle an instruction issues, when its results are ready, and how vector instructions chain. -/

namespace Sys2Proof.Machine

open Sys2Proof

/-! ## Formats (R350) -/

abbrev CWord := BitVec 32

def cf (w : CWord) (hi lo : Nat) : Nat := bitsOf w.toNat hi lo
def cOp (w : CWord) : Nat := cf w 31 24
def cD (w : CWord) : Nat := cf w 23 19
def cA (w : CWord) : Nat := cf w 18 14
def cB (w : CWord) : Nat := cf w 13 9
def cFn (w : CWord) : Nat := cf w 8 0
def cK14 (w : CWord) : BitVec 64 := (w.extractLsb' 0 14).signExtend 64
def cK19 (w : CWord) : BitVec 64 := (w.extractLsb' 0 19).signExtend 64
def cW (w : CWord) : Nat := cf w 8 7
def cG (w : CWord) : Nat := cf w 6 5
def cVf (w : CWord) : Nat := cf w 4 0

/-- NF of a record instruction (R349). -/
def recFields (w : CWord) : Nat := cVf w + 2

/-! ## What an instruction reads, occupies and writes (R347, R351, R352) -/

/-- The four units, and the scalar pipeline. -/
inductive CUnit where
  | scalar | lsu | alu | mul | perm
  deriving DecidableEq, Repr

def CUnit.code : CUnit → Nat
  | .scalar => 4 | .lsu => 0 | .alu => 1 | .mul => 2 | .perm => 3

/-- The unit of an instruction. -/
def cUnit (w : CWord) : CUnit :=
  match cOp w with
  | 0x41 | 0x42 => if cVf w < 0x08 then .alu else if cVf w ≤ 0x0A then .mul else if cVf w ≤ 0x10 then .alu else .perm
  | 0x43 => .perm
  | 0x48 | 0x49 | 0x4A | 0x4C | 0x4D | 0x4E => .lsu
  | _ => .scalar

/-- Where a load or store of vectors goes: scratch, or the staging area or the input stream. -/
inductive CPlace where
  | scratch | window | other
  deriving DecidableEq, Repr

def cPlace (a : Nat) : CPlace :=
  if 0x200000 ≤ a && a < 0x240000 then .scratch else if 0x1000000 ≤ a then .window else .other

/-- What timing needs besides the word: the active elements, the place that memory operands lie in, and the cycles of a
division. -/
structure CCtx where
  active : Nat
  place : CPlace
  div : Nat
  deriving DecidableEq, Repr

/-- Latency in cycles; one that the table does not state is free (log entry 26). -/
def cLatency (w : CWord) (x : CCtx) : Nat :=
  let free := max 1 (Config.coreLatency (cOp w) (cFn w))
  match cOp w with
  | 0x01 => if 0x0C ≤ cFn w && cFn w ≤ 0x0E then 3 else if 0x0F ≤ cFn w && cFn w ≤ 0x12 then max 1 (min 66 x.div) else 1
  | 0x10 | 0x11 | 0x12 | 0x13 | 0x14 | 0x15 | 0x16 | 0x31 => 2
  | 0x30 => match cFn w with | 0x00 | 0x02 => 4 | 0x03 => 20 | 0x04 => 24 | _ => free
  | 0x41 | 0x42 =>
    if cVf w < 0x08 then 1 else if cVf w ≤ 0x0A then (if cW w = 3 then 4 else 3) else if cVf w ≤ 0x10 then 1 else 2
  | 0x43 => if cVf w = 0 then 3 else 2 + (max 1 x.active - 1).log2 + b2n (decide (2 ≤ x.active))
  | 0x48 | 0x49 => match x.place with | .scratch => 3 | .window => 6 | .other => free
  | 0x4A => match x.place with | .window => 6 + recFields w | _ => free
  | 0x4C | 0x4D | 0x4E => 3
  | _ => 1

/-- Cycles in which it issues its beats: one for each register of its group, eight elements a cycle when strided or
picked. -/
def cBeats (w : CWord) (x : CCtx) : Nat :=
  let gs := 2 ^ cG w
  match cOp w with
  | 0x41 | 0x42 | 0x48 | 0x4C => gs
  | 0x49 | 0x4D => max 1 (ceilDiv x.active 8)
  | 0x43 => if cVf w = 0 then max 1 (ceilDiv x.active 8) else gs
  | 0x4A | 0x4E => recFields w * gs
  | _ => 1

/-- Integer registers read. -/
def cIntsRead (w : CWord) : List Nat :=
  match cOp w with
  | 0x01 => [cA w, cB w]
  | 0x02 | 0x03 | 0x04 | 0x05 | 0x06 | 0x07 | 0x08 | 0x09 | 0x26 | 0x31 | 0x32 => [cA w]
  | 0x10 | 0x11 | 0x12 | 0x13 | 0x14 | 0x15 | 0x16 => [cA w]
  | 0x18 | 0x19 | 0x1A | 0x1B => [cA w, cD w]
  | 0x0B | 0x20 | 0x21 | 0x22 | 0x23 => [cD w]
  | 0x30 => if cFn w = 0x0B || cFn w = 0x0D then [cA w] else []
  | 0x38 => if cFn w = 0 then [cA w, cB w] else []
  | 0x40 => if cVf w = 0 then [cA w] else []
  | 0x42 => if cVf w = 0x13 then [cA w, cB w] else [cB w]
  | 0x48 | 0x49 | 0x4C | 0x4D => [cA w, cB w]
  | 0x4A | 0x4E => [cA w]
  | _ => []

/-- Floating-point registers read. -/
def cFloatsRead (w : CWord) : List Nat :=
  match cOp w with
  | 0x30 =>
    if cFn w = 0x0B || cFn w = 0x0D then [] else if cFn w = 0x04 || 0x0A ≤ cFn w then [cA w] else [cA w, cB w]
  | 0x32 => [cD w]
  | _ => []

/-- Vector registers that beat `k` reads. A record store's beats take the fields in turn, and a strided or picked beat all
registers of its group. -/
def cVecsRead (w : CWord) (k : Nat) : List Nat :=
  let gs := 2 ^ cG w
  let all (n : Nat) : List Nat := (List.range gs).map fun g => n + g
  match cOp w with
  | 0x41 => [cA w + k] ++ (if cVf w = 0x10 then [] else [cB w + k]) ++ (if cVf w = 0x0F then [cD w + k] else [])
  | 0x42 => (if cVf w = 0x13 then [cD w + k] else [cA w + k]) ++ (if cVf w = 0x0F then [cD w + k] else [])
  | 0x43 => if cVf w = 0 then all (cA w) ++ all (cB w) else [cA w + k]
  | 0x4C => [cD w + k]
  | 0x4D => all (cD w)
  | 0x4E => (List.range (recFields w)).map fun j => cD w + j * gs + k / recFields w
  | _ => []

/-- The integer register written, the floating-point one, and the vector register beat `k` writes. -/
def cIntOut (w : CWord) : Option Nat :=
  match cOp w with
  | 0x25 => some 31
  | 0x30 => if cFn w = 0x07 || cFn w = 0x0A || cFn w = 0x0C then some (cD w) else none
  | 0x38 => if cFn w = 2 || cFn w = 3 then some (cD w) else none
  | 0x40 => some (cD w)
  | 0x42 => if cVf w = 0x14 then some (cD w) else none
  | 0x43 => if cVf w = 0 then none else some (cD w)
  | op => if (0x01 ≤ op && op ≤ 0x0B) || (0x10 ≤ op && op ≤ 0x16) then some (cD w) else none

def cFloatOut (w : CWord) : Option Nat :=
  match cOp w with
  | 0x30 => if cFn w = 0x07 || cFn w = 0x0A || cFn w = 0x0C then none else some (cD w)
  | 0x31 => some (cD w)
  | _ => none

def cVecsOut (w : CWord) (k last : Nat) : List Nat :=
  let gs := 2 ^ cG w
  let all (n : Nat) : List Nat := if k = last then (List.range gs).map fun g => n + g else []
  match cOp w with
  | 0x41 | 0x48 => [cD w + k]
  | 0x42 => if cVf w = 0x14 then [] else [cD w + k]
  | 0x43 => if cVf w = 0 then all (cD w) else []
  | 0x49 => all (cD w)
  | 0x4A => [cD w + k % recFields w * gs + k / recFields w]
  | _ => []

/-- In the overlay v0 to v7 exist alone, in groups of one (R345). -/
def overlayOk (w : CWord) : Bool :=
  let vector : Bool := 0x40 ≤ cOp w && cOp w ≤ 0x4E
  !vector || (cG w == 0 && ((cVecsRead w 0 ++ (List.range (cBeats w { active := 1, place := .scratch, div := 0 })).flatMap
    fun k => cVecsOut w k k).all fun n => n < 8))

/-! ## Issue and chaining (R347, R348) -/

/-- The last cycle in which one of these registers becomes ready. -/
def readyAt (x : Tbl Nat) (ns : List Nat) : Nat := (ns.map (tget 0 x)).foldl max 0

/-- The cycles in which beats start: each in its own cycle, after the producer's beat is ready. -/
def beatsFrom (rdy : Nat → Nat) : Nat → Nat → Nat → List Nat
  | 0, _, _ => []
  | n + 1, k, t =>
    let b := max t (rdy k + 1)
    b :: beatsFrom rdy n (k + 1) (b + 1)

def setReady (x : Tbl Nat) (ns : List Nat) (t : Nat) : Tbl Nat := ns.foldl (fun x n => tset x n t) x

/-- One instruction issues: in the first cycle after the last one's in which its scalar operands are ready, delayed by
`miss` cycles of cache misses; COMMIT waits for every result. A vector instruction's beats then follow in its unit. -/
def Score.issue (c : Score) (w : CWord) (x : CCtx) (miss : Nat) : Score :=
  let waits := max (readyAt c.ints (cIntsRead w)) (readyAt c.floats (cFloatsRead w))
  let waits := if cOp w = 0x38 && cFn w = 0 then max waits c.last else waits
  let t := max c.cycle waits + 1 + miss
  let u := (cUnit w).code
  let n := cBeats w x
  let bs := if cUnit w = .scalar then [t] else beatsFrom (fun k => readyAt c.vecs (cVecsRead w k)) n 0 (max t (tget 0 c.units u))
  let lat := cLatency w x
  let done (b : Nat) : Nat := b + lat - 1
  let fin := bs.getLastD t
  { cycle := t
    ints := setReady c.ints (cIntOut w).toList (done fin)
    floats := setReady c.floats (cFloatOut w).toList (done fin)
    vecs := (bs.zip (List.range bs.length)).foldl (fun v b => setReady v (cVecsOut w b.2 (bs.length - 1)) (done b.1)) c.vecs
    units := if cUnit w = .scalar then c.units else tset c.units u (fin + 1)
    last := max c.last (done fin)
    stalled := false }

end Sys2Proof.Machine
end

