-- ==== Sys2Proof/Machine/Float.lean ====
section
/-! DEFINITION. The binary64 operations of the control cores (R342, R351): IEEE 754 with rounding to nearest, ties to even,
every NaN result the quiet NaN 0x7FF8_0000_0000_0000. -/

namespace Sys2Proof.Machine

open Sys2Proof

abbrev F64 := BitVec 64

def fNan : F64 := 0x7FF8000000000000
def fSign (x : F64) : Bool := x.getLsbD 63
def fExp (x : F64) : Nat := bitsOf x.toNat 62 52
def fFrac (x : F64) : Nat := x.toNat % 2 ^ 52
def fIsNan (x : F64) : Bool := fExp x == 2047 && fFrac x != 0
def fIsInf (x : F64) : Bool := fExp x == 2047 && fFrac x == 0
def fIsZero (x : F64) : Bool := fExp x == 0 && fFrac x == 0
def fInf (s : Bool) : F64 := BitVec.ofNat 64 (b2n s * 2 ^ 63 + 2047 * 2 ^ 52)
def fZero (s : Bool) : F64 := BitVec.ofNat 64 (b2n s * 2 ^ 63)

/-- A finite value is ± mant × 2^(exp − 1075). -/
def fMant (x : F64) : Nat := if fExp x = 0 then fFrac x else fFrac x + 2 ^ 52
def fScale (x : F64) : Nat := max 1 (fExp x)

/-- The nearest value to ± m × 2^(e − 1075), where `sticky` says that a smaller part was cut off behind it. -/
def fRound (s : Bool) (m : Nat) (e : Int) (sticky : Bool) : F64 :=
  if m = 0 then fZero s
  else
    let top := e + Int.ofNat m.log2 - 52
    let lsb := max top 1
    let sh := lsb - e
    let q0 := if sh ≤ 0 then m * 2 ^ (-sh).toNat else m / 2 ^ sh.toNat
    let up : Bool := if sh ≤ 0 then false else
      let r := m % 2 ^ sh.toNat
      let half := 2 ^ (sh.toNat - 1)
      decide (half < r) || (r == half && (sticky || q0 % 2 == 1))
    let q := if up then q0 + 1 else q0
    let f := lsb.toNat
    let f := if 2 ^ 53 ≤ q then f + 1 else f
    let q := if 2 ^ 53 ≤ q then q / 2 else q
    if 2047 ≤ f then fInf s
    else if q < 2 ^ 52 then BitVec.ofNat 64 (b2n s * 2 ^ 63 + q)
    else BitVec.ofNat 64 (b2n s * 2 ^ 63 + f * 2 ^ 52 + (q - 2 ^ 52))

/-- The exact value as a signed multiple of 2^(e − 1075). -/
def fInt (x : F64) (e : Nat) : Int :=
  let v := Int.ofNat (fMant x * 2 ^ (fScale x - e))
  if fSign x then -v else v

def fAdd (a b : F64) : F64 :=
  if fIsNan a || fIsNan b then fNan
  else if fIsInf a then (if fIsInf b && fSign a != fSign b then fNan else a)
  else if fIsInf b then b
  else
    let e := min (fScale a) (fScale b)
    let v := fInt a e + fInt b e
    if v = 0 then fZero (fSign a && fSign b) else fRound (decide (v < 0)) v.natAbs (Int.ofNat e) false

def fNeg (a : F64) : F64 := a ^^^ BitVec.ofNat 64 (2 ^ 63)

def fSub (a b : F64) : F64 := if fIsNan b then fNan else fAdd a (fNeg b)

def fMul (a b : F64) : F64 :=
  let s := fSign a != fSign b
  if fIsNan a || fIsNan b then fNan
  else if fIsInf a || fIsInf b then (if fIsZero a || fIsZero b then fNan else fInf s)
  else fRound s (fMant a * fMant b) (Int.ofNat (fScale a + fScale b) - 1075) false

def fDiv (a b : F64) : F64 :=
  let s := fSign a != fSign b
  if fIsNan a || fIsNan b then fNan
  else if fIsInf a then (if fIsInf b then fNan else fInf s)
  else if fIsInf b then fZero s
  else if fIsZero b then (if fIsZero a then fNan else fInf s)
  else
    let n := fMant a * 2 ^ 120
    fRound s (n / fMant b) (Int.ofNat (fScale a) - Int.ofNat (fScale b) + 1075 - 120) (n % fMant b != 0)

/-- The integer square root, one bit of the root at a time from bit `n` − 1 down. -/
def isqrtGo : Nat → Nat → Nat → Nat
  | 0, _, r => r
  | n + 1, x, r => isqrtGo n x (if (r + 2 ^ n) * (r + 2 ^ n) ≤ x then r + 2 ^ n else r)

def isqrt (x : Nat) : Nat := isqrtGo (x.log2 / 2 + 1) x 0

def fSqrt (a : F64) : F64 :=
  if fIsNan a then fNan
  else if fIsZero a then a
  else if fSign a then fNan
  else if fIsInf a then a
  else
    -- m × 2^(e − 1075) with an even exponent
    let odd := fScale a % 2 == 0
    let m := (if odd then 2 * fMant a else fMant a) * 2 ^ 128
    let e := Int.ofNat (fScale a) - 1075 - (if odd then 1 else 0) - 128
    let r := isqrt m
    fRound false r (e / 2 + 1075) (r * r != m)

/-- Below, equal or above, on values that are not NaN; the zeros are equal. -/
def fLt (a b : F64) : Bool :=
  if fIsZero a && fIsZero b then false
  else
    let key (x : F64) : Int := if fSign x then -Int.ofNat (x.toNat % 2 ^ 63) else Int.ofNat x.toNat
    key a < key b

def fCmp (a b : F64) : BitVec 64 :=
  if fIsNan a || fIsNan b then 2 else if fLt a b then BitVec.allOnes 64 else if fLt b a then 1 else 0

/-- FMIN (false) or FMAX (true) of two operands. Of a NaN and a number it is the number or the canonical NaN, of two zeros of
different sign either of them: which, is a free choice (log entry 26). -/
def fPick (top : Bool) (a b : F64) : F64 :=
  if fIsNan a && fIsNan b then fNan
  else if fIsNan a then (if Config.floatMinMax top a b then fNan else b)
  else if fIsNan b then (if Config.floatMinMax top a b then fNan else a)
  else if fIsZero a && fIsZero b && fSign a != fSign b then (if Config.floatMinMax top a b then a else b)
  else if top then (if fLt a b then b else a)
  else if fLt b a then b else a

def fMin (a b : F64) : F64 := fPick false a b
def fMax (a b : F64) : F64 := fPick true a b

/-- Toward zero, saturating; a NaN gives 0 (R342). -/
def fToInt (a : F64) : BitVec 64 :=
  if fIsNan a then 0
  else
    let e := Int.ofNat (fScale a) - 1075
    let v := if fIsInf a then 2 ^ 64 else if 12 ≤ e then 2 ^ 64
      else if 0 ≤ e then fMant a * 2 ^ e.toNat else fMant a / 2 ^ (-e).toNat
    if fSign a then (if 2 ^ 63 ≤ v then BitVec.ofNat 64 (2 ^ 63) else 0 - BitVec.ofNat 64 v)
    else if 2 ^ 63 ≤ v then BitVec.ofNat 64 (2 ^ 63 - 1) else BitVec.ofNat 64 v

def fOfInt (a : BitVec 64) : F64 := fRound (a.toInt < 0) a.toInt.natAbs 1075 false

end Sys2Proof.Machine
end

