-- ==== Sys2Proof/Machine/CoreOps.lean ====
section
/-! DEFINITION. What the instructions of the control cores share: their rows, the owner-mode sandbox (R337), faults and
limits (R340), COMMIT and END (R339), recovery (R346), and how one instruction of a running node is carried out. -/

namespace Sys2Proof.Machine

open Sys2Proof

/-! ## Rows (R351, R352) -/

/-- An instruction of the tables of R351 and R352, by OP, with FN where the OP has several. -/
structure Row where
  op : Nat
  fn : Nat
  deriving DecidableEq, Repr

/-- The row a word belongs to; none for an undefined OP or FN, and for a service instruction. -/
def rowOf (w : CWord) : Option Row :=
  let op := cOp w
  let r (fn : Nat) : Option Row := some { op := op, fn := fn }
  match op with
  | 0x01 => if cFn w ≤ 0x16 then r (cFn w) else none
  | 0x02 | 0x03 | 0x04 | 0x05 | 0x06 | 0x07 | 0x08 | 0x09 | 0x0A | 0x0B => r 0
  | 0x10 | 0x11 | 0x12 | 0x13 | 0x14 | 0x15 | 0x16 | 0x18 | 0x19 | 0x1A | 0x1B => r 0
  | 0x20 | 0x21 | 0x22 | 0x23 | 0x24 | 0x25 | 0x26 => r 0
  | 0x30 => if cFn w ≤ 0x07 || (0x0A ≤ cFn w && cFn w ≤ 0x0D) then r (cFn w) else none
  | 0x31 | 0x32 => r 0
  | 0x38 => if cFn w ≤ 0x03 then r (cFn w) else none
  | 0x40 => if cVf w ≤ 1 then r (cVf w) else none
  | 0x41 => if cVf w ≤ 0x10 then r (cVf w) else none
  | 0x42 => if cVf w ≤ 0x0F then r 0 else if 0x11 ≤ cVf w && cVf w ≤ 0x14 then r (cVf w) else none
  | 0x43 => if cVf w ≤ 3 then r (cVf w) else none
  | 0x48 | 0x49 | 0x4C | 0x4D => if cVf w = 0 then r 0 else none
  | 0x4A | 0x4E => if cVf w ≤ 2 then r 0 else none
  | _ => none

/-- The fields an instruction wants at 0 (R344, R349, R351, R352). -/
def rsvdOk (w : CWord) : Bool :=
  match cOp w, cVf w with
  | 0x0B, _ => cf w 18 16 == 0
  | 0x24, _ | 0x25, _ => cD w == 0
  | 0x26, _ => cD w == 0 && cB w == 0 && cFn w == 0
  | 0x40, 0 => cB w == 0
  | 0x41, 0x10 => cB w == 0
  | 0x4A, _ | 0x4E, _ => cB w == 0
  | _, _ => true

/-! ## The running node -/

/-- A control core with the owner-mode node it runs. -/
structure CRun where
  idx : Nat
  core : Core
  job : Job
  ni : Nat
  node : Node
  prog : ProgRec
  word : Option CWord
  /-- lines of the program's image that are poisoned (R367) -/
  bad : List Nat
  deriving DecidableEq, Repr

/-- The 32-bit word at an address of the program code; none beyond it (R337). -/
def codeWord (code : Bytes) (pc : Nat) : Option CWord :=
  if pc + 4 ≤ code.length && pc % 4 == 0 then some (BitVec.ofNat 32 (leNat (slice code pc 4))) else none

/-- The owner-mode node that a core runs, in a job that still runs or past its own COMMIT (R126, R339). -/
def State.cRun (s : State) (i : Nat) : Option CRun :=
  let c := s.core i
  match (s.tile (tkey .cc i)).node with
  | none => none
  | some (id, x) =>
    match s.job id, s.cfg.progs.find? fun p => p.id == c.prog with
    | some j, some p =>
      match j.node x with
      | some n =>
        if c.ownerMode && (j.status.isNone || c.result.isSome) then
          some { idx := i, core := c, job := j, ni := x, node := n, prog := p, word := codeWord p.code c.pc,
                 bad := s.progPoison p }
        else none
      | none => none
    | _, _ => none

/-! ## What an instruction does -/

/-- The outcome of an instruction: the core after it, a stall for input, a fault, the end of the node, or a status that
ends the job. -/
inductive CRes where
  | go (c : Core)
  | stall
  | access
  | illegal
  | commit (c : Core)
  | fin
  | stop (st : Status)
  deriving DecidableEq, Repr

def Core.i (c : Core) (n : Nat) : BitVec 64 := if n = 0 then 0 else c.iregs.toList.getD n 0

/-- Writes to i0 are discarded (R338). -/
def Core.setI (c : Core) (n : Nat) (v : BitVec 64) : Core :=
  if n = 0 then c else { c with iregs := c.iregs.setIfInBounds n v }

def Core.f (c : Core) (n : Nat) : F64 := c.fregs.toList.getD n 0
def Core.setF (c : Core) (n : Nat) (v : F64) : Core := { c with fregs := c.fregs.setIfInBounds n v }

def Core.next (c : Core) : Core := { c with pc := c.pc + 4 }

/-- pc + 4 × K, modulo 2^64. -/
def Core.jumpBy (c : Core) (k : BitVec 64) : Core := { c with pc := (BitVec.ofNat 64 c.pc + 4 * k).toNat }

/-! ## The sandbox (R337) -/

def scratchBase : Nat := 0x200000
def scratchSize : Nat := 0x40000

/-- What a load of `n` bytes meets: the bytes, a stall until input arrives, a poisoned line, or an access fault. -/
inductive CLoad where
  | bytes (b : Bytes)
  | stall
  | poison
  | fault
  deriving DecidableEq, Repr

def inWindow (base size a n : Nat) : Bool := base ≤ a && a + n ≤ base + size

def CRun.load (r : CRun) (a n : Nat) : CLoad :=
  if inWindow 0x100000 (min r.prog.data.length 0x40000) a n then
    (if r.bad.any fun l => ceilDiv r.prog.code.length 64 + (a - 0x100000) / 64 ≤ l ∧
        l ≤ ceilDiv r.prog.code.length 64 + (a + n - 1 - 0x100000) / 64 then .poison
     else .bytes (fit n (slice r.prog.data (a - 0x100000) n)))
  else if inWindow scratchBase scratchSize a n then .bytes (memRead r.core.scratch (a - scratchBase) n)
  else if inWindow 0x1000000 (min r.job.stage.length 0x100000) a n then
    .bytes (fit n (slice r.job.stage (a - 0x1000000) n))
  else if inWindow 0x4000000 r.job.entry.inLen a n then
    (if a + n ≤ 0x4000000 + r.job.input.length then .bytes (fit n (slice r.job.input (a - 0x4000000) n)) else .stall)
  else .fault

/-- A store reaches scratch alone. -/
def Core.store (c : Core) (a : Nat) (b : Bytes) : Option Core :=
  if inWindow scratchBase scratchSize a b.length then
    some { c with scratch := memWrite c.scratch (a - scratchBase) b }
  else none

/-! ## Faults and ends -/

def ccKey (i : Nat) : Nat := tkey .cc i

def State.countFault (s : State) : State :=
  { s with sel := { s.sel with ccFaults := satAdd 0xFFFFFFFF s.sel.ccFaults 1 } }

def CRun.committed (r : CRun) : Bool := r.core.result.isSome

/-- ENGINE_FAULT at once, counted in CCO_FAULTS (R340). -/
def State.ccFault (s : State) (r : CRun) : State := s.countFault.failNode r.job.id r.ni .engineFault

/-- A fault that restarts the node, until MAX_RESTART is passed (R144, R340). -/
def State.ccRestart (s : State) (r : CRun) : State :=
  let s := s.nodeFault r.job.id r.ni
  match s.job r.job.id with
  | some j => if j.status = some .engineFault then s.countFault else s
  | none => s

/-- END (R339): in a job that still runs, the result goes to the output of an OUTPUT node, else behind what the staging area holds,
once the basin's staging SRAM has room (log entry 121). -/
def State.ccEnd (s : State) (r : CRun) : State :=
  let c := s.core r.idx
  match c.result, s.job r.job.id with
  | some (a, n), some j =>
    if j.status.isNone && !r.node.info.output && !s.stageRoom j.basin n then s else
    let bs := memRead c.scratch a n
    let j := if j.status.isSome then j
      else if r.node.info.output then { j with output := bs } else { j with stage := j.stage ++ bs }
    let runs := satAdd 0xFFFFFFFF (tget 0 s.sel.progRuns r.prog.id) 1
    let s := { s.setJob j with sel := { s.sel with progRuns := tset s.sel.progRuns r.prog.id runs } }
    s.finishNode r.job.id r.ni
  | _, _ => s

/-- COMMIT has passed its checks (R339): the node's mark, and the job's commit point at its first OUTPUT node. -/
def State.ccCommit (s : State) (r : CRun) (c : Core) : State :=
  let k := ccKey r.idx
  let t := s.tile k
  let s := (s.setCore r.idx { c with commitPc := r.core.pc }).setTile k { t with seqr := { t.seqr with committed := true } }
  match s.job r.job.id with
  | some j => if j.nodes.findIdx? (fun m => m.info.output) = some r.ni then s.setJob { j with committed := true } else s
  | none => s

/-! ## One instruction -/

/-- ECC of scratch, caches and register files (R336). -/
def State.ccCount (s : State) (i : Nat) (m : CoreEvent) : State :=
  let k := ccKey i
  let t := s.tile k
  match m with
  | .clean => s
  | .corrected => s.setTile k { t with ce := satAdd 0xFFFF t.ce 1 }
  | .uncorrectable | .vectorError => s.setTile k { t with ue := satAdd 0xFFFF t.ue 1 }

/-- After COMMIT only integer ALU and constant instructions, forward branches and jumps within the section, and END are
carried out; any other, and a 65th, acts as END (R339). -/
def CRun.postOk (r : CRun) (w : CWord) : Bool :=
  let op := cOp w
  let inside (k : BitVec 64) : Bool :=
    0 < k.toInt && decide ((r.core.jumpBy k).pc ≤ r.core.commitPc + 4 * 64)
  r.core.postCount < 64 &&
    ((0x01 ≤ op && op ≤ 0x0B) || (0x20 ≤ op && op ≤ 0x24 && inside (cK19 w)) || (op == 0x38 && cFn w == 1))

/-- What timing needs of a word: active elements, the place of its memory operands, the cycles of a division. -/
def State.ccCtx (s : State) (r : CRun) (w : CWord) : CCtx where
  active := min r.core.act.toNat ((if (s.cfg.reach r.job.reach).any ReachRec.vlen256 then 256 else 512) * 2 ^ cG w / (8 * 2 ^ cW w))
  place := cPlace ((r.core.i (cA w) + (if cOp w = 0x48 then r.core.i (cB w) else 0)).toNat)
  div := Config.divCycles (cFn w) (r.core.i (cA w)) (r.core.i (cB w))

/-- Cycles that a core's caches add to an instruction: its own fetch, and a load from other than scratch (R336; free, log
entry 26). -/
def missCycles (r : CRun) (w : CWord) : Nat :=
  let a := (r.core.i (cA w)).toNat
  Config.missCycles r.idx r.core.pc r.core.score.cycle +
    (if (0x10 ≤ cOp w && cOp w ≤ 0x16 || cOp w = 0x31) && cPlace a != .scratch then Config.missCycles r.idx a r.core.score.cycle
     else 0)

/-- The score after a word has issued; a load that waited for input issues no earlier than the clock's present cycle. -/
def State.scoreAfter (s : State) (r : CRun) (w : CWord) : Score :=
  let c := r.core.score
  let c := if c.stalled then { c with cycle := max c.cycle (s.cyclesOf (s.now - (s.tile (ccKey r.idx)).startNs)) } else c
  c.issue w (s.ccCtx r w) (missCycles r w)

/-- One more instruction of the node: its cycles, over all restarts (R340), and its place in the post-commit section. -/
def State.ccCycle (s : State) (r : CRun) (x : Score) : State :=
  let c := s.core r.idx
  let s := s.setCore r.idx { c with score := x, postCount := if r.committed then c.postCount + 1 else c.postCount }
  match s.job r.job.id with
  | some j => s.setJob (j.setNode r.ni { r.node with cycles := r.node.cycles + (x.cycle - r.core.score.cycle) })
  | none => s

def State.ccApply (s : State) (r : CRun) : CRes → State
  | .go c => s.setCore r.idx { c with score := (s.core r.idx).score, postCount := (s.core r.idx).postCount }
  | .stall => s
  | .access | .illegal => s.ccFault r
  | .commit c => s.ccCommit r { c with score := (s.core r.idx).score }
  | .fin => if r.committed then s.ccEnd r else s.ccFault r
  | .stop st => s.failNode r.job.id r.ni st

/-- COMMIT waits at the job's commit point for the comparison of its input's length (R103, R104). -/
def State.ccCommitWaits (s : State) (r : CRun) (w : CWord) : Bool :=
  cOp w == 0x38 && cFn w == 0 && r.job.nodes.findIdx? (fun m => m.info.output) == some r.ni &&
    !(r.job.inDone && s.leaseCommitted r.job)

/-- Carries out the word: the limit, the post-commit rule, the formats, then the instruction itself. -/
def State.ccExecute (s : State) (r : CRun) (w : CWord) (sem : State → CRun → CWord → CRes) : State :=
  let x := s.scoreAfter r w
  let r' := { r with core := { r.core with score := x } }
  if r.committed then
    (if r.postOk w && rsvdOk w then (s.ccCycle r x).ccApply r (sem s r' w) else s.ccEnd r)
  else if r.core.limit ≤ r.node.cycles + (x.cycle - r.core.score.cycle) then s.ccFault r
  else if !rsvdOk w || (r.core.overlay && !overlayOk w) then s.ccFault r
  else
    let res := sem s r' w
    if res = .stall ∨ s.ccCommitWaits r w then s.setCore r.idx { r.core with score := { r.core.score with stalled := true } }
    else (s.ccCycle r x).ccApply r res

/-- What a core's memories and register files meet while it runs no owner-mode instruction: counted (R336), a fault of the
service-mode node it runs (R144, R340), and recovery after an error of the vector registers (R346). -/
def State.ccError (s : State) (i : Nat) (m : CoreEvent) : State :=
  let s := s.ccCount i m
  let t := s.tile (ccKey i)
  let s := match t.node with
    | some (id, x) => if m = .uncorrectable || m = .vectorError then s.nodeFault id x else s
    | none => s
  if m = .vectorError && (t.st == .idle || t.st == .busy) then s.recover i else s

/-- One instruction of an owner-mode core, when the word at its pc belongs to the row. A word of no row is an illegal
instruction under every row; after COMMIT it acts as END. -/
def State.cc (s : State) (i : Nat) (m : CoreEvent) (row : Row) (sem : State → CRun → CWord → CRes) : State :=
  match s.cRun i with
  | none => if i < 16 then s.ccError i m else s
  | some r =>
    let k := r.word.bind rowOf
    if k.isSome && k != some row then s
    else if r.bad.contains (r.core.pc / 64) && r.core.pc < r.prog.code.length then s.failNode r.job.id r.ni .memUncorrectable
    else
      let s := s.ccCount i m
      if m = .uncorrectable then
        (if r.committed then s.failNode r.job.id r.ni .faultAfterCommit else s.ccRestart r)
      else if m = .vectorError && !r.committed then (s.ccRestart r).recover i
      else
        let s := if m = .vectorError then s.setCore i { s.core i with recoverAtEnd := true } else s
        match k, r.word with
        | some _, some w => s.ccExecute { r with core := s.core i } w sem
        | _, _ => if r.committed then s.ccEnd r else s.ccFault r

/-! ## Shapes of scalar instructions -/

/-- iD ← f iA iB. -/
def semAlu (f : BitVec 64 → BitVec 64 → BitVec 64) (_ : State) (r : CRun) (w : CWord) : CRes :=
  .go (r.core.setI (cD w) (f (r.core.i (cA w)) (r.core.i (cB w)))).next

/-- iD ← f iA K. -/
def semAluK (f : BitVec 64 → BitVec 64 → BitVec 64) (_ : State) (r : CRun) (w : CWord) : CRes :=
  .go (r.core.setI (cD w) (f (r.core.i (cA w)) (cK14 w))).next

/-- The address iA + K × size. -/
def kAddr (r : CRun) (w : CWord) (size : Nat) : Nat := (r.core.i (cA w) + cK14 w * BitVec.ofNat 64 size).toNat

/-- A naturally aligned load of `n` bytes into a register by `put`. -/
def semLoad (n : Nat) (put : Core → Nat → Nat → Core) (_ : State) (r : CRun) (w : CWord) : CRes :=
  let a := kAddr r w n
  if a % n != 0 then .access
  else
    match r.load a n with
    | .bytes b => .go (put r.core (cD w) (leNat b)).next
    | .stall => .stall
    | .poison => .stop .memUncorrectable
    | .fault => .access

def putZero (c : Core) (d v : Nat) : Core := c.setI d (BitVec.ofNat 64 v)
def putSigned (n : Nat) (c : Core) (d v : Nat) : Core := c.setI d ((BitVec.ofNat (8 * n) v).signExtend 64)
def putFloat (c : Core) (d v : Nat) : Core := c.setF d (BitVec.ofNat 64 v)

/-- A naturally aligned store of the low `n` bytes of a register. -/
def semStore (n : Nat) (src : Core → Nat → BitVec 64) (_ : State) (r : CRun) (w : CWord) : CRes :=
  let a := kAddr r w n
  if a % n != 0 then .access
  else
    match r.core.store a (toLe n (src r.core (cD w)).toNat) with
    | some c => .go c.next
    | none => .access

/-- A branch of iD on `p`. -/
def semBranch (p : BitVec 64 → Bool) (_ : State) (r : CRun) (w : CWord) : CRes :=
  .go (if p (r.core.i (cD w)) then r.core.jumpBy (cK19 w) else r.core.next)

/-- fD ← f fA fB. -/
def semFloat (f : F64 → F64 → F64) (_ : State) (r : CRun) (w : CWord) : CRes :=
  .go (r.core.setF (cD w) (f (r.core.f (cA w)) (r.core.f (cB w)))).next

end Sys2Proof.Machine
end

