-- ==== Sys2Proof/Machine/CoreScalar.lean ====
section
/-! DEFINITION. The scalar instructions of the control cores (R342, R351), and the end of a core's recovery (R346). -/

namespace Sys2Proof.Machine

open Sys2Proof

/-! ## Integer arithmetic -/

/-- −1, 0 or +1 (R342). -/
def cmpResult (lt eq : Bool) : BitVec 64 := if lt then BitVec.allOnes 64 else if eq then 0 else 1

def cmpSigned (a b : BitVec 64) : BitVec 64 := cmpResult (a.slt b) (a == b)
def cmpUnsigned (a b : BitVec 64) : BitVec 64 := cmpResult (a.ult b) (a == b)

/-- The high half of the exact product. -/
def mulHiS (a b : BitVec 64) : BitVec 64 := BitVec.ofInt 64 (a.toInt * b.toInt / 2 ^ 64)
def mulHiU (a b : BitVec 64) : BitVec 64 := BitVec.ofNat 64 (a.toNat * b.toNat / 2 ^ 64)

/-- Division toward zero; by 0 it gives 0, and the most negative value by −1 gives itself (R342). -/
def divS (a b : BitVec 64) : BitVec 64 := if b = 0 then 0 else BitVec.ofInt 64 (a.toInt.tdiv b.toInt)
def divU (a b : BitVec 64) : BitVec 64 := if b = 0 then 0 else BitVec.ofNat 64 (a.toNat / b.toNat)

/-- The remainder; by 0 it gives the dividend (R342). -/
def modS (a b : BitVec 64) : BitVec 64 := if b = 0 then a else BitVec.ofInt 64 (a.toInt.tmod b.toInt)
def modU (a b : BitVec 64) : BitVec 64 := if b = 0 then a else BitVec.ofNat 64 (a.toNat % b.toNat)

/-- Shifts and rotation use the low six bits of their count. -/
def shiftCount (b : BitVec 64) : Nat := b.toNat % 64

def execAdd (core : Nat) (mem : CoreEvent) (s : State) : Host.Outcome State Fault Refusal :=
  engineCmd s (s.cc core mem { op := 0x01, fn := 0x00 } (semAlu (fun a b => a + b)))

def execSub (core : Nat) (mem : CoreEvent) (s : State) : Host.Outcome State Fault Refusal :=
  engineCmd s (s.cc core mem { op := 0x01, fn := 0x01 } (semAlu (fun a b => a - b)))

def execAnd (core : Nat) (mem : CoreEvent) (s : State) : Host.Outcome State Fault Refusal :=
  engineCmd s (s.cc core mem { op := 0x01, fn := 0x02 } (semAlu (fun a b => a &&& b)))

def execOr (core : Nat) (mem : CoreEvent) (s : State) : Host.Outcome State Fault Refusal :=
  engineCmd s (s.cc core mem { op := 0x01, fn := 0x03 } (semAlu (fun a b => a ||| b)))

def execXor (core : Nat) (mem : CoreEvent) (s : State) : Host.Outcome State Fault Refusal :=
  engineCmd s (s.cc core mem { op := 0x01, fn := 0x04 } (semAlu (fun a b => a ^^^ b)))

def execAndn (core : Nat) (mem : CoreEvent) (s : State) : Host.Outcome State Fault Refusal :=
  engineCmd s (s.cc core mem { op := 0x01, fn := 0x05 } (semAlu (fun a b => a &&& ~~~b)))

def execShl (core : Nat) (mem : CoreEvent) (s : State) : Host.Outcome State Fault Refusal :=
  engineCmd s (s.cc core mem { op := 0x01, fn := 0x06 } (semAlu (fun a b => a <<< shiftCount b)))

def execShr (core : Nat) (mem : CoreEvent) (s : State) : Host.Outcome State Fault Refusal :=
  engineCmd s (s.cc core mem { op := 0x01, fn := 0x07 } (semAlu (fun a b => a >>> shiftCount b)))

def execSar (core : Nat) (mem : CoreEvent) (s : State) : Host.Outcome State Fault Refusal :=
  engineCmd s (s.cc core mem { op := 0x01, fn := 0x08 } (semAlu (fun a b => a.sshiftRight (shiftCount b))))

def execRor (core : Nat) (mem : CoreEvent) (s : State) : Host.Outcome State Fault Refusal :=
  engineCmd s (s.cc core mem { op := 0x01, fn := 0x09 } (semAlu (fun a b => a.rotateRight (shiftCount b))))

def execCmps (core : Nat) (mem : CoreEvent) (s : State) : Host.Outcome State Fault Refusal :=
  engineCmd s (s.cc core mem { op := 0x01, fn := 0x0A } (semAlu cmpSigned))

def execCmpu (core : Nat) (mem : CoreEvent) (s : State) : Host.Outcome State Fault Refusal :=
  engineCmd s (s.cc core mem { op := 0x01, fn := 0x0B } (semAlu cmpUnsigned))

def execMul (core : Nat) (mem : CoreEvent) (s : State) : Host.Outcome State Fault Refusal :=
  engineCmd s (s.cc core mem { op := 0x01, fn := 0x0C } (semAlu (fun a b => a * b)))

def execMulhiS (core : Nat) (mem : CoreEvent) (s : State) : Host.Outcome State Fault Refusal :=
  engineCmd s (s.cc core mem { op := 0x01, fn := 0x0D } (semAlu mulHiS))

def execMulhiU (core : Nat) (mem : CoreEvent) (s : State) : Host.Outcome State Fault Refusal :=
  engineCmd s (s.cc core mem { op := 0x01, fn := 0x0E } (semAlu mulHiU))

def execDivs (core : Nat) (mem : CoreEvent) (s : State) : Host.Outcome State Fault Refusal :=
  engineCmd s (s.cc core mem { op := 0x01, fn := 0x0F } (semAlu divS))

def execDivu (core : Nat) (mem : CoreEvent) (s : State) : Host.Outcome State Fault Refusal :=
  engineCmd s (s.cc core mem { op := 0x01, fn := 0x10 } (semAlu divU))

def execMods (core : Nat) (mem : CoreEvent) (s : State) : Host.Outcome State Fault Refusal :=
  engineCmd s (s.cc core mem { op := 0x01, fn := 0x11 } (semAlu modS))

def execModu (core : Nat) (mem : CoreEvent) (s : State) : Host.Outcome State Fault Refusal :=
  engineCmd s (s.cc core mem { op := 0x01, fn := 0x12 } (semAlu modU))

def execMins (core : Nat) (mem : CoreEvent) (s : State) : Host.Outcome State Fault Refusal :=
  engineCmd s (s.cc core mem { op := 0x01, fn := 0x13 } (semAlu (fun a b => if a.slt b then a else b)))

def execMaxs (core : Nat) (mem : CoreEvent) (s : State) : Host.Outcome State Fault Refusal :=
  engineCmd s (s.cc core mem { op := 0x01, fn := 0x14 } (semAlu (fun a b => if a.slt b then b else a)))

def execMinu (core : Nat) (mem : CoreEvent) (s : State) : Host.Outcome State Fault Refusal :=
  engineCmd s (s.cc core mem { op := 0x01, fn := 0x15 } (semAlu (fun a b => if a.ult b then a else b)))

def execMaxu (core : Nat) (mem : CoreEvent) (s : State) : Host.Outcome State Fault Refusal :=
  engineCmd s (s.cc core mem { op := 0x01, fn := 0x16 } (semAlu (fun a b => if a.ult b then b else a)))

/-! ## Constants -/

def execAddk (core : Nat) (mem : CoreEvent) (s : State) : Host.Outcome State Fault Refusal :=
  engineCmd s (s.cc core mem { op := 0x02, fn := 0x00 } (semAluK (fun a b => a + b)))

def execAndk (core : Nat) (mem : CoreEvent) (s : State) : Host.Outcome State Fault Refusal :=
  engineCmd s (s.cc core mem { op := 0x03, fn := 0x00 } (semAluK (fun a b => a &&& b)))

def execOrk (core : Nat) (mem : CoreEvent) (s : State) : Host.Outcome State Fault Refusal :=
  engineCmd s (s.cc core mem { op := 0x04, fn := 0x00 } (semAluK (fun a b => a ||| b)))

def execXork (core : Nat) (mem : CoreEvent) (s : State) : Host.Outcome State Fault Refusal :=
  engineCmd s (s.cc core mem { op := 0x05, fn := 0x00 } (semAluK (fun a b => a ^^^ b)))

def execShlk (core : Nat) (mem : CoreEvent) (s : State) : Host.Outcome State Fault Refusal :=
  engineCmd s (s.cc core mem { op := 0x06, fn := 0x00 } (semAluK (fun a b => a <<< shiftCount b)))

def execShrk (core : Nat) (mem : CoreEvent) (s : State) : Host.Outcome State Fault Refusal :=
  engineCmd s (s.cc core mem { op := 0x07, fn := 0x00 } (semAluK (fun a b => a >>> shiftCount b)))

def execSark (core : Nat) (mem : CoreEvent) (s : State) : Host.Outcome State Fault Refusal :=
  engineCmd s (s.cc core mem { op := 0x08, fn := 0x00 } (semAluK (fun a b => a.sshiftRight (shiftCount b))))

def execRork (core : Nat) (mem : CoreEvent) (s : State) : Host.Outcome State Fault Refusal :=
  engineCmd s (s.cc core mem { op := 0x09, fn := 0x00 } (semAluK (fun a b => a.rotateRight (shiftCount b))))

def semKset (_ : State) (r : CRun) (w : CWord) : CRes := .go (r.core.setI (cD w) (cK19 w)).next

/-- iD × 2^16 + K[15:0]. -/
def semKsh (_ : State) (r : CRun) (w : CWord) : CRes :=
  .go (r.core.setI (cD w) (r.core.i (cD w) * 65536 + BitVec.ofNat 64 (cf w 15 0))).next

def execKset (core : Nat) (mem : CoreEvent) (s : State) : Host.Outcome State Fault Refusal :=
  engineCmd s (s.cc core mem { op := 0x0A, fn := 0x00 } semKset)

def execKsh (core : Nat) (mem : CoreEvent) (s : State) : Host.Outcome State Fault Refusal :=
  engineCmd s (s.cc core mem { op := 0x0B, fn := 0x00 } semKsh)

/-! ## Memory -/

def execLdu1 (core : Nat) (mem : CoreEvent) (s : State) : Host.Outcome State Fault Refusal :=
  engineCmd s (s.cc core mem { op := 0x10, fn := 0x00 } (semLoad 1 putZero))

def execLdu2 (core : Nat) (mem : CoreEvent) (s : State) : Host.Outcome State Fault Refusal :=
  engineCmd s (s.cc core mem { op := 0x11, fn := 0x00 } (semLoad 2 putZero))

def execLdu4 (core : Nat) (mem : CoreEvent) (s : State) : Host.Outcome State Fault Refusal :=
  engineCmd s (s.cc core mem { op := 0x12, fn := 0x00 } (semLoad 4 putZero))

def execLd8 (core : Nat) (mem : CoreEvent) (s : State) : Host.Outcome State Fault Refusal :=
  engineCmd s (s.cc core mem { op := 0x13, fn := 0x00 } (semLoad 8 putZero))

def execLds1 (core : Nat) (mem : CoreEvent) (s : State) : Host.Outcome State Fault Refusal :=
  engineCmd s (s.cc core mem { op := 0x14, fn := 0x00 } (semLoad 1 (putSigned 1)))

def execLds2 (core : Nat) (mem : CoreEvent) (s : State) : Host.Outcome State Fault Refusal :=
  engineCmd s (s.cc core mem { op := 0x15, fn := 0x00 } (semLoad 2 (putSigned 2)))

def execLds4 (core : Nat) (mem : CoreEvent) (s : State) : Host.Outcome State Fault Refusal :=
  engineCmd s (s.cc core mem { op := 0x16, fn := 0x00 } (semLoad 4 (putSigned 4)))

def execSt1 (core : Nat) (mem : CoreEvent) (s : State) : Host.Outcome State Fault Refusal :=
  engineCmd s (s.cc core mem { op := 0x18, fn := 0x00 } (semStore 1 Core.i))

def execSt2 (core : Nat) (mem : CoreEvent) (s : State) : Host.Outcome State Fault Refusal :=
  engineCmd s (s.cc core mem { op := 0x19, fn := 0x00 } (semStore 2 Core.i))

def execSt4 (core : Nat) (mem : CoreEvent) (s : State) : Host.Outcome State Fault Refusal :=
  engineCmd s (s.cc core mem { op := 0x1A, fn := 0x00 } (semStore 4 Core.i))

def execSt8 (core : Nat) (mem : CoreEvent) (s : State) : Host.Outcome State Fault Refusal :=
  engineCmd s (s.cc core mem { op := 0x1B, fn := 0x00 } (semStore 8 Core.i))

/-! ## Branches and jumps -/

def execBz (core : Nat) (mem : CoreEvent) (s : State) : Host.Outcome State Fault Refusal :=
  engineCmd s (s.cc core mem { op := 0x20, fn := 0x00 } (semBranch (fun a => a == 0)))

def execBnz (core : Nat) (mem : CoreEvent) (s : State) : Host.Outcome State Fault Refusal :=
  engineCmd s (s.cc core mem { op := 0x21, fn := 0x00 } (semBranch (fun a => a != 0)))

def execBneg (core : Nat) (mem : CoreEvent) (s : State) : Host.Outcome State Fault Refusal :=
  engineCmd s (s.cc core mem { op := 0x22, fn := 0x00 } (semBranch (fun a => a.slt 0)))

def execBnneg (core : Nat) (mem : CoreEvent) (s : State) : Host.Outcome State Fault Refusal :=
  engineCmd s (s.cc core mem { op := 0x23, fn := 0x00 } (semBranch (fun a => !a.slt 0)))

def semJmp (_ : State) (r : CRun) (w : CWord) : CRes := .go (r.core.jumpBy (cK19 w))

/-- i31 takes the return address. -/
def semCall (_ : State) (r : CRun) (w : CWord) : CRes :=
  .go ((r.core.setI 31 (BitVec.ofNat 64 (r.core.pc + 4))).jumpBy (cK19 w))

/-- The low two bits of the target are cleared. -/
def semJmpr (_ : State) (r : CRun) (w : CWord) : CRes :=
  .go { r.core with pc := (r.core.i (cA w)).toNat / 4 * 4 }

def execJmp (core : Nat) (mem : CoreEvent) (s : State) : Host.Outcome State Fault Refusal :=
  engineCmd s (s.cc core mem { op := 0x24, fn := 0x00 } semJmp)

def execCcCall (core : Nat) (mem : CoreEvent) (s : State) : Host.Outcome State Fault Refusal :=
  engineCmd s (s.cc core mem { op := 0x25, fn := 0x00 } semCall)

def execJmpr (core : Nat) (mem : CoreEvent) (s : State) : Host.Outcome State Fault Refusal :=
  engineCmd s (s.cc core mem { op := 0x26, fn := 0x00 } semJmpr)

/-! ## Floating point -/

def execFadd (core : Nat) (mem : CoreEvent) (s : State) : Host.Outcome State Fault Refusal :=
  engineCmd s (s.cc core mem { op := 0x30, fn := 0x00 } (semFloat fAdd))

def execFsub (core : Nat) (mem : CoreEvent) (s : State) : Host.Outcome State Fault Refusal :=
  engineCmd s (s.cc core mem { op := 0x30, fn := 0x01 } (semFloat fSub))

def execFmul (core : Nat) (mem : CoreEvent) (s : State) : Host.Outcome State Fault Refusal :=
  engineCmd s (s.cc core mem { op := 0x30, fn := 0x02 } (semFloat fMul))

def execFdiv (core : Nat) (mem : CoreEvent) (s : State) : Host.Outcome State Fault Refusal :=
  engineCmd s (s.cc core mem { op := 0x30, fn := 0x03 } (semFloat fDiv))

def execFsqrt (core : Nat) (mem : CoreEvent) (s : State) : Host.Outcome State Fault Refusal :=
  engineCmd s (s.cc core mem { op := 0x30, fn := 0x04 } (semFloat (fun a _ => fSqrt a)))

def execFmin (core : Nat) (mem : CoreEvent) (s : State) : Host.Outcome State Fault Refusal :=
  engineCmd s (s.cc core mem { op := 0x30, fn := 0x05 } (semFloat fMin))

def execFmax (core : Nat) (mem : CoreEvent) (s : State) : Host.Outcome State Fault Refusal :=
  engineCmd s (s.cc core mem { op := 0x30, fn := 0x06 } (semFloat fMax))

/-- iD ← f fA fB. -/
def semFloatInt (f : F64 → F64 → BitVec 64) (_ : State) (r : CRun) (w : CWord) : CRes :=
  .go (r.core.setI (cD w) (f (r.core.f (cA w)) (r.core.f (cB w)))).next

/-- fD ← f iA. -/
def semIntFloat (f : BitVec 64 → F64) (_ : State) (r : CRun) (w : CWord) : CRes :=
  .go (r.core.setF (cD w) (f (r.core.i (cA w)))).next

def execFcmp (core : Nat) (mem : CoreEvent) (s : State) : Host.Outcome State Fault Refusal :=
  engineCmd s (s.cc core mem { op := 0x30, fn := 0x07 } (semFloatInt fCmp))

def execF2i (core : Nat) (mem : CoreEvent) (s : State) : Host.Outcome State Fault Refusal :=
  engineCmd s (s.cc core mem { op := 0x30, fn := 0x0A } (semFloatInt (fun a _ => fToInt a)))

def execI2f (core : Nat) (mem : CoreEvent) (s : State) : Host.Outcome State Fault Refusal :=
  engineCmd s (s.cc core mem { op := 0x30, fn := 0x0B } (semIntFloat fOfInt))

def execFbits (core : Nat) (mem : CoreEvent) (s : State) : Host.Outcome State Fault Refusal :=
  engineCmd s (s.cc core mem { op := 0x30, fn := 0x0C } (semFloatInt (fun a _ => a)))

def execIbits (core : Nat) (mem : CoreEvent) (s : State) : Host.Outcome State Fault Refusal :=
  engineCmd s (s.cc core mem { op := 0x30, fn := 0x0D } (semIntFloat (fun a => a)))

def execFld8 (core : Nat) (mem : CoreEvent) (s : State) : Host.Outcome State Fault Refusal :=
  engineCmd s (s.cc core mem { op := 0x31, fn := 0x00 } (semLoad 8 putFloat))

def execFst8 (core : Nat) (mem : CoreEvent) (s : State) : Host.Outcome State Fault Refusal :=
  engineCmd s (s.cc core mem { op := 0x32, fn := 0x00 } (semStore 8 Core.f))

/-! ## COMMIT, END, TIME and CYCLE (R339, R351) -/

/-- COMMIT declares the scratch bytes [iA, iA + iB) once they lie in scratch, and fit the output of an OUTPUT node; the
buffers of a job run for a peer lie at its origin, which checks its answer against them (R105, R148). -/
def semCommit (_ : State) (r : CRun) (w : CWord) : CRes :=
  let a := (r.core.i (cA w)).toNat
  let n := (r.core.i (cB w)).toNat
  if !inWindow scratchBase scratchSize a n then .access
  else if r.node.info.output && r.job.forPeer.isNone && (r.job.outBufs.map Prod.snd).sum < n then .stop .outputTooSmall
  else .commit { r.core.next with result := some (a - scratchBase, n) }

def semEnd (_ : State) (_ : CRun) (_ : CWord) : CRes := .fin

def semTime (s : State) (r : CRun) (w : CWord) : CRes :=
  .go (r.core.setI (cD w) (BitVec.ofNat 64 s.clusterTime)).next

/-- The cycle in which it issues, the node's first being cycle 1 (R347's example; DEDUCED, log entry 26). -/
def semCycle (_ : State) (r : CRun) (w : CWord) : CRes :=
  .go (r.core.setI (cD w) (BitVec.ofNat 64 r.core.score.cycle)).next

def execCcCommit (core : Nat) (mem : CoreEvent) (s : State) : Host.Outcome State Fault Refusal :=
  engineCmd s (s.cc core mem { op := 0x38, fn := 0x00 } semCommit)

def execCcEnd (core : Nat) (mem : CoreEvent) (s : State) : Host.Outcome State Fault Refusal :=
  engineCmd s (s.cc core mem { op := 0x38, fn := 0x01 } semEnd)

def execCcTime (core : Nat) (mem : CoreEvent) (s : State) : Host.Outcome State Fault Refusal :=
  engineCmd s (s.cc core mem { op := 0x38, fn := 0x02 } semTime)

def execCycle (core : Nat) (mem : CoreEvent) (s : State) : Host.Outcome State Fault Refusal :=
  engineCmd s (s.cc core mem { op := 0x38, fn := 0x03 } semCycle)

/-! ## Recovery (R346) -/

/-- The self-test of a core's register file ends: it returns to service, or after the third failure is FAILED. -/
def State.recoveryDone (s : State) (i : Nat) (passed : Bool) : State :=
  let k := ccKey i
  let t := s.tile k
  let c := s.core i
  if t.st != .recovery then s
  else if passed then (s.setCore i { c.idle with overlay := false }).setTile k { t with st := .idle }
  else
    let n := c.recoveryFails + 1
    let s := s.setCore i { c with recoveryFails := n }
    if 3 ≤ n then (s.setTile k { t with st := .failed }).raiseBasin (basinOf .cc i) 6 i else s

def execCcRecoveryDone (core : Nat) (passed : Bool) (s : State) : Host.Outcome State Fault Refusal :=
  engineCmd s (s.recoveryDone core passed)

end Sys2Proof.Machine
end

