-- ==== Sys2Proof/Machine/CoreVector.lean ====
section
/-! DEFINITION. The vector instructions of the control cores (R343, R344, R349, R352). -/

namespace Sys2Proof.Machine

open Sys2Proof

/-! ## Shapes (R343) -/

/-- The shape an instruction carries: VLEN of the reach, element width and group size. -/
structure Shape where
  vlen : Nat
  ew : Nat
  gs : Nat
  deriving DecidableEq, Repr

def Shape.cap (h : Shape) : Nat := h.vlen * h.gs / h.ew

/-- Elements one register holds. -/
def Shape.per (h : Shape) : Nat := h.vlen / h.ew

def State.shape (s : State) (r : CRun) (w : CWord) : Shape where
  vlen := if r.core.overlay || (s.cfg.reach r.job.reach).any ReachRec.vlen256 then 256 else 512
  ew := 8 * 2 ^ cW w
  gs := 2 ^ cG w

/-- A register operand names a group when its number is a multiple of GS. -/
def Shape.groupOk (h : Shape) (n : Nat) : Bool := n % h.gs == 0

/-- A vector register; in the overlay v0 to v7 are f0 to f31, four each (R345). -/
def Core.v (c : Core) (n : Nat) : Nat :=
  if c.overlay then ((List.range 4).map fun i => (c.f (4 * n + i)).toNat * 2 ^ (64 * i)).sum
  else (c.vregs.toList.getD n 0).toNat

/-- Writes a vector register under either name (R345). -/
def Core.setV (c : Core) (n v : Nat) : Core :=
  if c.overlay then (List.range 4).foldl (fun c i => c.setF (4 * n + i) (BitVec.ofNat 64 (v / 2 ^ (64 * i)))) c
  else { c with vregs := c.vregs.setIfInBounds n (BitVec.ofNat 512 v) }

/-- Element `k` of a register. -/
def elemOf (ew v k : Nat) : Nat := v / 2 ^ (ew * k) % 2 ^ ew

/-- The elements of a group, the lowest register first. -/
def Core.group (c : Core) (h : Shape) (n : Nat) : List Nat :=
  (List.range h.cap).map fun k => elemOf h.ew (c.v (n + k / h.per)) (k % h.per)

/-- The register value of a list of elements. -/
def packElems (ew : Nat) : List Nat → Nat
  | [] => 0
  | x :: xs => x % 2 ^ ew + 2 ^ ew * packElems ew xs

/-- Writes a whole group: registers `n` to `n` + GS − 1, bits beyond VLEN 0. -/
def Core.setGroup (c : Core) (h : Shape) (n : Nat) (xs : List Nat) : Core :=
  (List.range h.gs).foldl (fun c g => c.setV (n + g) (packElems h.ew ((xs.drop (g * h.per)).take h.per))) c

/-- Active elements: ACT, at most the capacity. -/
def Core.active (c : Core) (h : Shape) : Nat := min c.act.toNat h.cap

/-- Active elements as computed, every other element 0. -/
def activeOnly (h : Shape) (n : Nat) (xs : List Nat) : List Nat := xs.take n ++ List.replicate (h.cap - n) 0

/-! ## Strips (R344) -/

def semVtake (s : State) (r : CRun) (w : CWord) : CRes :=
  let n := (r.core.i (cA w)).toNat
  let a := min n (s.shape r w).cap
  .go ({ r.core with act := BitVec.ofNat 64 a }.setI (cD w) (BitVec.ofNat 64 (n - a))).next

def semVact (_ : State) (r : CRun) (w : CWord) : CRes := .go (r.core.setI (cD w) r.core.act).next

/-! ## Element-wise operations -/

def signedOf (ew x : Nat) : Int := if 2 ^ (ew - 1) ≤ x then Int.ofNat x - Int.ofNat (2 ^ ew) else Int.ofNat x
def wrapOf (ew : Nat) (x : Int) : Nat := (x % Int.ofNat (2 ^ ew)).toNat

/-- Bytes of an element in reverse order. -/
def reverseBytes (ew x : Nat) : Nat := leNat (toLe (ew / 8) x).reverse

/-- One element of an operation by its FN (R352): operands `a` and `b`, and the destination's old element `d`. A shift by
the width or more is free (log entry 26). -/
def elemOp (fn ew a b d : Nat) : Nat :=
  let ones := 2 ^ ew - 1
  match fn with
  | 0x00 => (a + b) % 2 ^ ew
  | 0x01 => (a + 2 ^ ew - b) % 2 ^ ew
  | 0x02 => a &&& b
  | 0x03 => a ||| b
  | 0x04 => a ^^^ b
  | 0x05 => if b < ew then a * 2 ^ b % 2 ^ ew else Config.vectorShift 0 ew a b % 2 ^ ew
  | 0x06 => if b < ew then a / 2 ^ b else Config.vectorShift 1 ew a b % 2 ^ ew
  | 0x07 => if b < ew then wrapOf ew (signedOf ew a / Int.ofNat (2 ^ b)) else Config.vectorShift 2 ew a b % 2 ^ ew
  | 0x08 => a * b % 2 ^ ew
  | 0x09 => wrapOf ew (signedOf ew a * signedOf ew b / Int.ofNat (2 ^ ew))
  | 0x0A => a * b / 2 ^ ew
  | 0x0B => min a b
  | 0x0C => max a b
  | 0x0D => if a = b then ones else 0
  | 0x0E => if a < b then ones else 0
  | 0x0F => (a &&& b) ||| (d &&& (ones - b))
  | _ => reverseBytes ew a

/-- Element by element, with the three lists of one length. -/
def zipElems (fn ew : Nat) : List Nat → List Nat → List Nat → List Nat
  | a :: as, b :: bs, d :: ds => elemOp fn ew a b d :: zipElems fn ew as bs ds
  | _, _, _ => []

/-- vD ← vA op vB. -/
def semVector (fn : Nat) (s : State) (r : CRun) (w : CWord) : CRes :=
  let h := s.shape r w
  if !h.groupOk (cD w) || !h.groupOk (cA w) || !(fn == 0x10 || h.groupOk (cB w)) then .illegal
  else
    let g (n : Nat) : List Nat := r.core.group h n
    .go (r.core.setGroup h (cD w) (activeOnly h (r.core.active h) (zipElems fn h.ew (g (cA w)) (g (cB w)) (g (cD w))))).next

/-- The scalar iB, truncated to EW bits, for every element; the operation is FN. -/
def semVectorScalar (s : State) (r : CRun) (w : CWord) : CRes :=
  let h := s.shape r w
  if !h.groupOk (cD w) || !h.groupOk (cA w) then .illegal
  else
    let g (n : Nat) : List Nat := r.core.group h n
    let b := List.replicate h.cap ((r.core.i (cB w)).toNat % 2 ^ h.ew)
    .go (r.core.setGroup h (cD w) (activeOnly h (r.core.active h) (zipElems (cVf w) h.ew (g (cA w)) b (g (cD w))))).next

/-! ## Permutes -/

/-- The active elements of vA moved by iB places, filled with 0. -/
def semVmove (up : Bool) (s : State) (r : CRun) (w : CWord) : CRes :=
  let h := s.shape r w
  if !h.groupOk (cD w) || !h.groupOk (cA w) then .illegal
  else
    let n := r.core.active h
    let xs := (r.core.group h (cA w)).take n
    let k := min (r.core.i (cB w)).toNat n
    let ys := if up then List.replicate k 0 ++ xs.take (n - k) else xs.drop k ++ List.replicate k 0
    .go (r.core.setGroup h (cD w) (activeOnly h n ys)).next

/-- Element iA of vD takes iB; every other element stays. -/
def semVput (s : State) (r : CRun) (w : CWord) : CRes :=
  let h := s.shape r w
  if !h.groupOk (cD w) then .illegal
  else
    let k := (r.core.i (cA w)).toNat
    let xs := r.core.group h (cD w)
    let ys := if k < h.cap then xs.set k ((r.core.i (cB w)).toNat % 2 ^ h.ew) else xs
    .go (r.core.setGroup h (cD w) ys).next

/-- Element iB of vA, or 0 beyond the capacity. -/
def semVget (s : State) (r : CRun) (w : CWord) : CRes :=
  let h := s.shape r w
  if !h.groupOk (cA w) then .illegal
  else .go (r.core.setI (cD w) (BitVec.ofNat 64 ((r.core.group h (cA w)).getD (r.core.i (cB w)).toNat 0))).next

def semVpick (s : State) (r : CRun) (w : CWord) : CRes :=
  let h := s.shape r w
  if !h.groupOk (cD w) || !h.groupOk (cA w) || !h.groupOk (cB w) then .illegal
  else
    let n := r.core.active h
    let xs := (r.core.group h (cA w)).take n
    let ys := (r.core.group h (cB w)).map fun k => xs.getD k 0
    .go (r.core.setGroup h (cD w) (activeOnly h n ys)).next

/-- The active elements of vA combined into iD. -/
def semVfold (f : Nat → Nat → Nat) (s : State) (r : CRun) (w : CWord) : CRes :=
  let h := s.shape r w
  if !h.groupOk (cA w) then .illegal
  else
    let xs := (r.core.group h (cA w)).take (r.core.active h)
    .go (r.core.setI (cD w) (BitVec.ofNat 64 (xs.foldl f 0 % 2 ^ h.ew))).next

/-! ## Memory (R349, R352) -/

/-- Loads elements of `b` bytes at the listed addresses; none when one must wait, an error when one faults. -/
def CRun.loadAll (r : CRun) (b : Nat) : List Nat → Except CRes (List Nat)
  | [] => .ok []
  | a :: as =>
    if a % b != 0 then .error .access
    else
      match r.load a b with
      | .fault => .error .access
      | .stall => .error .stall
      | .poison => .error (.stop .memUncorrectable)
      | .bytes x =>
        match r.loadAll b as with
        | .ok xs => .ok (leNat x :: xs)
        | .error e => .error e

/-- Stores elements of `b` bytes at their addresses; none when one faults. -/
def Core.storeAll (b : Nat) : List (Nat × Nat) → Core → Option Core
  | [], c => some c
  | (a, x) :: as, c =>
    if a % b != 0 then none
    else
      match c.store a (toLe b x) with
      | some c => Core.storeAll b as c
      | none => none

/-- The address of element `k`: contiguous from iA + iB, or iA + k × iB when strided; modulo 2^64. -/
def elemAddr (r : CRun) (w : CWord) (strided : Bool) (b k : Nat) : Nat :=
  let i := r.core.i (cA w)
  let j := r.core.i (cB w)
  if strided then (i + BitVec.ofNat 64 k * j).toNat else (i + j + BitVec.ofNat 64 (k * b)).toNat

def semVload (strided : Bool) (s : State) (r : CRun) (w : CWord) : CRes :=
  let h := s.shape r w
  let b := h.ew / 8
  if !h.groupOk (cD w) then .illegal
  else
    let n := r.core.active h
    match r.loadAll b ((List.range n).map (elemAddr r w strided b)) with
    | .ok xs => .go (r.core.setGroup h (cD w) (activeOnly h n xs)).next
    | .error e => e

def semVstore (strided : Bool) (s : State) (r : CRun) (w : CWord) : CRes :=
  let h := s.shape r w
  let b := h.ew / 8
  if !h.groupOk (cD w) then .illegal
  else
    let n := r.core.active h
    let xs := ((r.core.group h (cD w)).take n).zip ((List.range n).map (elemAddr r w strided b))
    match Core.storeAll b (xs.map fun p => (p.2, p.1)) r.core with
    | some c => .go c.next
    | none => .access

def recRegsOk (h : Shape) (w : CWord) : Bool := h.groupOk (cD w) && cD w + recFields w * h.gs - 1 ≤ 31

/-- The address of field `j` of record `k`. -/
def recAddr (r : CRun) (w : CWord) (b k j : Nat) : Nat :=
  (r.core.i (cA w) + BitVec.ofNat 64 ((k * recFields w + j) * b)).toNat

/-- Field `j` of record `k` goes to element `k` of the group at vD + j × GS. -/
def semVldrec (s : State) (r : CRun) (w : CWord) : CRes :=
  let h := s.shape r w
  let b := h.ew / 8
  if !recRegsOk h w then .illegal
  else
    let n := r.core.active h
    let nf := recFields w
    let addrs := (List.range n).flatMap fun k => (List.range nf).map fun j => recAddr r w b k j
    match r.loadAll b addrs with
    | .error e => e
    | .ok xs =>
      let field (j : Nat) : List Nat := (List.range n).map fun k => xs.getD (k * nf + j) 0
      .go ((List.range nf).foldl (fun c j => c.setGroup h (cD w + j * h.gs) (activeOnly h n (field j))) r.core).next

def semVstrec (s : State) (r : CRun) (w : CWord) : CRes :=
  let h := s.shape r w
  let b := h.ew / 8
  if !recRegsOk h w then .illegal
  else
    let n := r.core.active h
    let nf := recFields w
    let items := (List.range n).flatMap fun k => (List.range nf).map fun j =>
      (recAddr r w b k j, (r.core.group h (cD w + j * h.gs)).getD k 0)
    match Core.storeAll b items r.core with
    | some c => .go c.next
    | none => .access

/-! ## The rows -/

def execVtake (core : Nat) (mem : CoreEvent) (s : State) : Host.Outcome State Fault Refusal :=
  engineCmd s (s.cc core mem { op := 0x40, fn := 0x00 } semVtake)

def execVact (core : Nat) (mem : CoreEvent) (s : State) : Host.Outcome State Fault Refusal :=
  engineCmd s (s.cc core mem { op := 0x40, fn := 0x01 } semVact)

def execVadd (core : Nat) (mem : CoreEvent) (s : State) : Host.Outcome State Fault Refusal :=
  engineCmd s (s.cc core mem { op := 0x41, fn := 0x00 } (semVector 0x00))

def execVsub (core : Nat) (mem : CoreEvent) (s : State) : Host.Outcome State Fault Refusal :=
  engineCmd s (s.cc core mem { op := 0x41, fn := 0x01 } (semVector 0x01))

def execVand (core : Nat) (mem : CoreEvent) (s : State) : Host.Outcome State Fault Refusal :=
  engineCmd s (s.cc core mem { op := 0x41, fn := 0x02 } (semVector 0x02))

def execVor (core : Nat) (mem : CoreEvent) (s : State) : Host.Outcome State Fault Refusal :=
  engineCmd s (s.cc core mem { op := 0x41, fn := 0x03 } (semVector 0x03))

def execVxor (core : Nat) (mem : CoreEvent) (s : State) : Host.Outcome State Fault Refusal :=
  engineCmd s (s.cc core mem { op := 0x41, fn := 0x04 } (semVector 0x04))

def execVshl (core : Nat) (mem : CoreEvent) (s : State) : Host.Outcome State Fault Refusal :=
  engineCmd s (s.cc core mem { op := 0x41, fn := 0x05 } (semVector 0x05))

def execVshr (core : Nat) (mem : CoreEvent) (s : State) : Host.Outcome State Fault Refusal :=
  engineCmd s (s.cc core mem { op := 0x41, fn := 0x06 } (semVector 0x06))

def execVsar (core : Nat) (mem : CoreEvent) (s : State) : Host.Outcome State Fault Refusal :=
  engineCmd s (s.cc core mem { op := 0x41, fn := 0x07 } (semVector 0x07))

def execVmul (core : Nat) (mem : CoreEvent) (s : State) : Host.Outcome State Fault Refusal :=
  engineCmd s (s.cc core mem { op := 0x41, fn := 0x08 } (semVector 0x08))

def execVmulhiS (core : Nat) (mem : CoreEvent) (s : State) : Host.Outcome State Fault Refusal :=
  engineCmd s (s.cc core mem { op := 0x41, fn := 0x09 } (semVector 0x09))

def execVmulhiU (core : Nat) (mem : CoreEvent) (s : State) : Host.Outcome State Fault Refusal :=
  engineCmd s (s.cc core mem { op := 0x41, fn := 0x0A } (semVector 0x0A))

def execVminu (core : Nat) (mem : CoreEvent) (s : State) : Host.Outcome State Fault Refusal :=
  engineCmd s (s.cc core mem { op := 0x41, fn := 0x0B } (semVector 0x0B))

def execVmaxu (core : Nat) (mem : CoreEvent) (s : State) : Host.Outcome State Fault Refusal :=
  engineCmd s (s.cc core mem { op := 0x41, fn := 0x0C } (semVector 0x0C))

def execVeq (core : Nat) (mem : CoreEvent) (s : State) : Host.Outcome State Fault Refusal :=
  engineCmd s (s.cc core mem { op := 0x41, fn := 0x0D } (semVector 0x0D))

def execVltu (core : Nat) (mem : CoreEvent) (s : State) : Host.Outcome State Fault Refusal :=
  engineCmd s (s.cc core mem { op := 0x41, fn := 0x0E } (semVector 0x0E))

def execVblend (core : Nat) (mem : CoreEvent) (s : State) : Host.Outcome State Fault Refusal :=
  engineCmd s (s.cc core mem { op := 0x41, fn := 0x0F } (semVector 0x0F))

def execVbyterev (core : Nat) (mem : CoreEvent) (s : State) : Host.Outcome State Fault Refusal :=
  engineCmd s (s.cc core mem { op := 0x41, fn := 0x10 } (semVector 0x10))

def execVectorScalarOp (core : Nat) (mem : CoreEvent) (s : State) : Host.Outcome State Fault Refusal :=
  engineCmd s (s.cc core mem { op := 0x42, fn := 0x00 } semVectorScalar)

def execVmoveup (core : Nat) (mem : CoreEvent) (s : State) : Host.Outcome State Fault Refusal :=
  engineCmd s (s.cc core mem { op := 0x42, fn := 0x11 } (semVmove true))

def execVmovedn (core : Nat) (mem : CoreEvent) (s : State) : Host.Outcome State Fault Refusal :=
  engineCmd s (s.cc core mem { op := 0x42, fn := 0x12 } (semVmove false))

def execVput (core : Nat) (mem : CoreEvent) (s : State) : Host.Outcome State Fault Refusal :=
  engineCmd s (s.cc core mem { op := 0x42, fn := 0x13 } semVput)

def execVget (core : Nat) (mem : CoreEvent) (s : State) : Host.Outcome State Fault Refusal :=
  engineCmd s (s.cc core mem { op := 0x42, fn := 0x14 } semVget)

def execVpick (core : Nat) (mem : CoreEvent) (s : State) : Host.Outcome State Fault Refusal :=
  engineCmd s (s.cc core mem { op := 0x43, fn := 0x00 } semVpick)

def execVfoldadd (core : Nat) (mem : CoreEvent) (s : State) : Host.Outcome State Fault Refusal :=
  engineCmd s (s.cc core mem { op := 0x43, fn := 0x01 } (semVfold (fun a b => a + b)))

def execVfoldxor (core : Nat) (mem : CoreEvent) (s : State) : Host.Outcome State Fault Refusal :=
  engineCmd s (s.cc core mem { op := 0x43, fn := 0x02 } (semVfold (fun a b => a ^^^ b)))

def execVfoldmaxu (core : Nat) (mem : CoreEvent) (s : State) : Host.Outcome State Fault Refusal :=
  engineCmd s (s.cc core mem { op := 0x43, fn := 0x03 } (semVfold max))

def execVload (core : Nat) (mem : CoreEvent) (s : State) : Host.Outcome State Fault Refusal :=
  engineCmd s (s.cc core mem { op := 0x48, fn := 0x00 } (semVload false))

def execVloads (core : Nat) (mem : CoreEvent) (s : State) : Host.Outcome State Fault Refusal :=
  engineCmd s (s.cc core mem { op := 0x49, fn := 0x00 } (semVload true))

def execVldrec (core : Nat) (mem : CoreEvent) (s : State) : Host.Outcome State Fault Refusal :=
  engineCmd s (s.cc core mem { op := 0x4A, fn := 0x00 } semVldrec)

def execVstore (core : Nat) (mem : CoreEvent) (s : State) : Host.Outcome State Fault Refusal :=
  engineCmd s (s.cc core mem { op := 0x4C, fn := 0x00 } (semVstore false))

def execVstores (core : Nat) (mem : CoreEvent) (s : State) : Host.Outcome State Fault Refusal :=
  engineCmd s (s.cc core mem { op := 0x4D, fn := 0x00 } (semVstore true))

def execVstrec (core : Nat) (mem : CoreEvent) (s : State) : Host.Outcome State Fault Refusal :=
  engineCmd s (s.cc core mem { op := 0x4E, fn := 0x00 } semVstrec)

end Sys2Proof.Machine
end

