-- ==== Sys2Proof/Machine/KeyJobs.lean ====
section
/-! DEFINITION. Device, admin and key-management operations, and owner opcodes (R200 to R203, R295 to R305, R312,
R313, R332, R339). -/

namespace Sys2Proof.Machine

open Sys2Proof

/-! ## Device and admin (R200) -/

def execNop (job : Nat) (s : State) : Host.Outcome State Fault Refusal :=
  engineCmd s (s.runPlain job .nop fun _ _ => OpOut.ok [])

/-- Has every earlier entry of the job's queue retired? -/
def State.earlierRetired (s : State) (j : Job) : Bool :=
  s.jobs.all fun x => x.id ≥ j.id || x.forPeer.isSome || x.fn != j.fn || x.q != j.q || x.retired

def State.fenceJob (s : State) (id : Nat) : State :=
  match s.job id with
  | none => s
  | some j => if s.mayRun j .fence && s.earlierRetired j then s.applyOut j (OpOut.ok []) else s

def execFence (job : Nat) (s : State) : Host.Outcome State Fault Refusal := engineCmd s (s.fenceJob job)

def execRandom (job : Nat) (s : State) : Host.Outcome State Fault Refusal :=
  engineCmd s (s.runPlain job .random fun j _ => OpOut.ok (fit (pOutBytes j.param) j.rnd))

/-- RESEED waits as an ENTROPY-WAIT node and hands its additional input to the random subsystem; the reseed ends it OK
(R200). -/
def State.reseedJob (s : State) (id : Nat) : State :=
  match s.job id with
  | none => s
  | some j =>
    if s.isOp j .reseed && j.st == .running && j.status.isNone && j.inputReady && j.nodes.any (fun n => n.st.awaitsEntropy)
        && !(s.spr.waiting.any fun w => w.job == some id) then
      { s with spr := { s.spr with
          waiting := s.spr.waiting ++ [{ inst := j.reach, extra := j.input, job := some id }] } }
    else s

def execReseed (job : Nat) (s : State) : Host.Outcome State Fault Refusal := engineCmd s (s.reseedJob job)

/-- The statement over the payload read at check 16 and the host's nonce (R200, R312, R313). -/
def State.attestOut (s : State) (j : Job) : OpOut :=
  match j.attest with
  | some (front, back) => OpOut.ok (s.kst.statement (attestPayload front j.input back))
  | none => OpOut.fail .engineFault 0

def execAttest (job : Nat) (s : State) : Host.Outcome State Fault Refusal :=
  engineCmd s (s.runKeyed job .attest fun j _ _ => s.attestOut j)

/-! ## Clear encodings (R300) -/

/-- The public-key encoding of a private one; empty for symmetric types. -/
def pubOf (t p : Nat) (mat : Bytes) : Bytes :=
  match t with
  | 0x01 => mlKemEk p mat
  | 0x02 => mlDsaPub p mat
  | 0x03 => mat.drop (2 * (slhSizes p).1)
  | 0x04 | 0x05 | 0x06 | 0x07 => statefulPub t mat
  | 0x08 => mcePub p mat
  | 0x10 => ecPubOf p mat
  | 0x11 => mat.take (8 * (p + 1) + 4)
  | 0x12 => mlKemEk (hybParts p).1 mat ++ ecPubOf (hybParts p).2 (mat.drop (mlKemSizes (hybParts p).1).2.1)
  | _ => []

/-- Check 17 on an imported public key (R167, R190, R193, R199). -/
def publicOk (t p : Nat) (pub : Bytes) : Bool :=
  match t with
  | 0x01 => mlKemEkOk p pub
  | 0x10 => ecPublicOk p pub
  | 0x11 => rsaPubOk (8 * (p + 1)) pub
  | 0x12 =>
    let n := (mlKemSizes (hybParts p).1).1
    mlKemEkOk (hybParts p).1 (pub.take n) && ecPublicOk (hybParts p).2 (pub.drop n)
  | _ => true

/-- FIPS 203: the decapsulation key holds its encapsulation key and that key's hash. -/
def mlKemDkOk (v : Nat) (dk : Bytes) : Bool :=
  let ek := mlKemEk v dk
  mlKemEkOk v ek && slice dk (768 * (v + 2) + 32) 32 == sha3_256 ek

/-- The CRT parts of an RSA key belong to its public key. -/
def rsaPrivOk (k : Nat) (mat : Bytes) : Bool :=
  let r := parseRsa k mat
  rsaPubOk k mat && r.p * r.q == r.n && r.e * r.dp % (r.p - 1) == 1 && r.e * r.dq % (r.q - 1) == 1 &&
    r.q * r.qinv % r.p == 1

/-- Does a private encoding match its embedded public parts (R300)? -/
def privateOk (t p : Nat) (mat : Bytes) : Bool :=
  match t with
  | 0x01 => mlKemDkOk p mat
  | 0x02 => slice mat 64 64 == shake256 (pubOf t p mat) 64
  | 0x03 => mat.drop (3 * (slhSizes p).1) == slhDsaRoot p (mat.take (3 * (slhSizes p).1))
  | 0x04 | 0x05 | 0x06 | 0x07 =>
    let n := statefulN t p
    mat.drop (mat.length - n) == statefulRoot t (mat.take (mat.length - n))
  | 0x11 => rsaPrivOk (8 * (p + 1)) mat
  | 0x12 => mlKemDkOk (hybParts p).1 (mat.take (mlKemSizes (hybParts p).1).2.1)
  | _ => true

/-! ## Creating a slot (R202) -/

def State.generateOut (s : State) (j : Job) (_ : Nat) : OpOut :=
  let w := (s.slot j.entry.slot).attr
  s.keygenOut j (fit (symLen (attrType w) (attrParam w)) j.rnd) [] 0

def execGenerate (job : Nat) (s : State) : Host.Outcome State Fault Refusal :=
  engineCmd s (s.runPlain job .generate s.generateOut)

def State.importClear (s : State) (j : Job) (_ : Nat) : OpOut :=
  let w := (s.slot j.entry.slot).attr
  let t := attrType w
  let p := attrParam w
  if importsPublic w && !isSymmetric t then
    if publicOk t p j.input then
      { st := .ok, detail := 0, out := [], put := some (j.entry.slot, newSlot w [] j.input 0) }
    else OpOut.pointInvalid
  else if privateOk t p j.input then
    { st := .ok, detail := 0, out := [], put := some (j.entry.slot, newSlot w j.input (pubOf t p j.input) 0) }
  else OpOut.pointInvalid

def execImportClear (job : Nat) (s : State) : Host.Outcome State Fault Refusal :=
  engineCmd s (s.runPlain job .importClear s.importClear)

/-! ## Blobs (R302 to R305) -/

def blobIv : Bytes := zeros 11 ++ [1]

/-- The first 48 bytes of a version 2 header. -/
def State.blobHead (s : State) (x : Slot) (clear : Bytes) : Bytes :=
  blobMagic ++ toLe 2 2 ++ toLe 2 64 ++ toLe 8 x.attr.toNat ++ toLe 4 clear.length ++
    toLe 2 (if attrStateful x.attr then x.homeDev else 0) ++ zeros 2 ++ toLe 8 s.fuse.deviceId ++ fit 16 x.keyId

/-- R303: the blob of a slot under a reach's wrapping key. -/
def State.wrap (s : State) (wk : Bytes) (x : Slot) : Bytes :=
  let clear := if x.mat.isEmpty then x.pub else x.mat
  let h := s.blobHead x clear
  let salt := blobSalt wk h clear
  let c := gcmSeal (deriveBlob wk 2 salt) blobIv (h ++ salt) clear 16
  h ++ salt ++ c.1 ++ c.2

/-- The clear encoding in a blob whose tag and SALT hold (R304 item 4). -/
def unwrap (wk b : Bytes) : Option Bytes :=
  let n := fieldLe b 0x10 4
  match gcmOpen (deriveBlob wk (fieldLe b 4 2) (slice b 0x30 16)) blobIv (b.take 64) (slice b 64 n)
      (slice b (64 + n) 16) with
  | some m => if blobSalt wk b m == slice b 0x30 16 then some m else none
  | none => none

/-- R304 item 5 on a stateful key: a valid record, and no other LIVE slot of the key. -/
def State.statefulImport (s : State) (keyId : Bytes) : Option Nat :=
  if !(s.records.any fun r => r.keyId == keyId && s.recordOk r) then some 10
  else if s.slots.any fun x => x.2.st == .live && x.2.keyId == keyId then some 13
  else none

/-- IMPORT_WRAPPED from its blob on (R304, R305): the checks of State.importChecks, whose reservation the job may already
hold, the tag and SALT, the record, check 17. -/
def State.importWrapped (s : State) (j : Job) (_ : Nat) : OpOut :=
  let b := j.input
  let n := j.entry.slot
  match s.importChecks j with
  | .error (st, d) => OpOut.fail st d
  | .ok w =>
    let wk := (s.reach j.reach).wrapKey
    let t := attrType w
    let pubOnly := blobPubOnly b
    match unwrap wk b with
    | none => OpOut.fail .verifyFalse 0
    | some m =>
      let pub := if pubOnly then m else pubOf t (attrParam w) m
      let ok := if pubOnly then publicOk t (attrParam w) m else privateOk t (attrParam w) m
      let id := keyIdOf t pub
      match (if attrStateful w then s.statefulImport (slice b 0x20 16) else none) with
      | some d => OpOut.fail .badParams d
      | none =>
        if !ok || id != slice b 0x20 16 then OpOut.pointInvalid
        else
          let home := if !attrStateful w then 0 else if blobV1 b then s.devId else fieldLe b 0x14 2
          let x := newSlot w (if pubOnly then [] else m) pub home
          { st := if blobV1 b then .okMigrated else .ok, detail := 0, out := if blobV1 b then s.wrap wk x else [],
            put := some (n, x) }

/-- The job; a record that item 5 finds unusable raises the key-store event (R304, R306). -/
def State.importJob (s : State) (id : Nat) : State :=
  let t := s.runPlain id .importWrapped s.importWrapped
  match s.job id, t.job id with
  | some j, some k =>
    if j.status.isNone && k.status == some .badParams && (s.importChecks j).toBool then t.unusableEvent (slice j.input 0x20 16)
    else t
  | _, _ => t

def execImportWrapped (job : Nat) (s : State) : Host.Outcome State Fault Refusal := engineCmd s (s.importJob job)

def State.exportWrapped (s : State) (j : Job) (_ : Nat) (x : Option Slot) : OpOut :=
  match x with
  | some y => OpOut.ok (s.wrap (s.reach j.reach).wrapKey y)
  | none => OpOut.fail .keySlotEmpty 0

def execExportWrapped (job : Nat) (s : State) : Host.Outcome State Fault Refusal :=
  engineCmd s (s.runKeyed job .exportWrapped s.exportWrapped)

def execExportPublic (job : Nat) (s : State) : Host.Outcome State Fault Refusal :=
  engineCmd s (s.runKeyed job .exportPublic fun _ _ x => OpOut.ok ((x.map Slot.pub).getD []))

/-! ## RESTRICT and DELETE (R183, R202, R297, R298) -/

/-- The word is judged again against what the slot holds at the write. -/
def restrictOut (j : Job) (y : Slot) : OpOut :=
  let w := pAttr j.param
  if attrLocked y.attr then OpOut.fail .keyUsageDenied 15
  else if !attrNarrows y.attr w || w == y.attr then OpOut.fail .badParams 10
  else { st := .ok, detail := 0, out := [], put := some (j.entry.slot, { y with attr := w }) }

def execRestrict (job : Nat) (s : State) : Host.Outcome State Fault Refusal :=
  engineCmd s (s.runSlot job .restrict restrictOut)

/-- DELETE invalidates its slot at its commit point; a slot LOCKED meanwhile keeps its key. -/
def State.deleteJob (s : State) (id : Nat) : State :=
  match s.job id with
  | none => s
  | some j =>
    let x := s.slot j.entry.slot
    if !s.mayRun j .delete then s
    else if j.keyGone || x.st != .live then s.endJob id .keySlotEmpty 0
    else if attrLocked x.attr then s.endJob id .keyUsageDenied 15
    else
      let s := s.setJob { j with committed := true, keyCopy := some x }
      (s.invalidate j.entry.slot).endJob id .ok 0

def execDelete (job : Nat) (s : State) : Host.Outcome State Fault Refusal := engineCmd s (s.deleteJob job)

/-! ## Owner opcodes (R124, R126, R339) -/

/-- A job of an owner's ADD template ends when every node has completed and its OUTPUT node has committed: OK with all of
its output, which the host's buffers must hold (R105, R121; DESIGN CHOICE, log entry 94: more ends OUTPUT_TOO_SMALL). -/
def State.ownerJob (s : State) (id : Nat) : State :=
  match s.job id with
  | none => s
  | some j =>
    if s.isOp j .ownerOpcode && j.st == .running && j.status.isNone && j.committed && j.nodes.all fun n => n.st.isDone
    then s.endJob id (if (j.outBufs.map Prod.snd).sum < j.output.length && j.forPeer.isNone then .outputTooSmall else .ok) 0
    else s

def execOwnerOpcode (job : Nat) (s : State) : Host.Outcome State Fault Refusal := engineCmd s (s.ownerJob job)

end Sys2Proof.Machine
end

