-- ==== Sys2Proof/Machine/RegViews.lean ====
section
/-! DEFINITION. What a register reads as (R11, R73): the blocks of PF BAR 0 and VF BAR 0, offset by offset, in the order of
their register lists. `none` is an offset that holds no register. The value is the current one: what a read clears or
latches is said at the end. -/

namespace Sys2Proof.Machine

open Sys2Proof

/-- A register from its fields, given as (lowest bit, value). -/
def regOf (xs : List (Nat × Nat)) : Nat := (xs.foldl (fun a (x : Nat × Nat) => a + x.2 * 2 ^ x.1) 0) % 2 ^ 32

/-- Word `n` of a byte string, byte 4n in bits [7:0]. -/
def wordAt (bs : Bytes) (n : Nat) : Nat := fieldLe bs (4 * n) 4

/-- Does an offset lie in an array of `n` registers from `base` on? -/
def inArray (o base n : Nat) : Bool := base ≤ o && o < base + 4 * n

/-- The 32-bit half of a 64-bit number. -/
def half (v : Nat) (hi : Bool) : Nat := (if hi then v / 2 ^ 32 else v) % 2 ^ 32

/-- The selections that govern a reader's view: the PF's registers, or the management port's copies (R496). -/
def State.pfView (s : State) : Mgmt where
  levSrc := s.lev.sel
  levLog := s.lev.logIdx
  jrnl := s.rst.jrnlSel
  snp := s.snp.selClass * 2 ^ 24 + s.snp.selInst * 2 ^ 16 + s.snp.selWord
  hbm := s.hbm.sel
  cfl := s.cfl.sel
  drbg := s.spr.drbgSel
  exp := s.spr.expSel

/-! ## GLB (R93) -/

def State.reachMap (s : State) : Nat :=
  (reachBits.filter fun r => (s.reach r).st != .absent).foldl (fun m r => m + 2 ^ r) 0

def State.reachStat (s : State) : Nat :=
  let r := s.glb.selReach
  let x := s.cfg.reach r
  regOf [(0, r), (9, (s.reach r).st.code), (12, b2n ((s.reach r).st != .absent && s.reachIdle r)), (13, b2n ((x.map ReachRec.strict).getD false)),
    (14, b2n (s.isolated r)), (15, b2n s.glb.reachDone), (16, s.glb.reachResult)]

def State.vfStat (s : State) : Nat :=
  let v := s.glb.selVf
  regOf [(0, v), (12, b2n (s.fnConfigured v && s.fnQuiesced v)), (13, b2n (s.fnConfigured v)), (14, b2n (s.fn v).flrRefused),
    (15, b2n s.glb.vfDone), (16, s.glb.vfResult)]

def State.readGlb (s : State) (o : Nat) : Option Nat :=
  match o with
  | 0x00 => some (half s.fuse.deviceId false)
  | 0x04 => some (half s.fuse.deviceId true)
  | 0x08 => some (regOf [(0, s.fuse.stepping), (4, b2n s.fuse.smallStack), (8, s.glb.numVfs),
      (16, popCount s.reachMap 64)])
  | 0x0C => some s.glb.stat
  | 0x10 => some 0
  | 0x14 => some s.reachStat
  | 0x18 => some s.vfStat
  | 0x20 => some (half s.reachMap false)
  | 0x24 => some (half s.reachMap true)
  | _ => none

/-! ## SLU and the queues (R123) -/

def State.queuePairs (s : State) : Nat := ((List.range 256).map fun fn => s.cfg.queuesOf fn).sum

def State.queueStat (s : State) (fn q : Nat) : Nat :=
  let x := s.queue (qkey fn q)
  regOf [(0, b2n (x.enable && s.fetchOpen fn)), (1, b2n (s.outstanding fn q == 0)), (2, b2n x.dbErr),
    (3, b2n x.fetchErr), (4, b2n x.tokenWait.isSome), (5, b2n x.cqFull), (6, b2n (s.granted fn q)), (16, x.result)]

def State.readQueue (s : State) (fn q o : Nat) : Option Nat :=
  let x := s.queue (qkey fn q)
  if !s.granted fn q then none
  else match o with
  | 0x00 => some (b2n x.enable)
  | 0x04 => some (s.queueStat fn q)
  | 0x08 => some (half x.sqBase.toNat false)
  | 0x0C => some (half x.sqBase.toNat true)
  | 0x10 => some (half x.cqBase.toNat false)
  | 0x14 => some (half x.cqBase.toNat true)
  | 0x18 => some (regOf [(0, x.sqLog2), (8, x.cqLog2)])
  | 0x1C => some x.head
  | 0x20 => some x.tail
  | 0x24 => some (regOf [(0, x.cqTail), (16, b2n x.phase)])
  | 0x28 => some x.cqHead
  | 0x2C => some 0
  | 0x30 => some (s.outstanding fn q)
  | _ => none

def State.readSlu (s : State) (o : Nat) : Option Nat :=
  match o with
  | 0x0 => some s.queuePairs
  | 0x4 => some (65536 - s.tokensHeld fun _ => true)
  | _ => if 0x10000 ≤ o ∧ o < 0x14000 then s.readQueue 0 ((o - 0x10000) / 256) (o % 256) else none

/-! ## WEIR (R151) -/

/-- Admitted jobs of the reach with no node dispatched. -/
def State.reachBacklog (s : State) (r : Nat) : Nat := (s.jobs.filter fun j => j.reach == r && j.waitsFirst).length

def State.readWeir (s : State) (o : Nat) : Option Nat :=
  let w := s.weir
  let r := s.reach w.selReach
  match o with
  | 0x00 => some (regOf [(0, 62), (16, s.cfg.graphs.length % 256)])
  | 0x04 => some (regOf [(0, b2n s.instWaits), (1, b2n w.frameRun), (2, b2n w.delayOvf)])
  | 0x08 => some s.cfg.device.tickNs
  | 0x0C => some w.timeoutUs
  | 0x10 => some (regOf [(0, w.maxRestart), (3, w.backoffTicks)])
  | 0x14 => some w.sliceUs
  | 0x18 => some s.freeEntries
  | 0x1C => some (regOf [(0, w.slot), (6, s.cfg.device.frameUs)])
  | 0x20 => some w.selReach
  | 0x24 => some (s.reachBacklog w.selReach)
  | 0x28 => some r.lbm
  | 0x2C => some r.epoch.toNat
  | 0x30 => some r.stale
  | 0x34 => some w.spillOut
  | 0x38 => some w.spillIn
  | _ => none

/-! ## SPR and the random-data windows (R277, R286) -/

/-- RATE, EXCLUDED of a source. -/
def Spr.srcWord (x : Spr) (n : Nat) : Nat :=
  match x.sources[n]? with
  | some y => regOf [(0, min y.rate 0xFFFF), (31, b2n y.excluded)]
  | none => 0

def Spr.inUse (x : Spr) : Nat :=
  (List.range 4).foldl (fun m n => m + b2n ((x.sources[n]?.map Source.inUse).getD false) * 2 ^ n) 0

def State.drbgStat (s : State) (i : Nat) : Nat :=
  let d := s.drbg i
  regOf [(0, d.st.code), (2, b2n d.due), (3, b2n (drbgLimit ≤ d.count)), (4, b2n (s.isolated i))]

def State.rndStat (s : State) (fn : Nat) : Nat :=
  let f := s.fifo fn
  let down : Bool := s.spr.st == .failed || s.spr.st == .resetting || s.spr.st == .dead
  let blocked : Bool := match s.cfg.reachOf fn with | some r => decide (drbgLimit ≤ (s.drbg r).count) | none => false
  regOf [(0, b2n (decide (8 ≤ f.bytes.length))), (1, b2n f.err), (2, b2n (down || blocked)), (8, f.bytes.length / 8)]

/-- SPR_TEST and SPR_RAW are there in TEST_UNLOCKED only (R284). -/
def State.sprTest (s : State) : Nat :=
  if s.lcs.st = .testUnlocked then regOf [(0, s.spr.testMode), (2, s.spr.testSrc)] else 0

def State.readSpr (s : State) (v : Mgmt) (o : Nat) : Option Nat :=
  let x := s.spr
  let e := s.exp v.exp
  match o with
  | 0x00 => some (regOf [(0, 4), (8, 224), (16, 65)])
  | 0x04 => some (b2n x.autoReset)
  | 0x08 => some 0
  | 0x0C => some (regOf [(0, min 3 x.fails24), (4, x.inUse), (11, b2n x.pattern), (12, x.st.code), (15, b2n x.done),
      (16, x.result)])
  | 0x10 => some x.failWord
  | 0x14 => some x.seedUs
  | 0x30 => some v.drbg
  | 0x34 => some (s.drbgStat v.drbg)
  | 0x38 => some (min 0xFFFFFFFF (s.drbg v.drbg).count)
  | 0x3C => some (s.drbg v.drbg).reseeds
  | 0x40 => some v.exp
  | 0x44 => some (regOf [(0, min e.blocks 0x1000000), (30, b2n e.due), (31, b2n (decide (expLimit ≤ e.blocks)))])
  | 0x50 => some s.sprTest
  | 0x54 => some (if s.lcs.st = .testUnlocked ∧ x.testMode = 1 then (x.source x.testSrc).raw.toNat else 0)
  | _ => if inArray o 0x20 4 then some (x.srcWord ((o - 0x20) / 4)) else none

/-- The random-data window of a function: its status; the data registers have commands of their own (R277). -/
def State.readRnd (s : State) (fn o : Nat) : Option Nat :=
  match o with
  | 0x0 => some (s.rndStat fn)
  | 0x8 => some (if 8 ≤ (s.fifo fn).bytes.length then leNat ((s.fifo fn).bytes.take 4) else 0)
  | 0xC => some (leNat (s.fifo fn).latch)
  | _ => none

/-! ## KST (R315) -/

/-- LEDGER: 0 not mounted, 1 read-write, 2 read-only. -/
def State.ledgerMode (s : State) : Nat :=
  if s.rst.outcomes.getD 6 0 = 0 then 0 else if s.ledger.readOnly then 2 else 1

def State.readKst (s : State) (o : Nat) : Option Nat :=
  let k := s.kst
  match o with
  | 0x00 => some (regOf [(0, k.vaultMib), (16, 64), (24, 16)])
  | 0x04 => some (regOf [(0, s.lcs.gen), (4, s.ledgerMode), (6, b2n k.derived), (7, b2n k.certMatch)])
  | 0x08 => some 0
  | 0x0C => some (regOf [(15, b2n k.done), (16, k.result)])
  | 0x10 => some k.argSlot
  | 0x14 => some (regOf [(0, k.peerSlot), (20, k.peerDev)])
  | 0x40 => some k.dmiss
  | 0x44 => some (if k.derived then (16777216 - s.hotUsed) / 1024 else 0)
  | 0x48 => some (if s.ledgerMode = 0 then 0 else s.records.length)
  | 0x4C => some (if s.ledgerMode = 0 then 0 else s.ledger.cert.length)
  | _ =>
    if inArray o 0x20 8 then some (wordAt k.desc ((o - 0x20) / 4))
    else if inArray o 0x1000 2048 then some (if s.ledgerMode = 0 then 0 else wordAt s.ledger.cert ((o - 0x1000) / 4))
    else none

/-! ## Engines: HSH (R249), BNU (R264), PTL (R229), MCS (R333), CCO (R354) -/

/-- STATE of a unit as its status register shows it: a unit out of service reads DISABLED. -/
def State.unitState (s : State) (c : NodeClass) (i : Nat) : Nat :=
  if s.tileOn c i || (s.tile (tkey c i)).st == .failed then (s.tile (tkey c i)).st.code else 0

/-- IN_SERVICE of a class: units neither disabled nor under reset; a FAILED core is not (R346). -/
def State.inService (s : State) (c : NodeClass) : Nat :=
  ((List.range (classCount c)).filter fun i =>
    let t := (s.tile (tkey c i)).st
    s.tileOn c i && t != .disabled && t != .resetting && t != .failed).length

/-- MODE, as the committed grants say (R229). -/
def State.unitMode (s : State) (c : NodeClass) (i : Nat) : Nat := (s.tileModeNow c i).1.code

/-- Word `w` of a class's map of units disabled at boot. -/
def State.disabledWord (s : State) (c : NodeClass) (w : Nat) : Nat := s.rst.disabled c / 2 ^ (32 * w) % 2 ^ 32

/-- STATE of an HT: BUSY while one of its units holds a node (R249). -/
def State.htState (s : State) (i : Nat) : Nat :=
  if s.unitState .ht i = 1 ∧ ((unitKeys .ht i).any fun k => (s.tile k).node.isSome) then 2 else s.unitState .ht i

/-- Does a unit of an HT run masked (R234)? A customer routine keeps all five units in the record of lane 0. -/
def State.unitMasked (s : State) (i u : Nat) : Bool :=
  let t := s.tile (laneKey i u)
  let all := (s.tile (tkey .ht i)).seqr.units ++ t.seqr.units
  t.node.isSome && (if all.isEmpty then decide (1 ≤ t.order) else all.any fun x => x.1 == u && 1 ≤ x.2.order)

/-- Bits of the four lanes. -/
def laneBits (p : Nat → Bool) : Nat := ((List.range 4).filter p).foldl (fun m u => m + 2 ^ u) 0

/-- A count over the units of a tile, saturating. -/
def overUnits (c : NodeClass) (i : Nat) (f : Nat → Nat) : Nat :=
  (unitKeys c i).foldl (fun n k => satAdd 0xFFFFFFFF n (f k)) 0

/-- The measurement register HSH_MEAS_SEL names, and its count; none where it names none (R249). -/
def State.measured (s : State) : Option (Bytes × Nat) :=
  let x := s.sel
  if x.measDevice then
    if x.measIndex < 16 then some (s.meas.getD x.measIndex measZero, s.measCnt.getD x.measIndex 0) else none
  else if (s.reach x.measReach).st = .absent then none
  else
    let r := s.reach x.measReach
    some (r.meas.getD x.measIndex measZero, r.measCnt.getD x.measIndex 0)

def State.readHsh (s : State) (o : Nat) : Option Nat :=
  let i := s.sel.htSel
  let t := s.tile (tkey .ht i)
  match o with
  | 0x00 => some (regOf [(0, 96), (8, s.inService .ht), (16, 512)])
  | 0x04 => some i
  | 0x08 => some 0
  | 0x0C => some (regOf [(0, laneBits fun u => (s.tile (laneKey i u)).node.isSome), (4, laneBits (s.unitMasked i)),
      (9, s.unitMode .ht i), (11, b2n ((unitKeys .ht i).any fun k => (s.tile k).throttled)),
      (12, s.htState i), (15, b2n s.sel.htDone), (16, s.sel.htResult)])
  | 0x10 => some t.epoch.toNat
  | 0x14 => some (overUnits .ht i s.busyCycles)
  | 0x18 => some (overUnits .ht i s.stallCycles)
  | 0x80 => some (regOf [(0, s.sel.measIndex), (8, s.sel.measReach), (30, b2n s.measured.isSome),
      (31, b2n s.sel.measDevice)])
  | 0x84 => some ((s.measured.map Prod.snd).getD 0)
  | _ =>
    if inArray o 0x20 3 then some (s.disabledWord .ht ((o - 0x20) / 4))
    else if inArray o 0x40 8 then
      let b := (o - 0x40) / 4
      some (regOf [(0, min 512 (s.entriesUsed b fun _ => true)), (16, min 0xFFFF (s.ctxCount b fun _ n => n.inHbm))])
    else if inArray o 0xC0 12 then
      let now := (s.measured.map Prod.fst).getD measZero
      some (wordAt (if o = 0xC0 then now else s.sel.measLatch) ((o - 0xC0) / 4))
    else none

/-- STATE of a BNU: 4 HOLDING while it runs no node and holds contexts (R264). -/
def State.bnuState (s : State) (i : Nat) : Nat :=
  if s.unitState .bnu i = 1 ∧ 0 < s.bnuHeld i then 4 else s.unitState .bnu i

def State.bnuFreeSlots (s : State) (i r : Nat) : Nat :=
  s.partSlots i r - ((s.spans.filter fun p => p.bnu == i && p.reach == r).map Span.count).sum

/-- SPAN_WAIT: a node waits for operand slots of the unit (R254, R264). -/
def State.spanWaitAt (s : State) (i : Nat) : Bool :=
  s.jobs.any fun j => j.nodes.any fun n => n.st == .spanWait (tkey .bnu i)

def State.readBnu (s : State) (o : Nat) : Option Nat :=
  let i := s.sel.bnuSel
  let r := s.sel.bnuReach
  let t := s.tile (tkey .bnu i)
  match o with
  | 0x00 => some (regOf [(0, 32), (8, s.inService .bnu), (16, 128)])
  | 0x04 => some (regOf [(0, i), (8, r)])
  | 0x08 => some 0
  | 0x0C => some (regOf [(0, t.reach), (6, t.order), (8, s.unitMode .bnu i), (10, b2n (s.spanWaitAt i)),
      (11, b2n t.throttled), (12, s.bnuState i), (15, b2n s.sel.bnuDone), (16, s.sel.bnuResult)])
  | 0x10 => some t.epoch.toNat
  | 0x14 => some (s.busyCycles (tkey .bnu i))
  | 0x18 => some (s.stallCycles (tkey .bnu i))
  | 0x1C => some (regOf [(0, t.ce), (16, t.ue)])
  | 0x20 => some (s.disabledWord .bnu 0)
  | 0x24 => some (min 0xFFFF (s.bnuHeld i))
  | 0x28 => some t.yields
  | 0x2C => some t.chkFail
  | 0x30 => some (regOf [(0, ((s.cfg.reach r).map ReachRec.slotWords).getD 0), (24, s.pagesOf i r)])
  | 0x34 => some (regOf [(0, s.partSlots i r), (16, s.bnuFreeSlots i r)])
  | _ => none

def State.chainStat (s : State) (n : Nat) : Nat :=
  match s.cfg.chains.find? fun c => c.id == n with
  | none => 0
  | some c => regOf [(0, c.reach), (12, basinOf .pt (c.tiles.headD 0)), (16, c.length), (20, c.profile),
      (28, c.order), (30, b2n (s.chainInService c)), (31, 1)]

def State.readPtl (s : State) (o : Nat) : Option Nat :=
  let i := s.sel.ptSel
  let t := s.tile (tkey .pt i)
  match o with
  | 0x00 => some (regOf [(0, 128), (8, s.inService .pt), (16, s.cfg.chains.length)])
  | 0x04 => some i
  | 0x08 => some 0
  | 0x0C => some (regOf [(0, t.reach), (7, s.unitMode .pt i), (9, t.order), (11, b2n t.throttled),
      (12, s.unitState .pt i), (15, b2n s.sel.ptDone), (16, s.sel.ptResult)])
  | 0x10 => some t.epoch.toNat
  | 0x14 => some (s.busyCycles (tkey .pt i))
  | 0x18 => some (s.stallCycles (tkey .pt i))
  | 0x1C => some (regOf [(0, t.ce), (16, t.ue)])
  | _ =>
    if inArray o 0x20 4 then some (s.disabledWord .pt ((o - 0x20) / 4))
    else if inArray o 0x100 64 then some (s.chainStat ((o - 0x100) / 4))
    else if inArray o 0x200 32 then
      let c := s.cprofOf ((o - 0x200) / 8)
      some (if o % 8 = 0 then c.q else c.log2n)
    else if inArray o 0x280 16 then some (s.cprofOf ((o - 0x280) / 4)).qinv
    else none

def State.readMcs (s : State) (o : Nat) : Option Nat :=
  let e := s.sel.mcsSel
  let c := s.store e
  let u := s.cfg.ucode.find? fun r => r.engine == e
  match o with
  | 0x00 => some (regOf [(0, 16), (6, 512), (16, 16384)])
  | 0x04 => some e
  | 0x08 => some (Config.romId e % 2 ^ 32)
  | 0x0C => some (regOf [(0, c.level), (16, c.matches_.length), (30, b2n c.mandatory), (31, b2n (!c.patch.isEmpty))])
  | 0x70 => some (match u with | some r => regOf [(0, r.words.length), (31, 1)] | none => 0)
  | 0x74 => some (half ((u.map UcodeRec.reachMask).getD 0) false)
  | 0x78 => some (half ((u.map UcodeRec.reachMask).getD 0) true)
  | 0x7C => some ((u.map fun r => imageCycles (r.words.headD 0)).getD 0)
  | 0xC0 => some c.abandon
  | 0xC4 => some c.intRestart
  | 0xC8 => some c.fac
  | 0xCC => some c.csErr
  | _ =>
    if inArray o 0x10 12 then some (wordAt c.digest ((o - 0x10) / 4))
    else if inArray o 0x40 12 then some (wordAt c.custDigest ((o - 0x40) / 4))
    else if inArray o 0x80 16 then
      some (match c.matches_[(o - 0x80) / 4]? with
        | some (rom, patch) => regOf [(0, rom), (16, patch % 512), (31, 1)]
        | none => 0)
    else none

def State.readCco (s : State) (o : Nat) : Option Nat :=
  let i := s.sel.ccSel
  let t := s.tile (tkey .cc i)
  let c := s.core i
  let p := s.cfg.progs.find? fun r => r.id == s.sel.ccProg
  match o with
  | 0x00 => some (regOf [(0, 16), (5, s.inService .cc), (10, s.cfg.progs.length)])
  | 0x04 => some (regOf [(0, i), (16, s.sel.ccProg)])
  | 0x08 => some 0
  | 0x0C => some (regOf [(0, t.reach), (7, s.unitMode .cc i),
      (9, b2n ((s.cfg.reach t.reach).any fun x => x.vlen256 && t.node.isSome)), (10, b2n c.overlay),
      (11, b2n c.ownerMode), (12, s.unitState .cc i), (15, b2n s.sel.ccDone), (16, s.sel.ccResult)])
  | 0x10 => some t.epoch.toNat
  | 0x14 => some (s.busyCycles (tkey .cc i))
  | 0x18 => some (regOf [(0, t.ce), (16, t.ue)])
  | 0x1C => some s.sel.ccLimit
  | 0x20 => some (s.rst.disCc % 2 ^ 16)
  | 0x24 => some (match p with | some r => regOf [(0, r.reach), (31, 1)] | none => 0)
  | 0x28 => some ((p.map fun r => r.code.length).getD 0)
  | 0x2C => some ((p.map fun r => r.data.length).getD 0)
  | 0x30 => some (tget 0 s.sel.progRuns s.sel.ccProg)
  | 0x34 => some s.sel.ccFaults
  | _ => none

/-! ## HBM (R370) -/

/-- STATE: 0 before step 12, 1 while it runs, then 2, or 3 with a channel mapped out. -/
def State.hbmState (s : State) : Nat :=
  if s.rst.outcomes.getD 11 0 = 0 then (if s.rst.step = 12 then 1 else 0) else if s.hbm.mappedOut.isSome then 3 else 2

/-- Channels in service, once trained. -/
def State.hbmMap (s : State) : Nat :=
  if s.hbmState < 2 then 0 else ((List.range 16).filter s.hbm.chanOn).foldl (fun m c => m + 2 ^ c) 0

def Hbm.sparesFree (h : Hbm) (c : Nat) : Nat := 32768 - tget 0 h.sparesUsed c

def State.readHbm (s : State) (v : Mgmt) (o : Nat) : Option Nat :=
  let h := s.hbm
  let c := v.hbm
  let owner := s.cfg.reaches.find? fun x => bitOf x.pchMask c
  match o with
  | 0x00 => some (if s.fuse.smallStack then regOf [(0, 8), (8, 16), (16, 7168)] else regOf [(0, 16), (8, 16), (16, 14336)])
  | 0x04 => some (regOf [(0, s.hbmState), (4, b2n h.pinRate24), (5, b2n h.keysValid),
      (6, b2n ((List.range 16).any fun c => h.sparesFree c == 0)), (16, s.hbmMap)])
  | 0x08 => some c
  | 0x0C => some (regOf [(4, b2n (bitOf s.hbmMap c)), (5, b2n owner.isSome), (6, (owner.map ReachRec.id).getD 0),
      (16, h.sparesFree c)])
  | 0x10 => some (tget 0 h.ce c)
  | 0x14 => some (tget 0 h.ue c)
  | 0x18 => some (tget 0 h.macFail c)
  | 0x1C => some (h.scrubs c % s.chanLines)
  | 0x20 => some s.scrubPasses
  | 0x24 => some h.lastPoison
  | _ => none

/-! ## CFL (R389) -/

def State.fencedNow (s : State) : Bool := s.rst.fenced || s.lev.fenced

/-- Time master: configured, and no lower master has been adopted (R384). -/
def State.isMaster (s : State) : Bool := s.cfg.confluence.isSome && s.cfl.masterDev == s.devId

def State.readCfl (s : State) (v : Mgmt) (o : Nat) : Option Nat :=
  let c := s.cfl
  let p := s.port v.cfl
  let dir := ((s.cfg.confluence.map ConfluenceRec.portDir).getD []).getD v.cfl 0
  match o with
  | 0x00 => some (regOf [(0, 8), (4, 4), (8, b2n (s.wsh.configured && s.cfg.device.large))])
  | 0x04 => some (regOf [(0, s.upPorts.foldl (fun m q => m + 2 ^ q) 0), (12, b2n c.timeValid), (13, b2n s.isMaster),
      (14, b2n c.clusterKey.isSome), (15, b2n s.fencedNow), (16, s.devId)])
  | 0x08 => some (regOf [(0, b2n c.retrainEn), (1, b2n c.uncertOk)])
  | 0x0C => some v.cfl
  | 0x10 => some (regOf [(0, p.lanesOk), (10, if p.st = .refused then p.refuse else 0), (13, p.st.code), (16, dir),
      (20, p.peerDev)])
  | 0x14 => some (regOf [(0, p.retrains), (16, p.tagFail)])
  | 0x18 => some p.linkDelay
  | 0x1C => some (half s.clusterTime false)
  | 0x20 => some c.timeHi
  | 0x24 => some c.timeSetLo
  | 0x28 => some c.timeSetHi
  | 0x2C => some (regOf [(0, b2n c.timeValid), (1, b2n c.ppsLock), (8, c.hops), (20, c.masterDev)])
  | 0x30 => some c.msgTx
  | 0x34 => some c.msgRx
  | 0x38 => some c.drop
  | 0x3C => some c.staleIn
  | _ => none

/-! ## LEV (R418, R419) -/

/-- The 16 bytes of a log entry (R418). -/
def LogEntry.bytes (e : LogEntry) : Bytes :=
  toLe 8 e.time ++ toLe 1 e.source ++ toLe 1 e.kind ++ toLe 2 e.actions ++ toLe 1 e.det ++ toLe 1 e.set ++ toLe 2 e.count

/-- The entry at an index of the ring of 1,024. -/
def Lev.entryAt (l : Lev) (i : Nat) : Bytes :=
  let pos := if l.logTotal ≤ 1024 then i else (i + 1024 - l.logTotal % 1024) % 1024
  ((l.log[pos]?).map LogEntry.bytes).getD (zeros 16)

def State.srcStat (s : State) (i : Nat) : Nat :=
  let x := s.levSrc i
  let c := s.levCfg i
  regOf [(0, c.countN), (16, x.count), (27, b2n (c.actions == 0)), (28, b2n (isBattery i)), (29, b2n x.detB),
    (30, b2n x.detA), (31, b2n x.latched)]

/-- `now` shows the selected entry itself, as the management port sees it; the PF sees the latch but in word 0 (R496). -/
def State.readLev (s : State) (v : Mgmt) (now : Bool) (o : Nat) : Option Nat :=
  let l := s.lev
  let c := s.levCfg v.levSrc
  match o with
  | 0x00 => some (regOf [(0, 26), (8, 1024)])
  | 0x04 => some (regOf [(0, l.sets), (8, s.alarmOut), (10, b2n s.wsh.configured), (11, b2n l.throttling),
      (12, b2n l.fenced), (13, b2n l.cleared), (14, b2n l.halted), (15, b2n l.hold)])
  | 0x08 => some v.levSrc
  | 0x0C => some (regOf [(0, c.actions), (16, c.alarmSel), (18, c.bistH)])
  | 0x10 => some c.windowMs
  | 0x14 => some (s.srcStat v.levSrc)
  | 0x18 => some l.latchedMap
  | 0x1C => some (regOf [(0, l.summaryRun), (31, b2n l.copyLost)])
  | 0x20 => some (regOf [(0, s.ao.logLost), (16, s.ao.log.length), (29, b2n l.battRun), (30, b2n s.ao.zeroised),
      (31, b2n l.aoLost)])
  | 0x24 => some (regOf [(0, l.logTotal % 1024), (16, min 0xFFFF l.logTotal)])
  | 0x28 => some v.levLog
  | 0x800 => some 0
  | 0x804 => some (regOf [(0, l.bist.source), (8, b2n l.bist.detB), (13, b2n l.bist.fail), (14, b2n l.bist.pass),
      (15, b2n l.bist.done), (16, l.bist.result)])
  | _ =>
    if inArray o 0x30 4 then
      some (wordAt (if now || o == 0x30 then l.entryAt v.levLog else l.logLatch) ((o - 0x30) / 4))
    else none

/-! ## LCS (R405) -/

/-- LCS_STAT.STATE (R405). -/
def LcState.code : LcState → Nat
  | .blank => 0 | .testLocked => 1 | .testUnlocked => 2 | .personalised => 3 | .owned => 4 | .fieldReturn => 5
  | .scrapped => 6

def State.readLcs (s : State) (o : Nat) : Option Nat :=
  let l := s.lcs
  match o with
  | 0x00 => some (regOf [(0, if l.byVote then 7 else l.st.code), (12, l.used), (16, l.gen), (19, b2n l.debugOpen),
      (20, l.erase), (22, b2n l.pending), (23, l.vote), (26, l.pos)])
  | 0x04 => some 0
  | 0x08 => some (regOf [(15, b2n l.done), (16, l.result)])
  | 0x0C => some l.digests
  | 0x10 => some l.fails
  | _ =>
    if inArray o 0x20 8 || inArray o 0x40 40 then some 0
    else if inArray o 0x100 6 then some (half (l.copies.getD ((o - 0x100) / 8) 0).toNat (o % 8 == 4))
    else none

/-! ## RST (R437), CLK and PWR (R485) -/

def State.basinWord (s : State) : Nat := (List.range 8).foldl (fun m b => m + (s.basin b).code * 8 ^ b) 0

/-- The journal record `back` boots earlier, found by its boot number (R432). -/
def State.bootRecord (s : State) (back : Nat) : Option BootRec :=
  let all := s.ao.bootCur.toList ++ s.ao.bootPrev.toList ++ s.ledger.boots
  match all with
  | [] => none
  | r :: _ => if r.no < back then none else all.find? fun x => x.no + back == r.no

def BootRec.word (r : BootRec) : Nat :=
  (List.range 16).foldl (fun m n => m + r.steps.getD n 0 * 4 ^ n) 0

def State.readRst (s : State) (v : Mgmt) (o : Nat) : Option Nat :=
  let r := s.rst
  let rec0 := s.bootRecord v.jrnl
  match o with
  | 0x00 => some (s.ao.cause % 4096)
  | 0x04 => some 0
  | 0x08 => some (regOf [(0, r.step), (11, b2n r.altUsed), (12, b2n r.inService), (13, b2n s.fencedNow),
      (14, b2n r.safeStandby), (15, b2n r.done), (16, r.result)])
  | 0x0C => some 0
  | 0x10 => some (regOf [(15, b2n r.blkDone), (16, r.blkResult)])
  | 0x14 => some s.basinWord
  | 0x18 => some (regOf [(0, min 3 s.ao.recent), (16, s.ledger.total)])
  | 0x1C => some r.bootUs
  | 0x20 => some r.wdtMs
  | 0x24 => some v.jrnl
  | 0x28 => some (match rec0 with | some x => regOf [(0, x.cause % 4096), (16, x.no % 32768), (31, 1)] | none => 0)
  | 0x2C => some ((rec0.map BootRec.word).getD 0)
  | 0x30 => some ((rec0.map fun x => x.steps.getD 16 0).getD 0)
  | _ => none

def State.readClk (s : State) (o : Nat) : Option Nat :=
  let p := s.pwr
  match o with
  | 0x00 => some (regOf [(0, b2n p.fclkLock), (1, b2n p.hclkLock), (2, b2n p.mclkLock), (3, b2n p.bclkLock),
      (4, b2n p.xtalOk), (5, b2n p.bclkOnRc), (6, b2n s.lev.throttling), (16, s.fclk)])
  | 0x04 => some p.planMhz
  | _ => none

/-- A signed number in 16 bits. -/
def signed16 (t : Int) : Nat := (t % 65536).toNat

def State.readPwr (s : State) (o : Nat) : Option Nat :=
  let p := s.pwr
  let m := p.meas
  match o with
  | 0x00 => some 0
  | 0x04 => some (regOf [(0, p.point), (11, b2n p.eyeLow), (12, b2n p.sramLow), (13, b2n p.marginLow),
      (14, b2n p.planning), (15, b2n p.done), (16, p.result)])
  | 0x08 => some (regOf [(0, if p.measured then m.readMv % 1024 else 0), (16, p.targetMv % 1024)])
  | 0x0C => some (if p.measured then
      regOf [(0, m.worst % 32), (8, m.m * 100 / s.fuse.m0 % 256), (16, m.corePs % 256), (24, m.sramMv % 256)] else 0)
  | 0x10 => some (if p.measured then regOf [(8, m.cflPct % 256), (16, m.pciePct % 256), (24, m.hbmPct % 256)] else 0)
  | 0x14 => some s.life
  | 0x18 => some p.serviceDays
  | 0x1C => some (signed16 p.temp)
  | 0x20 => some (regOf [(0, p.statusWord), (16, b2n p.alert), (17, b2n p.noAck), (18, b2n p.pecErr)])
  | 0x24 => some (if p.point = 2 then 0 else (p.nextAt - s.now) / 1000000000)
  | _ => none

/-! ## FWU (R450) -/

/-- FWU_SLOT: the running slot, and no other, reads ACTIVE with its package's SVN. -/
def State.fwSlotWord (s : State) (i : Nat) : Nat :=
  let x := s.ledger.slot i
  if s.rst.outcomes.getD 8 0 = 0 then 0
  else if s.fwu.running = i then regOf [(0, min s.fwu.runSvn 0x1FFFFFFF), (29, 2)]
  else regOf [(0, if x.st = .invalid then 0 else min x.svn 0x1FFFFFFF), (29, if x.st = .active then 1 else x.st.code)]

def State.readFwu (s : State) (o : Nat) : Option Nat :=
  let f := s.fwu
  let trial : Bool := f.st == .trial
  match o with
  | 0x00 => some 0
  | 0x04 => some (regOf [(0, s.fwuLow), (16, f.result)])
  | 0x08 => some f.err
  | 0x0C => some f.srcLo
  | 0x10 => some f.srcHi
  | 0x14 => some f.len
  | 0x18 => some f.drainMs
  | 0x1C => some f.actLo
  | 0x20 => some f.actHi
  | 0x24 => some (s.fwSlotWord 0)
  | 0x28 => some (s.fwSlotWord 1)
  | 0x2C => some f.runSvn
  | 0x30 => some s.fuse.thermSteps
  | 0x34 => some (if trial then
      regOf [(0, min f.jobsLeft 0xFFFFF), (20, ceilDiv (f.trialEnd - s.now) 1000000000 % 4096)] else 0)
  | 0x38 => some f.ignored
  | _ => if inArray o 0x40 12 then some (wordAt f.digest ((o - 0x40) / 4)) else none

/-! ## EVT (R469) and SNP (R470) -/

def State.pendWord (s : State) (n : Nat) : Nat :=
  (List.range 32).foldl (fun m b => m + b2n (s.source (32 * n + b)).pending * 2 ^ b) 0

def State.readEvt (s : State) (o : Nat) : Option Nat :=
  let n := s.evt.sel
  let e := s.source n
  let r := s.route n
  match o with
  | 0x00 => some (regOf [(0, 2048), (16, (s.cfg.events.filter fun x => 0x400 ≤ x.source).length)])
  | 0x04 => some n
  | 0x08 => some (if eventListed n then
      regOf [(0, r.vector), (22, r.fn), (30, b2n (r.fn != 0)), (31, b2n e.mask)] else 0)
  | 0x0C => some (regOf [(0, min 0xFFFF e.unsent), (31, b2n e.pending)])
  | 0x10 => some e.cause
  | 0x14 => some r.count
  | 0x18 => some r.timeUs
  | _ => if inArray o 0x100 64 then some (s.pendWord ((o - 0x100) / 4)) else none

/-- Words of the selected block for the view in force: three in a capture record. -/
def State.snpWords (s : State) (cls inst : Nat) : Nat :=
  if cls = 0xFF then (if inst ≤ 4 || (8 ≤ inst && inst ≤ 15) then 3 else 0)
  else if 13 < cls then 0
  else Config.snpWords (if s.snp.frozen then s.snp.fullView else s.fullView) cls inst % 2 ^ 16

/-- SNP_DATA: 0 beyond the block or while nothing is frozen (R470). -/
def State.snpData (s : State) (cls inst word : Nat) : Nat :=
  let n := s.snp
  if !n.frozen || s.snpWords cls inst ≤ word then 0
  else if cls = 0xFF then
    if word = 0 then half n.record.stamp false else if word = 1 then half n.record.stamp true else n.record.sources
  else Config.snpWord n.captures n.fullView cls inst word % 2 ^ 32

def State.readSnp (s : State) (v : Mgmt) (o : Nat) : Option Nat :=
  let n := s.snp
  let cls := bitsOf v.snp 31 24
  let inst := bitsOf v.snp 23 16
  match o with
  | 0x00 => some (regOf [(0, b2n n.arm), (1, b2n n.enPin), (2, b2n n.enCmd), (3, b2n n.enCfl), (4, b2n n.enLevee),
      (5, b2n n.broadcast)])
  | 0x04 => some 0
  | 0x08 => some (if n.frozen then regOf [(0, n.sources), (8, b2n n.fullView)] else 0)
  | 0x0C => some (regOf [(0, n.matchSrc), (31, b2n n.matchEn)])
  | 0x10 => some v.snp
  | 0x14 => some (s.snpData cls inst (bitsOf v.snp 15 0))
  | 0x18 => some (s.snpWords cls inst)
  | 0x1C => some n.missed
  | _ => none

/-! ## WSH (R71) and VFN (R93, R469) -/

def State.readWsh (s : State) (o : Nat) : Option Nat :=
  let w := s.wsh
  match o with
  | 0x00 => some 0
  | 0x04 => some (regOf [(0, w.st.code), (8, b2n w.configured), (9, b2n w.partialFlag), (10, b2n w.floorStale)])
  | 0x08 => some (regOf [(0, w.errCode), (16, w.errType)])
  | 0x0C => some w.errOffset
  | 0x10 => some (regOf [(0, 1), (16, 3)])
  | 0x14 => some w.applyUs
  | 0x18 => some (half w.serial false)
  | 0x1C => some (half w.serial true)
  | _ => if inArray o 0x20 12 then some (wordAt w.digest ((o - 0x20) / 4)) else none

/-- VFN_ID and VFN_STAT, which an unconfigured VF shows too (R77). -/
def State.vfnId (s : State) (fn : Nat) : Nat :=
  let r := s.cfg.reachOf fn
  let on := s.fnConfigured fn
  regOf [(0, if on then s.cfg.queuesOf fn else 0), (8, if on then r.getD 0 else 0), (16, fn)]

def State.vfnStat (s : State) (fn : Nat) : Nat :=
  let st := ((s.cfg.reachOf fn).map fun r => (s.reach r).st).getD .absent
  let asked : Bool := (s.fn fn).quiesce || st == .quiescing || st == .quiesced
  regOf [(0, b2n (s.fnConfigured fn)), (1, b2n asked), (2, b2n (s.fnConfigured fn && s.fnQuiesced fn)), (3, b2n (s.fn fn).flrRefused)]

/-- A VF's events: only sources routed to it show (R469). -/
def State.readVfEvents (s : State) (fn o : Nat) : Option Nat :=
  let r := (s.cfg.reachOf fn).getD 0
  let map (f : EvtSrc → Bool) : Nat :=
    (s.vfSources fn).foldl (fun m k => m + b2n (f (s.source (0x300 + 4 * r + k))) * 2 ^ k) 0
  match o with
  | 0x0 => some (map EvtSrc.pending)
  | 0x4 => some (map EvtSrc.mask)
  | _ =>
    if inArray o 0x10 4 then
      let k := (o - 0x10) / 4
      some (if (s.vfSources fn).contains k then (s.source (0x300 + 4 * r + k)).cause else 0)
    else none

/-! ## The BARs (R75 to R77) -/

/-- A register of PF BAR 0. -/
def State.readPf (s : State) (v : Mgmt) (now : Bool) (a : Nat) : Option Nat :=
  let o := a % 0x100000
  if 0x3FF0000 ≤ a then s.readWsh (a - 0x3FF0000)
  else
    match a / 0x100000 with
    | 0 => s.readGlb o
    | 1 => s.readSlu o
    | 2 => s.readWeir o
    | 3 => if 0x100 ≤ o then s.readRnd 0 (o - 0x100) else s.readSpr v o
    | 4 => s.readKst o
    | 5 => s.readHsh o
    | 6 => s.readBnu o
    | 7 => s.readPtl o
    | 8 => s.readMcs o
    | 9 => s.readCco o
    | 10 => s.readHbm v o
    | 11 => s.readCfl v o
    | 12 => s.readLev v now o
    | 13 => s.readLcs o
    | 14 => if o < 0x100 then s.readRst v o else if o < 0x200 then s.readClk (o - 0x100) else s.readPwr (o - 0x200)
    | 15 => s.readFwu o
    | 16 => s.readEvt o
    | 17 => s.readSnp v o
    | _ => none

/-- A register of a VF's BAR 0. -/
def State.readVf (s : State) (fn a : Nat) : Option Nat :=
  if a = 0 then some (s.vfnId fn)
  else if a = 4 then some (s.vfnStat fn)
  else if !s.fnConfigured fn then none
  else if 0x1000 ≤ a ∧ a < 0x2000 then s.readVfEvents fn (a - 0x1000)
  else if 0x2000 ≤ a ∧ a < 0x3000 then s.readRnd fn (a - 0x2000)
  else if 0x10000 ≤ a ∧ a < 0x14000 then s.readQueue fn ((a - 0x10000) / 256) (a % 256)
  else none

/-- The registers that a SCRAPPED part still shows (R403). -/
def scrappedSees (a : Nat) : Bool :=
  [0x0, 0x4, 0xD00000, 0xC00004, 0xC0001C, 0xC00020].contains a || inArray a 0xD00100 6

/-- Does a register answer a read: out of reset, over the link, and on a SCRAPPED part among the few it shows (R403, R436)? -/
def State.regAnswers (s : State) (fn a : Nat) : Bool :=
  !s.rst.inReset && s.rst.linkUp && !(s.scrapped && (fn != 0 || !scrappedSees a))

/-- What a function reads at an offset: an offset that holds no register reads 0, as does every one of an absent reach's
VF, and of a SCRAPPED part but for a few (R73, R77, R403). HALT leaves status readable (R411). -/
def State.hostValue (s : State) (fn a : Nat) : Nat :=
  if !s.regAnswers fn a || a % 4 != 0 then 0
  else ((if fn = 0 then s.readPf s.pfView false a else s.readVf fn a)).getD 0

end Sys2Proof.Machine
end

