-- ==== Sys2Proof/Machine/Pcie.lean ====
section
/-! DEFINITION. The PCIe endpoint (R72): what its functions advertise in configuration space and the settings that host
software makes there, and the MSI-X table and PBA behind BAR 2 (R76). The layouts are those of the PCIe base specification
(PRESUMED, log entries 90 and 114). -/

namespace Sys2Proof.Machine

open Sys2Proof

/-- What a function advertises (R72). Sizes are in bytes. A feature without a field here is absent and advertised nowhere:
ATS, PASID, PRI, INTx, MSI, LTR, L0s, the L1 PM substates and D3cold. -/
structure PcieFn where
  classCode : Nat
  deviceId : Nat
  msixVectors : Nat
  maxPayload : Nat
  maxReadRequest : Nat
  tags : Nat
  flr : Bool
  aer : Bool
  ecrc : Bool
  acs : Bool
  d3hot : Bool
  noSoftReset : Bool
  aspmL1 : Bool
  deriving DecidableEq, Repr

/-- The SR-IOV capability of the PF (R72). -/
structure SriovCap where
  total : Nat
  initial : Nat
  firstOffset : Nat
  stride : Nat
  pageSizes : List Nat
  deriving DecidableEq, Repr

def sriov : SriovCap where
  total := totalVfs
  initial := totalVfs
  firstOffset := 1
  stride := 1
  pageSizes := [4096, 65536]

/-- The PF is function 0; every other number is a VF. -/
def pcieFn (fn : Nat) : PcieFn where
  classCode := 0x108000
  deviceId := if fn = 0 then 0x0C90 else 0x0C91
  msixVectors := vectorsOf fn
  maxPayload := 512
  maxReadRequest := 4096
  tags := 512
  flr := fn != 0
  aer := true
  ecrc := true
  acs := true
  d3hot := true
  noSoftReset := true
  aspmL1 := true

/-- Routing ID of a function behind the PF's (R72, R78). -/
def routingId (pf fn : Nat) : Nat := if fn = 0 then pf else pf + sriov.firstOffset + (fn - 1) * sriov.stride

/-! ## Configuration space -/

/-- Where the PCI Express capability stands in configuration space (DESIGN CHOICE, log entry 114). -/
def expressCap : Nat := 0x40

/-- The code of a payload or request size in bytes: 128 times a power of two (PCIe base specification). -/
def sizeCode (bytes : Nat) : Nat := Nat.log2 (bytes / 128)

/-- Device Capabilities: largest payload and FLR. -/
def PcieFn.devCap (f : PcieFn) : Nat := regOf [(0, sizeCode f.maxPayload), (28, b2n f.flr)]

/-- Link Capabilities' ASPM field: L1 alone. -/
def PcieFn.linkCap (f : PcieFn) : Nat := regOf [(10, if f.aspmL1 then 2 else 0)]

/-- A 32-bit read of configuration space: the identity, and the PCI Express capability's capability and control registers
(R72, log entry 114). -/
def State.configRead (s : State) (fn a : Nat) : Nat :=
  let f := pcieFn fn
  if a = 0 then regOf [(0, Config.vendorId.toNat), (16, f.deviceId)]
  else if a = 8 then regOf [(0, Config.revisionId.toNat), (8, f.classCode)]
  else if a = expressCap + 4 then f.devCap
  else if a = expressCap + 8 then (s.fn fn).devCtl
  else if a = expressCap + 12 then f.linkCap
  else if a = expressCap + 16 then (s.fn fn).linkCtl
  else 0

/-- What Device Control takes: Relaxed Ordering, the payload size up to 512 bytes, extended tags, and the read request size up
to 4,096 bytes (R72); an unsupported size is not taken. -/
def PcieFn.control (f : PcieFn) (old w : Nat) : Nat :=
  let mps := bitsOf w 7 5
  let mrrs := bitsOf w 14 12
  regOf [(4, bitsOf w 4 4), (5, if mps ≤ sizeCode f.maxPayload then mps else bitsOf old 7 5), (8, bitsOf w 8 8),
    (11, bitsOf w 11 11), (12, if mrrs ≤ sizeCode f.maxReadRequest then mrrs else bitsOf old 14 12)]

/-- What Link Control takes: ASPM L1, off until software enables it; L0s is absent (R72). -/
def PcieFn.linkControl (f : PcieFn) (w : Nat) : Nat := if f.aspmL1 then regOf [(1, bitsOf w 1 1)] else 0

/-- A 32-bit write of configuration space. The settings are the PF's (log entry 114); D-states, MSI-X Enable, VF Enable and FLR
have commands of their own. -/
def State.configWrite (s : State) (fn a w : Nat) : State :=
  if fn != 0 then s
  else if a = expressCap + 8 then s.setFn 0 { s.fn 0 with devCtl := (pcieFn 0).control (s.fn 0).devCtl w }
  else if a = expressCap + 16 then s.setFn 0 { s.fn 0 with linkCtl := (pcieFn 0).linkControl w }
  else s

/-- Where the PBA stands in BAR 2 (R76). -/
def pbaBase : Nat := 0x8000

/-- A table entry's message address and data. -/
def FnState.entry (f : FnState) (v : Nat) : Nat × Nat := tget (0, 0) f.table v

/-- A 32-bit read of BAR 2: table entries of address, data and vector control, then the PBA's pending bits. -/
def State.msixRead (s : State) (fn a : Nat) : Nat :=
  let f := s.fn fn
  let v := a / 16
  if v < vectorsOf fn then
    match a % 16 with
    | 0 => half (f.entry v).1 false
    | 4 => half (f.entry v).1 true
    | 8 => (f.entry v).2
    | 12 => b2n (!f.vecOpen.contains v)
    | _ => 0
  else if inArray a pbaBase (vectorsOf fn / 32) then
    (f.pba.filter fun v => v / 32 == (a - pbaBase) / 4).foldl (fun m v => m ||| 2 ^ (v % 32)) 0
  else 0

/-- A 32-bit write of BAR 2: a table entry's address, 4-byte aligned, its data, or its mask bit (R458); the PBA is
read-only. -/
def State.msixWrite (s : State) (fn a w : Nat) : State :=
  let f := s.fn fn
  let v := a / 16
  let put (e : Nat × Nat) : State := s.setFn fn { f with table := tset f.table v e }
  if v < vectorsOf fn then
    match a % 16 with
    | 0 => put ((f.entry v).1 / 2 ^ 32 * 2 ^ 32 + w / 4 * 4, (f.entry v).2)
    | 4 => put ((f.entry v).1 % 2 ^ 32 + w * 2 ^ 32, (f.entry v).2)
    | 8 => put ((f.entry v).1, w)
    | 12 => s.msixStateChange fn (.vecMask v (bitOf w 0))
    | _ => s
  else s

end Sys2Proof.Machine
end

