-- ==== Sys2Proof/Machine/Registers.lean ====
section
/-! DEFINITION. Writes of register fields that have no command of their own (R11, R12, R73), what a read clears or latches,
and the management port (R494 to R497). -/

namespace Sys2Proof.Machine

open Sys2Proof

/-! ## Field types -/

/-- A write-1-to-clear bit after a write of `w` (R11). -/
def w1c (old w : Bool) : Bool := old && !w

/-- A 64-bit register with its low or high half replaced. -/
def setHalf (v : BitVec 64) (hi : Bool) (w : Nat) : BitVec 64 :=
  BitVec.ofNat 64 (if hi then v.toNat % 2 ^ 32 + w * 2 ^ 32 else v.toNat / 2 ^ 32 * 2 ^ 32 + w)

/-- Word `n` of a byte string replaced. -/
def setWord (bs : Bytes) (n w : Nat) : Bytes := bs.take (4 * n) ++ toLe 4 w ++ bs.drop (4 * n + 4)

/-! ## Selections (R496)

Each gives the value that a write stores, or none where the register ignores it. -/

def keepSel (ok : Bool) (v : Nat) : Option Nat := if ok then some v else none

/-- The eight selection registers that the management port may write: the view after a write, none where it is ignored or
where the offset is no selection register. -/
def Mgmt.select (m : Mgmt) (a w : Nat) : Option Mgmt :=
  match a with
  | 0x300030 => (keepSel (w % 128 ≤ 64) (w % 128)).map fun x => { m with drbg := x }
  | 0x300040 => (keepSel (w % 256 ≤ 223) (w % 256)).map fun x => { m with exp := x }
  | 0xA00008 => some { m with hbm := w % 16 }
  | 0xB0000C => some { m with cfl := w % 8 }
  | 0xC00008 => (keepSel (w % 32 ≤ 25) (w % 32)).map fun x => { m with levSrc := x }
  | 0xC00028 => some { m with levLog := w % 1024 }
  | 0xE00024 => some { m with jrnl := w % 64 }
  | 0x1100010 => some { m with snp := w % 2 ^ 32 }
  | _ => none

/-- The PF's own selections after a write. -/
def State.setView (s : State) (m : Mgmt) : State :=
  { s with
    spr := { s.spr with drbgSel := m.drbg, expSel := m.exp }
    hbm := { s.hbm with sel := m.hbm }
    cfl := { s.cfl with sel := m.cfl }
    lev := { s.lev with sel := m.levSrc, logIdx := m.levLog }
    rst := { s.rst with jrnlSel := m.jrnl }
    snp := { s.snp with selClass := bitsOf m.snp 31 24, selInst := bitsOf m.snp 23 16, selWord := bitsOf m.snp 15 0 } }

/-! ## Queue registers (R118, R123) -/

/-- SLU_Q_STAT clears its errors; bases and sizes are written only while ENABLE is 0 and the queue idle (R118). -/
def State.writeQueue (s : State) (fn q o w : Nat) : State :=
  let k := qkey fn q
  let x := s.queue k
  let free : Bool := !x.enable && s.outstanding fn q == 0
  if !s.granted fn q then s
  else
    match o with
    | 0x04 => s.setQueue k { x with dbErr := w1c x.dbErr (bitOf w 2), fetchErr := w1c x.fetchErr (bitOf w 3) }
    | 0x08 => if free then s.setQueue k { x with sqBase := setHalf x.sqBase false w } else s
    | 0x0C => if free then s.setQueue k { x with sqBase := setHalf x.sqBase true w } else s
    | 0x10 => if free then s.setQueue k { x with cqBase := setHalf x.cqBase false w } else s
    | 0x14 => if free then s.setQueue k { x with cqBase := setHalf x.cqBase true w } else s
    | 0x18 => if free then s.setQueue k { x with sqLog2 := bitsOf w 4 0, cqLog2 := bitsOf w 12 8 } else s
    | _ => s

/-! ## The blocks -/

def State.writeWeir (s : State) (o w : Nat) : State :=
  let x := s.weir
  match o with
  | 0x04 => { s with weir := { x with delayOvf := w1c x.delayOvf (bitOf w 2) } }
  | 0x0C => if 1 ≤ w % 2 ^ 20 ∧ w % 2 ^ 20 ≤ 1000000 then { s with weir := { x with timeoutUs := w % 2 ^ 20 } } else s
  | 0x10 => { s with weir := { x with maxRestart := bitsOf w 2 0, backoffTicks := bitsOf w 10 3 } }
  | 0x14 => { s with weir := { x with sliceUs := w % 65536 } }
  | 0x20 => { s with weir := { x with selReach := w % 64 } }
  | _ => s

def State.writeRndStat (s : State) (fn w : Nat) : State :=
  let f := s.fifo fn
  s.setFifo fn { f with err := w1c f.err (bitOf w 1) }

def State.writeKst (s : State) (o w : Nat) : State :=
  match o with
  | 0x10 => { s with kst := { s.kst with argSlot := w % 2 ^ 20 } }
  | 0x14 => { s with kst := { s.kst with peerSlot := w % 2 ^ 20, peerDev := bitsOf w 31 20 } }
  | _ => s

def State.writeHsh (s : State) (o w : Nat) : State :=
  match o with
  | 0x04 => if w % 128 < 96 then { s with sel := { s.sel with htSel := w % 128 } } else s
  | 0x80 => { s with sel := { s.sel with
      measDevice := bitOf w 31, measReach := bitsOf w 13 8, measIndex := bitsOf w 4 0 } }
  | _ => s

/-- The RWL registers of the customer profiles: open until the first COMMIT (R208, R229). -/
def State.writeProfile (s : State) (k : Nat) (cfg : Bool) (w : Nat) : State :=
  let c := s.cprofOf k
  let q := w / 2 * 2 + 1
  let n := w % 16
  if s.wsh.configured then s
  else if cfg then (if 4 ≤ n ∧ n ≤ 10 then { s with cprof := tset s.cprof k { c with log2n := n } } else s)
  else if q < 3 then s
  else { s with cprof := tset s.cprof k { c with q := q } }

def State.writePtl (s : State) (o w : Nat) : State :=
  if o = 0x04 then { s with sel := { s.sel with ptSel := w % 128 } }
  else if inArray o 0x200 32 then s.writeProfile ((o - 0x200) / 8) (o % 8 == 4) w
  else s

def State.writeCco (s : State) (o w : Nat) : State :=
  match o with
  | 0x04 => { s with sel := { s.sel with ccSel := w % 16, ccProg := bitsOf w 25 16 } }
  | 0x1C => if 1024 ≤ w ∧ w ≤ 2 ^ 30 then { s with sel := { s.sel with ccLimit := w } } else s
  | _ => s

def State.writeCfl (s : State) (o w : Nat) : State :=
  match o with
  | 0x08 => { s with cfl := { s.cfl with retrainEn := bitOf w 0, uncertOk := bitOf w 1 } }
  | 0x24 => { s with cfl := { s.cfl with timeSetLo := w } }
  | _ => s

/-- LCS_TOKEN and LCS_DATA (R396). -/
def State.writeLcs (s : State) (o w : Nat) : State :=
  if inArray o 0x20 8 then { s with lcs := { s.lcs with token := setWord s.lcs.token ((o - 0x20) / 4) w } }
  else if inArray o 0x40 40 then { s with lcs := { s.lcs with data := setWord s.lcs.data ((o - 0x40) / 4) w } }
  else s

/-- PWR_PMB_STAT's sticky bits (R485). -/
def State.writePwr (s : State) (o w : Nat) : State :=
  if o = 0x20 then
    { s with pwr := { s.pwr with noAck := w1c s.pwr.noAck (bitOf w 17), pecErr := w1c s.pwr.pecErr (bitOf w 18) } }
  else s

def State.writeFwu (s : State) (o w : Nat) : State :=
  let f := s.fwu
  match o with
  | 0x0C => { s with fwu := { f with srcLo := w } }
  | 0x10 => { s with fwu := { f with srcHi := w } }
  | 0x14 => { s with fwu := { f with len := w } }
  | 0x18 => if w % 16 = 0 then s else { s with fwu := { f with drainMs := w % 16 } }
  | 0x1C => { s with fwu := { f with actLo := w } }
  | 0x20 => { s with fwu := { f with actHi := w } }
  | _ => s

def State.clearPending (s : State) (n : Nat) : State := s.setSource n { s.source n with pending := false }

def State.writeEvt (s : State) (o w : Nat) : State :=
  if o = 0x04 then { s with evt := { s.evt with sel := w % 2048 } }
  else if o = 0x0C then (if bitOf w 31 then s.clearPending s.evt.sel else s)
  else if inArray o 0x100 64 then
    (bitList w 32).foldl (fun s b => s.clearPending (32 * ((o - 0x100) / 4) + b)) s
  else s

def State.writeSnp (s : State) (o w : Nat) : State :=
  match o with
  | 0x00 => { s with snp := { s.snp with
      arm := bitOf w 0, enPin := bitOf w 1, enCmd := bitOf w 2, enCfl := bitOf w 3, enLevee := bitOf w 4,
      broadcast := bitOf w 5 } }
  | 0x0C => { s with snp := { s.snp with matchEn := bitOf w 31, matchSrc := w % 2048 } }
  | _ => s

/-- The flag that an FLR left in VFN_STAT and GLB_VF_STAT (R84). DESIGN CHOICE (log entry 85): both registers show one bit,
and clearing either clears both. -/
def State.clearFlr (s : State) (vf : Nat) (w : Bool) : State :=
  s.setFn vf { s.fn vf with flrRefused := w1c (s.fn vf).flrRefused w }

/-- A write to the doorbells of a queue (R123): its SQ tail at + 0, its CQ head at + 4. -/
def State.writeDoorbell (s : State) (fn o w : Nat) : State :=
  match o % 2048 with
  | 0 => s.sqDoorbell fn (o / 2048) (w % 65536)
  | 4 => s.cqDoorbell fn (o / 2048) (w % 65536)
  | _ => s

/-- One 32-bit write in PF BAR 0 to a field without a command of its own; every other one does nothing here. -/
def State.writePf (s : State) (a w : Nat) : State :=
  let o := a % 0x100000
  match s.pfView.select a w with
  | some m => s.setView m
  | none =>
    if 0x3000000 ≤ a ∧ a < 0x3020000 then s.writeDoorbell 0 (a - 0x3000000) w
    else match a / 0x100000 with
    | 0 => if o = 0x18 then s.clearFlr s.glb.selVf (bitOf w 14) else s
    | 1 => if 0x10000 ≤ o ∧ o < 0x14000 then s.writeQueue 0 ((o - 0x10000) / 256) (o % 256) w else s
    | 2 => s.writeWeir o w
    | 3 =>
      if o = 0x04 then { s with spr := { s.spr with autoReset := bitOf w 0 } }
      else if o = 0x100 then s.writeRndStat 0 w
      else s
    | 4 => s.writeKst o w
    | 5 => s.writeHsh o w
    | 6 => if o = 0x04 then { s with sel := { s.sel with bnuSel := w % 32, bnuReach := bitsOf w 13 8 } } else s
    | 7 => s.writePtl o w
    | 8 => if o = 0x04 then { s with sel := { s.sel with mcsSel := w % 4 } } else s
    | 9 => s.writeCco o w
    | 10 => if o = 0x24 ∧ bitOf w 31 then { s with hbm := { s.hbm with lastPoison := s.hbm.lastPoison % 2 ^ 31 } } else s
    | 11 => s.writeCfl o w
    | 13 => s.writeLcs o w
    | 14 => if 0x200 ≤ o then s.writePwr (o - 0x200) w else s
    | 15 => s.writeFwu o w
    | 16 => s.writeEvt o w
    | 17 => s.writeSnp o w
    | _ => s

/-- One 32-bit write in a VF's BAR 0: an unconfigured VF takes only VFN_STAT (R77). -/
def State.writeVf (s : State) (fn a w : Nat) : State :=
  if a = 4 then s.clearFlr fn (bitOf w 3)
  else if !s.fnConfigured fn then s
  else if a = 0x1000 then
    let r := (s.cfg.reachOf fn).getD 0
    ((s.vfSources fn).filter fun k => bitOf w k).foldl (fun s k => s.clearPending (0x300 + 4 * r + k)) s
  else if a = 0x2000 then s.writeRndStat fn w
  else if 0x10000 ≤ a ∧ a < 0x14000 then s.writeQueue fn ((a - 0x10000) / 256) (a % 256) w
  else if 0x20000 ≤ a ∧ a < 0x40000 then s.writeDoorbell fn (a - 0x20000) w
  else s

def State.writeWord (s : State) (fn : Nat) (bar : Bar) (a w : Nat) : State :=
  match bar with
  | .msix => s.msixWrite fn a w
  | .config => s.configWrite fn a w
  | .regs => if fn = 0 then s.writePf a w else s.writeVf fn a w

/-- R73: naturally aligned 32-bit writes, and 64-bit ones as two, the lower address first; anything else is ignored. -/
def State.registerWrite (s : State) (fn : Nat) (bar : Bar) (a size v : Nat) : State :=
  if !s.fnOpen fn || !s.hostOpen then s
  else if size = 4 ∧ a % 4 = 0 then s.writeWord fn bar a (v % 2 ^ 32)
  else if size = 8 ∧ a % 8 = 0 then (s.writeWord fn bar a (v % 2 ^ 32)).writeWord fn bar (a + 4) (v / 2 ^ 32 % 2 ^ 32)
  else s

/-! ## What a host read answers, clears and latches (R11, R73) -/

def Tile.clearBusy (now : Nat) (t : Tile) : Tile := { t with busyCyc := 0, busyAt := now }
def Tile.clearThrottle (now : Nat) (t : Tile) : Tile := { t with throttleCyc := 0, throttleAt := now }
def Tile.clearEcc (t : Tile) : Tile := { t with ce := 0, ue := 0 }

def State.onTile (s : State) (c : NodeClass) (i : Nat) (f : Tile → Tile) : State :=
  (unitKeys c i).foldl (fun s k => s.setTile k (f (s.tile k))) s

/-- The state after a read of a PF register: RC fields are cleared, latches taken. The random-data registers answer as their
own commands do (R277). -/
def State.afterRead (s : State) (a : Nat) : State :=
  let e := s.sel.mcsSel
  let p := s.port s.cfl.sel
  match a with
  | 0x200028 => s.setReach s.weir.selReach { s.reach s.weir.selReach with lbm := 0 }
  | 0x200030 => s.setReach s.weir.selReach { s.reach s.weir.selReach with stale := 0 }
  | 0x200034 => { s with weir := { s.weir with spillOut := 0 } }
  | 0x200038 => { s with weir := { s.weir with spillIn := 0 } }
  | 0x30003C => s.setDrbg s.spr.drbgSel { s.drbg s.spr.drbgSel with reseeds := 0 }
  | 0x400040 => { s with kst := { s.kst with dmiss := 0 } }
  | 0x500014 => s.onTile .ht s.sel.htSel (Tile.clearBusy s.now)
  | 0x500018 => s.onTile .ht s.sel.htSel (Tile.clearThrottle s.now)
  | 0x5000C0 => { s with sel := { s.sel with measLatch := (s.measured.map Prod.fst).getD measZero } }
  | 0x600014 => s.onTile .bnu s.sel.bnuSel (Tile.clearBusy s.now)
  | 0x600018 => s.onTile .bnu s.sel.bnuSel (Tile.clearThrottle s.now)
  | 0x60001C => s.onTile .bnu s.sel.bnuSel Tile.clearEcc
  | 0x600028 => s.onTile .bnu s.sel.bnuSel fun t => { t with yields := 0 }
  | 0x60002C => s.onTile .bnu s.sel.bnuSel fun t => { t with chkFail := 0 }
  | 0x700014 => s.onTile .pt s.sel.ptSel (Tile.clearBusy s.now)
  | 0x700018 => s.onTile .pt s.sel.ptSel (Tile.clearThrottle s.now)
  | 0x70001C => s.onTile .pt s.sel.ptSel Tile.clearEcc
  | 0x8000C0 => s.setStore e { s.store e with abandon := 0 }
  | 0x8000C4 => s.setStore e { s.store e with intRestart := 0 }
  | 0x8000C8 => s.setStore e { s.store e with fac := 0 }
  | 0x8000CC => s.setStore e { s.store e with csErr := 0 }
  | 0x900014 => s.onTile .cc s.sel.ccSel (Tile.clearBusy s.now)
  | 0x900018 => s.onTile .cc s.sel.ccSel Tile.clearEcc
  | 0x900030 => { s with sel := { s.sel with progRuns := tset s.sel.progRuns s.sel.ccProg 0 } }
  | 0x900034 => { s with sel := { s.sel with ccFaults := 0 } }
  | 0xA00010 => { s with hbm := { s.hbm with ce := tset s.hbm.ce s.hbm.sel 0 } }
  | 0xA00014 => { s with hbm := { s.hbm with ue := tset s.hbm.ue s.hbm.sel 0 } }
  | 0xA00018 => { s with hbm := { s.hbm with macFail := tset s.hbm.macFail s.hbm.sel 0 } }
  | 0xB00014 => s.setPort s.cfl.sel { p with tagFail := 0, retrains := 0 }
  | 0xB0001C => { s with cfl := { s.cfl with timeHi := half s.clusterTime true } }
  | 0xB00030 => { s with cfl := { s.cfl with msgTx := 0 } }
  | 0xB00034 => { s with cfl := { s.cfl with msgRx := 0 } }
  | 0xB00038 => { s with cfl := { s.cfl with drop := 0 } }
  | 0xB0003C => { s with cfl := { s.cfl with staleIn := 0 } }
  | 0xC00030 => { s with lev := { s.lev with logLatch := s.lev.entryAt s.lev.logIdx } }
  | 0xD00010 => { s with lcs := { s.lcs with fails := 0 } }
  | 0xF00038 => { s with fwu := { s.fwu with ignored := 0 } }
  | 0x110001C => { s with snp := { s.snp with missed := 0 } }
  | _ => s

/-- A host's aligned 32-bit read: the value before it, and the state after it (R11, R12). A register that answers clears its RC
fields, under a HALT as well (R411). -/
def State.hostRead (s : State) (fn : Nat) (bar : Bar) (a : Nat) : Nat × State :=
  match bar with
  | .msix => (s.msixRead fn a, s)
  | .config => (s.configRead fn a, s)
  | .regs => (s.hostValue fn a, if s.regAnswers fn a && fn == 0 then s.afterRead a else s)

/-- Does the read fall on a random-data register, whose reads have commands of their own (R277)? -/
def rndRegister (fn a : Nat) : Option Bool :=
  let o := if fn = 0 then a - 0x300100 else a - 0x2000
  if (fn = 0 ∧ a < 0x300100) ∨ a < 0x2000 then none
  else if o = 8 then some false
  else if o = 12 then some true
  else none

/-- One aligned 32-bit read, answered to the host. -/
def State.readWord (s : State) (fn : Nat) (bar : Bar) (a : Nat) : Bytes × State :=
  match bar, rndRegister fn a with
  | .regs, some hi =>
    let t := s.rndRead fn fun s => if hi then s.readHi fn else s.readLo fn
    (match t.tx.getLast? with
     | some (.readData bs) => (bs, { t with tx := s.tx })
     | _ => (zeros 4, t))
  | _, _ =>
    let r := s.hostRead fn bar a
    (toLe 4 r.1, r.2)

/-- R73: an aligned 32-bit read, and a 64-bit one as two, the lower address first; a narrower or misaligned read returns 0
and does nothing else. -/
def State.registerRead (s : State) (fn : Nat) (bar : Bar) (a size : Nat) : State :=
  if !s.fnOpen fn then s
  else if size = 4 ∧ a % 4 = 0 then
    let r := s.readWord fn bar a
    r.2.sent (.readData r.1)
  else if size = 8 ∧ a % 8 = 0 then
    let r := s.readWord fn bar a
    let u := r.2.readWord fn bar (a + 4)
    u.2.sent (.readData (r.1 ++ u.1))
  else s.sent (.readData (zeros size))

/-- A host's access to a register; under a HALT registers can still be read (R411). -/
def State.registerAccess (s : State) (fn : Nat) (bar : Bar) (a size : Nat) : RegAccess → State
  | .write v => s.registerWrite fn bar a size v
  | .read => if s.rst.inReset || !s.rst.linkUp then s else s.registerRead fn bar a size

def execRegisterWrite (fn : Nat) (addr : BarAddr) (size : Nat) (access : RegAccess) (s : State) :
    Host.Outcome State Fault Refusal :=
  .next (s.registerAccess fn addr.bar addr.offset size access)

/-! ## The management port (R494 to R497) -/

/-- The port answers from the end of boot step 1 while PWRGOOD is asserted (R494). -/
def State.portOpen (s : State) : Bool := s.awake && s.rst.pwrgood

def mgmtOk : Byte := 0x00
def mgmtNotAvailable : Byte := 0x01
def mgmtBadArg : Byte := 0x02

/-- The blocks that READ32 and READ_MULTI reach (R496). -/
def mgmtBlock (a : Nat) : Bool :=
  match a / 0x100000 with
  | 0 | 10 | 11 | 12 | 13 | 14 | 15 | 16 | 17 => true
  | 3 => a % 0x100000 < 0x100
  | 4 => a % 0x100000 < 8
  | _ => false

/-- One register as the port reads it: its current value, by the port's own selections; none where it is not
available. -/
def State.mgmtReg (s : State) (a : Nat) : Option Nat :=
  if !mgmtBlock a || (s.scrapped && !scrappedSees a) then none else s.readPf s.mgmt true a

/-- A reply: the STATUS byte, then the data (R495). -/
def State.mgmtReply (s : State) (st : Byte) (data : Bytes) : State := s.sent (.readData (st :: data))

/-- `count` consecutive registers, or the STATUS byte alone (R496). -/
def State.mgmtRead (s : State) (a count : Nat) : State :=
  if a % 4 != 0 || count == 0 || 8 < count then s.mgmtReply mgmtBadArg []
  else
    match (List.range count).mapM fun i => s.mgmtReg (a + 4 * i) with
    | some vs => s.mgmtReply mgmtOk (vs.flatMap fun v => toLe 4 v)
    | none => s.mgmtReply mgmtNotAvailable []

def mgmtCmd (s t : State) : Host.Outcome State Fault Refusal := .next (if s.portOpen then t else s)

def execRead32 (offset : Nat) (s : State) : Host.Outcome State Fault Refusal := mgmtCmd s (s.mgmtRead offset 1)

def execReadMulti (offset count : Nat) (s : State) : Host.Outcome State Fault Refusal :=
  mgmtCmd s (s.mgmtRead offset count)

/-- SELECT writes the port's copy; a value that the PF's register would ignore leaves it (R496). -/
def State.mgmtSelect (s : State) (a w : Nat) : State :=
  if s.scrapped then s.mgmtReply mgmtNotAvailable []
  else
    match s.mgmt.select a w with
    | some m => State.mgmtReply { s with mgmt := m } mgmtOk []
    | none => s.mgmtReply mgmtBadArg []

def execMgmtSelect (offset value : Nat) (s : State) : Host.Outcome State Fault Refusal :=
  mgmtCmd s (s.mgmtSelect offset value)

/-- READ_AO_LOG: an unused entry reads zeros (log entry 30). -/
def State.readAoLog (s : State) (i : Nat) : State :=
  if 64 ≤ i then s.mgmtReply mgmtBadArg []
  else s.mgmtReply mgmtOk ((s.ao.log[i]?.map LogEntry.bytes).getD (zeros 16))

def execReadAoLog (index : Nat) (s : State) : Host.Outcome State Fault Refusal := mgmtCmd s (s.readAoLog index)

/-- The port's 7-bit address (R494). -/
def State.portAddress (s : State) : Nat := 0x58 + s.pins.addrSel

/-- The Alert Response Address: the port's address goes out and SMB_ALERT_N is released; it is asserted again only when a
condition that was clear becomes true (R497). -/
def State.alertResponse (s : State) : State :=
  State.sent { s with pins := { s.pins with smbAlert := false, alertSeen := s.alertConds } }
    (.readData [BitVec.ofNat 8 s.portAddress])

def execSmbAlertResponse (s : State) : Host.Outcome State Fault Refusal := mgmtCmd s s.alertResponse

end Sys2Proof.Machine
end

