-- ==== Sys2Proof/Machine/PtData.lean ====
section
/-! DEFINITION. The datapath of a polynomial tile (R205 to R219, R321): arithmetic under the modulus profiles, shares in
their banks, refresh and conversion, the samplers, the packer and the comparator. What R321 does not say of a field's
operands is log entry 24. -/

namespace Sys2Proof.Machine

open Sys2Proof

/-! ## Modulus profiles (R207 to R209) -/

/-- What a profile fixes: the modulus, or the binary field; the bytes an element takes, the elements a cycle handles, and the
length of a polynomial. -/
structure PtRing where
  q : Nat
  field : Option MceSet
  width : Nat
  group : Nat
  len : Nat
  deriving DecidableEq, Repr

/-- The ring of a profile, given the customer profiles (R207, R208). -/
def ptRing (cust : Nat → CustProf) (p : Nat) : PtRing :=
  match p with
  | 0 => { q := 3329, field := none, width := 2, group := 8, len := 256 }
  | 1 => { q := dsaQ, field := none, width := 4, group := 8, len := 256 }
  | 2 => { q := 2 ^ 12, field := some (mceSet 0), width := 2, group := 16, len := 4096 }
  | 3 => { q := 2 ^ 13, field := some (mceSet 1), width := 2, group := 16, len := 8192 }
  | p => { q := (cust (p % 16)).q, field := none, width := 4, group := 8, len := 2 ^ (cust (p % 16)).log2n }

def PtRing.add (r : PtRing) (a b : Nat) : Nat := if r.field.isSome then Nat.xor a b else addMod r.q a b
def PtRing.sub (r : PtRing) (a b : Nat) : Nat := if r.field.isSome then Nat.xor a b else subMod r.q a b

/-- The product: exact modulo q (R208), or in GF(2^m) (R209). -/
def PtRing.mul (r : PtRing) (a b : Nat) : Nat :=
  match r.field with
  | some f => f.mul (a % r.q) (b % r.q)
  | none => a * b % r.q

def PtRing.sum (r : PtRing) (xs : List Nat) : Nat := xs.foldl r.add 0

/-- Bytes of a group, and the elements they hold. -/
def PtRing.bytes (r : PtRing) : Nat := r.group * r.width
def PtRing.elements (r : PtRing) (b : Bytes) : List Nat := (pieces r.width r.group b).map leNat
def PtRing.encode (r : PtRing) (xs : List Nat) : Bytes := (fit r.bytes (xs.flatMap (toLe r.width)))

/-- Bytes that a move of a polynomial transfers: the binary fields give no length (log entry 24). -/
def PtRing.moveBytes (r : PtRing) (w : UWord) : Nat := if r.field.isSome then Config.moveLen w else r.len * r.width

/-! ## Banks and shares (R213) -/

/-- The bytes of a bank from a position on, within the bank. -/
def bankRead (m : List Host.Cell) (bank pos n : Nat) : Bytes :=
  (List.range n).map fun k => memGet m (bank * 8192 + (pos + k) % 8192)

def bankWrite (m : List Host.Cell) (bank pos : Nat) (bs : Bytes) : List Host.Cell :=
  (List.range bs.length).foldl (fun m k => memSet m (bank * 8192 + (pos + k) % 8192) (bs.getD k 0)) m

/-- The banks of a value's shares, in the order of their numbers, by the bank a word names (R213). Banks 6 and 7 hold public
data at order 2. -/
def shareBanks (d bank : Nat) : List Nat :=
  match d with
  | 0 => [bank]
  | 2 => if bank < 6 then (List.range 3).map (bank / 3 * 3 + ·) else [bank]
  | d => (List.range (d + 1)).map (bank / (d + 1) * (d + 1) + ·)

/-- One port of a word: a bank and a word address. -/
structure PtPort where
  bank : Nat
  addr : Nat
  deriving DecidableEq, Repr

def ptA (w : UWord) : PtPort := { bank := uf w 149 147, addr := uf w 140 130 }
def ptB (w : UWord) : PtPort := { bank := uf w 146 144, addr := uf w 129 119 }
def ptW (w : UWord) : PtPort := { bank := uf w 143 141, addr := uf w 118 108 }

/-- The elements of group `i` at a port, in one bank. -/
def PtRing.at (r : PtRing) (m : List Host.Cell) (p : PtPort) (i : Nat) : List Nat :=
  r.elements (bankRead m p.bank (4 * p.addr + r.bytes * i) r.bytes)

/-- The shares of group `i` at a port. -/
def PtRing.sharesAt (r : PtRing) (d : Nat) (m : List Host.Cell) (p : PtPort) (i : Nat) : List (List Nat) :=
  (shareBanks d p.bank).map fun b => r.at m { p with bank := b } i

/-- Elementwise over rows of one length. -/
def columns (n : Nat) (rows : List (List Nat)) : List (List Nat) := (List.range n).map fun i => rows.map fun x => x.getD i 0

/-- What arithmetic shares, or Boolean ones, stand for. -/
def PtRing.join (r : PtRing) (bool : Bool) (shares : List (List Nat)) : List Nat :=
  (columns r.group shares).map fun c => if bool then c.foldl Nat.xor 0 else r.sum c

/-- Words of masking randomness that one element's refresh takes (R216). -/
def pairs (d : Nat) : Nat := d * (d + 1) / 2

/-- A drawn word as an element, of the ring or of as many bits. -/
def PtRing.mask (r : PtRing) (bool : Bool) (word : Nat) : Nat := if bool then word % 2 ^ (8 * r.width) else word % r.q

/-- One of two ways to add a mask and to take it away. -/
def PtRing.plus (r : PtRing) (bool : Bool) (a b : Nat) : Nat := if bool then Nat.xor a b else r.add a b
def PtRing.minus (r : PtRing) (bool : Bool) (a b : Nat) : Nat := if bool then Nat.xor a b else r.sub a b

/-- A value shared afresh: shares 1 to d are drawn words, share 0 the rest (log entry 24). -/
def PtRing.split (r : PtRing) (bool : Bool) (d : Nat) (words : List Nat) (v : List Nat) : List (List Nat) :=
  let k (s e : Nat) : Nat := r.mask bool (words.getD (e * pairs d + s) 0)
  let others := (List.range d).map fun s => (List.range v.length).map (k s)
  ((List.range v.length).map fun e => (List.range d).foldl (fun x s => r.minus bool x (k s e)) (v.getD e 0)) :: others

/-- A refresh (R216): for each pair of shares one drawn word per element goes to the one and comes from the other. -/
def PtRing.refresh (r : PtRing) (bool : Bool) (words : List Nat) (shares : List (List Nat)) : List (List Nat) :=
  let n := shares.length
  let ps := (List.range n).flatMap fun i => (List.range i).map fun k => (k, i)
  ((List.range ps.length).zip ps).foldl (fun xs p =>
    let word (e : Nat) : Nat := r.mask bool (words.getD (e * ps.length + p.1) 0)
    let a := xs.getD p.2.1 []
    let b := xs.getD p.2.2 []
    (xs.set p.2.1 ((List.range a.length).map fun e => r.plus bool (a.getD e 0) (word e))).set p.2.2
      ((List.range b.length).map fun e => r.minus bool (b.getD e 0) (word e))) shares

/-! ## Butterfly units -/

/-- A number's `n` low bits in reverse order. -/
def bitsTurned (n x : Nat) : Nat := (List.range n).foldl (fun a i => 2 * a + x / 2 ^ i % 2) 0

/-- The factor of a butterfly or a scaling: from the table for profiles 0 and 1, from IMM otherwise. PRESUMED (log entry
24): the table lists the roots in the order of the standards' transforms, for ML-KEM with those of the base products
behind them. -/
def ptTwiddle (r : PtRing) (profile : Nat) (w : UWord) : Nat :=
  let t := uf w 107 100
  match profile with
  | 0 => powMod 17 (if t < 128 then bitsTurned 7 t else 2 * bitsTurned 7 (t - 128) + 1) r.q
  | 1 => powMod 1753 (bitsTurned 8 t) r.q
  | _ => uImm w % r.q

/-- The results of one unit: the first goes to the destination, the second of a butterfly to source B's place. -/
def PtRing.unit (r : PtRing) (op z a b : Nat) : Option (Nat × Option Nat) :=
  match op with
  | 1 => some (r.add a (r.mul z b), some (r.sub a (r.mul z b)))
  | 2 => some (r.add a b, some (r.mul z (r.sub a b)))
  | 3 => some (r.mul a b, none)
  | 4 => some (r.add a b, none)
  | 5 => some (r.sub a b, none)
  | 6 => some (r.mul z a, none)
  | 7 => if r.field.isSome then some (r.mul a b, none) else none
  | 8 => some (Nat.xor a b, none)
  | _ => none

/-! ## Samplers (R205, R224) -/

/-- Candidates of a byte string: 12 bits, or whole bytes cut to the width. -/
def candidates (width : Nat) (b : Bytes) : List Nat :=
  if width = 12 then unpackBytes 12 (b.length * 8 / 12) b
  else
    let n := ceilDiv width 8
    (pieces n (b.length / n) b).map fun x => leNat x % 2 ^ width

/-- Numbers of bounded size by rejection of half bytes (FIPS 204). -/
def boundedOf (q eta : Nat) (b : Bytes) : List Nat :=
  (b.flatMap fun x => [x.toNat % 16, x.toNat / 16]).filterMap fun x =>
    if eta = 2 then (if x < 15 then some (subMod q 2 (x % 5)) else none)
    else if x < 9 then some (subMod q 4 x) else none

/-- A vector of fixed weight for Classic McEliece (R205, R225): IMM gives the weight in bits 15 to 0 and the length in bits 31 to
16; the first draw of the stream whose places are all different and in range counts (log entry 24). -/
def fixedWeight (r : PtRing) (w : UWord) (stream : Bytes) : Option (List Nat) :=
  match r.field with
  | none => none
  | some f =>
    let p : MceSet := { f with t := uImm w % 2 ^ 16, n := uImm w / 2 ^ 16 % 2 ^ 16 }
    let draws := (blocksOf (max 1 (2 * p.picks)) stream).filter fun b => b.length == 2 * p.picks
    (draws.findSome? p.places).map fun xs => (List.range p.n).map fun i => b2n (xs.contains i)

/-- The group `i` that a sampler makes of a stream; none where the stream runs out or R321 does not say. -/
def ptSample (r : PtRing) (w : UWord) (i : Nat) (stream : Bytes) : Option (List Nat) :=
  let pick (xs : List Nat) : Option (List Nat) :=
    let g := (xs.drop (r.group * i)).take r.group
    if g.length = r.group then some g else none
  let binomial (eta : Nat) : List Nat := (unpackBytes (2 * eta) (stream.length * 8 / (2 * eta)) stream).map fun x =>
    subMod r.q (popCount x eta) (popCount (x / 2 ^ eta) eta)
  match ptSamp w with
  | 1 => pick ((candidates 12 stream).filter fun x => x < r.q)
  | 2 => pick ((candidates 23 stream).filter fun x => x < r.q)
  | 3 => pick ((candidates (r.q.log2 + 1) stream).filter fun x => x < r.q)
  | 4 => pick (binomial 2)
  | 5 => pick (binomial 3)
  | 6 => pick (boundedOf r.q 2 stream)
  | 7 => pick (boundedOf r.q 4 stream)
  | 8 =>
    let n := uImm w % 32 + 1
    pick ((unpackBytes n (stream.length * 8 / n) stream).map fun x => subMod r.q (2 ^ (n - 1)) x)
  | 9 => pick (dsaBallOf (uImm w % 2 ^ 16) stream)
  | 10 => (fixedWeight r w stream).bind pick
  | _ => none

/-! ## Packer (R205) -/

/-- The width that a packer word names. -/
def packWidth (w : UWord) : Nat := uImm w % 32 + 1

/-- The rounding set whose high parts have the width (R205). -/
def packSet (r : PtRing) (w : UWord) : Option DsaSet :=
  if r.q != dsaQ || r.field.isSome then none
  else if packWidth w = 6 then some (dsaSet 0) else if packWidth w = 4 then some (dsaSet 1) else none

/-- One element through the packer: the result, and a second one of the operations that give a pair. -/
def ptPackOne (r : PtRing) (w : UWord) (a b : Nat) : Option (Nat × Option Nat) :=
  let d := packWidth w
  match ptPack w with
  | 1 => some ((2 ^ (d + 1) * (a % r.q) + r.q) / (2 * r.q) % 2 ^ d, none)
  | 2 => some ((2 * r.q * (a % 2 ^ d) + 2 ^ d) / 2 ^ (d + 1) % r.q, none)
  | 3 =>
    let x := a % r.q
    let low := if x % 2 ^ d ≤ 2 ^ (d - 1) then x % 2 ^ d else r.q + x % 2 ^ d - 2 ^ d
    some (r.sub x low / 2 ^ d, some (low % r.q))
  | 4 => (packSet r w).map fun p => (p.high a, some (p.low a))
  | 5 => (packSet r w).map fun p => (p.high a, none)
  | 6 => (packSet r w).map fun p => (p.low a, none)
  | 7 => (packSet r w).map fun p => (b2n (p.high b != p.high (r.add b a)), none)
  | 8 => (packSet r w).map fun p => (p.useHint a b, none)
  | _ => none

/-! ## Shuffling (R219) -/

/-- A permutation of a list, by a word read as a number in the factorial base: each step draws one of what is left
(DESIGN CHOICE, log entry 24). -/
def permuted : Nat → Nat → List Nat → List Nat
  | 0, _, _ => []
  | f + 1, k, xs =>
    let x := k % max 1 xs.length
    xs.getD x 0 :: permuted f (k / max 1 xs.length) ((xs.set x (xs.headD 0)).drop 1)

/-- The group that repetition `i` of `n` handles under a permutation word. -/
def shuffled (word n i : Nat) : Nat := (permuted n word (List.range n)).getD i i

/-! ## A word's writes -/

/-- Bytes written in a bank from a position on. -/
structure PtWrite where
  bank : Nat
  pos : Nat
  bytes : Bytes
  deriving DecidableEq, Repr

/-- The 1 KiB regions of the banks that some writes touch, one bit each (R226). -/
def PtWrite.regions (x : PtWrite) : Nat :=
  (List.range x.bytes.length).foldl (fun m k => m ||| 2 ^ (8 * x.bank + (x.pos + k) % 8192 / 1024)) 0

def regionsOf (ws : List PtWrite) : Nat := ws.foldl (fun m x => m ||| x.regions) 0

/-- Memory after some writes. -/
def applyWrites (m : List Host.Cell) (ws : List PtWrite) : List Host.Cell :=
  ws.foldl (fun m x => bankWrite m x.bank x.pos x.bytes) m

/-- A word in its surroundings: ring and profile, order, the memory its cycle reads, the group it handles, whether it is the
word's first, the drawn words, and the comparator's bit. -/
structure PtCycle where
  ring : PtRing
  profile : Nat
  d : Nat
  mem : List Host.Cell
  g : Nat
  first : Bool
  words : List Nat
  cmp : Bool

/-- Group `g` at a port of a bank. -/
def PtCycle.put (c : PtCycle) (p : PtPort) (xs : List Nat) : PtWrite :=
  { bank := p.bank, pos := 4 * p.addr + c.ring.bytes * c.g, bytes := c.ring.encode xs }

/-- The shares of a group to the banks of a port. -/
def PtCycle.putShares (c : PtCycle) (p : PtPort) (shares : List (List Nat)) : List PtWrite :=
  ((shareBanks c.d p.bank).zip shares).map fun x => c.put { p with bank := x.1 } x.2

/-- A sampler or packer word with RND works on Boolean shares in all their banks; without it on one bank (log entry 24). -/
def PtCycle.masked (c : PtCycle) (w : UWord) : Bool := uRnd w && c.d != 0

/-- The operand of a sampler or packer word, and where its result goes. -/
def PtCycle.operand (c : PtCycle) (w : UWord) (p : PtPort) : List Nat :=
  if c.masked w then c.ring.join true (c.ring.sharesAt c.d c.mem p c.g) else c.ring.at c.mem p c.g

def PtCycle.result (c : PtCycle) (w : UWord) (p : PtPort) (xs : List Nat) : List PtWrite :=
  if c.masked w then c.putShares p (c.ring.split true c.d c.words xs) else [c.put p xs]

/-- What stands where R321 leaves a result open. -/
def PtCycle.free (c : PtCycle) (w : UWord) (p : PtPort) : List PtWrite :=
  [c.put p (c.ring.elements (fit c.ring.bytes (Config.datapath 0 w (c.ring.encode (c.ring.at c.mem (ptA w) c.g))
    (c.ring.encode (c.ring.at c.mem (ptB w) c.g)))))]

/-- Results with their second halves: all of them, or none. -/
def pairAll (xs : List (Option (Nat × Option Nat))) : Option (List Nat × Option (List Nat)) :=
  if xs.any Option.isNone then none
  else
    let ys := xs.filterMap id
    some (ys.map Prod.fst, if ys.any fun y => y.2.isSome then some (ys.map fun y => y.2.getD 0) else none)

/-- A second result goes to source B's place (log entry 24). -/
def PtCycle.both (c : PtCycle) (w : UWord) (out : PtPort → List Nat → List PtWrite) :
    Option (List Nat × Option (List Nat)) → List PtWrite
  | none => c.free w (ptW w)
  | some (xs, none) => out (ptW w) xs
  | some (xs, some ys) => out (ptW w) xs ++ out (ptB w) ys

def PtCycle.butterfly (c : PtCycle) (w : UWord) : List PtWrite :=
  if ptBf w = 0 then []
  else
    let z := ptTwiddle c.ring c.profile w
    let ab := (c.ring.at c.mem (ptA w) c.g).zip (c.ring.at c.mem (ptB w) c.g)
    c.both w (fun p xs => [c.put p xs]) (pairAll (ab.map fun x => c.ring.unit (ptBf w) z x.1 x.2))

/-- A sampler reads its stream from source A to the end of the bank (log entry 24). -/
def PtCycle.sample (c : PtCycle) (w : UWord) : List PtWrite :=
  if ptSamp w = 0 then []
  else
    let a := ptA w
    let n := 8192 - 4 * a.addr
    let read (b : Nat) : Bytes := bankRead c.mem b (4 * a.addr) n
    let stream := if c.masked w then (shareBanks c.d a.bank).foldl (fun s b => (s.zip (read b)).map fun x => x.1 ^^^ x.2) (zeros n)
      else read a.bank
    match ptSample c.ring w c.g stream with
    | some xs => c.result w (ptW w) xs
    | none => c.free w (ptW w)

/-- Bytes of a packed group. -/
def PtCycle.packed (c : PtCycle) (w : UWord) : Nat := c.ring.group * packWidth w / 8

def PtCycle.pack (c : PtCycle) (w : UWord) : List PtWrite :=
  let a := ptA w
  let o := ptW w
  let n := c.packed w
  let banks := if c.masked w then (shareBanks c.d a.bank).zip (shareBanks c.d o.bank) else [(a.bank, o.bank)]
  match ptPack w with
  | 0 => []
  | 9 => banks.map fun b => { bank := b.2, pos := 4 * o.addr + n * c.g,
                              bytes := packBits (packWidth w) n (c.ring.at c.mem { a with bank := b.1 } c.g) }
  | 10 => banks.map fun b =>
      c.put { o with bank := b.2 } (unpackBytes (packWidth w) c.ring.group (bankRead c.mem b.1 (4 * a.addr + n * c.g) n))
  | _ =>
    let ab := (c.operand w a).zip (c.operand w (ptB w))
    c.both w (c.result w) (pairAll (ab.map fun x => ptPackOne c.ring w x.1 x.2))

/-- Conversion, refresh and unmasking of the value at source A (R211, R214 to R216). -/
def PtCycle.convert (c : PtCycle) (w : UWord) : List PtWrite :=
  let r := c.ring
  let xs := r.sharesAt c.d c.mem (ptA w) c.g
  match ptConv w with
  | 1 => c.putShares (ptW w) (r.split true c.d c.words (r.join false xs))
  | 2 => c.putShares (ptW w) (r.split false c.d c.words (r.join true xs))
  | 3 => c.putShares (ptW w) (r.refresh false c.words xs)
  | 4 => c.putShares (ptW w) (r.refresh true c.words xs)
  | 5 => [c.put (ptW w) (r.join false xs)]
  | 6 => [c.put (ptW w) (r.join true xs)]
  | _ => []

/-- The masked multiplexer (R214): source A's shares where the comparator's bit is set, else source B's. -/
def PtCycle.select (c : PtCycle) (w : UWord) : List PtWrite :=
  if ptCmp w = 4 then
    c.putShares (ptW w) (c.ring.sharesAt c.d c.mem (if c.cmp then ptA w else ptB w) c.g)
  else []

/-- The comparator's bit after the word (R205, R214): it compares what the Boolean shares stand for. Two shared values match when
every group of the word's repetitions does (log entry 24); how a bound is compared R205 does not say. -/
def PtCycle.compare (c : PtCycle) (w : UWord) : Bool :=
  let v (p : PtPort) : List Nat := c.ring.join true (c.ring.sharesAt c.d c.mem p c.g)
  match ptCmp w with
  | 1 => Config.compared w c.cmp (v (ptA w)) [uImm w]
  | 2 => (c.first || c.cmp) && v (ptA w) == v (ptB w)
  | _ => c.cmp

/-- Groups of a value that a word refreshes where it stands: those it compares, selects from or sends, or the polynomial that it
stores (R216). -/
def refreshedGroups (r : PtRing) (w : UWord) : Nat :=
  if ptMove w = 2 then ceilDiv (r.moveBytes w) r.bytes
  else if ptXbar w = 1 || ptCmp w == 1 || ptCmp w == 2 || ptCmp w == 4 then 1
  else 0

/-- The shares of source A refreshed where they stand, before the word's gadget, its store or its transfer (R216). -/
def PtCycle.refreshed (c : PtCycle) (w : UWord) : List PtWrite :=
  if !(uRnd w) || c.d = 0 then []
  else (List.range (refreshedGroups c.ring w)).flatMap fun k =>
    let c' := { c with g := c.g + k }
    c'.putShares (ptA w) (c.ring.refresh (ptCmp w != 0) (c.words.drop (k * c.ring.group * pairs c.d))
      (c.ring.sharesAt c.d c.mem (ptA w) c'.g))

/-- What the word's arithmetic writes. -/
def PtCycle.writes (c : PtCycle) (w : UWord) : List PtWrite :=
  c.refreshed w ++ c.butterfly w ++ c.sample w ++ c.pack w ++ c.convert w ++ c.select w

/-- Words of masking randomness that the word's work takes (R216, R219): a refresh for each gadget, store and transfer, and one
for the permutation of a layer. -/
def ptWords (r : PtRing) (d : Nat) (w : UWord) (first : Bool) : Nat :=
  let gadget : Bool := decide (1 ≤ ptConv w ∧ ptConv w ≤ 4) || ptSamp w != 0 || ptPack w != 0
  max (b2n gadget) (refreshedGroups r w) * r.group * pairs d + b2n (first && bitOf (ptShuf w) 5)

end Sys2Proof.Machine
end

