-- ==== Sys2Proof/Machine/Routine.lean ====
section
/-! DEFINITION. A microcode routine that runs (R316 to R332): fetch, the routine and its node, faults, and the access checks
of a word. -/

namespace Sys2Proof.Machine

open Sys2Proof

/-! ## The running routine -/

/-- A routine that runs: its engine, tile, job and node. -/
structure URun where
  eng : Nat
  key : Nat
  job : Job
  idx : Nat
  node : Node
  deriving DecidableEq, Repr

/-- The record of an engine's unit: for an HT, the tile's number and 4,096 times the unit's (log entry 93). -/
def engKey (eng unit : Nat) : Nat :=
  if eng = 1 then laneKey (unit % 4096) (unit / 4096) else tkey (engClass eng) unit

/-- The routine that a unit runs. In a job that has ended, only one past its COMMIT runs on (R126). -/
def State.uRun (s : State) (k eng : Nat) : Option URun :=
  match (s.tile k).node with
  | none => none
  | some (id, x) =>
    match s.job id with
    | none => none
    | some j =>
      match j.node x with
      | none => none
      | some n =>
        if (j.status.isNone || (s.tile k).seqr.committed) && eng ≤ 3 && !(s.tile k).seqr.ended then
          some { eng := eng, key := k, job := j, idx := x, node := n }
        else none

/-- Customer mode (R332). -/
def URun.customer (r : URun) : Bool := customerBase ≤ r.node.info.routine

/-- Has the routine executed COMMIT, on any tile that runs the node? -/
def State.uCommitted (s : State) (r : URun) : Bool :=
  s.tiles.any fun x => x.2.node == some (r.job.id, r.idx) && x.2.seqr.committed

def State.bumpStore (s : State) (eng : Nat) (f : CtlStore → CtlStore) : State := s.setStore eng (f (s.store eng))

/-! ## Faults (R324, R327) -/

/-- The routine faults: after COMMIT the job ends FAULT_AFTER_COMMIT; before it the node restarts, or ends ENGINE_FAULT at
once where no restart is allowed. -/
def State.uFault (s : State) (r : URun) (restart : Bool) : State :=
  if !s.uCommitted r && restart then s.nodeFault r.job.id r.idx else s.failNode r.job.id r.idx .engineFault

/-- The event of an uncorrectable error in a PT's memory or a BNU's operand memory (R206, R251, R453). -/
def State.memoryEvent (s : State) (k : Nat) : State :=
  match NodeClass.ofCode (keyClass k) with
  | some .pt => s.raiseBasin (basinOf .pt (keyIndex k)) 5 k
  | some .bnu => s.raiseBasin (basinOf .bnu (keyIndex k)) 5 k
  | _ => s

/-- Does a result check fail: the word is one, and it stands before COMMIT (R259, R263)? -/
def State.checks (s : State) (r : URun) (w : Option UWord) : Bool :=
  r.eng == 2 && !s.uCommitted r && w.any fun w => bnuOp w == 13

/-- A ROM word whose parity fails (R318): where the restart of the same routine meets it again, the tile is disabled at the next
boot. -/
def State.romParity (s : State) (r : URun) : State :=
  let t := s.tile r.key
  s.setTile r.key { t with romErr := some r.node.info.routine,
                           romBad := t.romBad || (t.romErr == some r.node.info.routine && 0 < r.node.restarts) }

/-- What the word's cycle met: the counts of R206, R251, R259 and R318. -/
def State.uCount (s : State) (r : URun) (w : Option UWord) (m : EccEvent) : State :=
  let t := s.tile r.key
  match m with
  | .clean => s
  | .corrected => s.setTile r.key { t with ce := satAdd 0xFFFF t.ce 1 }
  | .uncorrectable => (s.setTile r.key { t with ue := satAdd 0xFFFF t.ue 1 }).memoryEvent r.key
  | .checkFail => if s.checks r w then s.setTile r.key { t with chkFail := satAdd 0xFFFFFFFF t.chkFail 1 } else s
  | .romParity => (s.bumpStore r.eng fun c => { c with csErr := satAdd 0xFFFFFFFF c.csErr 1 }).romParity r
  | .storeCorrected | .storeUncorrectable =>
    s.bumpStore r.eng fun c => { c with csErr := satAdd 0xFFFFFFFF c.csErr 1 }

def eccFaults : EccEvent → Bool
  | .uncorrectable | .storeUncorrectable | .checkFail | .romParity => true
  | _ => false

/-- Does what the cycle met fault the routine? -/
def State.uFaults (s : State) (r : URun) (w : Option UWord) (m : EccEvent) : Bool :=
  if m = .checkFail then s.checks r w else eccFaults m

/-! ## Access checks (R233, R323, R332) -/

/-- A slot that customer code may read. -/
def State.custSlotOk (s : State) (reach slot : Nat) : Bool :=
  match s.cfg.reach reach with
  | some x => inRange x slot && (s.slot slot).liveFor reach && (attrUsage (s.slot slot).attr &&& uCustomer) != 0
  | none => false

/-- An HT descriptor (R232). -/
structure HtDesc where
  src : Nat
  flags : Nat
  unit : Nat
  len : Nat
  addr : Nat
  deriving DecidableEq, Repr

def parseHtDesc (b : Bytes) : HtDesc where
  src := fieldLe b 0 1
  flags := fieldLe b 1 1
  unit := fieldLe b 2 2
  len := fieldLe b 4 4
  addr := fieldLe b 8 8

/-- A descriptor of the node's list: built-in templates build theirs; a customer's lies in its job's staging area, behind the
input (R232, log entry 25). -/
def URun.desc (r : URun) (i : Nat) : HtDesc :=
  parseHtDesc (fit 16 (if r.customer then slice r.job.staged (16 * (ceilDiv r.job.entry.inLen 16 + i)) 16
    else Config.builtinDesc r.job.entry.opcode r.idx i))


/-- A window of what the job's staging area holds, or will hold of its input; and one to write to (R323). -/
def URun.inStage (r : URun) (a n : Nat) : Bool := a + n ≤ min stagingBytes (max r.job.staged.length r.job.entry.inLen)
def toStage (a n : Nat) : Bool := a + n ≤ stagingBytes

/-- The place kinds of HBM that a customer routine reaches: its private region and its lines of the device reserve (R332). -/
def regionKind : Nat → PlaceKind
  | 0 => .priv | 1 => .tree | 2 => .matrix | 3 => .mce | _ => .reserve

/-- Bytes of a region of a reach; its device reserve is 16 MiB for each dedicated channel (R355, R364). How much of the shared
one it has the manual does not say: 16 MiB here (log entry 25). -/
def State.regionSize (s : State) (reach u : Nat) : Nat :=
  match s.cfg.reach reach with
  | some x => 1048576 * ([x.privMib, x.treeMib, x.matrixMib, x.mceMib, 16 * max 1 (s.hbm.chansOf x.pchMask).length].getD u 0)
  | none => 0

/-- Shares that a descriptor names behind the first. -/
def State.moreShares (s : State) (r : URun) (d : HtDesc) : Nat := if bitOf d.flags 2 then (s.tile r.key).order else 0

/-- Does the tile hold memory of the job: a node of it runs there, or one has left or brought something for another (R332)? -/
def State.holdsFor (s : State) (k id : Nat) : Bool :=
  ((s.tile k).node.any fun n => n.1 == id) || (s.tile k).passed.any fun p => p.1 / 32 == id

/-- R233 on one descriptor, with all the shares it names. Customer code reads the private and the staging region of its reach,
and no memory of a tile but its job's (R332). -/
def State.htDescOk (s : State) (r : URun) (d : HtDesc) : Bool :=
  let more := s.moreShares r d
  d.flags < 8 && d.len ≤ 16777216 &&
  (match d.src with
    | 0 => d.unit == 0 && r.inStage d.addr ((more + 1) * d.len)
    | 1 => s.cfg.mayUse .pt d.unit r.job.reach r.customer && d.addr + more * 8192 + d.len ≤ 65536 &&
        (!r.customer || s.holdsFor (tkey .pt d.unit) r.job.id)
    | 2 => s.custSlotOk r.job.reach d.addr
    | 3 => (d.unit == 0 || d.unit == 4 || (!r.customer && d.unit ≤ 4)) &&
        d.addr + (more + 1) * d.len ≤ s.regionSize r.job.reach d.unit
    | 4 => d.unit == 0 && d.addr + (more + 1) * d.len ≤ r.job.entry.inLen
    | _ => false)

/-- Words of a BNU node's span. -/
def State.spanWordsOf (s : State) (r : URun) : Nat :=
  match s.spans.find? fun p => p.bnu == keyIndex r.key && p.job == r.job.id && p.node == r.idx with
  | some p => p.count * s.cfg.slotWords p.reach
  | none => 0

def bnuLen (w : UWord) : Nat := uf w 148 140 + 1

/-- CU operations that read a descriptor: an IV, a stream, a tag to compare (R321). -/
def cuReads (w : UWord) : Bool := cuOp w == 2 || cuOp w == 3 || cuOp w == 5

/-- The profile a PT node runs under (R207, R221): its chain's, its routine's, or its operation's. -/
def State.profileOf (s : State) (r : URun) : Nat :=
  match (s.tile r.key).chainHold.bind fun h => s.cfg.chains.find? fun c => c.id == h with
  | some h => h.profile
  | none => if r.customer then r.node.info.profile else (s.jobProfile r.job r.node.info).getD 0

def State.ringOf (s : State) (r : URun) : PtRing := ptRing s.cprofOf (s.profileOf r)

/-- The sandbox check of a word: every address it names (R323, R332). Built-in routines never fail it (R233). -/
def State.uSandbox (s : State) (r : URun) (w : UWord) : Bool :=
  if !r.customer then true
  else
    match r.eng with
    | 0 =>
      (match ptMove w with
        | 1 => r.inStage (uImm w % 2 ^ 32) ((s.ringOf r).moveBytes w)
        | 2 => toStage (uImm w % 2 ^ 32) ((s.ringOf r).moveBytes w)
        | 3 => s.custSlotOk r.job.reach (uImm w)
        | 5 => (uf w 39 32 == 0 || uf w 39 32 == 4) &&
            uImm w % 2 ^ 32 + (s.ringOf r).moveBytes w ≤ s.regionSize r.job.reach (uf w 39 32)
        | 6 => false
        | _ => true)
    | 1 => (htOp w != 1 || s.htDescOk r (r.desc (uf w 142 137))) && htDest w != 4 && htDest w != 5 &&
        (htOp w != 4 || htDest w != 2 || (s.cfg.mayUse .pt (uf w 87 80) r.job.reach true &&
          s.holdsFor (tkey .pt (uf w 87 80)) r.job.id)) &&
        (htOp w != 4 || htDest w != 1 || toStage (uf w 95 64) (uf w 136 112))
    | 2 =>
      bnuOp w == 0 ||
        ([uf w 139 125, uf w 124 110, uf w 109 95, uf w 94 80].all fun a => a + bnuLen w ≤ s.spanWordsOf r) &&
          (bnuOp w != 8 || toStage (uImm w % 2 ^ 32) (8 * bnuLen w)) &&
          (bnuOp w != 7 || (match Config.bnuLoad w with
            | 0 => s.custSlotOk r.job.reach (uImm w)
            | 1 => r.inStage (uImm w % 2 ^ 32) (8 * bnuLen w)
            | _ => true))
    | _ => (cuKeySrc w == 0 || (cuKeySrc w == 1 && s.custSlotOk r.job.reach (uImm w % 2 ^ 32))) &&
        (!cuReads w || s.htDescOk r (r.desc (uf w 146 141))) && toStage (uf w 95 64) (uf w 140 116)

/-- The place of a region of a reach, as a descriptor's UNIT names it. -/
def State.regionPlace (s : State) (reach u : Nat) : Option Place :=
  s.hbm.layout.find? fun p => p.kind == regionKind u && p.reach == reach

/-- Bytes of a region; of the lines of a shared device reserve that are the reach's the manual does not say where they lie, so
what they give is free (log entry 24). -/
def State.regionBytes (s : State) (reach u off n : Nat) (w : UWord) (eng : Nat) : Bytes :=
  match s.regionPlace reach u with
  | some p => s.placeBytes p off n
  | none => fit n (Config.datapath eng w [] [])

def State.regionPoisoned (s : State) (reach u off n : Nat) : Bool :=
  match s.regionPlace reach u with
  | some p => s.placePoisoned p off n
  | none => false

/-- Does the word read a poisoned line (R366)? -/
def State.uPoisoned (s : State) (r : URun) (w : UWord) : Bool :=
  match r.eng with
  | 0 => ptMove w == 5 && s.regionPoisoned r.job.reach (uf w 39 32) (uImm w % 2 ^ 32) ((s.ringOf r).moveBytes w)
  | 1 =>
    let d := r.desc (uf w 142 137)
    htOp w == 1 && d.src == 3 && s.regionPoisoned r.job.reach d.unit d.addr d.len
  | 3 =>
    let d := r.desc (uf w 146 141)
    cuReads w && d.src == 3 && s.regionPoisoned r.job.reach d.unit d.addr d.len
  | _ => false

/-- What the job has in a tile's memory: its running node's, or what its nodes left there (R132, R226). -/
def State.jobMem (s : State) (k id : Nat) : List Host.Cell :=
  let t := s.tile k
  if t.node.any fun n => n.1 == id then t.mem
  else (t.passed.filter fun p => p.1 / 32 == id).foldl (fun m p => p.2.foldl (fun m c => memSet m c.1 c.2) m) []

/-- What node `i` of the job brings into a tile's memory (R215): to the job's node that runs there, or as its own. -/
def State.bring (s : State) (k id i : Nat) (ws : List PtWrite) : State :=
  let t := s.tile k
  s.setTile k (if t.node.any fun n => n.1 == id then
      { t with mem := applyWrites t.mem ws, written := t.written ||| regionsOf ws }
    else { t with passed := tset t.passed (id * 32 + i) (applyWrites (tget [] t.passed (id * 32 + i)) ws) })

/-- The bytes by which a write at `off` lengthens the job's staging area. -/
def Job.stageGrowth (j : Job) (off n : Nat) : Nat := max j.staged.length (off + n) - j.stage.length

/-- Replaces a part of the job's staging area. -/
def State.toStaging (s : State) (r : URun) (off : Nat) (bs : Bytes) : State :=
  match s.job r.job.id with
  | some j => s.setJob { j with stage := overlayAt j.staged off bs }
  | none => s

/-- The shares of what a descriptor names (R232): in neighbouring banks of a PT, LEN apart elsewhere (log entry 25); a key slot's
come from the hot store, as many as UNIT says. -/
def State.descShares (s : State) (r : URun) (d : HtDesc) (n : Nat) (w : UWord) : List Bytes :=
  let share (k : Nat) : Bytes :=
    match d.src with
    | 0 => fit n (slice r.job.staged (d.addr + k * d.len) n)
    | 1 => memRead (s.jobMem (tkey .pt d.unit) r.job.id) (d.addr + k * 8192) n
    | 3 => s.regionBytes r.job.reach d.unit (d.addr + k * d.len) n w r.eng
    | _ => fit n (slice r.job.input (d.addr + k * d.len) n)
  if d.src = 2 then
    let x := s.slot d.addr
    let more := (x.shares.take (d.unit - 1)).map fun b => b.take n
    more.foldl xorBytes (x.mat.take n) :: more
  else (List.range (s.moreShares r d + 1)).map share

/-- The bytes a descriptor names: what its shares stand for. -/
def State.descBytes (s : State) (r : URun) (d : HtDesc) (n : Nat) (w : UWord) : Bytes :=
  match s.descShares r d n w with
  | [] => []
  | b :: bs => bs.foldl xorBytes b

/-- A descriptor of the job's input whose bytes have not all arrived (R232, R242). -/
def URun.descAwaits (r : URun) (d : HtDesc) : Bool := d.src == 4 && decide (r.job.input.length < d.addr + d.len)

/-- Where in staging a word writes: the offset and how many bytes. -/
def State.stagingWrite (s : State) (r : URun) (w : UWord) : Option (Nat × Nat) :=
  match r.eng with
  | 0 => if ptMove w = 2 then some (uImm w % 2 ^ 32, (s.ringOf r).moveBytes w) else none
  | 1 => if htOp w = 4 ∧ htDest w = 1 then some (uf w 95 64, uf w 136 112) else none
  | 2 => if bnuOp w = 8 then some (uImm w % 2 ^ 32, 8 * bnuLen w) else none
  | _ => if cuOp w = 3 ∨ cuOp w = 4 then some (uf w 95 64, if cuOp w = 4 then 16 else uf w 140 116) else none

/-- Does the word write to staging while the basin's SRAM has no room for it (R21; DESIGN CHOICE, log entry 121: it waits)? -/
def State.stageWaits (s : State) (r : URun) (w : UWord) : Bool :=
  (s.stagingWrite r w).any fun x => !s.stageRoom r.job.basin (r.job.stageGrowth x.1 x.2)

/-- Does the word write what nothing may before COMMIT: job output, a key slot, the measurement unit, or the node's inputs in
staging (R323)? The regions of staging that a dependant reads no image names (log entry 120). -/
def State.uEarly (s : State) (r : URun) (w : UWord) : Bool :=
  (match r.eng with
    | 0 => ptMove w == 4 || ptMove w == 6
    | 1 => 3 ≤ htDest w
    | _ => false) ||
  (r.customer && (s.stagingWrite r w).any fun x => 0 < x.2 && x.1 < r.job.entry.inLen)

/-- FCLK cycles of a BNU word (R252): those of its primitive. -/
def bnuCycles (w : UWord) : Nat :=
  let n := bnuLen w
  match bnuOp w with
  | 1 | 2 => ceilDiv (n * n) 8 + 6
  | 3 | 4 => ceilDiv n 8 + 2
  | 5 => if bnuCurve w = 2 then 6 else if bnuCurve w = 1 ∨ bnuCurve w = 4 ∨ bnuCurve w = 6 then 4 else 3
  | 6 => 240
  | 9 => ceilDiv n 8
  | 10 | 11 => 16
  | _ => 1

/-- The words of a post-commit section from an address: up to the first END, at most 64 (R327). -/
def State.postWords (s : State) (eng : Nat) : Nat → Nat → List UWord
  | 0, _ => []
  | n + 1, a =>
    match s.fetchWord eng a with
    | none => []
    | some w => if uSeq w = .fin then [w] else w :: s.postWords eng n (a + 1)

end Sys2Proof.Machine
end

