-- ==== Sys2Proof/Machine/HtUnit.lean ====
section
/-! DEFINITION. A word's cycle on a hash tile (R230 to R242, R321). -/

namespace Sys2Proof.Machine

open Sys2Proof

/-- The unit a word works on: the one its node holds, or the one that a customer word names (log entry 93). -/
def URun.unit (r : URun) (w : UWord) : Nat := if r.customer then min (htUnit w) 4 else keyUnit r.key

def State.unitAt (s : State) (r : URun) (w : UWord) : HashUnit :=
  tget (HashUnit.fresh (htFunc w)) (s.tile r.key).seqr.units (r.unit w)

/-- Sets the unit; LANES_MASKED shows the order of the record that the unit has (R234, R249). -/
def State.setUnit (s : State) (r : URun) (w : UWord) (u : HashUnit) : State :=
  let t := s.tile r.key
  s.setTile r.key { t with seqr := { t.seqr with units := tset t.seqr.units (r.unit w) u } }

/-- Bytes that a word absorbs: LEN, or the whole descriptor for 0. -/
def htLen (w : UWord) (d : HtDesc) : Nat := if uf w 136 112 = 0 then d.len else min (uf w 136 112) d.len

/-- Is the descriptor secret (R234)? -/
def HtDesc.secret (d : HtDesc) : Bool := d.src == 2 || bitOf d.flags 0 || bitOf d.flags 2

/-- The unit as a word finds it: masked at the job's order once the word absorbs a secret (R234). -/
def State.unitFacing (s : State) (r : URun) (w : UWord) : HashUnit :=
  let u := s.unitAt r w
  if htOp w = 1 && (r.desc (uf w 142 137)).secret then u.mask (s.tile r.key).order else u

/-- Expander blocks that the word draws (R236, R273). -/
def State.htBlocks (s : State) (r : URun) (w : UWord) : Nat :=
  let n := if htOp w = 1 then htLen w (r.desc (uf w 142 137)) else uf w 136 112
  ceilDiv ((s.unitFacing r w).maskBits (htOp w) n) 256

/-- Cycles of an HT word: those of the permutations or compressions it runs, and of a save or restore (R231, R237). -/
def State.htCycles (s : State) (r : URun) (w : UWord) : Nat :=
  let u := s.unitFacing r w
  let n := if htOp w = 1 then htLen w (r.desc (uf w 142 137)) else uf w 136 112
  if htOp w = 5 ∨ htOp w = 6 ∨ htOp w = 9 then 32 else max 1 (u.steps (htOp w) n * stepCycles u.func u.order)

/-- Output bytes to PT banks as Boolean shares (R215, R235): DEST_ADDR names the PT and the byte address of share 0. -/
def State.toBanks (s : State) (r : URun) (dest : Nat) (out : HtOut) : State :=
  let i := dest / 65536 % 256
  let k := tkey .pt i
  let d := (s.tile r.key).order
  let pos := dest % 65536
  let s := s.bring k r.job.id r.idx (((shareBanks d (pos / 8192)).zip (out.shares d)).map fun x =>
    { bank := x.1, pos := pos % 8192, bytes := x.2 })
  let t := s.tile k
  s.setTile k { t with seqr := { t.seqr with streamIn := true } }

/-- What leaves a unit as bytes: the value once an unmask word has released it, or never was masked; its shares one after another
otherwise (R235, log entry 25). -/
def HashUnit.released (u : HashUnit) (out : HtOut) : Bytes :=
  if u.order = 0 || u.unmasked then out.value else (out.shares u.order).flatMap id

/-- Output bytes to where DEST_KIND says (R235, R321): to PT banks and into a key slot as shares. A staging address advances by 8
bytes a repetition (R320, log entry 25). -/
def State.htGive (s : State) (r : URun) (w : UWord) (i : Nat) (u : HashUnit) (out : HtOut) : State :=
  let dest := uf w 95 64
  match htDest w, s.job r.job.id with
  | 1, _ => s.toStaging r (dest + 8 * i) (u.released out)
  | 2, _ => s.toBanks r (dest + 8 * i) out
  | 3, some j => s.setJob { j with output := j.output ++ u.released out }
  | 4, some j =>
    if j.reserved = some dest ∧ (s.slot dest).st = .reserved then
      s.setSlot dest { s.slot dest with mat := out.value, shares := (out.shares u.order).drop 1 } else s
  | 5, some j => State.takeSeq (s.setJob { j with extend := some (dest, out.value), extSeq := s.weir.seq })
  | _, _ => s

/-- A word's cycle on its unit. -/
def State.htWord (s : State) (r : URun) (w : UWord) (i : Nat) (drawn : Bytes) : State :=
  let u := s.unitFacing r w
  let t := s.tile r.key
  let k := r.unit w
  match htOp w with
  | 1 =>
    let at_ := uf w 142 137
    let d := r.desc at_
    let u := u.feed drawn (s.descBytes r d (htLen w d) w) ((s.descShares r d (htLen w d) w).drop 1)
    s.setUnit r w { u with desc := at_ + 1, fromInput := u.fromInput || d.src == 4, lastSeen := u.lastSeen || bitOf d.flags 1 }
  | 2 => s.setUnit r w (if u.func = 14 then u.step drawn [] [] else u)
  | 3 => s.setUnit r w (if u.lastSeen then u.close drawn (uImm w) else u)
  | 4 =>
    let x := u.give drawn (uf w 136 112)
    (s.setUnit r w x.2).htGive r w i u x.1
  | 5 =>
    let s := if (t.seqr.saves.any fun x => x.1 == k) then s else s.makeEntry r.job.basin r.job.reach
    let t := s.tile r.key
    s.setTile r.key { t with seqr := { t.seqr with saves := tset t.seqr.saves k (u.refresh drawn) } }
  | 6 => (match t.seqr.saves.find? fun x => x.1 == k with
      | some x => s.setUnit r w x.2
      | none => s)
  | 7 => s.setUnit r w (u.refresh drawn)
  | 8 => s.setUnit r w { u with unmasked := true }
  | 9 => s.setTile r.key { t with seqr := { t.seqr with units := t.seqr.units.filter fun x => x.1 != k } }
  | _ => s

/-- The word waits for its descriptor's input, or to pad, for the Sluice's confirmation of the length (R232, R242). -/
def State.htWaits (s : State) (r : URun) (w : UWord) : Bool :=
  (htOp w == 1 && r.descAwaits (r.desc (uf w 142 137))) ||
    (htOp w == 3 && (s.unitAt r w).fromInput && !r.job.inputReady)

end Sys2Proof.Machine
end

