-- ==== Sys2Proof/Machine/PtUnit.lean ====
section
/-! DEFINITION. A word's cycle on a polynomial tile (R205 to R225, R321). -/

namespace Sys2Proof.Machine

open Sys2Proof

/-- The 32-bit words of drawn randomness. -/
def wordsOf (b : Bytes) : List Nat := (pieces 4 (b.length / 4) b).map leNat

/-- Cycles of a PT word: its moves, 32 bytes a cycle for each share that comes from a slot (R332). -/
def State.ptCycles (s : State) (r : URun) (w : UWord) : Nat :=
  let n := ceilDiv ((s.ringOf r).moveBytes w) 32
  match ptMove w with
  | 0 => 1
  | 3 => max 1 (n * ((s.tile r.key).order + 1))
  | _ => max 1 n

/-- How often the word runs: TARGET for REPEAT. -/
def uTimes (w : UWord) : Nat := if uSeq w = .rept then uTarget w else 1

/-- Expander blocks that the word draws in this repetition: at least one where it draws at all (log entry 24). -/
def State.ptBlocks (s : State) (r : URun) (w : UWord) (i : Nat) : Nat :=
  let d := (s.tile r.key).order
  let n := ceilDiv (ptWords (s.ringOf r) d w (i == 0)) 8
  if d = 0 then n else max 1 n

/-- The next tile of the chain (R221). -/
def State.chainNext (s : State) (k : Nat) : Option Nat :=
  match (s.tile k).chainHold.bind fun h => s.cfg.chains.find? fun c => c.id == h with
  | some h => ((h.tiles.findIdx? (· == keyIndex k)).bind fun i => h.tiles[i + 1]?).map (tkey .pt)
  | none => none

/-- The permutation registers after the word: the first repetition of a shuffled word draws one (R216, R219). -/
def ptPerms (ring : PtRing) (d : Nat) (w : UWord) (i : Nat) (words : List Nat) (perms : Tbl Nat) : Tbl Nat :=
  if uRnd w && bitOf (ptShuf w) 5 && i == 0 then
    tset perms (ptShuf w % 32) (words.getD (ptWords ring d w false) 0)
  else perms

/-- The word's cycle in its surroundings: the group is the repetition's, or its image under the permutation. -/
def State.ptCycle (s : State) (r : URun) (w : UWord) (i : Nat) (words : List Nat) : PtCycle :=
  let t := s.tile r.key
  let ring := s.ringOf r
  let perms := ptPerms ring t.order w i words t.seqr.perms
  { ring := ring, profile := s.profileOf r, d := t.order, mem := t.mem,
    g := if bitOf (ptShuf w) 5 then shuffled (tget 0 perms (ptShuf w % 32)) (uTimes w) i else i,
    first := i == 0, words := words, cmp := t.seqr.cmp }

/-- Shares of key material as the hot store delivers them, in their banks (R213). -/
def PtCycle.slotShares (c : PtCycle) (mat : Bytes) (o : PtPort) (n : Nat) : List PtWrite :=
  let v := (pieces c.ring.width (n / c.ring.width) (fit n mat)).map leNat
  let words := (List.range (v.length * pairs c.d)).map fun k => Config.slotShare mat (k % pairs c.d) (k / pairs c.d)
  ((shareBanks c.d o.bank).zip (c.ring.split false c.d words v)).map fun x =>
    { bank := x.1, pos := 4 * o.addr, bytes := x.2.flatMap (toLe c.ring.width) }

/-- Bytes of one transfer on a lane of the crossbar: eight coefficients of 32 bits, or sixteen of 16 bits (R221). -/
def laneBytes : Nat := 32

/-- The bank of share `k` of a value (R213). -/
def shareBank (d bank k : Nat) : Nat := (shareBanks d bank).getD k bank

/-- What moves and the crossbar bring into the banks (R221, R321): a share goes to a bank of its number. -/
def State.ptIn (s : State) (r : URun) (w : UWord) (i : Nat) (c : PtCycle) : List PtWrite :=
  let n := c.ring.moveBytes w
  let o := ptW w
  let step := c.ring.bytes * i
  let off := uImm w % 2 ^ 32 + step
  let lane : List PtWrite := match (s.tile r.key).seqr.xbar with
    | b :: _ => if ptXbar w = 2 then
        [{ bank := shareBank c.d o.bank b.1, pos := 4 * o.addr + laneBytes * c.g, bytes := b.2 }] else []
    | [] => []
  lane ++ (match ptMove w with
    | 1 => [{ bank := o.bank, pos := 4 * o.addr + step, bytes := fit n (slice r.job.staged off n) }]
    | 3 => c.slotShares (s.slot (uImm w)).mat o n
    | 5 => [{ bank := o.bank, pos := 4 * o.addr + step, bytes := s.regionBytes r.job.reach (uf w 39 32) off n w 0 }]
    | _ => [])

/-- A key that a built-in routine stores, from its shares (R291, R314): into the slot that the job reserved. -/
def State.storeKey (s : State) (r : URun) (n : Nat) (rows : List Bytes) : State :=
  let x := s.slot n
  if r.job.reserved = some n ∧ x.st = .reserved then
    s.setSlot n { x with mat := (rows.drop 1).foldl xorBytes (rows.headD []), shares := rows.drop 1 }
  else s

/-- What the word sends: to staging, output, slot, or the next tile of the chain (R221, R321, R323). -/
def State.ptOut (s : State) (r : URun) (w : UWord) (i : Nat) (c : PtCycle) : State :=
  let a := ptA w
  let n := c.ring.moveBytes w
  let step := c.ring.bytes * i
  let bytes := bankRead c.mem a.bank (4 * a.addr + step) n
  let s := match ptXbar w, s.chainNext r.key with
    | 1, some k =>
      let t := s.tile k
      let sent := bankRead c.mem (shareBank c.d a.bank (ptShare w)) (4 * a.addr + laneBytes * c.g) laneBytes
      s.setTile k { t with seqr := { t.seqr with xbar := t.seqr.xbar ++ [(ptShare w, sent)] } }
    | _, _ => s
  match ptMove w with
  | 2 => s.toStaging r (uImm w % 2 ^ 32 + step) bytes
  | 4 => (match s.job r.job.id with
      | some j => s.setJob { j with output := j.output ++ bytes }
      | none => s)
  | 6 => s.storeKey r (uImm w % 2 ^ 32) ((shareBanks c.d a.bank).map fun b => bankRead c.mem b (4 * a.addr + step) n)
  | _ => s

/-- A word's cycle: arithmetic, comparison and reveal, then the moves. -/
def State.ptWord (s : State) (r : URun) (w : UWord) (i : Nat) (drawn : Bytes) : State :=
  let words := wordsOf drawn
  let c := s.ptCycle r w i words
  let own := c.writes w
  let c' := { c with mem := applyWrites c.mem own }
  let brought := s.ptIn r w i c'
  let m := applyWrites c'.mem brought
  let t := s.tile r.key
  let s := s.setTile r.key { t with
    mem := m
    written := t.written ||| regionsOf (own ++ brought)
    seqr := { t.seqr with
      cmp := c.compare w
      revealed := if ptCmp w = 3 then c.cmp else t.seqr.revealed
      perms := ptPerms c.ring c.d w i words t.seqr.perms
      xbar := if ptXbar w = 2 then t.seqr.xbar.drop 1 else t.seqr.xbar
      streamIn := t.seqr.streamIn && uWait w != 3 } }
  s.ptOut r w i { c' with mem := m }

end Sys2Proof.Machine
end

