-- ==== Sys2Proof/Machine/WordUnits.lean ====
section
/-! DEFINITION. A word's cycle on a big-number unit (R250 to R259, R321) and on a cipher unit (R321). -/

namespace Sys2Proof.Machine

open Sys2Proof

/-! ## BNU -/

/-- Montgomery reduction of `t` modulo `m` for `n` words. -/
def redc (n m negInv t : Nat) : Nat :=
  let rr := 2 ^ (64 * n)
  let q := t % rr * negInv % rr
  let u := (t + q * m) / rr
  if m ≤ u then u - m else u

/-- −m⁻¹ modulo 2^k by Newton's steps. -/
def negInvGo : Nat → Nat → Nat → Nat → Nat
  | 0, _, _, x => x
  | f + 1, k, m, x => negInvGo f k m (x * (2 ^ k + 2 - m * x % 2 ^ k) % 2 ^ k)

def negInv (k m : Nat) : Nat := (2 ^ k - negInvGo (k.log2 + 2) k m 1 % 2 ^ k) % 2 ^ k

/-- The field prime of a curve code (R184, R321). -/
def curvePrime (c : Nat) : Option Nat :=
  match c with
  | 0 | 1 | 2 => some (pCurve c).p
  | 3 | 5 => some p25519
  | 4 | 6 => some p448
  | _ => none

/-- The 32 context registers (R250): the eight loop counters in the first two words, and ladder and carry state. -/
def Seqr.context (q : Seqr) : Bytes := fit 16 (q.counters.flatMap (toLe 2)) ++ fit 240 q.ladder

def Seqr.setContext (q : Seqr) (b : Bytes) : Seqr :=
  { q with counters := (pieces 2 8 b).map leNat, ladder := slice b 16 240 }

/-- The first byte of the last 32 words of a node's span, which hold its saved context (R254, R257). -/
def State.contextAt (s : State) (r : URun) : Nat := 8 * (s.spanWordsOf r - 32)

/-- What a BNU load brings: a blinding word for one with RND, else what IMM names (R258, R321, log entry 24). -/
def State.bnuLoaded (s : State) (r : URun) (w : UWord) (drawn : Bytes) (n off : Nat) : Bytes :=
  if uRnd w then drawn
  else
    match Config.bnuLoad w with
    | 0 => (s.slot (uImm w)).mat.take n
    | 1 => slice r.job.staged (uImm w % 2 ^ 32 + off) n
    | _ => toLe 8 (uImm w)

/-- A BNU word on its span: the arithmetic of R321 on span words, whose offsets advance by 8 words a repetition (R320). What a
ladder step leaves is free, and so is a Montgomery product modulo an even number and a sum modulo 0. The outcome of a result
check comes with the command (R259). -/
def State.bnuWord (s : State) (r : URun) (w : UWord) (i : Nat) (drawn : Bytes) : State :=
  let t := s.tile r.key
  let n := bnuLen w
  let g (a : Nat) : Bytes := memRead t.mem (8 * (a + 8 * i)) (8 * n)
  let a := leNat (g (uf w 139 125))
  let b := leNat (g (uf w 124 110))
  let m := leNat (g (uf w 94 80))
  let put (bs : Bytes) : State :=
    s.setTile r.key { t with mem := memWrite t.mem (8 * (uf w 109 95 + 8 * i)) (fit (8 * n) bs) }
  let free := put (Config.datapath 2 w (g (uf w 139 125) ++ drawn) (g (uf w 124 110)))
  let num (x : Nat) : State := put (toLe (8 * n) x)
  match bnuOp w with
  | 0 | 13 => s
  | 6 =>
    let s := free
    let t := s.tile r.key
    let after := Config.datapath 2 w (t.seqr.ladder ++ drawn) (g (uf w 139 125))
    s.setTile r.key { t with seqr := { t.seqr with ladder := fit 240 after } }
  | 7 => put (s.bnuLoaded r w drawn (8 * n) (64 * i))
  | 10 => s.setTile r.key { t with mem := memWrite t.mem (s.contextAt r) t.seqr.context }
  | 11 => s.setTile r.key { t with seqr := t.seqr.setContext (memRead t.mem (s.contextAt r) 256) }
  | 12 => num (b2n (a == b))
  | 1 => if m % 2 = 0 then free else num (redc n m (negInv (64 * n) m) (a * b))
  | 2 => if m % 2 = 0 then free else num (redc n m (negInv (64 * n) m) (a * a))
  | 3 => if m = 0 then free else num ((a + b) % m)
  | 4 => if m = 0 then free else num (subMod m a b)
  | 5 => (match curvePrime (bnuCurve w) with
      | some p => num (a * b % p)
      | none => free)
  | 8 => s.toStaging r (uImm w % 2 ^ 32 + 64 * i) (g (uf w 139 125))
  | 9 => put []
  | _ => free

/-! ## CU -/

/-- The counter increment of a CTR stream, from IMM, 0 taken as 1 (log entry 25). -/
def cuStride (w : UWord) : Nat := max 1 (uImm w % 2 ^ 32)

/-- The keystream of CTR from block `first` on, with the counter's increment. -/
def cuKeystream (key iv : Bytes) (stride first n : Nat) : Bytes :=
  (List.range n).flatMap fun i => aesEnc key (toBe 16 ((beNat iv + stride * (first + i)) % 2 ^ 128))

/-- A tweak `n` blocks on. -/
def xtsSkip : Nat → Nat → Nat
  | 0, t => t
  | n + 1, t => xtsSkip n (xtsNext t)

/-- A stream through the pipeline in its mode: the bytes that come out. A later piece goes on where the one before ended, at
the block it left. -/
def AesPipe.through (p : AesPipe) (stride : Nat) (data : Bytes) : Bytes :=
  let skip := p.streamed % 16
  let first := p.streamed / 16
  let n := ceilDiv (skip + data.length) 16
  let k1 := p.key.take (p.key.length / 2)
  let k2 := p.key.drop (p.key.length / 2)
  let tweak := xtsSkip first (leNat (aesEnc k2 (fit 16 p.iv)))
  match p.mode with
  | 1 | 2 => xorBytes data ((ctrStream p.key 32 (first + n) (beNat (fit 12 p.iv ++ [0, 0, 0, 2]))).drop p.streamed)
  | 3 => xorBytes data ((cuKeystream p.key (fit 16 p.iv) stride first n).drop skip)
  | 4 => xtsEncGo (aesEnc k1) (data.length / 16 + 1) tweak data
  | 5 => xtsDecGo (aesDec k1) (data.length / 16 + 1) tweak data
  | 7 => aesEnc p.key (fit 16 data)
  | _ => []

/-- What GHASH takes in of a piece: ciphertext of GCM, or additional data, which is padded before the text begins. -/
def AesPipe.absorb (p : AesPipe) (data out : Bytes) : AesPipe :=
  match p.mode with
  | 1 => { p with hashed := (if p.streamed = 0 then pad16 p.hashed else p.hashed) ++ out, streamed := p.streamed + data.length }
  | 2 => { p with hashed := (if p.streamed = 0 then pad16 p.hashed else p.hashed) ++ data, streamed := p.streamed + data.length }
  | 6 => { p with hashed := p.hashed ++ data, aad := p.aad + data.length }
  | _ => { p with streamed := p.streamed + data.length }

/-- The full tag of what has gone through. -/
def AesPipe.tag (p : AesPipe) : Bytes :=
  let h := BitVec.ofNat 128 (beNat (aesEnc p.key (zeros 16)))
  let v := ghash h (pad16 p.hashed ++ toBe 8 (8 * p.aad) ++ toBe 8 (8 * p.streamed))
  xorBytes (toBe 16 v.toNat) (aesEnc p.key (fit 12 p.iv ++ [0, 0, 0, 1]))

/-- A CU word on its pipeline (R321); its staging address advances by 8 bytes a repetition (R320, log entry 25). The key store's
internal key is free. -/
def State.cuWord (s : State) (r : URun) (w : UWord) (i : Nat) : State :=
  let t := s.tile r.key
  let k := uf w 155 155
  let p := tget AesPipe.reset t.seqr.pipes k
  let p := if cuMode w = 0 then p else { p with mode := cuMode w }
  let set (p : AesPipe) : State := s.setTile r.key { t with seqr := { t.seqr with pipes := tset t.seqr.pipes k p } }
  let len := uf w 140 116
  let dest := uf w 95 64 + 8 * i
  let d := r.desc (uf w 146 141)
  let data := s.descBytes r d (min len d.len) w
  match cuOp w with
  | 1 =>
    (match cuKeySrc w with
     | 1 => set { p with key := (s.slot (uImm w % 2 ^ 32)).mat }
     | 2 => set { p with key := fit 32 (Config.datapath 3 w [] []) }
     | _ => set p)
  | 2 => set { p with iv := data, streamed := 0, hashed := [], aad := 0, tagOk := false }
  | 3 =>
    let out := p.through (cuStride w) data
    let s := set (p.absorb data out)
    if out.isEmpty then s else s.toStaging r dest out
  | 4 => (set p).toStaging r dest p.tag
  | 5 => set { p with tagOk := p.tag.take (min len 16) == data }
  | 6 => s.setTile r.key { t with seqr := { t.seqr with pipes := t.seqr.pipes.filter fun x => x.1 != k } }
  | _ => set p

/-- A CU word that reads the job's input waits for it. -/
def URun.cuWaits (r : URun) (w : UWord) : Bool := cuReads w && r.descAwaits (r.desc (uf w 146 141))

end Sys2Proof.Machine
end

