-- ==== Sys2Proof/Machine/Ucode.lean ====
section
/-! DEFINITION. The microcode sequencers of the PT, HT, BNU and CU (R316 to R332): randomness, the checks of a word, COMMIT
and sequencing. -/

namespace Sys2Proof.Machine

open Sys2Proof

/-! ## Commit and sequencing -/

/-- COMMIT (R322): the node's mark, and the job's commit point when the node is the first OUTPUT node (R128). -/
def State.uCommit1 (s : State) (r : URun) : State :=
  let t := s.tile r.key
  let s := s.setTile r.key { t with seqr := { t.seqr with committed := true } }
  match s.job r.job.id with
  | some j => if j.nodes.findIdx? (fun m => m.info.output) = some r.idx then s.setJob { j with committed := true } else s
  | none => s

/-- What comes after a word. -/
inductive UNext where
  | goes (q : Seqr)
  | illegal
  | ends
  deriving DecidableEq, Repr

def Seqr.to (q : Seqr) (a : Nat) : UNext := .goes { q with upc := a }

/-- The next word by SEQ (R320). -/
def Seqr.after (q : Seqr) (w : UWord) : UNext :=
  let up := q.upc + 1
  let c := q.counters.getD (uCnt w) 0
  match uSeq w with
  | .next => q.to up
  | .jump => q.to (uTarget w)
  | .call => if 4 ≤ q.stack.length then .illegal else .goes { q with upc := uTarget w, stack := up :: q.stack }
  | .ret => match q.stack with
    | [] => .illegal
    | a :: st => .goes { q with upc := a, stack := st }
  | .rept =>
    let left := if q.repeatLeft = 0 then uTarget w - 1 else q.repeatLeft - 1
    if left = 0 then .goes { q with upc := up, repeatLeft := 0 } else .goes { q with repeatLeft := left }
  | .loop =>
    let d := (c + 65535) % 65536
    .goes { q with upc := if d = 0 then up else uTarget w, counters := q.counters.set (uCnt w) d }
  | .setcnt => .goes { q with upc := up, counters := q.counters.set (uCnt w) (uTarget w) }
  | .brFlag => q.to (if q.flags.testBit (uFlag w) then uTarget w else up)
  | .brReveal => q.to (if q.revealed then uTarget w else up)
  | .fin => if q.committed then .ends else .illegal
  | .bad => .illegal

/-- The repetition a REPEAT word is at. -/
def Seqr.repIndex (q : Seqr) (w : UWord) : Nat :=
  if uSeq w = .rept ∧ q.repeatLeft ≠ 0 then uTarget w - q.repeatLeft else 0

/-- END (R126): the node completes when every tile that runs it has ended; a customer node's OUTPUT result stays in the
job's output. -/
def State.uEnd (s : State) (r : URun) : State :=
  let t := s.tile r.key
  let s := s.setTile r.key { t with seqr := { t.seqr with ended := true } }
  if s.tiles.all fun x => x.2.node != some (r.job.id, r.idx) || x.2.seqr.ended then s.finishNode r.job.id r.idx else s

/-- Steps the sequencer after the word's datapath; after a redirect it goes on in patch RAM (R329). -/
def State.uSequence (s : State) (r : URun) (w : UWord) : State :=
  let t := s.tile r.key
  match ({ t.seqr with upc := (s.store r.eng).redirect t.seqr.upc } : Seqr).after w with
  | .goes q => s.setTile r.key { t with seqr := q }
  | .illegal => s.uFault r false
  | .ends => s.uEnd r

/-- FCLK cycles of a word (R332). -/
def State.wordCycles (s : State) (r : URun) (w : UWord) : Nat :=
  match r.eng with
  | 0 => s.ptCycles r w
  | 1 => s.htCycles r w
  | 2 => bnuCycles w
  | _ => 1

/-- The word's cycles count towards CYCLE_LIMIT (R331). -/
def State.uCycle (s : State) (r : URun) (w : UWord) : State :=
  match s.job r.job.id with
  | some j => (match j.node r.idx with
    | some n => s.setJob (j.setNode r.idx { n with cycles := r.node.cycles + s.wordCycles r w })
    | none => s)
  | none => s

/-- Has a customer node used up its cycles before COMMIT? -/
def State.uOverLimit (s : State) (r : URun) (w : UWord) : Bool :=
  r.customer && !s.uCommitted r && imageCycles ((s.custImage r.eng).headD 0) ≤ r.node.cycles + s.wordCycles r w

/-- Masking randomness for a word with RND (R216, R236, R258); none, and a stall, where it cannot be had (R217). -/
def State.uDraw (s : State) (r : URun) (w : UWord) (i : Nat) : Option Bytes × State :=
  if !uRnd w then (some [], s)
  else
    match r.eng with
    | 0 => s.takeBlocks (keyIndex r.key) r.key (s.ptBlocks r w i)
    | 1 => s.takeBlocks (128 + keyIndex r.key) r.key (s.htBlocks r w)
    | 2 => s.takeWords (keyIndex r.key) 1
    | _ => (some [], s)

def State.uData (s : State) (r : URun) (w : UWord) (i : Nat) (drawn : Bytes) : State :=
  match r.eng with
  | 0 => s.ptWord r w i drawn
  | 1 => s.htWord r w i drawn
  | 2 => s.bnuWord r w i drawn
  | _ => s.cuWord r w i

/-- The checks of a word that may run: the customer's cycle limit, early writes, the sandbox, and for COMMIT the addresses of
its post-commit section (R323, R327, R331, R332). -/
def State.uAllowed (s : State) (r : URun) (w : UWord) : Bool :=
  !s.uOverLimit r w && (s.uCommitted r || (!s.uEarly r w && s.uSandbox r w)) &&
    (!uCommit w || (s.postWords r.eng 64 ((s.store r.eng).redirect (s.tile r.key).seqr.upc + 1)).all (s.uSandbox r))

/-- A word's cycle: the access checks, the datapath with its randomness, COMMIT and the sequencing. -/
def State.uExecute (s : State) (r : URun) (w : UWord) : State :=
  let i := (s.tile r.key).seqr.repIndex w
  match s.uDraw r w i with
  | (none, s) => s
  | (some drawn, s) =>
    let s := s.uCycle r w
    if !s.uAllowed r w then s.uFault r false
    else if s.uPoisoned r w then s.failNode r.job.id r.idx .memUncorrectable
    else
      let s := s.uData r w i drawn
      let s := if uCommit w then s.uCommit1 r else s
      s.uSequence r w

/-- The row of a word: COMMIT for a word with COMMIT set, else its SEQ. A word that is not there, or has codes no table
lists, is an illegal word under every row. -/
inductive URow where
  | seq (q : Seq)
  | commit
  | bad
  deriving DecidableEq, Repr

def uRow (eng : Nat) (w : Option UWord) : URow :=
  match w with
  | none => .bad
  | some w => if !wordLegal eng w then .bad else if uCommit w then .commit else .seq (uSeq w)

/-- The job's commit point waits for the comparison of its input's length (R103, R104) and the record of its lease (R177). -/
def State.commitWaits (s : State) (r : URun) (w : UWord) : Bool :=
  uCommit w && r.job.nodes.findIdx? (fun m => m.info.output) == some r.idx &&
    !(r.job.inDone && s.leaseCommitted r.job)

/-- What holds a word (R319): WAIT 2 for the crossbar, 3 for a stream, 4 for the job's input; the other conditions are time
alone. A write to staging waits for room in the basin's SRAM. -/
def State.uWaits (s : State) (r : URun) (w : UWord) : Bool :=
  let q := (s.tile r.key).seqr
  (uWait w == 2 && q.xbar.isEmpty) || (uWait w == 3 && !q.streamIn) || (uWait w == 4 && !r.job.inputReady) ||
    s.commitWaits r w || (r.eng == 1 && s.htWaits r w) || s.stageWaits r w || (r.eng == 3 && r.cuWaits w)

/-- A fault that meets a routine which an interrupt has just abandoned there: one restart, counted (R328). -/
def State.lateFault (s : State) (k : Nat) : State :=
  match s.jobs.findSome? fun j => (j.nodes.findIdx? fun n => n.st == .ready && n.intr == some k).map fun i => (j.id, i) with
  | some x => s.nodeFault x.1 x.2
  | none => s

/-- One word of a unit's routine, when it belongs to the row. The tiles of a job that is gone are given up. -/
def State.ucode (s : State) (eng unit : Nat) (m : EccEvent) (row : URow) : State :=
  let k := engKey eng unit
  match s.uRun k eng with
  | none =>
    (match (s.tile k).node with
     | some n => if (s.job n.1).isNone then s.leaveTile k else s
     | none => if eccFaults m then s.lateFault k else s)
  | some r =>
    let w := s.fetchWord eng (s.tile r.key).seqr.upc
    let k := uRow eng w
    if k != row && k != .bad then s
    else
      let s := s.uCount r w m
      if s.uFaults r w m then s.uFault r true
      else
        match w with
        | none => s.uFault r false
        | some w => if k = .bad then s.uFault r false else if s.uWaits r w then s else s.uExecute r w

def execUcodeNext (eng unit : Nat) (mem : EccEvent) (s : State) : Host.Outcome State Fault Refusal :=
  engineCmd s (s.ucode eng unit mem (.seq .next))

def execUcodeJump (eng unit : Nat) (mem : EccEvent) (s : State) : Host.Outcome State Fault Refusal :=
  engineCmd s (s.ucode eng unit mem (.seq .jump))

def execUcodeCall (eng unit : Nat) (mem : EccEvent) (s : State) : Host.Outcome State Fault Refusal :=
  engineCmd s (s.ucode eng unit mem (.seq .call))

def execUcodeRet (eng unit : Nat) (mem : EccEvent) (s : State) : Host.Outcome State Fault Refusal :=
  engineCmd s (s.ucode eng unit mem (.seq .ret))

/-- One of the TARGET executions of the word. -/
def execUcodeRepeat (eng unit : Nat) (mem : EccEvent) (s : State) : Host.Outcome State Fault Refusal :=
  engineCmd s (s.ucode eng unit mem (.seq .rept))

def execUcodeLoop (eng unit : Nat) (mem : EccEvent) (s : State) : Host.Outcome State Fault Refusal :=
  engineCmd s (s.ucode eng unit mem (.seq .loop))

def execUcodeSetcnt (eng unit : Nat) (mem : EccEvent) (s : State) : Host.Outcome State Fault Refusal :=
  engineCmd s (s.ucode eng unit mem (.seq .setcnt))

def execUcodeBrFlag (eng unit : Nat) (mem : EccEvent) (s : State) : Host.Outcome State Fault Refusal :=
  engineCmd s (s.ucode eng unit mem (.seq .brFlag))

def execUcodeBrReveal (eng unit : Nat) (mem : EccEvent) (s : State) : Host.Outcome State Fault Refusal :=
  engineCmd s (s.ucode eng unit mem (.seq .brReveal))

def execUcodeEnd (eng unit : Nat) (mem : EccEvent) (s : State) : Host.Outcome State Fault Refusal :=
  engineCmd s (s.ucode eng unit mem (.seq .fin))

def execUcodeCommit (eng unit : Nat) (mem : EccEvent) (s : State) : Host.Outcome State Fault Refusal :=
  engineCmd s (s.ucode eng unit mem .commit)

end Sys2Proof.Machine
end

