-- ==== Sys2Proof/Machine/Dispatch.lean ====
section
/-! DEFINITION. The dispatch: one arm for each command. -/

namespace Sys2Proof.Machine

open Sys2Proof

/-- What a command does to everything but the queue. -/
def exec (i : Instr) (s : State) : Host.Outcome State Fault Refusal :=
  match i with
  | .pwrgoodAssert addrSel => Sys2Proof.Machine.execPwrgoodAssert addrSel s
  | .pwrgoodDeassert => Sys2Proof.Machine.execPwrgoodDeassert s
  | .resetN => Sys2Proof.Machine.execResetN s
  | .perstN => Sys2Proof.Machine.execPerstN s
  | .bootStart obs => Sys2Proof.Machine.execBootStart obs s
  | .bootStepTimeout step => Sys2Proof.Machine.execBootStepTimeout step s
  | .bootCountAgeOut => Sys2Proof.Machine.execBootCountAgeOut s
  | .devReset key => Sys2Proof.Machine.execDevReset key s
  | .watchdogExpiry => Sys2Proof.Machine.execWatchdogExpiry s
  | .criticalError unit => Sys2Proof.Machine.execCriticalError unit s
  | .resetHoldEnd => Sys2Proof.Machine.execResetHoldEnd s
  | .linkSettle speed width => Sys2Proof.Machine.execLinkSettle speed width s
  | .d3hotEntry fn => Sys2Proof.Machine.execD3hotEntry fn s
  | .d0Return fn => Sys2Proof.Machine.execD0Return fn s
  | .vfEnableWrite enable numVfs => Sys2Proof.Machine.execVfEnableWrite enable numVfs s
  | .flr vf => Sys2Proof.Machine.execFlr vf s
  | .msixStateChange fn change => Sys2Proof.Machine.execMsixStateChange fn change s
  | .registerWrite fn addr size access => Sys2Proof.Machine.execRegisterWrite fn addr size access s
  | .begin => Sys2Proof.Machine.execBegin s
  | .loadWindowWrite offset bytes => Sys2Proof.Machine.execLoadWindowWrite offset bytes s
  | .validate => Sys2Proof.Machine.execValidate s
  | .validationComplete => Sys2Proof.Machine.execValidationComplete s
  | .commit => Sys2Proof.Machine.execCommit s
  | .commitSwitchPoint => Sys2Proof.Machine.execCommitSwitchPoint s
  | .commitSpringWaitTimeout => Sys2Proof.Machine.execCommitSpringWaitTimeout s
  | .discard => Sys2Proof.Machine.execDiscard s
  | .quiesce reach => Sys2Proof.Machine.execQuiesce reach s
  | .resume reach => Sys2Proof.Machine.execResume reach s
  | .resetReach reach => Sys2Proof.Machine.execResetReach reach s
  | .removeReach reach => Sys2Proof.Machine.execRemoveReach reach s
  | .quiesceVf vf => Sys2Proof.Machine.execQuiesceVf vf s
  | .resumeVf vf => Sys2Proof.Machine.execResumeVf vf s
  | .resetVf vf => Sys2Proof.Machine.execResetVf vf s
  | .select reach vf => Sys2Proof.Machine.execSelect reach vf s
  | .quiesceComplete target => Sys2Proof.Machine.execQuiesceComplete target s
  | .blockResetComplete target failed => Sys2Proof.Machine.execBlockResetComplete target failed s
  | .sqDoorbell fn q value => Sys2Proof.Machine.execSqDoorbell fn q value s
  | .cqDoorbell fn q value => Sys2Proof.Machine.execCqDoorbell fn q value s
  | .sqFetch => Sys2Proof.Machine.execSqFetch s
  | .entryArrival fn q entries => Sys2Proof.Machine.execEntryArrival fn q entries s
  | .inputStreamRead job read => Sys2Proof.Machine.execInputStreamRead job read s
  | .tokenAvailable fn q => Sys2Proof.Machine.execTokenAvailable fn q s
  | .jobRetire job => Sys2Proof.Machine.execJobRetire job s
  | .cqSpaceAvailable fn q => Sys2Proof.Machine.execCqSpaceAvailable fn q s
  | .sluQEnable fn q enable => Sys2Proof.Machine.execSluQEnable fn q enable s
  | .queueReset fn q => Sys2Proof.Machine.execQueueReset fn q s
  | .sluQAbort fn q all cid => Sys2Proof.Machine.execSluQAbort fn q all cid s
  | .jobAdmit job => Sys2Proof.Machine.execJobAdmit job s
  | .templateInstantiate job => Sys2Proof.Machine.execTemplateInstantiate job s
  | .nodeDispatch cls tile => Sys2Proof.Machine.execNodeDispatch cls tile s
  | .nodeComplete job node again => Sys2Proof.Machine.execNodeComplete job node again s
  | .frameSlotStart => Sys2Proof.Machine.execFrameSlotStart s
  | .timedRelease job => Sys2Proof.Machine.execTimedRelease job s
  | .rateLimitRelease reach => Sys2Proof.Machine.execRateLimitRelease reach s
  | .backoffExpiry job node => Sys2Proof.Machine.execBackoffExpiry job node s
  | .bnuSliceExpiry unit => Sys2Proof.Machine.execBnuSliceExpiry unit s
  | .delayEntryFreed basin => Sys2Proof.Machine.execDelayEntryFreed basin s
  | .entropyWaitDelivered job => Sys2Proof.Machine.execEntropyWaitDelivered job s
  | .entropyWaitTimeout job => Sys2Proof.Machine.execEntropyWaitTimeout job s
  | .yieldPoint cls tile => Sys2Proof.Machine.execYieldPoint cls tile s
  | .bnuSpanGrant unit => Sys2Proof.Machine.execBnuSpanGrant unit s
  | .spill port msg => Sys2Proof.Machine.execSpill port msg s
  | .spillResult job status detail output => Sys2Proof.Machine.execSpillResult job status detail output s
  | .spillTimerExpiry job => Sys2Proof.Machine.execSpillTimerExpiry job s
  | .measExtend job => Sys2Proof.Machine.execMeasExtend job s
  | .leaseCommit slot => Sys2Proof.Machine.execLeaseCommit slot s
  | .ucodeNext eng unit mem => Sys2Proof.Machine.execUcodeNext eng unit mem s
  | .ucodeJump eng unit mem => Sys2Proof.Machine.execUcodeJump eng unit mem s
  | .ucodeCall eng unit mem => Sys2Proof.Machine.execUcodeCall eng unit mem s
  | .ucodeRet eng unit mem => Sys2Proof.Machine.execUcodeRet eng unit mem s
  | .ucodeRepeat eng unit mem => Sys2Proof.Machine.execUcodeRepeat eng unit mem s
  | .ucodeLoop eng unit mem => Sys2Proof.Machine.execUcodeLoop eng unit mem s
  | .ucodeSetcnt eng unit mem => Sys2Proof.Machine.execUcodeSetcnt eng unit mem s
  | .ucodeBrFlag eng unit mem => Sys2Proof.Machine.execUcodeBrFlag eng unit mem s
  | .ucodeBrReveal eng unit mem => Sys2Proof.Machine.execUcodeBrReveal eng unit mem s
  | .ucodeEnd eng unit mem => Sys2Proof.Machine.execUcodeEnd eng unit mem s
  | .ucodeCommit eng unit mem => Sys2Proof.Machine.execUcodeCommit eng unit mem s
  | .add core mem => Sys2Proof.Machine.execAdd core mem s
  | .sub core mem => Sys2Proof.Machine.execSub core mem s
  | .and core mem => Sys2Proof.Machine.execAnd core mem s
  | .or core mem => Sys2Proof.Machine.execOr core mem s
  | .xor core mem => Sys2Proof.Machine.execXor core mem s
  | .andn core mem => Sys2Proof.Machine.execAndn core mem s
  | .shl core mem => Sys2Proof.Machine.execShl core mem s
  | .shr core mem => Sys2Proof.Machine.execShr core mem s
  | .sar core mem => Sys2Proof.Machine.execSar core mem s
  | .ror core mem => Sys2Proof.Machine.execRor core mem s
  | .cmps core mem => Sys2Proof.Machine.execCmps core mem s
  | .cmpu core mem => Sys2Proof.Machine.execCmpu core mem s
  | .mul core mem => Sys2Proof.Machine.execMul core mem s
  | .mulhiS core mem => Sys2Proof.Machine.execMulhiS core mem s
  | .mulhiU core mem => Sys2Proof.Machine.execMulhiU core mem s
  | .divs core mem => Sys2Proof.Machine.execDivs core mem s
  | .divu core mem => Sys2Proof.Machine.execDivu core mem s
  | .mods core mem => Sys2Proof.Machine.execMods core mem s
  | .modu core mem => Sys2Proof.Machine.execModu core mem s
  | .mins core mem => Sys2Proof.Machine.execMins core mem s
  | .maxs core mem => Sys2Proof.Machine.execMaxs core mem s
  | .minu core mem => Sys2Proof.Machine.execMinu core mem s
  | .maxu core mem => Sys2Proof.Machine.execMaxu core mem s
  | .addk core mem => Sys2Proof.Machine.execAddk core mem s
  | .andk core mem => Sys2Proof.Machine.execAndk core mem s
  | .ork core mem => Sys2Proof.Machine.execOrk core mem s
  | .xork core mem => Sys2Proof.Machine.execXork core mem s
  | .shlk core mem => Sys2Proof.Machine.execShlk core mem s
  | .shrk core mem => Sys2Proof.Machine.execShrk core mem s
  | .sark core mem => Sys2Proof.Machine.execSark core mem s
  | .rork core mem => Sys2Proof.Machine.execRork core mem s
  | .kset core mem => Sys2Proof.Machine.execKset core mem s
  | .ksh core mem => Sys2Proof.Machine.execKsh core mem s
  | .ldu1 core mem => Sys2Proof.Machine.execLdu1 core mem s
  | .ldu2 core mem => Sys2Proof.Machine.execLdu2 core mem s
  | .ldu4 core mem => Sys2Proof.Machine.execLdu4 core mem s
  | .ld8 core mem => Sys2Proof.Machine.execLd8 core mem s
  | .lds1 core mem => Sys2Proof.Machine.execLds1 core mem s
  | .lds2 core mem => Sys2Proof.Machine.execLds2 core mem s
  | .lds4 core mem => Sys2Proof.Machine.execLds4 core mem s
  | .st1 core mem => Sys2Proof.Machine.execSt1 core mem s
  | .st2 core mem => Sys2Proof.Machine.execSt2 core mem s
  | .st4 core mem => Sys2Proof.Machine.execSt4 core mem s
  | .st8 core mem => Sys2Proof.Machine.execSt8 core mem s
  | .bz core mem => Sys2Proof.Machine.execBz core mem s
  | .bnz core mem => Sys2Proof.Machine.execBnz core mem s
  | .bneg core mem => Sys2Proof.Machine.execBneg core mem s
  | .bnneg core mem => Sys2Proof.Machine.execBnneg core mem s
  | .jmp core mem => Sys2Proof.Machine.execJmp core mem s
  | .ccCall core mem => Sys2Proof.Machine.execCcCall core mem s
  | .jmpr core mem => Sys2Proof.Machine.execJmpr core mem s
  | .fadd core mem => Sys2Proof.Machine.execFadd core mem s
  | .fsub core mem => Sys2Proof.Machine.execFsub core mem s
  | .fmul core mem => Sys2Proof.Machine.execFmul core mem s
  | .fdiv core mem => Sys2Proof.Machine.execFdiv core mem s
  | .fsqrt core mem => Sys2Proof.Machine.execFsqrt core mem s
  | .fmin core mem => Sys2Proof.Machine.execFmin core mem s
  | .fmax core mem => Sys2Proof.Machine.execFmax core mem s
  | .fcmp core mem => Sys2Proof.Machine.execFcmp core mem s
  | .f2i core mem => Sys2Proof.Machine.execF2i core mem s
  | .i2f core mem => Sys2Proof.Machine.execI2f core mem s
  | .fbits core mem => Sys2Proof.Machine.execFbits core mem s
  | .ibits core mem => Sys2Proof.Machine.execIbits core mem s
  | .fld8 core mem => Sys2Proof.Machine.execFld8 core mem s
  | .fst8 core mem => Sys2Proof.Machine.execFst8 core mem s
  | .ccCommit core mem => Sys2Proof.Machine.execCcCommit core mem s
  | .ccEnd core mem => Sys2Proof.Machine.execCcEnd core mem s
  | .ccTime core mem => Sys2Proof.Machine.execCcTime core mem s
  | .cycle core mem => Sys2Proof.Machine.execCycle core mem s
  | .vtake core mem => Sys2Proof.Machine.execVtake core mem s
  | .vact core mem => Sys2Proof.Machine.execVact core mem s
  | .vadd core mem => Sys2Proof.Machine.execVadd core mem s
  | .vsub core mem => Sys2Proof.Machine.execVsub core mem s
  | .vand core mem => Sys2Proof.Machine.execVand core mem s
  | .vor core mem => Sys2Proof.Machine.execVor core mem s
  | .vxor core mem => Sys2Proof.Machine.execVxor core mem s
  | .vshl core mem => Sys2Proof.Machine.execVshl core mem s
  | .vshr core mem => Sys2Proof.Machine.execVshr core mem s
  | .vsar core mem => Sys2Proof.Machine.execVsar core mem s
  | .vmul core mem => Sys2Proof.Machine.execVmul core mem s
  | .vmulhiS core mem => Sys2Proof.Machine.execVmulhiS core mem s
  | .vmulhiU core mem => Sys2Proof.Machine.execVmulhiU core mem s
  | .vminu core mem => Sys2Proof.Machine.execVminu core mem s
  | .vmaxu core mem => Sys2Proof.Machine.execVmaxu core mem s
  | .veq core mem => Sys2Proof.Machine.execVeq core mem s
  | .vltu core mem => Sys2Proof.Machine.execVltu core mem s
  | .vblend core mem => Sys2Proof.Machine.execVblend core mem s
  | .vbyterev core mem => Sys2Proof.Machine.execVbyterev core mem s
  | .vectorScalarOp core mem => Sys2Proof.Machine.execVectorScalarOp core mem s
  | .vmoveup core mem => Sys2Proof.Machine.execVmoveup core mem s
  | .vmovedn core mem => Sys2Proof.Machine.execVmovedn core mem s
  | .vput core mem => Sys2Proof.Machine.execVput core mem s
  | .vget core mem => Sys2Proof.Machine.execVget core mem s
  | .vpick core mem => Sys2Proof.Machine.execVpick core mem s
  | .vfoldadd core mem => Sys2Proof.Machine.execVfoldadd core mem s
  | .vfoldxor core mem => Sys2Proof.Machine.execVfoldxor core mem s
  | .vfoldmaxu core mem => Sys2Proof.Machine.execVfoldmaxu core mem s
  | .vload core mem => Sys2Proof.Machine.execVload core mem s
  | .vstore core mem => Sys2Proof.Machine.execVstore core mem s
  | .vloads core mem => Sys2Proof.Machine.execVloads core mem s
  | .vstores core mem => Sys2Proof.Machine.execVstores core mem s
  | .vldrec core mem => Sys2Proof.Machine.execVldrec core mem s
  | .vstrec core mem => Sys2Proof.Machine.execVstrec core mem s
  | .ccRecoveryDone core passed => Sys2Proof.Machine.execCcRecoveryDone core passed s
  | .nop job => Sys2Proof.Machine.execNop job s
  | .fence job => Sys2Proof.Machine.execFence job s
  | .random job => Sys2Proof.Machine.execRandom job s
  | .reseed job => Sys2Proof.Machine.execReseed job s
  | .attest job => Sys2Proof.Machine.execAttest job s
  | .mlKemKeygen job => Sys2Proof.Machine.execMlKemKeygen job s
  | .mlKemEncaps job => Sys2Proof.Machine.execMlKemEncaps job s
  | .mlKemDecaps job => Sys2Proof.Machine.execMlKemDecaps job s
  | .mlDsaKeygen job => Sys2Proof.Machine.execMlDsaKeygen job s
  | .mlDsaSign job => Sys2Proof.Machine.execMlDsaSign job s
  | .mlDsaVerify job => Sys2Proof.Machine.execMlDsaVerify job s
  | .slhDsaKeygen job => Sys2Proof.Machine.execSlhDsaKeygen job s
  | .slhDsaSign job => Sys2Proof.Machine.execSlhDsaSign job s
  | .slhDsaVerify job => Sys2Proof.Machine.execSlhDsaVerify job s
  | .lmsKeygen job => Sys2Proof.Machine.execLmsKeygen job s
  | .lmsSign job => Sys2Proof.Machine.execLmsSign job s
  | .lmsVerify job => Sys2Proof.Machine.execLmsVerify job s
  | .lmsIndexQuery job => Sys2Proof.Machine.execLmsIndexQuery job s
  | .xmssKeygen job => Sys2Proof.Machine.execXmssKeygen job s
  | .xmssSign job => Sys2Proof.Machine.execXmssSign job s
  | .xmssVerify job => Sys2Proof.Machine.execXmssVerify job s
  | .xmssIndexQuery job => Sys2Proof.Machine.execXmssIndexQuery job s
  | .mcelieceKeygen job => Sys2Proof.Machine.execMcelieceKeygen job s
  | .mcelieceEncaps job => Sys2Proof.Machine.execMcelieceEncaps job s
  | .mcelieceDecaps job => Sys2Proof.Machine.execMcelieceDecaps job s
  | .ecKeygen job => Sys2Proof.Machine.execEcKeygen job s
  | .ecSign job => Sys2Proof.Machine.execEcSign job s
  | .ecVerify job => Sys2Proof.Machine.execEcVerify job s
  | .agree job => Sys2Proof.Machine.execAgree job s
  | .rsaKeygen job => Sys2Proof.Machine.execRsaKeygen job s
  | .rsaPssSign job => Sys2Proof.Machine.execRsaPssSign job s
  | .rsaV15Sign job => Sys2Proof.Machine.execRsaV15Sign job s
  | .rsaPssVerify job => Sys2Proof.Machine.execRsaPssVerify job s
  | .rsaV15Verify job => Sys2Proof.Machine.execRsaV15Verify job s
  | .rsaOaepEncrypt job => Sys2Proof.Machine.execRsaOaepEncrypt job s
  | .rsaOaepDecrypt job => Sys2Proof.Machine.execRsaOaepDecrypt job s
  | .hash job => Sys2Proof.Machine.execHash job s
  | .hmacGenerate job => Sys2Proof.Machine.execHmacGenerate job s
  | .hmacVerify job => Sys2Proof.Machine.execHmacVerify job s
  | .kmacGenerate job => Sys2Proof.Machine.execKmacGenerate job s
  | .kmacVerify job => Sys2Proof.Machine.execKmacVerify job s
  | .aesGcmEncrypt job => Sys2Proof.Machine.execAesGcmEncrypt job s
  | .aesGcmDecrypt job => Sys2Proof.Machine.execAesGcmDecrypt job s
  | .aesCtr job => Sys2Proof.Machine.execAesCtr job s
  | .aesXtsEncrypt job => Sys2Proof.Machine.execAesXtsEncrypt job s
  | .aesXtsDecrypt job => Sys2Proof.Machine.execAesXtsDecrypt job s
  | .kdfCounterHmac job => Sys2Proof.Machine.execKdfCounterHmac job s
  | .kdfKmac256 job => Sys2Proof.Machine.execKdfKmac256 job s
  | .hkdf job => Sys2Proof.Machine.execHkdf job s
  | .hkdfExpand job => Sys2Proof.Machine.execHkdfExpand job s
  | .generate job => Sys2Proof.Machine.execGenerate job s
  | .importWrapped job => Sys2Proof.Machine.execImportWrapped job s
  | .importClear job => Sys2Proof.Machine.execImportClear job s
  | .exportWrapped job => Sys2Proof.Machine.execExportWrapped job s
  | .exportPublic job => Sys2Proof.Machine.execExportPublic job s
  | .restrict job => Sys2Proof.Machine.execRestrict job s
  | .delete job => Sys2Proof.Machine.execDelete job s
  | .hybridKeygen job => Sys2Proof.Machine.execHybridKeygen job s
  | .hybridEncaps job => Sys2Proof.Machine.execHybridEncaps job s
  | .hybridDecaps job => Sys2Proof.Machine.execHybridDecaps job s
  | .ownerOpcode job => Sys2Proof.Machine.execOwnerOpcode job s
  | .query => Sys2Proof.Machine.execQuery s
  | .place => Sys2Proof.Machine.execPlace s
  | .springHealthFail source test => Sys2Proof.Machine.execSpringHealthFail source test s
  | .springFirstSeed rates failed raw => Sys2Proof.Machine.execSpringFirstSeed rates failed raw s
  | .springBlockReset auto => Sys2Proof.Machine.execSpringBlockReset auto s
  | .springBlockResetDone rates failed raw => Sys2Proof.Machine.execSpringBlockResetDone rates failed raw s
  | .reseedAll => Sys2Proof.Machine.execReseedAll s
  | .springFailAgeOut => Sys2Proof.Machine.execSpringFailAgeOut s
  | .conditionerOutput raw => Sys2Proof.Machine.execConditionerOutput raw s
  | .drbgGenerate job => Sys2Proof.Machine.execDrbgGenerate job s
  | .drbgReseed => Sys2Proof.Machine.execDrbgReseed s
  | .maskExpanderReseed exp => Sys2Proof.Machine.execMaskExpanderReseed exp s
  | .blindingBufferRefill unit => Sys2Proof.Machine.execBlindingBufferRefill unit s
  | .rndFifoRefill fn => Sys2Proof.Machine.execRndFifoRefill fn s
  | .rndDataLoRead fn => Sys2Proof.Machine.execRndDataLoRead fn s
  | .rndDataHiRead fn => Sys2Proof.Machine.execRndDataHiRead fn s
  | .sprTestWrite value => Sys2Proof.Machine.execSprTestWrite value s
  | .hbmRead chan line job check => Sys2Proof.Machine.execHbmRead chan line job check s
  | .hbmWrite chan line bytes => Sys2Proof.Machine.execHbmWrite chan line bytes s
  | .hbmPartialWrite chan line off bytes job check => Sys2Proof.Machine.execHbmPartialWrite chan line off bytes job check s
  | .patrolScrub chan check => Sys2Proof.Machine.execPatrolScrub chan check s
  | .portLockLoss port => Sys2Proof.Machine.execPortLockLoss port s
  | .portRetrain port => Sys2Proof.Machine.execPortRetrain port s
  | .probeSend port => Sys2Proof.Machine.execProbeSend port s
  | .probe port devId clusterId => Sys2Proof.Machine.execProbe port devId clusterId s
  | .hello port ek stmt => Sys2Proof.Machine.execHello port ek stmt s
  | .reply port ct stmt => Sys2Proof.Machine.execReply port ct stmt s
  | .finish port tag => Sys2Proof.Machine.execFinish port tag s
  | .handshakeResend port => Sys2Proof.Machine.execHandshakeResend port s
  | .handshakeTimeout port => Sys2Proof.Machine.execHandshakeTimeout port s
  | .rekey port => Sys2Proof.Machine.execRekey port s
  | .messageForward port cls hdr body => Sys2Proof.Machine.execMessageForward port cls hdr body s
  | .floodForward port cls hdr body => Sys2Proof.Machine.execFloodForward port cls hdr body s
  | .timeExchange port => Sys2Proof.Machine.execTimeExchange port s
  | .time port msg => Sys2Proof.Machine.execTime port msg s
  | .alarm port hdr => Sys2Proof.Machine.execAlarm port hdr s
  | .fenced port hdr => Sys2Proof.Machine.execFenced port hdr s
  | .trigger port hdr => Sys2Proof.Machine.execTrigger port hdr s
  | .fwActivate port hdr instant digest cancel => Sys2Proof.Machine.execFwActivate port hdr instant digest cancel s
  | .leaseReq port hdr keyId => Sys2Proof.Machine.execLeaseReq port hdr keyId s
  | .leaseGrant port hdr start stop remain => Sys2Proof.Machine.execLeaseGrant port hdr start stop remain s
  | .leaseGrantTimeout req => Sys2Proof.Machine.execLeaseGrantTimeout req s
  | .refuse port hdr status => Sys2Proof.Machine.execRefuse port hdr status s
  | .advertSend port => Sys2Proof.Machine.execAdvertSend port s
  | .advert port msg => Sys2Proof.Machine.execAdvert port msg s
  | .keyRepl port hdr key => Sys2Proof.Machine.execKeyRepl port hdr key s
  | .keyPlace port hdr key => Sys2Proof.Machine.execKeyPlace port hdr key s
  | .ppsInEdge => Sys2Proof.Machine.execPpsInEdge s
  | .cflTimeSet hi => Sys2Proof.Machine.execCflTimeSet hi s
  | .testLock => Sys2Proof.Machine.execTestLock s
  | .testUnlock => Sys2Proof.Machine.execTestUnlock s
  | .personalise => Sys2Proof.Machine.execPersonalise s
  | .takeOwnership => Sys2Proof.Machine.execTakeOwnership s
  | .fieldReturn => Sys2Proof.Machine.execFieldReturn s
  | .scrap => Sys2Proof.Machine.execScrap s
  | .fusePulseEnd => Sys2Proof.Machine.execFusePulseEnd s
  | .eraseStepDone => Sys2Proof.Machine.execEraseStepDone s
  | .lcsLockoutEnd => Sys2Proof.Machine.execLcsLockoutEnd s
  | .jtagTapInstruction instr => Sys2Proof.Machine.execJtagTapInstruction instr s
  | .trstN => Sys2Proof.Machine.execTrstN s
  | .leveeDetectorEvent source detB => Sys2Proof.Machine.execLeveeDetectorEvent source detB s
  | .detectorDisagreement source => Sys2Proof.Machine.execDetectorDisagreement source s
  | .leveeWindowExpiry source => Sys2Proof.Machine.execLeveeWindowExpiry source s
  | .gatheringIntervalEnd => Sys2Proof.Machine.execGatheringIntervalEnd s
  | .log => Sys2Proof.Machine.execLog s
  | .event => Sys2Proof.Machine.execEvent s
  | .alarmOut => Sys2Proof.Machine.execAlarmOut s
  | .throttle => Sys2Proof.Machine.execThrottle s
  | .clearVolatileKeys => Sys2Proof.Machine.execClearVolatileKeys s
  | .fenceAction => Sys2Proof.Machine.execFenceAction s
  | .clearAll => Sys2Proof.Machine.execClearAll s
  | .halt => Sys2Proof.Machine.execHalt s
  | .resetAction => Sys2Proof.Machine.execResetAction s
  | .leveeUnlatch source => Sys2Proof.Machine.execLeveeUnlatch source s
  | .levBistCmd source detB => Sys2Proof.Machine.execLevBistCmd source detB s
  | .bistSchedule source detB => Sys2Proof.Machine.execBistSchedule source detB s
  | .bistVerdict passed => Sys2Proof.Machine.execBistVerdict passed s
  | .batterySample detA detB => Sys2Proof.Machine.execBatterySample detA detB s
  | .ptTileReset => Sys2Proof.Machine.execPtTileReset s
  | .htTileReset => Sys2Proof.Machine.execHtTileReset s
  | .bnuUnitReset => Sys2Proof.Machine.execBnuUnitReset s
  | .ccCoreReset => Sys2Proof.Machine.execCcCoreReset s
  | .cuReset target => Sys2Proof.Machine.execCuReset target s
  | .basinDrain target => Sys2Proof.Machine.execBasinDrain target s
  | .basinDrained basin => Sys2Proof.Machine.execBasinDrained basin s
  | .basinReset target => Sys2Proof.Machine.execBasinReset target s
  | .basinResume target => Sys2Proof.Machine.execBasinResume target s
  | .stage => Sys2Proof.Machine.execStage s
  | .stagingComplete pkg written => Sys2Proof.Machine.execStagingComplete pkg written s
  | .arm => Sys2Proof.Machine.execArm s
  | .cancel => Sys2Proof.Machine.execCancel s
  | .fwDiscard => Sys2Proof.Machine.execFwDiscard s
  | .requireCosign => Sys2Proof.Machine.execRequireCosign s
  | .activationInstant => Sys2Proof.Machine.execActivationInstant s
  | .fwDrainComplete => Sys2Proof.Machine.execFwDrainComplete s
  | .fwDrainLimit => Sys2Proof.Machine.execFwDrainLimit s
  | .warmRestartDone passed => Sys2Proof.Machine.execWarmRestartDone passed s
  | .fwConfirm => Sys2Proof.Machine.execFwConfirm s
  | .confirmWindowEnd => Sys2Proof.Machine.execConfirmWindowEnd s
  | .eventCoalTimer source => Sys2Proof.Machine.execEventCoalTimer source s
  | .eventMaskWrite fn value => Sys2Proof.Machine.execEventMaskWrite fn value s
  | .trigIn => Sys2Proof.Machine.execTrigIn s
  | .capture => Sys2Proof.Machine.execCapture s
  | .release => Sys2Proof.Machine.execRelease s
  | .replan meas => Sys2Proof.Machine.execReplan meas s
  | .scheduledReplan meas => Sys2Proof.Machine.execScheduledReplan meas s
  | .replanRetry meas => Sys2Proof.Machine.execReplanRetry meas s
  | .vcoreStep readMv => Sys2Proof.Machine.execVcoreStep readMv s
  | .pmbusFault fault word => Sys2Proof.Machine.execPmbusFault fault word s
  | .thermThreshold tj => Sys2Proof.Machine.execThermThreshold tj s
  | .pwrServiceDaysWrite days => Sys2Proof.Machine.execPwrServiceDaysWrite days s
  | .read32 offset => Sys2Proof.Machine.execRead32 offset s
  | .readMulti offset count => Sys2Proof.Machine.execReadMulti offset count s
  | .mgmtSelect offset value => Sys2Proof.Machine.execMgmtSelect offset value s
  | .readAoLog index => Sys2Proof.Machine.execReadAoLog index s
  | .smbAlertResponse => Sys2Proof.Machine.execSmbAlertResponse s
  | .removeReachDone reach => Sys2Proof.Machine.execRemoveReachDone reach s
  | .resetInputRelease pin => Sys2Proof.Machine.execResetInputRelease pin s
  | .alwaysOnStateLost => Sys2Proof.Machine.execAlwaysOnStateLost s
  | .trigOutPulseEnd => Sys2Proof.Machine.execTrigOutPulseEnd s
  | .leveeConditionClear source detB => Sys2Proof.Machine.execLeveeConditionClear source detB s
  | .linkFrameTagFail port => Sys2Proof.Machine.execLinkFrameTagFail port s
  | .portTrainingDone port lanes => Sys2Proof.Machine.execPortTrainingDone port lanes s

end Sys2Proof.Machine
end

