-- ==== Sys2Proof/WellFormed.lean ====
section
/-! DEFINITION. Well-formed commands: the operands that the outside can give a command, by the widths and counts of the
manual. A meaning is total and takes any operand; what lies outside these ranges is no command of the hardware. -/

namespace Sys2Proof

open Sys2Proof

def below (v bound : Nat) : Bool := decide (v < bound)
def between (v lo hi : Nat) : Bool := decide (lo ≤ v) && decide (v ≤ hi)

/-- The PF and 255 VFs (R72, R76). -/
def okFn (fn : Nat) : Bool := below fn 256
def okVf (vf : Nat) : Bool := between vf 1 255

/-- 64 queues of a function (R94). -/
def okQueue (fn q : Nat) : Bool := okFn fn && below q 64

/-- Reaches 0 to 63 (R79). -/
def okReach (r : Nat) : Bool := below r 64

/-- Confluence ports 0 to 7 (R371). -/
def okPort (p : Nat) : Bool := below p 8

/-- Levee sources 0 to 25 (R406). -/
def okSource (i : Nat) : Bool := between i 0 25

/-- Key slots (R290): 2^20. -/
def okSlot (n : Nat) : Bool := below n (2 ^ 20)

/-- Negotiated link widths (R72). -/
def laneCount (w : Nat) : Bool := [1, 4, 8, 16].contains w

/-- PF BAR 0 (R75) and the Watershed load window (R63). -/
def barSize : Nat := 2 ^ 26
def windowSize : Nat := 2 ^ 24

/-- A line of a pseudo-channel (R356, R370). -/
def okLine (c l : Nat) : Bool := below c 16 && below l (2 ^ 24)

/-- An engine by class code of R125 and number: 128 PTs, 64 chains, 96 HTs, 32 BNUs, 16 CUs, 16 CCs, and a mover for each
basin. -/
def okEngine (cls i : Nat) : Bool := below i ([128, 64, 96, 32, 16, 16, 8].getD cls 0)

/-- A microcoded engine type and unit (R316). -/
def okMicro (eng i : Nat) : Bool :=
  if eng = 1 then below (i % 4096) 96 && below (i / 4096) 5 else below i ([128, 96, 32, 16].getD eng 0)

/-- What a reset or a quiesce names. -/
def okTarget : ResetTarget → Bool
  | .reach n => okReach n
  | .vf n => okVf n
  | .pt n => below n 128
  | .ht n => below n 96
  | .bnu n => below n 32
  | .cc n => below n 16
  | .cu n => below n 16
  | .basin n => below n 8

/-- A fetched slot is 64 bytes (R99) unless its read failed. -/
def okArrival (a : Arrival) : Bool := a.slotErr || a.slot.length == 64

/-- A streamed read brings something. -/
def okRead : StreamRead → Bool
  | .data bs => bs.length != 0
  | .table es => es.length != 0
  | .busError => true

/-- The fields of a message header (R379). -/
def okHdr (h : MsgHdr) : Bool :=
  below h.flags 256 && below h.ttl 256 && below h.reach 256 && below h.src 65536 && below h.dst 65536 &&
    below h.epoch (2 ^ 32) && below h.seq (2 ^ 32) && below h.status (2 ^ 32)

/-- Is the command one that the outside can give? -/
def Instr.wellFormed : Instr → Bool
  | .pwrgoodAssert addrSel => below addrSel 4
  | .pwrgoodDeassert => true
  | .resetN => true
  | .perstN => true
  | .bootStart _ => true
  | .bootStepTimeout step => between step 1 17
  | .bootCountAgeOut => true
  | .devReset key => below key (2 ^ 16)
  | .watchdogExpiry => true
  | .criticalError unit => between unit 1 6
  | .resetHoldEnd => true
  | .linkSettle speed width => between speed 1 5 && laneCount width
  | .d3hotEntry fn => okFn fn
  | .d0Return fn => okFn fn
  | .vfEnableWrite _ numVfs => okFn numVfs
  | .flr vf => okVf vf
  | .msixStateChange fn _ => okFn fn
  | .registerWrite fn addr size access =>
    okFn fn && below addr.offset (match addr.bar with | .regs => barSize | .msix => 0x10000 | .config => 0x1000) &&
      [1, 2, 4, 8].contains size &&
      (match access with | .write value => below value (2 ^ (8 * size)) | .read => true)
  | .begin => true
  | .loadWindowWrite offset bytes => below offset windowSize && between bytes.length 1 8 && below (offset + bytes.length - 1) windowSize
  | .validate => true
  | .validationComplete => true
  | .commit => true
  | .commitSwitchPoint => true
  | .commitSpringWaitTimeout => true
  | .discard => true
  | .quiesce reach => okReach reach
  | .resume reach => okReach reach
  | .resetReach reach => okReach reach
  | .removeReach reach => okReach reach
  | .quiesceVf vf => okVf vf
  | .resumeVf vf => okVf vf
  | .resetVf vf => okVf vf
  | .select reach vf => okReach reach && okFn vf
  | .quiesceComplete target => okTarget target
  | .blockResetComplete target _ => okTarget target
  | .sqDoorbell fn q value => okQueue fn q && below value (2 ^ 16)
  | .cqDoorbell fn q value => okQueue fn q && below value (2 ^ 16)
  | .sqFetch => true
  | .entryArrival fn q entries => okQueue fn q && entries.all okArrival
  | .inputStreamRead _ read => okRead read
  | .tokenAvailable fn q => okQueue fn q
  | .jobRetire _ => true
  | .cqSpaceAvailable fn q => okQueue fn q
  | .sluQEnable fn q _ => okQueue fn q
  | .queueReset fn q => okQueue fn q
  | .sluQAbort fn q _ cid => okQueue fn q && below cid (2 ^ 16)
  | .jobAdmit _ => true
  | .templateInstantiate _ => true
  | .nodeDispatch cls tile => okEngine cls tile
  | .nodeComplete _ node _ => below node 32
  | .frameSlotStart => true
  | .timedRelease _ => true
  | .rateLimitRelease reach => okReach reach
  | .backoffExpiry _ node => below node 32
  | .bnuSliceExpiry unit => below unit 32
  | .delayEntryFreed basin => below basin 8
  | .entropyWaitDelivered _ => true
  | .entropyWaitTimeout _ => true
  | .yieldPoint cls tile => okEngine cls tile
  | .bnuSpanGrant unit => below unit 32
  | .spill port _ => okPort port
  | .spillResult _ status detail _ => below status (2 ^ 16) && below detail (2 ^ 32)
  | .spillTimerExpiry _ => true
  | .measExtend _ => true
  | .leaseCommit slot => okSlot slot
  | .ucodeNext eng unit _ => okMicro eng unit
  | .ucodeJump eng unit _ => okMicro eng unit
  | .ucodeCall eng unit _ => okMicro eng unit
  | .ucodeRet eng unit _ => okMicro eng unit
  | .ucodeRepeat eng unit _ => okMicro eng unit
  | .ucodeLoop eng unit _ => okMicro eng unit
  | .ucodeSetcnt eng unit _ => okMicro eng unit
  | .ucodeBrFlag eng unit _ => okMicro eng unit
  | .ucodeBrReveal eng unit _ => okMicro eng unit
  | .ucodeEnd eng unit _ => okMicro eng unit
  | .ucodeCommit eng unit _ => okMicro eng unit
  | .add core _ => below core 16
  | .sub core _ => below core 16
  | .and core _ => below core 16
  | .or core _ => below core 16
  | .xor core _ => below core 16
  | .andn core _ => below core 16
  | .shl core _ => below core 16
  | .shr core _ => below core 16
  | .sar core _ => below core 16
  | .ror core _ => below core 16
  | .cmps core _ => below core 16
  | .cmpu core _ => below core 16
  | .mul core _ => below core 16
  | .mulhiS core _ => below core 16
  | .mulhiU core _ => below core 16
  | .divs core _ => below core 16
  | .divu core _ => below core 16
  | .mods core _ => below core 16
  | .modu core _ => below core 16
  | .mins core _ => below core 16
  | .maxs core _ => below core 16
  | .minu core _ => below core 16
  | .maxu core _ => below core 16
  | .addk core _ => below core 16
  | .andk core _ => below core 16
  | .ork core _ => below core 16
  | .xork core _ => below core 16
  | .shlk core _ => below core 16
  | .shrk core _ => below core 16
  | .sark core _ => below core 16
  | .rork core _ => below core 16
  | .kset core _ => below core 16
  | .ksh core _ => below core 16
  | .ldu1 core _ => below core 16
  | .ldu2 core _ => below core 16
  | .ldu4 core _ => below core 16
  | .ld8 core _ => below core 16
  | .lds1 core _ => below core 16
  | .lds2 core _ => below core 16
  | .lds4 core _ => below core 16
  | .st1 core _ => below core 16
  | .st2 core _ => below core 16
  | .st4 core _ => below core 16
  | .st8 core _ => below core 16
  | .bz core _ => below core 16
  | .bnz core _ => below core 16
  | .bneg core _ => below core 16
  | .bnneg core _ => below core 16
  | .jmp core _ => below core 16
  | .ccCall core _ => below core 16
  | .jmpr core _ => below core 16
  | .fadd core _ => below core 16
  | .fsub core _ => below core 16
  | .fmul core _ => below core 16
  | .fdiv core _ => below core 16
  | .fsqrt core _ => below core 16
  | .fmin core _ => below core 16
  | .fmax core _ => below core 16
  | .fcmp core _ => below core 16
  | .f2i core _ => below core 16
  | .i2f core _ => below core 16
  | .fbits core _ => below core 16
  | .ibits core _ => below core 16
  | .fld8 core _ => below core 16
  | .fst8 core _ => below core 16
  | .ccCommit core _ => below core 16
  | .ccEnd core _ => below core 16
  | .ccTime core _ => below core 16
  | .cycle core _ => below core 16
  | .vtake core _ => below core 16
  | .vact core _ => below core 16
  | .vadd core _ => below core 16
  | .vsub core _ => below core 16
  | .vand core _ => below core 16
  | .vor core _ => below core 16
  | .vxor core _ => below core 16
  | .vshl core _ => below core 16
  | .vshr core _ => below core 16
  | .vsar core _ => below core 16
  | .vmul core _ => below core 16
  | .vmulhiS core _ => below core 16
  | .vmulhiU core _ => below core 16
  | .vminu core _ => below core 16
  | .vmaxu core _ => below core 16
  | .veq core _ => below core 16
  | .vltu core _ => below core 16
  | .vblend core _ => below core 16
  | .vbyterev core _ => below core 16
  | .vectorScalarOp core _ => below core 16
  | .vmoveup core _ => below core 16
  | .vmovedn core _ => below core 16
  | .vput core _ => below core 16
  | .vget core _ => below core 16
  | .vpick core _ => below core 16
  | .vfoldadd core _ => below core 16
  | .vfoldxor core _ => below core 16
  | .vfoldmaxu core _ => below core 16
  | .vload core _ => below core 16
  | .vstore core _ => below core 16
  | .vloads core _ => below core 16
  | .vstores core _ => below core 16
  | .vldrec core _ => below core 16
  | .vstrec core _ => below core 16
  | .ccRecoveryDone core _ => below core 16
  | .nop _ => true
  | .fence _ => true
  | .random _ => true
  | .reseed _ => true
  | .attest _ => true
  | .mlKemKeygen _ => true
  | .mlKemEncaps _ => true
  | .mlKemDecaps _ => true
  | .mlDsaKeygen _ => true
  | .mlDsaSign _ => true
  | .mlDsaVerify _ => true
  | .slhDsaKeygen _ => true
  | .slhDsaSign _ => true
  | .slhDsaVerify _ => true
  | .lmsKeygen _ => true
  | .lmsSign _ => true
  | .lmsVerify _ => true
  | .lmsIndexQuery _ => true
  | .xmssKeygen _ => true
  | .xmssSign _ => true
  | .xmssVerify _ => true
  | .xmssIndexQuery _ => true
  | .mcelieceKeygen _ => true
  | .mcelieceEncaps _ => true
  | .mcelieceDecaps _ => true
  | .ecKeygen _ => true
  | .ecSign _ => true
  | .ecVerify _ => true
  | .agree _ => true
  | .rsaKeygen _ => true
  | .rsaPssSign _ => true
  | .rsaV15Sign _ => true
  | .rsaPssVerify _ => true
  | .rsaV15Verify _ => true
  | .rsaOaepEncrypt _ => true
  | .rsaOaepDecrypt _ => true
  | .hash _ => true
  | .hmacGenerate _ => true
  | .hmacVerify _ => true
  | .kmacGenerate _ => true
  | .kmacVerify _ => true
  | .aesGcmEncrypt _ => true
  | .aesGcmDecrypt _ => true
  | .aesCtr _ => true
  | .aesXtsEncrypt _ => true
  | .aesXtsDecrypt _ => true
  | .kdfCounterHmac _ => true
  | .kdfKmac256 _ => true
  | .hkdf _ => true
  | .hkdfExpand _ => true
  | .generate _ => true
  | .importWrapped _ => true
  | .importClear _ => true
  | .exportWrapped _ => true
  | .exportPublic _ => true
  | .restrict _ => true
  | .delete _ => true
  | .hybridKeygen _ => true
  | .hybridEncaps _ => true
  | .hybridDecaps _ => true
  | .ownerOpcode _ => true
  | .query => true
  | .place => true
  | .springHealthFail source test => below source 4 && between test 1 5
  | .springFirstSeed rates failed _ => rates.length == 4 && below failed 16
  | .springBlockReset _ => true
  | .springBlockResetDone rates failed _ => rates.length == 4 && below failed 16
  | .reseedAll => true
  | .springFailAgeOut => true
  | .conditionerOutput _ => true
  | .drbgGenerate _ => true
  | .drbgReseed => true
  | .maskExpanderReseed exp => below exp 224
  | .blindingBufferRefill unit => below unit 32
  | .rndFifoRefill fn => okFn fn
  | .rndDataLoRead fn => okFn fn
  | .rndDataHiRead fn => okFn fn
  | .sprTestWrite value => below value (2 ^ 32)
  | .hbmRead chan line _ _ => okLine chan line
  | .hbmWrite chan line bytes => okLine chan line && bytes.length == 64
  | .hbmPartialWrite chan line off bytes _ _ => okLine chan line && between bytes.length 1 63 && below (off + bytes.length - 1) 64
  | .patrolScrub chan _ => below chan 16
  | .portLockLoss port => okPort port
  | .portRetrain port => okPort port
  | .probeSend port => okPort port
  | .probe port devId _ => okPort port && below devId 4096
  | .hello port _ _ => okPort port
  | .reply port _ _ => okPort port
  | .finish port _ => okPort port
  | .handshakeResend port => okPort port
  | .handshakeTimeout port => okPort port
  | .rekey port => okPort port
  | .messageForward port cls hdr _ => okPort port && okHdr hdr && below cls 256
  | .floodForward port cls hdr _ => okPort port && okHdr hdr && below cls 256
  | .timeExchange port => okPort port
  | .time port _ => okPort port
  | .alarm port hdr => okPort port && okHdr hdr
  | .fenced port hdr => okPort port && okHdr hdr
  | .trigger port hdr => okPort port && okHdr hdr
  | .fwActivate port hdr instant digest _ => okPort port && okHdr hdr && digest.length == 48 && below instant (2 ^ 64)
  | .leaseReq port hdr keyId => okPort port && okHdr hdr && keyId.length == 16
  | .leaseGrant port hdr _ _ remain => okPort port && okHdr hdr && below remain (2 ^ 32)
  | .leaseGrantTimeout _ => true
  | .refuse port hdr status => okPort port && okHdr hdr && below status (2 ^ 32)
  | .advertSend port => okPort port
  | .advert port _ => okPort port
  | .keyRepl port hdr _ => okPort port && okHdr hdr
  | .keyPlace port hdr _ => okPort port && okHdr hdr
  | .ppsInEdge => true
  | .cflTimeSet hi => below hi (2 ^ 32)
  | .testLock => true
  | .testUnlock => true
  | .personalise => true
  | .takeOwnership => true
  | .fieldReturn => true
  | .scrap => true
  | .fusePulseEnd => true
  | .eraseStepDone => true
  | .lcsLockoutEnd => true
  | .jtagTapInstruction _ => true
  | .trstN => true
  | .leveeDetectorEvent source _ => okSource source
  | .detectorDisagreement source => okSource source
  | .leveeWindowExpiry source => okSource source
  | .gatheringIntervalEnd => true
  | .log => true
  | .event => true
  | .alarmOut => true
  | .throttle => true
  | .clearVolatileKeys => true
  | .fenceAction => true
  | .clearAll => true
  | .halt => true
  | .resetAction => true
  | .leveeUnlatch source => okSource source
  | .levBistCmd source _ => below source 32
  | .bistSchedule source _ => okSource source
  | .bistVerdict _ => true
  | .batterySample detA detB => below detA (2 ^ 26) && below detB (2 ^ 26)
  | .ptTileReset => true
  | .htTileReset => true
  | .bnuUnitReset => true
  | .ccCoreReset => true
  | .cuReset target => below target 16
  | .basinDrain target => below target 16
  | .basinDrained basin => below basin 8
  | .basinReset target => below target 16
  | .basinResume target => below target 16
  | .stage => true
  | .stagingComplete _ _ => true
  | .arm => true
  | .cancel => true
  | .fwDiscard => true
  | .requireCosign => true
  | .activationInstant => true
  | .fwDrainComplete => true
  | .fwDrainLimit => true
  | .warmRestartDone _ => true
  | .fwConfirm => true
  | .confirmWindowEnd => true
  | .eventCoalTimer source => below source 2048
  | .eventMaskWrite fn value => okFn fn && below value (2 ^ 32)
  | .trigIn => true
  | .capture => true
  | .release => true
  | .replan _ => true
  | .scheduledReplan _ => true
  | .replanRetry _ => true
  | .vcoreStep readMv => below readMv 1024
  | .pmbusFault _ word => below word (2 ^ 16)
  | .thermThreshold _ => true
  | .pwrServiceDaysWrite days => below days (2 ^ 16)
  | .read32 offset => below offset (2 ^ 32)
  | .readMulti offset count => below offset (2 ^ 32) && below count 256
  | .mgmtSelect offset value => below offset (2 ^ 32) && below value (2 ^ 32)
  | .readAoLog index => below index 256
  | .smbAlertResponse => true
  | .removeReachDone reach => okReach reach
  | .resetInputRelease _ => true
  | .alwaysOnStateLost => true
  | .trigOutPulseEnd => true
  | .leveeConditionClear source _ => okSource source
  | .linkFrameTagFail port => okPort port
  | .portTrainingDone port lanes => okPort port && below lanes 16

end Sys2Proof
end

