-- ==== Sys2Proof/Safety.lean ====
section
/-! DEFINITION. The words in which statements about the LX9 are made: what a command answers, which parts of the state a
command leaves alone, how a job ends, and the properties that every step keeps. -/

namespace Sys2Proof.Machine

open Sys2Proof

/-- The command is carried out, and the state it leaves has the property `P`. -/
def Answers (c : Instr) (s : State) (P : State → Prop) : Prop := ∃ t, exec c s = .next t ∧ P t

/-! ## Frames -/

/-- The parts of a state: its fields, with the bit that tells whether the Sluice has stopped apart from the other reset and boot
state. -/
inductive Part where
  | now | wsh | cfg | glb | fns | reaches | queues | jobs | runs | weir | kst | slots | records | spr | tiles |
  chainEpoch | cores | parts | spans | sel | stores | cprof | meas | measCnt | hbm | cfl | evt | snp | fuse | lcs
  | lev | rst | sluice | ao | ledger | fwu | pwr | pins | mgmt | tx | pending
  deriving DecidableEq, Repr

/-- The reset and boot state but for the bit that tells whether the Sluice has stopped. -/
def Rst.still (r : Rst) : Rst := { r with sluiceStopped := false }

/-- A part is the same in both states. -/
def Part.same (p : Part) (s t : State) : Prop :=
  match p with
  | .now => t.now = s.now
  | .wsh => t.wsh = s.wsh
  | .cfg => t.cfg = s.cfg
  | .glb => t.glb = s.glb
  | .fns => t.fns = s.fns
  | .reaches => t.reaches = s.reaches
  | .queues => t.queues = s.queues
  | .jobs => t.jobs = s.jobs
  | .runs => t.runs = s.runs
  | .weir => t.weir = s.weir
  | .kst => t.kst = s.kst
  | .slots => t.slots = s.slots
  | .records => t.records = s.records
  | .spr => t.spr = s.spr
  | .tiles => t.tiles = s.tiles
  | .chainEpoch => t.chainEpoch = s.chainEpoch
  | .cores => t.cores = s.cores
  | .parts => t.parts = s.parts
  | .spans => t.spans = s.spans
  | .sel => t.sel = s.sel
  | .stores => t.stores = s.stores
  | .cprof => t.cprof = s.cprof
  | .meas => t.meas = s.meas
  | .measCnt => t.measCnt = s.measCnt
  | .hbm => t.hbm = s.hbm
  | .cfl => t.cfl = s.cfl
  | .evt => t.evt = s.evt
  | .snp => t.snp = s.snp
  | .fuse => t.fuse = s.fuse
  | .lcs => t.lcs = s.lcs
  | .lev => t.lev = s.lev
  | .rst => t.rst.still = s.rst.still
  | .sluice => t.rst.sluiceStopped = s.rst.sluiceStopped
  | .ao => t.ao = s.ao
  | .ledger => t.ledger = s.ledger
  | .fwu => t.fwu = s.fwu
  | .pwr => t.pwr = s.pwr
  | .pins => t.pins = s.pins
  | .mgmt => t.mgmt = s.mgmt
  | .tx => t.tx = s.tx
  | .pending => t.pending = s.pending

/-- From `s` to `t`, nothing changes but the parts listed. -/
def Keeps (ps : List Part) (s t : State) : Prop := ∀ p, p ∉ ps → p.same s t

/-- What an occurrence of an event can touch: its source, the snapshot it may request with TRIG_OUT and the TRIGGER
message, and MSI-X messages with their pending bits (R458, R461). -/
def eventParts : List Part := [.evt, .snp, .pins, .tx, .cfl, .fns]

/-- What the end of a job touches: the job, the tiles, cores and operand spans that ran it, its waiting request for random
bytes, the credit of the pool it ran in, the count of abandoned routines, the lines of its spilled contexts, and the event of
a core that goes into recovery at its END (R114, R122, R135, R226, R241, R261, R327, R341, R353). -/
def jobParts : List Part := [.jobs, .tiles, .cores, .spans, .spr, .weir, .stores, .hbm] ++ eventParts

/-- What the writing of a key slot touches: the slot, the key stores, the vault and the caches of its reach in HBM, and the
copies sent to peers (R182, R290, R291, R383). -/
def keyParts : List Part := [.slots, .kst, .reaches, .hbm, .cfl, .tx]

/-- What the writing of completion entries touches: queues, runs and the jobs they cover, the bit that says that a fenced
Sluice has stopped, and the messages that signal them (R107 to R112, R423, R456). -/
def queueParts : List Part := [.queues, .runs, .jobs, .sluice] ++ eventParts

/-- What the Weir touches when it moves a job or a node: its lists and credits, the reach's counters, the reservation of a
job that ends, and the events it raises (R129 to R146). -/
def weirParts : List Part := [.weir, .reaches, .slots] ++ jobParts ++ eventParts

/-- What a fence touches: the fence bit, and the jobs it ends and the queues whose completions that writes (R116, R423). -/
def fenceParts : List Part := [.rst, .slots, .stores] ++ jobParts ++ queueParts

/-! ## Key slots -/

/-- A slot but for the random shares its material is split into, which the model leaves free and draws anew whenever the
material goes to the vault (R291, R293). -/
def Slot.bare (x : Slot) : Slot := { x with shares := [] }

/-- The job waits for a lease of the slot, to draw its index (R177). -/
def Job.drawsFrom (j : Job) (n : Nat) : Bool :=
  j.entry.keyValid && j.entry.slot == n && j.drawSeq.isSome && j.index.isNone && j.status.isNone && !j.keyGone

/-! ## Jobs -/

/-- The job of `j`'s number has ended with this status, detail and output. -/
def JobEnds (j : Job) (st : Status) (detail : Nat) (out : Bytes) (t : State) : Prop :=
  ∃ y, t.job j.id = some y ∧ y.st = .ended ∧ y.status = some st ∧ y.detail = detail ∧ y.output = out

/-- The status with which the failure of node `i` ends its job: FAULT_AFTER_COMMIT past the node's own COMMIT or the job's
commit point (R126, R128, R327). -/
def State.failsAs (s : State) (j : Job) (i : Nat) (st : Status) : Status :=
  if j.committed || s.tiles.any (fun x => x.2.node == some (j.id, i) && s.tileCommitted x.1) then .faultAfterCommit else st

/-- The OUTPUT node of the job has what masking randomness it still needs (R217, R258). -/
def MasksHere (s : State) (j : Job) : Prop :=
  ∀ i, j.nodes.findIdx? (fun n => n.info.output) = some i → (s.nodeMasks j.id i).1 = true

/-- The job `j` runs the operation `o` in its variant `v`: its input, its random bytes, its OUTPUT node's engine and that
node's masking randomness are there, and it has not ended. -/
def JobRuns (s : State) (j : Job) (o : Op) (v : Nat) : Prop :=
  s.alive = true ∧ s.job j.id = some j ∧ s.opOfJob j = some (o, v) ∧ s.mayRun j o = true ∧ j.abortLate = false ∧
    MasksHere s j

/-- The key of the job: `x` is the slot as the job has loaded it (R183), or its entry names none. -/
def KeyIs (j : Job) : Option Slot → Prop
  | some x => j.entry.keyValid = true ∧ j.keyCopy = some x
  | none => j.entry.keyValid = false

/-- The slot of a job that loads no key, as it stands. -/
def SlotIs (s : State) (j : Job) (x : Slot) : Prop := j.keyGone = false ∧ s.slot j.entry.slot = x ∧ x.st = .live

/-- The command ends `j` with this status, detail and output, and writes no slot; of the rest it draws masking randomness
alone. -/
def JobGives (c : Instr) (s : State) (j : Job) (st : Status) (detail : Nat) (out : Bytes) : Prop :=
  Answers c s fun t =>
    JobEnds j st detail out t ∧ (st.success = true → t.slots = s.slots) ∧ Keeps (.slots :: jobParts ++ eventParts) s t

/-- The command ends `j` OK with this detail and output, and slot `n` holds `x`, however it is shared. -/
def JobWrites (c : Instr) (s : State) (j : Job) (detail : Nat) (out : Bytes) (n : Nat) (x : Slot) : Prop :=
  Answers c s fun t =>
    JobEnds j .ok detail out t ∧ (t.slot n).bare = x.bare ∧ (∀ m, m ≠ n → (t.slot m).bare = (s.slot m).bare) ∧
    Keeps (keyParts ++ jobParts ++ eventParts) s t

/-- A secret result: into DEST_SLOT when TO_SLOT is set, with the source key's export rule, else behind `pre` in the
output (R168, R201). -/
def JobYields (c : Instr) (s : State) (j : Job) (pre secret : Bytes) (src : Option Slot) : Prop :=
  (pToSlot j.param = true → JobWrites c s j 0 pre (pDest j.param)
    (newSlot (derivedAttr (s.slot (pDest j.param)).attr src) secret [] 0)) ∧
  (pToSlot j.param = false → JobGives c s j .ok 0 (pre ++ secret))

/-! ## HBM -/

/-- A line of a reach's regions, or of no place: its loss costs no slot and no hash context (R367). -/
def Plain (s : State) (c l : Nat) : Prop :=
  ∀ p n, s.placeOf c l = some (p, n) → p.kind ∉ [PlaceKind.vault, .descriptors, .reserve]

/-- No context of the job lies in HBM (R240). -/
def NoCtx (j : Job) : Prop := ∀ n ∈ j.nodes, n.inHbm = false

/-! ## The control cores -/

/-- The instruction of a control core that a command carries out: the core, what its memories meet, and the OP and FN of its
row (R351, R352). -/
def ccRow : Instr → Option (Nat × CoreEvent × Row)
  | .add core mem => some (core, mem, { op := 0x01, fn := 0x00 })
  | .sub core mem => some (core, mem, { op := 0x01, fn := 0x01 })
  | .and core mem => some (core, mem, { op := 0x01, fn := 0x02 })
  | .or core mem => some (core, mem, { op := 0x01, fn := 0x03 })
  | .xor core mem => some (core, mem, { op := 0x01, fn := 0x04 })
  | .andn core mem => some (core, mem, { op := 0x01, fn := 0x05 })
  | .shl core mem => some (core, mem, { op := 0x01, fn := 0x06 })
  | .shr core mem => some (core, mem, { op := 0x01, fn := 0x07 })
  | .sar core mem => some (core, mem, { op := 0x01, fn := 0x08 })
  | .ror core mem => some (core, mem, { op := 0x01, fn := 0x09 })
  | .cmps core mem => some (core, mem, { op := 0x01, fn := 0x0A })
  | .cmpu core mem => some (core, mem, { op := 0x01, fn := 0x0B })
  | .mul core mem => some (core, mem, { op := 0x01, fn := 0x0C })
  | .mulhiS core mem => some (core, mem, { op := 0x01, fn := 0x0D })
  | .mulhiU core mem => some (core, mem, { op := 0x01, fn := 0x0E })
  | .divs core mem => some (core, mem, { op := 0x01, fn := 0x0F })
  | .divu core mem => some (core, mem, { op := 0x01, fn := 0x10 })
  | .mods core mem => some (core, mem, { op := 0x01, fn := 0x11 })
  | .modu core mem => some (core, mem, { op := 0x01, fn := 0x12 })
  | .mins core mem => some (core, mem, { op := 0x01, fn := 0x13 })
  | .maxs core mem => some (core, mem, { op := 0x01, fn := 0x14 })
  | .minu core mem => some (core, mem, { op := 0x01, fn := 0x15 })
  | .maxu core mem => some (core, mem, { op := 0x01, fn := 0x16 })
  | .addk core mem => some (core, mem, { op := 0x02, fn := 0x00 })
  | .andk core mem => some (core, mem, { op := 0x03, fn := 0x00 })
  | .ork core mem => some (core, mem, { op := 0x04, fn := 0x00 })
  | .xork core mem => some (core, mem, { op := 0x05, fn := 0x00 })
  | .shlk core mem => some (core, mem, { op := 0x06, fn := 0x00 })
  | .shrk core mem => some (core, mem, { op := 0x07, fn := 0x00 })
  | .sark core mem => some (core, mem, { op := 0x08, fn := 0x00 })
  | .rork core mem => some (core, mem, { op := 0x09, fn := 0x00 })
  | .kset core mem => some (core, mem, { op := 0x0A, fn := 0x00 })
  | .ksh core mem => some (core, mem, { op := 0x0B, fn := 0x00 })
  | .ldu1 core mem => some (core, mem, { op := 0x10, fn := 0x00 })
  | .ldu2 core mem => some (core, mem, { op := 0x11, fn := 0x00 })
  | .ldu4 core mem => some (core, mem, { op := 0x12, fn := 0x00 })
  | .ld8 core mem => some (core, mem, { op := 0x13, fn := 0x00 })
  | .lds1 core mem => some (core, mem, { op := 0x14, fn := 0x00 })
  | .lds2 core mem => some (core, mem, { op := 0x15, fn := 0x00 })
  | .lds4 core mem => some (core, mem, { op := 0x16, fn := 0x00 })
  | .st1 core mem => some (core, mem, { op := 0x18, fn := 0x00 })
  | .st2 core mem => some (core, mem, { op := 0x19, fn := 0x00 })
  | .st4 core mem => some (core, mem, { op := 0x1A, fn := 0x00 })
  | .st8 core mem => some (core, mem, { op := 0x1B, fn := 0x00 })
  | .bz core mem => some (core, mem, { op := 0x20, fn := 0x00 })
  | .bnz core mem => some (core, mem, { op := 0x21, fn := 0x00 })
  | .bneg core mem => some (core, mem, { op := 0x22, fn := 0x00 })
  | .bnneg core mem => some (core, mem, { op := 0x23, fn := 0x00 })
  | .jmp core mem => some (core, mem, { op := 0x24, fn := 0x00 })
  | .ccCall core mem => some (core, mem, { op := 0x25, fn := 0x00 })
  | .jmpr core mem => some (core, mem, { op := 0x26, fn := 0x00 })
  | .fadd core mem => some (core, mem, { op := 0x30, fn := 0x00 })
  | .fsub core mem => some (core, mem, { op := 0x30, fn := 0x01 })
  | .fmul core mem => some (core, mem, { op := 0x30, fn := 0x02 })
  | .fdiv core mem => some (core, mem, { op := 0x30, fn := 0x03 })
  | .fsqrt core mem => some (core, mem, { op := 0x30, fn := 0x04 })
  | .fmin core mem => some (core, mem, { op := 0x30, fn := 0x05 })
  | .fmax core mem => some (core, mem, { op := 0x30, fn := 0x06 })
  | .fcmp core mem => some (core, mem, { op := 0x30, fn := 0x07 })
  | .f2i core mem => some (core, mem, { op := 0x30, fn := 0x0A })
  | .i2f core mem => some (core, mem, { op := 0x30, fn := 0x0B })
  | .fbits core mem => some (core, mem, { op := 0x30, fn := 0x0C })
  | .ibits core mem => some (core, mem, { op := 0x30, fn := 0x0D })
  | .fld8 core mem => some (core, mem, { op := 0x31, fn := 0x00 })
  | .fst8 core mem => some (core, mem, { op := 0x32, fn := 0x00 })
  | .ccCommit core mem => some (core, mem, { op := 0x38, fn := 0x00 })
  | .ccEnd core mem => some (core, mem, { op := 0x38, fn := 0x01 })
  | .ccTime core mem => some (core, mem, { op := 0x38, fn := 0x02 })
  | .cycle core mem => some (core, mem, { op := 0x38, fn := 0x03 })
  | .vtake core mem => some (core, mem, { op := 0x40, fn := 0x00 })
  | .vact core mem => some (core, mem, { op := 0x40, fn := 0x01 })
  | .vadd core mem => some (core, mem, { op := 0x41, fn := 0x00 })
  | .vsub core mem => some (core, mem, { op := 0x41, fn := 0x01 })
  | .vand core mem => some (core, mem, { op := 0x41, fn := 0x02 })
  | .vor core mem => some (core, mem, { op := 0x41, fn := 0x03 })
  | .vxor core mem => some (core, mem, { op := 0x41, fn := 0x04 })
  | .vshl core mem => some (core, mem, { op := 0x41, fn := 0x05 })
  | .vshr core mem => some (core, mem, { op := 0x41, fn := 0x06 })
  | .vsar core mem => some (core, mem, { op := 0x41, fn := 0x07 })
  | .vmul core mem => some (core, mem, { op := 0x41, fn := 0x08 })
  | .vmulhiS core mem => some (core, mem, { op := 0x41, fn := 0x09 })
  | .vmulhiU core mem => some (core, mem, { op := 0x41, fn := 0x0A })
  | .vminu core mem => some (core, mem, { op := 0x41, fn := 0x0B })
  | .vmaxu core mem => some (core, mem, { op := 0x41, fn := 0x0C })
  | .veq core mem => some (core, mem, { op := 0x41, fn := 0x0D })
  | .vltu core mem => some (core, mem, { op := 0x41, fn := 0x0E })
  | .vblend core mem => some (core, mem, { op := 0x41, fn := 0x0F })
  | .vbyterev core mem => some (core, mem, { op := 0x41, fn := 0x10 })
  | .vectorScalarOp core mem => some (core, mem, { op := 0x42, fn := 0x00 })
  | .vmoveup core mem => some (core, mem, { op := 0x42, fn := 0x11 })
  | .vmovedn core mem => some (core, mem, { op := 0x42, fn := 0x12 })
  | .vput core mem => some (core, mem, { op := 0x42, fn := 0x13 })
  | .vget core mem => some (core, mem, { op := 0x42, fn := 0x14 })
  | .vpick core mem => some (core, mem, { op := 0x43, fn := 0x00 })
  | .vfoldadd core mem => some (core, mem, { op := 0x43, fn := 0x01 })
  | .vfoldxor core mem => some (core, mem, { op := 0x43, fn := 0x02 })
  | .vfoldmaxu core mem => some (core, mem, { op := 0x43, fn := 0x03 })
  | .vload core mem => some (core, mem, { op := 0x48, fn := 0x00 })
  | .vloads core mem => some (core, mem, { op := 0x49, fn := 0x00 })
  | .vldrec core mem => some (core, mem, { op := 0x4A, fn := 0x00 })
  | .vstore core mem => some (core, mem, { op := 0x4C, fn := 0x00 })
  | .vstores core mem => some (core, mem, { op := 0x4D, fn := 0x00 })
  | .vstrec core mem => some (core, mem, { op := 0x4E, fn := 0x00 })
  | _ => none

/-- Core `r.idx` runs an owner-mode node and stands before a well-formed word `w` of a row, which the code line delivers and
the core's state lets run; the node has not committed, and stays below its limit with the word's cycles. -/
def CcAt (s : State) (r : CRun) (w : CWord) (op fn : Nat) : Prop :=
  s.alive = true ∧ s.cRun r.idx = some r ∧ r.word = some w ∧ rowOf w = some { op := op, fn := fn } ∧ rsvdOk w = true ∧
  r.core.result = none ∧ r.bad.contains (r.core.pc / 64) = false ∧ (r.core.overlay = true → overlayOk w = true) ∧
  r.node.cycles + ((s.scoreAfter r w).cycle - r.core.score.cycle) < r.core.limit

/-- The command carries out the word `w`: the core is `x` at the cycle in which the next word can issue (R347), and nothing
else changes but the node's own count of cycles. -/
def CcRetires (c : Instr) (s : State) (r : CRun) (w : CWord) (x : Core) : Prop :=
  Answers c s fun t =>
    t.core r.idx = { x with score := s.scoreAfter r w } ∧ (∀ k, k ≠ r.idx → t.core k = s.core k) ∧
    t.job r.job.id = some (r.job.setNode r.ni { r.node with
      cycles := r.node.cycles + ((s.scoreAfter r w).cycle - r.core.score.cycle) }) ∧ Keeps [.cores, .jobs] s t

/-- The command carries out the vector word `w`: the core, of which `P` holds, has changed in its vector registers, which
are floating-point registers in the overlay (R345), and otherwise as every word changes it. -/
def CcVector (c : Instr) (s : State) (r : CRun) (w : CWord) (P : Core → Prop) : Prop :=
  Answers c s fun t =>
    let x := t.core r.idx
    P x ∧
    x = { r.core with
      vregs := if r.core.overlay then r.core.vregs else x.vregs
      fregs := if r.core.overlay then x.fregs else r.core.fregs
      pc := r.core.pc + 4, score := s.scoreAfter r w } ∧
    (∀ k, k ≠ r.idx → t.core k = s.core k) ∧ Keeps [.cores, .jobs] s t

/-- The word cannot go on yet: the core waits at it, and nothing else changes (R337, R339). -/
def CcStalls (c : Instr) (s : State) (r : CRun) : Prop :=
  Answers c s fun t =>
    t.core r.idx = { r.core with score := { r.core.score with stalled := true } } ∧
    (∀ k, k ≠ r.idx → t.core k = s.core k) ∧ Keeps [.cores] s t

/-- The command ends the node's job with ENGINE_FAULT, or FAULT_AFTER_COMMIT past the commit point, counted in CCO_FAULTS
(R128, R340). -/
def CcFaults (c : Instr) (s : State) (r : CRun) : Prop :=
  Answers c s fun t =>
    JobEnds r.job (s.failsAs r.job r.ni .engineFault) 0 [] t ∧ t.sel.ccFaults = satAdd 0xFFFFFFFF s.sel.ccFaults 1 ∧
    Keeps (.sel :: .slots :: jobParts) s t

/-! ## Reset -/

/-- From `s`, a device reset leaves `t` (R428): every field at its reset value but the fuses, the ledger die and its records,
the always-on domain, the levels of the reset pins, the regulator's voltage, the strap and thermal pins, what has been
sent or waits outside, and the mark of tiles with a recurring ROM error, which boot step 14 disables (R318). -/
def ResetFrom (s t : State) : Prop :=
  t = { State.reset with
    fuse := s.fuse, records := s.records, ledger := { s.ledger with readOnly := false }, ao := t.ao
    rst := { Rst.reset with pwrgood := s.rst.pwrgood, resetN := s.rst.resetN, perstN := s.rst.perstN }
    pwr := { Pwr.reset with heldMv := s.pwr.heldMv }
    tiles := (s.tiles.filter fun x => x.2.romBad).map fun (x : Nat × Tile) => (x.1, { Tile.reset with romBad := true })
    pins := t.pins, tx := s.tx, pending := s.pending } ∧
  t.pins.therm = s.pins.therm ∧ t.pins.addrSel = s.pins.addrSel ∧ t.pins.fault = false ∧ t.pins.trigOut = false

/-! ## Where a command comes from -/

/-- What brings a command about: a host access or a management-port transaction, the running device itself, the Levee's
queue of actions, or the board, the fuses, the always-on domain and the Levee's detectors, which a reset does not hold. -/
inductive Origin where
  | host | port | engine | levee | board
  deriving DecidableEq, Repr

/-- The origin of a command. -/
def origin : Instr → Origin
  | .devReset _ | .d3hotEntry _ | .d0Return _ | .vfEnableWrite _ _ | .flr _ | .msixStateChange _ _ => .host
  | .registerWrite _ _ _ _ | .begin | .loadWindowWrite _ _ | .validate | .commit | .discard => .host
  | .quiesce _ | .resume _ | .resetReach _ | .removeReach _ | .quiesceVf _ | .resumeVf _ | .resetVf _ => .host
  | .select _ _ | .sqDoorbell _ _ _ | .cqDoorbell _ _ _ | .sluQEnable _ _ _ | .queueReset _ _ => .host
  | .sluQAbort _ _ _ _ | .query | .place | .reseedAll | .rndDataLoRead _ | .rndDataHiRead _ | .sprTestWrite _ => .host
  | .cflTimeSet _ | .testLock | .testUnlock | .personalise | .takeOwnership | .fieldReturn | .scrap => .host
  | .leveeUnlatch _ | .levBistCmd _ _ | .ptTileReset | .htTileReset | .bnuUnitReset | .ccCoreReset => .host
  | .cuReset _ | .basinDrain _ | .basinReset _ | .basinResume _ | .stage | .arm | .cancel | .fwDiscard => .host
  | .requireCosign | .eventMaskWrite _ _ | .capture | .release | .replan _ | .pwrServiceDaysWrite _ => .host
  | .read32 _ | .readMulti _ _ | .mgmtSelect _ _ | .readAoLog _ | .smbAlertResponse => .port
  | .log | .event | .alarmOut | .throttle | .clearVolatileKeys | .fenceAction | .clearAll | .halt => .levee
  | .resetAction => .levee
  | .pwrgoodAssert _ | .pwrgoodDeassert | .resetN | .perstN | .bootStart _ | .bootStepTimeout _ => .board
  | .bootCountAgeOut | .watchdogExpiry | .criticalError _ | .resetHoldEnd | .linkSettle _ _ => .board
  | .leaseCommit _ | .springFirstSeed _ _ _ | .fusePulseEnd | .eraseStepDone | .lcsLockoutEnd => .board
  | .jtagTapInstruction _ | .trstN | .leveeDetectorEvent _ _ | .detectorDisagreement _ => .board
  | .leveeWindowExpiry _ | .gatheringIntervalEnd | .bistSchedule _ _ | .bistVerdict _ => .board
  | .batterySample _ _ | .activationInstant | .pmbusFault _ _ | .thermThreshold _ => .board
  | .resetInputRelease _ | .alwaysOnStateLost | .trigOutPulseEnd | .leveeConditionClear _ _ => .board
  | .springBlockReset auto => if auto then .engine else .host
  | _ => .engine

/-- The commands that can change the committed configuration: a switch point, the end of a removal, a firmware switch that
sets templates aside, and whatever can bring a device reset (R65, R85, R428, R444). -/
def mayReconfigure : Instr → Bool
  | .commitSwitchPoint | .removeReachDone _ | .warmRestartDone _ | .pwrgoodDeassert | .resetN | .perstN => true
  | .devReset _ | .watchdogExpiry | .criticalError _ | .resetHoldEnd | .resetAction | .bootStart _ => true
  | .bootStepTimeout _ | .springFirstSeed _ _ _ | .portTrainingDone _ _ => true
  | _ => false

/-- The commands that can burn a fuse: the end of a pulse, as an event of its own or when a reset waits for it or the supply
falls, and the resumption of boot step 8 (R398, R399, R425, R440, R441). -/
def mayBurn : Instr → Bool
  | .fusePulseEnd | .resetHoldEnd | .pwrgoodDeassert => true
  | .bootStart _ | .bootStepTimeout _ | .springFirstSeed _ _ _ | .portTrainingDone _ _ => true
  | _ => false

/-- From `f` to `g` no burned bit has cleared, and what Carlek programs stands (R391, R398, R441). -/
def Fuses.onlyBurns (f g : Fuses) : Prop :=
  (∀ c b, (f.code.getD c 0).getLsbD b = true → (g.code.getD c 0).getLsbD b = true) ∧
  (∀ c b, (f.gen.getD c 0).testBit b = true → (g.gen.getD c 0).testBit b = true) ∧
  (∀ c b, (f.used.getD c 0).testBit b = true → (g.used.getD c 0).testBit b = true) ∧
  (∀ c b, (f.therm.getD c 0).testBit b = true → (g.therm.getD c 0).testBit b = true) ∧
  (∀ c b, (f.cosign.getD c 0).testBit b = true → (g.cosign.getD c 0).testBit b = true) ∧
  g.testDig = f.testDig ∧ g.persDig = f.persDig ∧ g.ownDig = f.ownDig ∧ g.scrapDig = f.scrapDig ∧
  g.testMldsa = f.testMldsa ∧ g.testEcdsa = f.testEcdsa ∧ g.fwMldsa = f.fwMldsa ∧ g.fwEcdsa = f.fwEcdsa ∧
  g.rootSet = f.rootSet ∧ g.deviceId = f.deviceId ∧ g.stepping = f.stepping

/-! ## What every step keeps -/

/-- The HBM data memory (R362) and the scratch of every control core (R341) are in their canonical form: rising
addresses, and no entry that holds 0. -/
def MemOk (s : State) : Prop := memWf s.hbm.mem = true ∧ ∀ x ∈ s.cores, memWf x.2.scratch = true

/-- The Levee's queue runs in rank order, each action once (R412). -/
def LeveeRanked (s : State) : Prop := (s.lev.queue.map LevAct.rank).Pairwise (· < ·)

end Sys2Proof.Machine
end

