-- ==== Sys2Proof/Certificates/Slice0/Obligations.lean ====
section
/-! DEFINITION. The statements for the provers. -/

open Sys2Proof Sys2Proof.Machine

/-! ## The whole machine -/

/-- The command at the front of the queue runs with the queue's rest; on an empty queue a nanosecond passes (log entry 1:
the model's choice). -/
def Obligations.StepRunsFrontCommand : Prop :=
  (∀ (c : Instr) (rest : List Instr) (s : State),
    step { s with pending := c :: rest } = exec c { s with pending := rest }) ∧
  (∀ s : State, s.pending = [] → step s = .next { s with now := s.now + 1 })

/-- Every step answers a next state, in which the queue is one command shorter: no command of the LX9 ends in a fault or a
refusal, and none queues another. -/
def Obligations.EveryStepAnswersAndTakesOneCommand : Prop :=
  ∀ s : State, ∃ t, step s = .next t ∧ t.pending = s.pending.tail

/-- R362, R341: whatever the step, the HBM data memory and the scratch of every control core keep their canonical form. R412: whatever the step, the Levee's actions
wait in rank order, each at most once. -/
def Obligations.InvariantsEveryStepKeeps : Prop :=
  (
  ∀ s t : State, MemOk s → step s = .next t → MemOk t) ∧
  (
  ∀ s t : State, LeveeRanked s → step s = .next t → LeveeRanked t)

/-- R391, R398, R441: no step clears a burned bit of the state code, the root generation, the consumption bits or the
thermometer, and none touches what Carlek programs. -/
def Obligations.BurnedFusesStayBurned : Prop := ∀ s t : State, step s = .next t → s.fuse.onlyBurns t.fuse

/-- R65, R85, R444, R428, R398, R440, R441: only the commands named change the committed configuration or a fuse. -/
def Obligations.OnlyNamedCommandsReconfigureOrBurn : Prop :=
  ∀ (c : Instr) (s t : State), exec c s = .next t →
    (mayReconfigure c = false → t.cfg = s.cfg) ∧ (mayBurn c = false → t.fuse = s.fuse)

/-- R403, R411, R421, R434, R436, R494: a host command does nothing while the registers do not answer, an engine does
nothing in a stopped device, a Levee action nothing before boot step 2, and the management port answers only from boot
step 1 while PWRGOOD is asserted. R70, R411: COMMIT, which a HALT refuses with an error code, and the reads of registers
need the link alone. -/
def Obligations.StoppedDeviceHearsNothing : Prop :=
  ∀ (c : Instr) (s : State),
    (origin c = .host → c ≠ .commit → (∀ fn b o n, c ≠ .registerWrite fn ⟨b, o⟩ n .read) → s.hostOpen = false →
      exec c s = .next s) ∧
    (s.hostLinked = false → exec .commit s = .next s) ∧
    (s.rst.inReset = true ∨ s.rst.linkUp = false →
      ∀ fn b o n, exec (.registerWrite fn ⟨b, o⟩ n .read) s = .next s) ∧
    (origin c = .engine → s.alive = false → exec c s = .next s) ∧
    (origin c = .levee → s.leveeOn = false → exec c s = .next s) ∧
    (origin c = .port → s.portOpen = false → exec c s = .next s)

/-- R421, R428, R437, R450, R469, R470, R485: what the register tables give for reset. The fuses, the ledger and the
always-on domain, whose contents the spec leaves to the part (log entries 3, 4 and 6), are not in it. -/
def Obligations.ResetValues : Prop :=
  let s := State.reset
  s.wsh.st = .empty ∧ s.wsh.serial = 0 ∧ s.wsh.configured = false ∧ s.glb.vfEnable = false ∧ s.glb.numVfs = 0 ∧
  s.glb.reachDone = true ∧ s.glb.vfDone = true ∧ s.rst.inReset = true ∧ s.rst.inService = false ∧
  s.rst.safeStandby = false ∧ s.rst.fenced = false ∧ s.rst.step = 1 ∧ s.rst.wdtMs = 1000 ∧
  s.snp.arm = true ∧ s.snp.enCmd = true ∧ s.snp.enLevee = true ∧ s.snp.enPin = false ∧ s.snp.enCfl = false ∧
  s.snp.frozen = false ∧ s.fwu.st = .idle ∧ s.fwu.drainMs = 15 ∧ s.pwr.targetMv = 800 ∧ s.pwr.serviceDays = 0 ∧
  s.life = 0xFFFF ∧ s.jobs = [] ∧ s.slots = [] ∧ s.queues = [] ∧ s.reaches = [] ∧
  s.meas = List.replicate 16 measZero ∧ s.lev.queue = [] ∧ s.cfl.timeValid = false ∧ MemOk s

/-! ## The Watershed controller -/

/-- R63 and R64: the loading commands of the Watershed controller on a device whose registers answer. R60, R64: the end
of a validation puts the controller in VALID with the parsed stream, or in REJECTED with the first failing check and
event 0x001, and touches nothing else but the flag that says the staged stream is partial. -/
def Obligations.LoadsAndValidation : Prop :=
  (
  ∀ s : State, s.hostOpen = true → s.lcs.pending = false → s.rst.safeStandby = false →
    (s.wsh.st ∈ [.empty, .valid, .rejected, .committed] →
      exec .begin s = .next { s with wsh := { s.wsh with
        st := .loading, staging := [], loaded := 0, partialFlag := false, parsed := none } }) ∧
    (s.wsh.st ∉ [.empty, .valid, .rejected, .committed] →
      exec .begin s = .next { s with wsh := { s.wsh with errCode := 0x13 } }) ∧
    (∀ off bs, s.wsh.st = .loading → off + bs.length ≤ 2 ^ 24 →
      exec (.loadWindowWrite off bs) s = .next { s with wsh := { s.wsh with
        staging := memWrite s.wsh.staging off bs, loaded := max s.wsh.loaded (off + bs.length) } }) ∧
    (∀ off bs, s.wsh.st ≠ .loading → exec (.loadWindowWrite off bs) s = .next s) ∧
    (s.wsh.st = .loading → exec .validate s = .next { s with wsh := { s.wsh with st := .validating } }) ∧
    (s.wsh.st ≠ .loading → exec .validate s = .next { s with wsh := { s.wsh with errCode := 0x13 } }) ∧
    (s.wsh.st ∈ [.loading, .valid, .rejected] →
      exec .discard s = .next { s with wsh := { s.wsh with
        st := .empty, staging := [], loaded := 0, partialFlag := false, parsed := none } }) ∧
    (s.wsh.st ∉ [.loading, .valid, .rejected] →
      exec .discard s = .next { s with wsh := { s.wsh with errCode := 0x13 } }) ∧
    (s.wsh.st ≠ .valid → exec .commit s = .next { s with wsh := { s.wsh with errCode := 0x13 } })) ∧
  (
  ∀ s : State, s.alive = true → s.wsh.st = .validating →
    (∀ p, validateStream s.valEnv s.wsh.bytes = .ok p →
      exec .validationComplete s = .next { s with wsh := { s.wsh with
        st := .valid, parsed := some p, partialFlag := bitOf (parseHeader s.wsh.bytes).flags 0 } }) ∧
    (∀ e, validateStream s.valEnv s.wsh.bytes = .error e →
      Answers .validationComplete s fun t =>
        t.wsh.st = .rejected ∧ t.wsh.errCode = e.code ∧ t.wsh.errType = e.type ∧ t.wsh.errOffset = e.off ∧
        (t.source 0x001).pending = true ∧ Keeps (.wsh :: eventParts) s t))

/-- R65, R66, R70, R279: what a COMMIT write does in VALID, when a commit waits for the Spring, and that a wait of 40 ms
ends it REJECTED with nothing applied. -/
def Obligations.CommitStartsWaitsOrIsRefused : Prop :=
  ∀ (s : State) (p : Stream),
    (s.hostLinked = true → s.lcs.pending = false → s.rst.safeStandby = false → s.wsh.st = .valid → s.wsh.parsed = some p →
      (s.rst.fenced = true ∨ s.lev.fenced = true ∨ s.lev.halted = true →
        exec .commit s = .next { s with wsh := { s.wsh with errCode := 0x13 } }) ∧
      (s.rst.fenced = false → s.lev.fenced = false → s.lev.halted = false →
        (p.partialLoad = false ∨ ∀ x ∈ p.namedAt, x.1 ∉ s.busyReaches) →
        exec .commit s = .next { s with wsh := { s.wsh with
          st := .committing, commitAt := s.now,
          springWait := !(s.createdBy p).isEmpty && s.spr.st != .running } }) ∧
      (s.rst.fenced = false → s.lev.fenced = false → s.lev.halted = false → p.partialLoad = true →
        (∃ x ∈ p.namedAt, x.1 ∈ s.busyReaches) →
        Answers .commit s fun t =>
          t.wsh.st = .rejected ∧ t.wsh.errCode = 0x12 ∧ t.wsh.errType = 2 ∧
          (∃ x ∈ p.namedAt, x.1 ∈ s.busyReaches ∧ t.wsh.errOffset = x.2) ∧ (t.source 0x001).pending = true ∧
          Keeps (.wsh :: eventParts) s t)) ∧
    (s.alive = true → s.wsh.st = .committing → s.wsh.springWait = true → s.spr.st ≠ .running →
      Answers .commitSpringWaitTimeout s fun t =>
        t.wsh.st = .rejected ∧ t.wsh.errCode = 0x13 ∧ t.wsh.springWait = false ∧
        t.now = max s.now (s.wsh.commitAt + 40000000) ∧ Keeps (.wsh :: .now :: eventParts) s t)

/-- R65, R59, R67: the switch point installs the stream whole: the configuration in force is the stream's, over what a
partial stream leaves alone; its SERIAL and digest are shown, MEAS[4] is extended with the digest, and the floors of its signing keys are at least its SERIAL. R65
and R79: a reach that a full commit creates serves with cleared measurement registers; its HBM keys are drawn, or wait for
the Spring (R280). -/
def Obligations.SwitchPointInstallsStream : Prop :=
  (
  ∀ (s : State) (p : Stream), s.alive = true → s.wsh.st = .committing → s.wsh.parsed = some p → s.rst.inService = true →
    (s.wsh.springWait = false ∨ s.spr.st = .running) →
    Answers .commitSwitchPoint s fun t =>
      t.cfg = p.setupOver s.cfg ∧ (p.partialLoad = false → t.cfg = p.cfg) ∧ t.wsh.st = .committed ∧ t.wsh.serial = p.serial ∧ t.wsh.digest = p.digest ∧
      t.wsh.configured = true ∧ t.wsh.parsed = none ∧
      (t.source 0x000).pending = true ∧
      (s.meas.length = 16 →
        t.meas.getD 4 measZero = sha3_384 (s.meas.getD 4 measZero ++ p.digest)) ∧
      (s.ledger.readOnly = false →
        t.wsh.floorStale = false ∧
        ∀ x ∈ p.sigs, ∃ f ∈ t.ledger.floors, f.1 = sha3_384 x.key ∧ p.serial ≤ f.2) ∧
      (s.ledger.readOnly = true → t.wsh.floorStale = true ∧ t.ledger.floors = s.ledger.floors) ∧
      (∀ q ∈ t.queues, q ∈ s.queues) ∧
      (∀ q ∈ s.queues, q.1 / 64 ∉ movedFns s.cfg t.cfg (s.createdBy { p with cfg := t.cfg }) → q ∈ t.queues) ∧
      Keeps ([.wsh, .cfg, .reaches, .queues, .records, .chainEpoch, .parts, .cprof, .meas, .measCnt, .hbm, .rst, .ao,
        .ledger, .kst, .slots] ++ jobParts ++ eventParts) s t) ∧
  (
  ∀ (s : State) (p : Stream) (x : ReachRec), s.alive = true → s.wsh.st = .committing → s.wsh.parsed = some p →
    s.rst.inService = true → (s.wsh.springWait = false ∨ s.spr.st = .running) →
    x.id ∈ s.createdBy p → p.cfg.reach x.id = some x → p.partialLoad = false →
    Answers .commitSwitchPoint s fun t =>
      (t.reach x.id).st = .serving ∧ (t.reach x.id).meas = List.replicate 32 measZero ∧
      (t.reach x.id).measCnt = List.replicate 32 0 ∧
      ((∀ i ∈ s.createdBy p, i < 64) → ∀ k ∈ x.regionKeys ++ [placeId .reserve x.id],
        k ∈ t.hbm.keys.map Prod.fst ∨ k ∈ t.hbm.keyDue))

/-! ## Functions and reaches -/

/-- R72 and R74: the link settles at a speed (codes 1 to 5) and width, and below 8 GT/s the Sluice fetches nothing; a
function in D3hot fetches nothing more, and returns to D0; a VF that is not enabled is absent (R78). R77, R78: NumVFs is written only while VF Enable is 0; the VF
Enable bit is cleared only when every VF is quiesced, and the first one that is not is shown with BUSY. -/
def Obligations.LinkPowerAndVfEnable : Prop :=
  (
  ∀ s : State,
    (∀ speed width : Nat, s.rst.inReset = false → 1 ≤ speed → speed ≤ 5 → width ∈ [1, 4, 8, 16] →
      Answers (.linkSettle speed width) s fun t =>
        t.glb = { s.glb with speed := speed, width := width, linkSlow := decide (speed < 3) } ∧
        (speed < 3 → (t.source 0x052).pending = true ∧ exec .sqFetch t = .next t) ∧
        Keeps (.glb :: eventParts) s t) ∧
    (∀ fn : Nat, s.hostOpen = true →
      ((s.fn fn).d3hot = false → s.fnOpen fn = true → Answers (.d3hotEntry fn) s fun t =>
        (t.fn fn).d3hot = true ∧ t.fetchOpen fn = false ∧ (∀ x ∈ t.queues, x.1 / 64 = fn → x.2.fetching = 0) ∧
        Keeps ([.fns, .slots] ++ jobParts ++ queueParts) s t) ∧
      ((s.fn fn).d3hot = true ∨ s.fnOpen fn = false → exec (.d3hotEntry fn) s = .next s) ∧
      ((s.fn fn).d3hot = true → s.fnOpen fn = true → Answers (.d0Return fn) s fun t =>
        (t.fn fn).d3hot = false ∧ Keeps queueParts s t) ∧
      ((s.fn fn).d3hot = false ∨ s.fnOpen fn = false → exec (.d0Return fn) s = .next s))) ∧
  (
  ∀ (s : State) (n : Nat), s.hostOpen = true →
    (∀ e, s.glb.vfEnable = false →
      exec (.vfEnableWrite e n) s = .next { s with glb := { s.glb with numVfs := min n 255, vfEnable := e } }) ∧
    (s.glb.vfEnable = true → exec (.vfEnableWrite true n) s = .next s) ∧
    (s.glb.vfEnable = true → (∀ i, i < s.glb.numVfs → s.fnQuiesced (i + 1) = true) →
      exec (.vfEnableWrite false n) s = .next { s with glb := { s.glb with vfEnable := false, vfResult := 0, vfDone := true } }) ∧
    (s.glb.vfEnable = true → ∀ i, i < s.glb.numVfs → s.fnQuiesced (i + 1) = false →
      (∀ j, j < i → s.fnQuiesced (j + 1) = true) →
      exec (.vfEnableWrite false n) s = .next { s with glb := { s.glb with
        selVf := i + 1, vfResult := 0x0109, vfDone := true } }))

/-- R80, R82, R83, R86: QUIESCE and RESUME by the state of the reach they name; SELECT only selects (R93). R80, R82,
R83, R84, R93: the commands on one VF. -/
def Obligations.QuiesceResumeAndVfReset : Prop :=
  (
  ∀ (s : State) (r : Nat), s.hostOpen = true →
    (∀ vf, exec (.select r vf) s = .next { s with glb := { s.glb with selReach := r, selVf := vf } }) ∧
    ((s.reach r).st = .serving → Answers (.quiesce r) s fun t =>
      t.reach r = { s.reach r with st := .quiescing } ∧ (∀ k, k ≠ r → t.reach k = s.reach k) ∧
      t.glb = { s.glb with selReach := r, reachResult := 0, reachDone := true } ∧
      (∀ fn ∈ s.cfg.fnsOf r, ∀ x ∈ t.queues, x.1 / 64 = fn → x.2.fetching = 0) ∧
      Keeps ([.reaches, .glb] ++ queueParts) s t) ∧
    ((s.reach r).st = .quiescing ∨ (s.reach r).st = .quiesced →
      exec (.quiesce r) s = .next { s with glb := { s.glb with selReach := r, reachResult := 0, reachDone := true } }) ∧
    ((s.reach r).st = .quiescing ∨ (s.reach r).st = .quiesced → s.resumeBlocked r = false →
      exec (.resume r) s = .next { s.setReach r { s.reach r with st := .serving } with
        glb := { s.glb with selReach := r, reachResult := 0, reachDone := true } }) ∧
    ((s.reach r).st = .serving →
      exec (.resume r) s = .next { s with glb := { s.glb with selReach := r, reachResult := 0, reachDone := true } }) ∧
    ((s.reach r).st = .resetting ∨ (s.reach r).st = .removing → ∀ c ∈ [Instr.quiesce r, Instr.resume r],
      exec c s = .next { s with glb := { s.glb with selReach := r, reachResult := 0x0109, reachDone := true } }) ∧
    ((s.reach r).st = .absent → ∀ c ∈ [Instr.quiesce r, Instr.resume r, Instr.resetReach r, Instr.removeReach r],
      exec c s = .next { s with glb := { s.glb with selReach := r, reachResult := 0x0103, reachDone := true } })) ∧
  (
  ∀ (s : State) (vf : Nat), s.hostOpen = true →
    (s.vfPresent vf = false → ∀ c ∈ [Instr.quiesceVf vf, Instr.resumeVf vf, Instr.resetVf vf],
      exec c s = .next { s with glb := { s.glb with selVf := vf, vfResult := 0x0103, vfDone := true } }) ∧
    (s.vfPresent vf = true → (s.fn vf).resetting = false → Answers (.quiesceVf vf) s fun t =>
      (t.fn vf).quiesce = true ∧ t.glb = { s.glb with selVf := vf, vfResult := 0, vfDone := true } ∧
      (∀ x ∈ t.queues, x.1 / 64 = vf → x.2.fetching = 0) ∧ Keeps (.glb :: queueParts) s t) ∧
    (s.vfPresent vf = true → (s.fn vf).resetting = false → s.resumeBlocked ((s.cfg.reachOf vf).getD 0) = false →
      exec (.resumeVf vf) s = .next { s.setFn vf { s.fn vf with quiesce := false } with
        glb := { s.glb with selVf := vf, vfResult := 0, vfDone := true } }) ∧
    (s.vfPresent vf = true → s.fnQuiesced vf = false →
      exec (.resetVf vf) s = .next { s with glb := { s.glb with selVf := vf, vfResult := 0x0109, vfDone := true } }) ∧
    (s.vfPresent vf = true → (s.rst.fenced = true ∨ s.commitNames ((s.cfg.reachOf vf).getD 0) = true) →
      exec (.resetVf vf) s = .next { s with glb := { s.glb with selVf := vf, vfResult := 0x0109, vfDone := true } }) ∧
    (s.vfPresent vf = true → s.fnQuiesced vf = true → (s.fn vf).resetting = false → s.rst.fenced = false →
      s.commitNames ((s.cfg.reachOf vf).getD 0) = false → Answers (.resetVf vf) s fun t =>
      (t.fn vf).resetting = true ∧ (t.fn vf).quiesce = (s.fn vf).quiesce ∧
      t.glb = { s.glb with selVf := vf, vfResult := 0, vfDone := false, vfRuns := vf } ∧ (∀ x ∈ t.queues, x.1 / 64 ≠ vf) ∧
      (∀ x ∈ s.queues, x.1 / 64 ≠ vf → x ∈ t.queues) ∧ Keeps [.glb, .queues, .fns, .evt] s t) ∧
    (vf ≠ 0 → s.fnOpen vf = true → s.fnQuiesced vf = true → s.rst.fenced = false →
      s.commitNames ((s.cfg.reachOf vf).getD 64) = false → Answers (.flr vf) s fun t =>
      (t.fn vf).resetting = true ∧ (∀ x ∈ t.queues, x.1 / 64 ≠ vf) ∧
      (∀ x ∈ s.queues, x.1 / 64 ≠ vf → x ∈ t.queues) ∧ Keeps [.queues, .fns, .evt] s t) ∧
    (vf ≠ 0 → s.fnOpen vf = true → (s.fnQuiesced vf = false ∨ s.rst.fenced = true) → Answers (.flr vf) s fun t =>
      (t.fn vf).flrRefused = true ∧ Keeps eventParts s t))

/-- R83, R85, R428: RESET_REACH and REMOVE_REACH on a quiesced reach, and their refusals. R80, R85, R84, R437: how a
quiesce, a removal and the reset of a reach, of a VF and of one unit end; DONE waits for the end of the last command (R93,
R437). -/
def Obligations.ReachResetRemovalAndEnds : Prop :=
  (
  ∀ (s : State) (r : Nat) (x : ReachRec), s.hostOpen = true → s.cfg.reach r = some x → x.id = r →
    ((s.reach r).st = .quiesced → s.commitNames r = false → s.rst.fenced = false → Answers (.resetReach r) s fun t =>
      (t.reach r).st = .resetting ∧ (t.reach r).epoch = (s.reach r).epoch + 1 ∧ (t.reach r).meas = (s.reach r).meas ∧
      t.glb = { s.glb with selReach := r, reachResult := 0, reachDone := false, reachRuns := r } ∧
      (∀ n, x.keyBase ≤ n → n < x.keyBase + x.keyCount → (t.slot n).st = .empty) ∧
      (∀ n, n < x.keyBase ∨ x.keyBase + x.keyCount ≤ n → t.slot n = s.slot n) ∧
      (∀ q ∈ t.queues, q.1 / 64 ∉ s.cfg.fnsOf r) ∧
      (∀ q ∈ s.queues, q.1 / 64 ∉ s.cfg.fnsOf r → q ∈ t.queues) ∧
      (∀ k ∈ s.cfg.tilesOf r, (t.tile k).epoch = (s.tile k).epoch + 1) ∧
      Keeps ([.glb, .queues, .records] ++ jobParts ++ keyParts) s t) ∧
    ((s.reach r).st = .quiesced → (s.commitNames r = true ∨ s.rst.fenced = true) →
      exec (.resetReach r) s = .next { s with glb := { s.glb with selReach := r, reachResult := 0x0109, reachDone := true } }) ∧
    ((s.reach r).st = .quiesced → r ≠ 0 → s.commitNames r = false → Answers (.removeReach r) s fun t =>
      (t.reach r).st = .removing ∧ (t.reach r).epoch = (s.reach r).epoch + 1 ∧
      (∀ y ∈ t.hbm.keys, y.1 % 128 ≠ r) ∧ (∀ k ∈ t.hbm.keyDue, k % 128 ≠ r) ∧
      t.glb = { s.glb with selReach := r, reachResult := 0, reachDone := false, reachRuns := r } ∧
      (∀ n, x.keyBase ≤ n → n < x.keyBase + x.keyCount → (t.slot n).st = .empty) ∧
      (∀ n, n < x.keyBase ∨ x.keyBase + x.keyCount ≤ n → t.slot n = s.slot n) ∧
      (t.drbg r).st = .uninstantiated ∧ (∀ q ∈ t.queues, q.1 / 64 ∉ s.cfg.fnsOf r) ∧
      (∀ q ∈ s.queues, q.1 / 64 ∉ s.cfg.fnsOf r → q ∈ t.queues) ∧
      Keeps ([.glb, .queues, .records, .parts] ++ jobParts ++ keyParts) s t) ∧
    ((s.reach r).st ∈ [.serving, .quiescing, .resetting, .removing] →
      exec (.resetReach r) s = .next { s with glb := { s.glb with selReach := r, reachResult := 0x0109, reachDone := true } }) ∧
    ((s.reach r).st ∈ [.serving, .quiescing, .resetting, .removing] → r ≠ 0 →
      exec (.removeReach r) s = .next { s with glb := { s.glb with selReach := r, reachResult := 0x0109, reachDone := true } }) ∧
    (r = 0 → exec (.removeReach r) s = .next { s with glb := { s.glb with selReach := 0, reachResult := 0x0103, reachDone := true } })) ∧
  (
  ∀ s : State, s.alive = true →
    (∀ r : Nat,
      ((s.reach r).st = .quiescing → s.reachIdle r = true →
        exec (.quiesceComplete (.reach r)) s = .next (s.setReach r { s.reach r with st := .quiesced })) ∧
      ((s.reach r).st = .quiescing → s.reachIdle r = false → exec (.quiesceComplete (.reach r)) s = .next s) ∧
      ((s.reach r).st = .removing → exec (.removeReachDone r) s = .next { s.setReach r { s.reach r with st := .absent } with
        cfg := { s.cfg with
          reaches := s.cfg.reaches.filter (·.id != r), tiles := s.cfg.tiles.filter (·.reach != r),
          chains := s.cfg.chains.filter (·.reach != r) }
        glb := { s.glb with reachDone := s.glb.reachDone || s.glb.reachRuns == r } }) ∧
      ((s.reach r).st ≠ .removing → exec (.removeReachDone r) s = .next s) ∧
      ((s.reach r).st = .resetting → ∀ p, exec (.blockResetComplete (.reach r) p) s =
        .next { s.setReach r { s.reach r with st := .quiesced } with
          glb := { s.glb with reachDone := s.glb.reachDone || s.glb.reachRuns == r } })) ∧
    (∀ vf : Nat, (s.fn vf).resetting = true → ∀ p, exec (.blockResetComplete (.vf vf) p) s =
      .next { s.setFn vf { s.fn vf with resetting := false } with
        glb := { s.glb with vfDone := s.glb.vfDone || s.glb.vfRuns == vf } }) ∧
    (∀ (c : NodeClass) (x : ResetTarget) (i : Nat), (c, x) ∈ [(NodeClass.pt, ResetTarget.pt i), (.ht, .ht i), (.bnu, .bnu i),
        (.cu, .cu i), (.cc, .cc i)] → i < classCount c → (s.tile (tkey c i)).st = .resetting →
      (Answers (.blockResetComplete x []) s fun t =>
        t.tile (tkey c i) = { Tile.reset with
          epoch := (s.tile (tkey c i)).epoch + 1, st := .idle, romBad := (s.tile (tkey c i)).romBad } ∧
        (∀ k, k ∉ unitKeys c i → t.tile k = s.tile k)) ∧
      (Answers (.blockResetComplete x [tkey c i]) s fun t =>
        (t.tile (tkey c i)).st = .disabled ∧ (t.source (0x100 + 32 * basinOf c i + 4)).pending = true)) ∧
    (∀ b : Nat, s.basin b = .resetting → ((basinUnits b).any fun u => (s.tile (tkey u.1 u.2)).st != .disabled &&
        (s.tile (tkey u.1 u.2)).st != .failed && !bitOf (s.rst.disabled u.1) u.2) = true →
      Answers (.blockResetComplete (.basin b) []) s fun t =>
        t.basin b = .drained ∧ t.rst.blkDone = (s.rst.blkDone || s.rst.blkRuns == some (.basin b))) ∧
    (∀ b : Nat, s.basin b = .resetting → Answers (.blockResetComplete (.basin b) ((basinUnits b).map fun u => tkey u.1 u.2)) s
      fun t => t.basin b = .disabled ∧ t.rst.blkDone = (s.rst.blkDone || s.rst.blkRuns == some (.basin b))))

/-! ## The Sluice -/

/-- R95, R96: an SQ or CQ doorbell is taken when its value lies in the ring ahead of what the queue holds, and otherwise
sets DB_ERR and moves no pointer. R97: a fetch reads at most 32 pending entries of the next queue in the round robin,
none beyond the ring's end. -/
def Obligations.DoorbellsAndFetches : Prop :=
  (
  ∀ (s : State) (fn q v : Nat), s.hostOpen = true → s.doorbellOpen fn q = true →
    let x := s.queue (qkey fn q)
    (v < 2 ^ x.sqLog2 → x.pending ≤ modSub v x.head (2 ^ x.sqLog2) → v ≠ x.tail →
      exec (.sqDoorbell fn q v) s =
        .next (s.setQueue (qkey fn q) { x with tail := v, doorbells := x.doorbells ++ [(v, s.now)] })) ∧
    (v < 2 ^ x.cqLog2 → modSub v x.cqHead (2 ^ x.cqLog2) ≤ modSub x.cqTail x.cqHead (2 ^ x.cqLog2) →
      exec (.cqDoorbell fn q v) s = .next (s.setQueue (qkey fn q) { x with cqHead := v })) ∧
    (2 ^ x.sqLog2 ≤ v ∨ modSub v x.head (2 ^ x.sqLog2) < x.pending → Answers (.sqDoorbell fn q v) s fun t =>
      t.queue (qkey fn q) = { x with dbErr := true } ∧ (∀ k, k ≠ qkey fn q → t.queue k = s.queue k) ∧
      Keeps (.queues :: eventParts) s t) ∧
    (2 ^ x.cqLog2 ≤ v ∨ modSub x.cqTail x.cqHead (2 ^ x.cqLog2) < modSub v x.cqHead (2 ^ x.cqLog2) →
      Answers (.cqDoorbell fn q v) s fun t =>
        t.queue (qkey fn q) = { x with dbErr := true } ∧ (∀ k, k ≠ qkey fn q → t.queue k = s.queue k) ∧
        Keeps (.queues :: eventParts) s t)) ∧
  (
  ∀ (s : State) (k : Nat) (x : Queue), s.alive = true → s.intakeOpen = true → s.nextFetch = some (k, x) →
    exec .sqFetch s = .next { s.setQueue k { x with fetching := min 32 (min x.pending (2 ^ x.sqLog2 - x.head)) } with
      weir := { s.weir with nextQueue := k + 1 } } ∧
    x.enable = true ∧ 0 < x.pending ∧ s.fetchOpen (k / 64) = true)

/-- R106, R111: an entry that arrives and finds a reorder token becomes an outstanding job, HEAD passes it, and the
first failing check ends it with that check's status and number. R119, R111: an SQ entry that cannot be read disables
its queue; one that finds no token leaves the queue in TOKEN_WAIT, until TOKEN_AVAILABLE finds room in the pool. R104,
R106: what one streamed read does to a job that has no status yet. R290, R304: IMPORT_WRAPPED meets its checks on the blob, and reserves its slot, when the whole
blob has arrived; no entry holds a blob that passes them. -/
def Obligations.EntriesArriveAndStream : Prop :=
  (
  ∀ (s : State) (fn q : Nat) (a : Arrival) (r : Nat) (x : ReachRec), s.alive = true → s.rst.sluiceStopped = false →
    s.cfg.reachOf fn = some r → s.cfg.reach r = some x → (s.queue (qkey fn q)).fetching = 1 → a.slotErr = false →
    let qu := s.queue (qkey fn q)
    let j := newJob s.weir.nextJob fn q x.id qu.coveredAt (parseEntry a.slot) a
    let u : State := { (s.setQueue (qkey fn q) { qu with fetching := 0 }).setQueue (qkey fn q)
        (Queue.advance { qu with fetching := 0 }) with weir := { s.weir with nextJob := s.weir.nextJob + 1 } }
    let whole : Prop := s.opOfJob j = some (.importWrapped, 0) ∧ (j.entry.inline = true ∨ j.entry.inLen = 0)
    s.tokenFor j = true → (∀ i ∈ s.jobs, i.id < s.weir.nextJob) →
    Answers (.entryArrival fn q [a]) s fun t =>
      t.queue (qkey fn q) = { qu with
        fetching := 0, head := (qu.head + 1) % 2 ^ qu.sqLog2,
        doorbells := qu.doorbells.filter fun d => d.1 != (qu.head + 1) % 2 ^ qu.sqLog2 } ∧
      (∀ k, k ≠ qkey fn q → t.queue k = s.queue k) ∧ t.weir.nextJob = s.weir.nextJob + 1 ∧
      (∃ y, t.job s.weir.nextJob = some y ∧ y.entry = j.entry ∧ y.token = true ∧
        (∀ st n, u.entryChecks x j.entry a = .error (st, n) →
          y.st = .ended ∧ y.status = some st ∧ y.detail = n ∧ t.slots = s.slots) ∧
        (whole → y.st = .ended ∧ y.reserved = none) ∧
        (¬ whole → t.jobs = s.jobs ++ [y] ∧ t.weir = { s.weir with nextJob := s.weir.nextJob + 1 } ∧
          Keeps [.queues, .jobs, .weir, .kst, .slots, .hbm] s t)) ∧
      Keeps (.queues :: .kst :: .slots :: jobParts) s t) ∧
  (
  ∀ (s : State) (fn q : Nat) (a : Arrival) (r : Nat) (x : ReachRec), s.alive = true → s.rst.sluiceStopped = false →
    s.cfg.reachOf fn = some r → s.cfg.reach r = some x → (s.queue (qkey fn q)).fetching = 1 →
    let qu := s.queue (qkey fn q)
    (a.slotErr = true → Answers (.entryArrival fn q [a]) s fun t =>
      (t.queue (qkey fn q)).enable = false ∧ (t.queue (qkey fn q)).fetchErr = true ∧
      (t.queue (qkey fn q)).head = qu.head ∧ Keeps queueParts s t) ∧
    (a.slotErr = false →
      s.tokenFor (newJob s.weir.nextJob fn q x.id qu.coveredAt (parseEntry a.slot) a) = false →
      Answers (.entryArrival fn q [a]) s fun t =>
        t.queue (qkey fn q) = { qu with fetching := 0, tokenWait := some (parseEntry a.slot).flowKey } ∧
        (∀ k, k ≠ qkey fn q → t.queue k = s.queue k) ∧ Keeps [.queues] s t) ∧
    (∀ flow, qu.tokenWait = some flow → s.tokenFree fn q r flow = true →
      exec (.tokenAvailable fn q) s = .next (s.setQueue (qkey fn q) { qu with tokenWait := none })) ∧
    (∀ flow, qu.tokenWait = some flow → s.tokenFree fn q r flow = false → exec (.tokenAvailable fn q) s = .next s)) ∧
  (
  ∀ (s : State) (j : Job), s.alive = true → s.job j.id = some j → j.status = none →
    let moves (r : StreamRead) (y : Job) : Prop :=
      (s.opOfJob j = some (.importWrapped, 0) ∧ y.inputReady = true ∧ j.reserved = none → match s.importChecks y with
        | .ok w => exec (.inputStreamRead j.id r) s =
            .next ((s.setJob { y with reserved := some j.entry.slot }).setSlot j.entry.slot
              (reservedSlot w (blobPubOnly y.input)))
        | .error (st, d) => Answers (.inputStreamRead j.id r) s fun t =>
            JobEnds j st d [] t ∧ Keeps (.slots :: jobParts) s t) ∧
      (s.opOfJob j ≠ some (.importWrapped, 0) ∨ y.inputReady = false ∨ j.reserved ≠ none →
        exec (.inputStreamRead j.id r) s = .next (s.setJob y))
    (∀ bs, moves (.data bs) { j with input := (j.input ++ bs).take j.entry.inLen }) ∧
    (∀ es fs last, j.inDone = false → tableOk es = some (fs, last) → (last = true ∨ j.inTables + 1 < 256) →
      j.inSum + fragSum fs ≤ j.entry.inLen → (last = true → j.inSum + fragSum fs = j.entry.inLen) →
      moves (.table es) { j with inSum := j.inSum + fragSum fs, inDone := last, inTables := j.inTables + 1 }) ∧
    (∀ es fs last, j.inDone = false → tableOk es = some (fs, last) → (last = true ∨ j.inTables + 1 < 256) →
      (j.entry.inLen < j.inSum + fragSum fs ∨ (last = true ∧ j.inSum + fragSum fs ≠ j.entry.inLen)) →
      Answers (.inputStreamRead j.id (.table es)) s fun t =>
        JobEnds j .lengthMismatch 8 [] t ∧ Keeps (.slots :: jobParts) s t) ∧
    (∀ es, j.inDone = false → tableOk es = none → Answers (.inputStreamRead j.id (.table es)) s fun t =>
      JobEnds j .badParams 7 [] t ∧ Keeps (.slots :: jobParts) s t) ∧
    (j.committed = false → s.committedNode j.id = none → Answers (.inputStreamRead j.id .busError) s fun t =>
      JobEnds j .busError 0 [] t ∧ Keeps (.slots :: jobParts) s t))

/-- R107, R109, R111, R112: JOB_RETIRE of a job with COMP_REQ, with no open run of its flow and room in its CQ, answers a next
state: its output and its completion entry, at the tail of the CQ, are written, and it is outstanding no longer; one that a
node past its COMMIT still serves stays, covered, until that node ends (R126). CQ_SPACE_AVAILABLE answers one in which a
completion that waited for room is written. The 32 bytes of the entry are laid out as R107 says. R118, R120, R113: SLU_Q
ENABLE, QUEUE_RESET and SLU_Q ABORT of a queue that its function is granted answer a next state, whatever the queue holds. -/
def Obligations.CompletionsAndQueueControl : Prop :=
  (
  (∀ (s : State) (j : Job), s.alive = true → s.rst.sluiceStopped = false → s.job j.id = some j → j.forPeer = none →
    s.mayRetire j = true → j.entry.compReq = true → (s.runs.find? fun r => r.ofJob j) = none →
    (s.fn j.fn).d3hot = false → (s.queue (qkey j.fn j.q)).waiting = [] → (s.queue (qkey j.fn j.q)).full = false →
    let x := s.queue (qkey j.fn j.q)
    Answers (.jobRetire j.id) s fun t =>
      Out.completion j.fn j.q x.cqTail ((j.completion none).bytes x.head s.now x.phase) ∈ t.tx ∧
      ((j.status.getD .ok).success = true → ∀ p ∈ layOut j.outBufs j.output, s.dataWrite j.fn p ∈ t.tx) ∧
      (s.runsNode j.id = false → ∀ y ∈ t.jobs, y.id ≠ j.id) ∧
      (s.runsNode j.id = true → (t.job j.id).map Job.st = some .covered) ∧
      t.queue (qkey j.fn j.q) = { x with
        cqTail := (x.cqTail + 1) % 2 ^ x.cqLog2,
        phase := if (x.cqTail + 1) % 2 ^ x.cqLog2 = 0 then !x.phase else x.phase } ∧
      Keeps (.fwu :: queueParts) s t) ∧
  (∀ (s : State) (fn q : Nat) (w : Waiting), s.alive = true → s.rst.sluiceStopped = false →
    (s.queue (qkey fn q)).waiting = [w] → (s.queue (qkey fn q)).full = false → (s.fn fn).d3hot = false →
    let x := s.queue (qkey fn q)
    Answers (.cqSpaceAvailable fn q) s fun t =>
      Out.completion fn q x.cqTail (w.comp.bytes x.head s.now x.phase) ∈ t.tx ∧
      (t.queue (qkey fn q)).waiting = [] ∧ (t.queue (qkey fn q)).cqFull = false ∧
      (∀ y ∈ t.jobs, y.id ∈ w.comp.jobs → s.runsNode y.id = true ∧ y.st = .covered) ∧ Keeps queueParts s t) ∧
  (∀ (c : Completion) (head now : Nat) (phase : Bool),
    let b := c.bytes head now phase
    b.length = 32 ∧ fieldLe b 0 2 = c.cid % 65536 ∧ fieldLe b 2 2 = c.status % 65536 ∧
    fieldLe b 4 2 = head % 65536 ∧ fieldLe b 8 4 = c.jobs.length % 2 ^ 32 ∧
    fieldLe b 12 4 = c.outLen % 2 ^ 32 ∧ fieldLe b 16 4 = c.detail % 2 ^ 32 ∧
    fieldLe b 20 4 = min 0xFFFFFFFF ((now - c.doorbellNs) / 1000) ∧
    bitOf (fieldLe b 28 4) 0 = phase ∧ bitOf (fieldLe b 28 4) 1 = c.lbm ∧ bitOf (fieldLe b 28 4) 2 = c.spilled ∧
    bitOf (fieldLe b 28 4) 3 = c.closed)) ∧
  (
  ∀ (s : State) (fn q : Nat), s.hostOpen = true → s.granted fn q = true →
    let k := qkey fn q
    let x := s.queue k
    (x.enable = false → s.resumeBlocked ((s.cfg.reachOf fn).getD 0) = false → x.valid = true →
      exec (.sluQEnable fn q true) s = .next (s.setQueue k { x with enable := true, result := 0 })) ∧
    (x.enable = false → s.resumeBlocked ((s.cfg.reachOf fn).getD 0) = false → x.valid = false →
      exec (.sluQEnable fn q true) s = .next (s.setQueue k { x with result := 0x0103 })) ∧
    (x.enable = false → s.resumeBlocked ((s.cfg.reachOf fn).getD 0) = true →
      exec (.sluQEnable fn q true) s = .next (s.setQueue k { x with result := 0x0109 })) ∧
    (x.enable = true → exec (.sluQEnable fn q true) s = .next (s.setQueue k { x with result := 0 })) ∧
    (Answers (.sluQEnable fn q false) s fun t =>
      (t.queue k).enable = false ∧ (t.queue k).fetching = 0 ∧ (t.queue k).result = 0 ∧ (t.queue k).head = x.head ∧
      Keeps queueParts s t) ∧
    (x.enable = false → s.outstanding fn q = 0 → s.rst.fenced = false →
      s.commitNames ((s.cfg.reachOf fn).getD 0) = false → Answers (.queueReset fn q) s fun t =>
      (t.queue k).head = 0 ∧ (t.queue k).tail = 0 ∧ (t.queue k).cqHead = 0 ∧ (t.queue k).cqTail = 0 ∧
      (t.queue k).phase = true ∧ (t.queue k).result = 0 ∧ (t.queue k).sqBase = x.sqBase ∧
      (t.queue k).cqBase = x.cqBase ∧ (∀ i, i ≠ k → t.queue i = s.queue i) ∧ Keeps [.queues] s t) ∧
    (x.enable = true ∨ s.outstanding fn q ≠ 0 ∨ s.rst.fenced = true ∨
        s.commitNames ((s.cfg.reachOf fn).getD 0) = true →
      exec (.queueReset fn q) s = .next (s.setQueue k { x with result := 0x0109 })) ∧
    (∀ all cid, (∀ j ∈ s.jobs, j.fn = fn → j.q = q → j.forPeer = none → all = false ∧ j.entry.cid ≠ cid) →
      exec (.sluQAbort fn q all cid) s = .next (s.setQueue k { x with result := 0x0103 })) ∧
    (∀ all cid, (∃ j ∈ s.jobs, j.fn = fn ∧ j.q = q ∧ j.forPeer = none ∧ (all = true ∨ j.entry.cid = cid)) →
      Answers (.sluQAbort fn q all cid) s fun t =>
        t.queue k = { x with result := 0 } ∧ (∀ i, i ≠ k → t.queue i = s.queue i) ∧
        (∀ j ∈ s.jobs, j.fn ≠ fn ∨ j.q ≠ q ∨ j.forPeer ≠ none → (∀ i ∈ s.jobs, i.id = j.id → i = j) →
          t.job j.id = some j) ∧
        Keeps (.queues :: .slots :: jobParts) s t))

/-! ## The Weir -/

/-- R129, R130, R140, R200: admission of a fetched job that no FENCE holds back, that is not spilled, and that waits for no
basin under a reset. A reach without RATE_LIMIT, or whose bucket holds a job's worth, lets it pass to its basin; an empty
bucket makes it wait. R131: a template is placed whole when its basin has node entries for all of it, and waits
otherwise. -/
def Obligations.AdmissionAndPlacement : Prop :=
  (
  ∀ (s : State) (j : Job) (x : ReachRec), s.alive = true → s.job j.id = some j → j.st = .fetched → j.status = none →
    s.fenceBlocks j = false → j.abortLate = false → s.spillable j = false → s.basinWait j = false →
    s.cfg.reach j.reach = some x →
    (∀ u : State,
      ((x.rateLimit = 0 ∨ j.paid = true) ∧ u = s ∨
        x.rateLimit ≠ 0 ∧ j.paid = false ∧ jobUnit ≤ s.bucketAt j.reach s.now ∧ u = s.takeToken j.reach) →
      ((s.templateFor j).1 = [] →
        exec (.jobAdmit j.id) s = .next (u.setJob { j with paid := true, st := .running })) ∧
      (∀ b, (s.templateFor j).1 ≠ [] → s.homeBasin j = some b → s.delayEnd j ≤ s.now ∨ j.entry.delay = 0 →
        exec (.jobAdmit j.id) s = .next (u.setJob { j with paid := true, basin := b, st := .admitted })) ∧
      (∀ b, (s.templateFor j).1 ≠ [] → s.homeBasin j = some b → j.entry.delay ≠ 0 → s.now < s.delayEnd j →
        s.listRoom b 0 j.reach = true →
        exec (.jobAdmit j.id) s = .next (u.setJob { j with paid := true, basin := b, st := .delayed })) ∧
      (∀ b, (s.templateFor j).1 ≠ [] → s.homeBasin j = some b → j.entry.delay ≠ 0 → s.now < s.delayEnd j →
        s.listRoom b 0 j.reach = false → Answers (.jobAdmit j.id) s fun t =>
          t.job j.id = some { j with paid := true, basin := b, st := .delayPend, listSeq := s.weir.listSeq } ∧
          t.weir = { s.weir with delayOvf := true, listSeq := s.weir.listSeq + 1 } ∧
          Keeps ([.jobs, .weir, .reaches] ++ eventParts) s t) ∧
      ((s.templateFor j).1 ≠ [] → s.homeBasin j = none → Answers (.jobAdmit j.id) s fun t =>
        JobEnds j .badOpcode 0 [] t ∧ Keeps ([.slots, .reaches] ++ jobParts) s t)) ∧
    (x.rateLimit ≠ 0 → j.paid = false → s.bucketAt j.reach s.now < jobUnit →
      (s.deviceOpen = true → exec (.jobAdmit j.id) s = .next { s.setJob { j with
          st := .rateWait, listSeq := s.weir.listSeq } with weir := { s.weir with listSeq := s.weir.listSeq + 1 } }) ∧
      (s.deviceOpen = false → exec (.jobAdmit j.id) s = .next { s.setJob { j with
          st := .ratePend, listSeq := s.weir.listSeq } with
        weir := { s.weir with delayOvf := true, listSeq := s.weir.listSeq + 1 } }))) ∧
  (
  ∀ (s : State) (j : Job), s.alive = true → s.job j.id = some j → j.st = .admitted → j.status = none →
    let ns := (s.templateFor j).1
    (s.nodesUsed j.basin + ns.length ≤ 16384 → Answers (.templateInstantiate j.id) s fun t =>
      Keeps weirParts s t ∧
      ∃ y, t.job j.id = some y ∧ y.nodes.map Node.info = ns ∧ y.basin = j.basin ∧ y.nodeWait = false ∧
        (y.st = .running ∨ y.st = .ended)) ∧
    (16384 < s.nodesUsed j.basin + ns.length → Answers (.templateInstantiate j.id) s fun t =>
      t.job j.id = some { j with nodeWait := true } ∧ t.instWaits = true ∧ Keeps (.jobs :: eventParts) s t ∧
      (s.instWaits = false → j.basin < 8 → (t.source (0x100 + 32 * j.basin + 8)).pending = true) ∧
      (s.instWaits = true → t = s.setJob { j with nodeWait := true })))

/-- R134, R146, R222, R230, R254: a free engine takes the node that arbitration chooses when the node knows the engine under
its epoch: every tile of a chain takes it, an HT on the unit for its hash, a BNU once its span is there. A node that names
an old epoch, or whose engine is out of use with no other left to its reach, is refused, counted, and waits one tick. R177,
R183: a node of a job with a key loads the key first (log entry 92), but for one whose public value is validated before that
(R260). R239: a saved record that names another reach or job counts a restart. R126, R127: a built-in node that has drawn its
masks completes after its COMMIT and gives up its engine; the one that writes the output does not complete before its job's
commit point, and the last one of the ML-DSA signing loop arms the loop again. -/
def Obligations.DispatchAndNodeCompletion : Prop :=
  (
  ∀ (s : State) (c : NodeClass) (i : Nat), s.alive = true → s.engineFree c i = false →
    (s.engineUsable (tkey c i) = true ∨ firstCand (s.stranded (tkey c i)) = none →
      exec (.nodeDispatch c.code i) s = .next s) ∧
    (∀ (x : Cand) (j : Job) (n : Node), s.engineUsable (tkey c i) = false →
      firstCand (s.stranded (tkey c i)) = some x → s.job x.job = some j → j.node x.idx = some n →
      s.listRoom j.basin 2 j.reach = true → Answers (.nodeDispatch c.code i) s fun t =>
        (t.reach j.reach).stale = satAdd 0xFFFFFFFF (s.reach j.reach).stale 1 ∧
        t.jobs = (s.setJob (j.setNode x.idx
          { n with st := .backoff (s.tickEnd (s.now + s.cfg.device.tickNs)), resolved := [] })).jobs ∧
        Keeps [.reaches, .jobs] s t)) ∧
  (
  ∀ (s : State) (c : NodeClass) (i : Nat), s.alive = true → s.engineFree c i = true →
    ((s.chooseNode c i (s.engineBasin c i)).1 = none → exec (.nodeDispatch c.code i) s = .next s) ∧
    (∀ (x : Cand) (u : State) (j : Job) (n : Node), s.chooseNode c i (s.engineBasin c i) = (some x, u) →
      u.job x.job = some j → j.node x.idx = some n →
      let epoch := if c = .ptChain then tget 0 u.chainEpoch i else (u.tile (tkey c i)).epoch
      (∀ k : Nat, (tkey c i, epoch) ∈ n.resolved →
        (c = .ht ∧ (∃ w, u.unitFor i j n = some w ∧ k = laneKey i w)) ∨
          (c = .bnu ∧ (u.spanFor i j x.idx).isSome = true ∧ k = tkey c i) ∨
          (c ∉ [NodeClass.ht, .bnu] ∧ k = tkey c i) →
        j.entry.keyValid = false ∨ (u.opOfJob j).any (fun o => o.1.validatesFirst) = true ∨
          (j.keyCopy = none ∧ j.index = none ∧ j.keyGone = false ∧ (u.slot j.entry.slot).st = .live ∧
            ∃ o v, u.opOfJob j = some (o, v) ∧ o.loadsKey = true ∧ o.drawsIndex = false) →
        n.saved.all (fun r => r.reach == j.reach && r.tag == j.id) = true →
        Answers (.nodeDispatch c.code i) s fun t =>
          (∀ r ∈ u.occupied c i k n.info, (t.tile r).node = some (j.id, x.idx) ∧ (t.tile r).reach = j.reach ∧
            (t.tile r).st = .busy ∧ (t.tile r).order = u.orderOf j) ∧
          (∀ r, r ∉ u.occupied c i k n.info → (t.tile r).node = (s.tile r).node) ∧
          Keeps (.kst :: weirParts) s t ∧
          ∃ y m, t.job j.id = some y ∧ y.node x.idx = some m ∧ m.st = .running k ∧ y.firstDispatch = true ∧
            y.keyCopy = if j.entry.keyValid && !(u.opOfJob j).any (fun o => o.1.validatesFirst) then
              some (u.slot j.entry.slot) else j.keyCopy) ∧
      (∀ w : Nat, c = .ht → (tkey c i, epoch) ∈ n.resolved → u.unitFor i j n = some w → j.entry.keyValid = false →
        n.saved.any (fun r => r.reach != j.reach || r.tag != j.id) = true → n.restarts < u.weir.maxRestart →
        j.status = none → Answers (.nodeDispatch c.code i) s fun t =>
          Keeps (.kst :: weirParts) s t ∧
          ∃ y m, t.job j.id = some y ∧ y.node x.idx = some m ∧ m.restarts = n.restarts + 1 ∧ m.saved = none) ∧
      (c = .bnu → (tkey c i, epoch) ∈ n.resolved → u.spanFor i j x.idx = none →
        Answers (.nodeDispatch c.code i) s fun t =>
          t.job j.id = some (j.setNode x.idx { n with st := .spanWait (tkey .bnu i) }) ∧ Keeps [.jobs, .weir] s t) ∧
      ((tkey c i, epoch) ∉ n.resolved → u.listRoom j.basin 2 j.reach = true →
        Answers (.nodeDispatch c.code i) s fun t =>
          (t.reach j.reach).stale = satAdd 0xFFFFFFFF (u.reach j.reach).stale 1 ∧
          t.jobs = (u.setJob (j.setNode x.idx
            { n with st := .backoff (u.tickEnd (u.now + u.cfg.device.tickNs)), resolved := [] })).jobs ∧
          Keeps [.reaches, .jobs, .weir] s t))) ∧
  (
  ∀ (s : State) (j : Job) (i k : Nat) (n : Node), s.alive = true → s.job j.id = some j → j.node i = some n →
    n.st = .running k → n.info.customer (s.isOp j .ownerOpcode) = false → s.maskNeed j n.info ≤ n.drawn →
    j.status = none →
    (n.cycles ≠ 0 → (∀ x ∈ s.tiles, x.2.node = some (j.id, i) → s.tileCommitted x.1 = false) → ∀ again,
      exec (.nodeComplete j.id i again) s = .next s) ∧
    (n.cycles = 0 ∨ (∃ x ∈ s.tiles, x.2.node = some (j.id, i) ∧ s.tileCommitted x.1 = true) →
      some i ≠ j.nodes.findIdx? (fun m => m.info.output) ∨ j.committed = true →
      (∀ again, ¬ (i = 7 ∧ s.isOp j .mlDsaSign = true ∧ s.builtinJob j = true) ∨ (s.repeats j n = false ∧ again = false) →
        Answers (.nodeComplete j.id i again) s fun t =>
          (∀ r, (t.tile r).node ≠ some (j.id, i)) ∧ Keeps weirParts s t ∧
          ∃ y m, t.job j.id = some y ∧ y.node i = some m ∧ m.st = .done) ∧
      (i = 7 → s.isOp j .mlDsaSign = true → s.builtinJob j = true → s.repeats j n = true →
        Answers (.nodeComplete j.id i true) s fun t =>
          (∀ r, (t.tile r).node ≠ some (j.id, i)) ∧ Keeps weirParts s t ∧
          ∃ y, t.job j.id = some y ∧ ∀ a ∈ [5, 6, 7], ∀ m, j.node a = some m →
            ∃ m', y.node a = some m' ∧ m'.info = m.info ∧ m'.iter = m.iter + 1) ∧
      (∀ again, i = 7 → s.isOp j .mlDsaSign = true → s.builtinJob j = true → again ≠ s.repeats j n →
        exec (.nodeComplete j.id i again) s = .next s)) ∧
    (∀ again, some i = j.nodes.findIdx? (fun m => m.info.output) → j.committed = false →
      exec (.nodeComplete j.id i again) s = .next s))

/-- R136, R138, R139, R140, R143: releases by time: a DELAY that expires, a rate-limit token that the first waiting job
takes, a BNU slice, a frame slot, and an entry of a delay list, of a basin or of the DEVICE list, that the first waiting request
takes. R144, R146: when a
backoff ends the node is ready again, or its job ends BAD_OPCODE when the reach can use no engine for it any more. R141:
bytes that arrive end the ENTROPY-WAIT node that they were taken for; its timeout ends the job ENTROPY_UNAVAILABLE. -/
def Obligations.ReleasesBackoffAndEntropy : Prop :=
  (
  ∀ s : State, s.alive = true →
    (∀ j : Job, s.job j.id = some j → j.st = .delayed → exec (.timedRelease j.id) s =
      .next ({ s with now := max s.now (s.tickEnd (s.delayEnd j)) }.setJob { j with st := .admitted })) ∧
    (∀ r : Nat, (s.rateLimit r = 0 ∨ ∀ j ∈ s.jobs, j.reach = r → j.st ≠ .rateWait) →
      exec (.rateLimitRelease r) s = .next s) ∧
    (∀ (r b : Nat) (j : Job), s.rateLimit r ≠ 0 →
      (s.firstListed fun y => y.reach == r && y.st == .rateWait) = some j → s.basinWait j = false →
      let u : State := { s with now := max s.now (s.tickEnd (s.tokenAt r)) }
      u.spillable { j with st := .fetched, paid := true } = false → (s.templateFor j).1 ≠ [] → s.homeBasin j = some b →
      j.entry.delay = 0 → exec (.rateLimitRelease r) s =
        .next ((u.takeToken r).setJob { j with paid := true, basin := b, st := .admitted })) ∧
    (∀ u : Nat, (s.tile (tkey .bnu u)).node.isSome = true → exec (.bnuSliceExpiry u) s =
      .next ({ s with now := max s.now (s.tickEnd ((s.tile (tkey .bnu u)).sliceAt + 1000 * max 1 s.weir.sliceUs)) }.setTile
        (tkey .bnu u) { s.tile (tkey .bnu u) with sliceOver := true })) ∧
    (s.weir.frameRun = true → s.cfg.device.frameUs ≠ 0 → Answers .frameSlotStart s fun t =>
      t.now = s.slotStart (s.slotNo + 1) ∧ t.weir.slot = (s.slotNo + 1) % 64 ∧
      Keeps (.now :: weirParts) s t) ∧
    (s.weir.frameRun = false ∨ s.cfg.device.frameUs = 0 → exec .frameSlotStart s = .next s) ∧
    (∀ (b : Nat) (r : ListReq) (j : Job), r ∈ s.listReqs → s.entryServes b r = true →
      (∀ q ∈ s.listReqs, s.entryServes b q = true → q = r ∨ r.seq < q.seq) → s.job r.job = some j →
      (r.node = none → j.st = .delayPend → exec (.delayEntryFreed b) s =
        .next (s.setJob { j with st := if s.delayEnd j ≤ s.now then .admitted else .delayed })) ∧
      (r.node = none → j.st = .ratePend → exec (.delayEntryFreed b) s = .next (s.setJob { j with st := .rateWait })) ∧
      (r.node = none → j.st = .spilled → exec (.delayEntryFreed b) s =
        .next (s.setJob { j with spillAt := some s.now })) ∧
      (∀ i n d q, r.node = some i → j.node i = some n → n.st = .listWait true d q → exec (.delayEntryFreed b) s =
        .next (s.setJob (j.setNode i { n with st := .entropyWait (s.now + d) }))) ∧
      (∀ i n d q, r.node = some i → j.node i = some n → n.st = .listWait false d q → exec (.delayEntryFreed b) s =
        .next (s.setJob (j.setNode i { n with st := .backoff (s.tickEnd (s.now + d)) })))) ∧
    (∀ b : Nat, (∀ r ∈ s.listReqs, s.entryServes b r = false) → exec (.delayEntryFreed b) s = .next s)) ∧
  (
  ∀ (s : State) (j : Job) (i d : Nat) (n : Node), s.alive = true → s.job j.id = some j → j.node i = some n →
    n.st = .backoff d → j.status = none → n.info.cls ≠ .entropyWait →
    (s.stillUsable j n = true → Answers (.backoffExpiry j.id i) s fun t =>
      t.now = max s.now d ∧ Keeps [.now, .jobs, .weir] s t ∧
      ∃ y m, t.job j.id = some y ∧ y.node i = some m ∧ m.st = .ready ∧ m.info = n.info ∧ m.restarts = n.restarts) ∧
    (s.stillUsable j n = false → Answers (.backoffExpiry j.id i) s fun t =>
      t.now = max s.now d ∧ JobEnds j (if j.committed then .faultAfterCommit else .badOpcode) 0 [] t ∧
      Keeps ([.now, .slots] ++ jobParts) s t)) ∧
  (
  ∀ (s : State) (j : Job), s.alive = true → s.job j.id = some j → j.status = none →
    (∀ i, j.nodes.findIdx? Node.served = some i → s.springDown = false → Answers (.entropyWaitDelivered j.id) s fun t =>
      t.spr.transfers = s.spr.transfers - 1 ∧ Keeps weirParts s t ∧
      ∃ y m, t.job j.id = some y ∧ y.rnd = j.rnd ∧ y.node i = some m ∧ m.st = .done) ∧
    (j.nodes.findIdx? Node.served = none → exec (.entropyWaitDelivered j.id) s = .next s) ∧
    (∀ d, j.entropyEnd = some d → Answers (.entropyWaitTimeout j.id) s fun t =>
      t.now = max s.now (s.tickEnd d) ∧
      JobEnds j (if j.committed then .faultAfterCommit else .entropyUnavailable) 0 [] t ∧
      Keeps ([.now, .slots] ++ jobParts) s t))

/-- R143, R238, R254, R257, R331: a yield point at which no more urgent node asks for the engine, and after which the node's
next segment ends within its slot, only starts the slice anew; at another one the node gives up the engine and can resume. A
node past its COMMIT, a customer routine, and one that stands at a word without YP do not yield. The first node of a reach that
waits for a span on a unit is ready once it finds one. -/
def Obligations.YieldPointsAndSpans : Prop :=
  ∀ (s : State) (c : NodeClass) (i idx : Nat) (j : Job) (n : Node), s.alive = true →
    s.job j.id = some j → j.node idx = some n →
    (∀ k : Nat, (c = .bnu ∧ k = tkey .bnu i) ∨ (c = .ht ∧ k = laneKey (i % 4096) (i / 4096)) →
      (s.tile k).node = some (j.id, idx) →
      let saved : SavedCtx := { seqr := (s.tile k).seqr, mem := (s.tile k).mem, written := (s.tile k).written,
                                reach := j.reach, tag := j.id }
      let due := (if c = .ht then s.htYields k j else s.bnuYields (keyIndex k) j) || s.slotYields c k j idx
      (s.tileCommitted k = true ∨ n.info.customer false = true ∨ s.atYield c k n = false →
        exec (.yieldPoint c.code i) s = .next s) ∧
      (s.tileCommitted k = false → n.info.customer false = false → s.atYield c k n = true → due = false →
        exec (.yieldPoint c.code i) s = .next (s.setTile k { s.tile k with sliceAt := s.now })) ∧
      (s.tileCommitted k = false → n.info.customer false = false → s.atYield c k n = true → due = true →
        Answers (.yieldPoint c.code i) s fun t =>
          (t.tile k).node = none ∧ (t.tile k).yields = satAdd 0xFFFFFFFF (s.tile k).yields 1 ∧
          t.job j.id = some (j.setNode idx { n with st := .yielded k, ctx := .lane, saved := some saved }) ∧
          Keeps ([.jobs, .weir, .tiles, .cores] ++ eventParts) s t)) ∧
    (∀ (x : Cand) (u : State), firstReady (s.spanReady i) = some x → x.job = j.id → x.idx = idx →
      s.takeSpan i j.reach j.id idx (s.needOf j) = some u → Answers (.bnuSpanGrant i) s fun t =>
        t.spans = u.spans ∧ t.job j.id = some (j.setNode idx { n with st := .ready }) ∧
        Keeps [.jobs, .spans] s t) ∧
    (s.spanReady i = [] → exec (.bnuSpanGrant i) s = .next s)

/-- R81, R148, R383: a SPILL that names a serving SHARED reach under its epoch and owner is taken as a job of this
device while the backlog is not above the threshold; one under another epoch or of another owner is refused with STALE_ROLE
and counted. The status of the other refusals, and the form of an abort, are the model's choice (log entries 84 and 88). R147,
R148: the result of a spilled job ends it with the peer's status and SPILLED, or OUTPUT_TOO_SMALL when its output is beyond the
job's buffers (R105); the timer brings it home, and it is not offered again. -/
def Obligations.SpillingAndItsReturn : Prop :=
  (
  ∀ (s : State) (p : Nat) (m : SpillMsg) (x : ReachRec), s.alive = true → (s.port p).st = .up → s.rst.fenced = false →
    s.lev.fenced = false → m.abort = false → s.cfg.reach m.reach = some x →
    ((s.reach m.reach).epoch.toNat = m.epoch → x.ownerDigest = m.ownerDigest →
      ((s.reach m.reach).st = .serving → x.strict = false → s.backlog ≤ s.spillThreshold →
        s.spillKeyOk (parseEntry m.slot) m.keyId = true → exec (.spill p m) s = .next { s with
          jobs := s.jobs ++ [peerJob s.weir.nextJob p s.now m]
          weir := { s.weir with nextJob := s.weir.nextJob + 1, spillIn := satAdd 0xFFFFFFFF s.weir.spillIn 1 } }) ∧
      ((s.reach m.reach).st ≠ .serving ∨ x.strict = true ∨ s.spillThreshold < s.backlog → Answers (.spill p m) s fun t =>
        Keeps [.cfl, .tx] s t ∧ t.cfl.staleIn = s.cfl.staleIn ∧ ∃ dev body, t.tx = s.tx ++ [Out.frame p 0x07 dev body])) ∧
    ((s.reach m.reach).epoch.toNat ≠ m.epoch ∨ x.ownerDigest ≠ m.ownerDigest → Answers (.spill p m) s fun t =>
      t.cfl.staleIn = satAdd 0xFFFFFFFF s.cfl.staleIn 1 ∧ Keeps [.cfl, .tx] s t ∧
      ∃ dev body, t.tx = s.tx ++ [Out.frame p 0x07 dev body])) ∧
  (
  ∀ (s : State) (p : Nat) (m : SpillMsg) (j : Job), s.alive = true → (s.port p).st = .up → s.rst.fenced = false →
    s.lev.fenced = false → m.abort = true → (s.jobs.find? fun y => y.forPeer == some (p, m.seq)) = some j →
    s.job j.id = some j → j.st ∉ [.spilled, .ended, .retired] → j.status = none → j.committed = false →
    Answers (.spill p m) s fun t => JobEnds j .aborted 0 [] t ∧ Keeps (.slots :: jobParts) s t) ∧
  (
  ∀ (s : State) (j : Job), s.alive = true → s.job j.id = some j → j.st = .spilled → j.status = none →
    (∀ code st detail out, statusOf code = some st → j.abortLate = false →
      let tooLong : Bool := st.success && (j.outBufs.map Prod.snd).sum < out.length
      Answers (.spillResult j.id code detail out) s fun t =>
        (tooLong = false → JobEnds j st detail (if st.success then out else []) t) ∧
        (tooLong = true → JobEnds j .outputTooSmall 0 [] t) ∧
        (∀ y, t.job j.id = some y → y.wasSpilled = true) ∧ Keeps (.slots :: jobParts) s t) ∧
    (∀ a : Nat, j.spillAt = some a →
      let u : State := { s with now := max s.now (s.tickEnd (a + 10000000)) }
      let y : Job := { j with st := .fetched, noSpill := true, spillAt := none }
      (j.abortLate = true → Answers (.spillTimerExpiry j.id) s fun t =>
        t.now = u.now ∧ JobEnds j .aborted 0 [] t ∧ Keeps ([.now, .slots, .cfl] ++ jobParts) s t) ∧
      (j.abortLate = false → u.basinWait y = true → Answers (.spillTimerExpiry j.id) s fun t =>
        t.now = u.now ∧ t.job j.id = some y ∧ Keeps [.now, .jobs, .cfl] s t) ∧
      (∀ b, j.abortLate = false → u.basinWait y = false → (u.templateFor y).1 ≠ [] → u.homeBasin y = some b →
        u.delayEnd y ≤ u.now → Answers (.spillTimerExpiry j.id) s fun t =>
          t.now = u.now ∧ t.job j.id = some { y with basin := b, st := .admitted } ∧ Keeps [.now, .jobs, .cfl] s t)))

/-! ## Events and snapshots -/

/-- R458, R459, R460: the coalescing timer, the MASK bits and the MSI-X state of a function decide when a source's
message leaves; one that a closed vector holds back leaves when the vector opens. R461, R462, R463: TRIG_IN and CAPTURE
request a snapshot: with their source enabled TRIG_OUT rises, a request of an armed device in service freezes the
record, and one of a frozen device is counted. RELEASE clears FROZEN, and TRIG_OUT falls at its pulse's end. -/
def Obligations.EventsAndSnapshots : Prop :=
  (
  ∀ s : State,
    (∀ n : Nat, s.alive = true → (s.source n).unsent ≠ 0 → (s.source n).mask = false → (s.route n).timeUs ≠ 0 →
      let r := s.route n
      let at' : State := { s with now := max s.now ((s.source n).oldest + 1000 * r.timeUs) }
      (s.msixOpen r.fn r.vector = true → exec (.eventCoalTimer n) s =
        .next ((at'.sent (.msix r.fn r.vector)).setSource n { s.source n with unsent := 0 })) ∧
      (s.msixOpen r.fn r.vector = false → exec (.eventCoalTimer n) s =
        .next (at'.setFn r.fn { s.fn r.fn with pba := addOnce (s.fn r.fn).pba r.vector }))) ∧
    (∀ v : Nat, s.hostOpen = true → eventListed s.evt.sel = true →
      let e := s.source s.evt.sel
      let r := s.route s.evt.sel
      (bitOf v 31 = true ∨ e.mask = false ∨ e.unsent = 0 → exec (.eventMaskWrite 0 v) s =
        .next (s.setSource s.evt.sel { e with mask := bitOf v 31 })) ∧
      (bitOf v 31 = false → e.mask = true → e.unsent ≠ 0 → s.msixOpen r.fn r.vector = true →
        Answers (.eventMaskWrite 0 v) s fun t =>
          t.source s.evt.sel = { e with mask := false, unsent := 0 } ∧ t.tx = s.tx ++ [Out.msix r.fn r.vector] ∧
          (∀ n, n ≠ s.evt.sel → t.source n = s.source n) ∧ Keeps [.evt, .tx] s t)) ∧
    (∀ fn v : Nat, s.hostOpen = true → fn ≠ 0 → s.fnConfigured fn = false → exec (.eventMaskWrite fn v) s = .next s) ∧
    (∀ fn v : Nat, s.hostOpen = true → fn ≠ 0 → s.fnConfigured fn = true → Answers (.eventMaskWrite fn v) s fun t =>
      (∀ k ∈ s.vfSources fn, (t.source (0x300 + 4 * (s.cfg.reachOf fn).getD 0 + k)).mask = bitOf v k) ∧
      Keeps [.evt, .tx, .fns] s t) ∧
    (∀ (fn : Nat) (c : MsixChange), s.hostOpen = true → msixWithin fn c = false ∨ s.fnOpen fn = false →
      exec (.msixStateChange fn c) s = .next s) ∧
    (∀ (fn : Nat) (c : MsixChange), s.hostOpen = true → msixWithin fn c = true → s.fnOpen fn = true →
      Answers (.msixStateChange fn c) s fun t =>
      (t.fn fn).msixEnable = ((s.fn fn).msixChange c).msixEnable ∧ (t.fn fn).funcMask = ((s.fn fn).msixChange c).funcMask ∧
      (t.fn fn).vecOpen = ((s.fn fn).msixChange c).vecOpen ∧ (∀ n, n ≠ fn → t.fn n = s.fn n) ∧
      Keeps [.evt, .tx, .fns] s t ∧
      (∀ n, (s.source n).unsent ≠ 0 → (s.source n).mask = false → (s.route n).fn = fn →
        s.msixOpen fn (s.route n).vector = false → t.msixOpen fn (s.route n).vector = true →
        Out.msix fn (s.route n).vector ∈ t.tx ∧ (t.source n).unsent = 0 ∧ (s.route n).vector ∉ (t.fn fn).pba))) ∧
  (
  ∀ s : State,
    (∀ (c : Instr) (g : Trigger) (en : Bool), (c, g, en) ∈ [(Instr.trigIn, Trigger.pin, s.snp.enPin), (.capture, .command, s.snp.enCmd)] →
      s.alive = true → s.hostOpen = true →
      (en = false → exec c s = .next s) ∧
      (en = true → s.snp.broadcast = false → s.snp.frozen = true → exec c s = .next { s with
        pins := { s.pins with trigOut := true }
        snp := { s.snp with missed := satAdd 0xFFFFFFFF s.snp.missed 1 } }) ∧
      (en = true → s.snp.broadcast = false → s.snp.frozen = false → s.snp.arm = false ∨ s.rst.inService = false → exec c s = .next { s with
        pins := { s.pins with trigOut := true } }) ∧
      (en = true → s.snp.frozen = false → s.snp.arm = true → s.rst.inService = true → Answers c s fun t =>
        t.snp.frozen = true ∧ t.snp.sources = 2 ^ g.bit ∧ t.snp.captures = s.snp.captures + 1 ∧
        t.snp.record.stamp = s.stamp ∧ t.snp.record.sources = 2 ^ g.bit ∧ t.pins.trigOut = true ∧
        (t.source 0x058).pending = true ∧ Keeps eventParts s t ∧
        (s.snp.broadcast = true → ∀ p ∈ s.upPorts, ∃ body, Out.frame p 0x04 0xFFFF body ∈ t.tx))) ∧
    (s.hostOpen = true → exec .release s = .next { s with snp := { s.snp with frozen := false, sources := 0 } }) ∧
    exec .trigOutPulseEnd s = .next { s with pins := { s.pins with trigOut := false } })

/-! ## Reset and boot -/

/-- R420, R421, R422, R424, R425, R428, R437: a reset input, RST_CMD DEV_RESET, the watchdog and a critical error reset
a device of SMALL class at once, or after the pulse that is being burned; in LARGE class an internal source fences, once no
pulse and no block reset runs (R429; that RESET_HOLD_END ends that wait too is the model's choice, log entry 100). R413, R416, R421, R425, R494: the supply and the levels of the reset
pins; what was held or lost with them. -/
def Obligations.ResetSourcesAndSupply : Prop :=
  (
  ∀ s : State, s.rst.inReset = false → s.rst.heldCause = none →
    (∀ (c : Instr) (u : State) (cause : Nat),
      (c = .resetN ∧ s.rst.resetN = false ∧ s.rst.pwrgood = true ∧
          u = { s with rst := { s.rst with resetN := true } } ∧ cause = 2) ∨
        (c = .perstN ∧ s.rst.perstN = false ∧ s.rst.pwrgood = true ∧
          u = { s with rst := { s.rst with perstN := true } } ∧ cause = 4) ∨
        (c = .devReset 0xC1A5 ∧ s.hostOpen = true ∧ s.large = false ∧ s.cfg.policy.devResetEn = true ∧
          u = { s with rst := { s.rst with result := 0, done := true } } ∧ cause = 8) ∨
        (c = .watchdogExpiry ∧ s.rst.wdtArmed = true ∧ s.large = false ∧ u = s ∧ cause = 16) ∨
        (∃ n, c = .criticalError n ∧ 1 ≤ n ∧ n ≤ 6 ∧ s.large = false ∧ u = s ∧ cause = 32 + n * 256) →
      (∀ p, s.rst.pulse = some p → exec c s = .next { u with rst := { u.rst with heldCause := some cause } }) ∧
      (s.rst.pulse = none → Answers c s fun t =>
        ResetFrom u t ∧ (∀ k, bitOf cause k = true → bitOf t.ao.cause k = true) ∧
        (s.lev.unrun = 0 → s.rst.fenced = false → t.ao = { s.ao with
          cause := cause, base := if s.cfl.timeValid then s.clusterTime else s.ao.base + s.now }))) ∧
    (s.hostOpen = true → (∀ k, k ≠ 0xC1A5 → exec (.devReset k) s = .next s) ∧
      (s.large = true ∨ s.cfg.policy.devResetEn = false → exec (.devReset 0xC1A5) s =
        .next { s with rst := { s.rst with result := 0x0103, done := true } })) ∧
    (s.large = true → ∀ (c : Instr) (k cause : Nat),
      (c = .watchdogExpiry ∧ s.rst.wdtArmed = true ∧ k = 4 ∧ cause = 16) ∨
        (∃ n, c = .criticalError n ∧ 1 ≤ n ∧ n ≤ 6 ∧ k = 5 ∧ cause = 32 + n * 256) →
      (s.rst.pulse = none → s.blockBusy = false → s.rst.fenced = false → Answers c s fun t =>
        t.rst.fenced = true ∧ bitOf t.ao.cause k = true ∧ t.rst.inReset = false ∧ (t.source 0x050).pending = true ∧
        Keeps (.ao :: fenceParts) s t) ∧
      (s.rst.pulse ≠ none ∨ s.blockBusy = true → exec c s = .next { s with rst := { s.rst with
        heldFence := some (joinCause (s.rst.heldFence.getD 0) cause) } }))) ∧
  (
  ∀ s : State,
    (s.rst.pwrgood = false → ∀ a, exec (.pwrgoodAssert a) s = .next { s with
      rst := { s.rst with pwrgood := true }
      pins := { s.pins with addrSel := a % 4 }
      ao := { s.ao with onBattery := false, cause := joinCause s.ao.cause 1 } }) ∧
    (s.rst.pwrgood = true → ∀ a, exec (.pwrgoodAssert a) s = .next s) ∧
    (s.rst.pwrgood = true → Answers .pwrgoodDeassert s fun t =>
      (∃ u, ResetFrom (State.pulseEnd { s with rst := { s.rst with pwrgood := false } }) u ∧
        t = { u with ao := t.ao, pwr := Pwr.reset, pins := t.pins }) ∧
      t.pins.therm = false ∧ t.pins.addrSel = s.pins.addrSel ∧ t.rst.pwrgood = false ∧
      t.ao.onBattery = true ∧ t.ao.battRun = true ∧ bitOf t.ao.cause 0 = true) ∧
    (s.rst.pwrgood = false → exec .pwrgoodDeassert s = .next s) ∧
    (∀ c, s.rst.heldCause = some c → Answers .resetHoldEnd s fun t =>
      ResetFrom s.pulseEnd t ∧ ∀ k, k < 8 → bitOf c k = true → bitOf t.ao.cause k = true) ∧
    (∀ c, s.rst.heldCause = none → s.rst.heldFence = some c →
      (s.pulseEnd.blockBusy = true → exec .resetHoldEnd s = .next s.pulseEnd) ∧
      (s.pulseEnd.blockBusy = false → s.pulseEnd.rst.fenced = false → Answers .resetHoldEnd s fun t =>
        t.rst.fenced = true ∧ t.rst.heldFence = none ∧ (∀ k, k < 8 → bitOf c k = true → bitOf t.ao.cause k = true) ∧
        (t.source 0x050).pending = true ∧ Keeps ([.ao, .fuse, .lcs, .ledger, .fwu] ++ fenceParts) s t)) ∧
    (s.rst.heldCause = none → s.rst.heldFence = none → exec .resetHoldEnd s = .next s) ∧
    exec (.resetInputRelease .resetN) s = .next { s with rst := { s.rst with resetN := false } } ∧
    exec (.resetInputRelease .perstN) s = .next { s with rst := { s.rst with perstN := false } } ∧
    (s.rst.resetN = false → s.rst.pwrgood = false →
      exec .resetN s = .next { s with rst := { s.rst with resetN := true } }) ∧
    (s.rst.pwrgood = false → exec .alwaysOnStateLost s = .next { s with ao := { Ao.reset with lost := true, cause := 0 } }) ∧
    (s.rst.pwrgood = true → exec .alwaysOnStateLost s = .next s) ∧
    exec .bootCountAgeOut s = .next { s with ao := { s.ao with recent := s.ao.recent - 1 } })

/-- R430, R431, R433, R434: a boot that starts, or that goes on after a step it waited in, comes to rest: in reset again, in
SAFE_STANDBY, in service, or waiting in a step. -/
def Obligations.BootComesToRest : Prop :=
  ∀ s : State,
    (∀ obs, s.rst.inReset = true → s.rst.pwrgood = true → (s.rst.resetN = false ∨ s.rst.perstN = false) →
      Answers (.bootStart obs) s fun t => t.bootStopped = true ∧ (t.rst.inReset = false → t.now = 0 ∧ t.rst.obs = obs)) ∧
    (∀ obs, s.rst.inReset = false ∨ s.rst.pwrgood = false → exec (.bootStart obs) s = .next s) ∧
    (∀ rates failed raw, s.rst.waiting = true → s.rst.step = 6 → s.rst.inReset = false →
      Answers (.springFirstSeed rates failed raw) s fun t => t.bootStopped = true) ∧
    (∀ p lanes, s.alive = true → s.rst.waiting = true → s.rst.step = 15 → s.rst.portsLeft = [p] →
      Answers (.portTrainingDone p lanes) s fun t => t.bootStopped = true)

/-- R431, R433, R434: a boot step that exceeds its time is recorded as failed. With an alternative, the device is reset
with cause BOOT_RETRY; after the alternative, or a fourth boot in 10 minutes, the boot stops in SAFE_STANDBY with
FAULT_N. R267, R278: the first seeds end the start-up test: the Spring runs, and the device DRBG is instantiated. -/
def Obligations.BootTimeoutsAndFirstSeed : Prop :=
  (
  ∀ (s : State) (n : Nat), n = 6 ∨ n = 15 →
    (s.rst.waiting = true → s.rst.step = n → s.scrapped = false →
      (n ∈ s.rst.alts ∨ 3 ≤ s.ao.recent → Answers (.bootStepTimeout n) s fun t =>
        t.rst.safeStandby = true ∧ t.rst.linkUp = true ∧ t.rst.waiting = false ∧ t.rst.step = 11 ∧ t.pins.fault = true ∧
        t.rst.outcomes.getD (n - 1) 3 = 3 ∧ t.jobs = s.jobs ∧ t.slots = s.slots ∧ t.fuse = s.fuse) ∧
      (n ∉ s.rst.alts → s.ao.recent < 3 → s.rst.fenced = false → s.rst.inReset = false → s.lev.unrun = 0 →
        Answers (.bootStepTimeout n) s fun t =>
          t.rst.inReset = true ∧ t.ao.cause = 128 ∧ t.fuse = s.fuse ∧ t.jobs = [] ∧ t.slots = [] ∧ t.rst.step = 1)) ∧
    (s.rst.waiting = false ∨ s.rst.step ≠ n → exec (.bootStepTimeout n) s = .next s)) ∧
  (
  ∀ (s : State) (rates : List Nat) (failed : Nat) (raw : Bytes),
    s.rst.waiting = true → s.rst.step = 6 → s.rst.inReset = false → s.spr.waiting = [] →
    let x := s.spr.start rates failed raw
    x.failed = 0 → 2 ≤ x.outs.length →
    Answers (.springFirstSeed rates failed raw) s fun t =>
      (t.rst.inReset = false → t.spr.st = .running ∧ (t.drbg devInst).st = .ready ∧
        t.spr.sources = x.spr.sources ∧ t.slots = s.slots))

/-! ## The Levee -/

/-- R407, R409, R410, R412: detectors of a source that is enabled and not under a stimulation test. An event counts in
the source's window, and at N events the source is latched and joins the open alarm set; a second detector that agrees
counts nothing; a difference that lasts counts an event of source 25; windows, reports of clear and UNLATCH. R412: 1 µs
after its first trip the alarm set closes: it is numbered, and each of its actions waits in the queue for it. R411,
R412, R418: LOG, EVENT, ALARM_OUT and THROTTLE, each run when it stands at the head of the queue, for the sources of its
sets. -/
def Obligations.AlarmsAreCountedAndReported : Prop :=
  (
  ∀ (s : State) (i : Nat), s.leveeOn = true → i ≤ 25 → (s.lev.bist.running = false ∨ s.lev.bist.source ≠ i) →
    let c := s.levCfg i
    let x := s.levSrc i
    (c.actions ≠ 0 → x.detA = false → x.detB = false → x.latched = false → c.countN ≤ 1 →
      Answers (.leveeDetectorEvent i false) s fun t =>
        (t.levSrc i).latched = true ∧ (t.levSrc i).detA = true ∧ (∀ k, k ≠ i → t.levSrc k = s.levSrc k) ∧
        (∃ g n, t.lev.gather = some g ∧ ({ source := i, det := 1, count := n } : TripRec) ∈ g.trips ∧
          ∀ k, bitOf c.actions k = true → bitOf g.union k = true) ∧
        (s.lev.gather = none → t.lev.gatherAt = s.now) ∧ t.lev.queue = s.lev.queue ∧ t.lev.log = s.lev.log ∧
        Keeps [.lev, .pins] s t) ∧
    (∀ t0, c.actions ≠ 0 → isTransient i = false → x.detA = false → x.detB = false → x.latched = false →
      x.openAt = some t0 → s.now - t0 < 1000000 * c.windowMs → x.count + 1 < c.countN →
      exec (.leveeDetectorEvent i false) s = .next (s.setLevSrc i { x with detA := true, count := x.count + 1 })) ∧
    (c.actions ≠ 0 → isTransient i = false → x.detA = false → x.detB = true →
      exec (.leveeDetectorEvent i false) s = .next (s.setLevSrc i { x with detA := true })) ∧
    (isTransient i = false → x.detA = true → exec (.leveeDetectorEvent i false) s = .next s) ∧
    (c.actions = 0 → ∀ b, exec (.leveeDetectorEvent i b) s = .next s) ∧
    (c.actions ≠ 0 → x.detA ≠ x.detB → x.disagree = false → Answers (.detectorDisagreement i) s fun t =>
      (t.levSrc i).disagree = true ∧ Keeps [.lev, .pins] s t ∧
      (∀ t0, i ≠ 25 → (s.levCfg 25).actions ≠ 0 → (s.levSrc 25).latched = false → (s.levSrc 25).openAt = some t0 →
        s.now - t0 < 1000000 * (s.levCfg 25).windowMs → (s.levSrc 25).count + 1 < (s.levCfg 25).countN →
        (t.levSrc 25).count = (s.levSrc 25).count + 1)) ∧
    (x.detA = x.detB → exec (.detectorDisagreement i) s = .next s) ∧
    exec (.leveeConditionClear i false) s =
      .next (s.setLevSrc i { x with detA := false, disagree := x.disagree && x.detB }) ∧
    (∀ t0, x.openAt = some t0 → x.latched = false → exec (.leveeWindowExpiry i) s =
      .next ({ s with now := max s.now (t0 + 1000000 * c.windowMs) }.setLevSrc i { x with count := 0, openAt := none })) ∧
    (s.hostOpen = true → x.latched = true → isTransient i = true ∨ (x.detA = false ∧ x.detB = false) →
      Answers (.leveeUnlatch i) s fun t => t.levSrc i = LevSrc.reset ∧ Keeps [.lev, .pins] s t) ∧
    (s.hostOpen = true → x.latched = true → isTransient i = false → x.detA = true ∨ x.detB = true →
      exec (.leveeUnlatch i) s = .next s)) ∧
  (
  ∀ (s : State) (g : AlarmSet), s.leveeOn = true → s.lev.gather = some g →
    Answers .gatheringIntervalEnd s fun t =>
      t.now = max s.now (s.lev.gatherAt + 1000) ∧ t.lev.gather = none ∧ t.lev.setNo = s.lev.setNo + 1 ∧
      t.lev.sets = satAdd 255 s.lev.sets 1 ∧
      (∀ r ∈ unionRanks (classUnion s.large g.union), ∃ a ∈ t.lev.queue, a.rank = r ∧
        ∃ g' ∈ a.sets, g'.no = (s.lev.setNo + 1) % 256 ∧ g'.trips = g.trips ∧ g'.time = g.time) ∧
      (∀ a ∈ s.lev.queue, ∃ b ∈ t.lev.queue, b.rank = a.rank ∧ ∀ g' ∈ a.sets, g' ∈ b.sets) ∧
      Keeps ([.now, .lev] ++ eventParts) s t ∧
      (classUnion s.large g.union < 2 → Keeps [.now, .lev] s t)) ∧
  (
  ∀ (s : State) (sets : List AlarmSet) (rest : List LevAct), s.leveeOn = true →
    (s.lev.queue = { rank := 0, sets := sets } :: rest → Answers .log s fun t =>
      t.lev.queue = rest ∧ t.lev.logTotal = s.lev.logTotal + (sets.map fun g => g.trips.length).sum ∧
      (s.lev.log.length + (sets.map fun g => g.trips.length).sum ≤ 1024 →
        ∀ g ∈ sets, ∀ x ∈ g.trips, tripEntry g x ∈ t.lev.log) ∧ Keeps [.lev, .ao] s t) ∧
    (s.lev.queue = { rank := 1, sets := sets } :: rest → Answers .event s fun t =>
      t.lev.queue = rest ∧ (∀ g ∈ sets, ∀ x ∈ g.trips, x.source ≤ 25 → (t.source (0x200 + x.source)).pending = true) ∧
      Keeps (.lev :: eventParts) s t) ∧
    (s.lev.queue = { rank := 2, sets := sets } :: rest → Answers .alarmOut s fun t =>
      t.lev.queue = rest ∧ Keeps [.lev] s t ∧
      (∀ g ∈ sets, ∀ x ∈ g.trips, (s.levSrc x.source).latched = true → (t.levSrc x.source).alarm = true)) ∧
    (s.lev.queue = { rank := 3, sets := sets } :: rest → Answers .throttle s fun t =>
      t.lev.queue = rest ∧ Keeps [.lev] s t ∧
      (∀ g ∈ sets, ∀ x ∈ g.trips, (s.levSrc x.source).latched = true →
        (t.levSrc x.source).throttle = true ∧ t.fclk ≤ 625)) ∧
    (∀ (c : Instr) (k : Nat), (c, k) ∈ [(Instr.log, 0), (.event, 1), (.alarmOut, 2), (.throttle, 3), (.clearVolatileKeys, 4),
        (.fenceAction, 5), (.clearAll, 6), (.halt, 7), (.resetAction, 8)] →
      (s.lev.queue.head?.map LevAct.rank) ≠ some k → exec c s = .next s))

/-- R116, R411, R423, R437: CLEAR_VOLATILE_KEYS, FENCE, CLEAR_ALL, HALT and RESET at the head of the queue; that the vault key is
drawn anew at once after the first is the model's choice (log entry 124). R413, R414,
R415, R416, R418: stimulation tests and their verdicts, and the samples of the battery sources. -/
def Obligations.LeveeStopsAndTests : Prop :=
  (
  ∀ (s : State) (sets : List AlarmSet) (rest : List LevAct), s.leveeOn = true →
    (s.lev.queue = { rank := 4, sets := sets } :: rest → Answers .clearVolatileKeys s fun t =>
      (∀ n, n < 1048576 → (t.slot n).st = .empty) ∧ t.kst.hot = [] ∧ t.kst.dcache = [] ∧ t.kst.vaultKey = true ∧
      (placeId .vault 64 ∈ t.hbm.keyDue ∨ ∃ k, (placeId .vault 64, k) ∈ t.hbm.keys) ∧
      (∀ j, s.job j.id = some j → j.status = none → j.committed = false →
        ∃ y, t.job j.id = some y ∧ y.status = some (if j.abortLate then .aborted else .alarmFlush)) ∧
      Keeps ([.lev, .stores, .records] ++ jobParts ++ keyParts) s t) ∧
    (s.lev.queue = { rank := 5, sets := sets } :: rest → Answers .fenceAction s fun t =>
      t.rst.fenced = true ∧ t.lev.fenced = true ∧ (s.large = true → bitOf t.ao.cause 6 = true) ∧
      (s.rst.fenced = false → (t.source 0x050).pending = true ∧ t.pins.fault = true ∧
        (∀ p ∈ s.upPorts, ∃ body, Out.frame p 0x03 0xFFFF body ∈ t.tx) ∧
        (∀ j, s.job j.id = some j → j.status = none → j.committed = false → (∀ r ∈ s.runs, j.id ∉ r.last.jobs) →
          ∃ y, t.job j.id = some y ∧ y.status = some (if j.abortLate then .aborted else .alarmFlush))) ∧
      Keeps ([.lev, .ao] ++ fenceParts) s t) ∧
    (s.lev.queue = { rank := 6, sets := sets } :: rest → Answers .clearAll s fun t =>
      t.rst.sluiceStopped = true ∧ (∀ n, n < 1048576 → (t.slot n).st = .empty) ∧ t.hbm.keysValid = false ∧
      t.ao.coverKey = none ∧ t.ao.zeroised = true ∧ t.lev.cleared = true ∧ t.pins.fault = true ∧ t.spr.drbg = [] ∧
      (∀ x ∈ t.tiles, x.2.mem = []) ∧
      Keeps ([.lev, .ao, .stores, .records, .hbm, .sluice, .pins] ++ jobParts ++ keyParts) s t) ∧
    (s.lev.queue = { rank := 7, sets := sets } :: rest → s.rst.pulse = none → Answers .halt s fun t =>
      t.lev.halted = true ∧ t.pins.fault = true ∧ t.alive = false ∧ t.hostOpen = false ∧
      (s.wsh.st = .committing → t.wsh.st = .valid ∧ t.wsh.errCode = 0x13) ∧ (s.wsh.st ≠ .committing → t.wsh = s.wsh) ∧
      Keeps [.lev, .wsh, .pins, .cfl, .tx] s t) ∧
    (s.lev.queue = { rank := 8, sets := sets } :: rest → s.rst.pulse = none → s.rst.inReset = false →
      s.rst.heldCause = none → s.large = false → Answers .resetAction s fun t =>
        ResetFrom s t ∧ bitOf t.ao.cause 6 = true) ∧
    (s.lev.queue = { rank := 8, sets := sets } :: rest → s.rst.pulse = none → s.large = true →
      Answers .resetAction s fun t =>
        t.rst.fenced = true ∧ t.lev.fenced = true ∧ bitOf t.ao.cause 6 = true ∧ Keeps ([.lev, .ao] ++ fenceParts) s t)) ∧
  (
  ∀ s : State,
    (∀ (i : Nat) (b : Bool), s.hostOpen = true →
      (bistSource i = false → exec (.levBistCmd i b) s =
        .next { s with lev := { s.lev with bist := { s.lev.bist with result := 0x0103 } } }) ∧
      (bistSource i = true → s.lev.watching = false ∨ s.lev.bist.running = true ∨ (s.levSrc i).latched = true ∨
          s.rst.pwrgood = false →
        exec (.levBistCmd i b) s = .next { s with lev := { s.lev with bist := { s.lev.bist with result := 0x0109 } } }) ∧
      (bistSource i = true → s.lev.watching = true → s.lev.bist.running = false → (s.levSrc i).latched = false →
        s.rst.pwrgood = true → exec (.levBistCmd i b) s = .next { s with lev := { s.lev with bist :=
          { running := true, source := i, detB := b, result := 0, done := false, pass := false, fail := false } } })) ∧
    (∀ (i : Nat) (b : Bool), s.leveeOn = true → s.wsh.configured = true → bistSource i = true →
      s.lev.bist.running = false → (s.levSrc i).latched = false → s.rst.pwrgood = true →
      ((s.levCfg i).bistH ≠ 0 → exec (.bistSchedule i b) s = .next { s with lev := { s.lev with bist :=
        { running := true, source := i, detB := b, result := 0, done := false, pass := false, fail := false } } }) ∧
      ((s.levCfg i).bistH = 0 → exec (.bistSchedule i b) s = .next s)) ∧
    (s.leveeOn = true → s.lev.bist.running = true →
      (Answers (.bistVerdict true) s fun t =>
        t.lev.bist = { s.lev.bist with running := false, done := true, pass := true, fail := false } ∧
        t.lev.logTotal = s.lev.logTotal + 1 ∧ t.lev.src = s.lev.src ∧ Keeps [.lev] s t) ∧
      (s.lev.bist.source ≤ 25 → Answers (.bistVerdict false) s fun t =>
        t.lev.bist = { s.lev.bist with running := false, done := true, pass := false, fail := true } ∧
        (t.source (0x220 + s.lev.bist.source)).pending = true ∧ Keeps (.lev :: eventParts) s t)) ∧
    (s.lev.watching = true → ∀ a b, exec (.batterySample a b) s = .next s) ∧
    (s.lev.watching = false → ∀ a b, Answers (.batterySample a b) s fun t =>
      Keeps [.ao, .lev] s t ∧ t.lev.src = s.lev.src ∧
      (∀ i, i < 26 → isBattery i = true → (s.ao.levCfg i).actions ≠ 0 → (s.ao.levCfg i).countN ≤ 1 →
        (s.ao.batSrc i).detA = false → (s.ao.batSrc i).detB = false → (s.ao.batSrc i).latched = false →
        bitOf a i = true → bitOf b i = true →
        (∀ k, 3 ≤ k → k ≤ 7 → bitOf (s.ao.levCfg i).actions k = true → bitOf t.ao.summary k = true) ∧
        (bitOf (s.ao.levCfg i).actions 6 = true → t.ao.coverKey = none ∧ t.ao.zeroised = true) ∧
        (bitOf (s.ao.levCfg i).actions 2 = true →
          ∀ k, bitOf (s.ao.levCfg i).alarmSel k = true → bitOf t.ao.alarmPins k = true))))

/-! ## The life cycle -/

/-- R394, R396, R397, R404: what LCS_CMD does with each of its six commands: BUSY, BAD_PARAMS, a token that does not
match, or a transition that is journalled and begins to burn. R391, R395: each command leads from the voted state only
to the states of its row, and always to a later position of the state code. -/
def Obligations.LifeCycleTransitions : Prop :=
  (
  ∀ (s : State) (c : Instr) (n : Nat) (tr : Option LcTrans), s.hostOpen = true →
    (c, n, tr) ∈ [(Instr.testLock, 1, s.lcTestLock), (.testUnlock, 2, s.lcTestUnlock), (.personalise, 3, s.lcPersonalise),
      (.takeOwnership, 4, s.lcOwn), (.fieldReturn, 5, s.lcReturn), (.scrap, 6, s.lcScrap)] →
    (s.lcBusy = true → exec c s = .next { s with lcs := { s.lcs with
      result := 0x0109, token := zeros 32, data := zeros 160 } }) ∧
    (s.lcBusy = false → tr = none → exec c s = .next { s with lcs := { s.lcs with
      result := 0x0103, done := true, token := zeros 32, data := zeros 160 } }) ∧
    (∀ t, s.lcBusy = false → tr = some t → t.owner = true → ownerDataOk s.lcs.data = false →
      exec c s = .next { s with lcs := { s.lcs with
        result := 0x0103, done := true, token := zeros 32, data := zeros 160 } }) ∧
    (∀ t, s.lcBusy = false → tr = some t → (t.owner = true → ownerDataOk s.lcs.data = true) →
      tokenOk t s.lcs.token = false → exec c s = .next { s with lcs := { s.lcs with
        result := Status.verifyFalse.code, done := true, token := zeros 32, data := zeros 160
        fails := satAdd 0xFFFFFFFF s.lcs.fails 1, lockout := true, lockAt := s.now } }) ∧
    (∀ t, s.lcBusy = false → tr = some t → (t.owner = true → ownerDataOk s.lcs.data = true) →
      tokenOk t s.lcs.token = true → Answers c s fun u =>
        u.lcs.pending = true ∧ u.lcs.debugOpen = false ∧ (u.source 0x056).pending = true ∧
        (s.ledger.readOnly = false → (s.lcs.work ++ s.lcWork t).head? ≠ some .complete → u.lcs.done = false ∧
          u.lcs.work = s.lcs.work ++ s.lcWork t ∧ ∃ r, u.ledger.trans = some r ∧ r.target = posCode t.target ∧
            r.owner = if t.owner then s.lcs.data else []) ∧
        (s.ledger.readOnly = true → s.lcs.work.head? ≠ some .complete → u.ledger = s.ledger) ∧ Keeps ([.lcs, .ledger, .rst] ++ eventParts) s u)) ∧
  (
  ∀ (s : State) (n : Nat) (tr : Option LcTrans) (t : LcTrans),
    (n, tr) ∈ [(1, s.lcTestLock), (2, s.lcTestUnlock), (3, s.lcPersonalise), (4, s.lcOwn), (5, s.lcReturn), (6, s.lcScrap)] →
    tr = some t → s.lcs.st = posState s.lcs.pos → s.lcs.pos ≤ 33 → lifeAgrees s.lcs.pos s.lcs.gen s.lcs.used = true →
    s.lcs.pos < t.target ∧ (t.target ≤ 33 ∨ t.target = 64) ∧
    (n, s.lcs.st, posState t.target) ∈ [(1, LcState.blank, LcState.testLocked), (1, .testUnlocked, .testLocked),
      (2, .testLocked, .testUnlocked), (3, .testLocked, .personalised), (4, .personalised, .owned),
      (4, .fieldReturn, .owned), (5, .owned, .fieldReturn), (6, .blank, .scrapped), (6, .testLocked, .scrapped),
      (6, .testUnlocked, .scrapped), (6, .personalised, .scrapped), (6, .owned, .scrapped), (6, .fieldReturn, .scrapped)] ∧
    (∀ b, (posCode s.lcs.pos).getLsbD b = true → (posCode t.target).getLsbD b = true))

/-- R398, R399, R400, R401, R425: a pulse that ends has burned its bit and the next work begins; an erase step that
commits has erased what it names. R394, R397, R402: the end of the second after a mismatch, and the JTAG port. -/
def Obligations.BurnEraseLockoutAndJtag : Prop :=
  (
  ∀ s : State,
    (∀ w rest, s.lcs.work = w :: rest → s.rst.pulse = some .fuse → w.isPulse = true → Answers .fusePulseEnd s fun t =>
      t.fuse = s.fuse.burn w ∧
      (rest.head? = some .complete → t.lcs.work = [] ∧ t.lcs.result = 0 ∧ t.lcs.done = true ∧ t.ledger.trans = none ∧
        t.rst.pulse = s.restPulse) ∧
      (∀ v, rest.head? = some v → v.isPulse = true → t.lcs.work = rest ∧
        (w.isTherm = false ∨ rest.any LcWork.isTherm = true → t.ledger = s.ledger) ∧
        t.rst.pulse = if s.mayPulse then some .fuse else s.restPulse) ∧
      (w = .cosign 2 → t.fwu.done = true) ∧ (w ≠ .cosign 2 → t.fwu = s.fwu) ∧
      Keeps [.fuse, .lcs, .ledger, .rst, .fwu] s t) ∧
    (s.rst.pulse = none → exec .fusePulseEnd s = .next s) ∧
    (∀ b c, c < 3 → s.fuse.code.length = 3 → b < 64 → ((s.fuse.burn (.code b c)).code.getD c 0).getLsbD b = true) ∧
    (∀ e rest, s.lcs.work = .erase e :: rest → s.mayPulse = true → Answers .eraseStepDone s fun t =>
      (e = .e1 → (∀ n, n < 1048576 → (t.slot n).st = .empty) ∧ t.kst.vaultKey = false) ∧
      (e = .e2 → t.ao.coverKey = none ∧ t.ao.zeroised = true) ∧
      (e = .e3 → (∀ x ∈ t.tiles, x.2.mem = []) ∧ ∀ j ∈ t.jobs, j.stage = []) ∧
      (e = .e4 → t.hbm.mem = [] ∧ t.hbm.keysValid = false) ∧
      (e = .e5 → ∀ r ∈ t.records, r.floor = r.limit) ∧
      t.fuse = s.fuse ∧ t.cfg = s.cfg ∧ t.meas = s.meas ∧ t.queues = s.queues)) ∧
  (
  ∀ s : State,
    (s.lcs.lockout = true → exec .lcsLockoutEnd s = .next { s with
      now := max s.now (s.lcs.lockAt + 1000000000), lcs := { s.lcs with lockout := false } }) ∧
    (s.lcs.lockout = false → exec .lcsLockoutEnd s = .next s) ∧
    (∀ i, s.lcs.debugOpen = true → exec (.jtagTapInstruction i) s = .next { s with lcs := { s.lcs with tap := i } }) ∧
    (∀ k, s.lcs.debugOpen = false → exec (.jtagTapInstruction (.other k)) s =
      .next { s with lcs := { s.lcs with tap := .bypass } }) ∧
    (∀ i, i = .idcode ∨ i = .bypass → exec (.jtagTapInstruction i) s = .next { s with lcs := { s.lcs with tap := i } }) ∧
    exec .trstN s = .next { s with lcs := { s.lcs with tap := .idcode } })

/-! ## Firmware update -/

/-- R438, R440, R442, R443, R450: the commands of FWU_CMD by the state that accepts them, and the end of a staging with the
first failing check. -/
def Obligations.FirmwareCommands : Prop :=
  ∀ s : State, s.hostOpen = true →
    (s.lcs.pending = true → ∀ c ∈ [Instr.stage, .arm], exec c s =
      .next { s with fwu := { s.fwu with result := 0x0109, done := true } }) ∧
    (s.lcs.pending = false → s.rst.inService = true → s.rst.safeStandby = false → s.fwu.st = .idle ∨ s.fwu.st = .staged →
      s.fwu.srcLo % 4096 ≠ 0 → exec .stage s = .next { s with fwu := { s.fwu with result := 0x0103, done := true } }) ∧
    (s.lcs.pending = false → s.rst.inService = true → s.rst.safeStandby = false → s.fwu.st = .idle ∨ s.fwu.st = .staged →
      s.fwu.srcLo % 4096 = 0 → Answers .stage s fun t =>
        t.fwu = { s.fwu with st := .staging, done := false, err := 0, digest := zeros 48 } ∧
        (s.ledger.readOnly = false → t.ledger = s.ledger.setSlot s.fwu.other FwSlot.none) ∧ Keeps [.ledger, .fwu] s t) ∧
    (s.lcs.pending = false → s.fwu.st ≠ .idle → s.fwu.st ≠ .staged → exec .stage s =
      .next { s with fwu := { s.fwu with err := 12, result := 0x0103, done := true } }) ∧
    (∀ bs w, s.alive = true → s.fwu.st = .staging →
      (s.pkgCheck (parsePkg (fit s.fwu.len bs)) w = 0 → exec (.stagingComplete bs w) s =
        let p := parsePkg (fit s.fwu.len bs)
        .next { s with
          ledger := s.ledger.setSlot s.fwu.other
            { st := .valid, svn := p.svn, digest := p.digest, mandatory := bitOf p.flags 0 }
          fwu := { s.fwu with st := .staged, digest := p.digest, result := 0, done := true } }) ∧
      (s.pkgCheck (parsePkg (fit s.fwu.len bs)) w ≠ 0 → Answers (.stagingComplete bs w) s fun t =>
        t.fwu.st = .idle ∧ t.fwu.err = s.pkgCheck (parsePkg (fit s.fwu.len bs)) w ∧ t.fwu.done = true ∧
        t.ledger = s.ledger ∧ Keeps [.fwu] s t)) ∧
    (let at' := s.fwu.actHi * 2 ^ 32 + s.fwu.actLo
     s.lcs.pending = false → s.fwu.st = .staged ∨ s.fwu.st = .armed →
      (s.armOk at' = true → Answers .arm s fun t =>
        t.fwu = { s.fwu with st := .armed, instant := at', result := 0, done := true } ∧
        (∀ p ∈ s.upPorts, ∃ body, Out.frame p 0x05 0xFFFF body ∈ t.tx) ∧ Keeps [.fwu, .cfl, .tx] s t) ∧
      (s.armOk at' = false → exec .arm s =
        .next { s with fwu := { s.fwu with result := 0x0103, done := true } })) ∧
    (s.fwu.st = .armed → Answers .cancel s fun t =>
      t.fwu = { s.fwu with st := .staged, result := 0, done := true } ∧
      (∀ p ∈ s.upPorts, ∃ body, Out.frame p 0x05 0xFFFF body ∈ t.tx) ∧ Keeps [.fwu, .cfl, .tx] s t) ∧
    (s.fwu.st = .staged → exec .fwDiscard s = .next { s with
      ledger := s.ledger.setSlot s.fwu.other FwSlot.none
      fwu := { s.fwu with st := .idle, digest := zeros 48, result := 0, done := true } }) ∧
    (s.lcs.st = .owned → Answers .requireCosign s fun t =>
      t.fwu = { s.fwu with result := 0, done := false } ∧ (∀ k, k < 3 → LcWork.cosign k ∈ t.lcs.work) ∧
      (s.lcs.work = [] → t.lcs.work = [.cosign 0, .cosign 1, .cosign 2] ∧
        t.rst.pulse = if s.mayPulse then some .fuse else s.restPulse) ∧ Keeps [.fwu, .lcs, .rst] s t) ∧
    (∀ c, (c = .cancel ∧ s.fwu.st ≠ .armed) ∨ (c = .fwDiscard ∧ s.fwu.st ≠ .staged) ∨
        (c = .requireCosign ∧ s.lcs.st ≠ .owned) ∨ (c = .arm ∧ s.lcs.pending = false ∧ s.fwu.st ≠ .staged ∧ s.fwu.st ≠ .armed) →
      exec c s = .next { s with fwu := { s.fwu with err := 12, result := 0x0103, done := true } })

/-- R80, R444, R449: the armed instant journals the trial and stops intake; when the jobs have retired, or at the end of
the drain time, the warm restart begins; and its end starts the trial or falls back. R441, R446, R447: in TRIAL, the
tests passed and the jobs counted confirm the image, and the pulses that raise the thermometer to its SVN begin; a window
that ends without that falls back. -/
def Obligations.FirmwareSwitchAndConfirmation : Prop :=
  (
  ∀ s : State,
    (s.awake = true → s.fwu.st = .armed →
      (s.fwHeld = false → s.lcs.pending = false → Answers .activationInstant s fun t =>
        t.fwu.st = .switching ∧ t.fwu.restarting = false ∧ t.ledger = { s.ledger with trial := some s.fwu.other } ∧
        t.now = max s.now (s.now + (s.fwu.instant - s.clusterTime)) ∧ t.fwu.drainAt = t.now ∧
        (∀ x ∈ t.queues, x.2.fetching = 0) ∧ (t.source 0x008).pending = true ∧
        Keeps ([.now, .ledger, .fwu] ++ queueParts) s t) ∧
      (s.fwHeld = true ∨ s.lcs.pending = true → Answers .activationInstant s fun t =>
        t.fwu = { s.fwu with st := .staged } ∧ Keeps [.now, .fwu] s t)) ∧
    (s.fwu.st ≠ .armed → exec .activationInstant s = .next s) ∧
    (s.alive = true → s.fwu.st.leaves = true → s.fwu.restarting = false → s.fwHeld = false →
      (s.drained = true → Answers .fwDrainComplete s fun t =>
        t.fwu = { s.fwu with restarting := true } ∧ t.pwr.planning = false ∧ (∀ i, i < 16 → (t.core i).overlay = true) ∧
        Keeps [.fwu, .pwr, .cores] s t) ∧
      (s.drained = false → exec .fwDrainComplete s = .next s) ∧
      Answers .fwDrainLimit s fun t =>
        t.fwu = { s.fwu with restarting := true } ∧ t.now = max s.now (s.fwu.drainAt + s.fwu.drainMs * 1000000) ∧
        (∀ j ∈ s.jobs, s.job j.id = some j → j.status = none → j.committed = false → j.st ≠ .spilled →
          j.st ≠ .retired → j.st ≠ .ended → ∃ y, t.job j.id = some y ∧ y.status = some .aborted) ∧
        Keeps ([.now, .fwu, .pwr, .slots, .cfl, .tx] ++ jobParts) s t) ∧
    (s.alive = true → s.fwu.restarting = true → s.fwHeld = false → s.drained = true →
      let i := s.fwu.other
      let x := s.ledger.slot i
      (∀ b, s.fwu.st = .switching ∨ s.fwu.st = .fallingBack → Answers (.warmRestartDone b) s fun t =>
        (∀ y ∈ t.tiles, y.2.mem = []) ∧ t.slots = s.slots ∧ t.fuse = s.fuse ∧ t.reaches = s.reaches ∧
        t.queues = s.queues ∧ (t.ledger.active = s.ledger.active)) ∧
      (s.fwu.st = .switching → Answers (.warmRestartDone true) s fun t =>
        t.fwu.st = .trial ∧ t.fwu.running = i ∧ t.fwu.runSvn = x.svn ∧ t.fwu.testsOk = true ∧
        t.fwu.jobsLeft = t.cfg.policy.confirmJobs ∧ t.fwu.trialEnd = s.now + t.cfg.policy.confirmS * 1000000000) ∧
      (s.fwu.st = .switching → Answers (.warmRestartDone false) s fun t =>
        t.fwu.st = .fallingBack ∧ t.fwu.fallCode = 3 ∧ (t.ledger.slot i).st = .failed) ∧
      (s.fwu.st = .fallingBack → Answers (.warmRestartDone true) s fun t =>
        t.fwu.st = .idle ∧ t.fwu.running = i ∧ t.fwu.last = s.fwu.fallCode ∧ t.ledger.trial = none))) ∧
  (
  ∀ s : State, s.alive = true →
    (s.mayConfirm = true → Answers .fwConfirm s fun t =>
      t.fwu.st = .idle ∧ t.fwu.last = 1 ∧ t.ledger.active = s.fwu.running ∧ t.ledger.trial = none ∧
      (let ws := s.fuse.thermWork (s.ledger.slot s.fwu.running).svn
       (ws = [] → t.ledger.confirmed = none ∧ t.lcs = s.lcs ∧ t.rst = s.rst) ∧
       (ws ≠ [] → t.ledger.confirmed = some (s.ledger.slot s.fwu.running).svn ∧ ∀ w ∈ ws, w ∈ t.lcs.work) ∧
       (∀ k c, s.fuse.thermSteps ≤ k → k < (s.ledger.slot s.fwu.running).svn → k < 128 → c < 3 → LcWork.therm k c ∈ ws)) ∧
      (s.fwu.running ≤ 1 → (t.ledger.slot s.fwu.running).svn = (s.ledger.slot s.fwu.running).svn) ∧
      Keeps ([.fwu, .ledger, .lcs, .rst] ++ eventParts) s t) ∧
    (s.mayConfirm = false → exec .fwConfirm s = .next s) ∧
    (s.fwu.st = .trial → s.fwHeld = false → ¬ (s.fwu.testsOk = true ∧ s.fwu.jobsLeft = 0 ∧ s.now ≤ s.fwu.trialEnd) →
      Answers .confirmWindowEnd s fun t =>
        t.fwu.st = .fallingBack ∧ t.fwu.fallCode = 2 ∧ t.now = max s.now s.fwu.trialEnd ∧ t.fuse = s.fuse ∧
        (t.ledger.slot s.fwu.running).st = .failed ∧ (∀ x ∈ t.queues, x.2.fetching = 0) ∧
        Keeps ([.now, .fwu, .ledger] ++ queueParts) s t) ∧
    (s.fwu.st = .trial → s.fwHeld = false → s.fwu.testsOk = true → s.fwu.jobsLeft = 0 → s.now ≤ s.fwu.trialEnd →
      Answers .confirmWindowEnd s fun t =>
        t.fwu.st = .idle ∧ t.fwu.last = 1 ∧ t.now = s.fwu.trialEnd ∧ t.ledger.active = s.fwu.running ∧
        Keeps ([.now, .fwu, .ledger, .lcs, .rst] ++ eventParts) s t))

/-! ## Power -/

/-- R480, R481, R482, R483: a re-plan aims at the lowest voltage that meets the margin, or at 850 mV; a warm restart
defers it and a PMBus fault holds it off; PWR_SERVICE_DAYS. R476, R483, R493: the voltage moves in steps of at most 5 mV
towards the goal; and a PMBus fault ends a running re-plan at the last acknowledged step. -/
def Obligations.VoltageIsReplannedAndStepped : Prop :=
  (
  ∀ (s : State) (m : Measured),
    (s.hostOpen = true →
      (s.rst.inService = false ∨ s.rst.safeStandby = true ∨ s.pwr.point = 2 →
        exec (.replan m) s = .next { s with pwr := { s.pwr with result := 0x0103 } }) ∧
      (s.rst.inService = true → s.rst.safeStandby = false → s.pwr.point ≠ 2 → s.pwr.planning = true →
        exec (.replan m) s = .next { s with pwr := { s.pwr with result := 0x0109 } }) ∧
      (s.rst.inService = true → s.rst.safeStandby = false → s.pwr.point ≠ 2 → s.pwr.planning = false →
        (s.fwu.restarting = true → exec (.replan m) s =
          .next { s with pwr := { s.pwr with deferred := true, meas := m, done := false } }) ∧
        (s.fwu.restarting = false → s.pwr.faulty = true → exec (.replan m) s =
          .next { s with pwr := { s.pwr with retry := true, done := false } }) ∧
        (s.fwu.restarting = false → s.pwr.faulty = false → m.needMv.getD 850 ≠ s.pwr.targetMv → exec (.replan m) s =
          .next { s with pwr := { s.pwr with
            planning := true, done := false, result := 0, meas := m, goalMv := m.needMv.getD 850, deferred := false } }) ∧
        (s.fwu.restarting = false → s.pwr.faulty = false → m.needMv.getD 850 = s.pwr.targetMv →
          Answers (.replan m) s fun t =>
            t.pwr.planning = false ∧ t.pwr.done = true ∧ t.pwr.result = 0 ∧ t.pwr.measured = true ∧
            t.pwr.marginLow = m.needMv.isNone ∧ t.pwr.targetMv = s.pwr.targetMv ∧ (t.source 0x053).pending = true ∧
            (m.sramMv < 40 → (t.source 0x054).pending = true) ∧ Keeps (.pwr :: eventParts) s t)) ∧
      (∀ d, exec (.pwrServiceDaysWrite d) s = .next { s with pwr := { s.pwr with serviceDays := d % 65536 } })) ∧
    (s.alive = true →
      (s.pwr.point = 2 ∨ s.pwr.nextAt = 0 → exec (.scheduledReplan m) s = .next s) ∧
      (s.pwr.point ≠ 2 → s.pwr.nextAt ≠ 0 → s.pwr.planning = false → Answers (.scheduledReplan m) s fun t =>
        t.now = max s.now s.pwr.nextAt ∧ t.pwr.nextAt = s.pwr.nextAt + 86400000000000 ∧
        (s.fwu.restarting = true → t.pwr.deferred = true) ∧
        (s.fwu.restarting = false → s.pwr.faulty = true → t.pwr.retry = true) ∧
        (s.fwu.restarting = false → s.pwr.faulty = false → t.pwr.goalMv = m.needMv.getD 850) ∧
        Keeps ([.now, .pwr] ++ eventParts) s t) ∧
      (s.pwr.retry = true → s.pwr.planning = false → s.fwu.restarting = false → Answers (.replanRetry m) s fun t =>
        t.pwr.goalMv = m.needMv.getD 850 ∧ t.pwr.alert = false ∧ Keeps (.pwr :: eventParts) s t) ∧
      (s.pwr.retry = false → exec (.replanRetry m) s = .next s))) ∧
  (
  ∀ s : State,
    (∀ mv, s.alive = true → s.pwr.planning = true → s.pwr.goalMv ≠ s.pwr.targetMv → Answers (.vcoreStep mv) s fun t =>
      (s.pwr.targetMv < s.pwr.goalMv → t.pwr.targetMv = min s.pwr.goalMv (s.pwr.targetMv + 5)) ∧
      (s.pwr.goalMv < s.pwr.targetMv → t.pwr.targetMv = max s.pwr.goalMv (s.pwr.targetMv - 5)) ∧
      Out.vcore t.pwr.targetMv ∈ t.tx ∧ t.pwr.heldMv = t.pwr.targetMv ∧
      (t.pwr.targetMv = s.pwr.goalMv → t.pwr.planning = false ∧ t.pwr.done = true ∧ t.pwr.meas.readMv = mv) ∧
      (t.pwr.targetMv ≠ s.pwr.goalMv → t.pwr.planning = true) ∧ Keeps (.pwr :: eventParts) s t) ∧
    (∀ mv, s.pwr.planning = false → exec (.vcoreStep mv) s = .next s) ∧
    (∀ f w, s.awake = true → Answers (.pmbusFault f w) s fun t =>
      t.pwr.statusWord = w % 65536 ∧ t.pwr.targetMv = s.pwr.targetMv ∧ t.pwr.planning = false ∧ t.pwr.faulty = true ∧
      (s.pwr.planning = true → t.pwr.done = true ∧ t.pwr.result = 0x0103 ∧ (t.source 0x053).pending = true) ∧
      (s.pwr.planning = false → Keeps [.pwr] s t) ∧ Keeps (.pwr :: eventParts) s t))

/-- R493: THERM_N is asserted when the junction reaches 105 °C (1,680 sixteenths of a degree), released below 100 °C, and
each assertion raises event 0x055; no Levee action is started. -/
def Obligations.ThermalPinHasHysteresis : Prop :=
  ∀ (s : State) (tj : Int), s.awake = true → Answers (.thermThreshold tj) s fun t =>
    t.pwr = { s.pwr with temp := tj } ∧
    t.pins.therm = (if s.pins.therm then decide (1600 ≤ tj) else decide (1680 ≤ tj)) ∧
    (s.pins.therm = false → 1680 ≤ tj → (t.source 0x055).pending = true) ∧
    (s.pins.therm = true ∨ tj < 1680 → Keeps [.pwr, .pins] s t) ∧
    Keeps (.pwr :: eventParts) s t ∧ t.lev = s.lev

/-! ## Block resets -/

/-- R426, R437: the reset of one PT, HT, BNU, CU or CC that is IDLE begins and takes its time; any other one is refused
with BUSY. R427, R453: BASIN_DRAIN, BASIN_RESET and BASIN_RESUME by the state of the basin, and the end of a drain. -/
def Obligations.UnitAndBasinResets : Prop :=
  (
  ∀ s : State, s.hostOpen = true →
    (∀ (c : Instr) (k : NodeClass) (i : Nat), (c, k, i) ∈ [(Instr.ptTileReset, NodeClass.pt, s.sel.ptSel),
        (.htTileReset, .ht, s.sel.htSel), (.bnuUnitReset, .bnu, s.sel.bnuSel), (.ccCoreReset, .cc, s.sel.ccSel)] →
      (s.unitIdle k i = true → Answers c s fun t =>
        (t.tile (tkey k i)).st = .resetting ∧
        (k ≠ .ht → t.tile (tkey k i) = { s.tile (tkey k i) with st := .resetting } ∧
          (∀ j, j ≠ tkey k i → t.tile j = s.tile j) ∧ Keeps ([.tiles, .sel, .cores] ++ eventParts) s t) ∧
        (k ≠ .cc → t.cores = s.cores) ∧ (k = .cc → (t.core i).overlay = true) ∧
        Keeps ([.tiles, .sel, .jobs, .weir, .cores, .hbm, .spr] ++ eventParts) s t) ∧
      (s.unitIdle k i = false → Answers c s fun t => Keeps [.sel] s t)) ∧
    (s.unitIdle .pt s.sel.ptSel = true → Answers .ptTileReset s fun t =>
      t.sel = { s.sel with ptResult := 0, ptDone := false, ptRuns := s.sel.ptSel }) ∧
    (s.unitIdle .ht s.sel.htSel = true → Answers .htTileReset s fun t =>
      t.sel = { s.sel with htResult := 0, htDone := false, htRuns := s.sel.htSel }) ∧
    (s.unitIdle .bnu s.sel.bnuSel = true → Answers .bnuUnitReset s fun t =>
      t.sel = { s.sel with bnuResult := 0, bnuDone := false, bnuRuns := s.sel.bnuSel }) ∧
    (s.unitIdle .cc s.sel.ccSel = true → Answers .ccCoreReset s fun t =>
      t.sel = { s.sel with ccResult := 0, ccDone := false, ccRuns := s.sel.ccSel }) ∧
    (s.unitIdle .pt s.sel.ptSel = false → exec .ptTileReset s =
      .next { s with sel := { s.sel with ptResult := 0x0109, ptDone := true } }) ∧
    (s.unitIdle .ht s.sel.htSel = false → exec .htTileReset s =
      .next { s with sel := { s.sel with htResult := 0x0109, htDone := true } }) ∧
    (s.unitIdle .bnu s.sel.bnuSel = false → exec .bnuUnitReset s =
      .next { s with sel := { s.sel with bnuResult := 0x0109, bnuDone := true } }) ∧
    (s.unitIdle .cc s.sel.ccSel = false → exec .ccCoreReset s =
      .next { s with sel := { s.sel with ccResult := 0x0109, ccDone := true } }) ∧
    (∀ i, (s.unitIdle .cu i = true → Answers (.cuReset i) s fun t =>
        t.tile (tkey .cu i) = { s.tile (tkey .cu i) with st := .resetting } ∧ t.rst.blkResult = 0 ∧
        t.rst.blkDone = false ∧ t.rst.blkRuns = some (.cu i) ∧ Keeps ([.tiles, .rst] ++ eventParts) s t) ∧
      (s.unitIdle .cu i = false → exec (.cuReset i) s =
        .next { s with rst := { s.rst with blkResult := 0x0109, blkDone := true } }))) ∧
  (
  ∀ (s : State) (b : Nat), b ≤ 7 →
    (s.hostOpen = true →
      (∀ c ∈ [Instr.basinDrain b, Instr.basinReset b, Instr.basinResume b],
        (s.basin b = .disabled → exec c s = .next { s with rst := { s.rst with blkResult := 0x0103, blkDone := true } }) ∧
        (s.basin b = .resetting ∨ s.basin b = .selfTest → exec c s =
          .next { s with rst := { s.rst with blkResult := 0x0109, blkDone := true } })) ∧
      (s.basin b = .inService → Answers (.basinDrain b) s fun t =>
        t.basin b = .draining ∧ t.rst.blkResult = 0 ∧ t.rst.blkDone = true ∧
        (t.source (0x100 + 32 * b)).pending = true ∧ Keeps (.rst :: eventParts) s t) ∧
      (s.basin b = .draining ∨ s.basin b = .drained → exec (.basinDrain b) s =
        .next { s with rst := { s.rst with blkResult := 0, blkDone := true } }) ∧
      (s.basin b = .drained → s.rst.fenced = false → Answers (.basinReset b) s fun t =>
        t.basin b = .resetting ∧ t.rst.blkResult = 0 ∧ t.rst.blkDone = false ∧ t.rst.blkRuns = some (.basin b) ∧
        (∀ i, i < 16 → basinOf .cc i = b → (t.core i).overlay = true) ∧ (t.source (0x100 + 32 * b)).pending = true ∧
        Keeps ([.rst, .jobs, .tiles, .cores, .spans, .weir] ++ eventParts) s t) ∧
      (s.basin b = .inService ∨ s.basin b = .draining ∨ (s.basin b = .drained ∧ s.rst.fenced = true) →
        exec (.basinReset b) s =
        .next { s with rst := { s.rst with blkResult := 0x0109, blkDone := true } }) ∧
      (s.basin b = .draining ∨ s.basin b = .drained → Answers (.basinResume b) s fun t =>
        t.basin b = .inService ∧ t.rst.blkResult = 0 ∧ t.rst.blkDone = true ∧
        (∀ i, i ≠ b → t.basin i = s.basin i) ∧ Keeps (.rst :: eventParts) s t)) ∧
    (s.alive = true → s.basin b = .draining →
      (s.homedIn b = false → Answers (.basinDrained b) s fun t =>
        t.basin b = .drained ∧ (t.source (0x100 + 32 * b)).pending = true ∧ Keeps (.rst :: eventParts) s t) ∧
      (s.homedIn b = true → exec (.basinDrained b) s = .next s))) ∧
  (
  ∀ (s : State) (b : Nat), s.hostOpen = true → 7 < b →
    ∀ c ∈ [Instr.basinDrain b, Instr.basinReset b, Instr.basinResume b],
      exec c s = .next { s with rst := { s.rst with blkResult := 0x0103, blkDone := true } })

/-! ## Registers and the management port -/

/-- R73: a 64-bit register access is two 32-bit ones, the lower address first; a write of another size or alignment is
ignored, and such a read gives zeros. What the fields named take, what a write of 1 and what a read clears, under a HALT as
well (R11, R411), what BAR 2 and the control registers of configuration space hold (R72, R76; their layout is the model's choice,
log entries 90 and 114), and what no register write touches. -/
def Obligations.RegisterWrites : Prop :=
  (
  ∀ (s : State) (fn a v : Nat) (b : Bar), s.hostOpen = true →
    (s.fnOpen fn = false → ∀ n x, exec (.registerWrite fn ⟨b, a⟩ n x) s = .next s) ∧
    (∀ n, ¬ (n = 4 ∧ a % 4 = 0) → ¬ (n = 8 ∧ a % 8 = 0) →
      exec (.registerWrite fn ⟨b, a⟩ n (.write v)) s = .next s ∧
      (s.fnOpen fn = true →
        exec (.registerWrite fn ⟨b, a⟩ n .read) s = .next { s with tx := s.tx ++ [.readData (zeros n)] })) ∧
    (a % 8 = 0 → ∃ t u, exec (.registerWrite fn ⟨b, a⟩ 4 (.write (v % 2 ^ 32))) s = .next t ∧
      exec (.registerWrite fn ⟨b, (a + 4)⟩ 4 (.write (v / 2 ^ 32))) t = .next u ∧
      exec (.registerWrite fn ⟨b, a⟩ 8 (.write v)) s = .next u) ∧
    (∀ n, Answers (.registerWrite fn ⟨b, a⟩ n (.write v)) s fun t =>
      Keeps ([.queues, .weir, .spr, .kst, .sel, .cprof, .hbm, .lev, .rst, .lcs, .pwr, .fwu] ++ eventParts) s t)) ∧
  (
  ∀ (s : State) (v : Nat), s.hostOpen = true → v < 2 ^ 32 →
    let pf (a : Nat) : Instr := .registerWrite 0 ⟨.regs, a⟩ 4 (.write v)
    (exec (pf 0x200014) s = .next { s with weir := { s.weir with sliceUs := v % 65536 } }) ∧
    (1 ≤ v % 2 ^ 20 → v % 2 ^ 20 ≤ 1000000 →
      exec (pf 0x20000C) s = .next { s with weir := { s.weir with timeoutUs := v % 2 ^ 20 } }) ∧
    (1000000 < v % 2 ^ 20 ∨ v % 2 ^ 20 = 0 → exec (pf 0x20000C) s = .next s) ∧
    (exec (pf 0x200004) s = .next { s with weir := { s.weir with delayOvf := s.weir.delayOvf && !bitOf v 2 } }) ∧
    (96 ≤ v % 128 → exec (pf 0x500004) s = .next s) ∧
    (v % 128 < 96 → exec (pf 0x500004) s = .next { s with sel := { s.sel with htSel := v % 128 } }) ∧
    (exec (pf 0x1000004) s = .next { s with evt := { s.evt with sel := v % 2048 } }) ∧
    (exec (pf 0x1100000) s = .next { s with snp := { s.snp with
      arm := bitOf v 0, enPin := bitOf v 1, enCmd := bitOf v 2, enCfl := bitOf v 3, enLevee := bitOf v 4,
      broadcast := bitOf v 5 } }) ∧
    (v % 16 = 0 → exec (pf 0xF00018) s = .next s) ∧
    (v % 16 ≠ 0 → exec (pf 0xF00018) s = .next { s with fwu := { s.fwu with drainMs := v % 16 } }) ∧
    (exec (pf 0xF0000C) s = .next { s with fwu := { s.fwu with srcLo := v } }) ∧
    (s.wsh.configured = true → exec (pf 0x700200) s = .next s) ∧
    (∀ q, q < 64 → exec (pf (0x3000000 + 2048 * q)) s = exec (.sqDoorbell 0 q (v % 65536)) s ∧
      exec (pf (0x3000004 + 2048 * q)) s = exec (.cqDoorbell 0 q (v % 65536)) s) ∧
    (∀ fn q, fn ≠ 0 → q < 64 → s.fnOpen fn = true → s.fnConfigured fn = true →
      exec (.registerWrite fn ⟨.regs, (0x20000 + 2048 * q)⟩ 4 (.write v)) s = exec (.sqDoorbell fn q (v % 65536)) s) ∧
    (∀ q, q < 64 → s.granted 0 q = true →
      let x := s.queue (qkey 0 q)
      (x.enable = false → s.outstanding 0 q = 0 → exec (pf (0x110000 + 256 * q + 0x18)) s =
        .next (s.setQueue (qkey 0 q) { x with sqLog2 := bitsOf v 4 0, cqLog2 := bitsOf v 12 8 })) ∧
      (x.enable = true ∨ s.outstanding 0 q ≠ 0 → exec (pf (0x110000 + 256 * q + 0x18)) s = .next s)) ∧
    (∀ fn n, n < vectorsOf fn → s.fnOpen fn = true →
      exec (.registerWrite fn ⟨.msix, (16 * n + 12)⟩ 4 (.write v)) s = exec (.msixStateChange fn (.vecMask n (bitOf v 0))) s ∧
      exec (.registerWrite fn ⟨.msix, (16 * n + 8)⟩ 4 (.write v)) s = .next (s.setFn fn { s.fn fn with
        table := tset (s.fn fn).table n (((s.fn fn).entry n).1, v) })) ∧
    (exec (.registerWrite 0 ⟨.config, expressCap + 8⟩ 4 (.write v)) s = .next (s.setFn 0 { s.fn 0 with
      devCtl := (pcieFn 0).control (s.fn 0).devCtl v })) ∧
    (exec (.registerWrite 0 ⟨.config, expressCap + 16⟩ 4 (.write v)) s = .next (s.setFn 0 { s.fn 0 with
      linkCtl := if bitOf v 1 then 2 else 0 })) ∧
    (∀ fn o n, fn ≠ 0 → exec (.registerWrite fn ⟨.config, o⟩ n (.write v)) s = .next s)) ∧
  (
  ∀ s : State, s.rst.inReset = false → s.rst.linkUp = true → s.scrapped = false →
    (∀ fn o, o % 4 = 0 → s.fnOpen fn = true → exec (.registerWrite fn ⟨.config, o⟩ 4 .read) s =
      .next { s with tx := s.tx ++ [.readData (toLe 4 (s.configRead fn o))] }) ∧
    (Answers (.registerWrite 0 ⟨.regs, 0x200034⟩ 4 .read) s fun t =>
      t.weir = { s.weir with spillOut := 0 } ∧ t.tx = s.tx ++ [.readData (toLe 4 s.weir.spillOut)] ∧
      Keeps [.weir, .tx] s t) ∧
    (Answers (.registerWrite 0 ⟨.regs, 0x200014⟩ 4 .read) s fun t =>
      t.tx = s.tx ++ [.readData (toLe 4 s.weir.sliceUs)] ∧ Keeps [.tx] s t) ∧
    (Answers (.registerWrite 0 ⟨.regs, 0xA00014⟩ 4 .read) s fun t =>
      tget 0 t.hbm.ue s.hbm.sel = 0 ∧ t.tx = s.tx ++ [.readData (toLe 4 (tget 0 s.hbm.ue s.hbm.sel))] ∧
      t.hbm.mem = s.hbm.mem ∧ Keeps [.hbm, .tx] s t) ∧
    (∀ fn a, a % 4 = 0 → s.fnOpen fn = true → exec (.registerWrite fn ⟨.msix, a⟩ 4 .read) s =
      .next { s with tx := s.tx ++ [.readData (toLe 4 (s.msixRead fn a))] }))

/-- R494, R495, R496, R497: each management transaction answers one reply with its STATUS byte, and changes nothing but
the port's own selections and SMB_ALERT_N. -/
def Obligations.ManagementPortReplies : Prop :=
  ∀ s : State, s.portOpen = true →
    (∀ a, a % 4 = 0 →
      (∀ v, s.mgmtReg a = some v → exec (.read32 a) s = .next { s with tx := s.tx ++ [.readData (0 :: toLe 4 v)] }) ∧
      (s.mgmtReg a = none → exec (.read32 a) s = .next { s with tx := s.tx ++ [.readData [1]] })) ∧
    (∀ a, a % 4 ≠ 0 → exec (.read32 a) s = .next { s with tx := s.tx ++ [.readData [2]] }) ∧
    (∀ a n, n = 0 ∨ 8 < n ∨ a % 4 ≠ 0 → exec (.readMulti a n) s = .next { s with tx := s.tx ++ [.readData [2]] }) ∧
    (∀ a n, 1 ≤ n → n ≤ 8 → a % 4 = 0 →
      (∀ vs : List Nat, vs.length = n → (∀ i, i < n → s.mgmtReg (a + 4 * i) = some (vs.getD i 0)) →
        exec (.readMulti a n) s = .next { s with tx := s.tx ++ [.readData (0 :: vs.flatMap fun v => toLe 4 v)] }) ∧
      (∀ i, i < n → s.mgmtReg (a + 4 * i) = none →
        exec (.readMulti a n) s = .next { s with tx := s.tx ++ [.readData [1]] })) ∧
    (∀ a, (s.scrapped = true → scrappedSees a = false → s.mgmtReg a = none) ∧
      (a / 0x100000 ∈ [1, 2, 5, 6, 7, 8, 9] → s.mgmtReg a = none)) ∧
    (∀ a w, (s.scrapped = true → exec (.mgmtSelect a w) s = .next { s with tx := s.tx ++ [.readData [1]] }) ∧
      (s.scrapped = false → s.mgmt.select a w = none →
        exec (.mgmtSelect a w) s = .next { s with tx := s.tx ++ [.readData [2]] }) ∧
      (∀ m, s.scrapped = false → s.mgmt.select a w = some m →
        exec (.mgmtSelect a w) s = .next { s with mgmt := m, tx := s.tx ++ [.readData [0]] })) ∧
    (∀ w, s.mgmt.select 0xB0000C w = some { s.mgmt with cfl := w % 8 }) ∧
    (∀ i, 64 ≤ i → exec (.readAoLog i) s = .next { s with tx := s.tx ++ [.readData [2]] }) ∧
    (∀ i e, i < 64 → s.ao.log[i]? = some e →
      exec (.readAoLog i) s = .next { s with tx := s.tx ++ [.readData (0 :: e.bytes)] }) ∧
    exec .smbAlertResponse s = .next { s with
      pins := { s.pins with smbAlert := false, alertSeen := s.alertConds }
      tx := s.tx ++ [.readData [BitVec.ofNat 8 (0x58 + s.pins.addrSel)]] }

/-! ## The random supply -/

/-- R141, R267, R280, R281, R282, R286: a health-test failure stops the Spring, counts, and fails the jobs that wait for
bytes, or, while a block reset tests, the source; SPR_CMD RESET and the automatic try; the end of a block reset; and the failures'
window of 24 h. R267, R268, R269, R270, R271, R272: raw bits that fail a test stop the Spring, and a conditioner output joins the
seed queue when the windows over its bits have closed (their length is the model's choice, log entry 122); seeds go to the first
waiting instance; and the DRBG of the reach serves a job that waits for bytes. -/
def Obligations.SpringFailsSeedsAndGenerates : Prop :=
  (
  ∀ s : State, s.alive = true →
    (∀ src test, s.spr.st = .resetting → 1 ≤ test → test ≤ 3 → exec (.springHealthFail src test) s =
      .next { s with spr := s.spr.setSource src { s.spr.source src with bad := true } }) ∧
    (∀ src test, s.spr.st = .running → (s.spr.source src).inUse = true → 1 ≤ test → test ≤ 3 →
      Answers (.springHealthFail src test) s fun t =>
        t.spr.st = (if 3 ≤ s.spr.fails24 + 1 then .dead else .failed) ∧ t.spr.fails24 = s.spr.fails24 + 1 ∧
        t.spr.failTotal = satAdd 255 s.spr.failTotal 1 ∧ t.spr.failTest = test ∧ t.spr.failSource = src ∧
        t.spr.seeds = [] ∧ (∀ x ∈ t.spr.fifo, x.2.bytes = []) ∧ (t.source 0x010).pending = true ∧
        (3 ≤ s.spr.fails24 + 1 → (t.source 0x012).pending = true) ∧
        (∀ j, s.job j.id = some j → (∀ i ∈ s.jobs, i.id = j.id → i = j) → j.status = none → j.ended = false →
          j.nodes.any Node.awaits = true → s.mayFallBack j = false →
          ∃ y, t.job j.id = some y ∧ y.status = some (if j.committed then .faultAfterCommit else .entropyFailed)) ∧
        Keeps (.lev :: weirParts) s t) ∧
    (∀ src test, s.spr.st = .running → (s.spr.source src).inUse = false → exec (.springHealthFail src test) s = .next s) ∧
    (∀ src test, s.spr.st = .failed ∨ s.spr.st = .dead ∨ test = 0 ∨ 3 < test →
      exec (.springHealthFail src test) s = .next s) ∧
    (s.hostOpen = true →
      (s.spr.transfers = 0 → s.rst.fenced = false → s.spr.st ≠ .dead → s.spr.st ≠ .resetting →
        exec (.springBlockReset false) s =
        .next { s with spr := { s.spr with
          st := .resetting, startAt := s.now, done := false, result := 0, lfsr := 1
          sources := s.spr.sources.map fun (y : Source) => { y.fresh with bad := false }
          pattern := if s.spr.testMode = 2 then true else if s.spr.testMode = 0 then false else s.spr.pattern } }) ∧
      (s.spr.transfers ≠ 0 ∨ s.rst.fenced = true ∨ s.spr.st = .dead ∨ s.spr.st = .resetting →
        exec (.springBlockReset false) s =
        .next { s with spr := { s.spr with result := 0x0109 } }) ∧
      (Answers .reseedAll s fun t =>
        t.spr.result = 0 ∧ t.spr.done = true ∧ t.spr.seeds = s.spr.seeds ∧ Keeps [.spr] s t ∧
        ∀ i, (s.drbg i).st = .ready → (t.drbg i).due = true ∧ ∃ w ∈ t.spr.waiting, w.inst = i ∧ w.job = none)) ∧
    (s.spr.autoReset = true → s.spr.st = .failed → s.spr.transfers = 0 → s.rst.fenced = false →
      exec (.springBlockReset true) s =
      .next { s with spr := { s.spr with
        st := .resetting, startAt := s.now, lfsr := 1
        sources := s.spr.sources.map fun (y : Source) => { y.fresh with bad := false }
        pattern := if s.spr.testMode = 2 then true else if s.spr.testMode = 0 then false else s.spr.pattern } }) ∧
    (s.spr.autoReset = false ∨ s.spr.st ≠ .failed → exec (.springBlockReset true) s = .next s) ∧
    (∀ rates failed raw, s.spr.st = .resetting →
      let x := (s.rawBits raw).2.spr.start rates failed (s.rawBits raw).1
      let need := 2 + s.drbgReaches.length
      (popCount x.failed 4 ≤ 1 → need ≤ (s.spr.seeds ++ x.outs).length →
        Answers (.springBlockResetDone rates failed raw) s fun t =>
          t.spr.st = .running ∧ t.spr.afterFailure = false ∧ t.spr.done = true ∧ t.spr.seeds.length ≤ 64 ∧
          t.spr.sources = x.spr.sources ∧ (t.source 0x011).pending = true) ∧
      (popCount x.failed 4 ≤ 1 → (s.spr.seeds ++ x.outs).length < need →
        exec (.springBlockResetDone rates failed raw) s = .next s) ∧
      (1 < popCount x.failed 4 → Answers (.springBlockResetDone rates failed raw) s fun t =>
        t.spr.st = (if 3 ≤ s.spr.fails24 + 1 then .dead else .failed) ∧ t.spr.done = true ∧
        (∀ y ∈ t.spr.sources, y.excluded = false) ∧ (t.source 0x010).pending = true)) ∧
    (∀ rates failed k, k < 4 → bitOf (startFails rates failed) k = (bitOf failed k || decide (rates.getD k 0 < 150))) ∧
    exec .springFailAgeOut s = .next { s with spr := { s.spr with fails24 := s.spr.fails24 - 1 } }) ∧
  (
  ∀ s : State, s.alive = true →
    (∀ (x : Source) (raw : Bytes),
      let h := x.hear raw
      (h.test = 0 ↔ (runAfter x.last x.run (rawBitsOf raw)).2.2 = false ∧ proportionFails (rawBitsOf raw) = false ∧
        (512 ≤ (x.window ++ raw).length → lagFails (rawBitsOf (x.window ++ raw)) = false)) ∧
      (h.test ≠ 0 → h.outs = [] ∧ h.src.held = []) ∧
      (h.test = 0 → 512 ≤ (x.window ++ raw).length → h.outs = x.held ++ [sha3_256 raw] ∧ h.src.held = []) ∧
      (h.test = 0 → (x.window ++ raw).length < 512 → h.outs = [] ∧ h.src.held = x.held ++ [sha3_256 raw])) ∧
    (∀ raw, s.spr.st = .running → s.spr.pattern = false →
      let h := (s.spr.source s.spr.turn).hear (fit 128 raw)
      (h.test = 0 → Answers (.conditionerOutput raw) s fun t =>
        t.spr.seeds = (s.spr.seeds ++ h.outs).take 64 ∧ t.spr.sources = s.spr.sources.set s.spr.turn h.src ∧
        t.spr.drbg = s.spr.drbg ∧ t.spr.waiting = s.spr.waiting ∧ Keeps [.spr] s t) ∧
      (h.test ≠ 0 → Answers (.conditionerOutput raw) s fun t =>
        t.spr.st = (if 3 ≤ s.spr.fails24 + 1 then .dead else .failed) ∧ t.spr.seeds = [] ∧ t.spr.failTest = h.test ∧
        t.spr.failSource = s.spr.turn ∧ (t.source 0x010).pending = true ∧ Keeps (.lev :: weirParts) s t)) ∧
    (∀ raw, s.spr.st ≠ .running → exec (.conditionerOutput raw) s = .next s) ∧
    (∀ w a rest, s.spr.st = .running → s.spr.waiting = [w] → s.drawTurn w.inst = true →
      (s.drbg w.inst).st = .ready → s.spr.seeds = a :: rest → s.seedsFor w ≠ [] →
      let d := s.drbg w.inst
      let kv := drbgReseedKv d.key d.v a w.extra
      (w.job = none → Answers .drbgReseed s fun t =>
        t.drbg w.inst = { d with
          key := kv.1, v := kv.2, count := 0, due := false, reseeds := satAdd 0xFFFFFFFF d.reseeds 1
          seedFrame := s.frameNo } ∧
        (∀ i, i ≠ w.inst → t.drbg i = s.drbg i) ∧ t.spr.seeds = rest ∧ t.spr.waiting = [] ∧ Keeps [.spr] s t) ∧
      (∀ j, w.job = some j.id → s.job j.id = some j → j.status = none → j.abortLate = false →
        Answers .drbgReseed s fun t =>
          (t.drbg w.inst).key = kv.1 ∧ (t.drbg w.inst).v = kv.2 ∧ JobEnds j .ok 0 j.output t ∧
          Keeps (.slots :: jobParts) s t)) ∧
    (∀ w a b rest more, s.spr.st = .running → s.spr.waiting = [w] → s.drawTurn w.inst = true →
      (s.drbg w.inst).st = .awaitingSeed → s.spr.seeds = a :: b :: rest → s.seedsFor w = a :: b :: more →
      let kv := drbgInit a (b.take 16) (s.drbg w.inst).pers
      Answers .drbgReseed s fun t =>
        (t.drbg w.inst).st = .ready ∧ (t.drbg w.inst).key = kv.1 ∧ (t.drbg w.inst).v = kv.2 ∧
        (t.drbg w.inst).count = 0 ∧ t.spr.seeds = rest ∧ t.spr.waiting = [] ∧ Keeps [.spr] s t) ∧
    (∀ j i n, s.job j.id = some j → j.nodes.findIdx? Node.awaits = some i → j.node i = some n →
      0 < s.entropyCount j n → s.drbgOpen j.reach = true → s.drawTurn j.reach = true →
      let g := drbgGen (s.drbg j.reach).key (s.drbg j.reach).v (s.entropyCount j n)
      Answers (.drbgGenerate j.id) s fun t =>
        t.job j.id = some { j.setNode i { n with served := true } with rnd := j.rnd ++ g.1 } ∧ t.spr.transfers = s.spr.transfers + 1 ∧
        (t.drbg j.reach).key = g.2.1 ∧ (t.drbg j.reach).v = g.2.2 ∧
        (t.drbg j.reach).count = (s.drbg j.reach).count + 1 ∧ (∀ i, i ≠ j.reach → t.drbg i = s.drbg i) ∧
        Keeps ([.spr, .jobs] ++ eventParts) s t) ∧
    (∀ j, s.job j.id = some j → j.nodes.findIdx? Node.awaits = none ∨ s.drbgOpen j.reach = false ∨ s.drawTurn j.reach = false →
      exec (.drbgGenerate j.id) s = .next s))

/-- R273, R274, R275: mask expanders and blinding buffers draw from the device DRBG, and a throttled unit goes on. R276,
R277, R284: the random-data window of a function: its refill, DATA_LO, DATA_HI, and SPR_TEST. -/
def Obligations.RandomConsumersRefill : Prop :=
  (
  ∀ s : State, s.alive = true →
    (∀ e, e < 224 → s.drbgOpen devInst = true → s.expFramed e = false →
      (s.exp e).seeded = false ∨ (s.exp e).due = true ∨ (s.exp e).throttled = true →
      Answers (.maskExpanderReseed e) s fun t =>
        (t.exp e).blocks = 0 ∧ (t.exp e).due = false ∧ (t.exp e).throttled = false ∧ (t.exp e).seeded = true ∧
        (t.exp e).reseeds = (s.exp e).reseeds + 1 ∧ (∀ k ∈ expUnits e, (t.tile k).throttled = false) ∧
        (∀ i, i ≠ e → t.exp i = s.exp i) ∧ Keeps ([.spr, .tiles] ++ eventParts) s t) ∧
    (∀ e, 224 ≤ e ∨ s.expFramed e = true ∨
        ((s.exp e).seeded = true ∧ (s.exp e).due = false ∧ (s.exp e).throttled = false) →
      exec (.maskExpanderReseed e) s = .next s) ∧
    (∀ u, u < 32 → s.drbgOpen devInst = true → (s.blind u).length ≤ 256 →
      Answers (.blindingBufferRefill u) s fun t =>
        t.blind u = s.blind u ++ (drbgGen (s.drbg devInst).key (s.drbg devInst).v 256).1 ∧
        (t.tile (tkey .bnu u)).throttled = false ∧ (∀ i, i ≠ u → t.blind i = s.blind i) ∧
        Keeps ([.spr, .tiles] ++ eventParts) s t) ∧
    (∀ u, 256 < (s.blind u).length → exec (.blindingBufferRefill u) s = .next s)) ∧
  (
  ∀ (s : State) (fn : Nat),
    (∀ r, s.alive = true → s.cfg.reachOf fn = some r → s.drbgOpen r = true → s.drawTurn r = true →
      (s.fifo fn).bytes.length ≤ 128 → Answers (.rndFifoRefill fn) s fun t =>
        t.fifo fn = { s.fifo fn with bytes := (s.fifo fn).bytes ++
          (drbgGen (s.drbg r).key (s.drbg r).v (256 - (s.fifo fn).bytes.length)).1 } ∧
        (∀ i, i ≠ fn → t.fifo i = s.fifo i) ∧ Keeps (.spr :: eventParts) s t) ∧
    (128 < (s.fifo fn).bytes.length → exec (.rndFifoRefill fn) s = .next s) ∧
    (s.hostOpen = true → s.fnOpen fn = true → fn ≠ 0 → s.fnConfigured fn = false →
      ∀ c ∈ [Instr.rndDataLoRead fn, Instr.rndDataHiRead fn],
        exec c s = .next { s with tx := s.tx ++ [.readData (zeros 4)] }) ∧
    (s.hostOpen = true → s.fnOpen fn = true → fn = 0 ∨ s.fnConfigured fn = true →
      (s.spr.st = .running → 8 ≤ (s.fifo fn).bytes.length → Answers (.rndDataLoRead fn) s fun t =>
        t.fifo fn = { s.fifo fn with bytes := (s.fifo fn).bytes.drop 8, latch := slice (s.fifo fn).bytes 4 4 } ∧
        t.tx = s.tx ++ [.readData ((s.fifo fn).bytes.take 4)] ∧ Keeps [.spr, .tx] s t) ∧
      (s.spr.st ≠ .running ∨ (s.fifo fn).bytes.length < 8 → Answers (.rndDataLoRead fn) s fun t =>
        t.fifo fn = { s.fifo fn with latch := zeros 4, err := true } ∧ Out.readData (zeros 4) ∈ t.tx ∧
        (∀ r, r < 64 → s.cfg.reachOf fn = some r → (s.fifo fn).err = false →
          (t.source (0x300 + 4 * r + 2)).pending = true) ∧ Keeps (.spr :: eventParts) s t) ∧
      (Answers (.rndDataHiRead fn) s fun t =>
        t.fifo fn = { s.fifo fn with latch := zeros 4 } ∧ t.tx = s.tx ++ [.readData (s.fifo fn).latch] ∧
        Keeps [.spr, .tx] s t)) ∧
    (s.hostOpen = true → ∀ v,
      (s.lcs.st = .testUnlocked → exec (.sprTestWrite v) s = .next { s with spr := { s.spr with
        testSrc := bitsOf v 3 2, testMode := if bitsOf v 1 0 = 3 then s.spr.testMode else bitsOf v 1 0 } }) ∧
      (s.lcs.st ≠ .testUnlocked → exec (.sprTestWrite v) s = .next s)))

/-! ## HBM -/

/-- R357, R358, R359, R360, R361, R362, R363, R366: a read of a placed line gives zeros on a fresh page, the decrypted line
where its checks pass, and fails the job that needs it where the line is poisoned or fails its code or its MAC; a job of
another reach meets an access fault. R359, R360, R362, R366, R369: a line write stores the line's ciphertext and its MAC and
makes the line valid; the first write to a fresh page writes zeros, under the page's key, to the page's other lines; a partial
write overlays its own bytes on what the line holds; and no other byte of the stack changes. R355, R361: an access to a channel
that is mapped out, to a line outside every place, or before the keys are drawn does not occur. R365, R366, R368: the patrol
scrub reads the next line of its channel, and poisons one that fails its check. -/
def Obligations.HbmReadsWritesAndScrub : Prop :=
  (
  ∀ (s : State) (c l n : Nat) (p : Place) (key : Bytes) (e : LineErr), s.alive = true → s.hbm.keysValid = true →
    s.hbm.chanOn c = true → s.placeOf c l = some (p, n) → s.keyOfLine p n = some key →
    let k := lineKey c l
    let x := s.hbm.line c l
    let macOk := slice (s.macLineOf c l) (8 * (l % 8)) 8 = lineMac s.hbm.kMac k (s.tagOfLine p n) x
    (∀ job, s.mayTouch job p = true →
      (s.fresh p n = true → Answers (.hbmRead c l job e) s fun t =>
        Keeps [.hbm, .jobs, .weir] s t ∧
        (p.kind ≠ .reserve ∨ job = none → t.hbm = { s.hbm with readLine := zeros 64 } ∧ Keeps [.hbm] s t)) ∧
      (s.fresh p n = false → s.hbm.isPoisoned k = false → badSymbols e.line = 0 → badSymbols e.macLine = 0 →
        ∃ t, exec (.hbmRead c l job e) s = .next t ∧ (macOk → t.hbm.readLine = plainLine key k x ∧
          Keeps [.hbm, .jobs, .weir] s t ∧ (p.kind ≠ .reserve ∨ job = none →
            t.hbm = { s.hbm with readLine := plainLine key k x } ∧ Keeps [.hbm] s t))) ∧
      (s.fresh p n = false → s.hbm.isPoisoned k = false → 1 ≤ badSymbols e.line → badSymbols e.line ≤ 2 →
        badSymbols e.macLine = 0 → ∃ t, exec (.hbmRead c l job e) s = .next t ∧ (macOk →
          t.hbm.readLine = plainLine key k x ∧ tget 0 t.hbm.ce c = satAdd 0xFFFFFFFF (tget 0 s.hbm.ce c) 1 ∧
          (t.source (0x020 + c)).pending = true ∧ (p.kind ≠ .reserve ∨ job = none → t.hbm.mem = s.hbm.mem) ∧
          Keeps ([.hbm, .jobs, .weir] ++ eventParts) s t))) ∧
    (∀ j, s.job j.id = some j → j.status = none → j.committed = false → s.mayTouch (some j.id) p = true →
      s.fresh p n = false →
      (s.hbm.isPoisoned k = true → Answers (.hbmRead c l (some j.id) e) s fun t =>
        JobEnds j .memUncorrectable 0 [] t ∧ Keeps (.slots :: jobParts) s t) ∧
      (s.hbm.isPoisoned k = false → 2 < badSymbols e.line → ∃ t, exec (.hbmRead c l (some j.id) e) s = .next t ∧
        (decodeLine x e.line = .detected →
          JobEnds j .memUncorrectable 0 [] t ∧ t.hbm.lastPoison = poisonWord false 0 c l ∧
          tget 0 t.hbm.ue c = satAdd 0xFFFFFFFF (tget 0 s.hbm.ue c) 1 ∧ (t.source (0x030 + c)).pending = true ∧
          (Plain s c l → NoCtx j → t.hbm.isPoisoned k = true ∧ t.hbm.mem = s.hbm.mem) ∧
          Keeps ([.hbm, .records] ++ jobParts ++ keyParts ++ eventParts) s t)) ∧
      (s.hbm.isPoisoned k = false → badSymbols e.line = 0 → badSymbols e.macLine = 0 →
        ∃ t, exec (.hbmRead c l (some j.id) e) s = .next t ∧ (¬ macOk →
          JobEnds j .memUncorrectable 0 [] t ∧ t.hbm.lastPoison = poisonWord false 1 c l ∧
          tget 0 t.hbm.macFail c = satAdd 0xFFFFFFFF (tget 0 s.hbm.macFail c) 1 ∧ (t.source (0x030 + c)).pending = true ∧
          (Plain s c l → NoCtx j → t.hbm.isPoisoned k = true ∧ t.hbm.mem = s.hbm.mem) ∧
          Keeps ([.hbm, .records] ++ jobParts ++ keyParts ++ eventParts) s t)) ∧
      (s.hbm.isPoisoned k = false → badSymbols e.line = 0 → 2 < badSymbols e.macLine →
        ∃ t, exec (.hbmRead c l (some j.id) e) s = .next t ∧ (decodeLine (s.macLineOf c l) e.macLine = .detected →
          JobEnds j .memUncorrectable 0 [] t ∧ t.hbm.lastPoison = poisonWord false 2 c (l / 8 * 8) ∧
          (t.source (0x030 + c)).pending = true ∧
          ((∀ i, i < 8 → Plain s c (l / 8 * 8 + i)) → NoCtx j → t.hbm.mem = s.hbm.mem ∧
            ∀ i, i < 8 → t.hbm.isPoisoned (lineKey c (l / 8 * 8 + i)) = true) ∧ Keeps ([.hbm, .records] ++ jobParts ++ keyParts ++ eventParts) s t))) ∧
    (∀ j, s.job j.id = some j → j.status = none → j.committed = false → s.mayTouch (some j.id) p = false →
      Answers (.hbmRead c l (some j.id) e) s fun t =>
        JobEnds j .engineFault 0 [] t ∧ Keeps (.slots :: jobParts) s t)) ∧
  (
  ∀ (s : State) (c l n : Nat) (p : Place) (key : Bytes), MemOk s → s.alive = true → s.hbm.keysValid = true →
    s.hbm.chanOn c = true → s.placeOf c l = some (p, n) → s.keyOfLine p n = some key → l < s.usableLines →
    let k := lineKey c l
    (∀ bs : Bytes, s.fresh p n = false → Answers (.hbmWrite c l bs) s fun t =>
      t.hbm.line c l = cipherLine key k bs ∧
      memRead t.hbm.mem (s.macAddr c l) 8 = lineMac s.hbm.kMac k (s.tagOfLine p n) (cipherLine key k bs) ∧
      (∀ a, a < 64 * k ∨ 64 * k + 64 ≤ a → a < s.macAddr c l ∨ s.macAddr c l + 8 ≤ a →
        memGet t.hbm.mem a = memGet s.hbm.mem a) ∧
      t.hbm.isPoisoned k = false ∧ t.hbm.written = s.hbm.written ∧ Keeps [.hbm] s t) ∧
    (∀ bs : Bytes, s.fresh p n = true → p.kind ≠ .reserve →
      let size := min 64 (p.lines - n / 64 * 64)
      let chan (i : Nat) : Nat := p.chans.getD ((n / 64 * 64 + i) % p.chans.length) 0
      let line (i : Nat) : Nat := p.base + (n / 64 * 64 + i) / p.chans.length
      (∀ i, i < size → line i < s.usableLines) → Answers (.hbmWrite c l bs) s fun t =>
        t.hbm.line c l = cipherLine key k bs ∧ t.fresh p n = false ∧
        (∀ i, i < size → p.at (n / 64 * 64 + i) ≠ k →
          t.hbm.line (chan i) (line i) = cipherLine key (p.at (n / 64 * 64 + i)) []) ∧
        (∀ a, (∀ i, i < size → a / 64 ≠ p.at (n / 64 * 64 + i) ∧
            (a < s.macAddr (chan i) (line i) ∨ s.macAddr (chan i) (line i) + 8 ≤ a)) →
          memGet t.hbm.mem a = memGet s.hbm.mem a) ∧ Keeps [.hbm] s t) ∧
    (∀ off (bs : Bytes) job e, s.mayTouch job p = true → s.fresh p n = false → s.hbm.isPoisoned k = false →
      badSymbols e.line = 0 → badSymbols e.macLine = 0 → ∃ t, exec (.hbmPartialWrite c l off bs job e) s = .next t ∧
        (slice (s.macLineOf c l) (8 * (l % 8)) 8 = lineMac s.hbm.kMac k (s.tagOfLine p n) (s.hbm.line c l) →
          t.hbm.line c l = cipherLine key k ((overlayAt (plainLine key k (s.hbm.line c l)) off bs).take 64) ∧
          (∀ a, a < 64 * k ∨ 64 * k + 64 ≤ a → a < s.macAddr c l ∨ s.macAddr c l + 8 ≤ a →
            memGet t.hbm.mem a = memGet s.hbm.mem a) ∧ Keeps [.hbm] s t))) ∧
  (
  ∀ (s : State) (c : Nat), s.alive = true →
    (∀ l, s.hbm.keysValid = false ∨ s.hbm.chanOn c = false ∨ s.placeOf c l = none →
      (∀ job e, exec (.hbmRead c l job e) s = .next s) ∧ (∀ bs, exec (.hbmWrite c l bs) s = .next s) ∧
      (∀ off bs job e, exec (.hbmPartialWrite c l off bs job e) s = .next s)) ∧
    (s.hbm.keysValid = false ∨ s.hbm.chanOn c = false → ∀ e, exec (.patrolScrub c e) s = .next s) ∧
    (∀ e : LineErr, s.hbm.keysValid = true → s.hbm.chanOn c = true →
      let l := s.hbm.scrubs c % s.chanLines
      let u : State := { s with hbm := { s.hbm with scrubbed := tset s.hbm.scrubbed c (s.hbm.scrubs c + 1) } }
      let bare := s.placeOf c l = none ∨ ∃ p n, s.placeOf c l = some (p, n) ∧ s.fresh p n = true
      (badSymbols e.line = 0 → s.usableLines ≤ l ∨ bare → exec (.patrolScrub c e) s = .next u) ∧
      (l < s.usableLines → s.hbm.isPoisoned (lineKey c l) = true → exec (.patrolScrub c e) s = .next u) ∧
      (∀ p n, l < s.usableLines → s.hbm.isPoisoned (lineKey c l) = false → s.placeOf c l = some (p, n) →
        s.fresh p n = false → badSymbols e.line = 0 → badSymbols e.macLine = 0 →
        ∃ t, exec (.patrolScrub c e) s = .next t ∧
          (slice (s.macLineOf c l) (8 * (l % 8)) 8 =
            lineMac s.hbm.kMac (lineKey c l) (s.tagOfLine p n) (s.hbm.line c l) → t = u)) ∧
      (l < s.usableLines → s.hbm.isPoisoned (lineKey c l) = false → bare → 1 ≤ badSymbols e.line →
        badSymbols e.line ≤ 2 → Answers (.patrolScrub c e) s fun t =>
          t.hbm.scrubs c = s.hbm.scrubs c + 1 ∧ tget 0 t.hbm.ce c = satAdd 0xFFFFFFFF (tget 0 s.hbm.ce c) 1 ∧
          (t.source (0x020 + c)).pending = true ∧ t.hbm.mem = s.hbm.mem ∧ Keeps (.hbm :: eventParts) s t) ∧
      (l < s.usableLines → s.hbm.isPoisoned (lineKey c l) = false → 2 < badSymbols e.line →
        ∃ t, exec (.patrolScrub c e) s = .next t ∧ (decodeLine (s.hbm.line c l) e.line = .detected →
          t.hbm.scrubs c = s.hbm.scrubs c + 1 ∧ tget 0 t.hbm.ue c = satAdd 0xFFFFFFFF (tget 0 s.hbm.ue c) 1 ∧
          t.hbm.lastPoison = poisonWord true 0 c l ∧ (t.source (0x030 + c)).pending = true ∧
          (Plain s c l → t.hbm.isPoisoned (lineKey c l) = true ∧ t.hbm.mem = s.hbm.mem) ∧ Keeps ([.hbm, .records] ++ jobParts ++ keyParts ++ eventParts) s t)) ∧
      (s.usableLines ≤ l → 2 < badSymbols e.line → ∃ t, exec (.patrolScrub c e) s = .next t ∧
        (decodeLine (s.hbm.line c l) e.line = .detected →
          t.hbm.lastPoison = poisonWord true 2 c (8 * (l - s.usableLines) / 8 * 8) ∧
          ((∀ i, i < 8 → Plain s c (8 * (l - s.usableLines) / 8 * 8 + i)) → t.hbm.mem = s.hbm.mem ∧
            ∀ i, i < 8 → t.hbm.isPoisoned (lineKey c (8 * (l - s.usableLines) / 8 * 8 + i)) = true)))))

/-! ## Confluence -/

/-- R371, R372: a port that loses lock goes DOWN with its keys and its spilled jobs; a DOWN port that the configuration enables
retrains; and a port trains only with all four lanes. R375: a link statement is accepted only when every check of the table holds. -/
def Obligations.LinksTrainAndPeersAreChecked : Prop :=
  (
  ∀ (s : State) (p : Nat), s.alive = true →
    ((s.port p).st.locked = true → Answers (.portLockLoss p) s fun t =>
      (t.port p).st = .down ∧ (t.port p).lanesOk = 0 ∧ (t.port p).txKey = [] ∧ (t.port p).rxKey = [] ∧
      (t.port p).hs = .none ∧ (t.port p).probed = none ∧ (t.port p).retrains = (s.port p).retrains ∧
      (∀ j, s.job j.id = some j → j.status = none →
        (s.jobs.filter fun x => x.st == .spilled && x.spillPort == p) = [j] →
        let y : Job := { j with st := .fetched, noSpill := true, spillAt := none }
        (j.abortLate = true → JobEnds j .aborted 0 [] t) ∧
        (j.abortLate = false → s.basinWait y = true → t.job j.id = some y) ∧
        (∀ b, j.abortLate = false → s.basinWait y = false → (s.templateFor y).1 ≠ [] → s.homeBasin y = some b →
          s.delayEnd y ≤ s.now → t.job j.id = some { y with basin := b, st := .admitted })) ∧
      Keeps (.slots :: jobParts ++ eventParts) s t) ∧
    ((s.port p).st.locked = false → exec (.portLockLoss p) s = .next s) ∧
    ((s.port p).st = .down → s.cfl.retrainEn = true → s.cfg.portEn p = true → Answers (.portRetrain p) s fun t =>
      (t.port p).st = .training ∧ (t.port p).retrains = satAdd 0xFFFF (s.port p).retrains 1 ∧
      (p < 8 → (t.source (0x280 + p)).pending = true) ∧ Keeps eventParts s t) ∧
    ((s.port p).st ≠ .down ∨ s.cfl.retrainEn = false ∨ s.cfg.portEn p = false → exec (.portRetrain p) s = .next s) ∧
    (s.rst.waiting = false → ∀ lanes,
      ((s.port p).st = .training → Answers (.portTrainingDone p lanes) s fun t =>
        (t.port p).st = (if lanes % 16 ≠ 15 then .down else if s.wsh.configured then .attesting else .trained) ∧
        (t.port p).lanesOk = lanes % 16 ∧ (∀ q, q ≠ p → (t.port q).st = (s.port q).st) ∧ Keeps eventParts s t) ∧
      ((s.port p).st ≠ .training → exec (.portTrainingDone p lanes) s = .next s))) ∧
  (
  ∀ (s : State) (p : Nat) (m : LinkStatement) (transcript : Bytes), s.statementCode p m transcript = 0 →
    mlDsaAccepts 2 (Config.chainKeys m.chain).1 (pureEmpty (sigStructure (algProtected 50) m.payload))
      m.sigMldsa = true ∧
    ecdsaAccepts 1 (Config.chainKeys m.chain).2 (sha384 (sigStructure (algProtected 35) m.payload))
      m.sigEcdsa = true ∧
    linkClaimsOk m = true ∧ m.transcript = sha3_384 transcript ∧
    (Config.chainOk m.chain = true ∨ s.cfl.uncertOk = true ∧ 0 < m.gen) ∧ m.owned = true ∧
    m.ownerDigest = fit 48 s.fuse.ownerMldsa ∧ m.clusterId = s.clusterId ∧ s.neighbourOk p m.devId = true ∧
    m.devId = (s.port p).peerDev)

/-- R373 to R376: PROBE chooses the roles; HELLO, REPLY and FINISH are checked, answered and bring the link UP with the
keys derived from the encapsulated secret; the initiator sends again, and either side gives up. -/
def Obligations.LinkHandshakeRuns : Prop :=
  ∀ (s : State) (p : Nat), s.alive = true →
    ((s.port p).st = .attesting → (s.port p).hs = .none → Answers (.probeSend p) s fun t =>
      t.tx = s.tx ++ [.frame p 0x09 0xFFFF (msgHeader 0x09 2 48 0xFF s.devId 0xFFFF s.ownEpoch s.cfl.seq 7 0 ++
        (toLe 1 1 ++ toLe 2 s.devId ++ toLe 4 s.clusterId))] ∧ t.cfl.seq = s.cfl.seq + 1 ∧ Keeps [.cfl, .tx] s t) ∧
    ((s.port p).st ≠ .attesting ∨ (s.port p).hs ≠ .none → exec (.probeSend p) s = .next s) ∧
    (∀ dev cluster, (s.port p).st = .attesting → (s.port p).hs = .none → Answers (.probe p dev cluster) s fun t =>
      (dev = s.devId → (t.port p).st = .refused ∧ (t.port p).refuse = 6) ∧
      (dev < s.devId → (t.port p).peerDev = dev ∧ (t.port p).probed = some ((s.port p).probed.getD s.now) ∧
        (t.port p).hs = .none ∧ Keeps [.cfl] s t) ∧
      (s.devId < dev → s.drbgOpen devInst = true →
        let seed := (drbgGen (s.drbg devInst).key (s.drbg devInst).v 64).1
        (t.port p).peerDev = dev ∧ (t.port p).hs = .sentHello ∧ (t.port p).initiator = true ∧
        (t.port p).seed = seed ∧ (t.port p).ek = kemEk seed ∧ (t.port p).sentAt = s.now ∧
        (∃ body, .frame p 0x09 0xFFFF body ∈ t.tx) ∧ Keeps (.spr :: eventParts) s t)) ∧
    (∀ ek m, s.linkHears p = true → (s.port p).initiator = false → (s.port p).probed.isSome = true →
      Answers (.hello p ek m) s fun t =>
        (s.statementCode p m ek ≠ 0 → (t.port p).st = .refused ∧ (t.port p).refuse = s.statementCode p m ek) ∧
        (s.statementCode p m ek = 0 → s.drbgOpen devInst = true →
          let r := mlKemEncapsWith 2 (kemEkMatrix 2 ek) ek (drbgGen (s.drbg devInst).key (s.drbg devInst).v 32).1
          (t.port p).hs = .sentReply ∧ (t.port p).ek = ek ∧ (t.port p).ct = fit 1568 r.1 ∧
          (t.port p).newKeys = linkKeys (fit 32 r.2) ek (fit 1568 r.1) ∧ (t.port p).st = (s.port p).st ∧
          (t.port p).txKey = (s.port p).txKey ∧ (t.port p).rxKey = (s.port p).rxKey ∧
          Keeps (.spr :: eventParts) s t)) ∧
    (∀ ct m, s.linkHears p = true → (s.port p).initiator = true → (s.port p).hs = .sentHello →
      let c := s.statementCode p m ((s.port p).ek ++ ct)
      let dk := mlKemNew 2 (s.port p).seed
      let keys := linkKeys (mlKemDecapsWith 2 (kemEkMatrix 2 (mlKemEk 2 dk)) dk ct) (s.port p).ek ct
      Answers (.reply p ct m) s fun t =>
        (c ≠ 0 → (t.port p).st = .refused ∧ (t.port p).refuse = c) ∧
        (c = 0 → (t.port p).st = .up ∧ (t.port p).hs = .sentFinish ∧ (t.port p).txKey = keys.take 32 ∧
          (t.port p).rxKey = keys.drop 32 ∧ (t.port p).newKeys = [] ∧ (t.port p).seed = [] ∧
          (t.port p).probed = none ∧ (t.port p).upSince = s.now ∧ Keeps (.spr :: eventParts) s t)) ∧
    (∀ tag, s.linkHears p = true → (s.port p).hs = .sentReply → (s.port p).initiator = false →
      (tag = fit 16 (Config.finishTag (s.port p).newKeys ((s.port p).ek ++ (s.port p).ct)) →
        Answers (.finish p tag) s fun t =>
          (t.port p).st = .up ∧ (t.port p).hs = .none ∧ (t.port p).rxKey = (s.port p).newKeys.take 32 ∧
          (t.port p).txKey = (s.port p).newKeys.drop 32 ∧ (t.port p).newKeys = [] ∧ (t.port p).upSince = s.now ∧
          Keeps (.spr :: eventParts) s t) ∧
      (tag ≠ fit 16 (Config.finishTag (s.port p).newKeys ((s.port p).ek ++ (s.port p).ct)) →
        Answers (.finish p tag) s fun t => (t.port p).hs = .sentReply ∧ (t.port p).st = (s.port p).st ∧
          Keeps [.cfl] s t)) ∧
    (s.linkHears p = true → s.drbgOpen devInst = true → (s.port p).hs = .sentHello →
      Answers (.handshakeResend p) s fun t =>
        t.now = max s.now ((s.port p).sentAt + 1000000) ∧ (t.port p).sentAt = t.now ∧
        (t.port p).ek = kemEk (drbgGen (s.drbg devInst).key (s.drbg devInst).v 64).1) ∧
    (s.linkHears p = true → (s.port p).hs = .sentReply → Answers (.handshakeResend p) s fun t =>
      t.now = max s.now ((s.port p).sentAt + 1000000) ∧ (t.port p).sentAt = t.now ∧ (t.port p).ct = (s.port p).ct ∧
      Keeps [.now, .cfl, .tx] s t) ∧
    (∀ a, s.linkHears p = true → (s.port p).probed = some a → Answers (.handshakeTimeout p) s fun t =>
      (t.port p).st = .refused ∧ (t.port p).refuse = 7 ∧ t.now = max s.now (a + 5000000)) ∧
    (s.linkHears p = true → (s.port p).probed = none → exec (.handshakeTimeout p) s = .next s) ∧
    ((s.port p).st = .up → (s.port p).initiator = true → (s.port p).hs ≠ .sentHello → s.drbgOpen devInst = true →
      Answers (.rekey p) s fun t =>
        (t.port p).st = .up ∧ (t.port p).hs = .sentHello ∧ (t.port p).probed = some t.now ∧
        (t.port p).txKey = (s.port p).txKey ∧ (t.port p).rxKey = (s.port p).rxKey ∧
        ((s.port p).upSince + 3600000000000 ≤ t.now ∨ 2 ^ 40 ≤ max (s.port p).txFrames (s.port p).rxFrames)) ∧
    ((s.port p).st = .up → Answers (.linkFrameTagFail p) s fun t =>
      (t.port p).tagFail = satAdd 0xFFFF (s.port p).tagFail 1 ∧ t.cfl.drop = satAdd 0xFFFFFFFF s.cfl.drop 1 ∧
      (t.port p).txKey = (s.port p).txKey ∧ (t.port p).rxKey = (s.port p).rxKey ∧ Keeps [.cfl] s t)

/-- R377, R378, R386, R387, R443: messages in transit are routed on or discarded, floods go on once, and a flooded ALARM,
FENCED, TRIGGER or FW_ACTIVATE of another device is acted on once. -/
def Obligations.MessagesTravelAndAct : Prop :=
  ∀ (s : State) (p : Nat) (h : MsgHdr), s.alive = true → (s.port p).st = .up →
    (∀ cls body, h.dst ≠ s.devId →
      (h.ttl ≤ 1 ∨ s.routeTo h.dst = none → Answers (.messageForward p cls h body) s fun t =>
        t.cfl.drop = satAdd 0xFFFFFFFF s.cfl.drop 1 ∧ t.tx = s.tx ∧ Keeps [.cfl] s t) ∧
      (∀ q, 1 < h.ttl → s.routeTo h.dst = some q → Answers (.messageForward p cls h body) s fun t =>
        t.tx = s.tx ++ [.frame q cls h.dst (hdrBytes h cls (h.ttl - 1) body.length ++ body)] ∧
        t.cfl.drop = s.cfl.drop ∧ Keeps [.cfl, .tx] s t)) ∧
    (∀ cls body,
      ((h.src, h.seq) ∈ s.cfl.seen → exec (.floodForward p cls h body) s = .next s) ∧
      ((h.src, h.seq) ∉ s.cfl.seen → Answers (.floodForward p cls h body) s fun t =>
        t.cfl.seen = s.cfl.seen ++ [(h.src, h.seq)] ∧ Keeps [.cfl, .tx] s t ∧
        (1 < h.ttl → t.tx = s.tx ++ (s.upPorts.filter (· != p)).map fun q =>
          .frame q cls 0xFFFF (hdrBytes h cls (h.ttl - 1) body.length ++ body)) ∧
        (h.ttl ≤ 1 → t.tx = s.tx ∧ t.cfl.drop = satAdd 0xFFFFFFFF s.cfl.drop 1))) ∧
    (h.src ≠ s.devId → (h.src, h.seq) ∉ s.cfl.acted →
      (Answers (.alarm p h) s fun t =>
        (t.source 0x290).pending = true ∧ (t.source 0x290).cause = h.src ∧ (h.src, h.seq) ∈ t.cfl.acted ∧
        Keeps eventParts s t) ∧
      (Answers (.fenced p h) s fun t =>
        (t.source 0x291).pending = true ∧ h.src ∈ t.cfl.fencedDevs ∧
        (∀ q j, (s.cfl.pendingReq.filter fun x => x.cls == 0x06 && x.dest == h.src) = [q] → q.job = some j.id →
          s.job j.id = some j → j.status = none → JobEnds j .leaseExhausted 3 [] t) ∧
        Keeps (.slots :: jobParts ++ eventParts) s t) ∧
      (s.snp.enCfl = true → Answers (.trigger p h) s fun t =>
        (t.source 0x294).pending = true ∧ t.pins.trigOut = true ∧ Keeps eventParts s t) ∧
      (∀ instant digest,
        (digest = s.fwu.digest → s.fwu.st = .staged ∨ s.fwu.st = .armed →
          Answers (.fwActivate p h instant digest false) s fun t =>
            t.fwu = { s.fwu with instant := instant, st := .armed } ∧ Keeps [.cfl, .fwu] s t) ∧
        (digest = s.fwu.digest → s.fwu.st = .armed →
          Answers (.fwActivate p h instant digest true) s fun t =>
            t.fwu = { s.fwu with st := .staged } ∧ Keeps [.cfl, .fwu] s t) ∧
        (∀ cancel, digest ≠ s.fwu.digest → Answers (.fwActivate p h instant digest cancel) s fun t =>
          t.fwu = { s.fwu with ignored := satAdd 0xFFFFFFFF s.fwu.ignored 1 } ∧ Keeps [.cfl, .fwu] s t))) ∧
    (h.src = s.devId ∨ (h.src, h.seq) ∈ s.cfl.acted →
      exec (.alarm p h) s = .next s ∧ exec (.fenced p h) s = .next s ∧ exec (.trigger p h) s = .next s ∧
      ∀ instant digest cancel, exec (.fwActivate p h instant digest cancel) s = .next s)

/-- R384, R385: TIME messages, PPS_IN and CFL_TIME_SET. -/
def Obligations.TimeFollowsItsMaster : Prop :=
  ∀ s : State, s.alive = true →
    (∀ p, (s.port p).st = .up → Answers (.timeExchange p) s fun t =>
      t.tx = s.tx ++ [.frame p 0x01 0xFFFF (msgHeader 0x01 2 48 0xFF s.devId 0xFFFF s.ownEpoch s.cfl.seq
        s.timeBody.length 0 ++ s.timeBody)] ∧ Keeps [.cfl, .tx] s t) ∧
    (∀ p m, (s.port p).st = .up → Answers (.time p m) s fun t =>
      (t.port p).linkDelay = m.delayNs ∧ (t.port p).peerMaster = some (m.master, m.locked, m.hops) ∧
      (s.wsh.configured = true → t.cfl.masterDev = t.bestWay.master ∧ t.cfl.hops = t.bestWay.hops) ∧
      (t.bestWay.port = some p →
        t.cfl.timeTarget = Int.ofNat (m.time + m.delayNs) - Int.ofNat s.now ∧
        ((t.port p).exchanges = 2 → t.cfl.timeValid = true)) ∧
      (t.bestWay.port ≠ some p → t.cfl.timeTarget = s.cfl.timeTarget ∧ t.cfl.timeOffset = s.cfl.timeOffset) ∧
      Keeps eventParts s t) ∧
    (Answers .ppsInEdge s fun t =>
      t.cfl.ppsLast = some s.now ∧ Keeps eventParts s t ∧
      (∀ a, s.cfl.ppsLast = some a → s.now ≤ a + 1000000100 → a + 999999900 ≤ s.now →
        t.cfl.ppsGood = min 3 (s.cfl.ppsGood + 1) ∧ (2 ≤ s.cfl.ppsGood → t.cfl.ppsLock = true) ∧
        (s.cfl.ppsGood = 2 → s.cfl.ppsLock = false → (t.source 0x292).pending = true)) ∧
      ((∀ a, s.cfl.ppsLast = some a → a + 1000000100 < s.now ∨ s.now < a + 999999900) →
        t.cfl.ppsGood = 0 ∧ t.cfl.ppsLock = false)) ∧
    (∀ hi, s.hostOpen = true →
      let v := hi * 2 ^ 32 + s.cfl.timeSetLo
      (s.wsh.configured = true → s.bestWay.port = none → s.clusterTime < v → Answers (.cflTimeSet hi) s fun t =>
        t.clusterTime = v ∧ Keeps [.cfl] s t) ∧
      (s.bestWay.port.isSome = true ∨ v ≤ s.clusterTime → Answers (.cflTimeSet hi) s fun t =>
        t.clusterTime = s.clusterTime ∧ Keeps [.cfl] s t))

/-- R385: cluster time never steps back. What brings a device reset starts it afresh, and is left out. -/
def Obligations.ClusterTimeNeverStepsBack : Prop :=
  ∀ (s : State) (c : Instr) (t : State), mayReconfigure c = false → exec c s = .next t → s.clusterTime ≤ t.clusterTime

/-- R310, R381, R387, R388: lease requests and their answers, refusals and the one re-send. R177: a job that waits for a grant
draws from it. -/
def Obligations.LeaseRequestsAndAnswers : Prop :=
  ∀ (s : State) (p : Nat) (h : MsgHdr), s.alive = true → (s.port p).st = .up → h.dst = s.devId →
    (∀ keyId q, s.rst.fenced = false → s.lev.fenced = false → s.routeTo h.src = some q →
      let reply := fun (cls status : Nat) (body : Bytes) => Out.frame q cls h.src (msgHeader cls 0 48 h.reach s.devId
        h.src (s.knownEpoch h.src h.reach) h.seq body.length status ++ body)
      (s.epochOk h = false → Answers (.leaseReq p h keyId) s fun t =>
        t.tx = s.tx ++ [reply 0x07 Status.staleRole.code []] ∧
        t.cfl.staleIn = satAdd 0xFFFFFFFF s.cfl.staleIn 1 ∧ Keeps [.cfl, .tx] s t) ∧
      (s.epochOk h = true → (s.reach h.reach).st = .quiescing ∨ (s.reach h.reach).st = .quiesced →
        Answers (.leaseReq p h keyId) s fun t =>
          t.tx = s.tx ++ [reply 0x07 Status.reachQuiescing.code []] ∧ Keeps [.cfl, .tx] s t) ∧
      (∀ l r, s.epochOk h = true → (s.reach h.reach).st = .serving → s.homeLease keyId = .ok l →
        s.record keyId = some r → Answers (.leaseReq p h keyId) s fun t =>
          t.tx = s.tx ++ [reply 0x06 0 (toLe 8 l.next ++ toLe 8 l.stop ++ toLe 8 (r.limit - l.stop))] ∧
          t.record keyId = some (KeyRec.sealed s.kst.lmk { r with floor := max r.floor l.stop, grants := r.grants + 1 }) ∧
          Keeps [.records, .cfl, .tx] s t) ∧
      (∀ e, s.epochOk h = true → (s.reach h.reach).st = .serving → s.homeLease keyId = .error e →
        Answers (.leaseReq p h keyId) s fun t =>
          reply 0x06 Status.leaseExhausted.code [] ∈ t.tx ∧ t.records = s.records ∧ Keeps eventParts s t)) ∧
    (∀ keyId, s.rst.fenced = true ∨ s.lev.fenced = true → exec (.leaseReq p h keyId) s = .next s) ∧
    (∀ x j start stop remain, s.reqOf h = some x → x.cls = 0x06 → h.status ≠ 0 → x.job = some j.id →
      s.job j.id = some j → j.status = none → Answers (.leaseGrant p h start stop remain) s fun t =>
        JobEnds j .leaseExhausted 3 [] t ∧ (∀ y ∈ t.cfl.pendingReq, y.id ≠ x.id) ∧ Keeps (.slots :: jobParts) s t) ∧
    (∀ x j o v start stop remain, s.reqOf h = some x → x.cls = 0x06 → h.status = 0 → (s.slot x.slot).st = .live →
      Lease.some? (s.slot x.slot).cur = none → start < stop →
      (s.jobs.filter fun y => y.drawsFrom x.slot) = [j] → s.job j.id = some j →
      s.opOfJob j = some (o, v) → o.loadsKey = true → o.drawsIndex = true → j.keyCopy = none →
      Answers (.leaseGrant p h start stop remain) s fun t =>
        (t.job j.id).map Job.index = some (some start) ∧
        (t.slot x.slot).cur = some { next := start + 1, stop := stop, committed := true }) ∧
    (∀ x start stop remain, s.reqOf h = some x → x.cls = 0x06 → h.status = 0 → (s.slot x.slot).st = .live →
      (∀ y ∈ s.jobs, y.drawsFrom x.slot = false) → Answers (.leaseGrant p h start stop remain) s fun t =>
        (t.slot x.slot).remote = remain ∧
        (Lease.some? (s.slot x.slot).cur = none →
          (t.slot x.slot).cur = some { next := start, stop := stop, committed := true }) ∧
        (Lease.some? (s.slot x.slot).cur ≠ none → (t.slot x.slot).cur = (s.slot x.slot).cur ∧
          (t.slot x.slot).nxt = some { next := start, stop := stop, committed := true }) ∧
        (∀ y ∈ t.cfl.pendingReq, y.id ≠ x.id) ∧ Keeps [.slots, .cfl] s t) ∧
    (∀ start stop remain, s.reqOf h = none → Answers (.leaseGrant p h start stop remain) s fun t =>
      t.slots = s.slots ∧ Keeps [.cfl] s t) ∧
    (∀ x j, (s.cfl.pendingReq.find? fun q => q.id == x.id && q.cls == 0x06) = some x → x.job = some j.id →
      s.job j.id = some j → j.status = none → Answers (.leaseGrantTimeout x.id) s fun t =>
        JobEnds j .leaseExhausted 3 [] t ∧ t.now = max s.now (x.sentAt + 10000000) ∧
        (∀ y ∈ t.cfl.pendingReq, y.id ≠ x.id) ∧ Keeps ([.now, .slots] ++ jobParts ++ eventParts) s t) ∧
    (∀ x, s.reqOf h = some x → x.resent = false → Answers (.refuse p h Status.staleRole.code) s fun t =>
      (∃ y ∈ t.cfl.pendingReq, y.id = x.id ∧ y.again = true) ∧ Keeps [.cfl] s t) ∧
    (∀ x j status, s.reqOf h = some x → status ≠ Status.staleRole.code ∨ x.resent = true → x.job = some j.id →
      s.job j.id = some j → j.status = none → Answers (.refuse p h status) s fun t =>
        (x.cls = 0x06 → JobEnds j .leaseExhausted 3 [] t) ∧
        (x.cls ≠ 0x06 → j.st = .spilled →
          let y : Job := { j with st := .fetched, noSpill := true, spillAt := none }
          (j.abortLate = true → JobEnds j .aborted 0 [] t) ∧
          (j.abortLate = false → s.basinWait y = true → t.job j.id = some y) ∧
          (∀ b, j.abortLate = false → s.basinWait y = false → (s.templateFor y).1 ≠ [] → s.homeBasin y = some b →
            s.delayEnd y ≤ s.now → t.job j.id = some { y with basin := b, st := .admitted })) ∧
        (∀ y ∈ t.cfl.pendingReq, y.id ≠ x.id) ∧ Keeps ([.slots, .kst] ++ jobParts ++ eventParts) s t) ∧
    (∀ x status, s.reqOf h = some x → status ≠ Status.staleRole.code ∨ x.resent = true → x.cls ≠ 0x06 → x.job = none →
      Answers (.refuse p h status) s fun t =>
        t.kst.result = (if x.place then Status.badParams.code else s.kst.result) ∧
        (∀ y ∈ t.cfl.pendingReq, y.id ≠ x.id) ∧ Keeps [.kst, .cfl] s t)

/-- R310, R380 to R383: ADVERT carries the backlog, the epochs, the fence and the cluster key; key copies and placements are
installed or refused. -/
def Obligations.AdvertsAndKeyCopies : Prop :=
  ∀ (s : State) (p : Nat), s.alive = true → (s.port p).st = .up →
    (Answers (.advertSend p) s fun t =>
      t.tx = s.tx ++ [.frame p 0x08 0xFFFF (msgHeader 0x08 2 48 0xFF s.devId 0xFFFF s.ownEpoch s.cfl.seq
        s.advertBody.length 0 ++ s.advertBody)] ∧ Keeps [.cfl, .tx] s t) ∧
    (∀ m, Answers (.advert p m) s fun t =>
      (t.port p).peerBacklog = m.backlog ∧ (t.port p).peerThreshold = m.threshold ∧
      (t.port p).peerEpochs = m.epochs ∧ (t.port p).peerFenced = m.fenced ∧
      (m.fenced = true → (s.port p).peerDev ∈ t.cfl.fencedDevs) ∧
      (∀ k, m.key = some k → s.keyPolicy = true → s.cfl.clusterKey = none ∨ m.keyDev < s.cfl.keyDev →
        t.cfl.clusterKey = some k ∧ t.cfl.keyDev = m.keyDev ∧ (t.source 0x293).pending = true) ∧
      (m.key = none ∨ s.keyPolicy = false ∨ s.cfl.clusterKey ≠ none ∧ s.cfl.keyDev ≤ m.keyDev →
        t.cfl.clusterKey = s.cfl.clusterKey ∧ t.cfl.keyDev = s.cfl.keyDev) ∧
      Keeps (.slots :: jobParts ++ eventParts) s t) ∧
    (∀ (h : MsgHdr) (k : KeyMsg), h.dst = s.devId → s.rst.fenced = false → s.lev.fenced = false →
      (s.epochOk h = false →
        (Answers (.keyRepl p h k) s fun t => t.slots = s.slots ∧
          t.cfl.staleIn = satAdd 0xFFFFFFFF s.cfl.staleIn 1 ∧ Keeps [.cfl, .tx] s t) ∧
        (Answers (.keyPlace p h k) s fun t => t.slots = s.slots ∧
          t.cfl.staleIn = satAdd 0xFFFFFFFF s.cfl.staleIn 1 ∧ Keeps [.cfl, .tx] s t)) ∧
      (s.copyFits h k = false → Answers (.keyRepl p h k) s fun t => t.slots = s.slots ∧ Keeps [.cfl, .tx] s t) ∧
      (s.copyFits h k = false ∨ (s.slot k.slot).st ≠ .empty →
        Answers (.keyPlace p h k) s fun t => t.slots = s.slots ∧ Keeps [.cfl, .tx] s t) ∧
      (s.epochOk h = true → s.copyFits h k = true →
        (k.gone = false → (s.slot k.slot).st = .empty ∨ (s.slot k.slot).keyId = k.keyId →
          Answers (.keyRepl p h k) s fun t =>
            (∀ ck m, s.cfl.clusterKey = some ck → openCopy ck k = some m → (t.slot k.slot).bare = { Slot.reset with
              st := .live, attr := copyWord k.attr, mat := m.1, pub := m.2, keyId := k.keyId, homeDev := k.homeDev }) ∧
            (∀ ck, s.cfl.clusterKey = some ck → openCopy ck k = none → t.slots = s.slots) ∧
            (∀ n, n ≠ k.slot → (t.slot n).bare = (s.slot n).bare) ∧ Keeps [.slots, .kst, .hbm, .cfl] s t) ∧
        (k.gone = true → (s.slot k.slot).st ≠ .empty → (s.slot k.slot).keyId = k.keyId →
          Answers (.keyRepl p h k) s fun t =>
            t.slot k.slot = Slot.reset ∧ (∀ n, n ≠ k.slot → t.slot n = s.slot n) ∧
            Keeps ([.records, .jobs] ++ keyParts) s t) ∧
        ((s.slot k.slot).st ≠ .empty → (s.slot k.slot).keyId ≠ k.keyId →
          Answers (.keyRepl p h k) s fun t => t.slots = s.slots ∧ Keeps [.cfl, .tx] s t) ∧
        ((s.slot k.slot).st = .empty → Answers (.keyPlace p h k) s fun t =>
          (∀ ck m, s.cfl.clusterKey = some ck → openCopy ck k = some m →
            (t.slot k.slot).st = .live ∧ (t.slot k.slot).keyId = k.keyId ∧ (t.slot k.slot).homeDev = k.homeDev ∧
            (t.slot k.slot).mat = m.1 ∧ attrOrigin (t.slot k.slot).attr = 2 ∧
            bitOf (t.slot k.slot).attr.toNat 32 = false) ∧
          (∀ n, n ≠ k.slot → (t.slot n).bare = (s.slot n).bare) ∧ Keeps [.slots, .kst, .hbm, .cfl] s t)))

/-! ## Microcode sequencers -/

/-- R318, R320, R322, R323, R324, R327, R331: a word runs under the row of its SEQ, counts its cycles to the node, and moves its
sequencer as the table says; COMMIT marks the node; END completes it; and an illegal word or a failed check ends the job
ENGINE_FAULT, or FAULT_AFTER_COMMIT past a commit point. R212, R321: REVEAL shows
the comparator's bit, and a BNU word ADD leaves the sum modulo its modulus. -/
def Obligations.MicrowordsSequence : Prop :=
  ∀ (s : State) (eng unit : Nat) (r : URun) (w : UWord), s.alive = true → s.uRun (engKey eng unit) eng = some r →
    s.fetchWord eng (s.tile r.key).seqr.upc = some w → wordLegal eng w = true → s.uWaits r w = false →
    uRnd w = false → s.uOverLimit r w = false → s.uPoisoned r w = false →
    let q := (s.tile r.key).seqr
    let up := (s.store eng).redirect q.upc + 1
    let lastTile := (s.setTile r.key { s.tile r.key with seqr := { q with ended := true } }).tiles.all fun x =>
      x.2.node != some (r.job.id, r.idx) || x.2.seqr.ended
    let counters := if eng = 2 ∧ bnuOp w = 11 then
      (q.setContext (memRead (s.tile r.key).mem (s.contextAt r) 256)).counters else q.counters
    let wordParts : List Part := if eng = 1 then [.tiles, .jobs, .slots, .hbm, .weir] else [.tiles, .jobs, .slots]
    let Goes := fun (c : Instr) (P : Seqr → Prop) => Answers c s fun t =>
      P (t.tile r.key).seqr ∧ (t.tile r.key).seqr.ended = false ∧
      (∃ y, t.job r.job.id = some y ∧ (y.node r.idx).map Node.cycles = some (r.node.cycles + s.wordCycles r w)) ∧
      (eng = 0 ∧ ptXbar w ≠ 1 ∨ eng = 1 ∧ htDest w ≠ 2 ∨ 2 ≤ eng → ∀ k, k ≠ r.key → t.tile k = s.tile k) ∧
      (∀ n, r.job.reserved ≠ some n → t.slot n = s.slot n) ∧ Keeps wordParts s t
    let Faults := fun (c : Instr) => r.job.status = none → Answers c s fun t =>
      JobEnds r.job (s.failsAs r.job r.idx .engineFault) 0 [] t ∧ Keeps (.slots :: jobParts) s t
    (s.uCommitted r = true ∨ s.uEarly r w = false ∧ s.uSandbox r w = true →
      (uCommit w = false →
        (uSeq w = .next → Goes (.ucodeNext eng unit .clean) fun y =>
          y.upc = up ∧ y.stack = q.stack ∧ y.counters = counters ∧ y.repeatLeft = q.repeatLeft ∧
          (eng = 0 → y.revealed = if ptCmp w = 3 then q.cmp else q.revealed)) ∧
        (uSeq w = .next → eng = 2 → bnuOp w = 3 →
          let n := 8 * bnuLen w
          let word (a : Nat) : Nat := leNat (memRead (s.tile r.key).mem (8 * a) n)
          let m := word (uf w 94 80)
          m ≠ 0 → memWf (s.tile r.key).mem = true → Answers (.ucodeNext eng unit .clean) s fun t =>
            memRead (t.tile r.key).mem (8 * uf w 109 95) n =
              fit n (toLe n ((word (uf w 139 125) + word (uf w 124 110)) % m))) ∧
        (uSeq w = .jump → Goes (.ucodeJump eng unit .clean) fun y =>
          y.upc = uTarget w ∧ y.stack = q.stack ∧ y.counters = counters) ∧
        (uSeq w = .call → q.stack.length < 4 → Goes (.ucodeCall eng unit .clean) fun y =>
          y.upc = uTarget w ∧ y.stack = up :: q.stack ∧ y.counters = counters) ∧
        (uSeq w = .call → 4 ≤ q.stack.length → Faults (.ucodeCall eng unit .clean)) ∧
        (∀ a st, uSeq w = .ret → q.stack = a :: st → Goes (.ucodeRet eng unit .clean) fun y =>
          y.upc = a ∧ y.stack = st ∧ y.counters = counters) ∧
        (uSeq w = .ret → q.stack = [] → Faults (.ucodeRet eng unit .clean)) ∧
        (uSeq w = .rept → Goes (.ucodeRepeat eng unit .clean) fun y =>
          let left := (if q.repeatLeft = 0 then uTarget w else q.repeatLeft) - 1
          y.upc = (if left = 0 then up else up - 1) ∧ y.repeatLeft = left ∧ y.stack = q.stack) ∧
        (uSeq w = .loop → Goes (.ucodeLoop eng unit .clean) fun y =>
          let left := (counters.getD (uCnt w) 0 + 65535) % 65536
          y.upc = (if left = 0 then up else uTarget w) ∧ y.counters = counters.set (uCnt w) left ∧
          y.stack = q.stack) ∧
        (uSeq w = .setcnt → Goes (.ucodeSetcnt eng unit .clean) fun y =>
          y.upc = up ∧ y.counters = counters.set (uCnt w) (uTarget w) ∧ y.stack = q.stack) ∧
        (uSeq w = .brFlag → Goes (.ucodeBrFlag eng unit .clean) fun y =>
          y.upc = (if q.flags.testBit (uFlag w) then uTarget w else up) ∧ y.stack = q.stack) ∧
        (uSeq w = .brReveal → Goes (.ucodeBrReveal eng unit .clean) fun y =>
          y.upc = (if y.revealed then uTarget w else up) ∧ y.stack = q.stack) ∧
        (uSeq w = .fin → q.committed = true → lastTile = false → Answers (.ucodeEnd eng unit .clean) s fun t =>
          (t.tile r.key).seqr.ended = true ∧ Keeps wordParts s t) ∧
        (uSeq w = .fin → q.committed = true → lastTile = true → Answers (.ucodeEnd eng unit .clean) s fun t =>
          (∀ k, (t.tile k).node ≠ some (r.job.id, r.idx)) ∧ Keeps weirParts s t) ∧
        (uSeq w = .fin → q.committed = false → Faults (.ucodeEnd eng unit .clean))) ∧
      (uCommit w = true → uSeq w = .next → (s.postWords eng 64 up).all (s.uSandbox r) = true →
        Goes (.ucodeCommit eng unit .clean) fun y => y.committed = true ∧ y.upc = up) ∧
      (uCommit w = true → (s.postWords eng 64 up).all (s.uSandbox r) = false →
        Faults (.ucodeCommit eng unit .clean))) ∧
    (s.uCommitted r = false → uCommit w = false → uSeq w = .next → s.uEarly r w = true ∨ s.uSandbox r w = false →
      Faults (.ucodeNext eng unit .clean)) ∧
    (∀ m, uCommit w = false → uSeq w ≠ .next → exec (.ucodeNext eng unit m) s = .next s) ∧
    (∀ m, uCommit w = true → exec (.ucodeNext eng unit m) s = .next s) ∧
    (∀ m, uCommit w = false → exec (.ucodeCommit eng unit m) s = .next s)

/-- R259, R316, R318, R319, R320, R324, R328, R331: a word that is not there or has an undefined code is an illegal word; an
uncorrectable error, or a check that fails, restarts the routine before COMMIT and ends the job FAULT_AFTER_COMMIT after it,
and one that meets a routine which an interrupt has just abandoned restarts it as well; a customer routine at its cycle limit
ends ENGINE_FAULT; and a word that waits, or a tile that runs nothing, stays. -/
def Obligations.MicrowordFaults : Prop :=
  ∀ (s : State) (eng unit : Nat), s.alive = true →
    let rows (m : EccEvent) : List Instr := [.ucodeNext eng unit m, .ucodeJump eng unit m, .ucodeCall eng unit m,
      .ucodeRet eng unit m, .ucodeRepeat eng unit m, .ucodeLoop eng unit m, .ucodeSetcnt eng unit m,
      .ucodeBrFlag eng unit m, .ucodeBrReveal eng unit m, .ucodeEnd eng unit m, .ucodeCommit eng unit m]
    let late := s.jobs.findSome? fun j =>
      (j.nodes.findIdx? fun n => n.st == .ready && n.intr == some (engKey eng unit)).map fun i => (j.id, i)
    ((s.tile (engKey eng unit)).node = none → ∀ m, eccFaults m = false ∨ late = none → ∀ c ∈ rows m, exec c s = .next s) ∧
    ((s.tile (engKey eng unit)).node = none → ∀ m, eccFaults m = true → ∀ j i n, late = some (j.id, i) →
      s.job j.id = some j → j.status = none → j.node i = some n → n.restarts < s.weir.maxRestart →
      ∀ c ∈ rows m, Answers c s fun t =>
        (∃ y, t.job j.id = some y ∧ (y.node i).map Node.restarts = some (n.restarts + 1)) ∧
        Keeps (.slots :: jobParts) s t) ∧
    ∀ r : URun, s.uRun (engKey eng unit) eng = some r → r.job.status = none →
      (s.fetchWord eng (s.tile r.key).seqr.upc = none ∨
        (∃ w, s.fetchWord eng (s.tile r.key).seqr.upc = some w ∧ wordLegal eng w = false) →
        ∀ c ∈ rows .clean, Answers c s fun t =>
          JobEnds r.job (s.failsAs r.job r.idx .engineFault) 0 [] t ∧
          Keeps (.slots :: jobParts) s t) ∧
      (∀ w m, s.fetchWord eng (s.tile r.key).seqr.upc = some w → wordLegal eng w = true → uCommit w = false →
        uSeq w = .next →
        (s.uFaults r (some w) m = true → s.uCommitted r = true → Answers (.ucodeNext eng unit m) s fun t =>
          JobEnds r.job .faultAfterCommit 0 [] t ∧ Keeps (.slots :: jobParts) s t) ∧
        (s.uFaults r (some w) m = true → s.uCommitted r = false → r.node.restarts < s.weir.maxRestart →
          Answers (.ucodeNext eng unit m) s fun t =>
            (∃ y, t.job r.job.id = some y ∧ (y.node r.idx).map Node.restarts = some (r.node.restarts + 1)) ∧
            (∀ k, (t.tile k).node ≠ some (r.job.id, r.idx)) ∧ Keeps (.slots :: jobParts) s t) ∧
        (m = .clean → s.uWaits r w = true → exec (.ucodeNext eng unit m) s = .next s) ∧
        (m = .clean → s.uWaits r w = false → uRnd w = false → s.uOverLimit r w = true →
          Answers (.ucodeNext eng unit m) s fun t =>
            JobEnds r.job (s.failsAs r.job r.idx .engineFault) 0 [] t ∧ Keeps (.slots :: jobParts) s t))

/-! ## Control cores -/

/-- R342, R351: integer ALU and constant instructions write iD and go on to the next word; i0 stays 0. R342, R351:
floating-point instructions, TIME and CYCLE; a NaN result is the quiet NaN. -/
def Obligations.ControlCoreArithmetic : Prop :=
  (
  (∀ p ∈ ([
      (Instr.add, 0x00, fun a b => a + b), (Instr.sub, 0x01, fun a b => a - b),
      (Instr.and, 0x02, fun a b => a &&& b), (Instr.or, 0x03, fun a b => a ||| b),
      (Instr.xor, 0x04, fun a b => a ^^^ b), (Instr.andn, 0x05, fun a b => a &&& ~~~b),
      (Instr.shl, 0x06, fun a b => a <<< (b.toNat % 64)), (Instr.shr, 0x07, fun a b => a >>> (b.toNat % 64)),
      (Instr.sar, 0x08, fun a b => a.sshiftRight (b.toNat % 64)),
      (Instr.ror, 0x09, fun a b => a.rotateRight (b.toNat % 64)),
      (Instr.cmps, 0x0A, fun a b => if a.toInt < b.toInt then -1 else if a = b then 0 else 1),
      (Instr.cmpu, 0x0B, fun a b => if a.toNat < b.toNat then -1 else if a = b then 0 else 1),
      (Instr.mul, 0x0C, fun a b => a * b),
      (Instr.mulhiS, 0x0D, fun a b => BitVec.ofInt 64 (a.toInt * b.toInt / 2 ^ 64)),
      (Instr.mulhiU, 0x0E, fun a b => BitVec.ofNat 64 (a.toNat * b.toNat / 2 ^ 64)),
      (Instr.divs, 0x0F, fun a b => if b = 0 then 0 else BitVec.ofInt 64 (a.toInt.tdiv b.toInt)),
      (Instr.divu, 0x10, fun a b => if b = 0 then 0 else a / b),
      (Instr.mods, 0x11, fun a b => if b = 0 then a else BitVec.ofInt 64 (a.toInt.tmod b.toInt)),
      (Instr.modu, 0x12, fun a b => if b = 0 then a else a % b),
      (Instr.mins, 0x13, fun a b => if a.toInt < b.toInt then a else b),
      (Instr.maxs, 0x14, fun a b => if a.toInt < b.toInt then b else a),
      (Instr.minu, 0x15, fun a b => if a.toNat < b.toNat then a else b),
      (Instr.maxu, 0x16, fun a b => if a.toNat < b.toNat then b else a)] :
      List ((Nat → CoreEvent → Instr) × Nat × (BitVec 64 → BitVec 64 → BitVec 64))),
    ∀ s r w, CcAt s r w 0x01 p.2.1 → CcRetires (p.1 r.idx .clean) s r w
      { r.core.setI (cD w) (p.2.2 (r.core.i (cA w)) (r.core.i (cB w))) with pc := r.core.pc + 4 }) ∧
  (∀ p ∈ ([
      (Instr.addk, 0x02, fun a k => a + k), (Instr.andk, 0x03, fun a k => a &&& k),
      (Instr.ork, 0x04, fun a k => a ||| k), (Instr.xork, 0x05, fun a k => a ^^^ k),
      (Instr.shlk, 0x06, fun a k => a <<< (k.toNat % 64)), (Instr.shrk, 0x07, fun a k => a >>> (k.toNat % 64)),
      (Instr.sark, 0x08, fun a k => a.sshiftRight (k.toNat % 64)),
      (Instr.rork, 0x09, fun a k => a.rotateRight (k.toNat % 64))] :
      List ((Nat → CoreEvent → Instr) × Nat × (BitVec 64 → BitVec 64 → BitVec 64))),
    ∀ s r w, CcAt s r w p.2.1 0 → CcRetires (p.1 r.idx .clean) s r w
      { r.core.setI (cD w) (p.2.2 (r.core.i (cA w)) (BitVec.ofInt 64 (w.extractLsb' 0 14).toInt)) with
        pc := r.core.pc + 4 }) ∧
  (∀ s r w, CcAt s r w 0x0A 0 → CcRetires (.kset r.idx .clean) s r w
    { r.core.setI (cD w) (BitVec.ofInt 64 (w.extractLsb' 0 19).toInt) with pc := r.core.pc + 4 }) ∧
  (∀ s r w, CcAt s r w 0x0B 0 → CcRetires (.ksh r.idx .clean) s r w
    { r.core.setI (cD w) (BitVec.ofNat 64 ((r.core.i (cD w)).toNat * 2 ^ 16 + w.toNat % 2 ^ 16)) with
      pc := r.core.pc + 4 }) ∧
  ∀ (c : Core) (v : BitVec 64), c.i 0 = 0 ∧ c.setI 0 v = c ∧
    ∀ n m, 0 < n → n < 32 → (c.setI n v).i m = if m = n then v else c.i m) ∧
  (
  (∀ p ∈ ([
      (Instr.fadd, 0x00, fAdd), (Instr.fsub, 0x01, fSub), (Instr.fmul, 0x02, fMul), (Instr.fdiv, 0x03, fDiv),
      (Instr.fsqrt, 0x04, fun a _ => fSqrt a), (Instr.fmin, 0x05, fMin), (Instr.fmax, 0x06, fMax)] :
      List ((Nat → CoreEvent → Instr) × Nat × (F64 → F64 → F64))),
    ∀ s r w, CcAt s r w 0x30 p.2.1 → CcRetires (p.1 r.idx .clean) s r w
      { r.core.setF (cD w) (p.2.2 (r.core.f (cA w)) (r.core.f (cB w))) with pc := r.core.pc + 4 }) ∧
  (∀ p ∈ ([(Instr.fcmp, 0x07, fCmp), (Instr.f2i, 0x0A, fun a _ => fToInt a), (Instr.fbits, 0x0C, fun a _ => a)] :
      List ((Nat → CoreEvent → Instr) × Nat × (F64 → F64 → BitVec 64))),
    ∀ s r w, CcAt s r w 0x30 p.2.1 → CcRetires (p.1 r.idx .clean) s r w
      { r.core.setI (cD w) (p.2.2 (r.core.f (cA w)) (r.core.f (cB w))) with pc := r.core.pc + 4 }) ∧
  (∀ p ∈ ([(Instr.i2f, 0x0B, fOfInt), (Instr.ibits, 0x0D, fun a => a)] :
      List ((Nat → CoreEvent → Instr) × Nat × (BitVec 64 → F64))),
    ∀ s r w, CcAt s r w 0x30 p.2.1 → CcRetires (p.1 r.idx .clean) s r w
      { r.core.setF (cD w) (p.2.2 (r.core.i (cA w))) with pc := r.core.pc + 4 }) ∧
  (∀ s r w, CcAt s r w 0x38 0x02 → CcRetires (.ccTime r.idx .clean) s r w
    { r.core.setI (cD w) (BitVec.ofNat 64 s.clusterTime) with pc := r.core.pc + 4 }) ∧
  (∀ s r w, CcAt s r w 0x38 0x03 → CcRetires (.cycle r.idx .clean) s r w
    { r.core.setI (cD w) (BitVec.ofNat 64 (s.scoreAfter r w).cycle) with pc := r.core.pc + 4 }) ∧
  (∀ a b : F64, ∀ x ∈ [fAdd a b, fSub a b, fMul a b, fDiv a b, fSqrt a], fIsNan x = true → x = fNan) ∧
  (∀ a b : F64, (fIsNan a = true ∨ fIsNan b = true → fAdd a b = fNan ∧ fMul a b = fNan ∧ fDiv a b = fNan ∧
    fCmp a b = 2) ∧ (fIsNan a = true → fToInt a = 0)) ∧
  (∀ a : BitVec 64, a.toInt.natAbs < 2 ^ 53 → fToInt (fOfInt a) = a))

/-- R337, R340, R351, R367: loads wait for input that has not arrived, and a poisoned line of the image ends the job; stores
reach scratch alone; a misaligned access or one outside the sandbox ends the job; branches and jumps. -/
def Obligations.ControlCoreMemoryAndBranches : Prop :=
  (∀ p ∈ ([
      (Instr.ldu1, 0x10, 1, fun c d b => c.setI d (BitVec.ofNat 64 (leNat b))),
      (Instr.ldu2, 0x11, 2, fun c d b => c.setI d (BitVec.ofNat 64 (leNat b))),
      (Instr.ldu4, 0x12, 4, fun c d b => c.setI d (BitVec.ofNat 64 (leNat b))),
      (Instr.ld8, 0x13, 8, fun c d b => c.setI d (BitVec.ofNat 64 (leNat b))),
      (Instr.lds1, 0x14, 1, fun c d b => c.setI d (BitVec.ofInt 64 (BitVec.ofNat 8 (leNat b)).toInt)),
      (Instr.lds2, 0x15, 2, fun c d b => c.setI d (BitVec.ofInt 64 (BitVec.ofNat 16 (leNat b)).toInt)),
      (Instr.lds4, 0x16, 4, fun c d b => c.setI d (BitVec.ofInt 64 (BitVec.ofNat 32 (leNat b)).toInt)),
      (Instr.fld8, 0x31, 8, fun c d b => c.setF d (BitVec.ofNat 64 (leNat b)))] :
      List ((Nat → CoreEvent → Instr) × Nat × Nat × (Core → Nat → Bytes → Core))),
    ∀ s r w, CcAt s r w p.2.1 0 →
      let a := (r.core.i (cA w) + BitVec.ofInt 64 ((w.extractLsb' 0 14).toInt * p.2.2.1)).toNat
      (∀ b, a % p.2.2.1 = 0 → r.load a p.2.2.1 = .bytes b → CcRetires (p.1 r.idx .clean) s r w
        { p.2.2.2 r.core (cD w) b with pc := r.core.pc + 4 }) ∧
      (a % p.2.2.1 = 0 → r.load a p.2.2.1 = .stall → CcStalls (p.1 r.idx .clean) s r) ∧
      (a % p.2.2.1 = 0 → r.load a p.2.2.1 = .poison → Answers (p.1 r.idx .clean) s fun t =>
        JobEnds r.job (s.failsAs r.job r.ni .memUncorrectable) 0 [] t ∧
        Keeps (.slots :: jobParts) s t) ∧
      (a % p.2.2.1 ≠ 0 ∨ r.load a p.2.2.1 = .fault → CcFaults (p.1 r.idx .clean) s r)) ∧
  (∀ p ∈ ([
      (Instr.st1, 0x18, 1, Core.i), (Instr.st2, 0x19, 2, Core.i), (Instr.st4, 0x1A, 4, Core.i),
      (Instr.st8, 0x1B, 8, Core.i), (Instr.fst8, 0x32, 8, Core.f)] :
      List ((Nat → CoreEvent → Instr) × Nat × Nat × (Core → Nat → BitVec 64))),
    ∀ s r w, CcAt s r w p.2.1 0 →
      let n := p.2.2.1
      let a := (r.core.i (cA w) + BitVec.ofInt 64 ((w.extractLsb' 0 14).toInt * n)).toNat
      (a % n = 0 → 0x200000 ≤ a → a + n ≤ 0x240000 → CcRetires (p.1 r.idx .clean) s r w
        { r.core with
          pc := r.core.pc + 4
          scratch := memWrite r.core.scratch (a - 0x200000) (toLe n (p.2.2.2 r.core (cD w)).toNat) }) ∧
      (a % n ≠ 0 ∨ a < 0x200000 ∨ 0x240000 < a + n → CcFaults (p.1 r.idx .clean) s r)) ∧
  (∀ (r : CRun) (a n : Nat),
    (0x200000 ≤ a → a + n ≤ 0x240000 → r.load a n = .bytes (memRead r.core.scratch (a - 0x200000) n)) ∧
    (0x100000 ≤ a → a + n ≤ 0x100000 + min r.prog.data.length 0x40000 → r.bad = [] →
      r.load a n = .bytes (fit n (slice r.prog.data (a - 0x100000) n))) ∧
    (0x4000000 ≤ a → a + n ≤ 0x4000000 + r.job.entry.inLen → 0x4000000 + r.job.input.length < a + n →
      r.load a n = .stall) ∧
    (a < 0x100000 ∨ 0x4000000 + r.job.entry.inLen < a + n ∧ 0x4000000 ≤ a → r.load a n = .fault)) ∧
  (∀ p ∈ ([
      (Instr.bz, 0x20, fun v => decide (v = 0)), (Instr.bnz, 0x21, fun v => decide (v ≠ 0)),
      (Instr.bneg, 0x22, fun v => decide (v.toInt < 0)), (Instr.bnneg, 0x23, fun v => decide (0 ≤ v.toInt)),
      (Instr.jmp, 0x24, fun _ => true)] : List ((Nat → CoreEvent → Instr) × Nat × (BitVec 64 → Bool))),
    ∀ s r w, CcAt s r w p.2.1 0 →
      let next := if p.2.2 (r.core.i (cD w)) then
        (BitVec.ofInt 64 (r.core.pc + 4 * (w.extractLsb' 0 19).toInt)).toNat else r.core.pc + 4
      CcRetires (p.1 r.idx .clean) s r w { r.core with pc := next }) ∧
  (∀ s r w, CcAt s r w 0x25 0 → CcRetires (.ccCall r.idx .clean) s r w
    { r.core.setI 31 (BitVec.ofNat 64 (r.core.pc + 4)) with
      pc := (BitVec.ofInt 64 (r.core.pc + 4 * (w.extractLsb' 0 19).toInt)).toNat }) ∧
  (∀ s r w, CcAt s r w 0x26 0 → CcRetires (.jmpr r.idx .clean) s r w
    { r.core with pc := (r.core.i (cA w)).toNat - (r.core.i (cA w)).toNat % 4 })

/-- R339: COMMIT declares the result and checks it, and waits at the job's commit point for the input's length; END writes it
and completes the node, in a job that has ended as well (R126), once the staging SRAM has room (DESIGN CHOICE, log entry 121);
after COMMIT nothing but ALU words, forward branches and END is carried out. R336, R340, R346, R351: whatever instruction a
command names, it runs when the word is of its row; a word of no row, a reserved field or the cycle limit ends the job; errors
of the memories restart or recover, and are counted on a core that runs nothing too. -/
def Obligations.ControlCoreEndsAndFaults : Prop :=
  (
  (∀ s r w, CcAt s r w 0x38 0x00 →
    let a := (r.core.i (cA w)).toNat
    let n := (r.core.i (cB w)).toNat
    (s.ccCommitWaits r w = true → 0x200000 ≤ a → a + n ≤ 0x240000 → CcStalls (.ccCommit r.idx .clean) s r) ∧
    (s.ccCommitWaits r w = false →
    (0x200000 ≤ a → a + n ≤ 0x240000 → r.node.info.output = false ∨ r.job.forPeer.isSome = true ∨
        n ≤ (r.job.outBufs.map Prod.snd).sum →
      Answers (.ccCommit r.idx .clean) s fun t =>
        t.core r.idx = { r.core with
          result := some (a - 0x200000, n), pc := r.core.pc + 4, commitPc := r.core.pc, score := s.scoreAfter r w } ∧
        (t.tile (ccKey r.idx)).seqr.committed = true ∧
        (∃ y, t.job r.job.id = some y ∧
          y.committed = (r.job.committed || r.job.nodes.findIdx? (fun m => m.info.output) == some r.ni)) ∧
        Keeps [.cores, .tiles, .jobs] s t) ∧
    (a < 0x200000 ∨ 0x240000 < a + n → CcFaults (.ccCommit r.idx .clean) s r) ∧
    (0x200000 ≤ a → a + n ≤ 0x240000 → r.node.info.output = true → r.job.forPeer = none →
      (r.job.outBufs.map Prod.snd).sum < n → Answers (.ccCommit r.idx .clean) s fun t =>
        JobEnds r.job (s.failsAs r.job r.ni .outputTooSmall) 0 [] t ∧
        Keeps (.slots :: jobParts) s t))) ∧
  (∀ s r w, CcAt s r w 0x38 0x01 → CcFaults (.ccEnd r.idx .clean) s r) ∧
  ∀ (s : State) (r : CRun) (w : CWord) (a n : Nat), s.alive = true → s.cRun r.idx = some r → r.word = some w →
    r.core.result = some (a, n) → r.bad.contains (r.core.pc / 64) = false → rsvdOk w = true →
    let room : Bool := r.job.status.isSome || r.node.info.output || s.stageRoom r.job.basin n
    let Ends := fun (c : Instr) => room = true → Answers c s fun t =>
      (∀ k, (t.tile k).node ≠ some (r.job.id, r.ni)) ∧
      tget 0 t.sel.progRuns r.prog.id = satAdd 0xFFFFFFFF (tget 0 s.sel.progRuns r.prog.id) 1 ∧
      (r.job.status = none → r.job.st ≠ .covered → (∀ m ∈ r.job.nodes, m.info.cls ≠ .entropyWait) →
        ∃ y, t.job r.job.id = some y ∧
        (r.node.info.output = true → y.output = memRead r.core.scratch a n) ∧
        (r.node.info.output = false → y.stage = r.job.stage ++ memRead r.core.scratch a n)) ∧
      Keeps (.sel :: weirParts) s t
    (r.core.recoverAtEnd = false → rowOf w = some { op := 0x38, fn := 0x01 } → Ends (.ccEnd r.idx .clean)) ∧
    (room = false → rowOf w = some { op := 0x38, fn := 0x01 } → Answers (.ccEnd r.idx .clean) s fun t =>
      (t.core r.idx).result = r.core.result ∧ (t.core r.idx).pc = r.core.pc ∧ Keeps [.cores, .jobs] s t) ∧
    (r.core.recoverAtEnd = false → ∀ c core op fn, ccRow c = some (core, .clean, { op := op, fn := fn }) →
      core = r.idx → rowOf w = some { op := op, fn := fn } →
      64 ≤ r.core.postCount ∨ 0x0B < op ∧ op < 0x20 ∨ 0x24 < op ∧ ¬ (op = 0x38 ∧ fn = 1) → Ends c) ∧
    (∀ v, r.core.postCount < 64 → rowOf w = some { op := 0x01, fn := 0x00 } →
      v = r.core.i (cA w) + r.core.i (cB w) → Answers (.add r.idx .clean) s fun t =>
        t.core r.idx = { r.core.setI (cD w) v with
          pc := r.core.pc + 4, score := s.scoreAfter r w, postCount := r.core.postCount + 1 } ∧
        Keeps [.cores, .jobs] s t)) ∧
  (
  (∀ (c : Instr) (s : State) (r : CRun) (m : CoreEvent) (row : Row), ccRow c = some (r.idx, m, row) → s.alive = true →
    s.cRun r.idx = some r →
    (∀ k, r.word.bind rowOf = some k → k ≠ row → exec c s = .next s) ∧
    (r.word.bind rowOf = none ∨ r.word.bind rowOf = some row → r.bad.contains (r.core.pc / 64) = true →
      r.core.pc < r.prog.code.length → r.job.status = none → Answers c s fun t =>
        JobEnds r.job (s.failsAs r.job r.ni .memUncorrectable) 0 [] t ∧
        Keeps (.slots :: jobParts) s t) ∧
    (r.bad.contains (r.core.pc / 64) = false →
    (m = .clean → r.core.result = none →
      r.word.bind rowOf = none ∨
        (∃ w, r.word = some w ∧ rowOf w = some row ∧ (rsvdOk w = false ∨ (r.core.overlay = true ∧ overlayOk w = false) ∨
          r.core.limit ≤ r.node.cycles + ((s.scoreAfter r w).cycle - r.core.score.cycle))) → CcFaults c s r) ∧
    (r.word.bind rowOf = some row → m = .uncorrectable → r.core.result.isSome = true → r.job.status = none →
      Answers c s fun t => JobEnds r.job .faultAfterCommit 0 [] t ∧
      (t.tile (ccKey r.idx)).ue = satAdd 0xFFFF (s.tile (ccKey r.idx)).ue 1) ∧
    (r.word.bind rowOf = some row → m = .vectorError → r.core.result = none → Answers c s fun t =>
      (t.tile (ccKey r.idx)).st = .recovery ∧ (t.core r.idx).overlay = true ∧
      Keeps (.sel :: weirParts) s t))) ∧
  (∀ (c : Instr) (s : State) (i : Nat) (m : CoreEvent) (row : Row), ccRow c = some (i, m, row) → s.alive = true →
    s.cRun i = none →
    (16 ≤ i ∨ m = .clean → exec c s = .next s) ∧
    (i < 16 → m = .corrected → Answers c s fun t =>
      (t.tile (ccKey i)).ce = satAdd 0xFFFF (s.tile (ccKey i)).ce 1 ∧ Keeps [.tiles] s t) ∧
    (i < 16 → m = .uncorrectable → (s.tile (ccKey i)).node = none → Answers c s fun t =>
      (t.tile (ccKey i)).ue = satAdd 0xFFFF (s.tile (ccKey i)).ue 1 ∧ Keeps [.tiles] s t) ∧
    (i < 16 → m = .vectorError → (s.tile (ccKey i)).st = .idle → Answers c s fun t =>
      (t.tile (ccKey i)).st = .recovery ∧ (t.core i).overlay = true ∧ Keeps (.slots :: jobParts) s t)) ∧
  (∀ (s : State) (i : Nat), s.alive = true →
    ((s.tile (ccKey i)).st = .recovery →
      (Answers (.ccRecoveryDone i true) s fun t => (t.tile (ccKey i)).st = .idle ∧ (t.core i).overlay = false ∧
        (∀ n, (t.core i).v n = 0) ∧ Keeps [.cores, .tiles] s t) ∧
      (3 ≤ (s.core i).recoveryFails + 1 → Answers (.ccRecoveryDone i false) s fun t =>
        (t.tile (ccKey i)).st = .failed ∧ Keeps ([.cores, .tiles] ++ eventParts) s t) ∧
      ((s.core i).recoveryFails + 1 < 3 → Answers (.ccRecoveryDone i false) s fun t =>
        (t.tile (ccKey i)).st = .recovery ∧ (t.core i).recoveryFails = (s.core i).recoveryFails + 1 ∧
        Keeps [.cores] s t)) ∧
    ((s.tile (ccKey i)).st ≠ .recovery → ∀ passed, exec (.ccRecoveryDone i passed) s = .next s)))

/-- R343, R344, R352: VTAKE and VACT, and the element-wise operations, with vB or with a scalar; elements beyond ACT become
0 and every other register stays. A shift by the element width or more is free (log entry 26). -/
def Obligations.VectorElementsAreComputed : Prop :=
  (∀ s r w, CcAt s r w 0x40 0x00 →
    let a := min (r.core.i (cA w)).toNat (s.shape r w).cap
    CcRetires (.vtake r.idx .clean) s r w { r.core.setI (cD w) (BitVec.ofNat 64 ((r.core.i (cA w)).toNat - a)) with
      act := BitVec.ofNat 64 a, pc := r.core.pc + 4 }) ∧
  (∀ s r w, CcAt s r w 0x40 0x01 → CcRetires (.vact r.idx .clean) s r w
    { r.core.setI (cD w) r.core.act with pc := r.core.pc + 4 }) ∧
  (∀ p ∈ ([
      (Instr.vadd, 0x00, fun e a b _ => (a + b) % 2 ^ e), (Instr.vsub, 0x01, fun e a b _ => (a + 2 ^ e - b) % 2 ^ e),
      (Instr.vand, 0x02, fun _ a b _ => a &&& b), (Instr.vor, 0x03, fun _ a b _ => a ||| b),
      (Instr.vxor, 0x04, fun _ a b _ => a ^^^ b),
      (Instr.vshl, 0x05, fun e a b _ => (if b < e then a * 2 ^ b else Config.vectorShift 0 e a b) % 2 ^ e),
      (Instr.vshr, 0x06, fun e a b _ => if b < e then a / 2 ^ b else Config.vectorShift 1 e a b % 2 ^ e),
      (Instr.vsar, 0x07, fun e a b _ =>
        if b < e then wrapOf e (signedOf e a / Int.ofNat (2 ^ b)) else Config.vectorShift 2 e a b % 2 ^ e),
      (Instr.vmul, 0x08, fun e a b _ => a * b % 2 ^ e),
      (Instr.vmulhiS, 0x09, fun e a b _ => wrapOf e (signedOf e a * signedOf e b / Int.ofNat (2 ^ e))),
      (Instr.vmulhiU, 0x0A, fun e a b _ => a * b / 2 ^ e), (Instr.vminu, 0x0B, fun _ a b _ => min a b),
      (Instr.vmaxu, 0x0C, fun _ a b _ => max a b), (Instr.veq, 0x0D, fun e a b _ => if a = b then 2 ^ e - 1 else 0),
      (Instr.vltu, 0x0E, fun e a b _ => if a < b then 2 ^ e - 1 else 0),
      (Instr.vblend, 0x0F, fun e a b d => (a &&& b) ||| (d &&& (2 ^ e - 1 - b))),
      (Instr.vbyterev, 0x10, fun e a _ _ => leNat (toLe (e / 8) a).reverse)] :
      List ((Nat → CoreEvent → Instr) × Nat × (Nat → Nat → Nat → Nat → Nat))),
    ∀ s r w,
      let h := s.shape r w
      let n := min r.core.act.toNat h.cap
      let el := fun (x k : Nat) => (r.core.group h x).getD k 0
      let Result := fun (c : Instr) (b : Nat → Nat) => CcVector c s r w fun y =>
        y.group h (cD w) = (List.range h.cap).map (fun k =>
          if k < n then p.2.2 h.ew (el (cA w) k) (b k) (el (cD w) k) else 0) ∧
        (∀ x, x < cD w ∨ cD w + h.gs ≤ x → y.v x = r.core.v x)
      (CcAt s r w 0x41 p.2.1 →
        (cD w % h.gs = 0 → cA w % h.gs = 0 → cB w % h.gs = 0 ∨ p.2.1 = 0x10 →
          Result (p.1 r.idx .clean) fun k => el (cB w) k) ∧
        (cD w % h.gs ≠ 0 ∨ cA w % h.gs ≠ 0 ∨ cB w % h.gs ≠ 0 ∧ p.2.1 ≠ 0x10 → CcFaults (p.1 r.idx .clean) s r)) ∧
      (CcAt s r w 0x42 0x00 → cVf w = p.2.1 →
        (cD w % h.gs = 0 → cA w % h.gs = 0 →
          Result (.vectorScalarOp r.idx .clean) fun _ => (r.core.i (cB w)).toNat % 2 ^ h.ew) ∧
        (cD w % h.gs ≠ 0 ∨ cA w % h.gs ≠ 0 → CcFaults (.vectorScalarOp r.idx .clean) s r)))

/-- R349, R352: VMOVEUP, VMOVEDN, VPICK, VPUT, VGET, the folds VFOLDADD, VFOLDXOR and VFOLDMAXU, the loads VLOAD, VLOADS and
VLDREC and the stores VSTORE, VSTORES and VSTREC are carried out: each answers a next state with its result, with register
numbers that name groups, and for memory with every element in reach. A load waits for input that has not arrived; a register
number that names no group, and an element that faults, end the job. -/
def Obligations.VectorMovesAndMemory : Prop :=
  ∀ s r w,
    let h := s.shape r w
    let n := min r.core.act.toNat h.cap
    let el := fun (x k : Nat) => (r.core.group h x).getD k 0
    let b := h.ew / 8
    let Writes := fun (c : Instr) (f : Nat → Nat) => CcVector c s r w fun y =>
      y.group h (cD w) = (List.range h.cap).map f ∧ ∀ x, x < cD w ∨ cD w + h.gs ≤ x → y.v x = r.core.v x
    let Folds := fun (c : Instr) (v : Nat) => CcRetires c s r w
      { r.core.setI (cD w) (BitVec.ofNat 64 v) with pc := r.core.pc + 4 }
    let at_ := fun (k : Nat) => (r.core.i (cA w) + r.core.i (cB w) + BitVec.ofNat 64 (k * b)).toNat
    let strided := fun (k : Nat) => (r.core.i (cA w) + BitVec.ofNat 64 k * r.core.i (cB w)).toNat
    let field := fun (k j : Nat) => (r.core.i (cA w) + BitVec.ofNat 64 ((k * recFields w + j) * b)).toNat
    let inScratch := fun (a : Nat) => a % b = 0 ∧ 0x200000 ≤ a ∧ a + b ≤ 0x240000
    let Stores := fun (c : Instr) (addr : Nat → Nat) => memWf r.core.scratch = true → Answers c s fun t =>
      (∀ a, (∀ k, k < n → a < addr k - 0x200000 ∨ addr k - 0x200000 + b ≤ a) →
        memRead (t.core r.idx).scratch a 1 = memRead r.core.scratch a 1) ∧
      (0 < n → memRead (t.core r.idx).scratch (addr (n - 1) - 0x200000) b = toLe b (el (cD w) (n - 1))) ∧
      t.core r.idx = { r.core with
        scratch := (t.core r.idx).scratch, pc := r.core.pc + 4, score := s.scoreAfter r w } ∧
      Keeps [.cores, .jobs] s t
    let Loads := fun (c : Instr) (addr : Nat → Nat) =>
      (∀ f : Nat → Bytes, (∀ k, k < n → addr k % b = 0 ∧ r.load (addr k) b = .bytes (f k)) →
        Writes c fun k => if k < n then leNat (f k) else 0) ∧
      (∀ k, k < n → (∀ i, i < k → addr i % b = 0 ∧ ∃ x, r.load (addr i) b = .bytes x) →
        (addr k % b ≠ 0 ∨ r.load (addr k) b = .fault → CcFaults c s r) ∧
        (addr k % b = 0 → r.load (addr k) b = .stall → CcStalls c s r) ∧
        (addr k % b = 0 → r.load (addr k) b = .poison → Answers c s fun t =>
          JobEnds r.job (s.failsAs r.job r.ni .memUncorrectable) 0 [] t ∧ Keeps (.slots :: jobParts) s t))
    (cD w % h.gs ≠ 0 ∨ cA w % h.gs ≠ 0 →
      (CcAt s r w 0x42 0x11 → CcFaults (.vmoveup r.idx .clean) s r) ∧
      (CcAt s r w 0x42 0x12 → CcFaults (.vmovedn r.idx .clean) s r) ∧
      (CcAt s r w 0x43 0x00 → CcFaults (.vpick r.idx .clean) s r)) ∧
    (cD w % h.gs = 0 → cA w % h.gs = 0 →
      (CcAt s r w 0x42 0x11 → Writes (.vmoveup r.idx .clean) fun k =>
        if (r.core.i (cB w)).toNat ≤ k ∧ k < n then el (cA w) (k - (r.core.i (cB w)).toNat) else 0) ∧
      (CcAt s r w 0x42 0x12 → Writes (.vmovedn r.idx .clean) fun k =>
        if k + (r.core.i (cB w)).toNat < n then el (cA w) (k + (r.core.i (cB w)).toNat) else 0) ∧
      (CcAt s r w 0x43 0x00 → cB w % h.gs = 0 → Writes (.vpick r.idx .clean) fun k =>
        if k < n ∧ el (cB w) k < n then el (cA w) (el (cB w) k) else 0)) ∧
    (CcAt s r w 0x42 0x13 → cD w % h.gs = 0 → Writes (.vput r.idx .clean) fun k =>
      if k = (r.core.i (cA w)).toNat then (r.core.i (cB w)).toNat % 2 ^ h.ew else el (cD w) k) ∧
    (cA w % h.gs = 0 →
      (CcAt s r w 0x42 0x14 → Folds (.vget r.idx .clean) (el (cA w) (r.core.i (cB w)).toNat)) ∧
      (CcAt s r w 0x43 0x01 → Folds (.vfoldadd r.idx .clean) (((List.range n).map (el (cA w))).sum % 2 ^ h.ew)) ∧
      (CcAt s r w 0x43 0x02 → Folds (.vfoldxor r.idx .clean) (((List.range n).map (el (cA w))).foldl Nat.xor 0)) ∧
      (CcAt s r w 0x43 0x03 → Folds (.vfoldmaxu r.idx .clean) (((List.range n).map (el (cA w))).foldl max 0))) ∧
    (cD w % h.gs = 0 →
      (CcAt s r w 0x48 0x00 → Loads (.vload r.idx .clean) at_) ∧
      (CcAt s r w 0x49 0x00 → Loads (.vloads r.idx .clean) strided) ∧
      (CcAt s r w 0x4C 0x00 → (∀ k, k < n → inScratch (at_ k)) → Stores (.vstore r.idx .clean) at_) ∧
      (CcAt s r w 0x4D 0x00 → (∀ k, k < n → inScratch (strided k)) → Stores (.vstores r.idx .clean) strided) ∧
      (CcAt s r w 0x4C 0x00 → (∃ k, k < n ∧ ¬ inScratch (at_ k)) → CcFaults (.vstore r.idx .clean) s r) ∧
      (CcAt s r w 0x4D 0x00 → (∃ k, k < n ∧ ¬ inScratch (strided k)) → CcFaults (.vstores r.idx .clean) s r)) ∧
    (cD w % h.gs = 0 → cD w + recFields w * h.gs ≤ 32 →
      (∀ f : Nat → Nat → Bytes, CcAt s r w 0x4A 0x00 →
        (∀ k j, k < n → j < recFields w → field k j % b = 0 ∧ r.load (field k j) b = .bytes (f k j)) →
        CcVector (.vldrec r.idx .clean) s r w fun y =>
          (∀ j, j < recFields w → y.group h (cD w + j * h.gs) = (List.range h.cap).map fun k =>
            if k < n then leNat (f k j) else 0) ∧
          ∀ x, x < cD w ∨ cD w + recFields w * h.gs ≤ x → y.v x = r.core.v x) ∧
      (CcAt s r w 0x4E 0x00 → (∃ k j, k < n ∧ j < recFields w ∧ ¬ inScratch (field k j)) →
        CcFaults (.vstrec r.idx .clean) s r) ∧
      (CcAt s r w 0x4E 0x00 → memWf r.core.scratch = true → (∀ k j, k < n → j < recFields w → inScratch (field k j)) →
        Answers (.vstrec r.idx .clean) s fun t =>
        (∀ a, (∀ k j, k < n → j < recFields w → a < field k j - 0x200000 ∨ field k j - 0x200000 + b ≤ a) →
          memRead (t.core r.idx).scratch a 1 = memRead r.core.scratch a 1) ∧
        t.core r.idx = { r.core with
          scratch := (t.core r.idx).scratch, pc := r.core.pc + 4, score := s.scoreAfter r w } ∧
        Keeps [.cores, .jobs] s t)) ∧
    (cD w % h.gs ≠ 0 ∨ 32 < cD w + recFields w * h.gs →
      (CcAt s r w 0x4A 0x00 → CcFaults (.vldrec r.idx .clean) s r) ∧
      (CcAt s r w 0x4E 0x00 → CcFaults (.vstrec r.idx .clean) s r))

/-! ## Jobs -/

/-- R162 to R164, R169, R172, R181, R189, R192, R198, R202: a KeyGen, GENERATE or IMPORT_CLEAR job writes its slot, whose
KEY_ID is the first 16 bytes of SHA3-256 over the public key, and the public key of a KeyGen is its output. -/
def Obligations.KeyPairsAreGenerated : Prop :=
  ∀ (s : State) (j : Job) (v : Nat),
    let n := j.entry.slot
    let w := (s.slot n).attr
    let New := fun (c : Instr) (o : Op) (mat pub : Bytes) (d : Nat) =>
      JobRuns s j o v → JobWrites c s j d pub n (newSlot w mat pub 0)
    (let dk := mlKemNew v j.rnd
     New (.mlKemKeygen j.id) .mlKemKeygen dk (slice dk (384 * (v + 2)) (mlKemSizes v).1) 0) ∧
    (let sk := mlDsaNew v j.rnd
     New (.mlDsaKeygen j.id) .mlDsaKeygen sk (mlDsaPub v sk) 0) ∧
    (let sk := slhDsaNew v j.rnd
     New (.slhDsaKeygen j.id) .slhDsaKeygen sk (sk.drop (2 * (slhSizes v).1)) 0) ∧
    (let r := mceNew v j.rnd
     New (.mcelieceKeygen j.id) .mcelieceKeygen r.1 r.2.1 r.2.2) ∧
    (let k := ecNew v j.rnd
     New (.ecKeygen j.id) .ecKeygen k (ecPubOf v k) 0) ∧
    (let k := pModBits j.param / 8
     let r := rsaNew (8 * k) (if pPubExp j.param = 0 then 65537 else pPubExp j.param) j.rnd
     New (.rsaKeygen j.id) .rsaKeygen r.1 (r.1.take (k + 4)) r.2) ∧
    (let h := hybParts v
     let dk := mlKemNew h.1 (j.rnd.take 64)
     let k := ecNew h.2 (j.rnd.drop 64)
     New (.hybridKeygen j.id) .hybridKeygen (dk ++ k)
       (slice dk (384 * (h.1 + 2)) (mlKemSizes h.1).1 ++ ecPubOf h.2 k) 0) ∧
    New (.generate j.id) .generate (fit (symLen (attrType w) (attrParam w)) j.rnd) [] 0 ∧
    (JobRuns s j .importClear v →
      let t := attrType w
      let p := attrParam w
      (importsPublic w = true → isSymmetric t = false → publicOk t p j.input = true →
        JobWrites (.importClear j.id) s j 0 [] n (newSlot w [] j.input 0)) ∧
      (importsPublic w = false ∨ isSymmetric t = true → privateOk t p j.input = true →
        JobWrites (.importClear j.id) s j 0 [] n (newSlot w j.input (pubOf t p j.input) 0)) ∧
      ((importsPublic w = true ∧ isSymmetric t = false → publicOk t p j.input = false) →
        (importsPublic w = false ∨ isSymmetric t = true → privateOk t p j.input = false) →
        JobGives (.importClear j.id) s j .pointInvalid 17 []))

/-- R153, R160, R161, R170 to R173, R191, R193, R203: signatures end OK, or OK_DETERMINISTIC_FALLBACK; verifications end
OK or VERIFY_FALSE, with the key of their slot or of their input. -/
def Obligations.SignaturesAndVerdicts : Prop :=
  ∀ (s : State) (j : Job) (v : Nat) (y : Option Slot),
    let p := j.param
    let key := slotMat y
    let signed := if j.entropy = .fallback then Status.okDeterministicFallback else .ok
    let random := fun (det : Bytes) => if pDeterministic p || j.entropy == .fallback then det else j.rnd
    let Gives := fun (c : Instr) (o : Op) (st : Status) (d : Nat) (out : Bytes) =>
      JobRuns s j o v → KeyIs j y → JobGives c s j st d out
    let verdict := fun (b : Bool) => if b then Status.ok else .verifyFalse
    (let r := mlDsaSignWith v (dsaMatrix (dsaSet v) (key.take 32)) key (messageRep p j.input) (random (zeros 32))
     Gives (.mlDsaSign j.id) .mlDsaSign signed r.2 r.1) ∧
    Gives (.slhDsaSign j.id) .slhDsaSign signed 0
      (slhDsaSignature v key (messageRep p j.input) (random (slice key (2 * (slhSizes v).1) (slhSizes v).1))) ∧
    (v ≤ 2 → pDeterministic p = false → j.entropy ≠ .fallback →
      Gives (.ecSign j.id) .ecSign .ok 0 (ecdsaHedged v key (digestOf p j.input) j.rnd)) ∧
    (v ≤ 2 → pDeterministic p = true ∨ j.entropy = .fallback → Gives (.ecSign j.id) .ecSign signed 0
      (ecdsaDeterministic v key (digestOf p j.input) (hashAlgVariant (pAlg p)) (algLen (pAlg p)))) ∧
    (2 < v → Gives (.ecSign j.id) .ecSign .ok 0 (eddsaSignature v key (edDom p j.input) (edMessage p j.input))) ∧
    (let k := slotRsaLen y p
     let rsa := fun (em : Bytes) => toBe k ((parseRsa k key).private1 (beNat em))
     Gives (.rsaPssSign j.id) .rsaPssSign signed 0
       (rsa (pssEncode (pAlg p) k (digestOf p j.input) ((random (zeros (pSaltLen p))).take (pSaltLen p)))) ∧
     Gives (.rsaV15Sign j.id) .rsaV15Sign .ok 0 (rsa (v15Encode (pAlg p) k (digestOf p j.input)))) ∧
    (let q := verifyParts j (mlDsaSizes v).1 y
     Gives (.mlDsaVerify j.id) .mlDsaVerify
       (verdict (mlDsaAccepts v q.1 (messageRep p q.2.2) q.2.1)) 0 []) ∧
    (let q := verifyParts j (2 * (slhSizes v).1) y
     Gives (.slhDsaVerify j.id) .slhDsaVerify (verdict (slhDsaAccepts v q.1 (messageRep p q.2.2) q.2.1)) 0 []) ∧
    (let q := verifyParts j (ecSizes v).2.1 y
     (y.isNone = true → ecPublicOk v q.1 = false → Gives (.ecVerify j.id) .ecVerify .pointInvalid 17 []) ∧
     (y.isSome = true ∨ ecPublicOk v q.1 = true → Gives (.ecVerify j.id) .ecVerify (verdict
       (if v ≤ 2 then ecdsaAccepts v q.1 (digestOf p q.2.2) q.2.1
         else eddsaAccepts v q.1 (edDom p q.2.2) (edMessage p q.2.2) q.2.1)) 0 [])) ∧
    (let k := slotRsaLen y p
     let q := verifyParts j (k + 4) y
     let m := beNat (q.1.take k)
     let em := toBe k (powMod (beNat q.2.1) (beNat (slice q.1 k 4)) m)
     (y.isNone = true ∧ rsaPubOk k q.1 = false ∨ m ≤ beNat q.2.1 →
       Gives (.rsaPssVerify j.id) .rsaPssVerify .pointInvalid 17 [] ∧
       Gives (.rsaV15Verify j.id) .rsaV15Verify .pointInvalid 17 []) ∧
     (y.isSome = true ∨ rsaPubOk k q.1 = true → beNat q.2.1 < m →
       Gives (.rsaPssVerify j.id) .rsaPssVerify (verdict (pssVerify (pAlg p) k (digestOf p q.2.2) em
         (if pSaltLen p = 0xFFFF then none else some (pSaltLen p)))) 0 [] ∧
       Gives (.rsaV15Verify j.id) .rsaV15Verify (verdict (em == v15Encode (pAlg p) k (digestOf p q.2.2))) 0 [])) ∧
    (∀ n, y.isSome = true ∨ lmsKeyLen v j.input = some n ∧ n + pSigLen p ≤ j.input.length →
      let q := verifyParts j n y
      Gives (.lmsVerify j.id) .lmsVerify (verdict (statefulAccepts (0x04 + v) q.1 q.2.2 q.2.1)) 0 []) ∧
    (∀ n, y.isSome = true ∨ xmssKeyLen v j.input = some n ∧ n + pSigLen p ≤ j.input.length →
      let q := verifyParts j n y
      Gives (.xmssVerify j.id) .xmssVerify (verdict (statefulAccepts (0x06 + v) q.1 q.2.2 q.2.1)) 0 []) ∧
    (y = none → lmsKeyLen v j.input = none → Gives (.lmsVerify j.id) .lmsVerify .pointInvalid 17 []) ∧
    (y = none → xmssKeyLen v j.input = none → Gives (.xmssVerify j.id) .xmssVerify .pointInvalid 17 [])

/-- R165 to R168, R182, R190, R197 to R201: encapsulation, decapsulation, key agreement and key derivation give their
secret to the output or to DEST_SLOT, as NEVER_EXPORTABLE as the key it comes from; a public value that fails its check ends the
job POINT_INVALID. -/
def Obligations.SecretsAreAgreedAndDerived : Prop :=
  ∀ (s : State) (j : Job) (v : Nat) (y : Option Slot),
    let p := j.param
    let key := slotMat y
    let Yields := fun (c : Instr) (o : Op) (pre secret : Bytes) (src : Option Slot) =>
      JobRuns s j o v → KeyIs j y → JobYields c s j pre secret src
    let Invalid := fun (c : Instr) (o : Op) => JobRuns s j o v → KeyIs j y → JobGives c s j .pointInvalid 17 []
    (let ek := pubIn j y (mlKemSizes v).1
     let r := mlKemEncapsWith v (kemEkMatrix v ek) ek j.rnd
     (y.isSome = true ∨ mlKemEkOk v ek = true → Yields (.mlKemEncaps j.id) .mlKemEncaps r.1 r.2 none) ∧
     (y = none → mlKemEkOk v ek = false → Invalid (.mlKemEncaps j.id) .mlKemEncaps)) ∧
    Yields (.mlKemDecaps j.id) .mlKemDecaps []
      (mlKemDecapsWith v (kemEkMatrix v (mlKemEk v key)) key j.input) y ∧
    (let r := mceEncapsWith v (pubIn j y (mceSizes v).1) j.rnd
     Yields (.mcelieceEncaps j.id) .mcelieceEncaps r.1 r.2 none) ∧
    Yields (.mcelieceDecaps j.id) .mcelieceDecaps [] (mceDecapsWith v key j.input) y ∧
    (∀ k, agreeSecret v key j.input = some k → Yields (.agree j.id) .agree [] k y) ∧
    (agreeSecret v key j.input = none → Invalid (.agree j.id) .agree) ∧
    (let salt := j.input.take (pWordA p)
     let info := j.input.drop (pWordA p)
     let alg := (hashAlgVariant (pAlg p)).getD 1
     let len := algLen (pAlg p)
     Yields (.kdfCounterHmac j.id) .kdfCounterHmac [] (kdfCounter alg key salt info (pOutBytes p) len) y ∧
     Yields (.kdfKmac256 j.id) .kdfKmac256 [] (kmac256 key info (pOutBytes p) salt) y ∧
     Yields (.hkdf j.id) .hkdf [] (hkdfExpandOut alg (hkdfExtract alg salt key len) info (pOutBytes p) len) y ∧
     Yields (.hkdfExpand j.id) .hkdfExpand [] (hkdfExpandOut alg key j.input (pOutBytes p) len) y) ∧
    (let h := hybParts v
     let pub := pubIn j y (hybSizes v).1
     let ek := pub.take (mlKemSizes h.1).1
     let pk := pub.drop (mlKemSizes h.1).1
     let r := mlKemEncapsWith h.1 (kemEkMatrix h.1 ek) ek (j.rnd.take 32)
     let k := ecNew h.2 (j.rnd.drop 32)
     let eph := ecPubOf h.2 k
     let good := y.isSome || mlKemEkOk h.1 ek && ecPublicOk h.2 pk
     (∀ kec, good = true → agreeSecret h.2 k pk = some kec →
       Yields (.hybridEncaps j.id) .hybridEncaps (r.1 ++ eph)
         (if pConcat p then r.2 ++ kec
           else sha3_256 (r.2 ++ kec ++ eph ++ pk ++ ascii "LX9HYB" ++ [BitVec.ofNat 8 v])) y) ∧
     (good = false ∨ agreeSecret h.2 k pk = none → Invalid (.hybridEncaps j.id) .hybridEncaps)) ∧
    (let h := hybParts v
     let n := (mlKemSizes h.1).2.2
     let eph := j.input.drop n
     let dk := key.take (mlKemSizes h.1).2.1
     let pk := ((y.map Slot.pub).getD []).drop (mlKemSizes h.1).1
     let kpq := mlKemDecapsWith h.1 (kemEkMatrix h.1 (mlKemEk h.1 dk)) dk (j.input.take n)
     (∀ kec, agreeSecret h.2 (key.drop (mlKemSizes h.1).2.1) eph = some kec →
       Yields (.hybridDecaps j.id) .hybridDecaps []
         (if pConcat p then kpq ++ kec else sha3_256 (kpq ++ kec ++ eph ++ pk ++ ascii "LX9HYB" ++ [BitVec.ofNat 8 v]))
         y) ∧
     (agreeSecret h.2 (key.drop (mlKemSizes h.1).2.1) eph = none → Invalid (.hybridDecaps j.id) .hybridDecaps))

/-- R126, R184, R192 to R196, R200, R203: hashes, MACs, ciphers, RSA encryption and RANDOM; a stream of encryption commits
before its input has all come, and a decryption after its first pass over the input, and its tile keeps the mark of COMMIT. -/
def Obligations.HashesMacsAndCiphers : Prop :=
  ∀ (s : State) (j : Job) (v : Nat) (y : Option Slot),
    let p := j.param
    let key := slotMat y
    let a := pWordA p
    let Gives := fun (c : Instr) (o : Op) (st : Status) (d : Nat) (out : Bytes) =>
      JobRuns s j o v → KeyIs j y → JobGives c s j st d out
    let verdict := fun (b : Bool) => if b then Status.ok else .verifyFalse
    let Marks := fun (t : State) => ∀ i k, j.nodes.findIdx? (fun n => n.info.output) = some i →
      (s.tile k).node = some (j.id, i) → (t.tile k).seqr.committed = true
    (JobRuns s j .hash v → pExtend p = false → JobGives (.hash j.id) s j .ok 0 (hashOut v p j.input)) ∧
    (JobRuns s j .hash v → pExtend p = true → Answers (.hash j.id) s fun t =>
      JobEnds j .ok 0 (if j.entry.outAddr = 0 then [] else hashOut v p j.input) t ∧
      (∃ x, t.job j.id = some x ∧ x.extend = some (extendTarget p, hashOut v p j.input)) ∧ Keeps jobParts s t) ∧
    Gives (.hmacGenerate j.id) .hmacGenerate .ok 0 (hmac v key j.input) ∧
    (let n := macTagLen .hmacVerify v p
     Gives (.hmacVerify j.id) .hmacVerify
       (verdict ((hmac v key (j.input.drop n)).take n == j.input.take n)) 0 []) ∧
    (let mac := fun (m c : Bytes) (n : Nat) => if v = 0 then kmac128 key m n c else kmac256 key m n c
     let n := macTagLen .kmacVerify v p
     Gives (.kmacGenerate j.id) .kmacGenerate .ok 0 (mac (j.input.drop a) (j.input.take a) (pOutBytes p)) ∧
     Gives (.kmacVerify j.id) .kmacVerify
       (verdict (mac (j.input.drop (n + a)) (slice j.input n a) n == j.input.take n)) 0 []) ∧
    (let iv := if pIvGen p then fit 12 j.rnd else (pIv p).take 12
     let r := gcmSeal key iv (j.input.take a) (j.input.drop a) (pTagLen p)
     Gives (.aesGcmEncrypt j.id) .aesGcmEncrypt .ok 0 ((if pIvGen p then iv else []) ++ r.1 ++ r.2)) ∧
    (let body := j.input.drop a
     let n := body.length - pTagLen p
     let r := gcmOpen key ((pIv p).take 12) (j.input.take a) (body.take n) (body.drop n)
     y.isSome = true →
     (j.committed = false → r = none → Gives (.aesGcmDecrypt j.id) .aesGcmDecrypt .verifyFalse 0 []) ∧
     (∀ m, j.committed = false → r = some m → j.entry.inline = true ∨ j.forPeer.isSome = true →
       Gives (.aesGcmDecrypt j.id) .aesGcmDecrypt .ok 0 m) ∧
     (∀ m, j.committed = false → r = some m → j.entry.inline = false → j.forPeer = none →
       JobRuns s j .aesGcmDecrypt v → KeyIs j y → Answers (.aesGcmDecrypt j.id) s fun t =>
         t.job j.id = some { j with committed := true, input := [] } ∧ Marks t ∧ Keeps [.jobs, .tiles] s t) ∧
     (j.committed = true →
       Gives (.aesGcmDecrypt j.id) .aesGcmDecrypt .ok 0 (gcmCrypt key ((pIv p).take 12) (body.take n)))) ∧
    (∀ q ∈ [(Instr.aesGcmEncrypt, Op.aesGcmEncrypt), (Instr.aesCtr, Op.aesCtr), (Instr.aesXtsEncrypt, Op.aesXtsEncrypt),
        (Instr.aesXtsDecrypt, Op.aesXtsDecrypt)],
      s.alive = true → s.job j.id = some j → s.opOfJob j = some (q.2, v) → s.mayStart j q.2 = true → j.inputReady = false →
      j.committed = false → j.keyCopy.isSome = true → MasksHere s j → Answers (q.1 j.id) s fun t =>
        (∃ x, t.job j.id = some x ∧ x.committed = true ∧ x.status = none ∧ x.input = j.input ∧ x.keyCopy = j.keyCopy) ∧
        Marks t ∧ Keeps ([.jobs, .tiles, .spr] ++ eventParts) s t) ∧
    Gives (.aesCtr j.id) .aesCtr .ok 0 (aesCtr key (pIv p) j.input) ∧
    Gives (.aesXtsEncrypt j.id) .aesXtsEncrypt .ok 0 (xtsEnc key (pIv p) j.input) ∧
    Gives (.aesXtsDecrypt j.id) .aesXtsDecrypt .ok 0 (xtsDec key (pIv p) j.input) ∧
    (let k := slotRsaLen y p
     let pub := pubIn j y (k + 4)
     let rest := if y.isNone then j.input.drop (k + 4) else j.input
     let em := oaepEncode (pAlg p) k (rest.take a) (rest.drop a) (fit (algLen (pAlg p)) j.rnd)
     (y.isSome = true ∨ rsaPubOk k pub = true → Gives (.rsaOaepEncrypt j.id) .rsaOaepEncrypt .ok 0
       (toBe k (powMod (beNat em) (beNat (slice pub k 4)) (beNat (pub.take k))))) ∧
     (y = none → rsaPubOk k pub = false → Gives (.rsaOaepEncrypt j.id) .rsaOaepEncrypt .pointInvalid 17 [])) ∧
    (let k := slotRsaLen y p
     let r := parseRsa k key
     let c := beNat (j.input.drop a)
     (r.n ≤ c → Gives (.rsaOaepDecrypt j.id) .rsaOaepDecrypt .pointInvalid 17 []) ∧
     (∀ m, c < r.n → oaepDecode (pAlg p) k (j.input.take a) (toBe k (r.private1 c)) = some m →
       Gives (.rsaOaepDecrypt j.id) .rsaOaepDecrypt .ok 0 m) ∧
     (c < r.n → oaepDecode (pAlg p) k (j.input.take a) (toBe k (r.private1 c)) = none →
       Gives (.rsaOaepDecrypt j.id) .rsaOaepDecrypt .badParams 18 [])) ∧
    (JobRuns s j .random v → JobGives (.random j.id) s j .ok 0 (fit (pOutBytes p) j.rnd))

/-- R174 to R178, R306 to R309: a stateful KeyGen reserves its slot until its record is written; a signature draws one index
that is never drawn again and leaves only when the record of its lease has committed; the index query; and the end of a
record write. -/
def Obligations.StatefulKeysSignOnce : Prop :=
  ∀ (s : State) (j : Job) (v : Nat),
    let n := j.entry.slot
    let x := s.slot n
    let KeyGen := fun (c : Instr) (t : Nat) (mat : Bytes) =>
      let pub := statefulPub t mat
      (s.ledger.readOnly = false → s.records.length + s.recordsPending < recordMax → Answers c s fun u =>
        u.slot n = { newSlot x.attr mat pub s.devId with
          st := .reserved
          cur := some { next := 0, stop := min leaseSize (statefulLimit t (attrParam x.attr) mat), committed := false } } ∧
        u.job j.id = some { j with committed := true, output := pub } ∧ u.rst.pulse.isSome = true ∧
        (∀ m, m ≠ n → u.slot m = s.slot m) ∧ Keeps [.slots, .jobs, .tiles, .rst] s u) ∧
      (s.ledger.readOnly = true → JobGives c s j .leaseExhausted 2 []) ∧
      (s.ledger.readOnly = false → recordMax ≤ s.records.length + s.recordsPending → JobGives c s j .badParams 13 [])
    (JobRuns s j .lmsKeygen v → j.committed = false → KeyGen (.lmsKeygen j.id) (0x04 + v) (lmsNew (0x04 + v) j)) ∧
    (JobRuns s j .xmssKeygen v → j.committed = false → KeyGen (.xmssKeygen j.id) (0x06 + v) (xmssNew (0x06 + v) j)) ∧
    (∀ p ∈ [(Instr.lmsSign, Op.lmsSign), (Instr.xmssSign, Op.xmssSign)], JobRuns s j p.2 v → j.entry.keyValid = true →
      (j.index = none → j.keyCopy = none → j.keyGone = false → x.st = .live →
        let asked : Job := { j with drawSeq := some (j.drawSeq.getD s.weir.seq) }
        (∀ l, x.cur = some l → l.next < l.stop → Answers (p.1 j.id) s fun t =>
          (t.slot n).cur = some { l with next := l.next + 1 } ∧ t.job j.id = some { asked with index := some l.next } ∧
          Keeps ([.rst, .slots, .jobs, .weir] ++ eventParts) s t) ∧
        (∀ l, Lease.some? x.cur = none → Lease.some? x.nxt = none → x.homeDev = s.devId →
          s.homeLease x.keyId = .ok l → Answers (p.1 j.id) s fun t =>
            (t.slot n).cur = some { l with next := l.next + 1 } ∧ t.rst.pulse.isSome = true ∧
            t.job j.id = some { asked with index := some l.next } ∧
            Keeps ([.rst, .slots, .jobs, .weir] ++ eventParts) s t) ∧
        (∀ d, Lease.some? x.cur = none → Lease.some? x.nxt = none → x.homeDev = s.devId →
          s.homeLease x.keyId = .error d → Answers (p.1 j.id) s fun t =>
            JobEnds j .leaseExhausted d [] t ∧ Keeps (.slots :: jobParts ++ eventParts) s t) ∧
        (Lease.some? x.cur = none → Lease.some? x.nxt = none → x.homeDev ≠ s.devId → s.leaseAsked n = false →
          Answers (p.1 j.id) s fun t =>
            (∃ q ∈ t.cfl.pendingReq, q.cls = 0x06 ∧ q.slot = n ∧ q.job = some j.id ∧ q.dest = x.homeDev) ∧
            t.job j.id = some asked ∧ Keeps [.cfl, .tx, .jobs, .weir] s t) ∧
        (Lease.some? x.cur = none → Lease.some? x.nxt = none → x.homeDev ≠ s.devId → s.leaseAsked n = true →
          Answers (p.1 j.id) s fun t => t.job j.id = some asked ∧ Keeps [.jobs, .weir] s t)) ∧
      (∀ i, j.index = some i →
        (j.keyCopy = none → j.keyGone = true ∨ x.st ≠ .live → JobGives (p.1 j.id) s j .keySlotEmpty 0 []) ∧
        (j.keyCopy = none → j.keyGone = false → x.st = .live → s.indexCommitted x i = false →
          Answers (p.1 j.id) s fun t =>
            (∃ y, t.job j.id = some y ∧ y.keyCopy = some x ∧ y.status = none) ∧
            (∀ m, (t.slot m).bare = (s.slot m).bare) ∧ Keeps [.jobs, .kst, .reaches, .slots, .hbm] s t) ∧
        (j.keyCopy = none → j.keyGone = false → x.st = .live → s.indexCommitted x i = true →
          MasksHere (s.loadKey j) { j with keyCopy := some x } → Answers (p.1 j.id) s fun t =>
            JobEnds j .ok (i % 2 ^ 32) (statefulSignature x i j.input) t ∧ (∀ m, (t.slot m).bare = (s.slot m).bare) ∧
            Keeps ([.kst, .reaches, .slots] ++ jobParts) s t) ∧
        (∀ y, j.keyCopy = some y → s.indexCommitted y i = false → exec (p.1 j.id) s = .next s) ∧
        (∀ y, j.keyCopy = some y → s.indexCommitted y i = true →
          JobGives (p.1 j.id) s j .ok (i % 2 ^ 32) (statefulSignature y i j.input)))) ∧
    (∀ p ∈ [(Instr.lmsIndexQuery, Op.lmsIndexQuery), (Instr.xmssIndexQuery, Op.xmssIndexQuery)],
      JobRuns s j p.2 v → SlotIs s j x → JobGives (p.1 j.id) s j .ok 0
        (toLe 8 (s.nextIndex x) ++ toLe 8 (s.remaining x) ++ toLe 4 (Lease.left x.cur) ++ toLe 2 x.homeDev ++ toLe 2 0)) ∧
    (∀ (k : Nat) (l : Lease) (rest : List Lease), (s.slot k).uncommitted = l :: rest →
      (∀ r, s.record (s.slot k).keyId = some r → (s.slot k).st = .live → Answers (.leaseCommit k) s fun t =>
        t.record (s.slot k).keyId =
          some (KeyRec.sealed s.kst.lmk { r with floor := max r.floor l.stop, grants := r.grants + 1 }) ∧
        (t.slot k).uncommitted.length < (s.slot k).uncommitted.length ∧
        (∀ m, m ≠ k → t.slot m = s.slot m) ∧ Keeps [.records, .slots, .rst] s t) ∧
      (∀ y, (s.slot k).st = .reserved → s.record (s.slot k).keyId = none →
        (s.jobs.find? fun i => i.reserved == some k && i.committed && i.status.isNone) = some y →
        s.job y.id = some y → y.abortLate = false → Answers (.leaseCommit k) s fun t =>
          (t.slot k).st = .live ∧ JobEnds y .ok 0 y.output t ∧
          (∃ r ∈ t.records, r.keyId = (s.slot k).keyId ∧ r.floor = l.stop) ∧
          (∀ m, m ≠ k → (t.slot m).bare = (s.slot m).bare) ∧ Keeps ([.records, .rst] ++ keyParts ++ jobParts) s t)) ∧
    (∀ k, (s.slot k).uncommitted = [] → exec (.leaseCommit k) s = .next s)

/-- R183, R200, R202, R247, R295 to R305, R312, R313, R339: device and admin jobs, exports and imports of wrapped keys,
RESTRICT and DELETE, owner opcodes, and the measurement unit. -/
def Obligations.AdminAndKeyJobs : Prop :=
  ∀ (s : State) (j : Job) (v : Nat),
    let n := j.entry.slot
    let x := s.slot n
    (JobRuns s j .nop v → JobGives (.nop j.id) s j .ok 0 []) ∧
    (JobRuns s j .fence v → s.earlierRetired j = true → JobGives (.fence j.id) s j .ok 0 []) ∧
    (s.earlierRetired j = false → s.job j.id = some j → exec (.fence j.id) s = .next s) ∧
    (s.alive = true → s.job j.id = some j → s.isOp j .reseed = true → j.st = .running → j.status = none →
      let ready : Bool := j.inputReady && j.nodes.any (fun m => m.st.awaitsEntropy) &&
        !(s.spr.waiting.any fun w => w.job == some j.id)
      (ready = true → exec (.reseed j.id) s = .next { s with spr := { s.spr with
        waiting := s.spr.waiting ++ [{ inst := j.reach, extra := j.input, job := some j.id }] } }) ∧
      (ready = false → exec (.reseed j.id) s = .next s)) ∧
    (∀ y front back, JobRuns s j .attest v → KeyIs j (some y) → j.attest = some (front, back) →
      JobGives (.attest j.id) s j .ok 0 (s.kst.statement (attestPayload front j.input back))) ∧
    (∀ y, JobRuns s j .exportWrapped v → KeyIs j (some y) →
      JobGives (.exportWrapped j.id) s j .ok 0 (s.wrap (s.reach j.reach).wrapKey y)) ∧
    (∀ y, JobRuns s j .exportPublic v → KeyIs j (some y) → JobGives (.exportPublic j.id) s j .ok 0 y.pub) ∧
    (JobRuns s j .restrict v → SlotIs s j x →
      (attrLocked x.attr = false → attrNarrows x.attr (pAttr j.param) = true → pAttr j.param ≠ x.attr →
        JobWrites (.restrict j.id) s j 0 [] n { x with attr := pAttr j.param }) ∧
      (attrLocked x.attr = true → JobGives (.restrict j.id) s j .keyUsageDenied 15 []) ∧
      (attrLocked x.attr = false → attrNarrows x.attr (pAttr j.param) = false ∨ pAttr j.param = x.attr →
        JobGives (.restrict j.id) s j .badParams 10 [])) ∧
    (JobRuns s j .delete v → SlotIs s j x →
      (attrLocked x.attr = false → Answers (.delete j.id) s fun t =>
        JobEnds j .ok 0 j.output t ∧ (t.slot n).st = .empty ∧ (∀ m, m ≠ n → t.slot m = s.slot m) ∧
        Keeps (.records :: keyParts ++ jobParts) s t) ∧
      (attrLocked x.attr = true → JobGives (.delete j.id) s j .keyUsageDenied 15 [])) ∧
    (∀ m, JobRuns s j .importWrapped v →
      let b := j.input
      let w := importWord b (pAttr j.param) j.reach
      let wk := (s.reach j.reach).wrapKey
      let v1 := fieldLe b 4 2 == 1
      let alone := blobPublic (BitVec.ofNat 64 (fieldLe b 8 8)) (fieldLe b 0x10 4)
      let pub := if alone then m else pubOf (attrType w) (attrParam w) m
      let new := newSlot w (if alone then [] else m) pub (if !attrStateful w then 0 else if v1 then s.devId else fieldLe b 0x14 2)
      blobHeadOk b (pAttr j.param) = true → blobLenOk b j.entry.inLen = true →
      (j.reserved = some n ∨ x.st = .empty ∧ ∃ r, s.cfg.reach j.reach = some r ∧ s.quotaOk r w alone = true) →
      v1 = false ∨ j.entry.inLen ≤ (j.outBufs.map Prod.snd).sum →
      (unwrap wk b = none → JobGives (.importWrapped j.id) s j .verifyFalse 0 []) ∧
      (∀ d, unwrap wk b = some m → attrStateful w = true → s.statefulImport (slice b 0x20 16) = some d →
        JobGives (.importWrapped j.id) s j .badParams d []) ∧
      (unwrap wk b = some m → attrStateful w = false ∨ s.statefulImport (slice b 0x20 16) = none →
        (if alone then publicOk (attrType w) (attrParam w) m else privateOk (attrType w) (attrParam w) m) = true →
        keyIdOf (attrType w) pub = slice b 0x20 16 →
        (v1 = false → JobWrites (.importWrapped j.id) s j 0 [] n new) ∧
        (v1 = true → Answers (.importWrapped j.id) s fun t =>
          JobEnds j .okMigrated 0 (s.wrap wk new) t ∧ (t.slot n).bare = new ∧
          Keeps (keyParts ++ jobParts ++ eventParts) s t))) ∧
    (s.alive = true → s.job j.id = some j → s.isOp j .ownerOpcode = true → j.st = .running → j.status = none →
      j.committed = true → j.abortLate = false → (∀ m ∈ j.nodes, m.st = .done) →
      let fits := j.output.length ≤ (j.outBufs.map Prod.snd).sum ∨ j.forPeer.isSome = true
      (fits → JobGives (.ownerOpcode j.id) s j .ok 0 j.output) ∧
      (¬ fits → JobGives (.ownerOpcode j.id) s j .outputTooSmall 0 [])) ∧
    (∀ t d, s.alive = true → s.job j.id = some j → j.extend = some (t, d) →
      (s.extendsNext j = false → exec (.measExtend j.id) s = .next s) ∧
      (s.extendsNext j = true → t < 32 → (s.reach j.reach).meas.length = 32 → (s.reach j.reach).measCnt.length = 32 →
        Answers (.measExtend j.id) s fun u =>
          (u.reach j.reach).meas.getD t measZero = sha3_384 ((s.reach j.reach).meas.getD t measZero ++ d) ∧
          (u.reach j.reach).measCnt.getD t 0 = satAdd 0xFFFFFFFF ((s.reach j.reach).measCnt.getD t 0) 1 ∧
          u.job j.id = some { j with extend := none } ∧ Keeps [.reaches, .jobs] s u) ∧
      (s.extendsNext j = true → 128 ≤ t → t < 144 → s.meas.length = 16 → Answers (.measExtend j.id) s fun u =>
        u.meas.getD (t - 128) measZero = sha3_384 (s.meas.getD (t - 128) measZero ++ d) ∧
        u.job j.id = some { j with extend := none } ∧ Keeps [.meas, .measCnt, .jobs] s u))

/-- R183, R217, R260, R293, R310: an operation loads its key once (log entry 92); one whose key has been invalidated before that
ends KEY_SLOT_EMPTY; one that validates a public value does so before it loads its key; an operation that is not ready stays, and one that lacks masking randomness stalls; QUERY shows a slot's
descriptor; and PLACE sends a stateful key to a peer. -/
def Obligations.KeysThatAreGoneAndKeyCommands : Prop :=
  (∀ p ∈ [
      (Instr.mlKemEncaps, Op.mlKemEncaps), (Instr.mlKemDecaps, Op.mlKemDecaps), (Instr.mlDsaSign, Op.mlDsaSign),
      (Instr.mlDsaVerify, Op.mlDsaVerify), (Instr.slhDsaSign, Op.slhDsaSign), (Instr.slhDsaVerify, Op.slhDsaVerify),
      (Instr.lmsVerify, Op.lmsVerify), (Instr.xmssVerify, Op.xmssVerify), (Instr.mcelieceEncaps, Op.mcelieceEncaps),
      (Instr.mcelieceDecaps, Op.mcelieceDecaps), (Instr.ecSign, Op.ecSign), (Instr.ecVerify, Op.ecVerify),
      (Instr.agree, Op.agree), (Instr.rsaPssSign, Op.rsaPssSign), (Instr.rsaV15Sign, Op.rsaV15Sign),
      (Instr.rsaPssVerify, Op.rsaPssVerify), (Instr.rsaV15Verify, Op.rsaV15Verify),
      (Instr.rsaOaepEncrypt, Op.rsaOaepEncrypt), (Instr.rsaOaepDecrypt, Op.rsaOaepDecrypt),
      (Instr.hmacGenerate, Op.hmacGenerate), (Instr.hmacVerify, Op.hmacVerify),
      (Instr.kmacGenerate, Op.kmacGenerate), (Instr.kmacVerify, Op.kmacVerify),
      (Instr.aesGcmEncrypt, Op.aesGcmEncrypt), (Instr.aesGcmDecrypt, Op.aesGcmDecrypt), (Instr.aesCtr, Op.aesCtr),
      (Instr.aesXtsEncrypt, Op.aesXtsEncrypt), (Instr.aesXtsDecrypt, Op.aesXtsDecrypt),
      (Instr.kdfCounterHmac, Op.kdfCounterHmac), (Instr.kdfKmac256, Op.kdfKmac256), (Instr.hkdf, Op.hkdf),
      (Instr.hkdfExpand, Op.hkdfExpand), (Instr.exportWrapped, Op.exportWrapped),
      (Instr.exportPublic, Op.exportPublic), (Instr.restrict, Op.restrict), (Instr.hybridEncaps, Op.hybridEncaps),
      (Instr.hybridDecaps, Op.hybridDecaps), (Instr.attest, Op.attest), (Instr.delete, Op.delete),
      (Instr.lmsIndexQuery, Op.lmsIndexQuery), (Instr.xmssIndexQuery, Op.xmssIndexQuery)],
    ∀ (s : State) (j : Job) (v : Nat), s.job j.id = some j →
      (JobRuns s j p.2 v → j.entry.keyValid = true → j.keyCopy = none → peerValueOk p.2 v j = false →
        JobGives (p.1 j.id) s j .pointInvalid 17 []) ∧
      (JobRuns s j p.2 v → j.entry.keyValid = true → j.keyCopy = none → j.index = none → peerValueOk p.2 v j = true →
        j.keyGone = true ∨ (s.slot j.entry.slot).st ≠ .live → JobGives (p.1 j.id) s j .keySlotEmpty 0 []) ∧
      (JobRuns s j p.2 v → j.entry.keyValid = true → j.keyCopy = none → j.index = none → p.2.loadsKey = true →
        peerValueOk p.2 v j = true → j.keyGone = false → (s.slot j.entry.slot).st = .live → Answers (p.1 j.id) s fun t =>
          t.job j.id = some { j with keyCopy := some (s.slot j.entry.slot) } ∧
          (∀ m, (t.slot m).bare = (s.slot m).bare) ∧ Keeps [.jobs, .kst, .reaches, .slots, .hbm] s t) ∧
      (s.mayRun j p.2 = false →
        j.keyCopy = none ∨ p.2 ∉ [Op.aesGcmEncrypt, .aesCtr, .aesXtsEncrypt, .aesXtsDecrypt] →
        exec (p.1 j.id) s = .next s) ∧
      (∀ i x, s.alive = true → s.opOfJob j = some (p.2, v) → s.mayRun j p.2 = true → j.entry.keyValid = true →
        j.keyCopy = some x → p.2.loadsKey = true → p.2 ≠ .aesGcmDecrypt →
        j.nodes.findIdx? (fun n => n.info.output) = some i → (s.nodeMasks j.id i).1 = false →
        exec (p.1 j.id) s = .next (s.nodeMasks j.id i).2)) ∧
  ∀ s : State, s.hostOpen = true →
    (Answers .query s fun t =>
      t.kst.desc = (if (s.slot s.kst.argSlot).st = .live then t.descriptor s.kst.argSlot else zeros 32) ∧
      t.kst.result = 0 ∧ t.kst.done = true ∧ Keeps [.kst, .hbm] s t) ∧
    (let x := s.slot s.kst.argSlot
     let r := attrOwner x.attr
     let good := x.st == .live && attrStateful x.attr && x.homeDev == s.devId && s.keyPolicy &&
       s.cfl.clusterKey.isSome && s.peerTakes s.kst.peerDev r
     (good = false → exec .place s = .next { s with kst := { s.kst with result := Status.badParams.code, done := true } }) ∧
     (good = true → (s.reach r).st = .quiescing ∨ (s.reach r).st = .quiesced → exec .place s =
       .next { s with kst := { s.kst with result := Status.reachQuiescing.code, done := true } }) ∧
     (good = true → (s.reach r).st = .serving → Answers .place s fun t =>
       t.kst.result = 0 ∧ t.kst.done = true ∧ t.slots = s.slots ∧
       (∃ q ∈ t.cfl.pendingReq, q.cls = 0x0A ∧ q.dest = s.kst.peerDev ∧ q.slot = s.kst.peerSlot) ∧
       (∀ p, s.routeTo s.kst.peerDev = some p → ∃ body, .frame p 0x0A s.kst.peerDev body ∈ t.tx) ∧
       Keeps [.kst, .cfl, .tx] s t))
end

