-- ==== Sys2Proof/Laws/Keeps.lean ====
section
/-! SUPPORT. Frames: how they compose, and what each shared operation can touch. -/

namespace Sys2Proof.Machine

open Sys2Proof

theorem Keeps.refl (ps : List Part) (s : State) : Keeps ps s s := fun p _ => by cases p <;> rfl

theorem Part.same_trans {p : Part} {s t u : State} (h : p.same s t) (k : p.same t u) : p.same s u := by
  cases p <;> exact k.trans h

theorem Keeps.trans {ps : List Part} {s t u : State} (h : Keeps ps s t) (k : Keeps ps t u) : Keeps ps s u :=
  fun p hp => Part.same_trans (h p hp) (k p hp)

theorem Keeps.mono {ps qs : List Part} {s t : State} (h : Keeps ps s t) (hs : ∀ p, p ∈ ps → p ∈ qs) : Keeps qs s t :=
  fun p hp => h p fun hq => hp (hs p hq)

theorem Keeps.foldl {α : Type} {ps : List Part} {f : State → α → State} (h : ∀ s x, Keeps ps s (f s x)) :
    ∀ (xs : List α) (s : State), Keeps ps s (xs.foldl f s)
  | [], s => Keeps.refl ps s
  | x :: xs, s => (h s x).trans (Keeps.foldl h xs (f s x))

end Sys2Proof.Machine
end

