-- ==== Sys2Proof/Laws/Updates.lean ====
section
/-! SUPPORT. Frames of record updates: one lemma for each set of fields that the model updates together. -/

namespace Sys2Proof.Machine

open Sys2Proof

theorem Keeps.via {ps qs : List Part} {s x y : State} (h : Keeps qs x y) (hs : ∀ p ∈ qs, p ∈ ps) (k : Keeps ps s x) :
    Keeps ps s y := k.trans (h.mono hs)

theorem Keeps.foldlVia {α : Type} {ps : List Part} {s x : State} {f : State → α → State} {xs : List α}
    (h : ∀ s a, Keeps ps s (f s a)) (k : Keeps ps s x) : Keeps ps s (xs.foldl f x) := k.trans (Keeps.foldl h xs x)

theorem Keeps.ite {c : Prop} [Decidable c] {ps : List Part} {s a b : State} (ha : Keeps ps s a) (hb : Keeps ps s b) :
    Keeps ps s (if c then a else b) := by split <;> assumption

theorem Keeps.snd {α : Type} {ps : List Part} {s b : State} {a : α} (h : Keeps ps s b) : Keeps ps s (a, b).2 := h

theorem Keeps.iteSnd {α : Type} {c : Prop} [Decidable c] {ps : List Part} {s : State} {x y : α × State}
    (hx : Keeps ps s x.2) (hy : Keeps ps s y.2) : Keeps ps s (if c then x else y).2 := by split <;> assumption

theorem Keeps.ofPair {α : Type} {qs : List Part} {s t : State} {x : α × State} {a : α} (h : x = (a, t))
    (k : Keeps qs s x.2) : Keeps qs s t := by subst h; exact k

theorem Keeps.getDSome {ps : List Part} {s d t : State} (h : Keeps ps s t) : Keeps ps s ((some t).getD d) := h

theorem Keeps.getDNone {ps : List Part} {s : State} : Keeps ps s ((none : Option State).getD s) := Keeps.refl ps s

theorem Keeps.iteGetD {c : Prop} [Decidable c] {ps : List Part} {s d : State} {x y : Option State}
    (hx : Keeps ps s (x.getD d)) (hy : Keeps ps s (y.getD d)) : Keeps ps s ((if c then x else y).getD d) := by
  split <;> assumption

theorem Keeps.getDMap {α : Type} {ps : List Part} {s : State} {o : Option α} {f : α → State}
    (h : ∀ a, Keeps ps s (f a)) : Keeps ps s ((o.map f).getD s) := by
  cases o with
  | none => exact Keeps.refl ps s
  | some a => exact h a

theorem Keeps.getDBind {α : Type} {ps : List Part} {s : State} {o : Option α} {f : α → Option State}
    (h : ∀ a, Keeps ps s ((f a).getD s)) : Keeps ps s ((o.bind f).getD s) := by
  cases o with
  | none => exact Keeps.refl ps s
  | some a => exact h a

theorem Keeps.ofOpt {qs : List Part} {s d t : State} {x : Option State} (h : x = some t)
    (k : Keeps qs s (x.getD d)) : Keeps qs s t := by subst h; exact k

theorem Keeps.ofSome {qs : List Part} {s t : State} {x : Option State} (h : x = some t)
    (k : Keeps qs s (x.getD s)) : Keeps qs s t := by subst h; exact k

theorem Keeps.viaGetD {ps qs : List Part} {s y : State} {o : Option State} (h : Keeps qs y (o.getD y))
    (hs : ∀ p ∈ qs, p ∈ ps) (k : Keeps ps s y) : Keeps ps s (o.getD s) := by
  cases o with
  | none => exact Keeps.refl ps s
  | some a => exact k.trans (h.mono hs)

/-- Every part but the queue of commands. -/
def deviceParts : List Part :=
  [.now, .wsh, .cfg, .glb, .fns, .reaches, .queues, .jobs, .runs, .weir, .kst, .slots, .records, .spr, .tiles, .chainEpoch,
   .cores, .parts, .spans, .sel, .stores, .cprof, .meas, .measCnt, .hbm, .cfl, .evt, .snp, .fuse, .lcs, .lev, .rst, .sluice,
   .ao, .ledger, .fwu, .pwr, .pins, .mgmt, .tx]

/-- The state that an outcome leaves: its next state, or the state before where the machine stopped. -/
def stateAfter (o : Host.Outcome State Fault Refusal) (s : State) : State :=
  match o with
  | .next t => t
  | _ => s

theorem stateAfter_next {o : Host.Outcome State Fault Refusal} {s t : State} (h : o = .next t) : stateAfter o s = t := by
  subst h; rfl

theorem Keeps.ofNext {ps : List Part} {o : Host.Outcome State Fault Refusal} {s t : State} (h : o = .next t)
    (k : Keeps ps s (stateAfter o s)) : Keeps ps s t := by subst h; exact k

theorem Keeps.next {ps : List Part} {s t : State} (h : Keeps ps s t) : Keeps ps s (stateAfter (.next t) s) := h

theorem Keeps.hostCmd {ps : List Part} {s t : State} (h : Keeps ps s t) : Keeps ps s (stateAfter (hostCmd s t) s) := by
  unfold Machine.hostCmd
  exact Keeps.next (Keeps.ite h (Keeps.refl ps s))

theorem Keeps.engineCmd {ps : List Part} {s t : State} (h : Keeps ps s t) :
    Keeps ps s (stateAfter (engineCmd s t) s) := by
  unfold Machine.engineCmd
  exact Keeps.next (Keeps.ite h (Keeps.refl ps s))

theorem Keeps.mgmtCmd {ps : List Part} {s t : State} (h : Keeps ps s t) : Keeps ps s (stateAfter (mgmtCmd s t) s) := by
  unfold Machine.mgmtCmd
  exact Keeps.next (Keeps.ite h (Keeps.refl ps s))

theorem Keeps.iteAfter {c : Prop} [Decidable c] {ps : List Part} {s : State} {x y : Host.Outcome State Fault Refusal}
    (hx : Keeps ps s (stateAfter x s)) (hy : Keeps ps s (stateAfter y s)) :
    Keeps ps s (stateAfter (if c then x else y) s) := by split <;> assumption

theorem Keeps.set_sluice (s : State) (v : Bool) : Keeps [.sluice] s
    { s with rst := { s.rst with sluiceStopped := v } } := by
  intro p hp; cases p <;> first | rfl | exact absurd (by decide) hp

theorem Keeps.set_now (s : State) v_now : Keeps [.now] s { s with now := v_now } := by
  intro p hp; cases p <;> first | rfl | exact absurd (by decide) hp

theorem Keeps.set_wsh (s : State) v_wsh : Keeps [.wsh] s { s with wsh := v_wsh } := by
  intro p hp; cases p <;> first | rfl | exact absurd (by decide) hp

theorem Keeps.set_cfg (s : State) v_cfg : Keeps [.cfg] s { s with cfg := v_cfg } := by
  intro p hp; cases p <;> first | rfl | exact absurd (by decide) hp

theorem Keeps.set_glb (s : State) v_glb : Keeps [.glb] s { s with glb := v_glb } := by
  intro p hp; cases p <;> first | rfl | exact absurd (by decide) hp

theorem Keeps.set_fns (s : State) v_fns : Keeps [.fns] s { s with fns := v_fns } := by
  intro p hp; cases p <;> first | rfl | exact absurd (by decide) hp

theorem Keeps.set_reaches (s : State) v_reaches : Keeps [.reaches] s { s with reaches := v_reaches } := by
  intro p hp; cases p <;> first | rfl | exact absurd (by decide) hp

theorem Keeps.set_queues (s : State) v_queues : Keeps [.queues] s { s with queues := v_queues } := by
  intro p hp; cases p <;> first | rfl | exact absurd (by decide) hp

theorem Keeps.set_jobs (s : State) v_jobs : Keeps [.jobs] s { s with jobs := v_jobs } := by
  intro p hp; cases p <;> first | rfl | exact absurd (by decide) hp

theorem Keeps.set_runs (s : State) v_runs : Keeps [.runs] s { s with runs := v_runs } := by
  intro p hp; cases p <;> first | rfl | exact absurd (by decide) hp

theorem Keeps.set_weir (s : State) v_weir : Keeps [.weir] s { s with weir := v_weir } := by
  intro p hp; cases p <;> first | rfl | exact absurd (by decide) hp

theorem Keeps.set_kst (s : State) v_kst : Keeps [.kst] s { s with kst := v_kst } := by
  intro p hp; cases p <;> first | rfl | exact absurd (by decide) hp

theorem Keeps.set_slots (s : State) v_slots : Keeps [.slots] s { s with slots := v_slots } := by
  intro p hp; cases p <;> first | rfl | exact absurd (by decide) hp

theorem Keeps.set_records (s : State) v_records : Keeps [.records] s { s with records := v_records } := by
  intro p hp; cases p <;> first | rfl | exact absurd (by decide) hp

theorem Keeps.set_spr (s : State) v_spr : Keeps [.spr] s { s with spr := v_spr } := by
  intro p hp; cases p <;> first | rfl | exact absurd (by decide) hp

theorem Keeps.set_tiles (s : State) v_tiles : Keeps [.tiles] s { s with tiles := v_tiles } := by
  intro p hp; cases p <;> first | rfl | exact absurd (by decide) hp

theorem Keeps.set_chainEpoch (s : State) v_chainEpoch : Keeps [.chainEpoch] s
    { s with chainEpoch := v_chainEpoch } := by
  intro p hp; cases p <;> first | rfl | exact absurd (by decide) hp

theorem Keeps.set_cores (s : State) v_cores : Keeps [.cores] s { s with cores := v_cores } := by
  intro p hp; cases p <;> first | rfl | exact absurd (by decide) hp

theorem Keeps.set_parts (s : State) v_parts : Keeps [.parts] s { s with parts := v_parts } := by
  intro p hp; cases p <;> first | rfl | exact absurd (by decide) hp

theorem Keeps.set_spans (s : State) v_spans : Keeps [.spans] s { s with spans := v_spans } := by
  intro p hp; cases p <;> first | rfl | exact absurd (by decide) hp

theorem Keeps.set_sel (s : State) v_sel : Keeps [.sel] s { s with sel := v_sel } := by
  intro p hp; cases p <;> first | rfl | exact absurd (by decide) hp

theorem Keeps.set_stores (s : State) v_stores : Keeps [.stores] s { s with stores := v_stores } := by
  intro p hp; cases p <;> first | rfl | exact absurd (by decide) hp

theorem Keeps.set_cprof (s : State) v_cprof : Keeps [.cprof] s { s with cprof := v_cprof } := by
  intro p hp; cases p <;> first | rfl | exact absurd (by decide) hp

theorem Keeps.set_meas (s : State) v_meas : Keeps [.meas] s { s with meas := v_meas } := by
  intro p hp; cases p <;> first | rfl | exact absurd (by decide) hp

theorem Keeps.set_measCnt (s : State) v_measCnt : Keeps [.measCnt] s { s with measCnt := v_measCnt } := by
  intro p hp; cases p <;> first | rfl | exact absurd (by decide) hp

theorem Keeps.set_hbm (s : State) v_hbm : Keeps [.hbm] s { s with hbm := v_hbm } := by
  intro p hp; cases p <;> first | rfl | exact absurd (by decide) hp

theorem Keeps.set_cfl (s : State) v_cfl : Keeps [.cfl] s { s with cfl := v_cfl } := by
  intro p hp; cases p <;> first | rfl | exact absurd (by decide) hp

theorem Keeps.set_evt (s : State) v_evt : Keeps [.evt] s { s with evt := v_evt } := by
  intro p hp; cases p <;> first | rfl | exact absurd (by decide) hp

theorem Keeps.set_snp (s : State) v_snp : Keeps [.snp] s { s with snp := v_snp } := by
  intro p hp; cases p <;> first | rfl | exact absurd (by decide) hp

theorem Keeps.set_fuse (s : State) v_fuse : Keeps [.fuse] s { s with fuse := v_fuse } := by
  intro p hp; cases p <;> first | rfl | exact absurd (by decide) hp

theorem Keeps.set_lcs (s : State) v_lcs : Keeps [.lcs] s { s with lcs := v_lcs } := by
  intro p hp; cases p <;> first | rfl | exact absurd (by decide) hp

theorem Keeps.set_lev (s : State) v_lev : Keeps [.lev] s { s with lev := v_lev } := by
  intro p hp; cases p <;> first | rfl | exact absurd (by decide) hp

theorem Keeps.set_rst (s : State) v_rst : Keeps [.rst, .sluice] s { s with rst := v_rst } := by
  intro p hp; cases p <;> first | rfl | exact absurd (by decide) hp

theorem Keeps.set_ao (s : State) v_ao : Keeps [.ao] s { s with ao := v_ao } := by
  intro p hp; cases p <;> first | rfl | exact absurd (by decide) hp

theorem Keeps.set_ledger (s : State) v_ledger : Keeps [.ledger] s { s with ledger := v_ledger } := by
  intro p hp; cases p <;> first | rfl | exact absurd (by decide) hp

theorem Keeps.set_fwu (s : State) v_fwu : Keeps [.fwu] s { s with fwu := v_fwu } := by
  intro p hp; cases p <;> first | rfl | exact absurd (by decide) hp

theorem Keeps.set_pwr (s : State) v_pwr : Keeps [.pwr] s { s with pwr := v_pwr } := by
  intro p hp; cases p <;> first | rfl | exact absurd (by decide) hp

theorem Keeps.set_pins (s : State) v_pins : Keeps [.pins] s { s with pins := v_pins } := by
  intro p hp; cases p <;> first | rfl | exact absurd (by decide) hp

theorem Keeps.set_mgmt (s : State) v_mgmt : Keeps [.mgmt] s { s with mgmt := v_mgmt } := by
  intro p hp; cases p <;> first | rfl | exact absurd (by decide) hp

theorem Keeps.set_tx (s : State) v_tx : Keeps [.tx] s { s with tx := v_tx } := by
  intro p hp; cases p <;> first | rfl | exact absurd (by decide) hp

theorem Keeps.set_pending (s : State) v_pending : Keeps [.pending] s { s with pending := v_pending } := by
  intro p hp; cases p <;> first | rfl | exact absurd (by decide) hp

theorem Keeps.setR_rst (s : State) v_rst (h : v_rst.sluiceStopped = s.rst.sluiceStopped) : Keeps [.rst] s
    { s with rst := v_rst } := by
  intro p hp; cases p <;> first | rfl | exact h | exact absurd (by decide) hp

theorem Keeps.setR_rst_ao_ledger (s : State) v_rst v_ao v_ledger (h : v_rst.sluiceStopped = s.rst.sluiceStopped) : Keeps [.rst, .ao, .ledger] s
    { s with rst := v_rst, ao := v_ao, ledger := v_ledger } := by
  intro p hp; cases p <;> first | rfl | exact h | exact absurd (by decide) hp

theorem Keeps.set_lev_ao (s : State) v_lev v_ao : Keeps [.lev, .ao] s { s with lev := v_lev, ao := v_ao } := by
  intro p hp; cases p <;> first | rfl | exact absurd (by decide) hp

theorem Keeps.set_reaches_kst (s : State) v_reaches v_kst : Keeps [.reaches, .kst] s
    { s with reaches := v_reaches, kst := v_kst } := by
  intro p hp; cases p <;> first | rfl | exact absurd (by decide) hp

theorem Keeps.set_weir_cfl (s : State) v_weir v_cfl : Keeps [.weir, .cfl] s
    { s with weir := v_weir, cfl := v_cfl } := by
  intro p hp; cases p <;> first | rfl | exact absurd (by decide) hp

theorem Keeps.set_now_weir (s : State) v_now v_weir : Keeps [.now, .weir] s
    { s with now := v_now, weir := v_weir } := by
  intro p hp; cases p <;> first | rfl | exact absurd (by decide) hp

theorem Keeps.set_jobs_weir (s : State) v_jobs v_weir : Keeps [.jobs, .weir] s
    { s with jobs := v_jobs, weir := v_weir } := by
  intro p hp; cases p <;> first | rfl | exact absurd (by decide) hp

theorem Keeps.set_meas_measCnt (s : State) v_meas v_measCnt : Keeps [.meas, .measCnt] s
    { s with meas := v_meas, measCnt := v_measCnt } := by
  intro p hp; cases p <;> first | rfl | exact absurd (by decide) hp

theorem Keeps.set_queues_spr (s : State) v_queues v_spr : Keeps [.queues, .spr] s
    { s with queues := v_queues, spr := v_spr } := by
  intro p hp; cases p <;> first | rfl | exact absurd (by decide) hp

theorem Keeps.set_wsh_ledger (s : State) v_wsh v_ledger : Keeps [.wsh, .ledger] s
    { s with wsh := v_wsh, ledger := v_ledger } := by
  intro p hp; cases p <;> first | rfl | exact absurd (by decide) hp

theorem Keeps.setR_kst_rst (s : State) v_kst v_rst (h : v_rst.sluiceStopped = s.rst.sluiceStopped) : Keeps [.kst, .rst] s
    { s with kst := v_kst, rst := v_rst } := by
  intro p hp; cases p <;> first | rfl | exact h | exact absurd (by decide) hp

theorem Keeps.set_wsh_cfg (s : State) v_wsh v_cfg : Keeps [.wsh, .cfg] s { s with wsh := v_wsh, cfg := v_cfg } := by
  intro p hp; cases p <;> first | rfl | exact absurd (by decide) hp

theorem Keeps.setR_lcs_rst_ledger (s : State) v_lcs v_rst v_ledger (h : v_rst.sluiceStopped = s.rst.sluiceStopped) : Keeps [.lcs, .rst, .ledger] s
    { s with lcs := v_lcs, rst := v_rst, ledger := v_ledger } := by
  intro p hp; cases p <;> first | rfl | exact h | exact absurd (by decide) hp

theorem Keeps.setR_lcs_rst (s : State) v_lcs v_rst (h : v_rst.sluiceStopped = s.rst.sluiceStopped) : Keeps [.lcs, .rst] s
    { s with lcs := v_lcs, rst := v_rst } := by
  intro p hp; cases p <;> first | rfl | exact h | exact absurd (by decide) hp

theorem Keeps.set_lcs_ledger (s : State) v_lcs v_ledger : Keeps [.lcs, .ledger] s
    { s with lcs := v_lcs, ledger := v_ledger } := by
  intro p hp; cases p <;> first | rfl | exact absurd (by decide) hp

theorem Keeps.setR_fuse_lcs_rst (s : State) v_fuse v_lcs v_rst (h : v_rst.sluiceStopped = s.rst.sluiceStopped) : Keeps [.fuse, .lcs, .rst] s
    { s with fuse := v_fuse, lcs := v_lcs, rst := v_rst } := by
  intro p hp; cases p <;> first | rfl | exact h | exact absurd (by decide) hp

theorem Keeps.set_jobs_tiles_cores (s : State) v_jobs v_tiles v_cores : Keeps [.jobs, .tiles, .cores] s
    { s with jobs := v_jobs, tiles := v_tiles, cores := v_cores } := by
  intro p hp; cases p <;> first | rfl | exact absurd (by decide) hp

theorem Keeps.set_pwr_tx (s : State) v_pwr v_tx : Keeps [.pwr, .tx] s { s with pwr := v_pwr, tx := v_tx } := by
  intro p hp; cases p <;> first | rfl | exact absurd (by decide) hp

theorem Keeps.set_pwr_pins (s : State) v_pwr v_pins : Keeps [.pwr, .pins] s
    { s with pwr := v_pwr, pins := v_pins } := by
  intro p hp; cases p <;> first | rfl | exact absurd (by decide) hp

theorem Keeps.set_runs_tx (s : State) v_runs v_tx : Keeps [.runs, .tx] s { s with runs := v_runs, tx := v_tx } := by
  intro p hp; cases p <;> first | rfl | exact absurd (by decide) hp

theorem Keeps.set_cfg_glb (s : State) v_cfg v_glb : Keeps [.cfg, .glb] s { s with cfg := v_cfg, glb := v_glb } := by
  intro p hp; cases p <;> first | rfl | exact absurd (by decide) hp

theorem Keeps.set_ledger_fwu (s : State) v_ledger v_fwu : Keeps [.ledger, .fwu] s
    { s with ledger := v_ledger, fwu := v_fwu } := by
  intro p hp; cases p <;> first | rfl | exact absurd (by decide) hp

theorem Keeps.set_spr_lev (s : State) v_spr v_lev : Keeps [.spr, .lev] s { s with spr := v_spr, lev := v_lev } := by
  intro p hp; cases p <;> first | rfl | exact absurd (by decide) hp

theorem Keeps.set_ao_pwr_pins (s : State) v_ao v_pwr v_pins : Keeps [.ao, .pwr, .pins] s
    { s with ao := v_ao, pwr := v_pwr, pins := v_pins } := by
  intro p hp; cases p <;> first | rfl | exact absurd (by decide) hp

theorem Keeps.setR_rst_ao_pins (s : State) v_rst v_ao v_pins (h : v_rst.sluiceStopped = s.rst.sluiceStopped) : Keeps [.rst, .ao, .pins] s
    { s with rst := v_rst, ao := v_ao, pins := v_pins } := by
  intro p hp; cases p <;> first | rfl | exact h | exact absurd (by decide) hp

theorem Keeps.setR_spr_rst (s : State) v_spr v_rst (h : v_rst.sluiceStopped = s.rst.sluiceStopped) : Keeps [.spr, .rst] s
    { s with spr := v_spr, rst := v_rst } := by
  intro p hp; cases p <;> first | rfl | exact h | exact absurd (by decide) hp

theorem Keeps.setR_rst_ledger (s : State) v_rst v_ledger (h : v_rst.sluiceStopped = s.rst.sluiceStopped) : Keeps [.rst, .ledger] s
    { s with rst := v_rst, ledger := v_ledger } := by
  intro p hp; cases p <;> first | rfl | exact h | exact absurd (by decide) hp

theorem Keeps.set_kst_hbm (s : State) v_kst v_hbm : Keeps [.kst, .hbm] s { s with kst := v_kst, hbm := v_hbm } := by
  intro p hp; cases p <;> first | rfl | exact absurd (by decide) hp

theorem Keeps.setR_rst_ao (s : State) v_rst v_ao (h : v_rst.sluiceStopped = s.rst.sluiceStopped) : Keeps [.rst, .ao] s
    { s with rst := v_rst, ao := v_ao } := by
  intro p hp; cases p <;> first | rfl | exact h | exact absurd (by decide) hp

theorem Keeps.setR_now_rst_ao (s : State) v_now v_rst v_ao (h : v_rst.sluiceStopped = s.rst.sluiceStopped) : Keeps [.now, .rst, .ao] s
    { s with now := v_now, rst := v_rst, ao := v_ao } := by
  intro p hp; cases p <;> first | rfl | exact h | exact absurd (by decide) hp

theorem Keeps.setR_spr_hbm_cfl_snp_lev_rst (s : State) v_spr v_hbm v_cfl v_snp v_lev v_rst (h : v_rst.sluiceStopped = s.rst.sluiceStopped) : Keeps [.spr, .hbm, .cfl, .snp, .lev, .rst] s
    { s with spr := v_spr, hbm := v_hbm, cfl := v_cfl, snp := v_snp, lev := v_lev, rst := v_rst } := by
  intro p hp; cases p <;> first | rfl | exact h | exact absurd (by decide) hp

theorem Keeps.set_jobs_spans (s : State) v_jobs v_spans : Keeps [.jobs, .spans] s { s with jobs := v_jobs, spans := v_spans } := by
  intro p hp; cases p <;> first | rfl | exact absurd (by decide) hp

theorem Keeps.setR_tiles_rst (s : State) v_tiles v_rst (h : v_rst.sluiceStopped = s.rst.sluiceStopped) : Keeps [.tiles, .rst] s
    { s with tiles := v_tiles, rst := v_rst } := by
  intro p hp; cases p <;> first | rfl | exact h | exact absurd (by decide) hp

theorem Keeps.runAction {ps : List Part} {s : State} {rank : Nat} {f : List AlarmSet → State → State}
    (hl : Part.lev ∈ ps) (h : ∀ sets s, Keeps ps s (f sets s)) : Keeps ps s (stateAfter (runAction s rank f) s) := by
  unfold Machine.runAction
  refine Keeps.next (Keeps.ite ?_ (Keeps.refl ps s))
  unfold State.levAction
  split
  · exact Keeps.ite (Keeps.trans ((Keeps.set_lev _ _).mono (by simpa using hl)) (h _ _)) (Keeps.refl ps s)
  · exact Keeps.refl ps s

end Sys2Proof.Machine
end

