-- ==== Sys2Proof/Laws/FrameOps.lean ====
section
/-! SUPPORT. What each operation of Machine/Ops.lean can touch. -/

namespace Sys2Proof.Machine

open Sys2Proof

theorem State.setFn_keeps (s : State) (n : Nat) (f : FnState) : Keeps [.fns] s (State.setFn s n f) := by
  unfold State.setFn
  exact Keeps.mono (Keeps.set_fns _ _) (by decide)

theorem State.setReach_keeps (s : State) (n : Nat) (r : ReachState) : Keeps [.reaches] s (State.setReach s n r) :=
    by
  unfold State.setReach
  exact Keeps.mono (Keeps.set_reaches _ _) (by decide)

theorem State.setQueue_keeps (s : State) (k : Nat) (q : Queue) : Keeps [.queues] s (State.setQueue s k q) := by
  unfold State.setQueue
  exact Keeps.mono (Keeps.set_queues _ _) (by decide)

theorem State.setSlot_keeps (s : State) (n : Nat) (x : Slot) : Keeps [.slots] s (State.setSlot s n x) := by
  unfold State.setSlot
  exact Keeps.mono (Keeps.set_slots _ _) (by decide)

theorem State.setTile_keeps (s : State) (k : Nat) (t : Tile) : Keeps [.tiles] s (State.setTile s k t) := by
  unfold State.setTile
  exact Keeps.mono (Keeps.set_tiles _ _) (by decide)

theorem State.setCore_keeps (s : State) (i : Nat) (c : Core) : Keeps [.cores] s (State.setCore s i c) := by
  unfold State.setCore
  exact Keeps.mono (Keeps.set_cores _ _) (by decide)

theorem State.setPort_keeps (s : State) (p : Nat) (x : Port) : Keeps [.cfl] s (State.setPort s p x) := by
  unfold State.setPort
  dsimp -proj only
  exact Keeps.mono (Keeps.set_cfl _ _) (by decide)

theorem State.setSource_keeps (s : State) (n : Nat) (e : EvtSrc) : Keeps [.evt] s (State.setSource s n e) := by
  unfold State.setSource
  dsimp -proj only
  exact Keeps.mono (Keeps.set_evt _ _) (by decide)

theorem State.setDrbg_keeps (s : State) (i : Nat) (d : Drbg) : Keeps [.spr] s (State.setDrbg s i d) := by
  unfold State.setDrbg
  dsimp -proj only
  exact Keeps.mono (Keeps.set_spr _ _) (by decide)

theorem State.setBasin_keeps (s : State) (b : Nat) (x : BasinSt) : Keeps [.rst] s (State.setBasin s b x) := by
  unfold State.setBasin
  dsimp -proj only
  exact Keeps.mono (Keeps.setR_rst _ _ rfl) (by decide)

theorem State.setJob_keeps (s : State) (j : Job) : Keeps [.jobs] s (State.setJob s j) := by
  unfold State.setJob
  exact Keeps.mono (Keeps.set_jobs _ _) (by decide)

theorem State.sent_keeps (s : State) (o : Out) : Keeps [.tx] s (State.sent s o) := by
  unfold State.sent
  exact Keeps.mono (Keeps.set_tx _ _) (by decide)

theorem State.stampCommit_keeps (s : State) : Keeps [.wsh] s (State.stampCommit s) := by
  unfold State.stampCommit
  dsimp -proj only
  exact Keeps.mono (Keeps.set_wsh _ _) (by decide)

theorem State.blockVector_keeps (s : State) (fn v : Nat) : Keeps [.fns] s (State.blockVector s fn v) := by
  unfold State.blockVector
  dsimp -proj only
  exact Keeps.mono (State.setFn_keeps _ _ _) (by decide)

theorem State.directMsg_keeps (s : State) (fn v : Nat) : Keeps [.fns, .tx] s (State.directMsg s fn v) := by
  unfold State.directMsg
  dsimp -proj only
  refine Keeps.ite ?_ ?_
  · exact Keeps.mono (State.sent_keeps _ _) (by decide)
  · refine Keeps.via (State.setFn_keeps _ _ _) (by decide) ?_
    exact Keeps.mono (State.blockVector_keeps _ _ _) (by decide)

theorem State.sendEvent_keeps (s : State) (src : Nat) : Keeps [.fns, .evt, .tx] s (State.sendEvent s src) := by
  unfold State.sendEvent
  dsimp -proj only
  refine Keeps.ite ?_ ?_
  · refine Keeps.via (State.setSource_keeps _ _ _) (by decide) ?_
    exact Keeps.mono (State.sent_keeps _ _) (by decide)
  · exact Keeps.mono (State.blockVector_keeps _ _ _) (by decide)

theorem State.raise0_keeps (s : State) (src cause : Nat) : Keeps [.fns, .evt, .tx] s (State.raise0 s src cause) :=
    by
  unfold State.raise0
  dsimp -proj only
  refine Keeps.ite ?_ ?_
  · exact Keeps.refl _ _
  · refine Keeps.ite ?_ ?_
    · refine Keeps.via (State.sendEvent_keeps _ _) (by decide) ?_
      exact Keeps.mono (State.setSource_keeps _ _ _) (by decide)
    · exact Keeps.mono (State.setSource_keeps _ _ _) (by decide)

theorem State.sendFrame_keeps (s : State) (p cls dest : Nat) (body : Bytes) : Keeps [.cfl, .tx] s (State.sendFrame s
    p cls dest body) := by
  unfold State.sendFrame
  dsimp -proj only
  refine Keeps.via (State.setPort_keeps _ _ _) (by decide) ?_
  exact Keeps.mono (State.sent_keeps _ _) (by decide)

theorem State.countTx_keeps (s : State) : Keeps [.cfl] s (State.countTx s) := by
  unfold State.countTx
  dsimp -proj only
  exact Keeps.mono (Keeps.set_cfl _ _) (by decide)

theorem State.flood_keeps (s : State) (cls : Nat) (payload : Bytes) : Keeps [.cfl, .tx] s (State.flood s cls
    payload) := by
  unfold State.flood
  dsimp -proj only
  refine Keeps.via (Keeps.set_cfl _ _) (by decide) ?_
  refine Keeps.via (State.countTx_keeps _) (by decide) ?_
  refine Keeps.foldlVia (fun s a => ?_) ?_
  · exact Keeps.mono (State.sendFrame_keeps _ _ _ _ _) (by decide)
  · exact Keeps.refl _ _

theorem State.takeCapture_keeps (s : State) (t : Trigger) : Keeps [.fns, .evt, .snp, .tx] s (State.takeCapture s t)
    := by
  unfold State.takeCapture
  dsimp -proj only
  refine Keeps.ite ?_ ?_
  · refine Keeps.via (Keeps.set_snp _ _) (by decide) ?_
    refine Keeps.via (State.raise0_keeps _ _ _) (by decide) ?_
    exact Keeps.mono (Keeps.set_snp _ _) (by decide)
  · refine Keeps.via (State.raise0_keeps _ _ _) (by decide) ?_
    exact Keeps.mono (Keeps.set_snp _ _) (by decide)

theorem State.requestCapture_keeps (s : State) (t : Trigger) : Keeps [.fns, .cfl, .evt, .snp, .pins, .tx] s
    (State.requestCapture s t) := by
  unfold State.requestCapture
  dsimp -proj only
  refine Keeps.ite ?_ ?_
  · exact Keeps.refl _ _
  · refine Keeps.ite ?_ ?_
    · refine Keeps.via (Keeps.set_snp _ _) (by decide) ?_
      refine Keeps.ite ?_ ?_
      · refine Keeps.via (State.flood_keeps _ _ _) (by decide) ?_
        exact Keeps.mono (Keeps.set_pins _ _) (by decide)
      · exact Keeps.mono (Keeps.set_pins _ _) (by decide)
    · refine Keeps.ite ?_ ?_
      · refine Keeps.via (State.takeCapture_keeps _ _) (by decide) ?_
        refine Keeps.ite ?_ ?_
        · refine Keeps.via (State.flood_keeps _ _ _) (by decide) ?_
          exact Keeps.mono (Keeps.set_pins _ _) (by decide)
        · exact Keeps.mono (Keeps.set_pins _ _) (by decide)
      · refine Keeps.ite ?_ ?_
        · refine Keeps.via (State.flood_keeps _ _ _) (by decide) ?_
          exact Keeps.mono (Keeps.set_pins _ _) (by decide)
        · exact Keeps.mono (Keeps.set_pins _ _) (by decide)

theorem State.raise_keeps (s : State) (src cause : Nat) : Keeps [.fns, .cfl, .evt, .snp, .pins, .tx] s (State.raise
    s src cause) := by
  unfold State.raise
  dsimp -proj only
  refine Keeps.ite ?_ ?_
  · refine Keeps.via (State.requestCapture_keeps _ _) (by decide) ?_
    exact Keeps.mono (State.raise0_keeps _ _ _) (by decide)
  · exact Keeps.mono (State.raise0_keeps _ _ _) (by decide)

theorem State.raiseReach_keeps (s : State) (r k cause : Nat) : Keeps [.fns, .cfl, .evt, .snp, .pins, .tx] s
    (State.raiseReach s r k cause) := by
  unfold State.raiseReach
  exact Keeps.mono (State.raise_keeps _ _ _) (by decide)

theorem State.raiseBasin_keeps (s : State) (b k cause : Nat) : Keeps [.fns, .cfl, .evt, .snp, .pins, .tx] s
    (State.raiseBasin s b k cause) := by
  unfold State.raiseBasin
  exact Keeps.mono (State.raise_keeps _ _ _) (by decide)

theorem State.signalQueue_keeps (s : State) (fn q : Nat) : Keeps [.fns, .cfl, .evt, .snp, .pins, .tx] s
    (State.signalQueue s fn q) := by
  unfold State.signalQueue
  dsimp -proj only
  split
  · exact Keeps.mono (State.directMsg_keeps _ _ _) (by decide)
  · exact Keeps.mono (State.raise_keeps _ _ _) (by decide)

theorem State.stepOutcome_keeps (s : State) (n code : Nat) : Keeps [.rst, .ao, .ledger] s (State.stepOutcome s n
    code) := by
  unfold State.stepOutcome
  dsimp -proj only
  exact Keeps.mono (Keeps.setR_rst_ao_ledger _ _ _ _ rfl) (by decide)

theorem State.alertPin_keeps (s : State) : Keeps [.pins] s (State.alertPin s) := by
  unfold State.alertPin
  dsimp -proj only
  exact Keeps.mono (Keeps.set_pins _ _) (by decide)

theorem State.faultPin_keeps (s : State) : Keeps [.pins] s (State.faultPin s) := by
  unfold State.faultPin
  dsimp -proj only
  refine Keeps.via (State.alertPin_keeps _) (by decide) ?_
  exact Keeps.mono (Keeps.set_pins _ _) (by decide)

end Sys2Proof.Machine
end

