-- ==== Sys2Proof/Laws/FrameHbmLines.lean ====
section
/-! SUPPORT. What each operation of Machine/HbmLines.lean can touch. -/

namespace Sys2Proof.Machine

open Sys2Proof

theorem State.layHbm_keeps (s : State) (part : Bool) (created : List Nat) : Keeps [.hbm] s (State.layHbm s part
    created) := by
  unfold State.layHbm
  dsimp -proj only
  exact Keeps.mono (Keeps.set_hbm _ _) (by decide)

theorem State.setLine_keeps (s : State) (c l : Nat) (p : Place) (n : Nat) (bs : Bytes) : Keeps [.hbm] s
    (State.setLine s c l p n bs) := by
  unfold State.setLine
  dsimp -proj only
  split
  · exact Keeps.refl _ _
  · exact Keeps.mono (Keeps.set_hbm _ _) (by decide)

theorem State.setPlaceLine_keeps (s : State) (p : Place) (n : Nat) (bs : Bytes) : Keeps [.hbm] s (State.setPlaceLine
    s p n bs) := by
  unfold State.setPlaceLine
  exact Keeps.mono (State.setLine_keeps _ _ _ _ _ _) (by decide)

theorem State.openPage_keeps (s : State) (p : Place) (n : Nat) : Keeps [.hbm] s (State.openPage s p n) := by
  unfold State.openPage
  dsimp -proj only
  refine Keeps.ite ?_ ?_
  · exact Keeps.refl _ _
  · refine Keeps.via (Keeps.set_hbm _ _) (by decide) ?_
    refine Keeps.foldlVia (fun s a => ?_) ?_
    · exact Keeps.mono (State.setPlaceLine_keeps _ _ _ _) (by decide)
    · exact Keeps.refl _ _

theorem State.putLine_keeps (s : State) (p : Place) (n : Nat) (bs : Bytes) : Keeps [.hbm] s (State.putLine s p n bs)
    := by
  unfold State.putLine
  refine Keeps.via (State.setPlaceLine_keeps _ _ _ _) (by decide) ?_
  exact Keeps.mono (State.openPage_keeps _ _ _) (by decide)

theorem State.putBytes_keeps (s : State) (p : Place) (first : Nat) (bs : Bytes) : Keeps [.hbm] s (State.putBytes s p
    first bs) := by
  unfold State.putBytes
  refine Keeps.foldlVia (fun s a => ?_) ?_
  · exact Keeps.mono (State.putLine_keeps _ _ _ _) (by decide)
  · exact Keeps.refl _ _

theorem State.placeProgram_keeps (s : State) (g : ProgRec) : Keeps [.hbm] s (State.placeProgram s g) := by
  unfold State.placeProgram
  split
  · exact Keeps.refl _ _
  · exact Keeps.mono (State.putBytes_keeps _ _ _ _) (by decide)

theorem State.placePrograms_keeps (s : State) : Keeps [.hbm] s (State.placePrograms s) := by
  unfold State.placePrograms
  refine Keeps.foldlVia (fun s a => ?_) ?_
  · exact Keeps.mono (State.placeProgram_keeps _ _) (by decide)
  · exact Keeps.refl _ _

end Sys2Proof.Machine
end

