-- ==== Sys2Proof/Laws/FrameJobOps.lean ====
section
/-! SUPPORT. What each operation of Machine/JobOps.lean can touch. -/

namespace Sys2Proof.Machine

open Sys2Proof

theorem State.takeSpan_keeps (s : State) (bnu r job node : Nat) (n : BnuNeed) : Keeps [.spans] s ((State.takeSpan s
    bnu r job node n).getD s) := by
  unfold State.takeSpan
  dsimp -proj only
  refine Keeps.iteGetD ?_ ?_
  · refine Keeps.getDSome ?_
    exact Keeps.refl _ _
  · refine Keeps.getDMap (fun a => ?_)
    exact Keeps.mono (Keeps.set_spans _ _) (by decide)

theorem State.setStore_keeps (s : State) (e : Nat) (c : CtlStore) : Keeps [.stores] s (State.setStore s e c) := by
  unfold State.setStore
  exact Keeps.mono (Keeps.set_stores _ _) (by decide)

theorem State.countAbandon_keeps (s : State) (p : Nat × Nat → Bool) : Keeps [.stores] s (State.countAbandon s p) :=
    by
  unfold State.countAbandon
  dsimp -proj only
  refine Keeps.foldlVia (fun s a => ?_) ?_
  · split
    · exact Keeps.mono (State.setStore_keeps _ _ _) (by decide)
    · exact Keeps.refl _ _
  · exact Keeps.refl _ _

theorem State.setCredit_keeps (s : State) (b c r : Nat) (v : Int) : Keeps [.weir] s (State.setCredit s b c r v) :=
    by
  unfold State.setCredit
  dsimp -proj only
  exact Keeps.mono (Keeps.set_weir _ _) (by decide)

theorem State.chargeCredit_keeps (s : State) (k r cyc : Nat) : Keeps [.weir] s (State.chargeCredit s k r cyc) := by
  unfold State.chargeCredit
  dsimp -proj only
  split
  · exact Keeps.mono (State.setCredit_keeps _ _ _ _ _) (by decide)
  · exact Keeps.refl _ _

theorem State.endStall_keeps (s : State) (k : Nat) : Keeps [.tiles] s (State.endStall s k) := by
  unfold State.endStall
  dsimp -proj only
  exact Keeps.mono (State.setTile_keeps _ _ _) (by decide)

theorem State.overlayOn_keeps (s : State) (p : Nat → Bool) : Keeps [.cores] s (State.overlayOn s p) := by
  unfold State.overlayOn
  dsimp -proj only
  refine Keeps.foldlVia (fun s a => ?_) ?_
  · exact Keeps.mono (State.setCore_keeps _ _ _) (by decide)
  · exact Keeps.refl _ _

theorem State.recover_keeps (s : State) (i : Nat) : Keeps [.fns, .tiles, .cores, .cfl, .evt, .snp, .pins, .tx] s
    (State.recover s i) := by
  unfold State.recover
  dsimp -proj only
  refine Keeps.via (State.raiseBasin_keeps _ _ _ _) (by decide) ?_
  refine Keeps.via (State.setTile_keeps _ _ _) (by decide) ?_
  exact Keeps.mono (State.setCore_keeps _ _ _) (by decide)

theorem State.leaveTile_keeps (s : State) (k : Nat) : Keeps [.fns, .weir, .tiles, .cores, .cfl, .evt, .snp, .pins,
    .tx] s (State.leaveTile s k) := by
  unfold State.leaveTile
  dsimp -proj only
  refine Keeps.ite ?_ ?_
  · refine Keeps.via (State.recover_keeps _ _) (by decide) ?_
    refine Keeps.via (State.setTile_keeps _ _ _) (by decide) ?_
    refine Keeps.ite ?_ ?_
    · refine Keeps.via (State.setCore_keeps _ _ _) (by decide) ?_
      refine Keeps.via (State.endStall_keeps _ _) (by decide) ?_
      refine Keeps.ite ?_ ?_
      · exact Keeps.refl _ _
      · exact Keeps.mono (State.chargeCredit_keeps _ _ _ _) (by decide)
    · refine Keeps.via (State.endStall_keeps _ _) (by decide) ?_
      refine Keeps.ite ?_ ?_
      · exact Keeps.refl _ _
      · exact Keeps.mono (State.chargeCredit_keeps _ _ _ _) (by decide)
  · refine Keeps.via (State.setTile_keeps _ _ _) (by decide) ?_
    refine Keeps.ite ?_ ?_
    · refine Keeps.via (State.setCore_keeps _ _ _) (by decide) ?_
      refine Keeps.via (State.endStall_keeps _ _) (by decide) ?_
      refine Keeps.ite ?_ ?_
      · exact Keeps.refl _ _
      · exact Keeps.mono (State.chargeCredit_keeps _ _ _ _) (by decide)
    · refine Keeps.via (State.endStall_keeps _ _) (by decide) ?_
      refine Keeps.ite ?_ ?_
      · exact Keeps.refl _ _
      · exact Keeps.mono (State.chargeCredit_keeps _ _ _ _) (by decide)

theorem State.freeTiles_keeps (s : State) (id : Nat) (all : Bool) : Keeps [.fns, .weir, .tiles, .cores, .spans,
    .cfl, .evt, .snp, .pins, .tx] s (State.freeTiles s id all) := by
  unfold State.freeTiles
  dsimp -proj only
  refine Keeps.via (Keeps.set_spans _ _) (by decide) ?_
  refine Keeps.foldlVia (fun s a => ?_) ?_
  · exact Keeps.mono (State.leaveTile_keeps _ _) (by decide)
  · exact Keeps.refl _ _

theorem State.leaveTiles_keeps (s : State) (id i : Nat) : Keeps [.fns, .weir, .tiles, .cores, .cfl, .evt, .snp,
    .pins, .tx] s (State.leaveTiles s id i) := by
  unfold State.leaveTiles
  refine Keeps.foldlVia (fun s a => ?_) ?_
  · exact Keeps.mono (State.leaveTile_keeps _ _) (by decide)
  · exact Keeps.refl _ _

theorem State.abandon_keeps (s : State) (id i : Nat) : Keeps [.fns, .weir, .tiles, .cores, .cfl, .evt, .snp, .pins,
    .tx] s (State.abandon s id i) := by
  unfold State.abandon
  dsimp -proj only
  refine Keeps.via (Keeps.set_tiles _ _) (by decide) ?_
  exact Keeps.mono (State.leaveTiles_keeps _ _ _) (by decide)

theorem State.sweepJobs_keeps (s : State) : Keeps [.jobs] s (State.sweepJobs s) := by
  unfold State.sweepJobs
  exact Keeps.mono (Keeps.set_jobs _ _) (by decide)

theorem State.settleCovered_keeps (s : State) (p : Job → Bool) : Keeps [.fns, .jobs, .weir, .tiles, .cores, .spans,
    .cfl, .evt, .snp, .pins, .tx] s (State.settleCovered s p) := by
  unfold State.settleCovered
  dsimp -proj only
  refine Keeps.via (State.sweepJobs_keeps _) (by decide) ?_
  refine Keeps.foldlVia (fun s a => ?_) ?_
  · exact Keeps.mono (State.freeTiles_keeps _ _ _) (by decide)
  · exact Keeps.refl _ _

theorem State.dropReservation_keeps (s : State) (j : Job) : Keeps [.slots] s (State.dropReservation s j) := by
  unfold State.dropReservation
  split
  · exact Keeps.refl _ _
  · refine Keeps.ite ?_ ?_
    · exact Keeps.mono (State.setSlot_keeps _ _ _) (by decide)
    · exact Keeps.refl _ _

theorem State.putCtx_keeps (s : State) (reach id i : Nat) (record : Bytes) : Keeps [.hbm] s (State.putCtx s reach id
    i record) := by
  unfold State.putCtx
  split
  · exact Keeps.refl _ _
  · exact Keeps.mono (State.putBytes_keeps _ _ _ _) (by decide)

theorem State.wipeCtxs_keeps (s : State) (j : Job) : Keeps [.hbm] s (State.wipeCtxs s j) := by
  unfold State.wipeCtxs
  refine Keeps.foldlVia (fun s a => ?_) ?_
  · exact Keeps.mono (State.putCtx_keeps _ _ _ _ _) (by decide)
  · exact Keeps.refl _ _

theorem State.endJob_keeps (s : State) (id : Nat) (st : Status) (detail : Nat) : Keeps [.fns, .jobs, .weir, .slots,
    .spr, .tiles, .cores, .spans, .stores, .hbm, .cfl, .evt, .snp, .pins, .tx] s (State.endJob s id st detail) := by
  unfold State.endJob
  dsimp -proj only
  split
  · exact Keeps.refl _ _
  · refine Keeps.ite ?_ ?_
    · exact Keeps.refl _ _
    · refine Keeps.via (Keeps.set_spr _ _) (by decide) ?_
      refine Keeps.via (Keeps.set_tiles _ _) (by decide) ?_
      refine Keeps.via (State.setJob_keeps _ _) (by decide) ?_
      refine Keeps.via (State.wipeCtxs_keeps _ _) (by decide) ?_
      refine Keeps.via (State.freeTiles_keeps _ _ _) (by decide) ?_
      refine Keeps.ite ?_ ?_
      · refine Keeps.ite ?_ ?_
        · exact Keeps.refl _ _
        · exact Keeps.mono (State.dropReservation_keeps _ _) (by decide)
      · refine Keeps.via (State.countAbandon_keeps _ _) (by decide) ?_
        refine Keeps.ite ?_ ?_
        · exact Keeps.refl _ _
        · exact Keeps.mono (State.dropReservation_keeps _ _) (by decide)

theorem State.failJob_keeps (s : State) (id : Nat) (st : Status) (detail : Nat) : Keeps [.fns, .jobs, .weir, .slots,
    .spr, .tiles, .cores, .spans, .stores, .hbm, .cfl, .evt, .snp, .pins, .tx] s (State.failJob s id st detail) :=
    by
  unfold State.failJob
  split
  · exact Keeps.refl _ _
  · exact Keeps.mono (State.endJob_keeps _ _ _ _) (by decide)

theorem State.spillAbort_keeps (s : State) (j : Job) : Keeps [.cfl, .tx] s (State.spillAbort s j) := by
  unfold State.spillAbort
  dsimp -proj only
  split
  · exact Keeps.refl _ _
  · refine Keeps.via (State.countTx_keeps _) (by decide) ?_
    exact Keeps.mono (State.sendFrame_keeps _ _ _ _ _) (by decide)

theorem State.countFac_keeps (s : State) (id i : Nat) : Keeps [.stores] s (State.countFac s id i) := by
  unfold State.countFac
  dsimp -proj only
  split
  · exact Keeps.mono (State.setStore_keeps _ _ _) (by decide)
  · exact Keeps.refl _ _

theorem State.dropNode_keeps (s : State) (id i : Nat) : Keeps [.fns, .jobs, .weir, .tiles, .cores, .spans, .cfl,
    .evt, .snp, .pins, .tx] s (State.dropNode s id i) := by
  unfold State.dropNode
  dsimp -proj only
  split
  · refine Keeps.via (Keeps.set_spans _ _) (by decide) ?_
    exact Keeps.mono (State.abandon_keeps _ _ _) (by decide)
  · split
    · refine Keeps.via (State.sweepJobs_keeps _) (by decide) ?_
      refine Keeps.via (State.setJob_keeps _ _) (by decide) ?_
      refine Keeps.via (Keeps.set_spans _ _) (by decide) ?_
      exact Keeps.mono (State.abandon_keeps _ _ _) (by decide)
    · refine Keeps.via (Keeps.set_spans _ _) (by decide) ?_
      exact Keeps.mono (State.abandon_keeps _ _ _) (by decide)

theorem State.failNode_keeps (s : State) (id i : Nat) (st : Status) : Keeps [.fns, .jobs, .weir, .slots, .spr,
    .tiles, .cores, .spans, .stores, .hbm, .cfl, .evt, .snp, .pins, .tx] s (State.failNode s id i st) := by
  unfold State.failNode
  refine Keeps.ite ?_ ?_
  · refine Keeps.via (State.dropNode_keeps _ _ _) (by decide) ?_
    refine Keeps.via (State.endJob_keeps _ _ _ _) (by decide) ?_
    exact Keeps.mono (State.countFac_keeps _ _ _) (by decide)
  · exact Keeps.mono (State.failJob_keeps _ _ _ _) (by decide)

theorem State.abortJob_keeps (s : State) (id : Nat) : Keeps [.fns, .jobs, .weir, .slots, .spr, .tiles, .cores,
    .spans, .stores, .hbm, .cfl, .evt, .snp, .pins, .tx] s (State.abortJob s id) := by
  unfold State.abortJob
  split
  · exact Keeps.refl _ _
  · refine Keeps.ite ?_ ?_
    · refine Keeps.ite ?_ ?_
      · exact Keeps.mono (State.setJob_keeps _ _) (by decide)
      · exact Keeps.refl _ _
    · refine Keeps.ite ?_ ?_
      · exact Keeps.refl _ _
      · refine Keeps.ite ?_ ?_
        · refine Keeps.ite ?_ ?_
          · exact Keeps.refl _ _
          · refine Keeps.via (State.setJob_keeps _ _) (by decide) ?_
            exact Keeps.mono (State.spillAbort_keeps _ _) (by decide)
        · refine Keeps.ite ?_ ?_
          · exact Keeps.mono (State.setJob_keeps _ _) (by decide)
          · exact Keeps.mono (State.endJob_keeps _ _ _ _) (by decide)

theorem State.flushJob_keeps (s : State) (id : Nat) : Keeps [.fns, .jobs, .weir, .slots, .spr, .tiles, .cores,
    .spans, .stores, .hbm, .cfl, .evt, .snp, .pins, .tx] s (State.flushJob s id) := by
  unfold State.flushJob
  split
  · exact Keeps.refl _ _
  · refine Keeps.ite ?_ ?_
    · exact Keeps.refl _ _
    · exact Keeps.mono (State.endJob_keeps _ _ _ _) (by decide)

theorem State.flushAll_keeps (s : State) (p : Job → Bool) : Keeps [.fns, .jobs, .weir, .slots, .spr, .tiles, .cores,
    .spans, .stores, .hbm, .cfl, .evt, .snp, .pins, .tx] s (State.flushAll s p) := by
  unfold State.flushAll
  refine Keeps.foldlVia (fun s a => ?_) ?_
  · exact Keeps.mono (State.flushJob_keeps _ _) (by decide)
  · exact Keeps.refl _ _

theorem State.takeSeq_keeps (s : State) : Keeps [.weir] s (State.takeSeq s) := by
  unfold State.takeSeq
  dsimp -proj only
  exact Keeps.mono (Keeps.set_weir _ _) (by decide)

theorem State.takeListSeq_keeps (s : State) : Keeps [.weir] s (State.takeListSeq s) := by
  unfold State.takeListSeq
  dsimp -proj only
  exact Keeps.mono (Keeps.set_weir _ _) (by decide)

theorem State.markDispatch_keeps (s : State) (id : Nat) : Keeps [.fns, .reaches, .jobs, .cfl, .evt, .snp, .pins,
    .tx] s (State.markDispatch s id) := by
  unfold State.markDispatch
  dsimp -proj only
  split
  · exact Keeps.refl _ _
  · refine Keeps.ite ?_ ?_
    · exact Keeps.refl _ _
    · refine Keeps.ite ?_ ?_
      · refine Keeps.via (State.raiseReach_keeps _ _ _ _) (by decide) ?_
        refine Keeps.via (State.setReach_keeps _ _ _) (by decide) ?_
        exact Keeps.mono (State.setJob_keeps _ _) (by decide)
      · exact Keeps.mono (State.setJob_keeps _ _) (by decide)

theorem State.listFull_keeps (s : State) (basin : Nat) : Keeps [.fns, .weir, .cfl, .evt, .snp, .pins, .tx] s
    (State.listFull s basin) := by
  unfold State.listFull
  dsimp -proj only
  refine Keeps.via (State.takeListSeq_keeps _) (by decide) ?_
  refine Keeps.via (State.raiseBasin_keeps _ _ _ _) (by decide) ?_
  exact Keeps.mono (Keeps.set_weir _ _) (by decide)

theorem State.startEntropy_keeps (s : State) (id i : Nat) : Keeps [.fns, .reaches, .jobs, .weir, .slots, .spr,
    .tiles, .cores, .spans, .stores, .hbm, .cfl, .evt, .snp, .pins, .tx] s (State.startEntropy s id i) := by
  unfold State.startEntropy
  dsimp -proj only
  split
  · exact Keeps.mono (State.markDispatch_keeps _ _) (by decide)
  · split
    · exact Keeps.mono (State.markDispatch_keeps _ _) (by decide)
    · refine Keeps.ite ?_ ?_
      · refine Keeps.ite ?_ ?_
        · refine Keeps.via (State.setJob_keeps _ _) (by decide) ?_
          exact Keeps.mono (State.markDispatch_keeps _ _) (by decide)
        · refine Keeps.via (State.failJob_keeps _ _ _ _) (by decide) ?_
          exact Keeps.mono (State.markDispatch_keeps _ _) (by decide)
      · refine Keeps.ite ?_ ?_
        · refine Keeps.via (State.setJob_keeps _ _) (by decide) ?_
          exact Keeps.mono (State.markDispatch_keeps _ _) (by decide)
        · refine Keeps.via (State.listFull_keeps _ _) (by decide) ?_
          refine Keeps.via (State.setJob_keeps _ _) (by decide) ?_
          exact Keeps.mono (State.markDispatch_keeps _ _) (by decide)

theorem State.readyNode_keeps (s : State) (id i : Nat) : Keeps [.fns, .reaches, .jobs, .weir, .slots, .spr, .tiles,
    .cores, .spans, .stores, .hbm, .cfl, .evt, .snp, .pins, .tx] s (State.readyNode s id i) := by
  unfold State.readyNode
  dsimp -proj only
  split
  · exact Keeps.refl _ _
  · split
    · exact Keeps.refl _ _
    · refine Keeps.ite ?_ ?_
      · exact Keeps.refl _ _
      · refine Keeps.ite ?_ ?_
        · exact Keeps.mono (State.startEntropy_keeps _ _ _) (by decide)
        · refine Keeps.via (State.takeSeq_keeps _) (by decide) ?_
          exact Keeps.mono (State.setJob_keeps _ _) (by decide)

theorem State.wakeNodes_keeps (s : State) (id : Nat) : Keeps [.fns, .reaches, .jobs, .weir, .slots, .spr, .tiles,
    .cores, .spans, .stores, .hbm, .cfl, .evt, .snp, .pins, .tx] s (State.wakeNodes s id) := by
  unfold State.wakeNodes
  dsimp -proj only
  split
  · exact Keeps.refl _ _
  · refine Keeps.foldlVia (fun s a => ?_) ?_
    · exact Keeps.mono (State.readyNode_keeps _ _ _) (by decide)
    · exact Keeps.refl _ _

theorem State.settleNodes_keeps (s : State) (id : Nat) : Keeps [.fns, .reaches, .jobs, .weir, .slots, .spr, .tiles,
    .cores, .spans, .stores, .hbm, .cfl, .evt, .snp, .pins, .tx] s (State.settleNodes s id) := by
  unfold State.settleNodes
  split
  · exact Keeps.refl _ _
  · refine Keeps.foldlVia (fun s a => ?_) ?_
    · exact Keeps.mono (State.wakeNodes_keeps _ _) (by decide)
    · exact Keeps.refl _ _

end Sys2Proof.Machine
end

