-- ==== Sys2Proof/Laws/FrameLevOps.lean ====
section
/-! SUPPORT. What each operation of Machine/LevOps.lean can touch. -/

namespace Sys2Proof.Machine

open Sys2Proof

theorem State.setLevSrc_keeps (s : State) (i : Nat) (x : LevSrc) : Keeps [.lev] s (State.setLevSrc s i x) := by
  unfold State.setLevSrc
  dsimp -proj only
  exact Keeps.mono (Keeps.set_lev _ _) (by decide)

theorem State.levLog_keeps (s : State) (e : LogEntry) (u : Nat) : Keeps [.lev, .ao] s (State.levLog s e u) := by
  unfold State.levLog
  dsimp -proj only
  refine Keeps.ite ?_ ?_
  · refine Keeps.via (Keeps.set_ao _ _) (by decide) ?_
    exact Keeps.mono (Keeps.set_lev _ _) (by decide)
  · exact Keeps.mono (Keeps.set_lev _ _) (by decide)

theorem State.joinSet_keeps (s : State) (t : TripRec) (acts : Nat) : Keeps [.lev] s (State.joinSet s t acts) := by
  unfold State.joinSet
  dsimp -proj only
  split
  · exact Keeps.mono (Keeps.set_lev _ _) (by decide)
  · exact Keeps.mono (Keeps.set_lev _ _) (by decide)

theorem State.levCount_keeps (s : State) (i det : Nat) : Keeps [.lev, .pins] s (State.levCount s i det) := by
  unfold State.levCount
  dsimp -proj only
  refine Keeps.ite ?_ ?_
  · exact Keeps.refl _ _
  · split
    · exact Keeps.mono (State.setLevSrc_keeps _ _ _) (by decide)
    · refine Keeps.via (State.alertPin_keeps _) (by decide) ?_
      refine Keeps.via (State.joinSet_keeps _ _ _) (by decide) ?_
      exact Keeps.mono (State.setLevSrc_keeps _ _ _) (by decide)

theorem State.detectorTrip_keeps (s : State) (i : Nat) (detB : Bool) : Keeps [.lev, .pins] s (State.detectorTrip s i
    detB) := by
  unfold State.detectorTrip
  dsimp -proj only
  refine Keeps.ite ?_ ?_
  · refine Keeps.ite ?_ ?_
    · exact Keeps.mono (State.setLevSrc_keeps _ _ _) (by decide)
    · refine Keeps.via (State.levCount_keeps _ _ _) (by decide) ?_
      exact Keeps.mono (State.setLevSrc_keeps _ _ _) (by decide)
  · refine Keeps.ite ?_ ?_
    · exact Keeps.refl _ _
    · refine Keeps.ite ?_ ?_
      · exact Keeps.mono (State.setLevSrc_keeps _ _ _) (by decide)
      · refine Keeps.via (State.levCount_keeps _ _ _) (by decide) ?_
        exact Keeps.mono (State.setLevSrc_keeps _ _ _) (by decide)

theorem State.disagreement_keeps (s : State) (i : Nat) : Keeps [.lev, .pins] s (State.disagreement s i) := by
  unfold State.disagreement
  dsimp -proj only
  refine Keeps.ite ?_ ?_
  · exact Keeps.refl _ _
  · refine Keeps.via (State.levCount_keeps _ _ _) (by decide) ?_
    exact Keeps.mono (State.setLevSrc_keeps _ _ _) (by decide)

theorem State.closeGather_keeps (s : State) : Keeps [.fns, .cfl, .evt, .snp, .lev, .pins, .tx] s (State.closeGather
    s) := by
  unfold State.closeGather
  dsimp -proj only
  split
  · exact Keeps.refl _ _
  · refine Keeps.ite ?_ ?_
    · refine Keeps.via (State.requestCapture_keeps _ _) (by decide) ?_
      refine Keeps.ite ?_ ?_
      · refine Keeps.via (State.flood_keeps _ _ _) (by decide) ?_
        exact Keeps.mono (Keeps.set_lev _ _) (by decide)
      · exact Keeps.mono (Keeps.set_lev _ _) (by decide)
    · refine Keeps.ite ?_ ?_
      · refine Keeps.via (State.flood_keeps _ _ _) (by decide) ?_
        exact Keeps.mono (Keeps.set_lev _ _) (by decide)
      · exact Keeps.mono (Keeps.set_lev _ _) (by decide)

theorem State.batterySample_keeps (s : State) (da db : Nat) : Keeps [.lev, .ao] s (State.batterySample s da db) :=
    by
  unfold State.batterySample
  dsimp -proj only
  refine Keeps.ite ?_ ?_
  · exact Keeps.mono (Keeps.set_ao _ _) (by decide)
  · exact Keeps.mono (Keeps.set_lev_ao _ _ _) (by decide)

end Sys2Proof.Machine
end

