-- ==== Sys2Proof/Laws/FrameRandom.lean ====
section
/-! SUPPORT. What each operation of Machine/Random.lean can touch. -/

namespace Sys2Proof.Machine

open Sys2Proof

theorem State.queueReseed_keeps (s : State) (i : Nat) : Keeps [.spr] s (State.queueReseed s i) := by
  unfold State.queueReseed
  dsimp -proj only
  refine Keeps.ite ?_ ?_
  · exact Keeps.refl _ _
  · exact Keeps.mono (Keeps.set_spr _ _) (by decide)

theorem State.generate_keeps (s : State) (i n : Nat) : Keeps [.fns, .spr, .cfl, .evt, .snp, .pins, .tx] s
    (State.generate s i n).2 := by
  unfold State.generate
  dsimp -proj only
  refine Keeps.snd ?_
  refine Keeps.ite ?_ ?_
  · refine Keeps.ite ?_ ?_
    · refine Keeps.via (State.raise_keeps _ _ _) (by decide) ?_
      refine Keeps.ite ?_ ?_
      · refine Keeps.via (State.queueReseed_keeps _ _) (by decide) ?_
        exact Keeps.mono (State.setDrbg_keeps _ _ _) (by decide)
      · exact Keeps.mono (State.setDrbg_keeps _ _ _) (by decide)
    · refine Keeps.via (State.raiseReach_keeps _ _ _ _) (by decide) ?_
      refine Keeps.ite ?_ ?_
      · refine Keeps.via (State.queueReseed_keeps _ _) (by decide) ?_
        exact Keeps.mono (State.setDrbg_keeps _ _ _) (by decide)
      · exact Keeps.mono (State.setDrbg_keeps _ _ _) (by decide)
  · refine Keeps.ite ?_ ?_
    · refine Keeps.via (State.queueReseed_keeps _ _) (by decide) ?_
      exact Keeps.mono (State.setDrbg_keeps _ _ _) (by decide)
    · exact Keeps.mono (State.setDrbg_keeps _ _ _) (by decide)

theorem State.instantiate_keeps (s : State) (i : Nat) (seed nonce : Bytes) : Keeps [.spr] s (State.instantiate s i
    seed nonce) := by
  unfold State.instantiate
  dsimp -proj only
  exact Keeps.mono (State.setDrbg_keeps _ _ _) (by decide)

theorem State.reseed_keeps (s : State) (i : Nat) (seed extra : Bytes) : Keeps [.spr] s (State.reseed s i seed extra)
    := by
  unfold State.reseed
  dsimp -proj only
  exact Keeps.mono (State.setDrbg_keeps _ _ _) (by decide)

theorem State.useFrame_keeps (s : State) (i : Nat) : Keeps [.spr] s (State.useFrame s i) := by
  unfold State.useFrame
  dsimp -proj only
  exact Keeps.mono (State.setDrbg_keeps _ _ _) (by decide)

theorem State.serveSeedOf_keeps (s : State) (ws : List SeedReq) : Keeps [.fns, .jobs, .weir, .slots, .spr, .tiles,
    .cores, .spans, .stores, .hbm, .cfl, .evt, .snp, .pins, .tx] s (State.serveSeedOf s ws) := by
  unfold State.serveSeedOf
  dsimp -proj only
  split
  · exact Keeps.refl _ _
  · split
    · refine Keeps.via (State.instantiate_keeps _ _ _ _) (by decide) ?_
      exact Keeps.mono (Keeps.set_spr _ _) (by decide)
    · split
      · refine Keeps.via (State.endJob_keeps _ _ _ _) (by decide) ?_
        refine Keeps.via (State.useFrame_keeps _ _) (by decide) ?_
        refine Keeps.via (State.reseed_keeps _ _ _ _) (by decide) ?_
        exact Keeps.mono (Keeps.set_spr _ _) (by decide)
      · refine Keeps.via (State.useFrame_keeps _ _) (by decide) ?_
        refine Keeps.via (State.reseed_keeps _ _ _ _) (by decide) ?_
        exact Keeps.mono (Keeps.set_spr _ _) (by decide)
    · exact Keeps.mono (Keeps.set_spr _ _) (by decide)
    · exact Keeps.refl _ _

theorem State.serveSeed_keeps (s : State) : Keeps [.fns, .jobs, .weir, .slots, .spr, .tiles, .cores, .spans,
    .stores, .hbm, .cfl, .evt, .snp, .pins, .tx] s (State.serveSeed s) := by
  unfold State.serveSeed
  exact Keeps.mono (State.serveSeedOf_keeps _ _) (by decide)

theorem State.startDrbg_keeps (s : State) (i : Nat) (pers : Bytes) : Keeps [.fns, .jobs, .weir, .slots, .spr,
    .tiles, .cores, .spans, .stores, .hbm, .cfl, .evt, .snp, .pins, .tx] s (State.startDrbg s i pers) := by
  unfold State.startDrbg
  dsimp -proj only
  refine Keeps.via (State.serveSeed_keeps _) (by decide) ?_
  refine Keeps.via (Keeps.set_spr _ _) (by decide) ?_
  exact Keeps.mono (State.setDrbg_keeps _ _ _) (by decide)

theorem State.drawRegionKey_keeps (s : State) (id : Nat) : Keeps [.fns, .spr, .hbm, .cfl, .evt, .snp, .pins, .tx] s
    (State.drawRegionKey s id) := by
  unfold State.drawRegionKey
  dsimp -proj only
  refine Keeps.ite ?_ ?_
  · refine Keeps.via (Keeps.set_hbm _ _) (by decide) ?_
    exact Keeps.mono (State.generate_keeps _ _ _) (by decide)
  · exact Keeps.mono (Keeps.set_hbm _ _) (by decide)

theorem State.drawDue_keeps (s : State) : Keeps [.fns, .spr, .hbm, .cfl, .evt, .snp, .pins, .tx] s (State.drawDue s)
    := by
  unfold State.drawDue
  dsimp -proj only
  refine Keeps.foldlVia (fun s a => ?_) ?_
  · exact Keeps.mono (State.drawRegionKey_keeps _ _) (by decide)
  · exact Keeps.mono (Keeps.set_hbm _ _) (by decide)

theorem State.stopDrbg_keeps (s : State) (i : Nat) : Keeps [.spr] s (State.stopDrbg s i) := by
  unfold State.stopDrbg
  dsimp -proj only
  refine Keeps.via (Keeps.set_spr _ _) (by decide) ?_
  exact Keeps.mono (State.setDrbg_keeps _ _ _) (by decide)

theorem State.setExp_keeps (s : State) (e : Nat) (x : Expander) : Keeps [.spr] s (State.setExp s e x) := by
  unfold State.setExp
  dsimp -proj only
  exact Keeps.mono (Keeps.set_spr _ _) (by decide)

theorem State.resume_keeps (s : State) (k : Nat) : Keeps [.tiles] s (State.resume s k) := by
  unfold State.resume
  refine Keeps.ite ?_ ?_
  · exact Keeps.mono (State.endStall_keeps _ _) (by decide)
  · exact Keeps.refl _ _

theorem State.reseedExp_keeps (s : State) (e : Nat) : Keeps [.fns, .spr, .tiles, .cfl, .evt, .snp, .pins, .tx] s
    (State.reseedExp s e) := by
  unfold State.reseedExp
  dsimp -proj only
  refine Keeps.ite ?_ ?_
  · refine Keeps.foldlVia (fun s a => ?_) ?_
    · exact Keeps.mono (State.resume_keeps _ _) (by decide)
    · refine Keeps.via (State.setExp_keeps _ _ _) (by decide) ?_
      exact Keeps.mono (State.generate_keeps _ _ _) (by decide)
  · exact Keeps.refl _ _

theorem State.passExp_keeps (s : State) (e : Nat) : Keeps [.fns, .spr, .tiles, .cfl, .evt, .snp, .pins, .tx] s
    (State.passExp s e) := by
  unfold State.passExp
  dsimp -proj only
  refine Keeps.via (State.reseedExp_keeps _ _) (by decide) ?_
  exact Keeps.mono (State.setExp_keeps _ _ _) (by decide)

theorem State.turnExp_keeps (s : State) (e : Nat) : Keeps [.fns, .spr, .tiles, .cfl, .evt, .snp, .pins, .tx] s
    (State.turnExp s e) := by
  unfold State.turnExp
  dsimp -proj only
  refine Keeps.ite ?_ ?_
  · exact Keeps.mono (State.reseedExp_keeps _ _) (by decide)
  · exact Keeps.mono (State.setExp_keeps _ _ _) (by decide)

theorem State.stall_keeps (s : State) (k : Nat) : Keeps [.tiles] s (State.stall s k) := by
  unfold State.stall
  dsimp -proj only
  exact Keeps.mono (State.setTile_keeps _ _ _) (by decide)

theorem State.throttleTile_keeps (s : State) (e k : Nat) : Keeps [.fns, .spr, .tiles, .cfl, .evt, .snp, .pins, .tx]
    s (State.throttleTile s e k) := by
  unfold State.throttleTile
  dsimp -proj only
  refine Keeps.via (State.stall_keeps _ _) (by decide) ?_
  refine Keeps.via (State.setExp_keeps _ _ _) (by decide) ?_
  refine Keeps.ite ?_ ?_
  · exact Keeps.refl _ _
  · refine Keeps.ite ?_ ?_
    · exact Keeps.mono (State.raiseBasin_keeps _ _ _ _) (by decide)
    · exact Keeps.mono (State.raiseBasin_keeps _ _ _ _) (by decide)

theorem State.takeBlocks_keeps (s : State) (e k n : Nat) : Keeps [.fns, .spr, .tiles, .cfl, .evt, .snp, .pins, .tx]
    s (State.takeBlocks s e k n).2 := by
  unfold State.takeBlocks
  dsimp -proj only
  refine Keeps.iteSnd ?_ ?_
  · refine Keeps.snd ?_
    exact Keeps.mono (State.throttleTile_keeps _ _ _) (by decide)
  · refine Keeps.snd ?_
    refine Keeps.via (State.resume_keeps _ _) (by decide) ?_
    exact Keeps.mono (State.setExp_keeps _ _ _) (by decide)

theorem State.setBlind_keeps (s : State) (i : Nat) (b : Bytes) : Keeps [.spr] s (State.setBlind s i b) := by
  unfold State.setBlind
  dsimp -proj only
  exact Keeps.mono (Keeps.set_spr _ _) (by decide)

theorem State.refillBlind_keeps (s : State) (i : Nat) : Keeps [.fns, .spr, .tiles, .cfl, .evt, .snp, .pins, .tx] s
    (State.refillBlind s i) := by
  unfold State.refillBlind
  dsimp -proj only
  refine Keeps.ite ?_ ?_
  · refine Keeps.via (State.resume_keeps _ _) (by decide) ?_
    refine Keeps.via (State.setBlind_keeps _ _ _) (by decide) ?_
    exact Keeps.mono (State.generate_keeps _ _ _) (by decide)
  · exact Keeps.refl _ _

theorem State.takeWords_keeps (s : State) (i n : Nat) : Keeps [.fns, .spr, .tiles, .cfl, .evt, .snp, .pins, .tx] s
    (State.takeWords s i n).2 := by
  unfold State.takeWords
  dsimp -proj only
  refine Keeps.iteSnd ?_ ?_
  · refine Keeps.snd ?_
    refine Keeps.via (State.stall_keeps _ _) (by decide) ?_
    refine Keeps.ite ?_ ?_
    · exact Keeps.refl _ _
    · exact Keeps.mono (State.raiseBasin_keeps _ _ _ _) (by decide)
  · refine Keeps.snd ?_
    refine Keeps.via (State.resume_keeps _ _) (by decide) ?_
    exact Keeps.mono (State.setBlind_keeps _ _ _) (by decide)

theorem State.clearRandom_keeps (s : State) (c : NodeClass) (i : Nat) : Keeps [.fns, .spr, .tiles, .cfl, .evt, .snp,
    .pins, .tx] s (State.clearRandom s c i) := by
  unfold State.clearRandom
  split
  · exact Keeps.mono (State.passExp_keeps _ _) (by decide)
  · refine Keeps.ite ?_ ?_
    · refine Keeps.via (State.refillBlind_keeps _ _) (by decide) ?_
      exact Keeps.mono (State.setBlind_keeps _ _ _) (by decide)
    · exact Keeps.refl _ _

theorem State.entropyLost_keeps (s : State) (j : Job) : Keeps [.fns, .reaches, .jobs, .weir, .slots, .spr, .tiles,
    .cores, .spans, .stores, .hbm, .cfl, .evt, .snp, .pins, .tx] s (State.entropyLost s j) := by
  unfold State.entropyLost
  refine Keeps.ite ?_ ?_
  · exact Keeps.refl _ _
  · refine Keeps.ite ?_ ?_
    · refine Keeps.via (State.settleNodes_keeps _ _) (by decide) ?_
      exact Keeps.mono (State.setJob_keeps _ _) (by decide)
    · exact Keeps.mono (State.failJob_keeps _ _ _ _) (by decide)

theorem State.springFail_keeps (s : State) (source test : Nat) : Keeps [.fns, .reaches, .jobs, .weir, .slots, .spr,
    .tiles, .cores, .spans, .stores, .hbm, .cfl, .evt, .snp, .lev, .pins, .tx] s (State.springFail s source test) :=
    by
  unfold State.springFail
  dsimp -proj only
  refine Keeps.foldlVia (fun s a => ?_) ?_
  · exact Keeps.mono (State.entropyLost_keeps _ _) (by decide)
  · refine Keeps.via (State.levCount_keeps _ _ _) (by decide) ?_
    refine Keeps.ite ?_ ?_
    · refine Keeps.via (State.raise_keeps _ _ _) (by decide) ?_
      refine Keeps.via (State.raise_keeps _ _ _) (by decide) ?_
      exact Keeps.mono (Keeps.set_spr _ _) (by decide)
    · refine Keeps.via (State.raise_keeps _ _ _) (by decide) ?_
      exact Keeps.mono (Keeps.set_spr _ _) (by decide)

theorem State.startFailed_keeps (s : State) (i : Nat) : Keeps [.spr] s (State.startFailed s i) := by
  unfold State.startFailed
  dsimp -proj only
  exact Keeps.mono (Keeps.set_spr _ _) (by decide)

theorem execSpringHealthFail_keeps (source test : Nat) (s : State) : Keeps [.fns, .reaches, .jobs, .weir, .slots,
    .spr, .tiles, .cores, .spans, .stores, .hbm, .cfl, .evt, .snp, .lev, .pins, .tx] s (stateAfter
    (execSpringHealthFail source test s) s) := by
  unfold execSpringHealthFail
  refine Keeps.engineCmd ?_
  refine Keeps.ite ?_ ?_
  · exact Keeps.refl _ _
  · refine Keeps.ite ?_ ?_
    · exact Keeps.mono (State.startFailed_keeps _ _) (by decide)
    · refine Keeps.ite ?_ ?_
      · exact Keeps.mono (State.springFail_keeps _ _ _) (by decide)
      · exact Keeps.refl _ _

theorem State.springReset_keeps (s : State) (auto : Bool) : Keeps [.spr] s (State.springReset s auto) := by
  unfold State.springReset
  dsimp -proj only
  refine Keeps.ite ?_ ?_
  · exact Keeps.mono (Keeps.set_spr _ _) (by decide)
  · refine Keeps.ite ?_ ?_
    · exact Keeps.refl _ _
    · exact Keeps.mono (Keeps.set_spr _ _) (by decide)

theorem execSpringBlockReset_keeps (auto : Bool) (s : State) : Keeps [.spr] s (stateAfter (execSpringBlockReset auto
    s) s) := by
  unfold execSpringBlockReset
  refine Keeps.iteAfter ?_ ?_
  · refine Keeps.engineCmd ?_
    refine Keeps.ite ?_ ?_
    · exact Keeps.mono (State.springReset_keeps _ _) (by decide)
    · exact Keeps.refl _ _
  · refine Keeps.hostCmd ?_
    exact Keeps.mono (State.springReset_keeps _ _) (by decide)

theorem State.rawBits_keeps (s : State) (raw : Bytes) : Keeps [.spr] s (State.rawBits s raw).2 := by
  unfold State.rawBits
  dsimp -proj only
  refine Keeps.iteSnd ?_ ?_
  · refine Keeps.snd ?_
    exact Keeps.mono (Keeps.set_spr _ _) (by decide)
  · refine Keeps.snd ?_
    exact Keeps.refl _ _

theorem State.raiseExcluded_keeps (s : State) (failed : Nat) : Keeps [.fns, .cfl, .evt, .snp, .pins, .tx] s
    (State.raiseExcluded s failed) := by
  unfold State.raiseExcluded
  refine Keeps.foldlVia (fun s a => ?_) ?_
  · exact Keeps.mono (State.raise_keeps _ _ _) (by decide)
  · exact Keeps.refl _ _

theorem State.reseedDue_keeps (s : State) : Keeps [.fns, .spr, .tiles, .cfl, .evt, .snp, .pins, .tx] s
    (State.reseedDue s) := by
  unfold State.reseedDue
  dsimp -proj only
  refine Keeps.foldlVia (fun s a => ?_) ?_
  · exact Keeps.mono (State.refillBlind_keeps _ _) (by decide)
  · refine Keeps.foldlVia (fun s a => ?_) ?_
    · exact Keeps.mono (State.reseedExp_keeps _ _) (by decide)
    · exact Keeps.refl _ _

theorem State.reseedThese_keeps : ∀ (is : List Nat) (s : State),
    Keeps [.fns, .jobs, .weir, .slots, .spr, .tiles, .cores, .spans, .stores, .hbm, .cfl, .evt, .snp, .pins, .tx] s (State.reseedThese is s)
  | [], s => Keeps.refl _ s
  | _ :: is, s => Keeps.trans (State.serveSeedOf_keeps s _) (State.reseedThese_keeps is _)

theorem State.springRestored_keeps (s : State) (x : Start) : Keeps [.fns, .jobs, .weir, .slots, .spr, .tiles,
    .cores, .spans, .stores, .hbm, .cfl, .evt, .snp, .pins, .tx] s (State.springRestored s x) := by
  unfold State.springRestored
  dsimp -proj only
  refine Keeps.via (State.raise_keeps _ _ _) (by decide) ?_
  refine Keeps.via (State.raiseExcluded_keeps _ _) (by decide) ?_
  refine Keeps.via (Keeps.set_spr _ _) (by decide) ?_
  refine Keeps.via (State.reseedThese_keeps _ _) (by decide) ?_
  refine Keeps.foldlVia (fun s a => ?_) ?_
  · exact Keeps.mono (State.queueReseed_keeps _ _) (by decide)
  · refine Keeps.via (State.reseedDue_keeps _) (by decide) ?_
    refine Keeps.via (State.drawDue_keeps _) (by decide) ?_
    refine Keeps.ite ?_ ?_
    · refine Keeps.via (State.reseedThese_keeps _ _) (by decide) ?_
      refine Keeps.via (State.queueReseed_keeps _ _) (by decide) ?_
      exact Keeps.mono (Keeps.set_spr _ _) (by decide)
    · refine Keeps.via (State.startDrbg_keeps _ _ _) (by decide) ?_
      exact Keeps.mono (Keeps.set_spr _ _) (by decide)

theorem State.springResetDone_keeps (s : State) (rates : List Nat) (failed : Nat) (raw : Bytes) : Keeps [.fns,
    .reaches, .jobs, .weir, .slots, .spr, .tiles, .cores, .spans, .stores, .hbm, .cfl, .evt, .snp, .lev, .pins, .tx]
    s (State.springResetDone s rates failed raw) := by
  unfold State.springResetDone
  dsimp -proj only
  refine Keeps.ite ?_ ?_
  · refine Keeps.ite ?_ ?_
    · exact Keeps.refl _ _
    · refine Keeps.via (State.springRestored_keeps _ _) (by decide) ?_
      exact Keeps.mono (State.rawBits_keeps _ _) (by decide)
  · refine Keeps.via (State.springFail_keeps _ _ _) (by decide) ?_
    exact Keeps.mono (Keeps.set_spr _ _) (by decide)

theorem execSpringBlockResetDone_keeps (rates : List Nat) (failed : Nat) (raw : Bytes) (s : State) : Keeps [.fns,
    .reaches, .jobs, .weir, .slots, .spr, .tiles, .cores, .spans, .stores, .hbm, .cfl, .evt, .snp, .lev, .pins, .tx]
    s (stateAfter (execSpringBlockResetDone rates failed raw s) s) := by
  unfold execSpringBlockResetDone
  refine Keeps.engineCmd ?_
  refine Keeps.ite ?_ ?_
  · exact Keeps.mono (State.springResetDone_keeps _ _ _ _) (by decide)
  · exact Keeps.refl _ _

theorem State.reseedAll_keeps (s : State) : Keeps [.spr] s (State.reseedAll s) := by
  unfold State.reseedAll
  dsimp -proj only
  refine Keeps.via (Keeps.set_spr _ _) (by decide) ?_
  refine Keeps.foldlVia (fun s a => ?_) ?_
  · refine Keeps.via (State.queueReseed_keeps _ _) (by decide) ?_
    exact Keeps.mono (State.setDrbg_keeps _ _ _) (by decide)
  · exact Keeps.refl _ _

theorem execReseedAll_keeps (s : State) : Keeps [.spr] s (stateAfter (execReseedAll s) s) := by
  unfold execReseedAll
  refine Keeps.hostCmd ?_
  exact Keeps.mono (State.reseedAll_keeps _) (by decide)

theorem execSpringFailAgeOut_keeps (s : State) : Keeps [.spr] s (stateAfter (execSpringFailAgeOut s) s) := by
  unfold execSpringFailAgeOut
  dsimp -proj only
  refine Keeps.engineCmd ?_
  exact Keeps.mono (Keeps.set_spr _ _) (by decide)

theorem State.condition_keeps (s : State) (raw : Bytes) : Keeps [.fns, .reaches, .jobs, .weir, .slots, .spr, .tiles,
    .cores, .spans, .stores, .hbm, .cfl, .evt, .snp, .lev, .pins, .tx] s (State.condition s raw) := by
  unfold State.condition
  dsimp -proj only
  refine Keeps.ite ?_ ?_
  · refine Keeps.via (Keeps.set_spr _ _) (by decide) ?_
    exact Keeps.mono (State.rawBits_keeps _ _) (by decide)
  · refine Keeps.via (State.springFail_keeps _ _ _) (by decide) ?_
    refine Keeps.via (Keeps.set_spr _ _) (by decide) ?_
    exact Keeps.mono (State.rawBits_keeps _ _) (by decide)

theorem execConditionerOutput_keeps (raw : Bytes) (s : State) : Keeps [.fns, .reaches, .jobs, .weir, .slots, .spr,
    .tiles, .cores, .spans, .stores, .hbm, .cfl, .evt, .snp, .lev, .pins, .tx] s (stateAfter (execConditionerOutput
    raw s) s) := by
  unfold execConditionerOutput
  refine Keeps.engineCmd ?_
  refine Keeps.ite ?_ ?_
  · exact Keeps.mono (State.condition_keeps _ _) (by decide)
  · exact Keeps.refl _ _

theorem State.serveEntropy_keeps (s : State) (id : Nat) : Keeps [.fns, .jobs, .spr, .cfl, .evt, .snp, .pins, .tx] s
    (State.serveEntropy s id) := by
  unfold State.serveEntropy
  dsimp -proj only
  split
  · exact Keeps.refl _ _
  · split
    · exact Keeps.refl _ _
    · split
      · exact Keeps.refl _ _
      · refine Keeps.ite ?_ ?_
        · refine Keeps.via (Keeps.set_spr _ _) (by decide) ?_
          refine Keeps.via (State.setJob_keeps _ _) (by decide) ?_
          exact Keeps.mono (State.generate_keeps _ _ _) (by decide)
        · exact Keeps.refl _ _

theorem execDrbgGenerate_keeps (job : Nat) (s : State) : Keeps [.fns, .jobs, .spr, .cfl, .evt, .snp, .pins, .tx] s
    (stateAfter (execDrbgGenerate job s) s) := by
  unfold execDrbgGenerate
  refine Keeps.engineCmd ?_
  exact Keeps.mono (State.serveEntropy_keeps _ _) (by decide)

theorem execDrbgReseed_keeps (s : State) : Keeps [.fns, .jobs, .weir, .slots, .spr, .tiles, .cores, .spans, .stores,
    .hbm, .cfl, .evt, .snp, .pins, .tx] s (stateAfter (execDrbgReseed s) s) := by
  unfold execDrbgReseed
  refine Keeps.engineCmd ?_
  exact Keeps.mono (State.serveSeed_keeps _) (by decide)

theorem execMaskExpanderReseed_keeps (exp : Nat) (s : State) : Keeps [.fns, .spr, .tiles, .cfl, .evt, .snp, .pins,
    .tx] s (stateAfter (execMaskExpanderReseed exp s) s) := by
  unfold execMaskExpanderReseed
  dsimp -proj only
  refine Keeps.engineCmd ?_
  refine Keeps.ite ?_ ?_
  · exact Keeps.mono (State.reseedExp_keeps _ _) (by decide)
  · exact Keeps.refl _ _

theorem execBlindingBufferRefill_keeps (unit : Nat) (s : State) : Keeps [.fns, .spr, .tiles, .cfl, .evt, .snp,
    .pins, .tx] s (stateAfter (execBlindingBufferRefill unit s) s) := by
  unfold execBlindingBufferRefill
  refine Keeps.engineCmd ?_
  refine Keeps.ite ?_ ?_
  · exact Keeps.mono (State.refillBlind_keeps _ _) (by decide)
  · exact Keeps.refl _ _

theorem State.setFifo_keeps (s : State) (fn : Nat) (f : RndFifo) : Keeps [.spr] s (State.setFifo s fn f) := by
  unfold State.setFifo
  dsimp -proj only
  exact Keeps.mono (Keeps.set_spr _ _) (by decide)

theorem State.refillFifo_keeps (s : State) (fn : Nat) : Keeps [.fns, .spr, .cfl, .evt, .snp, .pins, .tx] s
    (State.refillFifo s fn) := by
  unfold State.refillFifo
  dsimp -proj only
  split
  · exact Keeps.refl _ _
  · refine Keeps.ite ?_ ?_
    · refine Keeps.via (State.setFifo_keeps _ _ _) (by decide) ?_
      exact Keeps.mono (State.generate_keeps _ _ _) (by decide)
    · exact Keeps.refl _ _

theorem execRndFifoRefill_keeps (fn : Nat) (s : State) : Keeps [.fns, .spr, .cfl, .evt, .snp, .pins, .tx] s
    (stateAfter (execRndFifoRefill fn s) s) := by
  unfold execRndFifoRefill
  refine Keeps.engineCmd ?_
  exact Keeps.mono (State.refillFifo_keeps _ _) (by decide)

theorem State.readLo_keeps (s : State) (fn : Nat) : Keeps [.fns, .spr, .cfl, .evt, .snp, .pins, .tx] s (State.readLo
    s fn) := by
  unfold State.readLo
  dsimp -proj only
  refine Keeps.ite ?_ ?_
  · refine Keeps.via (State.sent_keeps _ _) (by decide) ?_
    exact Keeps.mono (State.setFifo_keeps _ _ _) (by decide)
  · refine Keeps.via (State.sent_keeps _ _) (by decide) ?_
    split
    · refine Keeps.ite ?_ ?_
      · exact Keeps.mono (State.setFifo_keeps _ _ _) (by decide)
      · refine Keeps.via (State.raiseReach_keeps _ _ _ _) (by decide) ?_
        exact Keeps.mono (State.setFifo_keeps _ _ _) (by decide)
    · exact Keeps.mono (State.setFifo_keeps _ _ _) (by decide)

theorem State.readHi_keeps (s : State) (fn : Nat) : Keeps [.spr, .tx] s (State.readHi s fn) := by
  unfold State.readHi
  dsimp -proj only
  refine Keeps.via (State.sent_keeps _ _) (by decide) ?_
  exact Keeps.mono (State.setFifo_keeps _ _ _) (by decide)

theorem execRndDataLoRead_keeps (fn : Nat) (s : State) : Keeps [.fns, .spr, .cfl, .evt, .snp, .pins, .tx] s
    (stateAfter (execRndDataLoRead fn s) s) := by
  unfold execRndDataLoRead
  refine Keeps.hostCmd ?_
  unfold State.rndRead
  refine Keeps.ite ?_ ?_
  · exact Keeps.refl _ _
  · refine Keeps.ite ?_ ?_
    · exact Keeps.mono (State.sent_keeps _ _) (by decide)
    · dsimp -proj only
      exact Keeps.mono (State.readLo_keeps _ _) (by decide)

theorem execRndDataHiRead_keeps (fn : Nat) (s : State) : Keeps [.spr, .tx] s (stateAfter (execRndDataHiRead fn s) s)
    := by
  unfold execRndDataHiRead
  refine Keeps.hostCmd ?_
  unfold State.rndRead
  refine Keeps.ite ?_ ?_
  · exact Keeps.refl _ _
  · refine Keeps.ite ?_ ?_
    · exact Keeps.mono (State.sent_keeps _ _) (by decide)
    · dsimp -proj only
      exact Keeps.mono (State.readHi_keeps _ _) (by decide)

theorem State.writeSprTest_keeps (s : State) (value : Nat) : Keeps [.spr] s (State.writeSprTest s value) := by
  unfold State.writeSprTest
  dsimp -proj only
  refine Keeps.ite ?_ ?_
  · exact Keeps.mono (Keeps.set_spr _ _) (by decide)
  · exact Keeps.refl _ _

theorem execSprTestWrite_keeps (value : Nat) (s : State) : Keeps [.spr] s (stateAfter (execSprTestWrite value s) s)
    := by
  unfold execSprTestWrite
  refine Keeps.hostCmd ?_
  exact Keeps.mono (State.writeSprTest_keeps _ _) (by decide)

end Sys2Proof.Machine
end

