-- ==== Sys2Proof/Laws/FrameCflOps.lean ====
section
/-! SUPPORT. What each operation of Machine/CflOps.lean can touch. -/

namespace Sys2Proof.Machine

open Sys2Proof

theorem State.portGoes_keeps (s : State) (p : Nat) (st : PortSt) (refuse : Nat) : Keeps [.fns, .cfl, .evt, .snp,
    .pins, .tx] s (State.portGoes s p st refuse) := by
  unfold State.portGoes
  dsimp -proj only
  refine Keeps.ite ?_ ?_
  · exact Keeps.mono (State.setPort_keeps _ _ _) (by decide)
  · refine Keeps.via (State.raise_keeps _ _ _) (by decide) ?_
    exact Keeps.mono (State.setPort_keeps _ _ _) (by decide)

theorem State.dropMsg_keeps (s : State) : Keeps [.cfl] s (State.dropMsg s) := by
  unfold State.dropMsg
  dsimp -proj only
  exact Keeps.mono (Keeps.set_cfl _ _) (by decide)

theorem State.sendAs_keeps (s : State) (seq cls flags reach dst epoch status : Nat) (payload : Bytes) : Keeps [.cfl,
    .tx] s (State.sendAs s seq cls flags reach dst epoch status payload) := by
  unfold State.sendAs
  dsimp -proj only
  split
  · exact Keeps.mono (State.dropMsg_keeps _) (by decide)
  · refine Keeps.via (State.countTx_keeps _) (by decide) ?_
    exact Keeps.mono (State.sendFrame_keeps _ _ _ _ _) (by decide)

theorem State.sendNew_keeps (s : State) (cls reach dst epoch : Nat) (payload : Bytes) : Keeps [.cfl, .tx] s
    (State.sendNew s cls reach dst epoch payload) := by
  unfold State.sendNew
  dsimp -proj only
  refine Keeps.via (State.sendAs_keeps _ _ _ _ _ _ _ _ _) (by decide) ?_
  exact Keeps.mono (Keeps.set_cfl _ _) (by decide)

theorem State.sendLocal_keeps (s : State) (port cls : Nat) (payload : Bytes) : Keeps [.cfl, .tx] s (State.sendLocal
    s port cls payload) := by
  unfold State.sendLocal
  dsimp -proj only
  refine Keeps.via (Keeps.set_cfl _ _) (by decide) ?_
  refine Keeps.via (State.countTx_keeps _) (by decide) ?_
  exact Keeps.mono (State.sendFrame_keeps _ _ _ _ _) (by decide)

theorem State.awaitReply_keeps (s : State) (q : CflReq) : Keeps [.cfl] s (State.awaitReply s q) := by
  unfold State.awaitReply
  dsimp -proj only
  exact Keeps.mono (Keeps.set_cfl _ _) (by decide)

theorem State.dropReq_keeps (s : State) (id : Nat) : Keeps [.cfl] s (State.dropReq s id) := by
  unfold State.dropReq
  dsimp -proj only
  exact Keeps.mono (Keeps.set_cfl _ _) (by decide)

end Sys2Proof.Machine
end

