-- ==== Sys2Proof/Laws/FrameKeyOps.lean ====
section
/-! SUPPORT. What each operation of Machine/KeyOps.lean can touch. -/

namespace Sys2Proof.Machine

open Sys2Proof

theorem State.shareAnew_keeps (s : State) (n : Nat) : Keeps [.kst, .slots] s (State.shareAnew s n) := by
  unfold State.shareAnew
  dsimp -proj only
  refine Keeps.ite ?_ ?_
  · exact Keeps.refl _ _
  · refine Keeps.via (Keeps.set_kst _ _) (by decide) ?_
    exact Keeps.mono (State.setSlot_keeps _ _ _) (by decide)

theorem State.putVault_keeps (s : State) (n : Nat) (copies : List Bytes) : Keeps [.hbm] s (State.putVault s n
    copies) := by
  unfold State.putVault
  split
  · exact Keeps.refl _ _
  · exact Keeps.mono (State.putBytes_keeps _ _ _ _) (by decide)

theorem State.writeBack_keeps (s : State) (n : Nat) : Keeps [.kst, .slots, .hbm] s (State.writeBack s n) := by
  unfold State.writeBack
  refine Keeps.via (State.putVault_keeps _ _ _) (by decide) ?_
  exact Keeps.mono (State.shareAnew_keeps _ _) (by decide)

theorem State.putDesc_keeps (s : State) (n : Nat) : Keeps [.hbm] s (State.putDesc s n) := by
  unfold State.putDesc
  dsimp -proj only
  split
  · exact Keeps.refl _ _
  · exact Keeps.mono (State.putBytes_keeps _ _ _ _) (by decide)

theorem State.touchDesc_keeps (s : State) (r n : Nat) : Keeps [.kst, .hbm] s (State.touchDesc s r n) := by
  unfold State.touchDesc
  dsimp -proj only
  refine Keeps.foldlVia (fun s a => ?_) ?_
  · exact Keeps.mono (State.putDesc_keeps _ _) (by decide)
  · exact Keeps.mono (Keeps.set_kst _ _) (by decide)

theorem State.touchHot_keeps (s : State) (r n : Nat) : Keeps [.kst, .slots, .hbm] s (State.touchHot s r n) := by
  unfold State.touchHot
  dsimp -proj only
  refine Keeps.foldlVia (fun s a => ?_) ?_
  · exact Keeps.mono (State.writeBack_keeps _ _) (by decide)
  · exact Keeps.mono (Keeps.set_kst _ _) (by decide)

theorem State.leaveStores_keeps (s : State) (n : Nat) : Keeps [.reaches, .kst] s (State.leaveStores s n) := by
  unfold State.leaveStores
  dsimp -proj only
  exact Keeps.mono (Keeps.set_reaches_kst _ _ _) (by decide)

theorem State.fillCache_keeps (s : State) (k : PlaceKind) (which r n : Nat) (bs : Bytes) : Keeps [.hbm] s
    (State.fillCache s k which r n bs) := by
  unfold State.fillCache
  split
  · exact Keeps.refl _ _
  · exact Keeps.mono (State.putBytes_keeps _ _ _ _) (by decide)

theorem State.touchCaches_keeps (s : State) (r n : Nat) : Keeps [.reaches, .hbm] s (State.touchCaches s r n) := by
  unfold State.touchCaches
  dsimp -proj only
  split
  · exact Keeps.refl _ _
  · refine Keeps.ite ?_ ?_
    · refine Keeps.ite ?_ ?_
      · refine Keeps.via (State.fillCache_keeps _ _ _ _ _ _) (by decide) ?_
        exact Keeps.mono (State.setReach_keeps _ _ _) (by decide)
      · exact Keeps.mono (State.setReach_keeps _ _ _) (by decide)
    · refine Keeps.ite ?_ ?_
      · refine Keeps.ite ?_ ?_
        · refine Keeps.via (State.fillCache_keeps _ _ _ _ _ _) (by decide) ?_
          exact Keeps.mono (State.setReach_keeps _ _ _) (by decide)
        · exact Keeps.mono (State.setReach_keeps _ _ _) (by decide)
      · refine Keeps.ite ?_ ?_
        · exact Keeps.mono (State.fillCache_keeps _ _ _ _ _ _) (by decide)
        · exact Keeps.refl _ _

theorem State.cacheMce_keeps (s : State) (n : Nat) (x : Slot) : Keeps [.reaches, .hbm] s (State.cacheMce s n x) :=
    by
  unfold State.cacheMce
  dsimp -proj only
  split
  · exact Keeps.refl _ _
  · refine Keeps.ite ?_ ?_
    · refine Keeps.via (State.fillCache_keeps _ _ _ _ _ _) (by decide) ?_
      exact Keeps.mono (State.setReach_keeps _ _ _) (by decide)
    · exact Keeps.refl _ _

theorem State.copyTo_keeps (s : State) (n : Nat) (x : Slot) (gone : Bool) (p : Nat) : Keeps [.cfl, .tx] s
    (State.copyTo s n x gone p) := by
  unfold State.copyTo
  dsimp -proj only
  split
  · exact Keeps.refl _ _
  · split
    · exact Keeps.refl _ _
    · refine Keeps.ite ?_ ?_
      · refine Keeps.via (State.awaitReply_keeps _ _) (by decide) ?_
        exact Keeps.mono (State.sendNew_keeps _ _ _ _ _ _) (by decide)
      · exact Keeps.refl _ _

theorem State.copyWhen_keeps (s : State) (n : Nat) (x : Slot) (gone had : Bool) : Keeps [.cfl, .tx] s
    (State.copyWhen s n x gone had) := by
  unfold State.copyWhen
  refine Keeps.ite ?_ ?_
  · refine Keeps.foldlVia (fun s a => ?_) ?_
    · exact Keeps.mono (State.copyTo_keeps _ _ _ _ _) (by decide)
    · exact Keeps.refl _ _
  · exact Keeps.refl _ _

theorem State.copyAll_keeps (s : State) (n : Nat) (x : Slot) (gone : Bool) : Keeps [.cfl, .tx] s (State.copyAll s n
    x gone) := by
  unfold State.copyAll
  exact Keeps.mono (State.copyWhen_keeps _ _ _ _ _) (by decide)

theorem State.copiesOnLink_keeps (s : State) (p : Nat) : Keeps [.cfl, .tx] s (State.copiesOnLink s p) := by
  unfold State.copiesOnLink
  refine Keeps.ite ?_ ?_
  · refine Keeps.foldlVia (fun s a => ?_) ?_
    · exact Keeps.mono (State.copyTo_keeps _ _ _ _ _) (by decide)
    · exact Keeps.refl _ _
  · exact Keeps.refl _ _

theorem State.storeSlot_keeps (s : State) (n : Nat) (x : Slot) : Keeps [.kst, .slots, .hbm] s (State.storeSlot s n
    x) := by
  unfold State.storeSlot
  refine Keeps.via (State.putDesc_keeps _ _) (by decide) ?_
  refine Keeps.via (State.touchHot_keeps _ _ _) (by decide) ?_
  refine Keeps.via (State.writeBack_keeps _ _) (by decide) ?_
  exact Keeps.mono (State.setSlot_keeps _ _ _) (by decide)

theorem State.writeSlot_keeps (s : State) (n : Nat) (x : Slot) : Keeps [.reaches, .kst, .slots, .hbm, .cfl, .tx] s
    (State.writeSlot s n x) := by
  unfold State.writeSlot
  dsimp -proj only
  refine Keeps.via (State.copyWhen_keeps _ _ _ _ _) (by decide) ?_
  refine Keeps.via (State.cacheMce_keeps _ _ _) (by decide) ?_
  exact Keeps.mono (State.storeSlot_keeps _ _ _) (by decide)

theorem State.loseKey_keeps (s : State) (n : Nat) : Keeps [.jobs] s (State.loseKey s n) := by
  unfold State.loseKey
  exact Keeps.mono (Keeps.set_jobs _ _) (by decide)

theorem State.consumeLeases_keeps (s : State) (x : Slot) : Keeps [.records] s (State.consumeLeases s x) := by
  unfold State.consumeLeases
  dsimp -proj only
  exact Keeps.mono (Keeps.set_records _ _) (by decide)

theorem State.invalidate_keeps (s : State) (n : Nat) : Keeps [.reaches, .jobs, .kst, .slots, .records, .hbm, .cfl,
    .tx] s (State.invalidate s n) := by
  unfold State.invalidate
  dsimp -proj only
  refine Keeps.ite ?_ ?_
  · exact Keeps.refl _ _
  · refine Keeps.via (State.copyAll_keeps _ _ _ _) (by decide) ?_
    refine Keeps.via (State.putDesc_keeps _ _) (by decide) ?_
    refine Keeps.via (State.putVault_keeps _ _ _) (by decide) ?_
    refine Keeps.via (State.leaveStores_keeps _ _) (by decide) ?_
    refine Keeps.via (State.setSlot_keeps _ _ _) (by decide) ?_
    refine Keeps.via (State.loseKey_keeps _ _) (by decide) ?_
    refine Keeps.ite ?_ ?_
    · exact Keeps.mono (State.consumeLeases_keeps _ _) (by decide)
    · exact Keeps.refl _ _

theorem State.wipeRange_keeps (s : State) (base count : Nat) : Keeps [.reaches, .jobs, .kst, .slots, .records, .hbm,
    .cfl, .tx] s (State.wipeRange s base count) := by
  unfold State.wipeRange
  refine Keeps.foldlVia (fun s a => ?_) ?_
  · exact Keeps.mono (State.invalidate_keeps _ _) (by decide)
  · exact Keeps.refl _ _

theorem State.setRecord_keeps (s : State) (r : KeyRec) : Keeps [.records] s (State.setRecord s r) := by
  unfold State.setRecord
  exact Keeps.mono (Keeps.set_records _ _) (by decide)

theorem State.ledgerPulse_keeps (s : State) : Keeps [.rst] s (State.ledgerPulse s) := by
  unfold State.ledgerPulse
  dsimp -proj only
  exact Keeps.mono (Keeps.setR_rst _ _ rfl) (by decide)

theorem State.unusableEvent_keeps (s : State) (keyId : Bytes) : Keeps [.fns, .cfl, .evt, .snp, .pins, .tx] s
    (State.unusableEvent s keyId) := by
  unfold State.unusableEvent
  split
  · exact Keeps.mono (State.raise_keeps _ _ _) (by decide)
  · exact Keeps.refl _ _

theorem State.askLease_keeps (s : State) (n : Nat) (x : Slot) (job : Option Nat) : Keeps [.cfl, .tx] s
    (State.askLease s n x job) := by
  unfold State.askLease
  dsimp -proj only
  refine Keeps.via (State.awaitReply_keeps _ _) (by decide) ?_
  exact Keeps.mono (State.sendNew_keeps _ _ _ _ _ _) (by decide)

theorem State.askNext_keeps (s : State) (n : Nat) : Keeps [.fns, .slots, .cfl, .evt, .snp, .rst, .pins, .tx] s
    (State.askNext s n) := by
  unfold State.askNext
  dsimp -proj only
  refine Keeps.ite ?_ ?_
  · split
    · refine Keeps.via (State.ledgerPulse_keeps _) (by decide) ?_
      exact Keeps.mono (State.setSlot_keeps _ _ _) (by decide)
    · exact Keeps.mono (State.unusableEvent_keeps _ _) (by decide)
  · refine Keeps.ite ?_ ?_
    · exact Keeps.refl _ _
    · exact Keeps.mono (State.askLease_keeps _ _ _ _) (by decide)

theorem Draw.keepsOf {ps : List Part} {s : State} {d e : Draw} (h : d = e) (k : Keeps ps s d.st) : Keeps ps s e.st := h ▸ k

theorem State.takeIndex_keeps (s : State) (n : Nat) (l : Lease) :
    Keeps [.fns, .slots, .cfl, .evt, .snp, .rst, .pins, .tx] s (s.takeIndex n l).st := by
  unfold State.takeIndex
  dsimp -proj only
  show Keeps _ s (ite _ _ _)
  refine Keeps.ite ?_ ?_
  · exact Keeps.via (State.askNext_keeps _ _) (by decide) ((State.setSlot_keeps _ _ _).mono (by decide))
  · exact (State.setSlot_keeps _ _ _).mono (by decide)

theorem State.drawIndex_keeps (s : State) (n job : Nat) :
    Keeps [.fns, .slots, .cfl, .evt, .snp, .rst, .pins, .tx] s (s.drawIndex n job).st := by
  unfold State.drawIndex
  dsimp -proj only
  split
  · exact State.takeIndex_keeps _ _ _
  · split
    · exact Keeps.via (State.takeIndex_keeps _ _ _) (by decide) ((State.setSlot_keeps _ _ _).mono (by decide))
    · split
      · split
        · refine Keeps.via (State.takeIndex_keeps _ _ _) (by decide) ?_
          exact Keeps.via (State.ledgerPulse_keeps _) (by decide) ((State.setSlot_keeps _ _ _).mono (by decide))
        · exact (State.unusableEvent_keeps _ _).mono (by decide)
      · split
        · exact Keeps.refl _ _
        · exact (State.askLease_keeps _ _ _ _).mono (by decide)

theorem State.drawFor_keeps (s : State) (j : Job) :
    Keeps [.fns, .jobs, .weir, .slots, .spr, .tiles, .cores, .spans, .stores, .hbm, .cfl, .evt, .snp, .rst, .pins, .tx] s (s.drawFor j) := by
  have k := State.drawIndex_keeps s j.entry.slot j.id
  unfold State.drawFor
  split
  · rename_i h
    exact Keeps.via (State.setJob_keeps _ _) (by decide) ((Draw.keepsOf h k).mono (by decide))
  · rename_i h
    exact (Draw.keepsOf h k).mono (by decide)
  · rename_i h
    exact Keeps.via (State.endJob_keeps _ _ _ _) (by decide) ((Draw.keepsOf h k).mono (by decide))

theorem State.loadKey_keeps (s : State) (j : Job) : Keeps [.reaches, .jobs, .kst, .slots, .hbm] s (State.loadKey s
    j) := by
  unfold State.loadKey
  refine Keeps.via (State.touchCaches_keeps _ _ _) (by decide) ?_
  refine Keeps.via (State.touchHot_keeps _ _ _) (by decide) ?_
  exact Keeps.mono (State.setJob_keeps _ _) (by decide)

theorem State.takeKey_keeps (s : State) (id : Nat) : Keeps [.fns, .reaches, .jobs, .weir, .kst, .slots, .spr,
    .tiles, .cores, .spans, .stores, .hbm, .cfl, .evt, .snp, .rst, .pins, .tx] s (State.takeKey s id) := by
  unfold State.takeKey
  dsimp -proj only
  split
  · exact Keeps.refl _ _
  · split
    · exact Keeps.refl _ _
    · refine Keeps.ite ?_ ?_
      · exact Keeps.refl _ _
      · refine Keeps.ite ?_ ?_
        · exact Keeps.mono (State.endJob_keeps _ _ _ _) (by decide)
        · refine Keeps.ite ?_ ?_
          · exact Keeps.mono (State.loadKey_keeps _ _) (by decide)
          · refine Keeps.via (State.drawFor_keeps _ _) (by decide) ?_
            refine Keeps.via (State.takeSeq_keeps _) (by decide) ?_
            exact Keeps.mono (State.setJob_keeps _ _) (by decide)

theorem State.drawWaiting_keeps (s : State) (n : Nat) : Keeps [.fns, .reaches, .jobs, .weir, .kst, .slots, .spr,
    .tiles, .cores, .spans, .stores, .hbm, .cfl, .evt, .snp, .rst, .pins, .tx] s (State.drawWaiting s n) := by
  unfold State.drawWaiting
  dsimp -proj only
  refine Keeps.foldlVia (fun s a => ?_) ?_
  · exact Keeps.mono (State.takeKey_keeps _ _) (by decide)
  · exact Keeps.refl _ _

theorem State.commitLease_keeps (s : State) (n : Nat) : Keeps [.slots, .records, .rst] s (State.commitLease s n) :=
    by
  unfold State.commitLease
  dsimp -proj only
  split
  · exact Keeps.refl _ _
  · refine Keeps.ite ?_ ?_
    · refine Keeps.via (State.setSlot_keeps _ _ _) (by decide) ?_
      split
      · exact Keeps.mono (State.setRecord_keeps _ _) (by decide)
      · exact Keeps.mono (Keeps.set_records _ _) (by decide)
    · refine Keeps.via (Keeps.setR_rst _ _ rfl) (by decide) ?_
      refine Keeps.via (State.setSlot_keeps _ _ _) (by decide) ?_
      split
      · exact Keeps.mono (State.setRecord_keeps _ _) (by decide)
      · exact Keeps.mono (Keeps.set_records _ _) (by decide)

theorem State.finishKeygen_keeps (s : State) (n : Nat) : Keeps [.fns, .reaches, .jobs, .weir, .kst, .slots, .spr,
    .tiles, .cores, .spans, .stores, .hbm, .cfl, .evt, .snp, .pins, .tx] s (State.finishKeygen s n) := by
  unfold State.finishKeygen
  split
  · refine Keeps.via (State.endJob_keeps _ _ _ _) (by decide) ?_
    exact Keeps.mono (State.writeSlot_keeps _ _ _) (by decide)
  · exact Keeps.refl _ _

theorem execLeaseCommit_keeps (slot : Nat) (s : State) : Keeps [.fns, .reaches, .jobs, .weir, .kst, .slots,
    .records, .spr, .tiles, .cores, .spans, .stores, .hbm, .cfl, .evt, .snp, .rst, .pins, .tx] s (stateAfter
    (execLeaseCommit slot s) s) := by
  unfold execLeaseCommit
  dsimp -proj only
  refine Keeps.next ?_
  refine Keeps.ite ?_ ?_
  · exact Keeps.refl _ _
  · refine Keeps.ite ?_ ?_
    · refine Keeps.via (State.finishKeygen_keeps _ _) (by decide) ?_
      exact Keeps.mono (State.commitLease_keeps _ _) (by decide)
    · exact Keeps.mono (State.commitLease_keeps _ _) (by decide)

theorem State.query_keeps (s : State) : Keeps [.kst, .hbm] s (State.query s) := by
  unfold State.query
  dsimp -proj only
  refine Keeps.via (Keeps.set_kst _ _) (by decide) ?_
  exact Keeps.mono (State.touchDesc_keeps _ _ _) (by decide)

theorem execQuery_keeps (s : State) : Keeps [.kst, .hbm] s (stateAfter (execQuery s) s) := by
  unfold execQuery
  refine Keeps.hostCmd ?_
  exact Keeps.mono (State.query_keeps _) (by decide)

theorem State.place1_keeps (s : State) : Keeps [.kst, .cfl, .tx] s (State.place1 s) := by
  unfold State.place1
  dsimp -proj only
  refine Keeps.ite ?_ ?_
  · exact Keeps.mono (Keeps.set_kst _ _) (by decide)
  · refine Keeps.ite ?_ ?_
    · exact Keeps.mono (Keeps.set_kst _ _) (by decide)
    · split
      · exact Keeps.mono (Keeps.set_kst _ _) (by decide)
      · refine Keeps.via (Keeps.set_kst _ _) (by decide) ?_
        refine Keeps.via (State.awaitReply_keeps _ _) (by decide) ?_
        exact Keeps.mono (State.sendNew_keeps _ _ _ _ _ _) (by decide)

theorem execPlace_keeps (s : State) : Keeps [.kst, .cfl, .tx] s (stateAfter (execPlace s) s) := by
  unfold execPlace
  refine Keeps.hostCmd ?_
  exact Keeps.mono (State.place1_keeps _) (by decide)

end Sys2Proof.Machine
end

