-- ==== Sys2Proof/Laws/FrameAttest.lean ====
section
/-! SUPPORT. What each operation of Machine/Attest.lean can touch. -/

namespace Sys2Proof.Machine

open Sys2Proof

theorem State.derive_keeps (s : State) : Keeps [.kst] s (State.derive s) := by
  unfold State.derive
  dsimp -proj only
  exact Keeps.mono (Keeps.set_kst _ _) (by decide)

end Sys2Proof.Machine
end

