-- ==== Sys2Proof/Laws/FrameSluice.lean ====
section
/-! SUPPORT. What each operation of Machine/Sluice.lean can touch. -/

namespace Sys2Proof.Machine

open Sys2Proof

theorem State.doorbellError_keeps (s : State) (fn q : Nat) : Keeps [.fns, .queues, .cfl, .evt, .snp, .pins, .tx] s
    (State.doorbellError s fn q) := by
  unfold State.doorbellError
  dsimp -proj only
  split
  · refine Keeps.via (State.raiseReach_keeps _ _ _ _) (by decide) ?_
    exact Keeps.mono (State.setQueue_keeps _ _ _) (by decide)
  · exact Keeps.mono (State.setQueue_keeps _ _ _) (by decide)

theorem State.sqDoorbell_keeps (s : State) (fn q d : Nat) : Keeps [.fns, .queues, .cfl, .evt, .snp, .pins, .tx] s
    (State.sqDoorbell s fn q d) := by
  unfold State.sqDoorbell
  dsimp -proj only
  refine Keeps.ite ?_ ?_
  · exact Keeps.refl _ _
  · refine Keeps.ite ?_ ?_
    · refine Keeps.ite ?_ ?_
      · exact Keeps.refl _ _
      · exact Keeps.mono (State.setQueue_keeps _ _ _) (by decide)
    · exact Keeps.mono (State.doorbellError_keeps _ _ _) (by decide)

theorem State.cqDoorbell_keeps (s : State) (fn q v : Nat) : Keeps [.fns, .queues, .cfl, .evt, .snp, .pins, .tx] s
    (State.cqDoorbell s fn q v) := by
  unfold State.cqDoorbell
  dsimp -proj only
  refine Keeps.ite ?_ ?_
  · exact Keeps.refl _ _
  · refine Keeps.ite ?_ ?_
    · exact Keeps.mono (State.setQueue_keeps _ _ _) (by decide)
    · exact Keeps.mono (State.doorbellError_keeps _ _ _) (by decide)

theorem execSqDoorbell_keeps (fn q value : Nat) (s : State) : Keeps [.fns, .queues, .cfl, .evt, .snp, .pins, .tx] s
    (stateAfter (execSqDoorbell fn q value s) s) := by
  unfold execSqDoorbell
  refine Keeps.hostCmd ?_
  exact Keeps.mono (State.sqDoorbell_keeps _ _ _ _) (by decide)

theorem execCqDoorbell_keeps (fn q value : Nat) (s : State) : Keeps [.fns, .queues, .cfl, .evt, .snp, .pins, .tx] s
    (stateAfter (execCqDoorbell fn q value s) s) := by
  unfold execCqDoorbell
  refine Keeps.hostCmd ?_
  exact Keeps.mono (State.cqDoorbell_keeps _ _ _ _) (by decide)

theorem State.sqFetch_keeps (s : State) : Keeps [.queues, .weir] s (State.sqFetch s) := by
  unfold State.sqFetch
  dsimp -proj only
  split
  · exact Keeps.refl _ _
  · refine Keeps.via (Keeps.set_weir _ _) (by decide) ?_
    exact Keeps.mono (State.setQueue_keeps _ _ _) (by decide)

theorem execSqFetch_keeps (s : State) : Keeps [.queues, .weir] s (stateAfter (execSqFetch s) s) := by
  unfold execSqFetch
  refine Keeps.engineCmd ?_
  refine Keeps.ite ?_ ?_
  · exact Keeps.mono (State.sqFetch_keeps _) (by decide)
  · exact Keeps.refl _ _

theorem State.fenceDone_keeps (s : State) : Keeps [.sluice] s (State.fenceDone s) := by
  unfold State.fenceDone
  dsimp -proj only
  refine Keeps.ite ?_ ?_
  · exact Keeps.mono (Keeps.set_sluice _ _) (by decide)
  · exact Keeps.refl _ _

theorem State.dropJobs_keeps (s : State) (ids : List Nat) : Keeps [.jobs] s (State.dropJobs s ids) := by
  unfold State.dropJobs
  exact Keeps.mono (Keeps.set_jobs _ _) (by decide)

theorem State.emitCompletion_keeps (s : State) (fn q : Nat) (w : Waiting) : Keeps [.fns, .queues, .jobs, .cfl, .evt,
    .snp, .sluice, .pins, .tx] s (State.emitCompletion s fn q w) := by
  unfold State.emitCompletion
  dsimp -proj only
  refine Keeps.via (State.fenceDone_keeps _) (by decide) ?_
  refine Keeps.via (State.signalQueue_keeps _ _ _) (by decide) ?_
  refine Keeps.via (State.dropJobs_keeps _ _) (by decide) ?_
  refine Keeps.via (State.setQueue_keeps _ _ _) (by decide) ?_
  refine Keeps.via (State.sent_keeps _ _) (by decide) ?_
  exact Keeps.mono (Keeps.set_tx _ _) (by decide)

theorem State.writeCompletion_keeps (s : State) (fn q : Nat) (w : Waiting) : Keeps [.fns, .queues, .jobs, .cfl,
    .evt, .snp, .sluice, .pins, .tx] s (State.writeCompletion s fn q w) := by
  unfold State.writeCompletion
  dsimp -proj only
  refine Keeps.ite ?_ ?_
  · exact Keeps.refl _ _
  · refine Keeps.ite ?_ ?_
    · exact Keeps.mono (State.emitCompletion_keeps _ _ _ _) (by decide)
    · exact Keeps.mono (State.setQueue_keeps _ _ _) (by decide)

theorem State.drainCq_keeps : ∀ (n fn q : Nat) (s : State),
    Keeps [.fns, .queues, .jobs, .cfl, .evt, .snp, .sluice, .pins, .tx] s (State.drainCq n fn q s)
  | 0, _, _, s => Keeps.refl _ s
  | n + 1, fn, q, s => by
    unfold State.drainCq
    dsimp -proj only
    split
    · exact (State.setQueue_keeps _ _ _).mono (by decide)
    · refine Keeps.ite (Keeps.refl _ _) (Keeps.ite ((State.setQueue_keeps _ _ _).mono (by decide)) ?_)
      refine Keeps.trans ?_ (State.drainCq_keeps n fn q _)
      exact Keeps.via (State.emitCompletion_keeps _ _ _ _) (by decide) ((State.setQueue_keeps _ _ _).mono (by decide))

theorem State.cqSpace_keeps (s : State) (fn q : Nat) : Keeps [.fns, .queues, .jobs, .cfl, .evt, .snp, .sluice,
    .pins, .tx] s (State.cqSpace s fn q) := by
  unfold State.cqSpace
  exact Keeps.mono (State.drainCq_keeps _ _ _ _) (by decide)

theorem execCqSpaceAvailable_keeps (fn q : Nat) (s : State) : Keeps [.fns, .queues, .jobs, .cfl, .evt, .snp,
    .sluice, .pins, .tx] s (stateAfter (execCqSpaceAvailable fn q s) s) := by
  unfold execCqSpaceAvailable
  refine Keeps.engineCmd ?_
  exact Keeps.mono (State.cqSpace_keeps _ _ _) (by decide)

theorem State.retire_keeps (s : State) (j : Job) : Keeps [.fns, .queues, .jobs, .runs, .cfl, .evt, .snp, .sluice,
    .pins, .tx] s (State.retire s j) := by
  unfold State.retire
  dsimp -proj only
  refine Keeps.ite ?_ ?_
  · refine Keeps.via (State.writeCompletion_keeps _ _ _ _) (by decide) ?_
    refine Keeps.via (State.setJob_keeps _ _) (by decide) ?_
    refine Keeps.via (Keeps.set_runs _ _) (by decide) ?_
    refine Keeps.ite ?_ ?_
    · exact Keeps.refl _ _
    · exact Keeps.mono (Keeps.set_tx _ _) (by decide)
  · refine Keeps.via (State.setJob_keeps _ _) (by decide) ?_
    refine Keeps.via (Keeps.set_runs _ _) (by decide) ?_
    refine Keeps.ite ?_ ?_
    · exact Keeps.refl _ _
    · exact Keeps.mono (Keeps.set_tx _ _) (by decide)

theorem State.answerPeer_keeps (s : State) (j : Job) (port seq : Nat) : Keeps [.jobs, .cfl, .tx] s (State.answerPeer
    s j port seq) := by
  unfold State.answerPeer
  dsimp -proj only
  refine Keeps.via (State.dropJobs_keeps _ _) (by decide) ?_
  refine Keeps.via (State.countTx_keeps _) (by decide) ?_
  exact Keeps.mono (State.sendFrame_keeps _ _ _ _ _) (by decide)

theorem State.trialJob_keeps (s : State) (j : Job) : Keeps [.fwu] s (State.trialJob s j) := by
  unfold State.trialJob
  dsimp -proj only
  refine Keeps.ite ?_ ?_
  · exact Keeps.mono (Keeps.set_fwu _ _) (by decide)
  · exact Keeps.refl _ _

theorem State.jobRetire_keeps (s : State) (id : Nat) : Keeps [.fns, .queues, .jobs, .runs, .cfl, .evt, .snp,
    .sluice, .fwu, .pins, .tx] s (State.jobRetire s id) := by
  unfold State.jobRetire
  split
  · exact Keeps.refl _ _
  · split
    · refine Keeps.ite ?_ ?_
      · refine Keeps.via (State.trialJob_keeps _ _) (by decide) ?_
        exact Keeps.mono (State.answerPeer_keeps _ _ _ _) (by decide)
      · exact Keeps.refl _ _
    · refine Keeps.ite ?_ ?_
      · refine Keeps.via (State.trialJob_keeps _ _) (by decide) ?_
        exact Keeps.mono (State.retire_keeps _ _) (by decide)
      · exact Keeps.refl _ _

theorem execJobRetire_keeps (job : Nat) (s : State) : Keeps [.fns, .queues, .jobs, .runs, .cfl, .evt, .snp, .sluice,
    .fwu, .pins, .tx] s (stateAfter (execJobRetire job s) s) := by
  unfold execJobRetire
  refine Keeps.engineCmd ?_
  refine Keeps.ite ?_ ?_
  · exact Keeps.refl _ _
  · exact Keeps.mono (State.jobRetire_keeps _ _) (by decide)

theorem State.closeRuns_keeps (s : State) (fn q : Nat) : Keeps [.fns, .queues, .jobs, .runs, .cfl, .evt, .snp,
    .sluice, .pins, .tx] s (State.closeRuns s fn q) := by
  unfold State.closeRuns
  dsimp -proj only
  refine Keeps.ite ?_ ?_
  · exact Keeps.refl _ _
  · refine Keeps.foldlVia (fun s a => ?_) ?_
    · exact Keeps.mono (State.writeCompletion_keeps _ _ _ _) (by decide)
    · refine Keeps.via (Keeps.set_runs _ _) (by decide) ?_
      exact Keeps.mono (Keeps.set_jobs _ _) (by decide)

theorem State.closeFnRuns_keeps (s : State) (fn : Nat) : Keeps [.fns, .queues, .jobs, .runs, .cfl, .evt, .snp,
    .sluice, .pins, .tx] s (State.closeFnRuns s fn) := by
  unfold State.closeFnRuns
  refine Keeps.foldlVia (fun s a => ?_) ?_
  · exact Keeps.mono (State.closeRuns_keeps _ _ _) (by decide)
  · exact Keeps.refl _ _

theorem State.reserveImport_keeps (s : State) (id : Nat) : Keeps [.fns, .jobs, .weir, .slots, .spr, .tiles, .cores,
    .spans, .stores, .hbm, .cfl, .evt, .snp, .pins, .tx] s (State.reserveImport s id) := by
  unfold State.reserveImport
  split
  · exact Keeps.refl _ _
  · refine Keeps.ite ?_ ?_
    · exact Keeps.refl _ _
    · split
      · exact Keeps.mono (State.endJob_keeps _ _ _ _) (by decide)
      · refine Keeps.via (State.setSlot_keeps _ _ _) (by decide) ?_
        exact Keeps.mono (State.setJob_keeps _ _) (by decide)

theorem State.checkJob_keeps (s : State) (x : ReachRec) (j : Job) (a : Arrival) : Keeps [.fns, .jobs, .weir, .kst,
    .slots, .spr, .tiles, .cores, .spans, .stores, .hbm, .cfl, .evt, .snp, .pins, .tx] s (State.checkJob s x j a) :=
    by
  unfold State.checkJob
  dsimp -proj only
  split
  · refine Keeps.via (Keeps.set_jobs _ _) (by decide) ?_
    refine Keeps.ite ?_ ?_
    · exact Keeps.mono (State.touchDesc_keeps _ _ _) (by decide)
    · exact Keeps.refl _ _
  · split
    · refine Keeps.via (State.setSlot_keeps _ _ _) (by decide) ?_
      refine Keeps.via (Keeps.set_jobs _ _) (by decide) ?_
      refine Keeps.ite ?_ ?_
      · exact Keeps.mono (State.touchDesc_keeps _ _ _) (by decide)
      · exact Keeps.refl _ _
    · refine Keeps.ite ?_ ?_
      · refine Keeps.via (State.reserveImport_keeps _ _) (by decide) ?_
        refine Keeps.via (Keeps.set_jobs _ _) (by decide) ?_
        refine Keeps.ite ?_ ?_
        · exact Keeps.mono (State.touchDesc_keeps _ _ _) (by decide)
        · exact Keeps.refl _ _
      · refine Keeps.via (Keeps.set_jobs _ _) (by decide) ?_
        refine Keeps.ite ?_ ?_
        · exact Keeps.mono (State.touchDesc_keeps _ _ _) (by decide)
        · exact Keeps.refl _ _

theorem State.fetchError_keeps (s : State) (fn q : Nat) : Keeps [.fns, .queues, .jobs, .runs, .cfl, .evt, .snp,
    .sluice, .pins, .tx] s (State.fetchError s fn q) := by
  unfold State.fetchError
  dsimp -proj only
  split
  · refine Keeps.via (State.raiseReach_keeps _ _ _ _) (by decide) ?_
    refine Keeps.via (State.closeRuns_keeps _ _ _) (by decide) ?_
    exact Keeps.mono (State.setQueue_keeps _ _ _) (by decide)
  · refine Keeps.via (State.closeRuns_keeps _ _ _) (by decide) ?_
    exact Keeps.mono (State.setQueue_keeps _ _ _) (by decide)

theorem State.arrive_keeps (fn q : Nat) (x : ReachRec) : ∀ (as : List Arrival) (s : State),
    Keeps [.fns, .queues, .jobs, .runs, .weir, .kst, .slots, .spr, .tiles, .cores, .spans, .stores, .hbm, .cfl, .evt, .snp, .sluice, .pins, .tx] s (State.arrive fn q x as s)
  | [], s => Keeps.refl _ s
  | a :: as, s => by
    unfold State.arrive
    dsimp -proj only
    refine Keeps.ite ((State.fetchError_keeps _ _ _).mono (by decide)) ?_
    refine Keeps.ite ((State.setQueue_keeps _ _ _).mono (by decide)) ?_
    refine Keeps.trans ?_ (State.arrive_keeps fn q x as _)
    refine Keeps.via (State.checkJob_keeps _ _ _ _) (by decide) ?_
    exact Keeps.via (Keeps.set_weir _ _) (by decide) ((State.setQueue_keeps _ _ _).mono (by decide))

theorem State.entryArrival_keeps (s : State) (fn q : Nat) (es : List Arrival) : Keeps [.fns, .queues, .jobs, .runs,
    .weir, .kst, .slots, .spr, .tiles, .cores, .spans, .stores, .hbm, .cfl, .evt, .snp, .sluice, .pins, .tx] s
    (State.entryArrival s fn q es) := by
  unfold State.entryArrival
  dsimp -proj only
  split
  · exact Keeps.refl _ _
  · refine Keeps.ite ?_ ?_
    · exact Keeps.refl _ _
    · refine Keeps.via (State.arrive_keeps _ _ _ _ _) (by decide) ?_
      exact Keeps.mono (State.setQueue_keeps _ _ _) (by decide)

theorem execEntryArrival_keeps (fn q : Nat) (entries : List Arrival) (s : State) : Keeps [.fns, .queues, .jobs,
    .runs, .weir, .kst, .slots, .spr, .tiles, .cores, .spans, .stores, .hbm, .cfl, .evt, .snp, .sluice, .pins, .tx]
    s (stateAfter (execEntryArrival fn q entries s) s) := by
  unfold execEntryArrival
  refine Keeps.engineCmd ?_
  exact Keeps.mono (State.entryArrival_keeps _ _ _ _) (by decide)

theorem State.tokenAvailable_keeps (s : State) (fn q : Nat) : Keeps [.queues] s (State.tokenAvailable s fn q) := by
  unfold State.tokenAvailable
  dsimp -proj only
  split
  · refine Keeps.ite ?_ ?_
    · exact Keeps.mono (State.setQueue_keeps _ _ _) (by decide)
    · exact Keeps.refl _ _
  · exact Keeps.refl _ _

theorem execTokenAvailable_keeps (fn q : Nat) (s : State) : Keeps [.queues] s (stateAfter (execTokenAvailable fn q
    s) s) := by
  unfold execTokenAvailable
  refine Keeps.engineCmd ?_
  exact Keeps.mono (State.tokenAvailable_keeps _ _ _) (by decide)

theorem State.inputRead_keeps (s : State) (id : Nat) (r : StreamRead) : Keeps [.fns, .jobs, .weir, .slots, .spr,
    .tiles, .cores, .spans, .stores, .hbm, .cfl, .evt, .snp, .pins, .tx] s (State.inputRead s id r) := by
  unfold State.inputRead
  dsimp -proj only
  split
  · exact Keeps.refl _ _
  · refine Keeps.ite ?_ ?_
    · exact Keeps.refl _ _
    · split
      · split
        · exact Keeps.mono (State.failNode_keeps _ _ _ _) (by decide)
        · exact Keeps.mono (State.failJob_keeps _ _ _ _) (by decide)
      · refine Keeps.via (State.reserveImport_keeps _ _) (by decide) ?_
        exact Keeps.mono (State.setJob_keeps _ _) (by decide)
      · refine Keeps.ite ?_ ?_
        · exact Keeps.refl _ _
        · split
          · exact Keeps.mono (State.endJob_keeps _ _ _ _) (by decide)
          · refine Keeps.ite ?_ ?_
            · exact Keeps.mono (State.endJob_keeps _ _ _ _) (by decide)
            · refine Keeps.ite ?_ ?_
              · exact Keeps.mono (State.endJob_keeps _ _ _ _) (by decide)
              · refine Keeps.via (State.reserveImport_keeps _ _) (by decide) ?_
                exact Keeps.mono (State.setJob_keeps _ _) (by decide)

theorem execInputStreamRead_keeps (job : Nat) (read : StreamRead) (s : State) : Keeps [.fns, .jobs, .weir, .slots,
    .spr, .tiles, .cores, .spans, .stores, .hbm, .cfl, .evt, .snp, .pins, .tx] s (stateAfter (execInputStreamRead
    job read s) s) := by
  unfold execInputStreamRead
  refine Keeps.engineCmd ?_
  exact Keeps.mono (State.inputRead_keeps _ _ _) (by decide)

theorem State.setEnable_keeps (s : State) (fn q : Nat) (on : Bool) : Keeps [.fns, .queues, .jobs, .runs, .cfl, .evt,
    .snp, .sluice, .pins, .tx] s (State.setEnable s fn q on) := by
  unfold State.setEnable
  dsimp -proj only
  refine Keeps.ite ?_ ?_
  · exact Keeps.refl _ _
  · refine Keeps.ite ?_ ?_
    · refine Keeps.via (State.closeRuns_keeps _ _ _) (by decide) ?_
      exact Keeps.mono (State.setQueue_keeps _ _ _) (by decide)
    · refine Keeps.ite ?_ ?_
      · exact Keeps.mono (State.setQueue_keeps _ _ _) (by decide)
      · refine Keeps.ite ?_ ?_
        · exact Keeps.mono (State.setQueue_keeps _ _ _) (by decide)
        · refine Keeps.ite ?_ ?_
          · exact Keeps.mono (State.setQueue_keeps _ _ _) (by decide)
          · exact Keeps.mono (State.setQueue_keeps _ _ _) (by decide)

theorem execSluQEnable_keeps (fn q : Nat) (enable : Bool) (s : State) : Keeps [.fns, .queues, .jobs, .runs, .cfl,
    .evt, .snp, .sluice, .pins, .tx] s (stateAfter (execSluQEnable fn q enable s) s) := by
  unfold execSluQEnable
  refine Keeps.hostCmd ?_
  exact Keeps.mono (State.setEnable_keeps _ _ _ _) (by decide)

theorem State.queueReset_keeps (s : State) (fn q : Nat) : Keeps [.queues] s (State.queueReset s fn q) := by
  unfold State.queueReset
  dsimp -proj only
  refine Keeps.ite ?_ ?_
  · exact Keeps.refl _ _
  · refine Keeps.ite ?_ ?_
    · exact Keeps.mono (State.setQueue_keeps _ _ _) (by decide)
    · exact Keeps.mono (State.setQueue_keeps _ _ _) (by decide)

theorem execQueueReset_keeps (fn q : Nat) (s : State) : Keeps [.queues] s (stateAfter (execQueueReset fn q s) s) :=
    by
  unfold execQueueReset
  refine Keeps.hostCmd ?_
  exact Keeps.mono (State.queueReset_keeps _ _ _) (by decide)

theorem State.queueAbort_keeps (s : State) (fn q : Nat) (all : Bool) (cid : Nat) : Keeps [.fns, .queues, .jobs,
    .weir, .slots, .spr, .tiles, .cores, .spans, .stores, .hbm, .cfl, .evt, .snp, .pins, .tx] s (State.queueAbort s
    fn q all cid) := by
  unfold State.queueAbort
  dsimp -proj only
  refine Keeps.ite ?_ ?_
  · exact Keeps.refl _ _
  · refine Keeps.foldlVia (fun s a => ?_) ?_
    · exact Keeps.mono (State.abortJob_keeps _ _) (by decide)
    · exact Keeps.mono (State.setQueue_keeps _ _ _) (by decide)

theorem execSluQAbort_keeps (fn q : Nat) (all : Bool) (cid : Nat) (s : State) : Keeps [.fns, .queues, .jobs, .weir,
    .slots, .spr, .tiles, .cores, .spans, .stores, .hbm, .cfl, .evt, .snp, .pins, .tx] s (stateAfter (execSluQAbort
    fn q all cid s) s) := by
  unfold execSluQAbort
  refine Keeps.hostCmd ?_
  exact Keeps.mono (State.queueAbort_keeps _ _ _ _ _) (by decide)

end Sys2Proof.Machine
end

