-- ==== Sys2Proof/Laws/FrameEvents.lean ====
section
/-! SUPPORT. What each operation of Machine/Events.lean can touch. -/

namespace Sys2Proof.Machine

open Sys2Proof

theorem State.atTime_keeps (s : State) (t : Nat) : Keeps [.now] s (State.atTime s t) := by
  unfold State.atTime
  exact Keeps.mono (Keeps.set_now _ _) (by decide)

theorem State.coalTimer_keeps (s : State) (src : Nat) : Keeps [.now, .fns, .evt, .tx] s (State.coalTimer s src) :=
    by
  unfold State.coalTimer
  dsimp -proj only
  refine Keeps.ite ?_ ?_
  · refine Keeps.via (State.sendEvent_keeps _ _) (by decide) ?_
    exact Keeps.mono (State.atTime_keeps _ _) (by decide)
  · exact Keeps.refl _ _

theorem execEventCoalTimer_keeps (source : Nat) (s : State) : Keeps [.now, .fns, .evt, .tx] s (stateAfter
    (execEventCoalTimer source s) s) := by
  unfold execEventCoalTimer
  refine Keeps.engineCmd ?_
  exact Keeps.mono (State.coalTimer_keeps _ _) (by decide)

theorem State.setMask_keeps (s : State) (src : Nat) (m : Bool) : Keeps [.fns, .evt, .tx] s (State.setMask s src m)
    := by
  unfold State.setMask
  dsimp -proj only
  refine Keeps.ite ?_ ?_
  · refine Keeps.via (State.sendEvent_keeps _ _) (by decide) ?_
    exact Keeps.mono (State.setSource_keeps _ _ _) (by decide)
  · exact Keeps.mono (State.setSource_keeps _ _ _) (by decide)

theorem State.maskWrite_keeps (s : State) (fn value : Nat) : Keeps [.fns, .evt, .tx] s (State.maskWrite s fn value)
    := by
  unfold State.maskWrite
  dsimp -proj only
  refine Keeps.ite ?_ ?_
  · exact Keeps.refl _ _
  · refine Keeps.ite ?_ ?_
    · refine Keeps.ite ?_ ?_
      · exact Keeps.mono (State.setMask_keeps _ _ _) (by decide)
      · exact Keeps.refl _ _
    · refine Keeps.foldlVia (fun s a => ?_) ?_
      · exact Keeps.mono (State.setMask_keeps _ _ _) (by decide)
      · exact Keeps.refl _ _

theorem execEventMaskWrite_keeps (fn value : Nat) (s : State) : Keeps [.fns, .evt, .tx] s (stateAfter
    (execEventMaskWrite fn value s) s) := by
  unfold execEventMaskWrite
  refine Keeps.hostCmd ?_
  exact Keeps.mono (State.maskWrite_keeps _ _ _) (by decide)

theorem State.msixStateChange_keeps (s : State) (fn : Nat) (c : MsixChange) : Keeps [.fns, .evt, .tx] s
    (State.msixStateChange s fn c) := by
  unfold State.msixStateChange
  refine Keeps.ite ?_ ?_
  · unfold State.msixResend
    dsimp -proj only
    refine Keeps.via (State.setFn_keeps _ _ _) (by decide) ?_
    refine Keeps.foldlVia (fun s a => ?_) ?_
    · exact Keeps.mono (State.sent_keeps _ _) (by decide)
    · refine Keeps.foldlVia (fun s a => ?_) ?_
      · exact Keeps.mono (State.sendEvent_keeps _ _) (by decide)
      · exact Keeps.mono (State.setFn_keeps _ _ _) (by decide)
  · exact Keeps.refl _ _

theorem execMsixStateChange_keeps (fn : Nat) (change : MsixChange) (s : State) : Keeps [.fns, .evt, .tx] s
    (stateAfter (execMsixStateChange fn change s) s) := by
  unfold execMsixStateChange
  refine Keeps.hostCmd ?_
  exact Keeps.mono (State.msixStateChange_keeps _ _ _) (by decide)

theorem execTrigIn_keeps (s : State) : Keeps [.fns, .cfl, .evt, .snp, .pins, .tx] s (stateAfter (execTrigIn s) s) :=
    by
  unfold execTrigIn
  refine Keeps.engineCmd ?_
  exact Keeps.mono (State.requestCapture_keeps _ _) (by decide)

theorem execCapture_keeps (s : State) : Keeps [.fns, .cfl, .evt, .snp, .pins, .tx] s (stateAfter (execCapture s) s)
    := by
  unfold execCapture
  refine Keeps.hostCmd ?_
  exact Keeps.mono (State.requestCapture_keeps _ _) (by decide)

theorem execRelease_keeps (s : State) : Keeps [.snp] s (stateAfter (execRelease s) s) := by
  unfold execRelease
  dsimp -proj only
  refine Keeps.hostCmd ?_
  exact Keeps.mono (Keeps.set_snp _ _) (by decide)

theorem execTrigOutPulseEnd_keeps (s : State) : Keeps [.pins] s (stateAfter (execTrigOutPulseEnd s) s) := by
  unfold execTrigOutPulseEnd
  dsimp -proj only
  refine Keeps.next ?_
  exact Keeps.mono (Keeps.set_pins _ _) (by decide)

end Sys2Proof.Machine
end

