-- ==== Sys2Proof/Laws/FrameContexts.lean ====
section
/-! SUPPORT. What each operation of Machine/Contexts.lean can touch. -/

namespace Sys2Proof.Machine

open Sys2Proof

theorem State.setCtx_keeps (s : State) (id i : Nat) (c : CtxPlace) : Keeps [.jobs] s (State.setCtx s id i c) := by
  unfold State.setCtx
  split
  · exact Keeps.refl _ _
  · split
    · exact Keeps.refl _ _
    · exact Keeps.mono (State.setJob_keeps _ _) (by decide)

theorem State.spillCtx_keeps (s : State) (id i : Nat) : Keeps [.jobs, .hbm] s (State.spillCtx s id i) := by
  unfold State.spillCtx
  dsimp -proj only
  split
  · exact Keeps.refl _ _
  · split
    · exact Keeps.refl _ _
    · refine Keeps.via (State.setJob_keeps _ _) (by decide) ?_
      exact Keeps.mono (State.putCtx_keeps _ _ _ _ _) (by decide)

theorem State.makeEntry_keeps (s : State) (b r : Nat) : Keeps [.jobs, .hbm] s (State.makeEntry s b r) := by
  unfold State.makeEntry
  dsimp -proj only
  refine Keeps.ite ?_ ?_
  · exact Keeps.refl _ _
  · split
    · exact Keeps.mono (State.spillCtx_keeps _ _ _) (by decide)
    · exact Keeps.refl _ _

theorem State.saveCtx_keeps (s : State) (id i : Nat) : Keeps [.jobs, .weir, .hbm] s (State.saveCtx s id i) := by
  unfold State.saveCtx
  dsimp -proj only
  split
  · exact Keeps.refl _ _
  · refine Keeps.via (State.takeSeq_keeps _) (by decide) ?_
    refine Keeps.via (State.setCtx_keeps _ _ _ _) (by decide) ?_
    exact Keeps.mono (State.makeEntry_keeps _ _ _) (by decide)

theorem State.refreshSaved_keeps (s : State) (k id i : Nat) : Keeps [.fns, .jobs, .spr, .tiles, .cfl, .evt, .snp,
    .pins, .tx] s (State.refreshSaved s k id i) := by
  unfold State.refreshSaved
  dsimp -proj only
  split
  · exact Keeps.refl _ _
  · split
    · exact Keeps.refl _ _
    · refine Keeps.ite ?_ ?_
      · exact Keeps.refl _ _
      · split
        · refine Keeps.ofPair (by assumption) ?_
          exact Keeps.mono (State.takeBlocks_keeps _ _ _ _) (by decide)
        · split
          · refine Keeps.via (State.setJob_keeps _ _) (by decide) ?_
            refine Keeps.ofPair (by assumption) ?_
            exact Keeps.mono (State.takeBlocks_keeps _ _ _ _) (by decide)
          · refine Keeps.ofPair (by assumption) ?_
            exact Keeps.mono (State.takeBlocks_keeps _ _ _ _) (by decide)

theorem State.saveLane_keeps (s : State) (k : Nat) : Keeps [.fns, .jobs, .weir, .spr, .tiles, .hbm, .cfl, .evt,
    .snp, .pins, .tx] s (State.saveLane s k) := by
  unfold State.saveLane
  refine Keeps.foldlVia (fun s a => ?_) ?_
  · refine Keeps.via (State.saveCtx_keeps _ _ _) (by decide) ?_
    exact Keeps.mono (State.refreshSaved_keeps _ _ _ _) (by decide)
  · exact Keeps.refl _ _

theorem State.restoreCtx_keeps (s : State) (id : Nat) : Keeps [.jobs, .weir, .hbm] s (State.restoreCtx s id) := by
  unfold State.restoreCtx
  split
  · exact Keeps.refl _ _
  · split
    · exact Keeps.mono (State.saveCtx_keeps _ _ _) (by decide)
    · exact Keeps.refl _ _

end Sys2Proof.Machine
end

