-- ==== Sys2Proof/Laws/FrameWeir.lean ====
section
/-! SUPPORT. What each operation of Machine/Weir.lean can touch. -/

namespace Sys2Proof.Machine

open Sys2Proof

theorem State.spillTo_keeps (s : State) (j : Job) (p : Nat) : Keeps [.jobs, .weir, .cfl, .tx] s (State.spillTo s j
    p) := by
  unfold State.spillTo
  dsimp -proj only
  refine Keeps.ite ?_ ?_
  · refine Keeps.via (State.setJob_keeps _ _) (by decide) ?_
    refine Keeps.via (Keeps.set_weir_cfl _ _ _) (by decide) ?_
    refine Keeps.via (State.awaitReply_keeps _ _) (by decide) ?_
    refine Keeps.via (State.countTx_keeps _) (by decide) ?_
    exact Keeps.mono (State.sendFrame_keeps _ _ _ _ _) (by decide)
  · refine Keeps.via (State.setJob_keeps _ _) (by decide) ?_
    refine Keeps.via (State.takeListSeq_keeps _) (by decide) ?_
    refine Keeps.via (Keeps.set_weir _ _) (by decide) ?_
    refine Keeps.via (Keeps.set_weir_cfl _ _ _) (by decide) ?_
    refine Keeps.via (State.awaitReply_keeps _ _) (by decide) ?_
    refine Keeps.via (State.countTx_keeps _) (by decide) ?_
    exact Keeps.mono (State.sendFrame_keeps _ _ _ _ _) (by decide)

theorem State.place_keeps (s : State) (j : Job) : Keeps [.fns, .jobs, .weir, .slots, .spr, .tiles, .cores, .spans,
    .stores, .hbm, .cfl, .evt, .snp, .pins, .tx] s (State.place s j) := by
  unfold State.place
  dsimp -proj only
  split
  · exact Keeps.mono (State.spillTo_keeps _ _ _) (by decide)
  · refine Keeps.ite ?_ ?_
    · exact Keeps.mono (State.setJob_keeps _ _) (by decide)
    · split
      · refine Keeps.ite ?_ ?_
        · exact Keeps.mono (State.setJob_keeps _ _) (by decide)
        · refine Keeps.ite ?_ ?_
          · exact Keeps.mono (State.setJob_keeps _ _) (by decide)
          · refine Keeps.via (State.listFull_keeps _ _) (by decide) ?_
            exact Keeps.mono (State.setJob_keeps _ _) (by decide)
      · refine Keeps.ite ?_ ?_
        · exact Keeps.mono (State.setJob_keeps _ _) (by decide)
        · exact Keeps.mono (State.endJob_keeps _ _ _ _) (by decide)

theorem State.takeToken_keeps (s : State) (r : Nat) : Keeps [.reaches] s (State.takeToken s r) := by
  unfold State.takeToken
  dsimp -proj only
  exact Keeps.mono (State.setReach_keeps _ _ _) (by decide)

theorem State.admitJob_keeps (s : State) (j : Job) : Keeps [.fns, .reaches, .jobs, .weir, .slots, .spr, .tiles,
    .cores, .spans, .stores, .hbm, .cfl, .evt, .snp, .pins, .tx] s (State.admitJob s j) := by
  unfold State.admitJob
  dsimp -proj only
  refine Keeps.ite ?_ ?_
  · exact Keeps.refl _ _
  · refine Keeps.ite ?_ ?_
    · exact Keeps.mono (State.place_keeps _ _) (by decide)
    · refine Keeps.ite ?_ ?_
      · refine Keeps.via (State.place_keeps _ _) (by decide) ?_
        exact Keeps.mono (State.takeToken_keeps _ _) (by decide)
      · refine Keeps.ite ?_ ?_
        · refine Keeps.via (State.takeListSeq_keeps _) (by decide) ?_
          exact Keeps.mono (State.setJob_keeps _ _) (by decide)
        · refine Keeps.via (State.takeListSeq_keeps _) (by decide) ?_
          refine Keeps.via (State.setJob_keeps _ _) (by decide) ?_
          exact Keeps.mono (Keeps.set_weir _ _) (by decide)

theorem State.jobAdmit_keeps (s : State) (id : Nat) : Keeps [.fns, .reaches, .jobs, .weir, .slots, .spr, .tiles,
    .cores, .spans, .stores, .hbm, .cfl, .evt, .snp, .pins, .tx] s (State.jobAdmit s id) := by
  unfold State.jobAdmit
  split
  · exact Keeps.refl _ _
  · refine Keeps.ite ?_ ?_
    · refine Keeps.ite ?_ ?_
      · exact Keeps.mono (State.endJob_keeps _ _ _ _) (by decide)
      · exact Keeps.mono (State.admitJob_keeps _ _) (by decide)
    · exact Keeps.refl _ _

theorem execJobAdmit_keeps (job : Nat) (s : State) : Keeps [.fns, .reaches, .jobs, .weir, .slots, .spr, .tiles,
    .cores, .spans, .stores, .hbm, .cfl, .evt, .snp, .pins, .tx] s (stateAfter (execJobAdmit job s) s) := by
  unfold execJobAdmit
  refine Keeps.engineCmd ?_
  exact Keeps.mono (State.jobAdmit_keeps _ _) (by decide)

theorem State.instantiateJob_keeps (s : State) (id : Nat) : Keeps [.fns, .reaches, .jobs, .weir, .slots, .spr,
    .tiles, .cores, .spans, .stores, .hbm, .cfl, .evt, .snp, .pins, .tx] s (State.instantiateJob s id) := by
  unfold State.instantiateJob
  dsimp -proj only
  split
  · exact Keeps.refl _ _
  · refine Keeps.ite ?_ ?_
    · exact Keeps.refl _ _
    · refine Keeps.ite ?_ ?_
      · refine Keeps.via (State.settleNodes_keeps _ _) (by decide) ?_
        exact Keeps.mono (State.setJob_keeps _ _) (by decide)
      · refine Keeps.ite ?_ ?_
        · exact Keeps.mono (State.setJob_keeps _ _) (by decide)
        · refine Keeps.via (State.raiseBasin_keeps _ _ _ _) (by decide) ?_
          exact Keeps.mono (State.setJob_keeps _ _) (by decide)

theorem execTemplateInstantiate_keeps (job : Nat) (s : State) : Keeps [.fns, .reaches, .jobs, .weir, .slots, .spr,
    .tiles, .cores, .spans, .stores, .hbm, .cfl, .evt, .snp, .pins, .tx] s (stateAfter (execTemplateInstantiate job
    s) s) := by
  unfold execTemplateInstantiate
  refine Keeps.engineCmd ?_
  exact Keeps.mono (State.instantiateJob_keeps _ _) (by decide)

theorem State.timedRelease_keeps (s : State) (id : Nat) : Keeps [.now, .jobs] s (State.timedRelease s id) := by
  unfold State.timedRelease
  split
  · exact Keeps.refl _ _
  · refine Keeps.ite ?_ ?_
    · refine Keeps.via (State.setJob_keeps _ _) (by decide) ?_
      exact Keeps.mono (State.atTime_keeps _ _) (by decide)
    · exact Keeps.refl _ _

theorem execTimedRelease_keeps (job : Nat) (s : State) : Keeps [.now, .jobs] s (stateAfter (execTimedRelease job s)
    s) := by
  unfold execTimedRelease
  refine Keeps.engineCmd ?_
  exact Keeps.mono (State.timedRelease_keeps _ _) (by decide)

theorem State.rateRelease_keeps (s : State) (r : Nat) : Keeps [.now, .fns, .reaches, .jobs, .weir, .slots, .spr,
    .tiles, .cores, .spans, .stores, .hbm, .cfl, .evt, .snp, .pins, .tx] s (State.rateRelease s r) := by
  unfold State.rateRelease
  refine Keeps.ite ?_ ?_
  · exact Keeps.refl _ _
  · split
    · refine Keeps.ite ?_ ?_
      · exact Keeps.refl _ _
      · refine Keeps.via (State.place_keeps _ _) (by decide) ?_
        refine Keeps.via (State.takeToken_keeps _ _) (by decide) ?_
        exact Keeps.mono (State.atTime_keeps _ _) (by decide)
    · exact Keeps.refl _ _

theorem execRateLimitRelease_keeps (reach : Nat) (s : State) : Keeps [.now, .fns, .reaches, .jobs, .weir, .slots,
    .spr, .tiles, .cores, .spans, .stores, .hbm, .cfl, .evt, .snp, .pins, .tx] s (stateAfter (execRateLimitRelease
    reach s) s) := by
  unfold execRateLimitRelease
  refine Keeps.engineCmd ?_
  exact Keeps.mono (State.rateRelease_keeps _ _) (by decide)

theorem State.creditRounds_keeps (s : State) (b c : Nat) (pool busy rs : List Nat) : Keeps [.weir] s
    (State.creditRounds s b c pool busy rs) := by
  unfold State.creditRounds
  dsimp -proj only
  refine Keeps.foldlVia (fun s a => ?_) ?_
  · exact Keeps.mono (State.setCredit_keeps _ _ _ _ _) (by decide)
  · refine Keeps.foldlVia (fun s a => ?_) ?_
    · exact Keeps.mono (State.setCredit_keeps _ _ _ _ _) (by decide)
    · exact Keeps.refl _ _

theorem State.pooledChoice_keeps (s : State) (c : NodeClass) (i b : Nat) (xs : List Cand) : Keeps [.weir] s
    (State.pooledChoice s c i b xs).2 := by
  unfold State.pooledChoice
  dsimp -proj only
  split
  · refine Keeps.snd ?_
    exact Keeps.refl _ _
  · split
    · refine Keeps.snd ?_
      exact Keeps.mono (State.creditRounds_keeps _ _ _ _ _ _) (by decide)
    · refine Keeps.snd ?_
      exact Keeps.mono (State.creditRounds_keeps _ _ _ _ _ _) (by decide)

theorem State.chooseNode_keeps (s : State) (c : NodeClass) (i b : Nat) : Keeps [.weir] s (State.chooseNode s c i
    b).2 := by
  unfold State.chooseNode
  dsimp -proj only
  split
  · refine Keeps.snd ?_
    exact Keeps.refl _ _
  · refine Keeps.snd ?_
    exact Keeps.refl _ _
  · split
    · exact Keeps.mono (State.pooledChoice_keeps _ _ _ _ _) (by decide)
    · refine Keeps.snd ?_
      exact Keeps.refl _ _
    · refine Keeps.snd ?_
      exact Keeps.refl _ _

theorem State.startCore_keeps (s : State) (i : Nat) (j : Job) (n : NodeRec) (owner : Bool) : Keeps [.cores] s
    (State.startCore s i j n owner) := by
  unfold State.startCore
  dsimp -proj only
  split
  · exact Keeps.mono (State.setCore_keeps _ _ _) (by decide)
  · exact Keeps.mono (State.setCore_keeps _ _ _) (by decide)

theorem State.passRandom_keeps (s : State) (k r order : Nat) : Keeps [.fns, .spr, .tiles, .cfl, .evt, .snp, .pins,
    .tx] s (State.passRandom s k r order) := by
  unfold State.passRandom
  split
  · exact Keeps.refl _ _
  · refine Keeps.ite ?_ ?_
    · refine Keeps.ite ?_ ?_
      · exact Keeps.mono (State.turnExp_keeps _ _) (by decide)
      · exact Keeps.refl _ _
    · refine Keeps.ite ?_ ?_
      · exact Keeps.refl _ _
      · exact Keeps.mono (State.turnExp_keeps _ _) (by decide)

theorem State.backOff_keeps (s : State) (j : Job) (i : Nat) (n : Node) (span : Nat) : Keeps [.fns, .jobs, .weir,
    .cfl, .evt, .snp, .pins, .tx] s (State.backOff s j i n span) := by
  unfold State.backOff
  refine Keeps.ite ?_ ?_
  · exact Keeps.mono (State.setJob_keeps _ _) (by decide)
  · refine Keeps.via (State.listFull_keeps _ _) (by decide) ?_
    exact Keeps.mono (State.setJob_keeps _ _) (by decide)

theorem State.nodeFault_keeps (s : State) (id i : Nat) : Keeps [.fns, .jobs, .weir, .slots, .spr, .tiles, .cores,
    .spans, .stores, .hbm, .cfl, .evt, .snp, .pins, .tx] s (State.nodeFault s id i) := by
  unfold State.nodeFault
  dsimp -proj only
  split
  · refine Keeps.via (State.abandon_keeps _ _ _) (by decide) ?_
    exact Keeps.mono (State.countAbandon_keeps _ _) (by decide)
  · split
    · refine Keeps.via (State.abandon_keeps _ _ _) (by decide) ?_
      exact Keeps.mono (State.countAbandon_keeps _ _) (by decide)
    · refine Keeps.ite ?_ ?_
      · refine Keeps.via (State.abandon_keeps _ _ _) (by decide) ?_
        exact Keeps.mono (State.countAbandon_keeps _ _) (by decide)
      · refine Keeps.ite ?_ ?_
        · refine Keeps.via (State.failJob_keeps _ _ _ _) (by decide) ?_
          refine Keeps.via (State.abandon_keeps _ _ _) (by decide) ?_
          exact Keeps.mono (State.countAbandon_keeps _ _) (by decide)
        · refine Keeps.via (State.backOff_keeps _ _ _ _ _) (by decide) ?_
          refine Keeps.via (State.abandon_keeps _ _ _) (by decide) ?_
          exact Keeps.mono (State.countAbandon_keeps _ _) (by decide)

theorem State.staleRole_keeps (s : State) (j : Job) (i : Nat) (n : Node) : Keeps [.fns, .reaches, .jobs, .weir,
    .cfl, .evt, .snp, .pins, .tx] s (State.staleRole s j i n) := by
  unfold State.staleRole
  dsimp -proj only
  refine Keeps.via (State.backOff_keeps _ _ _ _ _) (by decide) ?_
  exact Keeps.mono (State.setReach_keeps _ _ _) (by decide)

theorem State.runNode_keeps (s : State) (c : NodeClass) (k i : Nat) (j : Job) (x : Nat) (n : Node) : Keeps [.fns,
    .reaches, .jobs, .weir, .kst, .slots, .spr, .tiles, .cores, .spans, .stores, .hbm, .cfl, .evt, .snp, .rst,
    .pins, .tx] s (State.runNode s c k i j x n) := by
  unfold State.runNode
  dsimp -proj only
  refine Keeps.ite ?_ ?_
  · refine Keeps.via (State.markDispatch_keeps _ _) (by decide) ?_
    refine Keeps.ite ?_ ?_
    · refine Keeps.via (State.startCore_keeps _ _ _ _ _) (by decide) ?_
      refine Keeps.foldlVia (fun s a => ?_) ?_
      · refine Keeps.ite ?_ ?_
        · exact Keeps.mono (State.passRandom_keeps _ _ _ _) (by decide)
        · exact Keeps.refl _ _
      · refine Keeps.foldlVia (fun s a => ?_) ?_
        · refine Keeps.via (State.setTile_keeps _ _ _) (by decide) ?_
          refine Keeps.ite ?_ ?_
          · exact Keeps.mono (State.saveLane_keeps _ _) (by decide)
          · exact Keeps.refl _ _
        · exact Keeps.mono (State.setJob_keeps _ _) (by decide)
    · refine Keeps.foldlVia (fun s a => ?_) ?_
      · refine Keeps.ite ?_ ?_
        · exact Keeps.mono (State.passRandom_keeps _ _ _ _) (by decide)
        · exact Keeps.refl _ _
      · refine Keeps.foldlVia (fun s a => ?_) ?_
        · refine Keeps.via (State.setTile_keeps _ _ _) (by decide) ?_
          refine Keeps.ite ?_ ?_
          · exact Keeps.mono (State.saveLane_keeps _ _) (by decide)
          · exact Keeps.refl _ _
        · exact Keeps.mono (State.setJob_keeps _ _) (by decide)
  · refine Keeps.via (State.takeKey_keeps _ _) (by decide) ?_
    refine Keeps.via (State.markDispatch_keeps _ _) (by decide) ?_
    refine Keeps.ite ?_ ?_
    · refine Keeps.via (State.startCore_keeps _ _ _ _ _) (by decide) ?_
      refine Keeps.foldlVia (fun s a => ?_) ?_
      · refine Keeps.ite ?_ ?_
        · exact Keeps.mono (State.passRandom_keeps _ _ _ _) (by decide)
        · exact Keeps.refl _ _
      · refine Keeps.foldlVia (fun s a => ?_) ?_
        · refine Keeps.via (State.setTile_keeps _ _ _) (by decide) ?_
          refine Keeps.ite ?_ ?_
          · exact Keeps.mono (State.saveLane_keeps _ _) (by decide)
          · exact Keeps.refl _ _
        · exact Keeps.mono (State.setJob_keeps _ _) (by decide)
    · refine Keeps.foldlVia (fun s a => ?_) ?_
      · refine Keeps.ite ?_ ?_
        · exact Keeps.mono (State.passRandom_keeps _ _ _ _) (by decide)
        · exact Keeps.refl _ _
      · refine Keeps.foldlVia (fun s a => ?_) ?_
        · refine Keeps.via (State.setTile_keeps _ _ _) (by decide) ?_
          refine Keeps.ite ?_ ?_
          · exact Keeps.mono (State.saveLane_keeps _ _) (by decide)
          · exact Keeps.refl _ _
        · exact Keeps.mono (State.setJob_keeps _ _) (by decide)

theorem State.spanFor_keeps (s : State) (i : Nat) (j : Job) (x : Nat) : Keeps [.spans] s ((State.spanFor s i j
    x).getD s) := by
  unfold State.spanFor
  refine Keeps.iteGetD ?_ ?_
  · exact Keeps.getDNone
  · exact Keeps.mono (State.takeSpan_keeps _ _ _ _ _ _) (by decide)

theorem State.checkRecord_keeps (s : State) (j : Job) (x : Nat) (n : Node) : Keeps [.fns, .jobs, .weir, .slots,
    .spr, .tiles, .cores, .spans, .stores, .hbm, .cfl, .evt, .snp, .pins, .tx] s (State.checkRecord s j x n) := by
  unfold State.checkRecord
  refine Keeps.ite ?_ ?_
  · exact Keeps.mono (State.nodeFault_keeps _ _ _) (by decide)
  · exact Keeps.refl _ _

theorem State.dispatchTo_keeps (s : State) (c : NodeClass) (i : Nat) (cand : Cand) : Keeps [.fns, .reaches, .jobs,
    .weir, .kst, .slots, .spr, .tiles, .cores, .spans, .stores, .hbm, .cfl, .evt, .snp, .rst, .pins, .tx] s
    (State.dispatchTo s c i cand) := by
  unfold State.dispatchTo
  dsimp -proj only
  split
  · exact Keeps.refl _ _
  · split
    · exact Keeps.refl _ _
    · refine Keeps.ite ?_ ?_
      · exact Keeps.mono (State.staleRole_keeps _ _ _ _) (by decide)
      · refine Keeps.ite ?_ ?_
        · split
          · refine Keeps.via (State.checkRecord_keeps _ _ _ _) (by decide) ?_
            exact Keeps.mono (State.runNode_keeps _ _ _ _ _ _ _) (by decide)
          · exact Keeps.refl _ _
        · refine Keeps.ite ?_ ?_
          · split
            · refine Keeps.via (State.runNode_keeps _ _ _ _ _ _ _) (by decide) ?_
              refine Keeps.ofSome (by assumption) ?_
              exact Keeps.mono (State.spanFor_keeps _ _ _ _) (by decide)
            · exact Keeps.mono (State.setJob_keeps _ _) (by decide)
          · exact Keeps.mono (State.runNode_keeps _ _ _ _ _ _ _) (by decide)

theorem State.strandedDispatch_keeps (s : State) (k : Nat) : Keeps [.fns, .reaches, .jobs, .weir, .cfl, .evt, .snp,
    .pins, .tx] s (State.strandedDispatch s k) := by
  unfold State.strandedDispatch
  split
  · exact Keeps.refl _ _
  · split
    · exact Keeps.refl _ _
    · split
      · exact Keeps.mono (State.staleRole_keeps _ _ _ _) (by decide)
      · exact Keeps.refl _ _

theorem State.nodeDispatch_keeps (s : State) (c : NodeClass) (i : Nat) : Keeps [.fns, .reaches, .jobs, .weir, .kst,
    .slots, .spr, .tiles, .cores, .spans, .stores, .hbm, .cfl, .evt, .snp, .rst, .pins, .tx] s (State.nodeDispatch s
    c i) := by
  unfold State.nodeDispatch
  dsimp -proj only
  refine Keeps.ite ?_ ?_
  · refine Keeps.ite ?_ ?_
    · exact Keeps.refl _ _
    · exact Keeps.mono (State.strandedDispatch_keeps _ _) (by decide)
  · split
    · exact Keeps.refl _ _
    · refine Keeps.via (State.dispatchTo_keeps _ _ _ _) (by decide) ?_
      exact Keeps.mono (State.chooseNode_keeps _ _ _ _) (by decide)

theorem execNodeDispatch_keeps (cls tile : Nat) (s : State) : Keeps [.fns, .reaches, .jobs, .weir, .kst, .slots,
    .spr, .tiles, .cores, .spans, .stores, .hbm, .cfl, .evt, .snp, .rst, .pins, .tx] s (stateAfter (execNodeDispatch
    cls tile s) s) := by
  unfold execNodeDispatch
  refine Keeps.engineCmd ?_
  split
  · exact Keeps.mono (State.nodeDispatch_keeps _ _ _) (by decide)
  · exact Keeps.refl _ _

theorem State.passMemory_keeps (s : State) (id i : Nat) : Keeps [.tiles] s (State.passMemory s id i) := by
  unfold State.passMemory
  dsimp -proj only
  exact Keeps.mono (Keeps.set_tiles _ _) (by decide)

theorem State.finishNode_keeps (s : State) (id i : Nat) : Keeps [.fns, .reaches, .jobs, .weir, .slots, .spr, .tiles,
    .cores, .spans, .stores, .hbm, .cfl, .evt, .snp, .pins, .tx] s (State.finishNode s id i) := by
  unfold State.finishNode
  dsimp -proj only
  split
  · refine Keeps.via (Keeps.set_spans _ _) (by decide) ?_
    refine Keeps.via (State.leaveTiles_keeps _ _ _) (by decide) ?_
    exact Keeps.mono (State.passMemory_keeps _ _ _) (by decide)
  · split
    · refine Keeps.via (Keeps.set_spans _ _) (by decide) ?_
      refine Keeps.via (State.leaveTiles_keeps _ _ _) (by decide) ?_
      exact Keeps.mono (State.passMemory_keeps _ _ _) (by decide)
    · refine Keeps.ite ?_ ?_
      · refine Keeps.via (State.sweepJobs_keeps _) (by decide) ?_
        refine Keeps.via (State.setJob_keeps _ _) (by decide) ?_
        refine Keeps.via (Keeps.set_spans _ _) (by decide) ?_
        refine Keeps.via (State.leaveTiles_keeps _ _ _) (by decide) ?_
        exact Keeps.mono (State.passMemory_keeps _ _ _) (by decide)
      · refine Keeps.via (State.settleNodes_keeps _ _) (by decide) ?_
        refine Keeps.via (State.sweepJobs_keeps _) (by decide) ?_
        refine Keeps.via (State.setJob_keeps _ _) (by decide) ?_
        refine Keeps.via (Keeps.set_spans _ _) (by decide) ?_
        refine Keeps.via (State.leaveTiles_keeps _ _ _) (by decide) ?_
        exact Keeps.mono (State.passMemory_keeps _ _ _) (by decide)

theorem State.repeatLoop_keeps (s : State) (id : Nat) : Keeps [.fns, .reaches, .jobs, .weir, .slots, .spr, .tiles,
    .cores, .spans, .stores, .hbm, .cfl, .evt, .snp, .pins, .tx] s (State.repeatLoop s id) := by
  unfold State.repeatLoop
  dsimp -proj only
  split
  · exact Keeps.refl _ _
  · refine Keeps.via (State.wakeNodes_keeps _ _) (by decide) ?_
    exact Keeps.mono (State.setJob_keeps _ _) (by decide)

theorem State.nodeBlocks_keeps (s : State) (j : Job) (i : Nat) (n : Node) (need : Nat) : Keeps [.fns, .jobs, .spr,
    .tiles, .cfl, .evt, .snp, .pins, .tx] s (State.nodeBlocks s j i n need).2 := by
  unfold State.nodeBlocks
  dsimp -proj only
  refine Keeps.iteSnd ?_ ?_
  · refine Keeps.snd ?_
    refine Keeps.foldlVia (fun s a => ?_) ?_
    · exact Keeps.mono (State.throttleTile_keeps _ _ _) (by decide)
    · refine Keeps.via (State.setJob_keeps _ _) (by decide) ?_
      refine Keeps.foldlVia (fun s a => ?_) ?_
      · exact Keeps.mono (State.takeBlocks_keeps _ _ _ _) (by decide)
      · exact Keeps.refl _ _
  · refine Keeps.snd ?_
    refine Keeps.via (State.setJob_keeps _ _) (by decide) ?_
    refine Keeps.foldlVia (fun s a => ?_) ?_
    · exact Keeps.mono (State.takeBlocks_keeps _ _ _ _) (by decide)
    · exact Keeps.refl _ _

theorem State.nodeMasks_keeps (s : State) (id i : Nat) : Keeps [.fns, .jobs, .spr, .tiles, .cfl, .evt, .snp, .pins,
    .tx] s (State.nodeMasks s id i).2 := by
  unfold State.nodeMasks
  dsimp -proj only
  split
  · refine Keeps.snd ?_
    exact Keeps.refl _ _
  · split
    · refine Keeps.snd ?_
      exact Keeps.refl _ _
    · split
      · refine Keeps.iteSnd ?_ ?_
        · refine Keeps.snd ?_
          exact Keeps.refl _ _
        · refine Keeps.iteSnd ?_ ?_
          · split
            · refine Keeps.snd ?_
              refine Keeps.via (State.setJob_keeps _ _) (by decide) ?_
              refine Keeps.ofPair (by assumption) ?_
              exact Keeps.mono (State.takeWords_keeps _ _ _) (by decide)
            · refine Keeps.snd ?_
              refine Keeps.ofPair (by assumption) ?_
              exact Keeps.mono (State.takeWords_keeps _ _ _) (by decide)
          · exact Keeps.mono (State.nodeBlocks_keeps _ _ _ _ _) (by decide)
      · refine Keeps.snd ?_
        exact Keeps.refl _ _

theorem State.endRoutine_keeps (s : State) (j : Job) (i : Nat) (n : Node) (again : Bool) : Keeps [.fns, .reaches,
    .jobs, .weir, .slots, .spr, .tiles, .cores, .spans, .stores, .hbm, .cfl, .evt, .snp, .pins, .tx] s
    (State.endRoutine s j i n again) := by
  unfold State.endRoutine
  refine Keeps.ite ?_ ?_
  · refine Keeps.ite ?_ ?_
    · exact Keeps.refl _ _
    · refine Keeps.ite ?_ ?_
      · refine Keeps.via (State.repeatLoop_keeps _ _) (by decide) ?_
        exact Keeps.mono (State.leaveTiles_keeps _ _ _) (by decide)
      · exact Keeps.mono (State.finishNode_keeps _ _ _) (by decide)
  · exact Keeps.mono (State.finishNode_keeps _ _ _) (by decide)

theorem State.nodeComplete_keeps (s : State) (id i : Nat) (again : Bool) : Keeps [.fns, .reaches, .jobs, .weir,
    .slots, .spr, .tiles, .cores, .spans, .stores, .hbm, .cfl, .evt, .snp, .pins, .tx] s (State.nodeComplete s id i
    again) := by
  unfold State.nodeComplete
  dsimp -proj only
  split
  · exact Keeps.mono (State.dropNode_keeps _ _ _) (by decide)
  · split
    · exact Keeps.refl _ _
    · refine Keeps.ite ?_ ?_
      · exact Keeps.refl _ _
      · refine Keeps.ite ?_ ?_
        · exact Keeps.refl _ _
        · refine Keeps.ite ?_ ?_
          · exact Keeps.refl _ _
          · refine Keeps.ite ?_ ?_
            · split
              · refine Keeps.via (State.endRoutine_keeps _ _ _ _ _) (by decide) ?_
                exact Keeps.mono (State.nodeMasks_keeps _ _ _) (by decide)
              · exact Keeps.mono (State.nodeMasks_keeps _ _ _) (by decide)
            · exact Keeps.mono (State.nodeMasks_keeps _ _ _) (by decide)

theorem execNodeComplete_keeps (job node : Nat) (again : Bool) (s : State) : Keeps [.fns, .reaches, .jobs, .weir,
    .slots, .spr, .tiles, .cores, .spans, .stores, .hbm, .cfl, .evt, .snp, .pins, .tx] s (stateAfter
    (execNodeComplete job node again s) s) := by
  unfold execNodeComplete
  refine Keeps.engineCmd ?_
  exact Keeps.mono (State.nodeComplete_keeps _ _ _ _) (by decide)

theorem State.nodeInterrupt_keeps (s : State) (id i k : Nat) : Keeps [.fns, .reaches, .jobs, .weir, .slots, .spr,
    .tiles, .cores, .spans, .stores, .hbm, .cfl, .evt, .snp, .pins, .tx] s (State.nodeInterrupt s id i k) := by
  unfold State.nodeInterrupt
  dsimp -proj only
  split
  · split
    · refine Keeps.via (State.setJob_keeps _ _) (by decide) ?_
      refine Keeps.via (State.readyNode_keeps _ _ _) (by decide) ?_
      refine Keeps.via (State.abandon_keeps _ _ _) (by decide) ?_
      exact Keeps.mono (State.countAbandon_keeps _ _) (by decide)
    · refine Keeps.via (State.readyNode_keeps _ _ _) (by decide) ?_
      refine Keeps.via (State.abandon_keeps _ _ _) (by decide) ?_
      exact Keeps.mono (State.countAbandon_keeps _ _) (by decide)
  · refine Keeps.via (State.readyNode_keeps _ _ _) (by decide) ?_
    refine Keeps.via (State.abandon_keeps _ _ _) (by decide) ?_
    exact Keeps.mono (State.countAbandon_keeps _ _) (by decide)

theorem State.backoffExpiry_keeps (s : State) (id i : Nat) : Keeps [.now, .fns, .reaches, .jobs, .weir, .slots,
    .spr, .tiles, .cores, .spans, .stores, .hbm, .cfl, .evt, .snp, .pins, .tx] s (State.backoffExpiry s id i) := by
  unfold State.backoffExpiry
  split
  · exact Keeps.refl _ _
  · split
    · exact Keeps.refl _ _
    · split
      · refine Keeps.ite ?_ ?_
        · exact Keeps.refl _ _
        · refine Keeps.ite ?_ ?_
          · refine Keeps.via (State.readyNode_keeps _ _ _) (by decide) ?_
            exact Keeps.mono (State.atTime_keeps _ _) (by decide)
          · refine Keeps.via (State.failJob_keeps _ _ _ _) (by decide) ?_
            exact Keeps.mono (State.atTime_keeps _ _) (by decide)
      · exact Keeps.refl _ _

theorem execBackoffExpiry_keeps (job node : Nat) (s : State) : Keeps [.now, .fns, .reaches, .jobs, .weir, .slots,
    .spr, .tiles, .cores, .spans, .stores, .hbm, .cfl, .evt, .snp, .pins, .tx] s (stateAfter (execBackoffExpiry job
    node s) s) := by
  unfold execBackoffExpiry
  refine Keeps.engineCmd ?_
  exact Keeps.mono (State.backoffExpiry_keeps _ _ _) (by decide)

theorem State.slotEnds_keeps (s : State) (k : Nat) : Keeps [.fns, .reaches, .jobs, .weir, .slots, .spr, .tiles,
    .cores, .spans, .stores, .hbm, .cfl, .evt, .snp, .pins, .tx] s (State.slotEnds s k) := by
  unfold State.slotEnds
  dsimp -proj only
  split
  · refine Keeps.ite ?_ ?_
    · refine Keeps.via (State.nodeInterrupt_keeps _ _ _ _) (by decide) ?_
      split
      · exact Keeps.mono (State.setStore_keeps _ _ _) (by decide)
      · exact Keeps.refl _ _
    · exact Keeps.refl _ _
  · exact Keeps.refl _ _

theorem State.slotReseed_keeps (s : State) (k : Nat) : Keeps [.fns, .spr, .tiles, .cfl, .evt, .snp, .pins, .tx] s
    (State.slotReseed s k) := by
  unfold State.slotReseed
  split
  · split
    · refine Keeps.ite ?_ ?_
      · exact Keeps.refl _ _
      · refine Keeps.ite ?_ ?_
        · exact Keeps.mono (State.reseedExp_keeps _ _) (by decide)
        · exact Keeps.mono (State.turnExp_keeps _ _) (by decide)
    · exact Keeps.refl _ _
  · exact Keeps.refl _ _

theorem State.frameSlot_keeps (s : State) : Keeps [.now, .fns, .reaches, .jobs, .weir, .slots, .spr, .tiles, .cores,
    .spans, .stores, .hbm, .cfl, .evt, .snp, .pins, .tx] s (State.frameSlot s) := by
  unfold State.frameSlot
  dsimp -proj only
  refine Keeps.ite ?_ ?_
  · exact Keeps.refl _ _
  · refine Keeps.foldlVia (fun s a => ?_) ?_
    · exact Keeps.mono (State.slotReseed_keeps _ _) (by decide)
    · refine Keeps.foldlVia (fun s a => ?_) ?_
      · exact Keeps.mono (State.slotEnds_keeps _ _) (by decide)
      · exact Keeps.mono (Keeps.set_now_weir _ _ _) (by decide)

theorem execFrameSlotStart_keeps (s : State) : Keeps [.now, .fns, .reaches, .jobs, .weir, .slots, .spr, .tiles,
    .cores, .spans, .stores, .hbm, .cfl, .evt, .snp, .pins, .tx] s (stateAfter (execFrameSlotStart s) s) := by
  unfold execFrameSlotStart
  refine Keeps.engineCmd ?_
  exact Keeps.mono (State.frameSlot_keeps _) (by decide)

theorem State.sliceExpiry_keeps (s : State) (i : Nat) : Keeps [.now, .tiles] s (State.sliceExpiry s i) := by
  unfold State.sliceExpiry
  dsimp -proj only
  refine Keeps.ite ?_ ?_
  · refine Keeps.via (State.setTile_keeps _ _ _) (by decide) ?_
    exact Keeps.mono (State.atTime_keeps _ _) (by decide)
  · exact Keeps.refl _ _

theorem execBnuSliceExpiry_keeps (unit : Nat) (s : State) : Keeps [.now, .tiles] s (stateAfter (execBnuSliceExpiry
    unit s) s) := by
  unfold execBnuSliceExpiry
  refine Keeps.engineCmd ?_
  exact Keeps.mono (State.sliceExpiry_keeps _ _) (by decide)

theorem State.takeEntry_keeps (s : State) (j : Job) (r : ListReq) : Keeps [.jobs] s (State.takeEntry s j r) := by
  unfold State.takeEntry
  split
  · split
    · split
      · exact Keeps.mono (State.setJob_keeps _ _) (by decide)
      · exact Keeps.mono (State.setJob_keeps _ _) (by decide)
      · exact Keeps.refl _ _
    · exact Keeps.refl _ _
  · split
    · exact Keeps.mono (State.setJob_keeps _ _) (by decide)
    · exact Keeps.mono (State.setJob_keeps _ _) (by decide)
    · exact Keeps.mono (State.setJob_keeps _ _) (by decide)
    · exact Keeps.refl _ _

theorem State.entryFreed_keeps (s : State) (b : Nat) : Keeps [.jobs] s (State.entryFreed s b) := by
  unfold State.entryFreed
  split
  · exact Keeps.refl _ _
  · split
    · exact Keeps.mono (State.takeEntry_keeps _ _ _) (by decide)
    · exact Keeps.refl _ _

theorem execDelayEntryFreed_keeps (basin : Nat) (s : State) : Keeps [.jobs] s (stateAfter (execDelayEntryFreed basin
    s) s) := by
  unfold execDelayEntryFreed
  refine Keeps.engineCmd ?_
  exact Keeps.mono (State.entryFreed_keeps _ _) (by decide)

theorem State.entropyDelivered_keeps (s : State) (id : Nat) : Keeps [.fns, .reaches, .jobs, .weir, .slots, .spr,
    .tiles, .cores, .spans, .stores, .hbm, .cfl, .evt, .snp, .pins, .tx] s (State.entropyDelivered s id) := by
  unfold State.entropyDelivered
  dsimp -proj only
  split
  · exact Keeps.refl _ _
  · split
    · exact Keeps.refl _ _
    · split
      · exact Keeps.refl _ _
      · refine Keeps.ite ?_ ?_
        · exact Keeps.refl _ _
        · refine Keeps.via (State.settleNodes_keeps _ _) (by decide) ?_
          refine Keeps.via (State.setJob_keeps _ _) (by decide) ?_
          exact Keeps.mono (Keeps.set_spr _ _) (by decide)

theorem execEntropyWaitDelivered_keeps (job : Nat) (s : State) : Keeps [.fns, .reaches, .jobs, .weir, .slots, .spr,
    .tiles, .cores, .spans, .stores, .hbm, .cfl, .evt, .snp, .pins, .tx] s (stateAfter (execEntropyWaitDelivered job
    s) s) := by
  unfold execEntropyWaitDelivered
  refine Keeps.engineCmd ?_
  exact Keeps.mono (State.entropyDelivered_keeps _ _) (by decide)

theorem State.entropyTimeout_keeps (s : State) (id : Nat) : Keeps [.now, .fns, .jobs, .weir, .slots, .spr, .tiles,
    .cores, .spans, .stores, .hbm, .cfl, .evt, .snp, .pins, .tx] s (State.entropyTimeout s id) := by
  unfold State.entropyTimeout
  split
  · exact Keeps.refl _ _
  · split
    · refine Keeps.ite ?_ ?_
      · refine Keeps.via (State.failJob_keeps _ _ _ _) (by decide) ?_
        exact Keeps.mono (State.atTime_keeps _ _) (by decide)
      · exact Keeps.refl _ _
    · exact Keeps.refl _ _

theorem execEntropyWaitTimeout_keeps (job : Nat) (s : State) : Keeps [.now, .fns, .jobs, .weir, .slots, .spr,
    .tiles, .cores, .spans, .stores, .hbm, .cfl, .evt, .snp, .pins, .tx] s (stateAfter (execEntropyWaitTimeout job
    s) s) := by
  unfold execEntropyWaitTimeout
  refine Keeps.engineCmd ?_
  exact Keeps.mono (State.entropyTimeout_keeps _ _) (by decide)

theorem State.yieldPoint_keeps (s : State) (c : NodeClass) (k : Nat) : Keeps [.fns, .jobs, .weir, .tiles, .cores,
    .cfl, .evt, .snp, .pins, .tx] s (State.yieldPoint s c k) := by
  unfold State.yieldPoint
  dsimp -proj only
  split
  · exact Keeps.refl _ _
  · split
    · exact Keeps.refl _ _
    · split
      · exact Keeps.refl _ _
      · refine Keeps.ite ?_ ?_
        · exact Keeps.refl _ _
        · refine Keeps.ite ?_ ?_
          · refine Keeps.via (State.setJob_keeps _ _) (by decide) ?_
            refine Keeps.via (State.setTile_keeps _ _ _) (by decide) ?_
            exact Keeps.mono (State.leaveTiles_keeps _ _ _) (by decide)
          · exact Keeps.mono (State.setTile_keeps _ _ _) (by decide)

theorem execYieldPoint_keeps (cls tile : Nat) (s : State) : Keeps [.fns, .jobs, .weir, .tiles, .cores, .cfl, .evt,
    .snp, .pins, .tx] s (stateAfter (execYieldPoint cls tile s) s) := by
  unfold execYieldPoint
  refine Keeps.engineCmd ?_
  split
  · exact Keeps.mono (State.yieldPoint_keeps _ _ _) (by decide)
  · exact Keeps.mono (State.yieldPoint_keeps _ _ _) (by decide)
  · exact Keeps.refl _ _

theorem State.waiterSpan_keeps (s : State) (i : Nat) (c : Cand) : Keeps [.spans] s ((State.waiterSpan s i c).getD s)
    := by
  unfold State.waiterSpan
  refine Keeps.getDBind (fun a => ?_)
  exact Keeps.mono (State.takeSpan_keeps _ _ _ _ _ _) (by decide)

theorem State.spanGrant_keeps (s : State) (i : Nat) : Keeps [.jobs, .spans] s (State.spanGrant s i) := by
  unfold State.spanGrant
  split
  · exact Keeps.refl _ _
  · split
    · refine Keeps.via (State.setJob_keeps _ _) (by decide) ?_
      refine Keeps.ofSome (by assumption) ?_
      exact Keeps.mono (State.waiterSpan_keeps _ _ _) (by decide)
    · exact Keeps.refl _ _

theorem execBnuSpanGrant_keeps (unit : Nat) (s : State) : Keeps [.jobs, .spans] s (stateAfter (execBnuSpanGrant unit
    s) s) := by
  unfold execBnuSpanGrant
  refine Keeps.engineCmd ?_
  exact Keeps.mono (State.spanGrant_keeps _ _) (by decide)

theorem State.refuse_keeps (s : State) (port reach seq : Nat) (st : Status) : Keeps [.cfl, .tx] s (State.refuse s
    port reach seq st) := by
  unfold State.refuse
  dsimp -proj only
  refine Keeps.via (Keeps.set_cfl _ _) (by decide) ?_
  refine Keeps.via (State.countTx_keeps _) (by decide) ?_
  exact Keeps.mono (State.sendFrame_keeps _ _ _ _ _) (by decide)

theorem State.peerAbort_keeps (s : State) (port seq : Nat) : Keeps [.fns, .jobs, .weir, .slots, .spr, .tiles,
    .cores, .spans, .stores, .hbm, .cfl, .evt, .snp, .pins, .tx] s (State.peerAbort s port seq) := by
  unfold State.peerAbort
  split
  · exact Keeps.mono (State.abortJob_keeps _ _) (by decide)
  · exact Keeps.refl _ _

theorem State.spillArrives_keeps (s : State) (port : Nat) (m : SpillMsg) : Keeps [.fns, .jobs, .weir, .slots, .spr,
    .tiles, .cores, .spans, .stores, .hbm, .cfl, .evt, .snp, .pins, .tx] s (State.spillArrives s port m) := by
  unfold State.spillArrives
  dsimp -proj only
  refine Keeps.ite ?_ ?_
  · exact Keeps.refl _ _
  · refine Keeps.ite ?_ ?_
    · exact Keeps.mono (State.peerAbort_keeps _ _ _) (by decide)
    · split
      · exact Keeps.mono (State.refuse_keeps _ _ _ _ _) (by decide)
      · refine Keeps.ite ?_ ?_
        · exact Keeps.mono (State.refuse_keeps _ _ _ _ _) (by decide)
        · refine Keeps.ite ?_ ?_
          · exact Keeps.mono (State.refuse_keeps _ _ _ _ _) (by decide)
          · refine Keeps.ite ?_ ?_
            · exact Keeps.mono (State.refuse_keeps _ _ _ _ _) (by decide)
            · exact Keeps.mono (Keeps.set_jobs_weir _ _ _) (by decide)

theorem execSpill_keeps (port : Nat) (msg : SpillMsg) (s : State) : Keeps [.fns, .jobs, .weir, .slots, .spr, .tiles,
    .cores, .spans, .stores, .hbm, .cfl, .evt, .snp, .pins, .tx] s (stateAfter (execSpill port msg s) s) := by
  unfold execSpill
  refine Keeps.engineCmd ?_
  exact Keeps.mono (State.spillArrives_keeps _ _ _) (by decide)

theorem State.endSpill_keeps (s : State) (id : Nat) : Keeps [.cfl] s (State.endSpill s id) := by
  unfold State.endSpill
  dsimp -proj only
  exact Keeps.mono (Keeps.set_cfl _ _) (by decide)

theorem State.spillResult_keeps (s : State) (id status detail : Nat) (output : Bytes) : Keeps [.fns, .jobs, .weir,
    .slots, .spr, .tiles, .cores, .spans, .stores, .hbm, .cfl, .evt, .snp, .pins, .tx] s (State.spillResult s id
    status detail output) := by
  unfold State.spillResult
  dsimp -proj only
  split
  · refine Keeps.ite ?_ ?_
    · refine Keeps.ite ?_ ?_
      · refine Keeps.via (State.endJob_keeps _ _ _ _) (by decide) ?_
        refine Keeps.via (State.setJob_keeps _ _) (by decide) ?_
        exact Keeps.mono (State.endSpill_keeps _ _) (by decide)
      · refine Keeps.via (State.endJob_keeps _ _ _ _) (by decide) ?_
        refine Keeps.via (State.setJob_keeps _ _) (by decide) ?_
        exact Keeps.mono (State.endSpill_keeps _ _) (by decide)
    · exact Keeps.refl _ _
  · exact Keeps.refl _ _

theorem execSpillResult_keeps (job status detail : Nat) (output : Bytes) (s : State) : Keeps [.fns, .jobs, .weir,
    .slots, .spr, .tiles, .cores, .spans, .stores, .hbm, .cfl, .evt, .snp, .pins, .tx] s (stateAfter
    (execSpillResult job status detail output s) s) := by
  unfold execSpillResult
  refine Keeps.engineCmd ?_
  exact Keeps.mono (State.spillResult_keeps _ _ _ _ _) (by decide)

theorem State.spillHome_keeps (s : State) (j : Job) : Keeps [.fns, .jobs, .weir, .slots, .spr, .tiles, .cores,
    .spans, .stores, .hbm, .cfl, .evt, .snp, .pins, .tx] s (State.spillHome s j) := by
  unfold State.spillHome
  dsimp -proj only
  refine Keeps.ite ?_ ?_
  · refine Keeps.via (State.endJob_keeps _ _ _ _) (by decide) ?_
    exact Keeps.mono (State.endSpill_keeps _ _) (by decide)
  · refine Keeps.ite ?_ ?_
    · refine Keeps.via (State.setJob_keeps _ _) (by decide) ?_
      exact Keeps.mono (State.endSpill_keeps _ _) (by decide)
    · refine Keeps.via (State.place_keeps _ _) (by decide) ?_
      exact Keeps.mono (State.endSpill_keeps _ _) (by decide)

theorem State.spillTimer_keeps (s : State) (id : Nat) : Keeps [.now, .fns, .jobs, .weir, .slots, .spr, .tiles,
    .cores, .spans, .stores, .hbm, .cfl, .evt, .snp, .pins, .tx] s (State.spillTimer s id) := by
  unfold State.spillTimer
  split
  · exact Keeps.refl _ _
  · split
    · refine Keeps.via (State.spillHome_keeps _ _) (by decide) ?_
      exact Keeps.mono (State.atTime_keeps _ _) (by decide)
    · exact Keeps.refl _ _

theorem execSpillTimerExpiry_keeps (job : Nat) (s : State) : Keeps [.now, .fns, .jobs, .weir, .slots, .spr, .tiles,
    .cores, .spans, .stores, .hbm, .cfl, .evt, .snp, .pins, .tx] s (stateAfter (execSpillTimerExpiry job s) s) := by
  unfold execSpillTimerExpiry
  refine Keeps.engineCmd ?_
  exact Keeps.mono (State.spillTimer_keeps _ _) (by decide)

end Sys2Proof.Machine
end

