-- ==== Sys2Proof/Laws/FrameHbm.lean ====
section
/-! SUPPORT. What each operation of Machine/Hbm.lean can touch. -/

namespace Sys2Proof.Machine

open Sys2Proof

theorem State.lineCorrected_keeps (s : State) (c l : Nat) : Keeps [.fns, .hbm, .cfl, .evt, .snp, .pins, .tx] s
    (State.lineCorrected s c l) := by
  unfold State.lineCorrected
  dsimp -proj only
  refine Keeps.via (State.raise_keeps _ _ _) (by decide) ?_
  exact Keeps.mono (Keeps.set_hbm _ _) (by decide)

theorem State.vaultLost_keeps (s : State) (n : Nat) : Keeps [.fns, .reaches, .jobs, .kst, .slots, .records, .hbm,
    .cfl, .evt, .snp, .pins, .tx] s (State.vaultLost s n) := by
  unfold State.vaultLost
  dsimp -proj only
  refine Keeps.ite ?_ ?_
  · exact Keeps.refl _ _
  · refine Keeps.via (State.raiseReach_keeps _ _ _ _) (by decide) ?_
    refine Keeps.via (State.raise_keeps _ _ _) (by decide) ?_
    exact Keeps.mono (State.invalidate_keeps _ _) (by decide)

theorem State.dropEntries_keeps (s : State) (r n which : Nat) : Keeps [.reaches] s (State.dropEntries s r n which)
    := by
  unfold State.dropEntries
  dsimp -proj only
  exact Keeps.mono (State.setReach_keeps _ _ _) (by decide)

theorem State.lineLost_keeps (s : State) (c l : Nat) : Keeps [.fns, .reaches, .jobs, .weir, .kst, .slots, .records,
    .spr, .tiles, .cores, .spans, .stores, .hbm, .cfl, .evt, .snp, .pins, .tx] s (State.lineLost s c l) := by
  unfold State.lineLost
  dsimp -proj only
  split
  · exact Keeps.refl _ _
  · split
    · refine Keeps.via (State.vaultLost_keeps _ _) (by decide) ?_
      exact Keeps.mono (State.vaultLost_keeps _ _) (by decide)
    · refine Keeps.foldlVia (fun s a => ?_) ?_
      · exact Keeps.mono (State.vaultLost_keeps _ _) (by decide)
      · exact Keeps.refl _ _
    · exact Keeps.mono (State.dropEntries_keeps _ _ _ _) (by decide)
    · exact Keeps.mono (State.dropEntries_keeps _ _ _ _) (by decide)
    · refine Keeps.foldlVia (fun s a => ?_) ?_
      · exact Keeps.mono (State.failJob_keeps _ _ _ _) (by decide)
      · exact Keeps.refl _ _
    · exact Keeps.refl _ _

theorem State.poisonSeen_keeps (s : State) (scrub : Bool) (kind c l : Nat) : Keeps [.fns, .hbm, .cfl, .evt, .snp,
    .pins, .tx] s (State.poisonSeen s scrub kind c l) := by
  unfold State.poisonSeen
  dsimp -proj only
  refine Keeps.via (State.raise_keeps _ _ _) (by decide) ?_
  exact Keeps.mono (Keeps.set_hbm _ _) (by decide)

theorem State.poisonLine_keeps (s : State) (scrub mac : Bool) (c l : Nat) : Keeps [.fns, .reaches, .jobs, .weir,
    .kst, .slots, .records, .spr, .tiles, .cores, .spans, .stores, .hbm, .cfl, .evt, .snp, .pins, .tx] s
    (State.poisonLine s scrub mac c l) := by
  unfold State.poisonLine
  dsimp -proj only
  refine Keeps.via (State.lineLost_keeps _ _ _) (by decide) ?_
  refine Keeps.via (State.poisonSeen_keeps _ _ _ _ _) (by decide) ?_
  exact Keeps.mono (Keeps.set_hbm _ _) (by decide)

theorem State.poisonMacLine_keeps (s : State) (scrub : Bool) (c l : Nat) : Keeps [.fns, .reaches, .jobs, .weir,
    .kst, .slots, .records, .spr, .tiles, .cores, .spans, .stores, .hbm, .cfl, .evt, .snp, .pins, .tx] s
    (State.poisonMacLine s scrub c l) := by
  unfold State.poisonMacLine
  dsimp -proj only
  refine Keeps.foldlVia (fun s a => ?_) ?_
  · exact Keeps.mono (State.lineLost_keeps _ _ _) (by decide)
  · refine Keeps.via (State.poisonSeen_keeps _ _ _ _ _) (by decide) ?_
    exact Keeps.mono (Keeps.set_hbm _ _) (by decide)

theorem State.readMacLine_keeps (s : State) (scrub : Bool) (c l : Nat) (e : List BadSymbol) : Keeps [.fns, .reaches,
    .jobs, .weir, .kst, .slots, .records, .spr, .tiles, .cores, .spans, .stores, .hbm, .cfl, .evt, .snp, .pins, .tx]
    s (State.readMacLine s scrub c l e).2 := by
  unfold State.readMacLine
  dsimp -proj only
  split
  · refine Keeps.snd ?_
    exact Keeps.mono (State.poisonMacLine_keeps _ _ _ _) (by decide)
  · refine Keeps.snd ?_
    refine Keeps.ite ?_ ?_
    · exact Keeps.mono (State.lineCorrected_keeps _ _ _) (by decide)
    · exact Keeps.refl _ _

theorem State.checkLine_keeps (s : State) (scrub : Bool) (c l : Nat) (p : Place) (n : Nat) (e : LineErr) : Keeps
    [.fns, .reaches, .jobs, .weir, .kst, .slots, .records, .spr, .tiles, .cores, .spans, .stores, .hbm, .cfl, .evt,
    .snp, .pins, .tx] s (State.checkLine s scrub c l p n e).2 := by
  unfold State.checkLine
  dsimp -proj only
  split
  · refine Keeps.snd ?_
    exact Keeps.mono (State.poisonLine_keeps _ _ _ _ _) (by decide)
  · split
    · refine Keeps.snd ?_
      refine Keeps.ofPair (by assumption) ?_
      refine Keeps.via (State.readMacLine_keeps _ _ _ _ _) (by decide) ?_
      refine Keeps.ite ?_ ?_
      · exact Keeps.mono (State.lineCorrected_keeps _ _ _) (by decide)
      · exact Keeps.refl _ _
    · refine Keeps.iteSnd ?_ ?_
      · refine Keeps.snd ?_
        refine Keeps.ofPair (by assumption) ?_
        refine Keeps.via (State.readMacLine_keeps _ _ _ _ _) (by decide) ?_
        refine Keeps.ite ?_ ?_
        · exact Keeps.mono (State.lineCorrected_keeps _ _ _) (by decide)
        · exact Keeps.refl _ _
      · refine Keeps.snd ?_
        refine Keeps.via (State.poisonLine_keeps _ _ _ _ _) (by decide) ?_
        refine Keeps.ofPair (by assumption) ?_
        refine Keeps.via (State.readMacLine_keeps _ _ _ _ _) (by decide) ?_
        refine Keeps.ite ?_ ?_
        · exact Keeps.mono (State.lineCorrected_keeps _ _ _) (by decide)
        · exact Keeps.refl _ _

theorem State.readFails_keeps (s : State) (job : Option Nat) : Keeps [.fns, .jobs, .weir, .slots, .spr, .tiles,
    .cores, .spans, .stores, .hbm, .cfl, .evt, .snp, .pins, .tx] s (State.readFails s job) := by
  unfold State.readFails
  split
  · exact Keeps.mono (State.failJob_keeps _ _ _ _) (by decide)
  · exact Keeps.refl _ _

theorem State.accessFault_keeps (s : State) (job : Option Nat) : Keeps [.fns, .jobs, .weir, .slots, .spr, .tiles,
    .cores, .spans, .stores, .hbm, .cfl, .evt, .snp, .pins, .tx] s (State.accessFault s job) := by
  unfold State.accessFault
  split
  · exact Keeps.mono (State.failJob_keeps _ _ _ _) (by decide)
  · exact Keeps.refl _ _

theorem State.fetchLine_keeps (s : State) (c l : Nat) (p : Place) (n : Nat) (e : LineErr) : Keeps [.fns, .reaches,
    .jobs, .weir, .kst, .slots, .records, .spr, .tiles, .cores, .spans, .stores, .hbm, .cfl, .evt, .snp, .pins, .tx]
    s (State.fetchLine s c l p n e).2 := by
  unfold State.fetchLine
  refine Keeps.iteSnd ?_ ?_
  · refine Keeps.snd ?_
    exact Keeps.refl _ _
  · refine Keeps.iteSnd ?_ ?_
    · refine Keeps.snd ?_
      exact Keeps.refl _ _
    · split
      · refine Keeps.snd ?_
        refine Keeps.ofPair (by assumption) ?_
        exact Keeps.mono (State.checkLine_keeps _ _ _ _ _ _ _) (by decide)
      · refine Keeps.snd ?_
        refine Keeps.ofPair (by assumption) ?_
        exact Keeps.mono (State.checkLine_keeps _ _ _ _ _ _ _) (by decide)

theorem State.readLine_keeps (s : State) (c l : Nat) (job : Option Nat) (check : LineErr) : Keeps [.fns, .reaches,
    .jobs, .weir, .kst, .slots, .records, .spr, .tiles, .cores, .spans, .stores, .hbm, .cfl, .evt, .snp, .pins, .tx]
    s (State.readLine s c l job check) := by
  unfold State.readLine
  dsimp -proj only
  unfold State.accessLine
  refine Keeps.ite ?_ ?_
  · exact Keeps.refl _ _
  · split
    · exact Keeps.refl _ _
    · refine Keeps.ite ?_ ?_
      · exact Keeps.mono (State.accessFault_keeps _ _) (by decide)
      · refine Keeps.ite ?_ ?_
        · exact Keeps.refl _ _
        · dsimp -proj only
          split
          · split
            · refine Keeps.ite ?_ ?_
              · refine Keeps.via (State.restoreCtx_keeps _ _) (by decide) ?_
                refine Keeps.via (Keeps.set_hbm _ _) (by decide) ?_
                refine Keeps.ofPair (by assumption) ?_
                exact Keeps.mono (State.fetchLine_keeps _ _ _ _ _ _) (by decide)
              · refine Keeps.via (Keeps.set_hbm _ _) (by decide) ?_
                refine Keeps.ofPair (by assumption) ?_
                exact Keeps.mono (State.fetchLine_keeps _ _ _ _ _ _) (by decide)
            · refine Keeps.via (Keeps.set_hbm _ _) (by decide) ?_
              refine Keeps.ofPair (by assumption) ?_
              exact Keeps.mono (State.fetchLine_keeps _ _ _ _ _ _) (by decide)
          · refine Keeps.via (State.readFails_keeps _ _) (by decide) ?_
            refine Keeps.ofPair (by assumption) ?_
            exact Keeps.mono (State.fetchLine_keeps _ _ _ _ _ _) (by decide)

theorem execHbmRead_keeps (chan line : Nat) (job : Option Nat) (check : LineErr) (s : State) : Keeps [.fns,
    .reaches, .jobs, .weir, .kst, .slots, .records, .spr, .tiles, .cores, .spans, .stores, .hbm, .cfl, .evt, .snp,
    .pins, .tx] s (stateAfter (execHbmRead chan line job check s) s) := by
  unfold execHbmRead
  refine Keeps.engineCmd ?_
  exact Keeps.mono (State.readLine_keeps _ _ _ _ _) (by decide)

theorem State.writeLine_keeps (s : State) (c l : Nat) (bs : Bytes) : Keeps [.fns, .jobs, .weir, .slots, .spr,
    .tiles, .cores, .spans, .stores, .hbm, .cfl, .evt, .snp, .pins, .tx] s (State.writeLine s c l bs) := by
  unfold State.writeLine
  unfold State.accessLine
  refine Keeps.ite ?_ ?_
  · exact Keeps.refl _ _
  · split
    · exact Keeps.refl _ _
    · refine Keeps.ite ?_ ?_
      · exact Keeps.mono (State.accessFault_keeps _ _) (by decide)
      · refine Keeps.ite ?_ ?_
        · exact Keeps.refl _ _
        · dsimp -proj only
          exact Keeps.mono (State.putLine_keeps _ _ _ _) (by decide)

theorem execHbmWrite_keeps (chan line : Nat) (bytes : Bytes) (s : State) : Keeps [.fns, .jobs, .weir, .slots, .spr,
    .tiles, .cores, .spans, .stores, .hbm, .cfl, .evt, .snp, .pins, .tx] s (stateAfter (execHbmWrite chan line bytes
    s) s) := by
  unfold execHbmWrite
  refine Keeps.engineCmd ?_
  exact Keeps.mono (State.writeLine_keeps _ _ _ _) (by decide)

theorem State.writePart_keeps (s : State) (c l off : Nat) (bs : Bytes) (job : Option Nat) (check : LineErr) : Keeps
    [.fns, .reaches, .jobs, .weir, .kst, .slots, .records, .spr, .tiles, .cores, .spans, .stores, .hbm, .cfl, .evt,
    .snp, .pins, .tx] s (State.writePart s c l off bs job check) := by
  unfold State.writePart
  unfold State.accessLine
  refine Keeps.ite ?_ ?_
  · exact Keeps.refl _ _
  · split
    · exact Keeps.refl _ _
    · refine Keeps.ite ?_ ?_
      · exact Keeps.mono (State.accessFault_keeps _ _) (by decide)
      · refine Keeps.ite ?_ ?_
        · exact Keeps.refl _ _
        · dsimp -proj only
          split
          · refine Keeps.via (State.putLine_keeps _ _ _ _) (by decide) ?_
            refine Keeps.ofPair (by assumption) ?_
            exact Keeps.mono (State.fetchLine_keeps _ _ _ _ _ _) (by decide)
          · refine Keeps.via (State.readFails_keeps _ _) (by decide) ?_
            refine Keeps.ofPair (by assumption) ?_
            exact Keeps.mono (State.fetchLine_keeps _ _ _ _ _ _) (by decide)

theorem execHbmPartialWrite_keeps (chan line off : Nat) (bytes : Bytes) (job : Option Nat) (check : LineErr) (s :
    State) : Keeps [.fns, .reaches, .jobs, .weir, .kst, .slots, .records, .spr, .tiles, .cores, .spans, .stores,
    .hbm, .cfl, .evt, .snp, .pins, .tx] s (stateAfter (execHbmPartialWrite chan line off bytes job check s) s) := by
  unfold execHbmPartialWrite
  refine Keeps.engineCmd ?_
  exact Keeps.mono (State.writePart_keeps _ _ _ _ _ _ _) (by decide)

theorem State.scrubEcc_keeps (s : State) (c l : Nat) (e : LineErr) : Keeps [.fns, .reaches, .jobs, .weir, .kst,
    .slots, .records, .spr, .tiles, .cores, .spans, .stores, .hbm, .cfl, .evt, .snp, .pins, .tx] s (State.scrubEcc s
    c l e) := by
  unfold State.scrubEcc
  split
  · exact Keeps.mono (State.lineCorrected_keeps _ _ _) (by decide)
  · exact Keeps.mono (State.poisonLine_keeps _ _ _ _ _) (by decide)
  · exact Keeps.refl _ _

theorem State.scrub_keeps (s : State) (c : Nat) (check : LineErr) : Keeps [.fns, .reaches, .jobs, .weir, .kst,
    .slots, .records, .spr, .tiles, .cores, .spans, .stores, .hbm, .cfl, .evt, .snp, .pins, .tx] s (State.scrub s c
    check) := by
  unfold State.scrub
  dsimp -proj only
  refine Keeps.ite ?_ ?_
  · exact Keeps.refl _ _
  · refine Keeps.ite ?_ ?_
    · split
      · refine Keeps.via (State.lineCorrected_keeps _ _ _) (by decide) ?_
        exact Keeps.mono (Keeps.set_hbm _ _) (by decide)
      · refine Keeps.via (State.poisonMacLine_keeps _ _ _ _) (by decide) ?_
        exact Keeps.mono (Keeps.set_hbm _ _) (by decide)
      · exact Keeps.mono (Keeps.set_hbm _ _) (by decide)
    · refine Keeps.ite ?_ ?_
      · exact Keeps.mono (Keeps.set_hbm _ _) (by decide)
      · split
        · refine Keeps.ite ?_ ?_
          · refine Keeps.via (State.scrubEcc_keeps _ _ _ _) (by decide) ?_
            exact Keeps.mono (Keeps.set_hbm _ _) (by decide)
          · refine Keeps.via (State.checkLine_keeps _ _ _ _ _ _ _) (by decide) ?_
            exact Keeps.mono (Keeps.set_hbm _ _) (by decide)
        · refine Keeps.via (State.scrubEcc_keeps _ _ _ _) (by decide) ?_
          exact Keeps.mono (Keeps.set_hbm _ _) (by decide)

theorem execPatrolScrub_keeps (chan : Nat) (check : LineErr) (s : State) : Keeps [.fns, .reaches, .jobs, .weir,
    .kst, .slots, .records, .spr, .tiles, .cores, .spans, .stores, .hbm, .cfl, .evt, .snp, .pins, .tx] s (stateAfter
    (execPatrolScrub chan check s) s) := by
  unfold execPatrolScrub
  refine Keeps.engineCmd ?_
  exact Keeps.mono (State.scrub_keeps _ _ _) (by decide)

end Sys2Proof.Machine
end

