-- ==== Sys2Proof/Laws/FrameWatershed.lean ====
section
/-! SUPPORT. What each operation of Machine/Watershed.lean can touch. -/

namespace Sys2Proof.Machine

open Sys2Proof

theorem State.wshError_keeps (s : State) (code type off : Nat) : Keeps [.wsh] s (State.wshError s code type off) :=
    by
  unfold State.wshError
  dsimp -proj only
  exact Keeps.mono (Keeps.set_wsh _ _) (by decide)

theorem State.wshRefuse_keeps (s : State) : Keeps [.wsh] s (State.wshRefuse s) := by
  unfold State.wshRefuse
  dsimp -proj only
  exact Keeps.mono (Keeps.set_wsh _ _) (by decide)

theorem State.wshBegin_keeps (s : State) : Keeps [.wsh] s (State.wshBegin s) := by
  unfold State.wshBegin
  dsimp -proj only
  unfold State.wshCmd
  refine Keeps.ite ?_ ?_
  · exact Keeps.mono (Keeps.set_wsh _ _) (by decide)
  · exact Keeps.mono (State.wshRefuse_keeps _) (by decide)

theorem execBegin_keeps (s : State) : Keeps [.wsh] s (stateAfter (execBegin s) s) := by
  unfold execBegin
  refine Keeps.hostCmd ?_
  exact Keeps.mono (State.wshBegin_keeps _) (by decide)

theorem State.loadWindow_keeps (s : State) (off : Nat) (bs : Bytes) : Keeps [.wsh] s (State.loadWindow s off bs) :=
    by
  unfold State.loadWindow
  dsimp -proj only
  refine Keeps.ite ?_ ?_
  · exact Keeps.mono (Keeps.set_wsh _ _) (by decide)
  · exact Keeps.refl _ _

theorem execLoadWindowWrite_keeps (offset : Nat) (bytes : Bytes) (s : State) : Keeps [.wsh] s (stateAfter
    (execLoadWindowWrite offset bytes s) s) := by
  unfold execLoadWindowWrite
  refine Keeps.hostCmd ?_
  exact Keeps.mono (State.loadWindow_keeps _ _ _) (by decide)

theorem execValidate_keeps (s : State) : Keeps [.wsh] s (stateAfter (execValidate s) s) := by
  unfold execValidate
  dsimp -proj only
  refine Keeps.hostCmd ?_
  unfold State.wshCmd
  refine Keeps.ite ?_ ?_
  · exact Keeps.mono (Keeps.set_wsh _ _) (by decide)
  · exact Keeps.mono (State.wshRefuse_keeps _) (by decide)

theorem State.wshDiscard_keeps (s : State) : Keeps [.wsh] s (State.wshDiscard s) := by
  unfold State.wshDiscard
  dsimp -proj only
  unfold State.wshCmd
  refine Keeps.ite ?_ ?_
  · exact Keeps.mono (Keeps.set_wsh _ _) (by decide)
  · exact Keeps.mono (State.wshRefuse_keeps _) (by decide)

theorem execDiscard_keeps (s : State) : Keeps [.wsh] s (stateAfter (execDiscard s) s) := by
  unfold execDiscard
  refine Keeps.hostCmd ?_
  exact Keeps.mono (State.wshDiscard_keeps _) (by decide)

theorem State.reject_keeps (s : State) (e : VErr) : Keeps [.wsh, .fns, .cfl, .evt, .snp, .pins, .tx] s (State.reject
    s e) := by
  unfold State.reject
  dsimp -proj only
  refine Keeps.via (State.raise_keeps _ _ _) (by decide) ?_
  refine Keeps.via (State.wshError_keeps _ _ _ _) (by decide) ?_
  exact Keeps.mono (Keeps.set_wsh _ _) (by decide)

theorem State.validated_keeps (s : State) : Keeps [.wsh, .fns, .cfl, .evt, .snp, .pins, .tx] s (State.validated s)
    := by
  unfold State.validated
  dsimp -proj only
  split
  · refine Keeps.via (State.reject_keeps _ _) (by decide) ?_
    exact Keeps.mono (Keeps.set_wsh _ _) (by decide)
  · refine Keeps.via (Keeps.set_wsh _ _) (by decide) ?_
    exact Keeps.mono (Keeps.set_wsh _ _) (by decide)

theorem execValidationComplete_keeps (s : State) : Keeps [.wsh, .fns, .cfl, .evt, .snp, .pins, .tx] s (stateAfter
    (execValidationComplete s) s) := by
  unfold execValidationComplete
  refine Keeps.engineCmd ?_
  refine Keeps.ite ?_ ?_
  · exact Keeps.mono (State.validated_keeps _) (by decide)
  · exact Keeps.refl _ _

theorem State.wshCommit_keeps (s : State) : Keeps [.wsh, .fns, .cfl, .evt, .snp, .pins, .tx] s (State.wshCommit s)
    := by
  unfold State.wshCommit
  dsimp -proj only
  split
  · exact Keeps.mono (State.wshRefuse_keeps _) (by decide)
  · refine Keeps.ite ?_ ?_
    · exact Keeps.mono (State.wshRefuse_keeps _) (by decide)
    · split
      · refine Keeps.via (State.reject_keeps _ _) (by decide) ?_
        exact Keeps.mono (Keeps.set_wsh _ _) (by decide)
      · exact Keeps.mono (Keeps.set_wsh _ _) (by decide)

theorem execCommit_keeps (s : State) : Keeps [.wsh, .fns, .cfl, .evt, .snp, .pins, .tx] s (stateAfter (execCommit s)
    s) := by
  unfold execCommit
  refine Keeps.next ?_
  refine Keeps.ite ?_ ?_
  · unfold State.wshCmd
    refine Keeps.ite ?_ ?_
    · exact Keeps.mono (State.wshCommit_keeps _) (by decide)
    · exact Keeps.mono (State.wshRefuse_keeps _) (by decide)
  · exact Keeps.refl _ _

theorem State.springTimeout_keeps (s : State) : Keeps [.now, .wsh, .fns, .cfl, .evt, .snp, .pins, .tx] s
    (State.springTimeout s) := by
  unfold State.springTimeout
  refine Keeps.via (State.reject_keeps _ _) (by decide) ?_
  refine Keeps.via (State.stampCommit_keeps _) (by decide) ?_
  exact Keeps.mono (State.atTime_keeps _ _) (by decide)

theorem execCommitSpringWaitTimeout_keeps (s : State) : Keeps [.now, .wsh, .fns, .cfl, .evt, .snp, .pins, .tx] s
    (stateAfter (execCommitSpringWaitTimeout s) s) := by
  unfold execCommitSpringWaitTimeout
  refine Keeps.engineCmd ?_
  refine Keeps.ite ?_ ?_
  · exact Keeps.mono (State.springTimeout_keeps _) (by decide)
  · exact Keeps.refl _ _

theorem State.extendDev_keeps (s : State) (i : Nat) (d : Bytes) : Keeps [.meas, .measCnt] s (State.extendDev s i d)
    := by
  unfold State.extendDev
  exact Keeps.mono (Keeps.set_meas_measCnt _ _ _) (by decide)

theorem State.bumpTile_keeps (s : State) (k : Nat) : Keeps [.tiles] s (State.bumpTile s k) := by
  unfold State.bumpTile
  dsimp -proj only
  exact Keeps.mono (State.setTile_keeps _ _ _) (by decide)

theorem State.bumpChains_keeps (s : State) (old new : Setup) : Keeps [.chainEpoch] s (State.bumpChains s old new) :=
    by
  unfold State.bumpChains
  dsimp -proj only
  refine Keeps.foldlVia (fun s a => ?_) ?_
  · exact Keeps.mono (Keeps.set_chainEpoch _ _) (by decide)
  · exact Keeps.refl _ _

theorem State.bumpReach_keeps (s : State) (r : Nat) : Keeps [.reaches] s (State.bumpReach s r) := by
  unfold State.bumpReach
  dsimp -proj only
  exact Keeps.mono (State.setReach_keeps _ _ _) (by decide)

theorem State.dropRegionKeys_keeps (s : State) (r : Nat) : Keeps [.hbm] s (State.dropRegionKeys s r) := by
  unfold State.dropRegionKeys
  dsimp -proj only
  exact Keeps.mono (Keeps.set_hbm _ _) (by decide)

theorem State.createReach_keeps (s : State) (x : ReachRec) (st : ReachSt) : Keeps [.fns, .reaches, .jobs, .weir,
    .slots, .spr, .tiles, .cores, .spans, .stores, .hbm, .cfl, .evt, .snp, .pins, .tx] s (State.createReach s x st)
    := by
  unfold State.createReach
  dsimp -proj only
  refine Keeps.via (State.startDrbg_keeps _ _ _) (by decide) ?_
  refine Keeps.foldlVia (fun s a => ?_) ?_
  · exact Keeps.mono (State.drawRegionKey_keeps _ _) (by decide)
  · refine Keeps.via (State.dropRegionKeys_keeps _ _) (by decide) ?_
    exact Keeps.mono (State.setReach_keeps _ _ _) (by decide)

theorem State.freeFns_keeps (s : State) (fns : List Nat) : Keeps [.queues, .spr] s (State.freeFns s fns) := by
  unfold State.freeFns
  dsimp -proj only
  exact Keeps.mono (Keeps.set_queues_spr _ _ _) (by decide)

theorem State.wipeReplaced_keeps (s : State) (r : Nat) : Keeps [.reaches, .jobs, .kst, .slots, .records, .spr, .hbm,
    .cfl, .tx] s (State.wipeReplaced s r) := by
  unfold State.wipeReplaced
  split
  · exact Keeps.refl _ _
  · refine Keeps.via (State.stopDrbg_keeps _ _) (by decide) ?_
    exact Keeps.mono (State.wipeRange_keeps _ _ _) (by decide)

theorem State.wipeMemory_keeps (s : State) (k : Nat) : Keeps [.tiles] s (State.wipeMemory s k) := by
  unfold State.wipeMemory
  dsimp -proj only
  split
  · exact Keeps.refl _ _
  · refine Keeps.ite ?_ ?_
    · exact Keeps.refl _ _
    · refine Keeps.foldlVia (fun s a => ?_) ?_
      · exact Keeps.mono (State.setTile_keeps _ _ _) (by decide)
      · exact Keeps.refl _ _

theorem State.wipeTile_keeps (s : State) (k : Nat) : Keeps [.fns, .spr, .tiles, .cfl, .evt, .snp, .pins, .tx] s
    (State.wipeTile s k) := by
  unfold State.wipeTile
  split
  · exact Keeps.refl _ _
  · refine Keeps.ite ?_ ?_
    · exact Keeps.refl _ _
    · refine Keeps.via (State.clearRandom_keeps _ _ _) (by decide) ?_
      exact Keeps.mono (State.wipeMemory_keeps _ _) (by decide)

theorem State.wipeTiles_keeps (s : State) (ks : List Nat) : Keeps [.fns, .spr, .tiles, .cfl, .evt, .snp, .pins, .tx]
    s (State.wipeTiles s ks) := by
  unfold State.wipeTiles
  refine Keeps.foldlVia (fun s a => ?_) ?_
  · exact Keeps.mono (State.wipeTile_keeps _ _) (by decide)
  · exact Keeps.refl _ _

theorem State.repartition_keeps (s : State) (p : Stream) : Keeps [.parts] s (State.repartition s p) := by
  unfold State.repartition
  dsimp -proj only
  exact Keeps.mono (Keeps.set_parts _ _) (by decide)

theorem State.commitFloor_keeps (s : State) (p : Stream) : Keeps [.wsh, .ledger] s (State.commitFloor s p) := by
  unfold State.commitFloor
  dsimp -proj only
  refine Keeps.ite ?_ ?_
  · exact Keeps.mono (Keeps.set_wsh _ _) (by decide)
  · exact Keeps.mono (Keeps.set_wsh_ledger _ _ _) (by decide)

theorem State.commitProfiles_keeps (s : State) : Keeps [.cprof, .meas, .measCnt] s (State.commitProfiles s) := by
  unfold State.commitProfiles
  dsimp -proj only
  refine Keeps.via (State.extendDev_keeps _ _ _) (by decide) ?_
  exact Keeps.mono (Keeps.set_cprof _ _) (by decide)

theorem State.commitAo_keeps (s : State) : Keeps [.ao] s (State.commitAo s) := by
  unfold State.commitAo
  dsimp -proj only
  exact Keeps.mono (Keeps.set_ao _ _) (by decide)

theorem State.commitEvents_keeps (s : State) : Keeps [.fns, .evt, .tx] s (State.commitEvents s) := by
  unfold State.commitEvents
  refine Keeps.foldlVia (fun s a => ?_) ?_
  · exact Keeps.mono (State.setMask_keeps _ _ _) (by decide)
  · exact Keeps.refl _ _

theorem State.commitImages_keeps (s : State) : Keeps [.stores] s (State.commitImages s) := by
  unfold State.commitImages
  dsimp -proj only
  refine Keeps.foldlVia (fun s a => ?_) ?_
  · split
    · exact Keeps.mono (Keeps.set_stores _ _) (by decide)
    · exact Keeps.refl _ _
  · exact Keeps.refl _ _

theorem State.commitBootEvents_keeps (s : State) : Keeps [.fns, .cfl, .evt, .snp, .pins, .tx] s
    (State.commitBootEvents s) := by
  unfold State.commitBootEvents
  dsimp -proj only
  refine Keeps.ite ?_ ?_
  · refine Keeps.via (State.raise_keeps _ _ _) (by decide) ?_
    refine Keeps.ite ?_ ?_
    · refine Keeps.via (State.raise_keeps _ _ _) (by decide) ?_
      refine Keeps.ite ?_ ?_
      · exact Keeps.mono (State.raise_keeps _ _ _) (by decide)
      · exact Keeps.refl _ _
    · refine Keeps.ite ?_ ?_
      · exact Keeps.mono (State.raise_keeps _ _ _) (by decide)
      · exact Keeps.refl _ _
  · refine Keeps.ite ?_ ?_
    · refine Keeps.via (State.raise_keeps _ _ _) (by decide) ?_
      refine Keeps.ite ?_ ?_
      · exact Keeps.mono (State.raise_keeps _ _ _) (by decide)
      · exact Keeps.refl _ _
    · refine Keeps.ite ?_ ?_
      · exact Keeps.mono (State.raise_keeps _ _ _) (by decide)
      · exact Keeps.refl _ _

theorem State.commitTime_keeps (s : State) : Keeps [.fns, .cfl, .evt, .snp, .pins, .tx] s (State.commitTime s) := by
  unfold State.commitTime
  dsimp -proj only
  refine Keeps.via (State.raise_keeps _ _ _) (by decide) ?_
  exact Keeps.mono (Keeps.set_cfl _ _) (by decide)

theorem State.commitPort_keeps (s : State) (p : Nat) : Keeps [.fns, .cfl, .evt, .snp, .pins, .tx] s
    (State.commitPort s p) := by
  unfold State.commitPort
  dsimp -proj only
  refine Keeps.ite ?_ ?_
  · exact Keeps.mono (State.portGoes_keeps _ _ _ _) (by decide)
  · split
    · refine Keeps.via (State.portGoes_keeps _ _ _ _) (by decide) ?_
      exact Keeps.mono (State.setPort_keeps _ _ _) (by decide)
    · refine Keeps.via (State.portGoes_keeps _ _ _ _) (by decide) ?_
      exact Keeps.mono (State.setPort_keeps _ _ _) (by decide)
    · exact Keeps.refl _ _

theorem State.commitPorts_keeps (s : State) : Keeps [.fns, .cfl, .evt, .snp, .pins, .tx] s (State.commitPorts s) :=
    by
  unfold State.commitPorts
  refine Keeps.foldlVia (fun s a => ?_) ?_
  · exact Keeps.mono (State.commitPort_keeps _ _) (by decide)
  · exact Keeps.refl _ _

theorem State.commitFull_keeps (s : State) (p : Stream) : Keeps [.fns, .kst, .stores, .cprof, .meas, .measCnt, .cfl,
    .evt, .snp, .rst, .ao, .ledger, .pins, .tx] s (State.commitFull s p) := by
  unfold State.commitFull
  dsimp -proj only
  refine Keeps.via (Keeps.setR_kst_rst _ _ _ rfl) (by decide) ?_
  refine Keeps.via (State.stepOutcome_keeps _ _ _) (by decide) ?_
  refine Keeps.via (State.commitBootEvents_keeps _) (by decide) ?_
  refine Keeps.via (State.commitTime_keeps _) (by decide) ?_
  refine Keeps.foldlVia (fun s a => ?_) ?_
  · exact Keeps.mono (State.extendDev_keeps _ _ _) (by decide)
  · refine Keeps.via (State.commitProfiles_keeps _) (by decide) ?_
    refine Keeps.via (State.commitImages_keeps _) (by decide) ?_
    refine Keeps.via (State.commitEvents_keeps _) (by decide) ?_
    exact Keeps.mono (State.commitAo_keeps _) (by decide)

theorem State.startFrame_keeps (s : State) : Keeps [.weir] s (State.startFrame s) := by
  unfold State.startFrame
  dsimp -proj only
  exact Keeps.mono (Keeps.set_weir _ _) (by decide)

theorem State.createNamed_keeps (p : Stream) (s : State) (r : Nat) : Keeps [.fns, .reaches, .jobs, .weir, .slots,
    .spr, .tiles, .cores, .spans, .stores, .hbm, .cfl, .evt, .snp, .pins, .tx] s (State.createNamed p s r) := by
  unfold State.createNamed
  split
  · exact Keeps.mono (State.createReach_keeps _ _ _) (by decide)
  · exact Keeps.refl _ _

theorem State.install_keeps (s : State) (p0 : Stream) : Keeps [.wsh, .cfg, .fns, .reaches, .queues, .jobs, .weir,
    .kst, .slots, .records, .spr, .tiles, .chainEpoch, .cores, .parts, .spans, .stores, .cprof, .meas, .measCnt,
    .hbm, .cfl, .evt, .snp, .rst, .ao, .ledger, .pins, .tx] s (State.install s p0) := by
  unfold State.install
  dsimp -proj only
  refine Keeps.via (State.extendDev_keeps _ _ _) (by decide) ?_
  refine Keeps.ite ?_ ?_
  · refine Keeps.via (State.startFrame_keeps _) (by decide) ?_
    refine Keeps.foldlVia (fun s a => ?_) ?_
    · exact Keeps.mono (State.bumpReach_keeps _ _) (by decide)
    · refine Keeps.via (State.bumpChains_keeps _ _ _) (by decide) ?_
      refine Keeps.foldlVia (fun s a => ?_) ?_
      · exact Keeps.mono (State.bumpTile_keeps _ _) (by decide)
      · refine Keeps.via (State.wipeTiles_keeps _ _) (by decide) ?_
        refine Keeps.foldlVia (fun s a => ?_) ?_
        · exact Keeps.mono (State.createNamed_keeps _ _ _) (by decide)
        · refine Keeps.via (State.layHbm_keeps _ _ _) (by decide) ?_
          refine Keeps.via (Keeps.set_wsh_cfg _ _ _) (by decide) ?_
          refine Keeps.via (State.repartition_keeps _ _) (by decide) ?_
          refine Keeps.foldlVia (fun s a => ?_) ?_
          · exact Keeps.mono (State.wipeReplaced_keeps _ _) (by decide)
          · refine Keeps.via (State.freeFns_keeps _ _) (by decide) ?_
            exact Keeps.mono (State.settleCovered_keeps _ _) (by decide)
  · refine Keeps.via (State.commitFull_keeps _ _) (by decide) ?_
    refine Keeps.via (State.placePrograms_keeps _) (by decide) ?_
    refine Keeps.via (State.startFrame_keeps _) (by decide) ?_
    refine Keeps.foldlVia (fun s a => ?_) ?_
    · exact Keeps.mono (State.bumpReach_keeps _ _) (by decide)
    · refine Keeps.via (State.bumpChains_keeps _ _ _) (by decide) ?_
      refine Keeps.foldlVia (fun s a => ?_) ?_
      · exact Keeps.mono (State.bumpTile_keeps _ _) (by decide)
      · refine Keeps.via (State.wipeTiles_keeps _ _) (by decide) ?_
        refine Keeps.foldlVia (fun s a => ?_) ?_
        · exact Keeps.mono (State.createNamed_keeps _ _ _) (by decide)
        · refine Keeps.via (State.layHbm_keeps _ _ _) (by decide) ?_
          refine Keeps.via (Keeps.set_wsh_cfg _ _ _) (by decide) ?_
          refine Keeps.via (State.repartition_keeps _ _) (by decide) ?_
          refine Keeps.foldlVia (fun s a => ?_) ?_
          · exact Keeps.mono (State.wipeReplaced_keeps _ _) (by decide)
          · refine Keeps.via (State.freeFns_keeps _ _) (by decide) ?_
            exact Keeps.mono (State.settleCovered_keeps _ _) (by decide)

theorem State.switchPoint_keeps (s : State) (p : Stream) : Keeps [.wsh, .cfg, .fns, .reaches, .queues, .jobs, .weir,
    .kst, .slots, .records, .spr, .tiles, .chainEpoch, .cores, .parts, .spans, .stores, .cprof, .meas, .measCnt,
    .hbm, .cfl, .evt, .snp, .rst, .ao, .ledger, .pins, .tx] s (State.switchPoint s p) := by
  unfold State.switchPoint
  dsimp -proj only
  refine Keeps.via (State.raise_keeps _ _ _) (by decide) ?_
  refine Keeps.foldlVia (fun s a => ?_) ?_
  · exact Keeps.mono (State.raise_keeps _ _ _) (by decide)
  · refine Keeps.via (State.commitPorts_keeps _) (by decide) ?_
    refine Keeps.via (State.stampCommit_keeps _) (by decide) ?_
    refine Keeps.via (Keeps.set_wsh _ _) (by decide) ?_
    refine Keeps.via (State.commitFloor_keeps _ _) (by decide) ?_
    exact Keeps.mono (State.install_keeps _ _) (by decide)

theorem execCommitSwitchPoint_keeps (s : State) : Keeps [.wsh, .cfg, .fns, .reaches, .queues, .jobs, .weir, .kst,
    .slots, .records, .spr, .tiles, .chainEpoch, .cores, .parts, .spans, .stores, .cprof, .meas, .measCnt, .hbm,
    .cfl, .evt, .snp, .rst, .ao, .ledger, .pins, .tx] s (stateAfter (execCommitSwitchPoint s) s) := by
  unfold execCommitSwitchPoint
  refine Keeps.engineCmd ?_
  split
  · refine Keeps.ite ?_ ?_
    · exact Keeps.refl _ _
    · exact Keeps.mono (State.switchPoint_keeps _ _) (by decide)
  · exact Keeps.refl _ _

end Sys2Proof.Machine
end

