-- ==== Sys2Proof/Laws/FrameFwuOps.lean ====
section
/-! SUPPORT. What each operation of Machine/FwuOps.lean can touch. -/

namespace Sys2Proof.Machine

open Sys2Proof

theorem State.lockSlots_keeps (s : State) : Keeps [.ledger] s (State.lockSlots s) := by
  unfold State.lockSlots
  dsimp -proj only
  exact Keeps.mono (Keeps.set_ledger _ _) (by decide)

theorem State.fwuGoes_keeps (s : State) (x : FwuState) : Keeps [.fns, .cfl, .evt, .snp, .fwu, .pins, .tx] s
    (State.fwuGoes s x) := by
  unfold State.fwuGoes
  dsimp -proj only
  refine Keeps.ite ?_ ?_
  · exact Keeps.refl _ _
  · refine Keeps.via (State.raise_keeps _ _ _) (by decide) ?_
    exact Keeps.mono (Keeps.set_fwu _ _) (by decide)

end Sys2Proof.Machine
end

