-- ==== Sys2Proof/Laws/FrameConfluence.lean ====
section
/-! SUPPORT. What each operation of Machine/Confluence.lean can touch. -/

namespace Sys2Proof.Machine

open Sys2Proof

theorem State.clearExchanges_keeps (s : State) : Keeps [.cfl] s (State.clearExchanges s) := by
  unfold State.clearExchanges
  dsimp -proj only
  refine Keeps.foldlVia (fun s a => ?_) ?_
  · exact Keeps.mono (State.setPort_keeps _ _ _) (by decide)
  · exact Keeps.refl _ _

theorem State.chooseMaster_keeps (s : State) : Keeps [.fns, .cfl, .evt, .snp, .pins, .tx] s (State.chooseMaster s)
    := by
  unfold State.chooseMaster
  dsimp -proj only
  refine Keeps.ite ?_ ?_
  · exact Keeps.refl _ _
  · refine Keeps.ite ?_ ?_
    · exact Keeps.mono (Keeps.set_cfl _ _) (by decide)
    · refine Keeps.via (State.raise_keeps _ _ _) (by decide) ?_
      refine Keeps.via (State.clearExchanges_keeps _) (by decide) ?_
      refine Keeps.via (Keeps.set_cfl _ _) (by decide) ?_
      exact Keeps.mono (Keeps.set_cfl _ _) (by decide)

theorem State.correctTime_keeps (s : State) (target : Int) : Keeps [.cfl] s (State.correctTime s target) := by
  unfold State.correctTime
  dsimp -proj only
  exact Keeps.mono (Keeps.set_cfl _ _) (by decide)

theorem State.notePort_keeps (s : State) (p : Nat) (f : Port → Port) : Keeps [.cfl] s (State.notePort s p f) := by
  unfold State.notePort
  exact Keeps.mono (State.setPort_keeps _ _ _) (by decide)

theorem State.linkLost_keeps (s : State) (p : Nat) (st : PortSt) (refuse : Nat) : Keeps [.fns, .jobs, .weir, .slots,
    .spr, .tiles, .cores, .spans, .stores, .hbm, .cfl, .evt, .snp, .pins, .tx] s (State.linkLost s p st refuse) :=
    by
  unfold State.linkLost
  dsimp -proj only
  refine Keeps.via (State.chooseMaster_keeps _) (by decide) ?_
  refine Keeps.foldlVia (fun s a => ?_) ?_
  · exact Keeps.mono (State.spillHome_keeps _ _) (by decide)
  · refine Keeps.via (State.portGoes_keeps _ _ _ _) (by decide) ?_
    exact Keeps.mono (State.notePort_keeps _ _ _) (by decide)

theorem State.refusePort_keeps (s : State) (p code : Nat) : Keeps [.fns, .jobs, .weir, .slots, .spr, .tiles, .cores,
    .spans, .stores, .hbm, .cfl, .evt, .snp, .pins, .tx] s (State.refusePort s p code) := by
  unfold State.refusePort
  exact Keeps.mono (State.linkLost_keeps _ _ _ _) (by decide)

theorem execPortLockLoss_keeps (port : Nat) (s : State) : Keeps [.fns, .jobs, .weir, .slots, .spr, .tiles, .cores,
    .spans, .stores, .hbm, .cfl, .evt, .snp, .pins, .tx] s (stateAfter (execPortLockLoss port s) s) := by
  unfold execPortLockLoss
  refine Keeps.engineCmd ?_
  refine Keeps.ite ?_ ?_
  · refine Keeps.via (State.notePort_keeps _ _ _) (by decide) ?_
    exact Keeps.mono (State.linkLost_keeps _ _ _ _) (by decide)
  · exact Keeps.refl _ _

theorem execPortRetrain_keeps (port : Nat) (s : State) : Keeps [.fns, .cfl, .evt, .snp, .pins, .tx] s (stateAfter
    (execPortRetrain port s) s) := by
  unfold execPortRetrain
  refine Keeps.engineCmd ?_
  refine Keeps.ite ?_ ?_
  · refine Keeps.via (State.notePort_keeps _ _ _) (by decide) ?_
    exact Keeps.mono (State.portGoes_keeps _ _ _ _) (by decide)
  · exact Keeps.refl _ _

theorem State.portTrained_keeps (s : State) (p lanes : Nat) : Keeps [.fns, .cfl, .evt, .snp, .pins, .tx] s
    (State.portTrained s p lanes) := by
  unfold State.portTrained
  dsimp -proj only
  refine Keeps.ite ?_ ?_
  · exact Keeps.refl _ _
  · refine Keeps.ite ?_ ?_
    · refine Keeps.via (State.portGoes_keeps _ _ _ _) (by decide) ?_
      exact Keeps.mono (State.notePort_keeps _ _ _) (by decide)
    · refine Keeps.ite ?_ ?_
      · refine Keeps.via (State.portGoes_keeps _ _ _ _) (by decide) ?_
        exact Keeps.mono (State.notePort_keeps _ _ _) (by decide)
      · refine Keeps.via (State.portGoes_keeps _ _ _ _) (by decide) ?_
        refine Keeps.via (State.notePort_keeps _ _ _) (by decide) ?_
        exact Keeps.mono (State.notePort_keeps _ _ _) (by decide)

theorem State.probeSend_keeps (s : State) (p : Nat) : Keeps [.cfl, .tx] s (State.probeSend s p) := by
  unfold State.probeSend
  refine Keeps.ite ?_ ?_
  · exact Keeps.mono (State.sendLocal_keeps _ _ _ _) (by decide)
  · exact Keeps.refl _ _

theorem execProbeSend_keeps (port : Nat) (s : State) : Keeps [.cfl, .tx] s (stateAfter (execProbeSend port s) s) :=
    by
  unfold execProbeSend
  refine Keeps.engineCmd ?_
  exact Keeps.mono (State.probeSend_keeps _ _) (by decide)

theorem State.sendHello_keeps (s : State) (p : Nat) : Keeps [.fns, .spr, .cfl, .evt, .snp, .pins, .tx] s
    (State.sendHello s p) := by
  unfold State.sendHello
  dsimp -proj only
  refine Keeps.ite ?_ ?_
  · exact Keeps.refl _ _
  · refine Keeps.via (State.sendLocal_keeps _ _ _ _) (by decide) ?_
    refine Keeps.via (State.notePort_keeps _ _ _) (by decide) ?_
    exact Keeps.mono (State.generate_keeps _ _ _) (by decide)

theorem State.gotProbe_keeps (s : State) (p dev : Nat) : Keeps [.fns, .jobs, .weir, .slots, .spr, .tiles, .cores,
    .spans, .stores, .hbm, .cfl, .evt, .snp, .pins, .tx] s (State.gotProbe s p dev) := by
  unfold State.gotProbe
  dsimp -proj only
  refine Keeps.ite ?_ ?_
  · exact Keeps.refl _ _
  · refine Keeps.ite ?_ ?_
    · exact Keeps.mono (State.refusePort_keeps _ _ _) (by decide)
    · refine Keeps.ite ?_ ?_
      · refine Keeps.via (State.sendHello_keeps _ _) (by decide) ?_
        exact Keeps.mono (State.notePort_keeps _ _ _) (by decide)
      · exact Keeps.mono (State.notePort_keeps _ _ _) (by decide)

theorem State.countRx_keeps (s : State) (p : Nat) : Keeps [.cfl] s (State.countRx s p) := by
  unfold State.countRx
  dsimp -proj only
  refine Keeps.via (Keeps.set_cfl _ _) (by decide) ?_
  exact Keeps.mono (State.notePort_keeps _ _ _) (by decide)

theorem execProbe_keeps (port devId clusterId : Nat) (s : State) : Keeps [.fns, .jobs, .weir, .slots, .spr, .tiles,
    .cores, .spans, .stores, .hbm, .cfl, .evt, .snp, .pins, .tx] s (stateAfter (execProbe port devId clusterId s) s)
    := by
  unfold execProbe
  dsimp -proj only
  refine Keeps.engineCmd ?_
  refine Keeps.ite ?_ ?_
  · refine Keeps.via (State.gotProbe_keeps _ _ _) (by decide) ?_
    exact Keeps.mono (State.countRx_keeps _ _) (by decide)
  · exact Keeps.refl _ _

theorem State.sendReply_keeps (s : State) (p : Nat) : Keeps [.cfl, .tx] s (State.sendReply s p) := by
  unfold State.sendReply
  dsimp -proj only
  exact Keeps.mono (State.sendLocal_keeps _ _ _ _) (by decide)

theorem State.gotHello_keeps (s : State) (p : Nat) (ek : Bytes) (m : LinkStatement) : Keeps [.fns, .jobs, .weir,
    .slots, .spr, .tiles, .cores, .spans, .stores, .hbm, .cfl, .evt, .snp, .pins, .tx] s (State.gotHello s p ek m)
    := by
  unfold State.gotHello
  dsimp -proj only
  refine Keeps.ite ?_ ?_
  · exact Keeps.refl _ _
  · split
    · refine Keeps.ite ?_ ?_
      · exact Keeps.refl _ _
      · refine Keeps.via (State.sendReply_keeps _ _) (by decide) ?_
        refine Keeps.via (State.notePort_keeps _ _ _) (by decide) ?_
        exact Keeps.mono (State.generate_keeps _ _ _) (by decide)
    · exact Keeps.mono (State.refusePort_keeps _ _ _) (by decide)

theorem State.noteRekey_keeps (s : State) (p : Nat) : Keeps [.cfl] s (State.noteRekey s p) := by
  unfold State.noteRekey
  dsimp -proj only
  refine Keeps.ite ?_ ?_
  · exact Keeps.mono (State.notePort_keeps _ _ _) (by decide)
  · exact Keeps.refl _ _

theorem execHello_keeps (port : Nat) (ek : Bytes) (stmt : LinkStatement) (s : State) : Keeps [.fns, .jobs, .weir,
    .slots, .spr, .tiles, .cores, .spans, .stores, .hbm, .cfl, .evt, .snp, .pins, .tx] s (stateAfter (execHello port
    ek stmt s) s) := by
  unfold execHello
  refine Keeps.engineCmd ?_
  refine Keeps.ite ?_ ?_
  · refine Keeps.via (State.gotHello_keeps _ _ _ _) (by decide) ?_
    refine Keeps.via (State.noteRekey_keeps _ _) (by decide) ?_
    exact Keeps.mono (State.countRx_keeps _ _) (by decide)
  · exact Keeps.refl _ _

theorem State.drawCluster_keeps (s : State) : Keeps [.fns, .spr, .cfl, .evt, .snp, .pins, .tx] s (State.drawCluster
    s) := by
  unfold State.drawCluster
  dsimp -proj only
  refine Keeps.ite ?_ ?_
  · refine Keeps.via (State.raise_keeps _ _ _) (by decide) ?_
    refine Keeps.via (Keeps.set_cfl _ _) (by decide) ?_
    exact Keeps.mono (State.generate_keeps _ _ _) (by decide)
  · exact Keeps.refl _ _

theorem State.linkUp_keeps (s : State) (p : Nat) (hs : Handshake) : Keeps [.fns, .spr, .cfl, .evt, .snp, .pins, .tx]
    s (State.linkUp s p hs) := by
  unfold State.linkUp
  dsimp -proj only
  refine Keeps.via (State.drawCluster_keeps _) (by decide) ?_
  refine Keeps.via (State.portGoes_keeps _ _ _ _) (by decide) ?_
  refine Keeps.ite ?_ ?_
  · exact Keeps.mono (State.notePort_keeps _ _ _) (by decide)
  · refine Keeps.via (Keeps.set_cfl _ _) (by decide) ?_
    exact Keeps.mono (State.notePort_keeps _ _ _) (by decide)

theorem State.sendFinish_keeps (s : State) (p : Nat) : Keeps [.cfl, .tx] s (State.sendFinish s p) := by
  unfold State.sendFinish
  dsimp -proj only
  exact Keeps.mono (State.sendLocal_keeps _ _ _ _) (by decide)

theorem State.gotReply_keeps (s : State) (p : Nat) (ct : Bytes) (m : LinkStatement) : Keeps [.fns, .jobs, .weir,
    .slots, .spr, .tiles, .cores, .spans, .stores, .hbm, .cfl, .evt, .snp, .pins, .tx] s (State.gotReply s p ct m)
    := by
  unfold State.gotReply
  dsimp -proj only
  refine Keeps.ite ?_ ?_
  · exact Keeps.refl _ _
  · refine Keeps.ite ?_ ?_
    · exact Keeps.mono (State.sendFinish_keeps _ _) (by decide)
    · refine Keeps.ite ?_ ?_
      · exact Keeps.refl _ _
      · split
        · refine Keeps.via (State.sendFinish_keeps _ _) (by decide) ?_
          refine Keeps.via (State.linkUp_keeps _ _ _) (by decide) ?_
          exact Keeps.mono (State.notePort_keeps _ _ _) (by decide)
        · exact Keeps.mono (State.refusePort_keeps _ _ _) (by decide)

theorem execReply_keeps (port : Nat) (ct : Bytes) (stmt : LinkStatement) (s : State) : Keeps [.fns, .jobs, .weir,
    .slots, .spr, .tiles, .cores, .spans, .stores, .hbm, .cfl, .evt, .snp, .pins, .tx] s (stateAfter (execReply port
    ct stmt s) s) := by
  unfold execReply
  refine Keeps.engineCmd ?_
  refine Keeps.ite ?_ ?_
  · refine Keeps.via (State.gotReply_keeps _ _ _ _) (by decide) ?_
    exact Keeps.mono (State.countRx_keeps _ _) (by decide)
  · exact Keeps.refl _ _

theorem State.gotFinish_keeps (s : State) (p : Nat) (tag : Bytes) : Keeps [.fns, .spr, .cfl, .evt, .snp, .pins, .tx]
    s (State.gotFinish s p tag) := by
  unfold State.gotFinish
  dsimp -proj only
  refine Keeps.ite ?_ ?_
  · exact Keeps.mono (State.linkUp_keeps _ _ _) (by decide)
  · exact Keeps.refl _ _

theorem execFinish_keeps (port : Nat) (tag : Bytes) (s : State) : Keeps [.fns, .spr, .cfl, .evt, .snp, .pins, .tx] s
    (stateAfter (execFinish port tag s) s) := by
  unfold execFinish
  refine Keeps.engineCmd ?_
  refine Keeps.ite ?_ ?_
  · refine Keeps.via (State.gotFinish_keeps _ _ _) (by decide) ?_
    exact Keeps.mono (State.countRx_keeps _ _) (by decide)
  · exact Keeps.refl _ _

theorem State.resend_keeps (s : State) (p : Nat) : Keeps [.now, .fns, .spr, .cfl, .evt, .snp, .pins, .tx] s
    (State.resend s p) := by
  unfold State.resend
  dsimp -proj only
  split
  · refine Keeps.via (State.sendHello_keeps _ _) (by decide) ?_
    exact Keeps.mono (State.atTime_keeps _ _) (by decide)
  · refine Keeps.via (State.sendReply_keeps _ _) (by decide) ?_
    refine Keeps.via (State.notePort_keeps _ _ _) (by decide) ?_
    exact Keeps.mono (State.atTime_keeps _ _) (by decide)
  · exact Keeps.refl _ _

theorem execHandshakeResend_keeps (port : Nat) (s : State) : Keeps [.now, .fns, .spr, .cfl, .evt, .snp, .pins, .tx]
    s (stateAfter (execHandshakeResend port s) s) := by
  unfold execHandshakeResend
  refine Keeps.engineCmd ?_
  refine Keeps.ite ?_ ?_
  · exact Keeps.mono (State.resend_keeps _ _) (by decide)
  · exact Keeps.refl _ _

theorem State.handshakeLate_keeps (s : State) (p : Nat) : Keeps [.now, .fns, .jobs, .weir, .slots, .spr, .tiles,
    .cores, .spans, .stores, .hbm, .cfl, .evt, .snp, .pins, .tx] s (State.handshakeLate s p) := by
  unfold State.handshakeLate
  split
  · refine Keeps.via (State.refusePort_keeps _ _ _) (by decide) ?_
    exact Keeps.mono (State.atTime_keeps _ _) (by decide)
  · exact Keeps.refl _ _

theorem execHandshakeTimeout_keeps (port : Nat) (s : State) : Keeps [.now, .fns, .jobs, .weir, .slots, .spr, .tiles,
    .cores, .spans, .stores, .hbm, .cfl, .evt, .snp, .pins, .tx] s (stateAfter (execHandshakeTimeout port s) s) :=
    by
  unfold execHandshakeTimeout
  refine Keeps.engineCmd ?_
  refine Keeps.ite ?_ ?_
  · exact Keeps.mono (State.handshakeLate_keeps _ _) (by decide)
  · exact Keeps.refl _ _

theorem State.rekey_keeps (s : State) (p : Nat) : Keeps [.now, .fns, .spr, .cfl, .evt, .snp, .pins, .tx] s
    (State.rekey s p) := by
  unfold State.rekey
  dsimp -proj only
  refine Keeps.ite ?_ ?_
  · exact Keeps.refl _ _
  · refine Keeps.via (State.sendHello_keeps _ _) (by decide) ?_
    refine Keeps.via (State.notePort_keeps _ _ _) (by decide) ?_
    refine Keeps.ite ?_ ?_
    · exact Keeps.mono (State.atTime_keeps _ _) (by decide)
    · exact Keeps.refl _ _

theorem execRekey_keeps (port : Nat) (s : State) : Keeps [.now, .fns, .spr, .cfl, .evt, .snp, .pins, .tx] s
    (stateAfter (execRekey port s) s) := by
  unfold execRekey
  refine Keeps.engineCmd ?_
  exact Keeps.mono (State.rekey_keeps _ _) (by decide)

theorem execLinkFrameTagFail_keeps (port : Nat) (s : State) : Keeps [.cfl] s (stateAfter (execLinkFrameTagFail port
    s) s) := by
  unfold execLinkFrameTagFail
  refine Keeps.engineCmd ?_
  refine Keeps.ite ?_ ?_
  · refine Keeps.via (State.dropMsg_keeps _) (by decide) ?_
    exact Keeps.mono (State.notePort_keeps _ _ _) (by decide)
  · exact Keeps.refl _ _

theorem State.forward_keeps (s : State) (cls : Nat) (h : MsgHdr) (body : Bytes) : Keeps [.cfl, .tx] s (State.forward
    s cls h body) := by
  unfold State.forward
  refine Keeps.ite ?_ ?_
  · exact Keeps.mono (State.dropMsg_keeps _) (by decide)
  · split
    · exact Keeps.mono (State.dropMsg_keeps _) (by decide)
    · exact Keeps.mono (State.sendFrame_keeps _ _ _ _ _) (by decide)

theorem execMessageForward_keeps (port cls : Nat) (hdr : MsgHdr) (body : Bytes) (s : State) : Keeps [.cfl, .tx] s
    (stateAfter (execMessageForward port cls hdr body s) s) := by
  unfold execMessageForward
  refine Keeps.engineCmd ?_
  refine Keeps.ite ?_ ?_
  · refine Keeps.via (State.forward_keeps _ _ _ _) (by decide) ?_
    exact Keeps.mono (State.notePort_keeps _ _ _) (by decide)
  · exact Keeps.refl _ _

theorem State.floodOn_keeps (s : State) (p cls : Nat) (h : MsgHdr) (body : Bytes) : Keeps [.cfl, .tx] s
    (State.floodOn s p cls h body) := by
  unfold State.floodOn
  dsimp -proj only
  refine Keeps.ite ?_ ?_
  · exact Keeps.refl _ _
  · refine Keeps.ite ?_ ?_
    · refine Keeps.via (State.dropMsg_keeps _) (by decide) ?_
      exact Keeps.mono (Keeps.set_cfl _ _) (by decide)
    · refine Keeps.foldlVia (fun s a => ?_) ?_
      · exact Keeps.mono (State.sendFrame_keeps _ _ _ _ _) (by decide)
      · exact Keeps.mono (Keeps.set_cfl _ _) (by decide)

theorem execFloodForward_keeps (port cls : Nat) (hdr : MsgHdr) (body : Bytes) (s : State) : Keeps [.cfl, .tx] s
    (stateAfter (execFloodForward port cls hdr body s) s) := by
  unfold execFloodForward
  refine Keeps.engineCmd ?_
  refine Keeps.ite ?_ ?_
  · exact Keeps.mono (State.floodOn_keeps _ _ _ _ _) (by decide)
  · exact Keeps.refl _ _

theorem execTimeExchange_keeps (port : Nat) (s : State) : Keeps [.cfl, .tx] s (stateAfter (execTimeExchange port s)
    s) := by
  unfold execTimeExchange
  refine Keeps.engineCmd ?_
  refine Keeps.ite ?_ ?_
  · exact Keeps.mono (State.sendLocal_keeps _ _ _ _) (by decide)
  · exact Keeps.refl _ _

theorem State.gotTime_keeps (s : State) (p : Nat) (m : TimeMsg) : Keeps [.fns, .cfl, .evt, .snp, .pins, .tx] s
    (State.gotTime s p m) := by
  unfold State.gotTime
  dsimp -proj only
  refine Keeps.ite ?_ ?_
  · refine Keeps.via (State.chooseMaster_keeps _) (by decide) ?_
    exact Keeps.mono (State.notePort_keeps _ _ _) (by decide)
  · refine Keeps.ite ?_ ?_
    · refine Keeps.via (State.raise_keeps _ _ _) (by decide) ?_
      refine Keeps.via (Keeps.set_cfl _ _) (by decide) ?_
      refine Keeps.via (State.correctTime_keeps _ _) (by decide) ?_
      refine Keeps.via (State.notePort_keeps _ _ _) (by decide) ?_
      refine Keeps.via (State.chooseMaster_keeps _) (by decide) ?_
      exact Keeps.mono (State.notePort_keeps _ _ _) (by decide)
    · refine Keeps.via (State.correctTime_keeps _ _) (by decide) ?_
      refine Keeps.via (State.notePort_keeps _ _ _) (by decide) ?_
      refine Keeps.via (State.chooseMaster_keeps _) (by decide) ?_
      exact Keeps.mono (State.notePort_keeps _ _ _) (by decide)

theorem execTime_keeps (port : Nat) (msg : TimeMsg) (s : State) : Keeps [.fns, .cfl, .evt, .snp, .pins, .tx] s
    (stateAfter (execTime port msg s) s) := by
  unfold execTime
  refine Keeps.engineCmd ?_
  refine Keeps.ite ?_ ?_
  · refine Keeps.via (State.gotTime_keeps _ _ _) (by decide) ?_
    exact Keeps.mono (State.countRx_keeps _ _) (by decide)
  · exact Keeps.refl _ _

theorem State.ppsEdge_keeps (s : State) : Keeps [.fns, .cfl, .evt, .snp, .pins, .tx] s (State.ppsEdge s) := by
  unfold State.ppsEdge
  dsimp -proj only
  refine Keeps.ite ?_ ?_
  · refine Keeps.via (State.correctTime_keeps _ _) (by decide) ?_
    refine Keeps.ite ?_ ?_
    · refine Keeps.via (State.chooseMaster_keeps _) (by decide) ?_
      refine Keeps.via (State.raise_keeps _ _ _) (by decide) ?_
      exact Keeps.mono (Keeps.set_cfl _ _) (by decide)
    · exact Keeps.mono (Keeps.set_cfl _ _) (by decide)
  · refine Keeps.ite ?_ ?_
    · refine Keeps.via (State.chooseMaster_keeps _) (by decide) ?_
      refine Keeps.via (State.raise_keeps _ _ _) (by decide) ?_
      exact Keeps.mono (Keeps.set_cfl _ _) (by decide)
    · exact Keeps.mono (Keeps.set_cfl _ _) (by decide)

theorem execPpsInEdge_keeps (s : State) : Keeps [.fns, .cfl, .evt, .snp, .pins, .tx] s (stateAfter (execPpsInEdge s)
    s) := by
  unfold execPpsInEdge
  refine Keeps.engineCmd ?_
  exact Keeps.mono (State.ppsEdge_keeps _) (by decide)

theorem State.timeSet_keeps (s : State) (hi : Nat) : Keeps [.cfl] s (State.timeSet s hi) := by
  unfold State.timeSet
  dsimp -proj only
  refine Keeps.ite ?_ ?_
  · refine Keeps.via (Keeps.set_cfl _ _) (by decide) ?_
    exact Keeps.mono (Keeps.set_cfl _ _) (by decide)
  · exact Keeps.mono (Keeps.set_cfl _ _) (by decide)

theorem execCflTimeSet_keeps (hi : Nat) (s : State) : Keeps [.cfl] s (stateAfter (execCflTimeSet hi s) s) := by
  unfold execCflTimeSet
  refine Keeps.hostCmd ?_
  exact Keeps.mono (State.timeSet_keeps _ _) (by decide)

theorem execAlarm_keeps (port : Nat) (hdr : MsgHdr) (s : State) : Keeps [.fns, .cfl, .evt, .snp, .pins, .tx] s
    (stateAfter (execAlarm port hdr s) s) := by
  unfold execAlarm
  refine Keeps.engineCmd ?_
  unfold State.onFlood
  refine Keeps.ite ?_ ?_
  · exact Keeps.refl _ _
  · dsimp -proj only
    refine Keeps.via (State.raise_keeps _ _ _) (by decide) ?_
    refine Keeps.via (Keeps.set_cfl _ _) (by decide) ?_
    exact Keeps.mono (State.countRx_keeps _ _) (by decide)

theorem State.leaseFails_keeps (s : State) (q : CflReq) : Keeps [.fns, .jobs, .weir, .slots, .spr, .tiles, .cores,
    .spans, .stores, .hbm, .cfl, .evt, .snp, .pins, .tx] s (State.leaseFails s q) := by
  unfold State.leaseFails
  dsimp -proj only
  split
  · exact Keeps.mono (State.dropReq_keeps _ _) (by decide)
  · refine Keeps.via (State.raiseReach_keeps _ _ _ _) (by decide) ?_
    refine Keeps.via (State.endJob_keeps _ _ _ _) (by decide) ?_
    exact Keeps.mono (State.dropReq_keeps _ _) (by decide)

theorem State.learnFence_keeps (s : State) (dev : Nat) : Keeps [.fns, .jobs, .weir, .slots, .spr, .tiles, .cores,
    .spans, .stores, .hbm, .cfl, .evt, .snp, .pins, .tx] s (State.learnFence s dev) := by
  unfold State.learnFence
  dsimp -proj only
  refine Keeps.foldlVia (fun s a => ?_) ?_
  · exact Keeps.mono (State.leaseFails_keeps _ _) (by decide)
  · exact Keeps.mono (Keeps.set_cfl _ _) (by decide)

theorem execFenced_keeps (port : Nat) (hdr : MsgHdr) (s : State) : Keeps [.fns, .jobs, .weir, .slots, .spr, .tiles,
    .cores, .spans, .stores, .hbm, .cfl, .evt, .snp, .pins, .tx] s (stateAfter (execFenced port hdr s) s) := by
  unfold execFenced
  refine Keeps.engineCmd ?_
  unfold State.onFlood
  refine Keeps.ite ?_ ?_
  · exact Keeps.refl _ _
  · dsimp -proj only
    refine Keeps.via (State.raise_keeps _ _ _) (by decide) ?_
    refine Keeps.via (State.learnFence_keeps _ _) (by decide) ?_
    refine Keeps.via (Keeps.set_cfl _ _) (by decide) ?_
    exact Keeps.mono (State.countRx_keeps _ _) (by decide)

theorem execTrigger_keeps (port : Nat) (hdr : MsgHdr) (s : State) : Keeps [.fns, .cfl, .evt, .snp, .pins, .tx] s
    (stateAfter (execTrigger port hdr s) s) := by
  unfold execTrigger
  refine Keeps.engineCmd ?_
  unfold State.onFlood
  refine Keeps.ite ?_ ?_
  · exact Keeps.refl _ _
  · dsimp -proj only
    refine Keeps.via (State.requestCapture_keeps _ _) (by decide) ?_
    refine Keeps.via (State.raise_keeps _ _ _) (by decide) ?_
    refine Keeps.via (Keeps.set_cfl _ _) (by decide) ?_
    exact Keeps.mono (State.countRx_keeps _ _) (by decide)

theorem State.activateMsg_keeps (s : State) (instant : Nat) (digest : Bytes) (cancel : Bool) : Keeps [.fwu] s
    (State.activateMsg s instant digest cancel) := by
  unfold State.activateMsg
  dsimp -proj only
  refine Keeps.ite ?_ ?_
  · exact Keeps.mono (Keeps.set_fwu _ _) (by decide)
  · refine Keeps.ite ?_ ?_
    · exact Keeps.mono (Keeps.set_fwu _ _) (by decide)
    · exact Keeps.mono (Keeps.set_fwu _ _) (by decide)

theorem execFwActivate_keeps (port : Nat) (hdr : MsgHdr) (instant : Nat) (digest : Bytes) (cancel : Bool) (s :
    State) : Keeps [.cfl, .fwu] s (stateAfter (execFwActivate port hdr instant digest cancel s) s) := by
  unfold execFwActivate
  refine Keeps.engineCmd ?_
  unfold State.onFlood
  refine Keeps.ite ?_ ?_
  · exact Keeps.refl _ _
  · dsimp -proj only
    refine Keeps.via (State.activateMsg_keeps _ _ _ _) (by decide) ?_
    refine Keeps.via (Keeps.set_cfl _ _) (by decide) ?_
    exact Keeps.mono (State.countRx_keeps _ _) (by decide)

theorem State.answer_keeps (s : State) (h : MsgHdr) (cls status : Nat) (body : Bytes) : Keeps [.cfl, .tx] s
    (State.answer s h cls status body) := by
  unfold State.answer
  exact Keeps.mono (State.sendAs_keeps _ _ _ _ _ _ _ _ _) (by decide)

theorem State.refuseReq_keeps (s : State) (h : MsgHdr) (st : Status) : Keeps [.cfl, .tx] s (State.refuseReq s h st)
    := by
  unfold State.refuseReq
  dsimp -proj only
  refine Keeps.ite ?_ ?_
  · refine Keeps.via (Keeps.set_cfl _ _) (by decide) ?_
    exact Keeps.mono (State.answer_keeps _ _ _ _ _) (by decide)
  · exact Keeps.mono (State.answer_keeps _ _ _ _ _) (by decide)

theorem State.gotLeaseReq_keeps (s : State) (h : MsgHdr) (keyId : Bytes) : Keeps [.fns, .records, .cfl, .evt, .snp,
    .pins, .tx] s (State.gotLeaseReq s h keyId) := by
  unfold State.gotLeaseReq
  dsimp -proj only
  refine Keeps.ite ?_ ?_
  · exact Keeps.mono (State.refuseReq_keeps _ _ _) (by decide)
  · refine Keeps.ite ?_ ?_
    · exact Keeps.mono (State.refuseReq_keeps _ _ _) (by decide)
    · split
      · refine Keeps.via (State.answer_keeps _ _ _ _ _) (by decide) ?_
        exact Keeps.mono (State.setRecord_keeps _ _) (by decide)
      · refine Keeps.via (State.answer_keeps _ _ _ _ _) (by decide) ?_
        exact Keeps.mono (State.unusableEvent_keeps _ _) (by decide)

theorem execLeaseReq_keeps (port : Nat) (hdr : MsgHdr) (keyId : Bytes) (s : State) : Keeps [.fns, .records, .cfl,
    .evt, .snp, .pins, .tx] s (stateAfter (execLeaseReq port hdr keyId s) s) := by
  unfold execLeaseReq
  refine Keeps.engineCmd ?_
  refine Keeps.ite ?_ ?_
  · refine Keeps.via (State.gotLeaseReq_keeps _ _ _) (by decide) ?_
    exact Keeps.mono (State.countRx_keeps _ _) (by decide)
  · exact Keeps.refl _ _

theorem State.gotGrant_keeps (s : State) (h : MsgHdr) (start stop remain : Nat) : Keeps [.fns, .reaches, .jobs,
    .weir, .kst, .slots, .spr, .tiles, .cores, .spans, .stores, .hbm, .cfl, .evt, .snp, .rst, .pins, .tx] s
    (State.gotGrant s h start stop remain) := by
  unfold State.gotGrant
  dsimp -proj only
  split
  · exact Keeps.refl _ _
  · refine Keeps.ite ?_ ?_
    · exact Keeps.refl _ _
    · refine Keeps.ite ?_ ?_
      · exact Keeps.mono (State.leaseFails_keeps _ _) (by decide)
      · refine Keeps.ite ?_ ?_
        · exact Keeps.mono (State.dropReq_keeps _ _) (by decide)
        · refine Keeps.ite ?_ ?_
          · refine Keeps.via (State.drawWaiting_keeps _ _) (by decide) ?_
            refine Keeps.via (State.setSlot_keeps _ _ _) (by decide) ?_
            exact Keeps.mono (State.dropReq_keeps _ _) (by decide)
          · refine Keeps.via (State.setSlot_keeps _ _ _) (by decide) ?_
            exact Keeps.mono (State.dropReq_keeps _ _) (by decide)

theorem execLeaseGrant_keeps (port : Nat) (hdr : MsgHdr) (start stop remain : Nat) (s : State) : Keeps [.fns,
    .reaches, .jobs, .weir, .kst, .slots, .spr, .tiles, .cores, .spans, .stores, .hbm, .cfl, .evt, .snp, .rst,
    .pins, .tx] s (stateAfter (execLeaseGrant port hdr start stop remain s) s) := by
  unfold execLeaseGrant
  refine Keeps.engineCmd ?_
  refine Keeps.ite ?_ ?_
  · refine Keeps.via (State.gotGrant_keeps _ _ _ _ _) (by decide) ?_
    exact Keeps.mono (State.countRx_keeps _ _) (by decide)
  · exact Keeps.refl _ _

theorem State.grantLate_keeps (s : State) (req : Nat) : Keeps [.now, .fns, .jobs, .weir, .slots, .spr, .tiles,
    .cores, .spans, .stores, .hbm, .cfl, .evt, .snp, .pins, .tx] s (State.grantLate s req) := by
  unfold State.grantLate
  split
  · refine Keeps.via (State.leaseFails_keeps _ _) (by decide) ?_
    exact Keeps.mono (State.atTime_keeps _ _) (by decide)
  · exact Keeps.refl _ _

theorem execLeaseGrantTimeout_keeps (req : Nat) (s : State) : Keeps [.now, .fns, .jobs, .weir, .slots, .spr, .tiles,
    .cores, .spans, .stores, .hbm, .cfl, .evt, .snp, .pins, .tx] s (stateAfter (execLeaseGrantTimeout req s) s) :=
    by
  unfold execLeaseGrantTimeout
  refine Keeps.engineCmd ?_
  exact Keeps.mono (State.grantLate_keeps _ _) (by decide)

theorem State.reqFails_keeps (s : State) (q : CflReq) : Keeps [.fns, .jobs, .weir, .kst, .slots, .spr, .tiles,
    .cores, .spans, .stores, .hbm, .cfl, .evt, .snp, .pins, .tx] s (State.reqFails s q) := by
  unfold State.reqFails
  dsimp -proj only
  refine Keeps.ite ?_ ?_
  · exact Keeps.mono (State.leaseFails_keeps _ _) (by decide)
  · split
    · refine Keeps.ite ?_ ?_
      · refine Keeps.via (State.spillHome_keeps _ _) (by decide) ?_
        refine Keeps.ite ?_ ?_
        · refine Keeps.via (Keeps.set_kst _ _) (by decide) ?_
          exact Keeps.mono (State.dropReq_keeps _ _) (by decide)
        · exact Keeps.mono (State.dropReq_keeps _ _) (by decide)
      · refine Keeps.ite ?_ ?_
        · refine Keeps.via (Keeps.set_kst _ _) (by decide) ?_
          exact Keeps.mono (State.dropReq_keeps _ _) (by decide)
        · exact Keeps.mono (State.dropReq_keeps _ _) (by decide)
    · refine Keeps.ite ?_ ?_
      · refine Keeps.via (Keeps.set_kst _ _) (by decide) ?_
        exact Keeps.mono (State.dropReq_keeps _ _) (by decide)
      · exact Keeps.mono (State.dropReq_keeps _ _) (by decide)

theorem State.gotRefuse_keeps (s : State) (h : MsgHdr) (status : Nat) : Keeps [.fns, .jobs, .weir, .kst, .slots,
    .spr, .tiles, .cores, .spans, .stores, .hbm, .cfl, .evt, .snp, .pins, .tx] s (State.gotRefuse s h status) := by
  unfold State.gotRefuse
  dsimp -proj only
  split
  · exact Keeps.refl _ _
  · refine Keeps.ite ?_ ?_
    · exact Keeps.mono (Keeps.set_cfl _ _) (by decide)
    · exact Keeps.mono (State.reqFails_keeps _ _) (by decide)

theorem execRefuse_keeps (port : Nat) (hdr : MsgHdr) (status : Nat) (s : State) : Keeps [.fns, .jobs, .weir, .kst,
    .slots, .spr, .tiles, .cores, .spans, .stores, .hbm, .cfl, .evt, .snp, .pins, .tx] s (stateAfter (execRefuse
    port hdr status s) s) := by
  unfold execRefuse
  refine Keeps.engineCmd ?_
  refine Keeps.ite ?_ ?_
  · refine Keeps.via (State.gotRefuse_keeps _ _ _) (by decide) ?_
    exact Keeps.mono (State.countRx_keeps _ _) (by decide)
  · exact Keeps.refl _ _

theorem State.sendAgain_keeps (s : State) (q : CflReq) : Keeps [.cfl, .tx] s (State.sendAgain s q) := by
  unfold State.sendAgain
  dsimp -proj only
  refine Keeps.via (State.awaitReply_keeps _ _) (by decide) ?_
  refine Keeps.via (State.sendNew_keeps _ _ _ _ _ _) (by decide) ?_
  exact Keeps.mono (State.dropReq_keeps _ _) (by decide)

theorem execAdvertSend_keeps (port : Nat) (s : State) : Keeps [.cfl, .tx] s (stateAfter (execAdvertSend port s) s)
    := by
  unfold execAdvertSend
  refine Keeps.engineCmd ?_
  refine Keeps.ite ?_ ?_
  · exact Keeps.mono (State.sendLocal_keeps _ _ _ _) (by decide)
  · exact Keeps.refl _ _

theorem State.takeClusterKey_keeps (s : State) (m : AdvertMsg) : Keeps [.fns, .cfl, .evt, .snp, .pins, .tx] s
    (State.takeClusterKey s m) := by
  unfold State.takeClusterKey
  dsimp -proj only
  split
  · refine Keeps.ite ?_ ?_
    · refine Keeps.via (State.raise_keeps _ _ _) (by decide) ?_
      exact Keeps.mono (Keeps.set_cfl _ _) (by decide)
    · exact Keeps.refl _ _
  · exact Keeps.refl _ _

theorem State.gotAdvert_keeps (s : State) (p : Nat) (m : AdvertMsg) : Keeps [.fns, .jobs, .weir, .slots, .spr,
    .tiles, .cores, .spans, .stores, .hbm, .cfl, .evt, .snp, .pins, .tx] s (State.gotAdvert s p m) := by
  unfold State.gotAdvert
  dsimp -proj only
  refine Keeps.ite ?_ ?_
  · refine Keeps.via (State.copiesOnLink_keeps _ _) (by decide) ?_
    refine Keeps.foldlVia (fun s a => ?_) ?_
    · exact Keeps.mono (State.sendAgain_keeps _ _) (by decide)
    · refine Keeps.via (State.takeClusterKey_keeps _ _) (by decide) ?_
      refine Keeps.ite ?_ ?_
      · refine Keeps.via (State.learnFence_keeps _ _) (by decide) ?_
        exact Keeps.mono (State.notePort_keeps _ _ _) (by decide)
      · exact Keeps.mono (State.notePort_keeps _ _ _) (by decide)
  · refine Keeps.foldlVia (fun s a => ?_) ?_
    · exact Keeps.mono (State.sendAgain_keeps _ _) (by decide)
    · refine Keeps.via (State.takeClusterKey_keeps _ _) (by decide) ?_
      refine Keeps.ite ?_ ?_
      · refine Keeps.via (State.learnFence_keeps _ _) (by decide) ?_
        exact Keeps.mono (State.notePort_keeps _ _ _) (by decide)
      · exact Keeps.mono (State.notePort_keeps _ _ _) (by decide)

theorem execAdvert_keeps (port : Nat) (msg : AdvertMsg) (s : State) : Keeps [.fns, .jobs, .weir, .slots, .spr,
    .tiles, .cores, .spans, .stores, .hbm, .cfl, .evt, .snp, .pins, .tx] s (stateAfter (execAdvert port msg s) s) :=
    by
  unfold execAdvert
  refine Keeps.engineCmd ?_
  refine Keeps.ite ?_ ?_
  · refine Keeps.via (State.gotAdvert_keeps _ _ _) (by decide) ?_
    exact Keeps.mono (State.countRx_keeps _ _) (by decide)
  · exact Keeps.refl _ _

theorem State.installCopy_keeps (s : State) (k : KeyMsg) (a : BitVec 64) : Keeps [.kst, .slots, .hbm] s
    (State.installCopy s k a) := by
  unfold State.installCopy
  dsimp -proj only
  split
  · exact Keeps.refl _ _
  · exact Keeps.mono (State.storeSlot_keeps _ _ _) (by decide)

theorem State.gotCopy_keeps (s : State) (h : MsgHdr) (k : KeyMsg) : Keeps [.reaches, .jobs, .kst, .slots, .records,
    .hbm, .cfl, .tx] s (State.gotCopy s h k) := by
  unfold State.gotCopy
  dsimp -proj only
  refine Keeps.ite ?_ ?_
  · exact Keeps.mono (State.refuseReq_keeps _ _ _) (by decide)
  · refine Keeps.ite ?_ ?_
    · exact Keeps.mono (State.refuseReq_keeps _ _ _) (by decide)
    · refine Keeps.ite ?_ ?_
      · exact Keeps.mono (State.invalidate_keeps _ _) (by decide)
      · exact Keeps.mono (State.installCopy_keeps _ _ _) (by decide)

theorem execKeyRepl_keeps (port : Nat) (hdr : MsgHdr) (key : KeyMsg) (s : State) : Keeps [.reaches, .jobs, .kst,
    .slots, .records, .hbm, .cfl, .tx] s (stateAfter (execKeyRepl port hdr key s) s) := by
  unfold execKeyRepl
  refine Keeps.engineCmd ?_
  refine Keeps.ite ?_ ?_
  · refine Keeps.via (State.gotCopy_keeps _ _ _) (by decide) ?_
    exact Keeps.mono (State.countRx_keeps _ _) (by decide)
  · exact Keeps.refl _ _

theorem State.gotPlace_keeps (s : State) (h : MsgHdr) (k : KeyMsg) : Keeps [.kst, .slots, .hbm, .cfl, .tx] s
    (State.gotPlace s h k) := by
  unfold State.gotPlace
  refine Keeps.ite ?_ ?_
  · exact Keeps.mono (State.refuseReq_keeps _ _ _) (by decide)
  · refine Keeps.ite ?_ ?_
    · exact Keeps.mono (State.refuseReq_keeps _ _ _) (by decide)
    · exact Keeps.mono (State.installCopy_keeps _ _ _) (by decide)

theorem execKeyPlace_keeps (port : Nat) (hdr : MsgHdr) (key : KeyMsg) (s : State) : Keeps [.kst, .slots, .hbm, .cfl,
    .tx] s (stateAfter (execKeyPlace port hdr key s) s) := by
  unfold execKeyPlace
  refine Keeps.engineCmd ?_
  refine Keeps.ite ?_ ?_
  · refine Keeps.via (State.gotPlace_keeps _ _ _) (by decide) ?_
    exact Keeps.mono (State.countRx_keeps _ _) (by decide)
  · exact Keeps.refl _ _

end Sys2Proof.Machine
end

