-- ==== Sys2Proof/Laws/FrameLifeCycle.lean ====
section
/-! SUPPORT. What each operation of Machine/LifeCycle.lean can touch. -/

namespace Sys2Proof.Machine

open Sys2Proof

theorem State.voteLife_keeps (s : State) : Keeps [.lcs] s (State.voteLife s) := by
  unfold State.voteLife
  dsimp -proj only
  exact Keeps.mono (Keeps.set_lcs _ _) (by decide)

theorem State.lcEnd_keeps (s : State) (st : Status) : Keeps [.lcs] s (State.lcEnd s st) := by
  unfold State.lcEnd
  dsimp -proj only
  exact Keeps.mono (Keeps.set_lcs _ _) (by decide)

theorem State.lcComplete_keeps (s : State) : Keeps [.lcs, .rst, .ledger] s (State.lcComplete s) := by
  unfold State.lcComplete
  dsimp -proj only
  refine Keeps.via (State.lcEnd_keeps _ _) (by decide) ?_
  exact Keeps.mono (Keeps.setR_lcs_rst_ledger _ _ _ _ rfl) (by decide)

theorem State.lcNext_keeps (s : State) : Keeps [.lcs, .rst, .ledger] s (State.lcNext s) := by
  unfold State.lcNext
  dsimp -proj only
  split
  · exact Keeps.mono (Keeps.setR_rst _ _ rfl) (by decide)
  · exact Keeps.mono (State.lcComplete_keeps _) (by decide)
  · exact Keeps.mono (Keeps.setR_lcs_rst _ _ _ rfl) (by decide)
  · exact Keeps.mono (Keeps.setR_rst _ _ rfl) (by decide)

theorem State.lcAccept_keeps (s : State) (cmd : Nat) (t : LcTrans) : Keeps [.fns, .cfl, .evt, .snp, .lcs, .rst,
    .ledger, .pins, .tx] s (State.lcAccept s cmd t) := by
  unfold State.lcAccept
  dsimp -proj only
  refine Keeps.ite ?_ ?_
  · exact Keeps.mono (State.lcEnd_keeps _ _) (by decide)
  · refine Keeps.ite ?_ ?_
    · refine Keeps.via (State.lcEnd_keeps _ _) (by decide) ?_
      exact Keeps.mono (Keeps.set_lcs _ _) (by decide)
    · refine Keeps.via (State.raise_keeps _ _ _) (by decide) ?_
      refine Keeps.via (State.lcNext_keeps _) (by decide) ?_
      refine Keeps.ite ?_ ?_
      · exact Keeps.mono (Keeps.set_lcs _ _) (by decide)
      · refine Keeps.via (Keeps.set_lcs_ledger _ _ _) (by decide) ?_
        exact Keeps.mono (Keeps.set_lcs _ _) (by decide)

theorem State.lcCmd_keeps (s : State) (cmd : Nat) (t : Option LcTrans) : Keeps [.fns, .cfl, .evt, .snp, .lcs, .rst,
    .ledger, .pins, .tx] s (State.lcCmd s cmd t) := by
  unfold State.lcCmd
  dsimp -proj only
  refine Keeps.ite ?_ ?_
  · exact Keeps.mono (Keeps.set_lcs _ _) (by decide)
  · split
    · exact Keeps.mono (State.lcEnd_keeps _ _) (by decide)
    · exact Keeps.mono (State.lcAccept_keeps _ _ _) (by decide)

theorem execTestLock_keeps (s : State) : Keeps [.fns, .cfl, .evt, .snp, .lcs, .rst, .ledger, .pins, .tx] s
    (stateAfter (execTestLock s) s) := by
  unfold execTestLock
  refine Keeps.hostCmd ?_
  exact Keeps.mono (State.lcCmd_keeps _ _ _) (by decide)

theorem execTestUnlock_keeps (s : State) : Keeps [.fns, .cfl, .evt, .snp, .lcs, .rst, .ledger, .pins, .tx] s
    (stateAfter (execTestUnlock s) s) := by
  unfold execTestUnlock
  refine Keeps.hostCmd ?_
  exact Keeps.mono (State.lcCmd_keeps _ _ _) (by decide)

theorem execPersonalise_keeps (s : State) : Keeps [.fns, .cfl, .evt, .snp, .lcs, .rst, .ledger, .pins, .tx] s
    (stateAfter (execPersonalise s) s) := by
  unfold execPersonalise
  refine Keeps.hostCmd ?_
  exact Keeps.mono (State.lcCmd_keeps _ _ _) (by decide)

theorem execTakeOwnership_keeps (s : State) : Keeps [.fns, .cfl, .evt, .snp, .lcs, .rst, .ledger, .pins, .tx] s
    (stateAfter (execTakeOwnership s) s) := by
  unfold execTakeOwnership
  refine Keeps.hostCmd ?_
  exact Keeps.mono (State.lcCmd_keeps _ _ _) (by decide)

theorem execFieldReturn_keeps (s : State) : Keeps [.fns, .cfl, .evt, .snp, .lcs, .rst, .ledger, .pins, .tx] s
    (stateAfter (execFieldReturn s) s) := by
  unfold execFieldReturn
  refine Keeps.hostCmd ?_
  exact Keeps.mono (State.lcCmd_keeps _ _ _) (by decide)

theorem execScrap_keeps (s : State) : Keeps [.fns, .cfl, .evt, .snp, .lcs, .rst, .ledger, .pins, .tx] s (stateAfter
    (execScrap s) s) := by
  unfold execScrap
  refine Keeps.hostCmd ?_
  exact Keeps.mono (State.lcCmd_keeps _ _ _) (by decide)

theorem State.burned_keeps (s : State) (x1 : LcWork) : Keeps [.ledger, .fwu] s (State.burned s x1) := by
  unfold State.burned
  dsimp -proj only
  split
  · refine Keeps.ite ?_ ?_
    · exact Keeps.refl _ _
    · exact Keeps.mono (State.lockSlots_keeps _) (by decide)
  · exact Keeps.mono (Keeps.set_fwu _ _) (by decide)
  · exact Keeps.refl _ _

theorem State.startBurn_keeps (s : State) (ws : List LcWork) : Keeps [.lcs, .rst, .ledger] s (State.startBurn s ws)
    := by
  unfold State.startBurn
  dsimp -proj only
  split
  · refine Keeps.ite ?_ ?_
    · exact Keeps.mono (Keeps.set_lcs _ _) (by decide)
    · refine Keeps.via (State.lcNext_keeps _) (by decide) ?_
      exact Keeps.mono (Keeps.set_lcs _ _) (by decide)
  · refine Keeps.via (State.lcNext_keeps _) (by decide) ?_
    exact Keeps.mono (Keeps.set_lcs _ _) (by decide)

theorem State.pulseEnd_keeps (s : State) : Keeps [.fuse, .lcs, .rst, .ledger, .fwu] s (State.pulseEnd s) := by
  unfold State.pulseEnd
  dsimp -proj only
  split
  · exact Keeps.refl _ _
  · refine Keeps.ite ?_ ?_
    · refine Keeps.via (State.lcNext_keeps _) (by decide) ?_
      refine Keeps.via (State.burned_keeps _ _) (by decide) ?_
      exact Keeps.mono (Keeps.setR_fuse_lcs_rst _ _ _ _ rfl) (by decide)
    · exact Keeps.refl _ _

theorem execFusePulseEnd_keeps (s : State) : Keeps [.fuse, .lcs, .rst, .ledger, .fwu] s (stateAfter
    (execFusePulseEnd s) s) := by
  unfold execFusePulseEnd
  refine Keeps.next ?_
  exact Keeps.mono (State.pulseEnd_keeps _) (by decide)

theorem State.clearKeys_keeps (s : State) : Keeps [.fns, .reaches, .jobs, .weir, .kst, .slots, .records, .spr,
    .tiles, .cores, .spans, .stores, .hbm, .cfl, .evt, .snp, .pins, .tx] s (State.clearKeys s) := by
  unfold State.clearKeys
  dsimp -proj only
  refine Keeps.via (Keeps.set_kst_hbm _ _ _) (by decide) ?_
  refine Keeps.foldlVia (fun s a => ?_) ?_
  · exact Keeps.mono (State.invalidate_keeps _ _) (by decide)
  · refine Keeps.foldlVia (fun s a => ?_) ?_
    · exact Keeps.mono (State.failJob_keeps _ _ _ _) (by decide)
    · exact Keeps.refl _ _

theorem State.newVaultKey_keeps (s : State) : Keeps [.fns, .kst, .spr, .hbm, .cfl, .evt, .snp, .pins, .tx] s
    (State.newVaultKey s) := by
  unfold State.newVaultKey
  dsimp -proj only
  refine Keeps.via (Keeps.set_kst _ _) (by decide) ?_
  exact Keeps.mono (State.drawRegionKey_keeps _ _) (by decide)

theorem State.zeroMemories_keeps (s : State) : Keeps [.jobs, .tiles, .cores] s (State.zeroMemories s) := by
  unfold State.zeroMemories
  dsimp -proj only
  exact Keeps.mono (Keeps.set_jobs_tiles_cores _ _ _ _) (by decide)

theorem State.zeroCover_keeps (s : State) : Keeps [.ao] s (State.zeroCover s) := by
  unfold State.zeroCover
  dsimp -proj only
  exact Keeps.mono (Keeps.set_ao _ _) (by decide)

theorem State.dropHbmKeys_keeps (s : State) : Keeps [.hbm] s (State.dropHbmKeys s) := by
  unfold State.dropHbmKeys
  dsimp -proj only
  exact Keeps.mono (Keeps.set_hbm _ _) (by decide)

theorem State.eraseStep_keeps (s : State) (x1 : EraseStep) : Keeps [.fns, .reaches, .jobs, .weir, .kst, .slots,
    .records, .spr, .tiles, .cores, .spans, .stores, .hbm, .cfl, .evt, .snp, .ao, .pins, .tx] s (State.eraseStep s
    x1) := by
  unfold State.eraseStep
  dsimp -proj only
  split
  · exact Keeps.mono (State.clearKeys_keeps _) (by decide)
  · exact Keeps.mono (State.zeroCover_keeps _) (by decide)
  · exact Keeps.mono (State.zeroMemories_keeps _) (by decide)
  · refine Keeps.via (Keeps.set_hbm _ _) (by decide) ?_
    exact Keeps.mono (State.dropHbmKeys_keeps _) (by decide)
  · exact Keeps.mono (Keeps.set_records _ _) (by decide)

theorem State.eraseDone_keeps (s : State) : Keeps [.fns, .reaches, .jobs, .weir, .kst, .slots, .records, .spr,
    .tiles, .cores, .spans, .stores, .hbm, .cfl, .evt, .snp, .lcs, .rst, .ao, .ledger, .pins, .tx] s
    (State.eraseDone s) := by
  unfold State.eraseDone
  dsimp -proj only
  split
  · refine Keeps.ite ?_ ?_
    · refine Keeps.via (State.lcNext_keeps _) (by decide) ?_
      refine Keeps.via (Keeps.set_lcs_ledger _ _ _) (by decide) ?_
      exact Keeps.mono (State.eraseStep_keeps _ _) (by decide)
    · exact Keeps.refl _ _
  · exact Keeps.refl _ _

theorem execEraseStepDone_keeps (s : State) : Keeps [.fns, .reaches, .jobs, .weir, .kst, .slots, .records, .spr,
    .tiles, .cores, .spans, .stores, .hbm, .cfl, .evt, .snp, .lcs, .rst, .ao, .ledger, .pins, .tx] s (stateAfter
    (execEraseStepDone s) s) := by
  unfold execEraseStepDone
  refine Keeps.next ?_
  exact Keeps.mono (State.eraseDone_keeps _) (by decide)

theorem State.resumeWork_keeps (done : List EraseStep) : ∀ (ws : List LcWork) (s : State),
    Keeps [.fns, .reaches, .jobs, .weir, .kst, .slots, .records, .spr, .tiles, .cores, .spans, .stores, .hbm, .cfl, .evt, .snp, .fuse, .ao, .pins, .tx] s (State.resumeWork s done ws)
  | [], s => Keeps.refl _ s
  | w :: ws, s => by
    cases w <;> (unfold State.resumeWork; refine Keeps.trans ?_ (State.resumeWork_keeps done ws _))
    case erase => exact Keeps.ite (Keeps.refl _ _) ((State.eraseStep_keeps _ _).mono (by decide))
    all_goals exact (Keeps.set_fuse _ _).mono (by decide)

theorem State.resumeTrans_keeps (s : State) : Keeps [.fns, .reaches, .jobs, .weir, .kst, .slots, .records, .spr,
    .tiles, .cores, .spans, .stores, .hbm, .cfl, .evt, .snp, .fuse, .ao, .ledger, .pins, .tx] s ((State.resumeTrans
    s).getD s) := by
  unfold State.resumeTrans
  dsimp -proj only
  refine Keeps.getDMap (fun a => ?_)
  refine Keeps.via (Keeps.set_ledger _ _) (by decide) ?_
  exact Keeps.mono (State.resumeWork_keeps _ _ _) (by decide)

theorem execLcsLockoutEnd_keeps (s : State) : Keeps [.now, .lcs] s (stateAfter (execLcsLockoutEnd s) s) := by
  unfold execLcsLockoutEnd
  dsimp -proj only
  refine Keeps.next ?_
  refine Keeps.ite ?_ ?_
  · refine Keeps.via (Keeps.set_lcs _ _) (by decide) ?_
    exact Keeps.mono (State.atTime_keeps _ _) (by decide)
  · exact Keeps.refl _ _

theorem execJtagTapInstruction_keeps (instr : TapInstr) (s : State) : Keeps [.lcs] s (stateAfter
    (execJtagTapInstruction instr s) s) := by
  unfold execJtagTapInstruction
  dsimp -proj only
  refine Keeps.next ?_
  exact Keeps.mono (Keeps.set_lcs _ _) (by decide)

theorem execTrstN_keeps (s : State) : Keeps [.lcs] s (stateAfter (execTrstN s) s) := by
  unfold execTrstN
  dsimp -proj only
  refine Keeps.next ?_
  exact Keeps.mono (Keeps.set_lcs _ _) (by decide)

end Sys2Proof.Machine
end

