-- ==== Sys2Proof/Laws/FramePower.lean ====
section
/-! SUPPORT. What each operation of Machine/Power.lean can touch. -/

namespace Sys2Proof.Machine

open Sys2Proof

theorem execPwrServiceDaysWrite_keeps (days : Nat) (s : State) : Keeps [.pwr] s (stateAfter (execPwrServiceDaysWrite
    days s) s) := by
  unfold execPwrServiceDaysWrite
  dsimp -proj only
  refine Keeps.hostCmd ?_
  exact Keeps.mono (Keeps.set_pwr _ _) (by decide)

theorem State.planDone_keeps (s : State) (readMv : Nat) : Keeps [.fns, .cfl, .evt, .snp, .pwr, .pins, .tx] s
    (State.planDone s readMv) := by
  unfold State.planDone
  dsimp -proj only
  refine Keeps.ite ?_ ?_
  · refine Keeps.via (State.raise_keeps _ _ _) (by decide) ?_
    refine Keeps.via (State.raise_keeps _ _ _) (by decide) ?_
    exact Keeps.mono (Keeps.set_pwr _ _) (by decide)
  · refine Keeps.via (State.raise_keeps _ _ _) (by decide) ?_
    exact Keeps.mono (Keeps.set_pwr _ _) (by decide)

theorem State.planStart_keeps (s : State) (m : Measured) : Keeps [.fns, .cfl, .evt, .snp, .pwr, .pins, .tx] s
    (State.planStart s m) := by
  unfold State.planStart
  dsimp -proj only
  refine Keeps.ite ?_ ?_
  · refine Keeps.via (State.planDone_keeps _ _) (by decide) ?_
    exact Keeps.mono (Keeps.set_pwr _ _) (by decide)
  · exact Keeps.mono (Keeps.set_pwr _ _) (by decide)

theorem State.planDue_keeps (s : State) (m : Measured) : Keeps [.fns, .cfl, .evt, .snp, .pwr, .pins, .tx] s
    (State.planDue s m) := by
  unfold State.planDue
  dsimp -proj only
  refine Keeps.ite ?_ ?_
  · exact Keeps.refl _ _
  · refine Keeps.ite ?_ ?_
    · exact Keeps.mono (Keeps.set_pwr _ _) (by decide)
    · refine Keeps.ite ?_ ?_
      · exact Keeps.mono (Keeps.set_pwr _ _) (by decide)
      · exact Keeps.mono (State.planStart_keeps _ _) (by decide)

theorem State.planResult_keeps (s : State) (st : Status) : Keeps [.pwr] s (State.planResult s st) := by
  unfold State.planResult
  dsimp -proj only
  exact Keeps.mono (Keeps.set_pwr _ _) (by decide)

theorem State.replan_keeps (s : State) (m : Measured) : Keeps [.fns, .cfl, .evt, .snp, .pwr, .pins, .tx] s
    (State.replan s m) := by
  unfold State.replan
  refine Keeps.ite ?_ ?_
  · exact Keeps.mono (State.planResult_keeps _ _) (by decide)
  · refine Keeps.ite ?_ ?_
    · exact Keeps.mono (State.planResult_keeps _ _) (by decide)
    · exact Keeps.mono (State.planDue_keeps _ _) (by decide)

theorem execReplan_keeps (meas : Measured) (s : State) : Keeps [.fns, .cfl, .evt, .snp, .pwr, .pins, .tx] s
    (stateAfter (execReplan meas s) s) := by
  unfold execReplan
  refine Keeps.hostCmd ?_
  exact Keeps.mono (State.replan_keeps _ _) (by decide)

theorem State.scheduled_keeps (s : State) (m : Measured) : Keeps [.now, .fns, .cfl, .evt, .snp, .pwr, .pins, .tx] s
    (State.scheduled s m) := by
  unfold State.scheduled
  dsimp -proj only
  refine Keeps.ite ?_ ?_
  · exact Keeps.refl _ _
  · refine Keeps.via (State.planDue_keeps _ _) (by decide) ?_
    refine Keeps.via (Keeps.set_pwr _ _) (by decide) ?_
    exact Keeps.mono (State.atTime_keeps _ _) (by decide)

theorem execScheduledReplan_keeps (meas : Measured) (s : State) : Keeps [.now, .fns, .cfl, .evt, .snp, .pwr, .pins,
    .tx] s (stateAfter (execScheduledReplan meas s) s) := by
  unfold execScheduledReplan
  refine Keeps.engineCmd ?_
  exact Keeps.mono (State.scheduled_keeps _ _) (by decide)

theorem State.replanAgain_keeps (s : State) (m : Measured) : Keeps [.fns, .cfl, .evt, .snp, .pwr, .pins, .tx] s
    (State.replanAgain s m) := by
  unfold State.replanAgain
  dsimp -proj only
  refine Keeps.ite ?_ ?_
  · refine Keeps.via (State.planStart_keeps _ _) (by decide) ?_
    exact Keeps.mono (Keeps.set_pwr _ _) (by decide)
  · exact Keeps.refl _ _

theorem execReplanRetry_keeps (meas : Measured) (s : State) : Keeps [.fns, .cfl, .evt, .snp, .pwr, .pins, .tx] s
    (stateAfter (execReplanRetry meas s) s) := by
  unfold execReplanRetry
  refine Keeps.engineCmd ?_
  exact Keeps.mono (State.replanAgain_keeps _ _) (by decide)

theorem State.vcoreStep_keeps (s : State) (readMv : Nat) : Keeps [.fns, .cfl, .evt, .snp, .pwr, .pins, .tx] s
    (State.vcoreStep s readMv) := by
  unfold State.vcoreStep
  dsimp -proj only
  refine Keeps.ite ?_ ?_
  · exact Keeps.refl _ _
  · refine Keeps.ite ?_ ?_
    · refine Keeps.via (State.planDone_keeps _ _) (by decide) ?_
      refine Keeps.via (State.sent_keeps _ _) (by decide) ?_
      exact Keeps.mono (Keeps.set_pwr _ _) (by decide)
    · refine Keeps.via (State.sent_keeps _ _) (by decide) ?_
      exact Keeps.mono (Keeps.set_pwr _ _) (by decide)

theorem execVcoreStep_keeps (readMv : Nat) (s : State) : Keeps [.fns, .cfl, .evt, .snp, .pwr, .pins, .tx] s
    (stateAfter (execVcoreStep readMv s) s) := by
  unfold execVcoreStep
  refine Keeps.engineCmd ?_
  exact Keeps.mono (State.vcoreStep_keeps _ _) (by decide)

theorem State.pmbusFault_keeps (s : State) (f : PmbFault) (word : Nat) : Keeps [.fns, .cfl, .evt, .snp, .pwr, .pins,
    .tx] s (State.pmbusFault s f word) := by
  unfold State.pmbusFault
  dsimp -proj only
  refine Keeps.ite ?_ ?_
  · refine Keeps.via (State.raise_keeps _ _ _) (by decide) ?_
    exact Keeps.mono (Keeps.set_pwr _ _) (by decide)
  · exact Keeps.mono (Keeps.set_pwr _ _) (by decide)

theorem execPmbusFault_keeps (fault : PmbFault) (word : Nat) (s : State) : Keeps [.fns, .cfl, .evt, .snp, .pwr,
    .pins, .tx] s (stateAfter (execPmbusFault fault word s) s) := by
  unfold execPmbusFault
  refine Keeps.next ?_
  refine Keeps.ite ?_ ?_
  · exact Keeps.mono (State.pmbusFault_keeps _ _ _) (by decide)
  · exact Keeps.refl _ _

theorem State.planAbandon_keeps (s : State) : Keeps [.pwr] s (State.planAbandon s) := by
  unfold State.planAbandon
  dsimp -proj only
  refine Keeps.ite ?_ ?_
  · exact Keeps.mono (Keeps.set_pwr _ _) (by decide)
  · exact Keeps.refl _ _

theorem State.planResume_keeps (s : State) : Keeps [.fns, .cfl, .evt, .snp, .pwr, .pins, .tx] s (State.planResume s)
    := by
  unfold State.planResume
  refine Keeps.ite ?_ ?_
  · exact Keeps.mono (State.planStart_keeps _ _) (by decide)
  · exact Keeps.refl _ _

theorem State.bootClocks_keeps (s : State) (alt : Bool) : Keeps [.pwr] s (State.bootClocks s alt) := by
  unfold State.bootClocks
  dsimp -proj only
  exact Keeps.mono (Keeps.set_pwr _ _) (by decide)

theorem State.setPoint_keeps (s : State) (point mhz mv : Nat) (m : Option Measured) : Keeps [.fns, .cfl, .evt, .snp,
    .pwr, .pins, .tx] s (State.setPoint s point mhz mv m) := by
  unfold State.setPoint
  dsimp -proj only
  split
  · refine Keeps.via (State.planDone_keeps _ _) (by decide) ?_
    refine Keeps.via (Keeps.set_pwr _ _) (by decide) ?_
    exact Keeps.mono (Keeps.set_pwr_tx _ _ _) (by decide)
  · exact Keeps.mono (Keeps.set_pwr_tx _ _ _) (by decide)

theorem State.bootPoint_keeps (s : State) (alt : Bool) : Keeps [.fns, .cfl, .evt, .snp, .pwr, .pins, .tx] s
    ((State.bootPoint s alt).getD s) := by
  unfold State.bootPoint
  dsimp -proj only
  refine Keeps.iteGetD ?_ ?_
  · refine Keeps.getDSome ?_
    exact Keeps.mono (State.setPoint_keeps _ _ _ _ _) (by decide)
  · refine Keeps.iteGetD ?_ ?_
    · refine Keeps.getDMap (fun a => ?_)
      exact Keeps.mono (State.setPoint_keeps _ _ _ _ _) (by decide)
    · split
      · refine Keeps.getDSome ?_
        exact Keeps.mono (State.setPoint_keeps _ _ _ _ _) (by decide)
      · refine Keeps.getDMap (fun a => ?_)
        exact Keeps.mono (State.setPoint_keeps _ _ _ _ _) (by decide)

theorem State.therm_keeps (s : State) (tj : Int) : Keeps [.fns, .cfl, .evt, .snp, .pwr, .pins, .tx] s (State.therm s
    tj) := by
  unfold State.therm
  dsimp -proj only
  refine Keeps.ite ?_ ?_
  · refine Keeps.via (State.raise_keeps _ _ _) (by decide) ?_
    refine Keeps.via (State.alertPin_keeps _) (by decide) ?_
    exact Keeps.mono (Keeps.set_pwr_pins _ _ _) (by decide)
  · refine Keeps.via (State.alertPin_keeps _) (by decide) ?_
    exact Keeps.mono (Keeps.set_pwr_pins _ _ _) (by decide)

theorem execThermThreshold_keeps (tj : Int) (s : State) : Keeps [.fns, .cfl, .evt, .snp, .pwr, .pins, .tx] s
    (stateAfter (execThermThreshold tj s) s) := by
  unfold execThermThreshold
  refine Keeps.next ?_
  refine Keeps.ite ?_ ?_
  · exact Keeps.mono (State.therm_keeps _ _) (by decide)
  · exact Keeps.refl _ _

end Sys2Proof.Machine
end

