-- ==== Sys2Proof/Laws/FrameReach.lean ====
section
/-! SUPPORT. What each operation of Machine/Reach.lean can touch. -/

namespace Sys2Proof.Machine

open Sys2Proof

theorem State.stopFetch_keeps (s : State) (fn : Nat) : Keeps [.queues] s (State.stopFetch s fn) := by
  unfold State.stopFetch
  dsimp -proj only
  exact Keeps.mono (Keeps.set_queues _ _) (by decide)

theorem State.enterD3_keeps (s : State) (fn : Nat) : Keeps [.fns, .queues, .jobs, .runs, .weir, .slots, .spr,
    .tiles, .cores, .spans, .stores, .hbm, .cfl, .evt, .snp, .sluice, .pins, .tx] s (State.enterD3 s fn) := by
  unfold State.enterD3
  dsimp -proj only
  refine Keeps.ite ?_ ?_
  · exact Keeps.refl _ _
  · split
    · refine Keeps.via (State.raiseReach_keeps _ _ _ _) (by decide) ?_
      refine Keeps.foldlVia (fun s a => ?_) ?_
      · exact Keeps.mono (State.abortJob_keeps _ _) (by decide)
      · refine Keeps.via (State.closeFnRuns_keeps _ _) (by decide) ?_
        refine Keeps.via (State.stopFetch_keeps _ _) (by decide) ?_
        exact Keeps.mono (State.setFn_keeps _ _ _) (by decide)
    · refine Keeps.foldlVia (fun s a => ?_) ?_
      · exact Keeps.mono (State.abortJob_keeps _ _) (by decide)
      · refine Keeps.via (State.closeFnRuns_keeps _ _) (by decide) ?_
        refine Keeps.via (State.stopFetch_keeps _ _) (by decide) ?_
        exact Keeps.mono (State.setFn_keeps _ _ _) (by decide)

theorem execD3hotEntry_keeps (fn : Nat) (s : State) : Keeps [.fns, .queues, .jobs, .runs, .weir, .slots, .spr,
    .tiles, .cores, .spans, .stores, .hbm, .cfl, .evt, .snp, .sluice, .pins, .tx] s (stateAfter (execD3hotEntry fn
    s) s) := by
  unfold execD3hotEntry
  refine Keeps.hostCmd ?_
  exact Keeps.mono (State.enterD3_keeps _ _) (by decide)

theorem State.releaseRuns_keeps (s : State) (fn : Nat) : Keeps [.runs, .tx] s (State.releaseRuns s fn) := by
  unfold State.releaseRuns
  dsimp -proj only
  exact Keeps.mono (Keeps.set_runs_tx _ _ _) (by decide)

theorem State.returnD0_keeps (s : State) (fn : Nat) : Keeps [.fns, .queues, .jobs, .runs, .cfl, .evt, .snp, .sluice,
    .pins, .tx] s (State.returnD0 s fn) := by
  unfold State.returnD0
  dsimp -proj only
  refine Keeps.ite ?_ ?_
  · exact Keeps.refl _ _
  · unfold State.msixResend
    dsimp -proj only
    refine Keeps.via (State.setFn_keeps _ _ _) (by decide) ?_
    refine Keeps.foldlVia (fun s a => ?_) ?_
    · exact Keeps.mono (State.sent_keeps _ _) (by decide)
    · refine Keeps.foldlVia (fun s a => ?_) ?_
      · exact Keeps.mono (State.sendEvent_keeps _ _) (by decide)
      · refine Keeps.foldlVia (fun s a => ?_) ?_
        · exact Keeps.mono (State.cqSpace_keeps _ _ _) (by decide)
        · refine Keeps.via (State.releaseRuns_keeps _ _) (by decide) ?_
          exact Keeps.mono (State.setFn_keeps _ _ _) (by decide)

theorem execD0Return_keeps (fn : Nat) (s : State) : Keeps [.fns, .queues, .jobs, .runs, .cfl, .evt, .snp, .sluice,
    .pins, .tx] s (stateAfter (execD0Return fn s) s) := by
  unfold execD0Return
  refine Keeps.hostCmd ?_
  exact Keeps.mono (State.returnD0_keeps _ _) (by decide)

theorem State.vfEnableWrite_keeps (s : State) (enable : Bool) (n : Nat) : Keeps [.glb] s (State.vfEnableWrite s
    enable n) := by
  unfold State.vfEnableWrite
  dsimp -proj only
  refine Keeps.ite ?_ ?_
  · exact Keeps.mono (Keeps.set_glb _ _) (by decide)
  · refine Keeps.ite ?_ ?_
    · exact Keeps.refl _ _
    · split
      · exact Keeps.mono (Keeps.set_glb _ _) (by decide)
      · exact Keeps.mono (Keeps.set_glb _ _) (by decide)

theorem execVfEnableWrite_keeps (enable : Bool) (numVfs : Nat) (s : State) : Keeps [.glb] s (stateAfter
    (execVfEnableWrite enable numVfs s) s) := by
  unfold execVfEnableWrite
  refine Keeps.hostCmd ?_
  exact Keeps.mono (State.vfEnableWrite_keeps _ _ _) (by decide)

theorem State.reachResult_keeps (s : State) (r : Nat) (st : Status) : Keeps [.glb] s (State.reachResult s r st) :=
    by
  unfold State.reachResult
  dsimp -proj only
  exact Keeps.mono (Keeps.set_glb _ _) (by decide)

theorem State.vfResult_keeps (s : State) (vf : Nat) (st : Status) : Keeps [.glb] s (State.vfResult s vf st) := by
  unfold State.vfResult
  dsimp -proj only
  exact Keeps.mono (Keeps.set_glb _ _) (by decide)

theorem State.quiesceReach_keeps (s : State) (r : Nat) : Keeps [.glb, .fns, .reaches, .queues, .jobs, .runs, .cfl,
    .evt, .snp, .sluice, .pins, .tx] s (State.quiesceReach s r) := by
  unfold State.quiesceReach
  dsimp -proj only
  split
  · exact Keeps.mono (State.reachResult_keeps _ _ _) (by decide)
  · exact Keeps.mono (State.reachResult_keeps _ _ _) (by decide)
  · exact Keeps.mono (State.reachResult_keeps _ _ _) (by decide)
  · refine Keeps.via (State.reachResult_keeps _ _ _) (by decide) ?_
    refine Keeps.foldlVia (fun s a => ?_) ?_
    · refine Keeps.via (State.closeFnRuns_keeps _ _) (by decide) ?_
      exact Keeps.mono (State.stopFetch_keeps _ _) (by decide)
    · exact Keeps.mono (State.setReach_keeps _ _ _) (by decide)
  · exact Keeps.mono (State.reachResult_keeps _ _ _) (by decide)
  · exact Keeps.mono (State.reachResult_keeps _ _ _) (by decide)

theorem execQuiesce_keeps (reach : Nat) (s : State) : Keeps [.glb, .fns, .reaches, .queues, .jobs, .runs, .cfl,
    .evt, .snp, .sluice, .pins, .tx] s (stateAfter (execQuiesce reach s) s) := by
  unfold execQuiesce
  refine Keeps.hostCmd ?_
  exact Keeps.mono (State.quiesceReach_keeps _ _) (by decide)

theorem State.resumeReach_keeps (s : State) (r : Nat) : Keeps [.glb, .reaches] s (State.resumeReach s r) := by
  unfold State.resumeReach
  dsimp -proj only
  split
  · exact Keeps.mono (State.reachResult_keeps _ _ _) (by decide)
  · exact Keeps.mono (State.reachResult_keeps _ _ _) (by decide)
  · exact Keeps.mono (State.reachResult_keeps _ _ _) (by decide)
  · exact Keeps.mono (State.reachResult_keeps _ _ _) (by decide)
  · refine Keeps.ite ?_ ?_
    · exact Keeps.mono (State.reachResult_keeps _ _ _) (by decide)
    · refine Keeps.via (State.reachResult_keeps _ _ _) (by decide) ?_
      exact Keeps.mono (State.setReach_keeps _ _ _) (by decide)
  · refine Keeps.ite ?_ ?_
    · exact Keeps.mono (State.reachResult_keeps _ _ _) (by decide)
    · refine Keeps.via (State.reachResult_keeps _ _ _) (by decide) ?_
      exact Keeps.mono (State.setReach_keeps _ _ _) (by decide)

theorem execResume_keeps (reach : Nat) (s : State) : Keeps [.glb, .reaches] s (stateAfter (execResume reach s) s) :=
    by
  unfold execResume
  refine Keeps.hostCmd ?_
  exact Keeps.mono (State.resumeReach_keeps _ _) (by decide)

theorem State.quiesceVf_keeps (s : State) (vf : Nat) : Keeps [.glb, .fns, .queues, .jobs, .runs, .cfl, .evt, .snp,
    .sluice, .pins, .tx] s (State.quiesceVf s vf) := by
  unfold State.quiesceVf
  dsimp -proj only
  refine Keeps.ite ?_ ?_
  · exact Keeps.mono (State.vfResult_keeps _ _ _) (by decide)
  · refine Keeps.ite ?_ ?_
    · exact Keeps.mono (State.vfResult_keeps _ _ _) (by decide)
    · refine Keeps.via (State.vfResult_keeps _ _ _) (by decide) ?_
      refine Keeps.via (State.closeFnRuns_keeps _ _) (by decide) ?_
      refine Keeps.via (State.stopFetch_keeps _ _) (by decide) ?_
      exact Keeps.mono (State.setFn_keeps _ _ _) (by decide)

theorem execQuiesceVf_keeps (vf : Nat) (s : State) : Keeps [.glb, .fns, .queues, .jobs, .runs, .cfl, .evt, .snp,
    .sluice, .pins, .tx] s (stateAfter (execQuiesceVf vf s) s) := by
  unfold execQuiesceVf
  refine Keeps.hostCmd ?_
  exact Keeps.mono (State.quiesceVf_keeps _ _) (by decide)

theorem State.resumeVf_keeps (s : State) (vf : Nat) : Keeps [.glb, .fns] s (State.resumeVf s vf) := by
  unfold State.resumeVf
  dsimp -proj only
  refine Keeps.ite ?_ ?_
  · exact Keeps.mono (State.vfResult_keeps _ _ _) (by decide)
  · refine Keeps.ite ?_ ?_
    · exact Keeps.mono (State.vfResult_keeps _ _ _) (by decide)
    · refine Keeps.via (State.vfResult_keeps _ _ _) (by decide) ?_
      exact Keeps.mono (State.setFn_keeps _ _ _) (by decide)

theorem execResumeVf_keeps (vf : Nat) (s : State) : Keeps [.glb, .fns] s (stateAfter (execResumeVf vf s) s) := by
  unfold execResumeVf
  refine Keeps.hostCmd ?_
  exact Keeps.mono (State.resumeVf_keeps _ _) (by decide)

theorem execSelect_keeps (reach vf : Nat) (s : State) : Keeps [.glb] s (stateAfter (execSelect reach vf s) s) := by
  unfold execSelect
  dsimp -proj only
  refine Keeps.hostCmd ?_
  exact Keeps.mono (Keeps.set_glb _ _) (by decide)

theorem State.quiesceDone_keeps (s : State) (x1 : ResetTarget) : Keeps [.reaches] s (State.quiesceDone s x1) := by
  unfold State.quiesceDone
  dsimp -proj only
  split
  · refine Keeps.ite ?_ ?_
    · exact Keeps.mono (State.setReach_keeps _ _ _) (by decide)
    · exact Keeps.refl _ _
  · exact Keeps.refl _ _

theorem execQuiesceComplete_keeps (target : ResetTarget) (s : State) : Keeps [.reaches] s (stateAfter
    (execQuiesceComplete target s) s) := by
  unfold execQuiesceComplete
  refine Keeps.engineCmd ?_
  exact Keeps.mono (State.quiesceDone_keeps _ _) (by decide)

theorem State.clearVf_keeps (s : State) (vf : Nat) : Keeps [.fns, .queues, .evt] s (State.clearVf s vf) := by
  unfold State.clearVf
  dsimp -proj only
  refine Keeps.via (State.setFn_keeps _ _ _) (by decide) ?_
  refine Keeps.via (Keeps.set_evt _ _) (by decide) ?_
  exact Keeps.mono (Keeps.set_queues _ _) (by decide)

theorem State.startVfReset_keeps (s : State) (vf : Nat) : Keeps [.fns, .queues, .evt] s (State.startVfReset s vf) :=
    by
  unfold State.startVfReset
  dsimp -proj only
  refine Keeps.via (State.setFn_keeps _ _ _) (by decide) ?_
  exact Keeps.mono (State.clearVf_keeps _ _) (by decide)

theorem State.resetVf_keeps (s : State) (vf : Nat) : Keeps [.glb, .fns, .queues, .evt] s (State.resetVf s vf) := by
  unfold State.resetVf
  dsimp -proj only
  refine Keeps.ite ?_ ?_
  · exact Keeps.mono (State.vfResult_keeps _ _ _) (by decide)
  · refine Keeps.ite ?_ ?_
    · exact Keeps.mono (State.vfResult_keeps _ _ _) (by decide)
    · refine Keeps.via (Keeps.set_glb _ _) (by decide) ?_
      refine Keeps.via (State.vfResult_keeps _ _ _) (by decide) ?_
      exact Keeps.mono (State.startVfReset_keeps _ _) (by decide)

theorem execResetVf_keeps (vf : Nat) (s : State) : Keeps [.glb, .fns, .queues, .evt] s (stateAfter (execResetVf vf
    s) s) := by
  unfold execResetVf
  refine Keeps.hostCmd ?_
  exact Keeps.mono (State.resetVf_keeps _ _) (by decide)

theorem State.flr_keeps (s : State) (vf : Nat) : Keeps [.fns, .queues, .cfl, .evt, .snp, .pins, .tx] s (State.flr s
    vf) := by
  unfold State.flr
  dsimp -proj only
  refine Keeps.ite ?_ ?_
  · exact Keeps.refl _ _
  · refine Keeps.ite ?_ ?_
    · exact Keeps.mono (State.startVfReset_keeps _ _) (by decide)
    · split
      · refine Keeps.via (State.raiseReach_keeps _ _ _ _) (by decide) ?_
        exact Keeps.mono (State.setFn_keeps _ _ _) (by decide)
      · exact Keeps.mono (State.setFn_keeps _ _ _) (by decide)

theorem execFlr_keeps (vf : Nat) (s : State) : Keeps [.fns, .queues, .cfl, .evt, .snp, .pins, .tx] s (stateAfter
    (execFlr vf s) s) := by
  unfold execFlr
  refine Keeps.hostCmd ?_
  exact Keeps.mono (State.flr_keeps _ _) (by decide)

theorem State.clearSources_keeps (s : State) (r : Nat) : Keeps [.evt] s (State.clearSources s r) := by
  unfold State.clearSources
  dsimp -proj only
  refine Keeps.foldlVia (fun s a => ?_) ?_
  · exact Keeps.mono (State.setSource_keeps _ _ _) (by decide)
  · exact Keeps.refl _ _

theorem State.clearQueuesOf_keeps (s : State) (r : Nat) : Keeps [.queues] s (State.clearQueuesOf s r) := by
  unfold State.clearQueuesOf
  dsimp -proj only
  exact Keeps.mono (Keeps.set_queues _ _) (by decide)

theorem State.clearReach_keeps (s : State) (x : ReachRec) : Keeps [.fns, .reaches, .queues, .jobs, .weir, .kst,
    .slots, .records, .spr, .tiles, .cores, .spans, .stores, .hbm, .cfl, .evt, .snp, .pins, .tx] s (State.clearReach
    s x) := by
  unfold State.clearReach
  dsimp -proj only
  refine Keeps.via (State.startDrbg_keeps _ _ _) (by decide) ?_
  refine Keeps.foldlVia (fun s a => ?_) ?_
  · exact Keeps.mono (State.drawRegionKey_keeps _ _) (by decide)
  · refine Keeps.via (State.setReach_keeps _ _ _) (by decide) ?_
    refine Keeps.foldlVia (fun s a => ?_) ?_
    · exact Keeps.mono (State.bumpTile_keeps _ _) (by decide)
    · refine Keeps.foldlVia (fun s a => ?_) ?_
      · exact Keeps.mono (State.wipeMemory_keeps _ _) (by decide)
      · refine Keeps.via (State.wipeRange_keeps _ _ _) (by decide) ?_
        refine Keeps.via (State.clearSources_keeps _ _) (by decide) ?_
        refine Keeps.via (State.clearQueuesOf_keeps _ _) (by decide) ?_
        exact Keeps.mono (State.settleCovered_keeps _ _) (by decide)

theorem State.resetReach_keeps (s : State) (r : Nat) : Keeps [.glb, .fns, .reaches, .queues, .jobs, .weir, .kst,
    .slots, .records, .spr, .tiles, .cores, .spans, .stores, .hbm, .cfl, .evt, .snp, .pins, .tx] s (State.resetReach
    s r) := by
  unfold State.resetReach
  dsimp -proj only
  split
  · exact Keeps.mono (State.reachResult_keeps _ _ _) (by decide)
  · exact Keeps.mono (State.reachResult_keeps _ _ _) (by decide)
  · refine Keeps.ite ?_ ?_
    · exact Keeps.mono (State.reachResult_keeps _ _ _) (by decide)
    · refine Keeps.via (Keeps.set_glb _ _) (by decide) ?_
      refine Keeps.via (State.reachResult_keeps _ _ _) (by decide) ?_
      exact Keeps.mono (State.clearReach_keeps _ _) (by decide)
  · exact Keeps.mono (State.reachResult_keeps _ _ _) (by decide)

theorem execResetReach_keeps (reach : Nat) (s : State) : Keeps [.glb, .fns, .reaches, .queues, .jobs, .weir, .kst,
    .slots, .records, .spr, .tiles, .cores, .spans, .stores, .hbm, .cfl, .evt, .snp, .pins, .tx] s (stateAfter
    (execResetReach reach s) s) := by
  unfold execResetReach
  refine Keeps.hostCmd ?_
  exact Keeps.mono (State.resetReach_keeps _ _) (by decide)

theorem State.clearRemoved_keeps (s : State) (x : ReachRec) : Keeps [.fns, .reaches, .queues, .jobs, .weir, .kst,
    .slots, .records, .spr, .tiles, .cores, .parts, .spans, .hbm, .cfl, .evt, .snp, .pins, .tx] s
    (State.clearRemoved s x) := by
  unfold State.clearRemoved
  dsimp -proj only
  refine Keeps.via (Keeps.set_parts _ _) (by decide) ?_
  refine Keeps.via (State.dropRegionKeys_keeps _ _) (by decide) ?_
  refine Keeps.via (State.setReach_keeps _ _ _) (by decide) ?_
  refine Keeps.foldlVia (fun s a => ?_) ?_
  · exact Keeps.mono (State.bumpTile_keeps _ _) (by decide)
  · refine Keeps.via (State.wipeTiles_keeps _ _) (by decide) ?_
    refine Keeps.via (State.stopDrbg_keeps _ _) (by decide) ?_
    refine Keeps.via (State.freeFns_keeps _ _) (by decide) ?_
    refine Keeps.via (State.wipeRange_keeps _ _ _) (by decide) ?_
    exact Keeps.mono (State.settleCovered_keeps _ _) (by decide)

theorem State.removeReach_keeps (s : State) (r : Nat) : Keeps [.glb, .fns, .reaches, .queues, .jobs, .weir, .kst,
    .slots, .records, .spr, .tiles, .cores, .parts, .spans, .hbm, .cfl, .evt, .snp, .pins, .tx] s (State.removeReach
    s r) := by
  unfold State.removeReach
  dsimp -proj only
  split
  · exact Keeps.mono (State.reachResult_keeps _ _ _) (by decide)
  · exact Keeps.mono (State.reachResult_keeps _ _ _) (by decide)
  · refine Keeps.ite ?_ ?_
    · exact Keeps.mono (State.reachResult_keeps _ _ _) (by decide)
    · refine Keeps.ite ?_ ?_
      · exact Keeps.mono (State.reachResult_keeps _ _ _) (by decide)
      · refine Keeps.via (Keeps.set_glb _ _) (by decide) ?_
        refine Keeps.via (State.reachResult_keeps _ _ _) (by decide) ?_
        exact Keeps.mono (State.clearRemoved_keeps _ _) (by decide)
  · exact Keeps.mono (State.reachResult_keeps _ _ _) (by decide)

theorem execRemoveReach_keeps (reach : Nat) (s : State) : Keeps [.glb, .fns, .reaches, .queues, .jobs, .weir, .kst,
    .slots, .records, .spr, .tiles, .cores, .parts, .spans, .hbm, .cfl, .evt, .snp, .pins, .tx] s (stateAfter
    (execRemoveReach reach s) s) := by
  unfold execRemoveReach
  refine Keeps.hostCmd ?_
  exact Keeps.mono (State.removeReach_keeps _ _) (by decide)

theorem State.removeDone_keeps (s : State) (r : Nat) : Keeps [.cfg, .glb, .reaches] s (State.removeDone s r) := by
  unfold State.removeDone
  dsimp -proj only
  refine Keeps.ite ?_ ?_
  · exact Keeps.refl _ _
  · refine Keeps.via (Keeps.set_cfg_glb _ _ _) (by decide) ?_
    exact Keeps.mono (State.setReach_keeps _ _ _) (by decide)

theorem execRemoveReachDone_keeps (reach : Nat) (s : State) : Keeps [.cfg, .glb, .reaches] s (stateAfter
    (execRemoveReachDone reach s) s) := by
  unfold execRemoveReachDone
  refine Keeps.engineCmd ?_
  exact Keeps.mono (State.removeDone_keeps _ _) (by decide)

end Sys2Proof.Machine
end

