-- ==== Sys2Proof/Laws/FrameFirmware.lean ====
section
/-! SUPPORT. What each operation of Machine/Firmware.lean can touch. -/

namespace Sys2Proof.Machine

open Sys2Proof

theorem State.setFwSlot_keeps (s : State) (i : Nat) (x : FwSlot) : Keeps [.ledger] s (State.setFwSlot s i x) := by
  unfold State.setFwSlot
  exact Keeps.mono (Keeps.set_ledger _ _) (by decide)

theorem State.fwuEnd_keeps (s : State) (st : Status) : Keeps [.fwu] s (State.fwuEnd s st) := by
  unfold State.fwuEnd
  dsimp -proj only
  exact Keeps.mono (Keeps.set_fwu _ _) (by decide)

theorem State.fwuRefuse_keeps (s : State) : Keeps [.fwu] s (State.fwuRefuse s) := by
  unfold State.fwuRefuse
  dsimp -proj only
  refine Keeps.via (State.fwuEnd_keeps _ _) (by decide) ?_
  exact Keeps.mono (Keeps.set_fwu _ _) (by decide)

theorem State.stage_keeps (s : State) : Keeps [.ledger, .fwu] s (State.stage s) := by
  unfold State.stage
  dsimp -proj only
  refine Keeps.ite ?_ ?_
  · exact Keeps.mono (State.fwuEnd_keeps _ _) (by decide)
  · refine Keeps.ite ?_ ?_
    · exact Keeps.mono (State.fwuRefuse_keeps _) (by decide)
    · refine Keeps.ite ?_ ?_
      · exact Keeps.mono (State.fwuEnd_keeps _ _) (by decide)
      · refine Keeps.via (Keeps.set_fwu _ _) (by decide) ?_
        refine Keeps.ite ?_ ?_
        · exact Keeps.refl _ _
        · exact Keeps.mono (State.setFwSlot_keeps _ _ _) (by decide)

theorem execStage_keeps (s : State) : Keeps [.ledger, .fwu] s (stateAfter (execStage s) s) := by
  unfold execStage
  refine Keeps.hostCmd ?_
  exact Keeps.mono (State.stage_keeps _) (by decide)

theorem State.stagingEnds_keeps (s : State) (pkg : Bytes) (written : Bool) : Keeps [.ledger, .fwu] s
    (State.stagingEnds s pkg written) := by
  unfold State.stagingEnds
  dsimp -proj only
  refine Keeps.ite ?_ ?_
  · refine Keeps.via (State.fwuEnd_keeps _ _) (by decide) ?_
    refine Keeps.via (Keeps.set_fwu _ _) (by decide) ?_
    exact Keeps.mono (State.setFwSlot_keeps _ _ _) (by decide)
  · refine Keeps.via (State.fwuEnd_keeps _ _) (by decide) ?_
    exact Keeps.mono (Keeps.set_fwu _ _) (by decide)

theorem execStagingComplete_keeps (pkg : Bytes) (written : Bool) (s : State) : Keeps [.ledger, .fwu] s (stateAfter
    (execStagingComplete pkg written s) s) := by
  unfold execStagingComplete
  refine Keeps.engineCmd ?_
  refine Keeps.ite ?_ ?_
  · exact Keeps.mono (State.stagingEnds_keeps _ _ _) (by decide)
  · exact Keeps.refl _ _

theorem State.fwMessage_keeps (s : State) (cancel : Bool) : Keeps [.cfl, .tx] s (State.fwMessage s cancel) := by
  unfold State.fwMessage
  exact Keeps.mono (State.flood_keeps _ _ _) (by decide)

theorem State.arm_keeps (s : State) : Keeps [.cfl, .fwu, .tx] s (State.arm s) := by
  unfold State.arm
  dsimp -proj only
  refine Keeps.ite ?_ ?_
  · exact Keeps.mono (State.fwuEnd_keeps _ _) (by decide)
  · refine Keeps.ite ?_ ?_
    · exact Keeps.mono (State.fwuRefuse_keeps _) (by decide)
    · refine Keeps.ite ?_ ?_
      · exact Keeps.mono (State.fwuEnd_keeps _ _) (by decide)
      · refine Keeps.via (State.fwMessage_keeps _ _) (by decide) ?_
        refine Keeps.via (State.fwuEnd_keeps _ _) (by decide) ?_
        exact Keeps.mono (Keeps.set_fwu _ _) (by decide)

theorem execArm_keeps (s : State) : Keeps [.cfl, .fwu, .tx] s (stateAfter (execArm s) s) := by
  unfold execArm
  refine Keeps.hostCmd ?_
  exact Keeps.mono (State.arm_keeps _) (by decide)

theorem State.cancelArm_keeps (s : State) : Keeps [.cfl, .fwu, .tx] s (State.cancelArm s) := by
  unfold State.cancelArm
  dsimp -proj only
  refine Keeps.ite ?_ ?_
  · refine Keeps.via (State.fwMessage_keeps _ _) (by decide) ?_
    refine Keeps.via (State.fwuEnd_keeps _ _) (by decide) ?_
    exact Keeps.mono (Keeps.set_fwu _ _) (by decide)
  · exact Keeps.mono (State.fwuRefuse_keeps _) (by decide)

theorem execCancel_keeps (s : State) : Keeps [.cfl, .fwu, .tx] s (stateAfter (execCancel s) s) := by
  unfold execCancel
  refine Keeps.hostCmd ?_
  exact Keeps.mono (State.cancelArm_keeps _) (by decide)

theorem State.fwDiscard_keeps (s : State) : Keeps [.ledger, .fwu] s (State.fwDiscard s) := by
  unfold State.fwDiscard
  dsimp -proj only
  refine Keeps.ite ?_ ?_
  · refine Keeps.via (State.fwuEnd_keeps _ _) (by decide) ?_
    refine Keeps.via (State.setFwSlot_keeps _ _ _) (by decide) ?_
    exact Keeps.mono (Keeps.set_fwu _ _) (by decide)
  · exact Keeps.mono (State.fwuRefuse_keeps _) (by decide)

theorem execFwDiscard_keeps (s : State) : Keeps [.ledger, .fwu] s (stateAfter (execFwDiscard s) s) := by
  unfold execFwDiscard
  refine Keeps.hostCmd ?_
  exact Keeps.mono (State.fwDiscard_keeps _) (by decide)

theorem State.requireCosign_keeps (s : State) : Keeps [.lcs, .rst, .ledger, .fwu] s (State.requireCosign s) := by
  unfold State.requireCosign
  dsimp -proj only
  refine Keeps.ite ?_ ?_
  · refine Keeps.via (State.startBurn_keeps _ _) (by decide) ?_
    exact Keeps.mono (Keeps.set_fwu _ _) (by decide)
  · exact Keeps.mono (State.fwuRefuse_keeps _) (by decide)

theorem execRequireCosign_keeps (s : State) : Keeps [.lcs, .rst, .ledger, .fwu] s (stateAfter (execRequireCosign s)
    s) := by
  unfold execRequireCosign
  refine Keeps.hostCmd ?_
  exact Keeps.mono (State.requireCosign_keeps _) (by decide)

theorem State.stopAll_keeps (s : State) : Keeps [.fns, .queues, .jobs, .runs, .cfl, .evt, .snp, .sluice, .pins, .tx]
    s (State.stopAll s) := by
  unfold State.stopAll
  refine Keeps.foldlVia (fun s a => ?_) ?_
  · refine Keeps.via (State.closeFnRuns_keeps _ _) (by decide) ?_
    exact Keeps.mono (State.stopFetch_keeps _ _) (by decide)
  · exact Keeps.refl _ _

theorem State.startSwitch_keeps (s : State) : Keeps [.fns, .queues, .jobs, .runs, .cfl, .evt, .snp, .sluice,
    .ledger, .fwu, .pins, .tx] s (State.startSwitch s) := by
  unfold State.startSwitch
  dsimp -proj only
  refine Keeps.via (State.fwuGoes_keeps _ _) (by decide) ?_
  refine Keeps.via (State.stopAll_keeps _) (by decide) ?_
  refine Keeps.via (Keeps.set_fwu _ _) (by decide) ?_
  exact Keeps.mono (Keeps.set_ledger _ _) (by decide)

theorem State.activation_keeps (s : State) : Keeps [.now, .fns, .queues, .jobs, .runs, .cfl, .evt, .snp, .sluice,
    .ledger, .fwu, .pins, .tx] s (State.activation s) := by
  unfold State.activation
  dsimp -proj only
  refine Keeps.ite ?_ ?_
  · exact Keeps.refl _ _
  · refine Keeps.ite ?_ ?_
    · refine Keeps.via (Keeps.set_fwu _ _) (by decide) ?_
      exact Keeps.mono (State.atTime_keeps _ _) (by decide)
    · refine Keeps.via (State.startSwitch_keeps _) (by decide) ?_
      exact Keeps.mono (State.atTime_keeps _ _) (by decide)

theorem execActivationInstant_keeps (s : State) : Keeps [.now, .fns, .queues, .jobs, .runs, .cfl, .evt, .snp,
    .sluice, .ledger, .fwu, .pins, .tx] s (stateAfter (execActivationInstant s) s) := by
  unfold execActivationInstant
  refine Keeps.next ?_
  refine Keeps.ite ?_ ?_
  · exact Keeps.mono (State.activation_keeps _) (by decide)
  · exact Keeps.refl _ _

theorem State.beginRestart_keeps (s : State) : Keeps [.cores, .fwu, .pwr] s (State.beginRestart s) := by
  unfold State.beginRestart
  dsimp -proj only
  refine Keeps.via (State.planAbandon_keeps _) (by decide) ?_
  refine Keeps.via (Keeps.set_fwu _ _) (by decide) ?_
  exact Keeps.mono (State.overlayOn_keeps _ _) (by decide)

theorem State.overlayOff_keeps (s : State) : Keeps [.cores] s (State.overlayOff s) := by
  unfold State.overlayOff
  dsimp -proj only
  refine Keeps.foldlVia (fun s a => ?_) ?_
  · exact Keeps.mono (State.setCore_keeps _ _ _) (by decide)
  · exact Keeps.refl _ _

theorem execFwDrainComplete_keeps (s : State) : Keeps [.cores, .fwu, .pwr] s (stateAfter (execFwDrainComplete s) s)
    := by
  unfold execFwDrainComplete
  refine Keeps.engineCmd ?_
  refine Keeps.ite ?_ ?_
  · exact Keeps.mono (State.beginRestart_keeps _) (by decide)
  · exact Keeps.refl _ _

theorem State.drainLimit_keeps (s : State) : Keeps [.now, .fns, .jobs, .weir, .slots, .spr, .tiles, .cores, .spans,
    .stores, .hbm, .cfl, .evt, .snp, .fwu, .pwr, .pins, .tx] s (State.drainLimit s) := by
  unfold State.drainLimit
  dsimp -proj only
  refine Keeps.via (State.beginRestart_keeps _) (by decide) ?_
  refine Keeps.foldlVia (fun s a => ?_) ?_
  · exact Keeps.mono (State.abortJob_keeps _ _) (by decide)
  · exact Keeps.mono (State.atTime_keeps _ _) (by decide)

theorem execFwDrainLimit_keeps (s : State) : Keeps [.now, .fns, .jobs, .weir, .slots, .spr, .tiles, .cores, .spans,
    .stores, .hbm, .cfl, .evt, .snp, .fwu, .pwr, .pins, .tx] s (stateAfter (execFwDrainLimit s) s) := by
  unfold execFwDrainLimit
  refine Keeps.engineCmd ?_
  refine Keeps.ite ?_ ?_
  · exact Keeps.mono (State.drainLimit_keeps _) (by decide)
  · exact Keeps.refl _ _

theorem State.loadPatch_keeps (s : State) (x : FwSlot) : Keeps [.stores] s (State.loadPatch s x) := by
  unfold State.loadPatch
  dsimp -proj only
  refine Keeps.foldlVia (fun s a => ?_) ?_
  · exact Keeps.mono (State.setStore_keeps _ _ _) (by decide)
  · exact Keeps.refl _ _

theorem State.warmRestart_keeps (s : State) (i : Nat) : Keeps [.cfg, .fns, .jobs, .tiles, .cores, .stores, .meas,
    .measCnt, .cfl, .evt, .snp, .fwu, .pins, .tx] s (State.warmRestart s i) := by
  unfold State.warmRestart
  dsimp -proj only
  unfold State.setAside
  refine Keeps.ite ?_ ?_
  · refine Keeps.via (Keeps.set_fwu _ _) (by decide) ?_
    refine Keeps.via (State.loadPatch_keeps _ _) (by decide) ?_
    refine Keeps.via (State.extendDev_keeps _ _ _) (by decide) ?_
    exact Keeps.mono (State.zeroMemories_keeps _) (by decide)
  · dsimp -proj only
    refine Keeps.foldlVia (fun s a => ?_) ?_
    · exact Keeps.mono (State.raise_keeps _ _ _) (by decide)
    · refine Keeps.via (Keeps.set_cfg _ _) (by decide) ?_
      refine Keeps.via (Keeps.set_fwu _ _) (by decide) ?_
      refine Keeps.via (State.loadPatch_keeps _ _) (by decide) ?_
      refine Keeps.via (State.extendDev_keeps _ _ _) (by decide) ?_
      exact Keeps.mono (State.zeroMemories_keeps _) (by decide)

theorem State.startTrial_keeps (s : State) : Keeps [.fns, .cores, .cfl, .evt, .snp, .fwu, .pwr, .pins, .tx] s
    (State.startTrial s) := by
  unfold State.startTrial
  dsimp -proj only
  refine Keeps.via (State.planResume_keeps _) (by decide) ?_
  refine Keeps.via (State.fwuGoes_keeps _ _) (by decide) ?_
  refine Keeps.via (State.overlayOff_keeps _) (by decide) ?_
  exact Keeps.mono (Keeps.set_fwu _ _) (by decide)

theorem State.fallBack_keeps (s : State) (last : Nat) : Keeps [.fns, .cfl, .evt, .snp, .ledger, .fwu, .pins, .tx] s
    (State.fallBack s last) := by
  unfold State.fallBack
  dsimp -proj only
  refine Keeps.via (State.fwuGoes_keeps _ _) (by decide) ?_
  refine Keeps.via (Keeps.set_fwu _ _) (by decide) ?_
  exact Keeps.mono (State.setFwSlot_keeps _ _ _) (by decide)

theorem State.fellBack_keeps (s : State) : Keeps [.fns, .cores, .cfl, .evt, .snp, .ledger, .fwu, .pwr, .pins, .tx] s
    (State.fellBack s) := by
  unfold State.fellBack
  dsimp -proj only
  refine Keeps.via (State.planResume_keeps _) (by decide) ?_
  refine Keeps.via (State.fwuGoes_keeps _ _) (by decide) ?_
  refine Keeps.via (State.overlayOff_keeps _) (by decide) ?_
  exact Keeps.mono (Keeps.set_ledger_fwu _ _ _) (by decide)

theorem State.restarted_keeps (s : State) (passed : Bool) : Keeps [.cfg, .fns, .jobs, .tiles, .cores, .stores,
    .meas, .measCnt, .cfl, .evt, .snp, .ledger, .fwu, .pwr, .pins, .tx] s (State.restarted s passed) := by
  unfold State.restarted
  dsimp -proj only
  split
  · refine Keeps.via (State.startTrial_keeps _) (by decide) ?_
    exact Keeps.mono (State.warmRestart_keeps _ _) (by decide)
  · refine Keeps.via (State.fallBack_keeps _ _) (by decide) ?_
    exact Keeps.mono (State.warmRestart_keeps _ _) (by decide)
  · refine Keeps.via (State.fellBack_keeps _) (by decide) ?_
    exact Keeps.mono (State.warmRestart_keeps _ _) (by decide)
  · refine Keeps.via (Keeps.set_fwu _ _) (by decide) ?_
    exact Keeps.mono (State.warmRestart_keeps _ _) (by decide)

theorem execWarmRestartDone_keeps (passed : Bool) (s : State) : Keeps [.cfg, .fns, .jobs, .tiles, .cores, .stores,
    .meas, .measCnt, .cfl, .evt, .snp, .ledger, .fwu, .pwr, .pins, .tx] s (stateAfter (execWarmRestartDone passed s)
    s) := by
  unfold execWarmRestartDone
  refine Keeps.engineCmd ?_
  refine Keeps.ite ?_ ?_
  · exact Keeps.mono (State.restarted_keeps _ _) (by decide)
  · exact Keeps.refl _ _

theorem State.raiseTherm_keeps (s : State) (svn : Nat) : Keeps [.fuse, .ledger] s (State.raiseTherm s svn) := by
  unfold State.raiseTherm
  dsimp -proj only
  refine Keeps.ite ?_ ?_
  · refine Keeps.ite ?_ ?_
    · exact Keeps.mono (Keeps.set_fuse _ _) (by decide)
    · exact Keeps.refl _ _
  · refine Keeps.via (State.lockSlots_keeps _) (by decide) ?_
    refine Keeps.ite ?_ ?_
    · exact Keeps.mono (Keeps.set_fuse _ _) (by decide)
    · exact Keeps.refl _ _

theorem State.confirm_keeps (s : State) : Keeps [.fns, .cfl, .evt, .snp, .lcs, .rst, .ledger, .fwu, .pins, .tx] s
    (State.confirm s) := by
  unfold State.confirm
  dsimp -proj only
  refine Keeps.via (State.fwuGoes_keeps _ _) (by decide) ?_
  refine Keeps.via (Keeps.set_fwu _ _) (by decide) ?_
  refine Keeps.ite ?_ ?_
  · refine Keeps.via (State.lockSlots_keeps _) (by decide) ?_
    refine Keeps.via (State.setFwSlot_keeps _ _ _) (by decide) ?_
    refine Keeps.via (State.setFwSlot_keeps _ _ _) (by decide) ?_
    exact Keeps.mono (Keeps.set_ledger _ _) (by decide)
  · refine Keeps.via (State.startBurn_keeps _ _) (by decide) ?_
    refine Keeps.via (State.setFwSlot_keeps _ _ _) (by decide) ?_
    refine Keeps.via (State.setFwSlot_keeps _ _ _) (by decide) ?_
    exact Keeps.mono (Keeps.set_ledger _ _) (by decide)

theorem execFwConfirm_keeps (s : State) : Keeps [.fns, .cfl, .evt, .snp, .lcs, .rst, .ledger, .fwu, .pins, .tx] s
    (stateAfter (execFwConfirm s) s) := by
  unfold execFwConfirm
  refine Keeps.engineCmd ?_
  refine Keeps.ite ?_ ?_
  · exact Keeps.mono (State.confirm_keeps _) (by decide)
  · exact Keeps.refl _ _

theorem State.windowEnds_keeps (s : State) : Keeps [.now, .fns, .queues, .jobs, .runs, .cfl, .evt, .snp, .lcs, .rst,
    .sluice, .ledger, .fwu, .pins, .tx] s (State.windowEnds s) := by
  unfold State.windowEnds
  dsimp -proj only
  refine Keeps.ite ?_ ?_
  · refine Keeps.via (State.confirm_keeps _) (by decide) ?_
    exact Keeps.mono (State.atTime_keeps _ _) (by decide)
  · refine Keeps.via (State.fallBack_keeps _ _) (by decide) ?_
    refine Keeps.via (State.stopAll_keeps _) (by decide) ?_
    refine Keeps.via (Keeps.set_fwu _ _) (by decide) ?_
    exact Keeps.mono (State.atTime_keeps _ _) (by decide)

theorem execConfirmWindowEnd_keeps (s : State) : Keeps [.now, .fns, .queues, .jobs, .runs, .cfl, .evt, .snp, .lcs,
    .rst, .sluice, .ledger, .fwu, .pins, .tx] s (stateAfter (execConfirmWindowEnd s) s) := by
  unfold execConfirmWindowEnd
  refine Keeps.engineCmd ?_
  refine Keeps.ite ?_ ?_
  · exact Keeps.mono (State.windowEnds_keeps _) (by decide)
  · exact Keeps.refl _ _

end Sys2Proof.Machine
end

