-- ==== Sys2Proof/Laws/FrameLevee.lean ====
section
/-! SUPPORT. What each operation of Machine/Levee.lean can touch. -/

namespace Sys2Proof.Machine

open Sys2Proof

theorem State.addCause_keeps (s : State) (bits : Nat) : Keeps [.ao] s (State.addCause s bits) := by
  unfold State.addCause
  dsimp -proj only
  exact Keeps.mono (Keeps.set_ao _ _) (by decide)

theorem State.stopIntake_keeps (s : State) : Keeps [.fns, .queues, .jobs, .runs, .cfl, .evt, .snp, .sluice, .pins,
    .tx] s (State.stopIntake s) := by
  unfold State.stopIntake
  dsimp -proj only
  refine Keeps.foldlVia (fun s a => ?_) ?_
  · exact Keeps.mono (State.closeFnRuns_keeps _ _) (by decide)
  · exact Keeps.mono (Keeps.set_queues _ _) (by decide)

theorem State.fence_keeps (s : State) : Keeps [.fns, .queues, .jobs, .runs, .weir, .slots, .spr, .tiles, .cores,
    .spans, .stores, .hbm, .cfl, .evt, .snp, .rst, .sluice, .pins, .tx] s (State.fence s) := by
  unfold State.fence
  dsimp -proj only
  refine Keeps.ite ?_ ?_
  · exact Keeps.refl _ _
  · refine Keeps.via (State.raise_keeps _ _ _) (by decide) ?_
    refine Keeps.via (State.fenceDone_keeps _) (by decide) ?_
    refine Keeps.via (State.faultPin_keeps _) (by decide) ?_
    refine Keeps.via (State.flood_keeps _ _ _) (by decide) ?_
    refine Keeps.via (State.flushAll_keeps _ _) (by decide) ?_
    refine Keeps.via (State.stopIntake_keeps _) (by decide) ?_
    exact Keeps.mono (Keeps.setR_rst _ _ rfl) (by decide)

theorem State.bistBroken_keeps (s : State) : Keeps [.lev] s (State.bistBroken s) := by
  unfold State.bistBroken
  dsimp -proj only
  exact Keeps.mono (Keeps.set_lev _ _) (by decide)

theorem State.detectorEvent_keeps (s : State) (i : Nat) (detB : Bool) : Keeps [.lev, .pins] s (State.detectorEvent s
    i detB) := by
  unfold State.detectorEvent
  dsimp -proj only
  refine Keeps.ite ?_ ?_
  · exact Keeps.refl _ _
  · refine Keeps.ite ?_ ?_
    · refine Keeps.ite ?_ ?_
      · exact Keeps.refl _ _
      · refine Keeps.via (State.detectorTrip_keeps _ _ _) (by decide) ?_
        exact Keeps.mono (State.bistBroken_keeps _) (by decide)
    · exact Keeps.mono (State.detectorTrip_keeps _ _ _) (by decide)

theorem execLeveeDetectorEvent_keeps (source : Nat) (detB : Bool) (s : State) : Keeps [.lev, .pins] s (stateAfter
    (execLeveeDetectorEvent source detB s) s) := by
  unfold execLeveeDetectorEvent
  refine Keeps.next ?_
  refine Keeps.ite ?_ ?_
  · exact Keeps.mono (State.detectorEvent_keeps _ _ _) (by decide)
  · exact Keeps.refl _ _

theorem execDetectorDisagreement_keeps (source : Nat) (s : State) : Keeps [.lev, .pins] s (stateAfter
    (execDetectorDisagreement source s) s) := by
  unfold execDetectorDisagreement
  refine Keeps.next ?_
  refine Keeps.ite ?_ ?_
  · exact Keeps.mono (State.disagreement_keeps _ _) (by decide)
  · exact Keeps.refl _ _

theorem State.conditionClear_keeps (s : State) (i : Nat) (detB : Bool) : Keeps [.lev] s (State.conditionClear s i
    detB) := by
  unfold State.conditionClear
  dsimp -proj only
  exact Keeps.mono (State.setLevSrc_keeps _ _ _) (by decide)

theorem execLeveeConditionClear_keeps (source : Nat) (detB : Bool) (s : State) : Keeps [.lev] s (stateAfter
    (execLeveeConditionClear source detB s) s) := by
  unfold execLeveeConditionClear
  refine Keeps.next ?_
  refine Keeps.ite ?_ ?_
  · exact Keeps.mono (State.conditionClear_keeps _ _ _) (by decide)
  · exact Keeps.refl _ _

theorem State.windowEnd_keeps (s : State) (i : Nat) : Keeps [.now, .lev] s (State.windowEnd s i) := by
  unfold State.windowEnd
  dsimp -proj only
  split
  · refine Keeps.ite ?_ ?_
    · exact Keeps.refl _ _
    · refine Keeps.via (State.setLevSrc_keeps _ _ _) (by decide) ?_
      exact Keeps.mono (State.atTime_keeps _ _) (by decide)
  · exact Keeps.refl _ _

theorem execLeveeWindowExpiry_keeps (source : Nat) (s : State) : Keeps [.now, .lev] s (stateAfter
    (execLeveeWindowExpiry source s) s) := by
  unfold execLeveeWindowExpiry
  refine Keeps.next ?_
  refine Keeps.ite ?_ ?_
  · exact Keeps.mono (State.windowEnd_keeps _ _) (by decide)
  · exact Keeps.refl _ _

theorem execGatheringIntervalEnd_keeps (s : State) : Keeps [.now, .fns, .cfl, .evt, .snp, .lev, .pins, .tx] s
    (stateAfter (execGatheringIntervalEnd s) s) := by
  unfold execGatheringIntervalEnd
  refine Keeps.next ?_
  refine Keeps.ite ?_ ?_
  · refine Keeps.via (State.closeGather_keeps _) (by decide) ?_
    exact Keeps.mono (State.atTime_keeps _ _) (by decide)
  · exact Keeps.refl _ _

theorem State.unlatch_keeps (s : State) (i : Nat) : Keeps [.lev, .pins] s (State.unlatch s i) := by
  unfold State.unlatch
  dsimp -proj only
  refine Keeps.ite ?_ ?_
  · exact Keeps.refl _ _
  · refine Keeps.ite ?_ ?_
    · refine Keeps.via (State.alertPin_keeps _) (by decide) ?_
      exact Keeps.mono (State.setLevSrc_keeps _ _ _) (by decide)
    · exact Keeps.refl _ _

theorem execLeveeUnlatch_keeps (source : Nat) (s : State) : Keeps [.lev, .pins] s (stateAfter (execLeveeUnlatch
    source s) s) := by
  unfold execLeveeUnlatch
  refine Keeps.hostCmd ?_
  exact Keeps.mono (State.unlatch_keeps _ _) (by decide)

theorem execLog_keeps (s : State) : Keeps [.lev, .ao] s (stateAfter (execLog s) s) := by
  unfold execLog
  refine Keeps.runAction (by decide) (fun sets s => ?_)
  unfold eachTrip
  refine Keeps.foldlVia (fun s a => ?_) ?_
  · refine Keeps.foldlVia (fun s a => ?_) ?_
    · dsimp -proj only
      exact Keeps.mono (State.levLog_keeps _ _ _) (by decide)
    · exact Keeps.refl _ _
  · exact Keeps.refl _ _

theorem execEvent_keeps (s : State) : Keeps [.fns, .cfl, .evt, .snp, .lev, .pins, .tx] s (stateAfter (execEvent s)
    s) := by
  unfold execEvent
  refine Keeps.runAction (by decide) (fun sets s => ?_)
  unfold eachTrip
  refine Keeps.foldlVia (fun s a => ?_) ?_
  · refine Keeps.foldlVia (fun s a => ?_) ?_
    · dsimp -proj only
      exact Keeps.mono (State.raise_keeps _ _ _) (by decide)
    · exact Keeps.refl _ _
  · exact Keeps.refl _ _

theorem State.onLatched_keeps (s : State) (i : Nat) (f : LevSrc → LevSrc) : Keeps [.lev] s (State.onLatched s i f)
    := by
  unfold State.onLatched
  dsimp -proj only
  refine Keeps.ite ?_ ?_
  · exact Keeps.mono (State.setLevSrc_keeps _ _ _) (by decide)
  · exact Keeps.refl _ _

theorem execAlarmOut_keeps (s : State) : Keeps [.lev] s (stateAfter (execAlarmOut s) s) := by
  unfold execAlarmOut
  refine Keeps.runAction (by decide) (fun sets s => ?_)
  unfold eachTrip
  refine Keeps.foldlVia (fun s a => ?_) ?_
  · refine Keeps.foldlVia (fun s a => ?_) ?_
    · dsimp -proj only
      exact Keeps.mono (State.onLatched_keeps _ _ _) (by decide)
    · exact Keeps.refl _ _
  · exact Keeps.refl _ _

theorem execThrottle_keeps (s : State) : Keeps [.lev] s (stateAfter (execThrottle s) s) := by
  unfold execThrottle
  refine Keeps.runAction (by decide) (fun sets s => ?_)
  unfold eachTrip
  refine Keeps.foldlVia (fun s a => ?_) ?_
  · refine Keeps.foldlVia (fun s a => ?_) ?_
    · dsimp -proj only
      exact Keeps.mono (State.onLatched_keeps _ _ _) (by decide)
    · exact Keeps.refl _ _
  · exact Keeps.refl _ _

theorem State.clearVolatile_keeps (s : State) : Keeps [.fns, .reaches, .jobs, .weir, .kst, .slots, .records, .spr,
    .tiles, .cores, .spans, .stores, .hbm, .cfl, .evt, .snp, .pins, .tx] s (State.clearVolatile s) := by
  unfold State.clearVolatile
  refine Keeps.via (State.clearKeys_keeps _) (by decide) ?_
  exact Keeps.mono (State.flushAll_keeps _ _) (by decide)

theorem execClearVolatileKeys_keeps (s : State) : Keeps [.fns, .reaches, .jobs, .weir, .kst, .slots, .records, .spr,
    .tiles, .cores, .spans, .stores, .hbm, .cfl, .evt, .snp, .lev, .pins, .tx] s (stateAfter (execClearVolatileKeys
    s) s) := by
  unfold execClearVolatileKeys
  refine Keeps.runAction (by decide) (fun sets s => ?_)
  refine Keeps.via (State.newVaultKey_keeps _) (by decide) ?_
  exact Keeps.mono (State.clearVolatile_keeps _) (by decide)

theorem State.fenceAction_keeps (s : State) : Keeps [.fns, .queues, .jobs, .runs, .weir, .slots, .spr, .tiles,
    .cores, .spans, .stores, .hbm, .cfl, .evt, .snp, .lev, .rst, .sluice, .ao, .pins, .tx] s (State.fenceAction s)
    := by
  unfold State.fenceAction
  dsimp -proj only
  refine Keeps.via (Keeps.set_lev _ _) (by decide) ?_
  refine Keeps.via (State.fence_keeps _) (by decide) ?_
  refine Keeps.ite ?_ ?_
  · exact Keeps.mono (State.addCause_keeps _ _) (by decide)
  · exact Keeps.refl _ _

theorem execFenceAction_keeps (s : State) : Keeps [.fns, .queues, .jobs, .runs, .weir, .slots, .spr, .tiles, .cores,
    .spans, .stores, .hbm, .cfl, .evt, .snp, .lev, .rst, .sluice, .ao, .pins, .tx] s (stateAfter (execFenceAction s)
    s) := by
  unfold execFenceAction
  refine Keeps.runAction (by decide) (fun sets s => ?_)
  exact Keeps.mono (State.fenceAction_keeps _) (by decide)

theorem State.stopJobs_keeps (s : State) : Keeps [.fns, .jobs, .weir, .tiles, .cores, .spans, .cfl, .evt, .snp,
    .pins, .tx] s (State.stopJobs s) := by
  unfold State.stopJobs
  dsimp -proj only
  refine Keeps.via (State.sweepJobs_keeps _) (by decide) ?_
  refine Keeps.via (Keeps.set_jobs_spans _ _ _) (by decide) ?_
  refine Keeps.foldlVia (fun s a => ?_) ?_
  · exact Keeps.mono (State.leaveTile_keeps _ _) (by decide)
  · exact Keeps.refl _ _

theorem State.clearAll_keeps (s : State) : Keeps [.fns, .reaches, .jobs, .weir, .kst, .slots, .records, .spr,
    .tiles, .cores, .spans, .stores, .hbm, .cfl, .evt, .snp, .lev, .sluice, .ao, .pins, .tx] s (State.clearAll s) :=
    by
  unfold State.clearAll
  dsimp -proj only
  refine Keeps.via (Keeps.set_spr_lev _ _ _) (by decide) ?_
  refine Keeps.via (State.faultPin_keeps _) (by decide) ?_
  refine Keeps.via (State.zeroCover_keeps _) (by decide) ?_
  refine Keeps.via (State.dropHbmKeys_keeps _) (by decide) ?_
  refine Keeps.via (State.zeroMemories_keeps _) (by decide) ?_
  refine Keeps.via (State.stopJobs_keeps _) (by decide) ?_
  refine Keeps.via (State.clearVolatile_keeps _) (by decide) ?_
  exact Keeps.mono (Keeps.set_sluice _ _) (by decide)

theorem execClearAll_keeps (s : State) : Keeps [.fns, .reaches, .jobs, .weir, .kst, .slots, .records, .spr, .tiles,
    .cores, .spans, .stores, .hbm, .cfl, .evt, .snp, .lev, .sluice, .ao, .pins, .tx] s (stateAfter (execClearAll s)
    s) := by
  unfold execClearAll
  refine Keeps.runAction (by decide) (fun sets s => ?_)
  exact Keeps.mono (State.clearAll_keeps _) (by decide)

theorem State.haltAll_keeps (s : State) (sets : List AlarmSet) : Keeps [.wsh, .cfl, .lev, .pins, .tx] s
    (State.haltAll s sets) := by
  unfold State.haltAll
  dsimp -proj only
  refine Keeps.via (State.faultPin_keeps _) (by decide) ?_
  refine Keeps.via (Keeps.set_lev _ _) (by decide) ?_
  refine Keeps.ite ?_ ?_
  · refine Keeps.via (State.stampCommit_keeps _) (by decide) ?_
    refine Keeps.via (State.wshError_keeps _ _ _ _) (by decide) ?_
    refine Keeps.via (Keeps.set_wsh _ _) (by decide) ?_
    refine Keeps.foldlVia (fun s a => ?_) ?_
    · exact Keeps.mono (State.flood_keeps _ _ _) (by decide)
    · exact Keeps.refl _ _
  · refine Keeps.foldlVia (fun s a => ?_) ?_
    · exact Keeps.mono (State.flood_keeps _ _ _) (by decide)
    · exact Keeps.refl _ _

theorem execHalt_keeps (s : State) : Keeps [.wsh, .cfl, .lev, .pins, .tx] s (stateAfter (execHalt s) s) := by
  unfold execHalt
  refine Keeps.runAction (by decide) (fun sets s => ?_)
  exact Keeps.mono (State.haltAll_keeps _ _) (by decide)

theorem State.bistResult_keeps (s : State) (st : Status) : Keeps [.lev] s (State.bistResult s st) := by
  unfold State.bistResult
  dsimp -proj only
  exact Keeps.mono (Keeps.set_lev _ _) (by decide)

theorem State.bistStart_keeps (s : State) (i : Nat) (detB : Bool) : Keeps [.lev] s (State.bistStart s i detB) := by
  unfold State.bistStart
  dsimp -proj only
  refine Keeps.ite ?_ ?_
  · exact Keeps.mono (State.bistResult_keeps _ _) (by decide)
  · refine Keeps.ite ?_ ?_
    · exact Keeps.mono (State.bistResult_keeps _ _) (by decide)
    · exact Keeps.mono (Keeps.set_lev _ _) (by decide)

theorem execLevBistCmd_keeps (source : Nat) (detB : Bool) (s : State) : Keeps [.lev] s (stateAfter (execLevBistCmd
    source detB s) s) := by
  unfold execLevBistCmd
  refine Keeps.hostCmd ?_
  exact Keeps.mono (State.bistStart_keeps _ _ _) (by decide)

theorem execBistSchedule_keeps (source : Nat) (detB : Bool) (s : State) : Keeps [.lev] s (stateAfter
    (execBistSchedule source detB s) s) := by
  unfold execBistSchedule
  refine Keeps.next ?_
  refine Keeps.ite ?_ ?_
  · exact Keeps.mono (State.bistStart_keeps _ _ _) (by decide)
  · exact Keeps.refl _ _

theorem State.bistEnd_keeps (s : State) (passed : Bool) : Keeps [.fns, .cfl, .evt, .snp, .lev, .ao, .pins, .tx] s
    (State.bistEnd s passed) := by
  unfold State.bistEnd
  dsimp -proj only
  refine Keeps.ite ?_ ?_
  · exact Keeps.refl _ _
  · refine Keeps.ite ?_ ?_
    · refine Keeps.via (State.levLog_keeps _ _ _) (by decide) ?_
      exact Keeps.mono (Keeps.set_lev _ _) (by decide)
    · refine Keeps.via (State.raise_keeps _ _ _) (by decide) ?_
      refine Keeps.via (State.levCount_keeps _ _ _) (by decide) ?_
      refine Keeps.via (State.levLog_keeps _ _ _) (by decide) ?_
      exact Keeps.mono (Keeps.set_lev _ _) (by decide)

theorem execBistVerdict_keeps (passed : Bool) (s : State) : Keeps [.fns, .cfl, .evt, .snp, .lev, .ao, .pins, .tx] s
    (stateAfter (execBistVerdict passed s) s) := by
  unfold execBistVerdict
  refine Keeps.next ?_
  refine Keeps.ite ?_ ?_
  · exact Keeps.mono (State.bistEnd_keeps _ _) (by decide)
  · exact Keeps.refl _ _

theorem execBatterySample_keeps (detA detB : Nat) (s : State) : Keeps [.lev, .ao] s (stateAfter (execBatterySample
    detA detB s) s) := by
  unfold execBatterySample
  refine Keeps.next ?_
  refine Keeps.ite ?_ ?_
  · exact Keeps.refl _ _
  · exact Keeps.mono (State.batterySample_keeps _ _ _) (by decide)

end Sys2Proof.Machine
end

