-- ==== Sys2Proof/Laws/FrameResets.lean ====
section
/-! SUPPORT. What each operation of Machine/Resets.lean can touch. -/

namespace Sys2Proof.Machine

open Sys2Proof

theorem State.chainEvents_keeps (s : State) (before : List ChainRec) : Keeps [.fns, .cfl, .evt, .snp, .pins, .tx] s
    (State.chainEvents s before) := by
  unfold State.chainEvents
  refine Keeps.foldlVia (fun s a => ?_) ?_
  · exact Keeps.mono (State.raiseBasin_keeps _ _ _ _) (by decide)
  · exact Keeps.refl _ _

theorem State.startUnit_keeps (s : State) (c : NodeClass) (i : Nat) : Keeps [.fns, .jobs, .weir, .spr, .tiles,
    .cores, .hbm, .cfl, .evt, .snp, .pins, .tx] s (State.startUnit s c i) := by
  unfold State.startUnit
  dsimp -proj only
  refine Keeps.via (State.chainEvents_keeps _ _) (by decide) ?_
  refine Keeps.via (State.setTile_keeps _ _ _) (by decide) ?_
  refine Keeps.ite ?_ ?_
  · refine Keeps.via (State.setCore_keeps _ _ _) (by decide) ?_
    refine Keeps.ite ?_ ?_
    · refine Keeps.foldlVia (fun s a => ?_) ?_
      · exact Keeps.mono (State.saveLane_keeps _ _) (by decide)
      · exact Keeps.refl _ _
    · exact Keeps.refl _ _
  · refine Keeps.ite ?_ ?_
    · refine Keeps.foldlVia (fun s a => ?_) ?_
      · exact Keeps.mono (State.saveLane_keeps _ _) (by decide)
      · exact Keeps.refl _ _
    · exact Keeps.refl _ _

theorem execPtTileReset_keeps (s : State) : Keeps [.fns, .jobs, .weir, .spr, .tiles, .cores, .sel, .hbm, .cfl, .evt,
    .snp, .pins, .tx] s (stateAfter (execPtTileReset s) s) := by
  unfold execPtTileReset
  dsimp -proj only
  refine Keeps.hostCmd ?_
  refine Keeps.via (Keeps.set_sel _ _) (by decide) ?_
  refine Keeps.ite ?_ ?_
  · exact Keeps.mono (State.startUnit_keeps _ _ _) (by decide)
  · exact Keeps.refl _ _

theorem execHtTileReset_keeps (s : State) : Keeps [.fns, .jobs, .weir, .spr, .tiles, .cores, .sel, .hbm, .cfl, .evt,
    .snp, .pins, .tx] s (stateAfter (execHtTileReset s) s) := by
  unfold execHtTileReset
  dsimp -proj only
  refine Keeps.hostCmd ?_
  refine Keeps.via (Keeps.set_sel _ _) (by decide) ?_
  refine Keeps.ite ?_ ?_
  · exact Keeps.mono (State.startUnit_keeps _ _ _) (by decide)
  · exact Keeps.refl _ _

theorem execBnuUnitReset_keeps (s : State) : Keeps [.fns, .jobs, .weir, .spr, .tiles, .cores, .sel, .hbm, .cfl,
    .evt, .snp, .pins, .tx] s (stateAfter (execBnuUnitReset s) s) := by
  unfold execBnuUnitReset
  dsimp -proj only
  refine Keeps.hostCmd ?_
  refine Keeps.via (Keeps.set_sel _ _) (by decide) ?_
  refine Keeps.ite ?_ ?_
  · exact Keeps.mono (State.startUnit_keeps _ _ _) (by decide)
  · exact Keeps.refl _ _

theorem execCcCoreReset_keeps (s : State) : Keeps [.fns, .jobs, .weir, .spr, .tiles, .cores, .sel, .hbm, .cfl, .evt,
    .snp, .pins, .tx] s (stateAfter (execCcCoreReset s) s) := by
  unfold execCcCoreReset
  dsimp -proj only
  refine Keeps.hostCmd ?_
  refine Keeps.via (Keeps.set_sel _ _) (by decide) ?_
  refine Keeps.ite ?_ ?_
  · exact Keeps.mono (State.startUnit_keeps _ _ _) (by decide)
  · exact Keeps.refl _ _

theorem State.blkResult_keeps (s : State) (st : Status) (done : Bool) : Keeps [.rst] s (State.blkResult s st done)
    := by
  unfold State.blkResult
  dsimp -proj only
  exact Keeps.mono (Keeps.setR_rst _ _ rfl) (by decide)

theorem State.blkStarts_keeps (s : State) (t : ResetTarget) : Keeps [.rst] s (State.blkStarts s t) := by
  unfold State.blkStarts
  dsimp -proj only
  refine Keeps.via (Keeps.setR_rst _ _ rfl) (by decide) ?_
  exact Keeps.mono (State.blkResult_keeps _ _ _) (by decide)

theorem execCuReset_keeps (target : Nat) (s : State) : Keeps [.fns, .jobs, .weir, .spr, .tiles, .cores, .hbm, .cfl,
    .evt, .snp, .rst, .pins, .tx] s (stateAfter (execCuReset target s) s) := by
  unfold execCuReset
  refine Keeps.hostCmd ?_
  refine Keeps.ite ?_ ?_
  · refine Keeps.via (State.blkStarts_keeps _ _) (by decide) ?_
    exact Keeps.mono (State.startUnit_keeps _ _ _) (by decide)
  · exact Keeps.mono (State.blkResult_keeps _ _ _) (by decide)

theorem State.basinGoes_keeps (s : State) (b : Nat) (x : BasinSt) : Keeps [.fns, .jobs, .weir, .tiles, .cores,
    .spans, .cfl, .evt, .snp, .rst, .pins, .tx] s (State.basinGoes s b x) := by
  unfold State.basinGoes
  dsimp -proj only
  refine Keeps.via (State.chainEvents_keeps _ _) (by decide) ?_
  refine Keeps.via (State.raiseBasin_keeps _ _ _ _) (by decide) ?_
  refine Keeps.via (State.setBasin_keeps _ _ _) (by decide) ?_
  refine Keeps.ite ?_ ?_
  · refine Keeps.via (State.overlayOn_keeps _ _) (by decide) ?_
    exact Keeps.mono (State.settleCovered_keeps _ _) (by decide)
  · exact Keeps.refl _ _

theorem State.basinDrain_keeps (s : State) (b : Nat) : Keeps [.fns, .jobs, .weir, .tiles, .cores, .spans, .cfl,
    .evt, .snp, .rst, .pins, .tx] s (State.basinDrain s b) := by
  unfold State.basinDrain
  split
  · exact Keeps.mono (State.blkResult_keeps _ _ _) (by decide)
  · refine Keeps.via (State.blkResult_keeps _ _ _) (by decide) ?_
    refine Keeps.ite ?_ ?_
    · exact Keeps.mono (State.basinGoes_keeps _ _ _) (by decide)
    · exact Keeps.refl _ _

theorem execBasinDrain_keeps (target : Nat) (s : State) : Keeps [.fns, .jobs, .weir, .tiles, .cores, .spans, .cfl,
    .evt, .snp, .rst, .pins, .tx] s (stateAfter (execBasinDrain target s) s) := by
  unfold execBasinDrain
  refine Keeps.hostCmd ?_
  exact Keeps.mono (State.basinDrain_keeps _ _) (by decide)

theorem execBasinDrained_keeps (basin : Nat) (s : State) : Keeps [.fns, .jobs, .weir, .tiles, .cores, .spans, .cfl,
    .evt, .snp, .rst, .pins, .tx] s (stateAfter (execBasinDrained basin s) s) := by
  unfold execBasinDrained
  refine Keeps.engineCmd ?_
  refine Keeps.ite ?_ ?_
  · exact Keeps.mono (State.basinGoes_keeps _ _ _) (by decide)
  · exact Keeps.refl _ _

theorem State.basinReset_keeps (s : State) (b : Nat) : Keeps [.fns, .jobs, .weir, .tiles, .cores, .spans, .cfl,
    .evt, .snp, .rst, .pins, .tx] s (State.basinReset s b) := by
  unfold State.basinReset
  split
  · exact Keeps.mono (State.blkResult_keeps _ _ _) (by decide)
  · refine Keeps.ite ?_ ?_
    · refine Keeps.via (State.blkStarts_keeps _ _) (by decide) ?_
      exact Keeps.mono (State.basinGoes_keeps _ _ _) (by decide)
    · exact Keeps.mono (State.blkResult_keeps _ _ _) (by decide)

theorem execBasinReset_keeps (target : Nat) (s : State) : Keeps [.fns, .jobs, .weir, .tiles, .cores, .spans, .cfl,
    .evt, .snp, .rst, .pins, .tx] s (stateAfter (execBasinReset target s) s) := by
  unfold execBasinReset
  refine Keeps.hostCmd ?_
  exact Keeps.mono (State.basinReset_keeps _ _) (by decide)

theorem State.basinResume_keeps (s : State) (b : Nat) : Keeps [.fns, .jobs, .weir, .tiles, .cores, .spans, .cfl,
    .evt, .snp, .rst, .pins, .tx] s (State.basinResume s b) := by
  unfold State.basinResume
  split
  · exact Keeps.mono (State.blkResult_keeps _ _ _) (by decide)
  · refine Keeps.via (State.blkResult_keeps _ _ _) (by decide) ?_
    refine Keeps.ite ?_ ?_
    · exact Keeps.refl _ _
    · exact Keeps.mono (State.basinGoes_keeps _ _ _) (by decide)

theorem execBasinResume_keeps (target : Nat) (s : State) : Keeps [.fns, .jobs, .weir, .tiles, .cores, .spans, .cfl,
    .evt, .snp, .rst, .pins, .tx] s (stateAfter (execBasinResume target s) s) := by
  unfold execBasinResume
  refine Keeps.hostCmd ?_
  exact Keeps.mono (State.basinResume_keeps _ _) (by decide)

theorem State.clearUnit_keeps (s : State) (c : NodeClass) (i : Nat) : Keeps [.fns, .spr, .tiles, .cores, .cfl, .evt,
    .snp, .pins, .tx] s (State.clearUnit s c i) := by
  unfold State.clearUnit
  dsimp -proj only
  refine Keeps.via (State.clearRandom_keeps _ _ _) (by decide) ?_
  refine Keeps.ite ?_ ?_
  · refine Keeps.via (State.setCore_keeps _ _ _) (by decide) ?_
    refine Keeps.foldlVia (fun s a => ?_) ?_
    · exact Keeps.mono (State.setTile_keeps _ _ _) (by decide)
    · exact Keeps.refl _ _
  · refine Keeps.foldlVia (fun s a => ?_) ?_
    · exact Keeps.mono (State.setTile_keeps _ _ _) (by decide)
    · exact Keeps.refl _ _

theorem State.disableUnit_keeps (s : State) (c : NodeClass) (i : Nat) : Keeps [.fns, .tiles, .cfl, .evt, .snp, .rst,
    .sluice, .pins, .tx] s (State.disableUnit s c i) := by
  unfold State.disableUnit
  dsimp -proj only
  refine Keeps.via (State.raiseBasin_keeps _ _ _ _) (by decide) ?_
  refine Keeps.via (State.setTile_keeps _ _ _) (by decide) ?_
  exact Keeps.mono (Keeps.set_rst _ _) (by decide)

theorem State.unitDone_keeps (s : State) (c : NodeClass) (i : Nat) (failed : List Nat) : Keeps [.fns, .spr, .tiles,
    .cores, .sel, .cfl, .evt, .snp, .rst, .sluice, .pins, .tx] s (State.unitDone s c i failed) := by
  unfold State.unitDone
  dsimp -proj only
  refine Keeps.ite ?_ ?_
  · exact Keeps.refl _ _
  · split
    · refine Keeps.via (Keeps.set_sel _ _) (by decide) ?_
      refine Keeps.ite ?_ ?_
      · refine Keeps.via (State.disableUnit_keeps _ _ _) (by decide) ?_
        exact Keeps.mono (State.clearUnit_keeps _ _ _) (by decide)
      · exact Keeps.mono (State.clearUnit_keeps _ _ _) (by decide)
    · refine Keeps.via (Keeps.set_sel _ _) (by decide) ?_
      refine Keeps.ite ?_ ?_
      · refine Keeps.via (State.disableUnit_keeps _ _ _) (by decide) ?_
        exact Keeps.mono (State.clearUnit_keeps _ _ _) (by decide)
      · exact Keeps.mono (State.clearUnit_keeps _ _ _) (by decide)
    · refine Keeps.via (Keeps.set_sel _ _) (by decide) ?_
      refine Keeps.ite ?_ ?_
      · refine Keeps.via (State.disableUnit_keeps _ _ _) (by decide) ?_
        exact Keeps.mono (State.clearUnit_keeps _ _ _) (by decide)
      · exact Keeps.mono (State.clearUnit_keeps _ _ _) (by decide)
    · refine Keeps.via (Keeps.set_sel _ _) (by decide) ?_
      refine Keeps.ite ?_ ?_
      · refine Keeps.via (State.disableUnit_keeps _ _ _) (by decide) ?_
        exact Keeps.mono (State.clearUnit_keeps _ _ _) (by decide)
      · exact Keeps.mono (State.clearUnit_keeps _ _ _) (by decide)
    · refine Keeps.via (Keeps.set_rst _ _) (by decide) ?_
      refine Keeps.ite ?_ ?_
      · refine Keeps.via (State.disableUnit_keeps _ _ _) (by decide) ?_
        exact Keeps.mono (State.clearUnit_keeps _ _ _) (by decide)
      · exact Keeps.mono (State.clearUnit_keeps _ _ _) (by decide)

theorem State.basinDone_keeps (s : State) (b : Nat) (failed : List Nat) : Keeps [.fns, .jobs, .weir, .spr, .tiles,
    .cores, .spans, .cfl, .evt, .snp, .rst, .sluice, .pins, .tx] s (State.basinDone s b failed) := by
  unfold State.basinDone
  dsimp -proj only
  refine Keeps.ite ?_ ?_
  · exact Keeps.refl _ _
  · refine Keeps.via (Keeps.set_rst _ _) (by decide) ?_
    refine Keeps.via (State.basinGoes_keeps _ _ _) (by decide) ?_
    refine Keeps.foldlVia (fun s a => ?_) ?_
    · exact Keeps.mono (State.disableUnit_keeps _ _ _) (by decide)
    · refine Keeps.via (State.basinGoes_keeps _ _ _) (by decide) ?_
      refine Keeps.foldlVia (fun s a => ?_) ?_
      · exact Keeps.mono (State.clearUnit_keeps _ _ _) (by decide)
      · exact Keeps.refl _ _

theorem State.reachResetDone_keeps (s : State) (r : Nat) : Keeps [.glb, .reaches] s (State.reachResetDone s r) := by
  unfold State.reachResetDone
  dsimp -proj only
  refine Keeps.ite ?_ ?_
  · exact Keeps.refl _ _
  · refine Keeps.via (Keeps.set_glb _ _) (by decide) ?_
    exact Keeps.mono (State.setReach_keeps _ _ _) (by decide)

theorem State.vfResetDone_keeps (s : State) (vf : Nat) : Keeps [.glb, .fns] s (State.vfResetDone s vf) := by
  unfold State.vfResetDone
  dsimp -proj only
  refine Keeps.ite ?_ ?_
  · exact Keeps.refl _ _
  · refine Keeps.via (Keeps.set_glb _ _) (by decide) ?_
    exact Keeps.mono (State.setFn_keeps _ _ _) (by decide)

theorem State.blockDone_keeps (s : State) (t : ResetTarget) (failed : List Nat) : Keeps [.glb, .fns, .reaches,
    .jobs, .weir, .spr, .tiles, .cores, .spans, .sel, .cfl, .evt, .snp, .rst, .sluice, .pins, .tx] s
    (State.blockDone s t failed) := by
  unfold State.blockDone
  split
  · exact Keeps.mono (State.reachResetDone_keeps _ _) (by decide)
  · exact Keeps.mono (State.vfResetDone_keeps _ _) (by decide)
  · exact Keeps.mono (State.unitDone_keeps _ _ _ _) (by decide)
  · exact Keeps.mono (State.unitDone_keeps _ _ _ _) (by decide)
  · exact Keeps.mono (State.unitDone_keeps _ _ _ _) (by decide)
  · exact Keeps.mono (State.unitDone_keeps _ _ _ _) (by decide)
  · exact Keeps.mono (State.unitDone_keeps _ _ _ _) (by decide)
  · exact Keeps.mono (State.basinDone_keeps _ _ _) (by decide)

theorem execBlockResetComplete_keeps (target : ResetTarget) (failed : List Nat) (s : State) : Keeps [.glb, .fns,
    .reaches, .jobs, .weir, .spr, .tiles, .cores, .spans, .sel, .cfl, .evt, .snp, .rst, .sluice, .pins, .tx] s
    (stateAfter (execBlockResetComplete target failed s) s) := by
  unfold execBlockResetComplete
  refine Keeps.engineCmd ?_
  exact Keeps.mono (State.blockDone_keeps _ _ _) (by decide)

end Sys2Proof.Machine
end

