-- ==== Sys2Proof/Laws/FrameBoot.lean ====
section
/-! SUPPORT. What each operation of Machine/Boot.lean can touch. -/

namespace Sys2Proof.Machine

open Sys2Proof

theorem State.cleared_keeps (s : State) : Keeps [.now, .wsh, .cfg, .glb, .fns, .reaches, .queues, .jobs, .runs, .weir, .kst, .slots, .spr, .tiles, .chainEpoch, .cores, .parts, .spans, .sel, .stores, .cprof, .meas, .measCnt, .hbm, .cfl, .evt, .snp, .lcs, .lev, .rst, .sluice, .ledger, .fwu, .pwr, .pins, .mgmt] s s.cleared := by
  intro p hp; cases p <;> first | rfl | exact absurd (by decide) hp

theorem State.deviceReset_keeps (s : State) (cause : Nat) : Keeps [.now, .wsh, .cfg, .glb, .fns, .reaches, .queues,
    .jobs, .runs, .weir, .kst, .slots, .spr, .tiles, .chainEpoch, .cores, .parts, .spans, .sel, .stores, .cprof,
    .meas, .measCnt, .hbm, .cfl, .evt, .snp, .lcs, .lev, .rst, .sluice, .ao, .ledger, .fwu, .pwr, .pins, .mgmt] s
    (State.deviceReset s cause) := by
  unfold State.deviceReset
  dsimp -proj only
  refine Keeps.via (State.alertPin_keeps _) (by decide) ?_
  refine Keeps.via (State.cleared_keeps _) (by decide) ?_
  exact Keeps.mono (Keeps.set_ao _ _) (by decide)

theorem State.resetNow_keeps (s : State) (cause : Nat) : Keeps [.now, .wsh, .cfg, .glb, .fns, .reaches, .queues,
    .jobs, .runs, .weir, .kst, .slots, .spr, .tiles, .chainEpoch, .cores, .parts, .spans, .sel, .stores, .cprof,
    .meas, .measCnt, .hbm, .cfl, .evt, .snp, .lcs, .lev, .rst, .sluice, .ao, .ledger, .fwu, .pwr, .pins, .mgmt] s
    (State.resetNow s cause) := by
  unfold State.resetNow
  dsimp -proj only
  refine Keeps.ite ?_ ?_
  · exact Keeps.mono (Keeps.set_ao _ _) (by decide)
  · split
    · exact Keeps.mono (Keeps.setR_rst _ _ rfl) (by decide)
    · exact Keeps.mono (Keeps.setR_rst _ _ rfl) (by decide)
    · exact Keeps.mono (State.deviceReset_keeps _ _) (by decide)

theorem State.fenceFor_keeps (s : State) (cause : Nat) : Keeps [.fns, .queues, .jobs, .runs, .weir, .slots, .spr,
    .tiles, .cores, .spans, .stores, .hbm, .cfl, .evt, .snp, .rst, .sluice, .ao, .pins, .tx] s (State.fenceFor s
    cause) := by
  unfold State.fenceFor
  dsimp -proj only
  refine Keeps.via (State.fence_keeps _) (by decide) ?_
  exact Keeps.mono (Keeps.set_ao _ _) (by decide)

theorem State.holdEnd_keeps (s : State) : Keeps [.now, .wsh, .cfg, .glb, .fns, .reaches, .queues, .jobs, .runs,
    .weir, .kst, .slots, .spr, .tiles, .chainEpoch, .cores, .parts, .spans, .sel, .stores, .cprof, .meas, .measCnt,
    .hbm, .cfl, .evt, .snp, .fuse, .lcs, .lev, .rst, .sluice, .ao, .ledger, .fwu, .pwr, .pins, .mgmt, .tx] s
    (State.holdEnd s) := by
  unfold State.holdEnd
  dsimp -proj only
  split
  · refine Keeps.via (State.deviceReset_keeps _ _) (by decide) ?_
    exact Keeps.mono (State.pulseEnd_keeps _) (by decide)
  · refine Keeps.ite ?_ ?_
    · exact Keeps.mono (State.pulseEnd_keeps _) (by decide)
    · refine Keeps.via (State.fenceFor_keeps _ _) (by decide) ?_
      refine Keeps.via (Keeps.setR_rst _ _ rfl) (by decide) ?_
      exact Keeps.mono (State.pulseEnd_keeps _) (by decide)
  · exact Keeps.refl _ _

theorem execResetHoldEnd_keeps (s : State) : Keeps [.now, .wsh, .cfg, .glb, .fns, .reaches, .queues, .jobs, .runs,
    .weir, .kst, .slots, .spr, .tiles, .chainEpoch, .cores, .parts, .spans, .sel, .stores, .cprof, .meas, .measCnt,
    .hbm, .cfl, .evt, .snp, .fuse, .lcs, .lev, .rst, .sluice, .ao, .ledger, .fwu, .pwr, .pins, .mgmt, .tx] s
    (stateAfter (execResetHoldEnd s) s) := by
  unfold execResetHoldEnd
  dsimp -proj only
  refine Keeps.next ?_
  exact Keeps.mono (State.holdEnd_keeps _) (by decide)

theorem State.internalReset_keeps (s : State) (cause : Nat) : Keeps [.now, .wsh, .cfg, .glb, .fns, .reaches,
    .queues, .jobs, .runs, .weir, .kst, .slots, .spr, .tiles, .chainEpoch, .cores, .parts, .spans, .sel, .stores,
    .cprof, .meas, .measCnt, .hbm, .cfl, .evt, .snp, .lcs, .lev, .rst, .sluice, .ao, .ledger, .fwu, .pwr, .pins,
    .mgmt, .tx] s (State.internalReset s cause) := by
  unfold State.internalReset
  dsimp -proj only
  refine Keeps.ite ?_ ?_
  · exact Keeps.mono (State.resetNow_keeps _ _) (by decide)
  · refine Keeps.ite ?_ ?_
    · exact Keeps.mono (Keeps.setR_rst _ _ rfl) (by decide)
    · exact Keeps.mono (State.fenceFor_keeps _ _) (by decide)

theorem execResetN_keeps (s : State) : Keeps [.now, .wsh, .cfg, .glb, .fns, .reaches, .queues, .jobs, .runs, .weir,
    .kst, .slots, .spr, .tiles, .chainEpoch, .cores, .parts, .spans, .sel, .stores, .cprof, .meas, .measCnt, .hbm,
    .cfl, .evt, .snp, .lcs, .lev, .rst, .sluice, .ao, .ledger, .fwu, .pwr, .pins, .mgmt] s (stateAfter (execResetN
    s) s) := by
  unfold execResetN
  dsimp -proj only
  refine Keeps.next ?_
  refine Keeps.ite ?_ ?_
  · exact Keeps.refl _ _
  · refine Keeps.ite ?_ ?_
    · refine Keeps.via (State.resetNow_keeps _ _) (by decide) ?_
      exact Keeps.mono (Keeps.setR_rst _ _ rfl) (by decide)
    · exact Keeps.mono (Keeps.setR_rst _ _ rfl) (by decide)

theorem execPerstN_keeps (s : State) : Keeps [.now, .wsh, .cfg, .glb, .fns, .reaches, .queues, .jobs, .runs, .weir,
    .kst, .slots, .spr, .tiles, .chainEpoch, .cores, .parts, .spans, .sel, .stores, .cprof, .meas, .measCnt, .hbm,
    .cfl, .evt, .snp, .lcs, .lev, .rst, .sluice, .ao, .ledger, .fwu, .pwr, .pins, .mgmt] s (stateAfter (execPerstN
    s) s) := by
  unfold execPerstN
  dsimp -proj only
  refine Keeps.next ?_
  refine Keeps.ite ?_ ?_
  · exact Keeps.refl _ _
  · refine Keeps.ite ?_ ?_
    · refine Keeps.via (State.resetNow_keeps _ _) (by decide) ?_
      exact Keeps.mono (Keeps.setR_rst _ _ rfl) (by decide)
    · exact Keeps.mono (Keeps.setR_rst _ _ rfl) (by decide)

theorem execResetInputRelease_keeps (pin : ResetPin) (s : State) : Keeps [.rst] s (stateAfter (execResetInputRelease
    pin s) s) := by
  unfold execResetInputRelease
  dsimp -proj only
  refine Keeps.next ?_
  split
  · exact Keeps.mono (Keeps.setR_rst _ _ rfl) (by decide)
  · exact Keeps.mono (Keeps.setR_rst _ _ rfl) (by decide)

theorem State.levToBattery_keeps (s : State) : Keeps [.ao] s (State.levToBattery s) := by
  unfold State.levToBattery
  dsimp -proj only
  exact Keeps.mono (Keeps.set_ao _ _) (by decide)

theorem State.supplyLost_keeps (s : State) : Keeps [.now, .wsh, .cfg, .glb, .fns, .reaches, .queues, .jobs, .runs,
    .weir, .kst, .slots, .spr, .tiles, .chainEpoch, .cores, .parts, .spans, .sel, .stores, .cprof, .meas, .measCnt,
    .hbm, .cfl, .evt, .snp, .fuse, .lcs, .lev, .rst, .sluice, .ao, .ledger, .fwu, .pwr, .pins, .mgmt] s
    (State.supplyLost s) := by
  unfold State.supplyLost
  dsimp -proj only
  refine Keeps.ite ?_ ?_
  · exact Keeps.refl _ _
  · refine Keeps.via (State.alertPin_keeps _) (by decide) ?_
    refine Keeps.via (Keeps.set_ao_pwr_pins _ _ _ _) (by decide) ?_
    refine Keeps.via (State.deviceReset_keeps _ _) (by decide) ?_
    refine Keeps.via (State.levToBattery_keeps _) (by decide) ?_
    refine Keeps.via (State.pulseEnd_keeps _) (by decide) ?_
    exact Keeps.mono (Keeps.setR_rst _ _ rfl) (by decide)

theorem execPwrgoodDeassert_keeps (s : State) : Keeps [.now, .wsh, .cfg, .glb, .fns, .reaches, .queues, .jobs,
    .runs, .weir, .kst, .slots, .spr, .tiles, .chainEpoch, .cores, .parts, .spans, .sel, .stores, .cprof, .meas,
    .measCnt, .hbm, .cfl, .evt, .snp, .fuse, .lcs, .lev, .rst, .sluice, .ao, .ledger, .fwu, .pwr, .pins, .mgmt] s
    (stateAfter (execPwrgoodDeassert s) s) := by
  unfold execPwrgoodDeassert
  dsimp -proj only
  refine Keeps.next ?_
  exact Keeps.mono (State.supplyLost_keeps _) (by decide)

theorem State.supplyBack_keeps (s : State) (addrSel : Nat) : Keeps [.rst, .ao, .pins] s (State.supplyBack s addrSel)
    := by
  unfold State.supplyBack
  dsimp -proj only
  refine Keeps.ite ?_ ?_
  · exact Keeps.refl _ _
  · exact Keeps.mono (Keeps.setR_rst_ao_pins _ _ _ _ rfl) (by decide)

theorem execPwrgoodAssert_keeps (addrSel : Nat) (s : State) : Keeps [.rst, .ao, .pins] s (stateAfter
    (execPwrgoodAssert addrSel s) s) := by
  unfold execPwrgoodAssert
  refine Keeps.next ?_
  exact Keeps.mono (State.supplyBack_keeps _ _) (by decide)

theorem execAlwaysOnStateLost_keeps (s : State) : Keeps [.ao] s (stateAfter (execAlwaysOnStateLost s) s) := by
  unfold execAlwaysOnStateLost
  dsimp -proj only
  refine Keeps.next ?_
  refine Keeps.ite ?_ ?_
  · exact Keeps.refl _ _
  · exact Keeps.mono (Keeps.set_ao _ _) (by decide)

theorem State.devReset_keeps (s : State) (key : Nat) : Keeps [.now, .wsh, .cfg, .glb, .fns, .reaches, .queues,
    .jobs, .runs, .weir, .kst, .slots, .spr, .tiles, .chainEpoch, .cores, .parts, .spans, .sel, .stores, .cprof,
    .meas, .measCnt, .hbm, .cfl, .evt, .snp, .lcs, .lev, .rst, .sluice, .ao, .ledger, .fwu, .pwr, .pins, .mgmt] s
    (State.devReset s key) := by
  unfold State.devReset
  dsimp -proj only
  refine Keeps.ite ?_ ?_
  · exact Keeps.refl _ _
  · refine Keeps.ite ?_ ?_
    · exact Keeps.mono (Keeps.setR_rst _ _ rfl) (by decide)
    · refine Keeps.via (State.resetNow_keeps _ _) (by decide) ?_
      exact Keeps.mono (Keeps.setR_rst _ _ rfl) (by decide)

theorem execDevReset_keeps (key : Nat) (s : State) : Keeps [.now, .wsh, .cfg, .glb, .fns, .reaches, .queues, .jobs,
    .runs, .weir, .kst, .slots, .spr, .tiles, .chainEpoch, .cores, .parts, .spans, .sel, .stores, .cprof, .meas,
    .measCnt, .hbm, .cfl, .evt, .snp, .lcs, .lev, .rst, .sluice, .ao, .ledger, .fwu, .pwr, .pins, .mgmt] s
    (stateAfter (execDevReset key s) s) := by
  unfold execDevReset
  dsimp -proj only
  refine Keeps.hostCmd ?_
  exact Keeps.mono (State.devReset_keeps _ _) (by decide)

theorem execWatchdogExpiry_keeps (s : State) : Keeps [.now, .wsh, .cfg, .glb, .fns, .reaches, .queues, .jobs, .runs,
    .weir, .kst, .slots, .spr, .tiles, .chainEpoch, .cores, .parts, .spans, .sel, .stores, .cprof, .meas, .measCnt,
    .hbm, .cfl, .evt, .snp, .lcs, .lev, .rst, .sluice, .ao, .ledger, .fwu, .pwr, .pins, .mgmt, .tx] s (stateAfter
    (execWatchdogExpiry s) s) := by
  unfold execWatchdogExpiry
  dsimp -proj only
  refine Keeps.next ?_
  refine Keeps.ite ?_ ?_
  · exact Keeps.mono (State.internalReset_keeps _ _) (by decide)
  · exact Keeps.refl _ _

theorem execCriticalError_keeps (unit : Nat) (s : State) : Keeps [.now, .wsh, .cfg, .glb, .fns, .reaches, .queues,
    .jobs, .runs, .weir, .kst, .slots, .spr, .tiles, .chainEpoch, .cores, .parts, .spans, .sel, .stores, .cprof,
    .meas, .measCnt, .hbm, .cfl, .evt, .snp, .lcs, .lev, .rst, .sluice, .ao, .ledger, .fwu, .pwr, .pins, .mgmt, .tx]
    s (stateAfter (execCriticalError unit s) s) := by
  unfold execCriticalError
  dsimp -proj only
  refine Keeps.next ?_
  refine Keeps.ite ?_ ?_
  · exact Keeps.refl _ _
  · exact Keeps.mono (State.internalReset_keeps _ _) (by decide)

theorem State.resetAction_keeps (s : State) : Keeps [.now, .wsh, .cfg, .glb, .fns, .reaches, .queues, .jobs, .runs,
    .weir, .kst, .slots, .spr, .tiles, .chainEpoch, .cores, .parts, .spans, .sel, .stores, .cprof, .meas, .measCnt,
    .hbm, .cfl, .evt, .snp, .lcs, .lev, .rst, .sluice, .ao, .ledger, .fwu, .pwr, .pins, .mgmt, .tx] s
    (State.resetAction s) := by
  unfold State.resetAction
  dsimp -proj only
  refine Keeps.ite ?_ ?_
  · exact Keeps.mono (State.fenceAction_keeps _) (by decide)
  · exact Keeps.mono (State.resetNow_keeps _ _) (by decide)

theorem execResetAction_keeps (s : State) : Keeps [.now, .wsh, .cfg, .glb, .fns, .reaches, .queues, .jobs, .runs,
    .weir, .kst, .slots, .spr, .tiles, .chainEpoch, .cores, .parts, .spans, .sel, .stores, .cprof, .meas, .measCnt,
    .hbm, .cfl, .evt, .snp, .lcs, .lev, .rst, .sluice, .ao, .ledger, .fwu, .pwr, .pins, .mgmt, .tx] s (stateAfter
    (execResetAction s) s) := by
  unfold execResetAction
  dsimp -proj only
  refine Keeps.runAction (by decide) (fun sets s => ?_)
  exact Keeps.mono (State.resetAction_keeps _) (by decide)

theorem execBootCountAgeOut_keeps (s : State) : Keeps [.ao] s (stateAfter (execBootCountAgeOut s) s) := by
  unfold execBootCountAgeOut
  dsimp -proj only
  refine Keeps.next ?_
  exact Keeps.mono (Keeps.set_ao _ _) (by decide)

theorem State.linkSettles_keeps (s : State) (speed width : Nat) : Keeps [.glb, .fns, .cfl, .evt, .snp, .pins, .tx] s
    (State.linkSettles s speed width) := by
  unfold State.linkSettles
  dsimp -proj only
  refine Keeps.ite ?_ ?_
  · refine Keeps.via (State.raise_keeps _ _ _) (by decide) ?_
    exact Keeps.mono (Keeps.set_glb _ _) (by decide)
  · exact Keeps.mono (Keeps.set_glb _ _) (by decide)

theorem execLinkSettle_keeps (speed width : Nat) (s : State) : Keeps [.glb, .fns, .cfl, .evt, .snp, .pins, .tx] s
    (stateAfter (execLinkSettle speed width s) s) := by
  unfold execLinkSettle
  refine Keeps.next ?_
  refine Keeps.ite ?_ ?_
  · exact Keeps.refl _ _
  · exact Keeps.mono (State.linkSettles_keeps _ _ _) (by decide)

theorem State.bootVote_keeps (s : State) : Keeps [.meas, .measCnt, .lcs] s (State.bootVote s) := by
  unfold State.bootVote
  dsimp -proj only
  refine Keeps.via (State.extendDev_keeps _ _ _) (by decide) ?_
  exact Keeps.mono (State.voteLife_keeps _) (by decide)

theorem State.bootLevee_keeps (s : State) : Keeps [.fns, .cfl, .evt, .snp, .lev, .ao, .pins, .tx] s (State.bootLevee
    s) := by
  unfold State.bootLevee
  dsimp -proj only
  refine Keeps.ite ?_ ?_
  · refine Keeps.via (State.faultPin_keeps _) (by decide) ?_
    refine Keeps.ite ?_ ?_
    · refine Keeps.via (State.levCount_keeps _ _ _) (by decide) ?_
      refine Keeps.via (State.raise_keeps _ _ _) (by decide) ?_
      refine Keeps.ite ?_ ?_
      · refine Keeps.via (State.levCount_keeps _ _ _) (by decide) ?_
        exact Keeps.mono (Keeps.set_lev_ao _ _ _) (by decide)
      · exact Keeps.mono (Keeps.set_lev_ao _ _ _) (by decide)
    · refine Keeps.ite ?_ ?_
      · refine Keeps.via (State.levCount_keeps _ _ _) (by decide) ?_
        exact Keeps.mono (Keeps.set_lev_ao _ _ _) (by decide)
      · exact Keeps.mono (Keeps.set_lev_ao _ _ _) (by decide)
  · refine Keeps.ite ?_ ?_
    · refine Keeps.via (State.levCount_keeps _ _ _) (by decide) ?_
      refine Keeps.via (State.raise_keeps _ _ _) (by decide) ?_
      refine Keeps.ite ?_ ?_
      · refine Keeps.via (State.levCount_keeps _ _ _) (by decide) ?_
        exact Keeps.mono (Keeps.set_lev_ao _ _ _) (by decide)
      · exact Keeps.mono (Keeps.set_lev_ao _ _ _) (by decide)
    · refine Keeps.ite ?_ ?_
      · refine Keeps.via (State.levCount_keeps _ _ _) (by decide) ?_
        exact Keeps.mono (Keeps.set_lev_ao _ _ _) (by decide)
      · exact Keeps.mono (Keeps.set_lev_ao _ _ _) (by decide)

theorem State.bootBasins_keeps (s : State) (alt : Bool) : Keeps [.rst] s ((State.bootBasins s alt).getD s) := by
  unfold State.bootBasins
  refine Keeps.iteGetD ?_ ?_
  · refine Keeps.getDSome ?_
    exact Keeps.refl _ _
  · refine Keeps.iteGetD ?_ ?_
    · refine Keeps.getDSome ?_
      refine Keeps.foldlVia (fun s a => ?_) ?_
      · exact Keeps.mono (State.setBasin_keeps _ _ _) (by decide)
      · exact Keeps.refl _ _
    · exact Keeps.getDNone

theorem State.bootSpring_keeps (s : State) : Keeps [.spr, .rst] s (State.bootSpring s) := by
  unfold State.bootSpring
  dsimp -proj only
  exact Keeps.mono (Keeps.setR_spr_rst _ _ _ rfl) (by decide)

theorem State.bootLedger_keeps (s : State) (alt : Bool) : Keeps [.kst, .rst, .ledger] s (State.bootLedger s alt) :=
    by
  unfold State.bootLedger
  dsimp -proj only
  refine Keeps.via (State.derive_keeps _) (by decide) ?_
  exact Keeps.mono (Keeps.setR_rst_ledger _ _ _ rfl) (by decide)

theorem State.bootResume_keeps (s : State) :
    Keeps deviceParts s (s.bootResume.getD s) := by
  unfold State.bootResume
  split
  · refine Keeps.iteGetD Keeps.getDNone (Keeps.getDSome ?_)
    refine Keeps.via (Keeps.setR_rst _ _ rfl) (by decide) ?_
    refine Keeps.via (State.cleared_keeps _) (by decide) ?_
    exact Keeps.ofOpt (by assumption) ((State.resumeTrans_keeps _).mono (by decide))
  · refine Keeps.getDSome ?_
    dsimp -proj only
    refine Keeps.via (Keeps.set_lcs _ _) (by decide) ?_
    have k : Keeps deviceParts s (if s.ledger.readOnly then s else { s with ledger := { s.ledger with trial := none } }) :=
      Keeps.ite (Keeps.refl _ _) ((Keeps.set_ledger _ _).mono (by decide))
    split
    · exact Keeps.via (State.raiseTherm_keeps _ _) (by decide) k
    · exact k

theorem State.bootSlot_keeps (s : State) (alt : Bool) : Keeps [.meas, .measCnt, .fwu] s ((State.bootSlot s alt).getD
    s) := by
  unfold State.bootSlot
  dsimp -proj only
  refine Keeps.iteGetD ?_ ?_
  · exact Keeps.getDNone
  · refine Keeps.getDSome ?_
    refine Keeps.via (State.extendDev_keeps _ _ _) (by decide) ?_
    refine Keeps.via (State.extendDev_keeps _ _ _) (by decide) ?_
    refine Keeps.via (State.extendDev_keeps _ _ _) (by decide) ?_
    refine Keeps.via (State.extendDev_keeps _ _ _) (by decide) ?_
    exact Keeps.mono (Keeps.set_fwu _ _) (by decide)

theorem State.bootPatch_keeps (s : State) (alt : Bool) : Keeps [.stores, .meas, .measCnt] s (State.bootPatch s alt)
    := by
  unfold State.bootPatch
  dsimp -proj only
  refine Keeps.ite ?_ ?_
  · exact Keeps.refl _ _
  · refine Keeps.via (State.extendDev_keeps _ _ _) (by decide) ?_
    exact Keeps.mono (State.loadPatch_keeps _ _) (by decide)

theorem State.bootHbm_keeps (s : State) (alt : Bool) : Keeps [.hbm] s ((State.bootHbm s alt).getD s) := by
  unfold State.bootHbm
  dsimp -proj only
  split
  · refine Keeps.getDSome ?_
    exact Keeps.refl _ _
  · exact Keeps.getDNone
  · refine Keeps.getDSome ?_
    exact Keeps.mono (Keeps.set_hbm _ _) (by decide)
  · refine Keeps.getDSome ?_
    exact Keeps.mono (Keeps.set_hbm _ _) (by decide)

theorem State.bootKeys_keeps (s : State) : Keeps [.fns, .kst, .spr, .hbm, .cfl, .evt, .snp, .ao, .pins, .tx] s
    ((State.bootKeys s).getD s) := by
  unfold State.bootKeys
  dsimp -proj only
  refine Keeps.iteGetD ?_ ?_
  · exact Keeps.getDNone
  · split
    · refine Keeps.getDSome ?_
      refine Keeps.via (State.drawRegionKey_keeps _ _) (by decide) ?_
      refine Keeps.via (State.drawRegionKey_keeps _ _) (by decide) ?_
      refine Keeps.via (Keeps.set_kst_hbm _ _ _) (by decide) ?_
      exact Keeps.mono (State.generate_keeps _ _ _) (by decide)
    · refine Keeps.getDSome ?_
      refine Keeps.via (Keeps.set_ao _ _) (by decide) ?_
      refine Keeps.via (State.generate_keeps _ _ _) (by decide) ?_
      refine Keeps.via (State.drawRegionKey_keeps _ _) (by decide) ?_
      refine Keeps.via (State.drawRegionKey_keeps _ _) (by decide) ?_
      refine Keeps.via (Keeps.set_kst_hbm _ _ _) (by decide) ?_
      exact Keeps.mono (State.generate_keeps _ _ _) (by decide)

theorem State.bootUnits_keeps (s : State) (alt : Bool) : Keeps [.tiles, .rst] s ((State.bootUnits s alt).getD s) :=
    by
  unfold State.bootUnits
  dsimp -proj only
  refine Keeps.iteGetD ?_ ?_
  · refine Keeps.getDSome ?_
    exact Keeps.refl _ _
  · refine Keeps.iteGetD ?_ ?_
    · refine Keeps.getDSome ?_
      exact Keeps.mono (Keeps.setR_tiles_rst _ _ _ rfl) (by decide)
    · exact Keeps.getDNone

theorem State.trainNext_keeps (s : State) : Keeps [.fns, .cfl, .evt, .snp, .pins, .tx] s (State.trainNext s) := by
  unfold State.trainNext
  split
  · exact Keeps.refl _ _
  · exact Keeps.mono (State.portGoes_keeps _ _ _ _) (by decide)

theorem State.bootPorts_keeps (s : State) (alt : Bool) : Keeps [.fns, .cfl, .evt, .snp, .rst, .ao, .pins, .tx] s
    (State.bootPorts s alt) := by
  unfold State.bootPorts
  dsimp -proj only
  refine Keeps.via (State.trainNext_keeps _) (by decide) ?_
  refine Keeps.via (Keeps.setR_rst_ao _ _ _ rfl) (by decide) ?_
  refine Keeps.foldlVia (fun s a => ?_) ?_
  · exact Keeps.mono (State.portGoes_keeps _ _ _ _) (by decide)
  · exact Keeps.refl _ _

theorem State.bootService_keeps (s : State) : Keeps [.cores, .rst, .ao] s (State.bootService s) := by
  unfold State.bootService
  dsimp -proj only
  refine Keeps.foldlVia (fun s a => ?_) ?_
  · exact Keeps.mono (State.setCore_keeps _ _ _) (by decide)
  · exact Keeps.mono (Keeps.setR_rst_ao _ _ _ rfl) (by decide)

theorem State.bootWork_keeps (s : State) (n : Nat) (alt : Bool) : Keeps deviceParts s ((State.bootWork s n alt).getD
    s) := by
  unfold State.bootWork
  dsimp -proj only
  split
  · refine Keeps.getDSome ?_
    exact Keeps.mono (State.bootVote_keeps _) (by decide)
  · refine Keeps.getDSome ?_
    exact Keeps.mono (State.bootLevee_keeps _) (by decide)
  · refine Keeps.getDSome ?_
    exact Keeps.mono (State.bootClocks_keeps _ _) (by decide)
  · exact Keeps.mono (State.bootPoint_keeps _ _) (by decide)
  · exact Keeps.mono (State.bootBasins_keeps _ _) (by decide)
  · refine Keeps.getDSome ?_
    exact Keeps.mono (State.bootSpring_keeps _) (by decide)
  · refine Keeps.getDSome ?_
    exact Keeps.mono (State.bootLedger_keeps _ _) (by decide)
  · exact Keeps.mono (State.bootResume_keeps _) (by decide)
  · exact Keeps.mono (State.bootSlot_keeps _ _) (by decide)
  · refine Keeps.getDSome ?_
    exact Keeps.mono (State.bootPatch_keeps _ _) (by decide)
  · refine Keeps.getDSome ?_
    exact Keeps.mono (Keeps.setR_rst _ _ rfl) (by decide)
  · exact Keeps.mono (State.bootHbm_keeps _ _) (by decide)
  · exact Keeps.mono (State.bootKeys_keeps _) (by decide)
  · exact Keeps.mono (State.bootUnits_keeps _ _) (by decide)
  · refine Keeps.getDSome ?_
    exact Keeps.mono (State.bootPorts_keeps _ _) (by decide)
  · refine Keeps.getDSome ?_
    exact Keeps.mono (State.bootService_keeps _) (by decide)

theorem State.safeStandby_keeps (s : State) : Keeps [.rst, .ao, .ledger, .pwr, .pins] s (State.safeStandby s) := by
  unfold State.safeStandby
  dsimp -proj only
  refine Keeps.via (State.faultPin_keeps _) (by decide) ?_
  refine Keeps.via (Keeps.setR_rst _ _ rfl) (by decide) ?_
  refine Keeps.via (State.stepOutcome_keeps _ _ _) (by decide) ?_
  refine Keeps.ite ?_ ?_
  · exact Keeps.refl _ _
  · refine Keeps.via (State.stepOutcome_keeps _ _ _) (by decide) ?_
    exact Keeps.mono (State.bootClocks_keeps _ _) (by decide)

theorem State.stepFails_keeps (s : State) (n : Nat) (alt : Bool) : Keeps [.now, .wsh, .cfg, .glb, .fns, .reaches,
    .queues, .jobs, .runs, .weir, .kst, .slots, .spr, .tiles, .chainEpoch, .cores, .parts, .spans, .sel, .stores,
    .cprof, .meas, .measCnt, .hbm, .cfl, .evt, .snp, .lcs, .lev, .rst, .sluice, .ao, .ledger, .fwu, .pwr, .pins,
    .mgmt] s (State.stepFails s n alt) := by
  unfold State.stepFails
  dsimp -proj only
  refine Keeps.ite ?_ ?_
  · refine Keeps.ite ?_ ?_
    · refine Keeps.via (State.safeStandby_keeps _) (by decide) ?_
      refine Keeps.via (State.stepOutcome_keeps _ _ _) (by decide) ?_
      exact Keeps.mono (Keeps.setR_rst _ _ rfl) (by decide)
    · refine Keeps.via (State.deviceReset_keeps _ _) (by decide) ?_
      refine Keeps.via (State.stepOutcome_keeps _ _ _) (by decide) ?_
      exact Keeps.mono (Keeps.setR_rst _ _ rfl) (by decide)
  · refine Keeps.ite ?_ ?_
    · refine Keeps.via (State.safeStandby_keeps _) (by decide) ?_
      refine Keeps.via (State.stepOutcome_keeps _ _ _) (by decide) ?_
      exact Keeps.mono (Keeps.setR_rst _ _ rfl) (by decide)
    · refine Keeps.via (Keeps.setR_rst _ _ rfl) (by decide) ?_
      refine Keeps.via (State.stepOutcome_keeps _ _ _) (by decide) ?_
      exact Keeps.mono (Keeps.setR_rst _ _ rfl) (by decide)

theorem State.stepDone_keeps (s : State) (n : Nat) (alt : Bool) : Keeps [.rst, .ao, .ledger, .pwr, .pins] s
    (State.stepDone s n alt) := by
  unfold State.stepDone
  dsimp -proj only
  refine Keeps.ite ?_ ?_
  · refine Keeps.via (Keeps.setR_rst _ _ rfl) (by decide) ?_
    refine Keeps.via (Keeps.setR_rst _ _ rfl) (by decide) ?_
    exact Keeps.mono (State.stepOutcome_keeps _ _ _) (by decide)
  · refine Keeps.ite ?_ ?_
    · refine Keeps.via (State.safeStandby_keeps _) (by decide) ?_
      refine Keeps.via (Keeps.setR_rst _ _ rfl) (by decide) ?_
      exact Keeps.mono (State.stepOutcome_keeps _ _ _) (by decide)
    · refine Keeps.via (Keeps.setR_rst _ _ rfl) (by decide) ?_
      refine Keeps.via (Keeps.setR_rst _ _ rfl) (by decide) ?_
      exact Keeps.mono (State.stepOutcome_keeps _ _ _) (by decide)

theorem State.bootRun_keeps : ∀ (n : Nat) (s : State), Keeps deviceParts s (State.bootRun n s)
  | 0, s => Keeps.refl _ s
  | n + 1, s => by
    unfold State.bootRun
    dsimp -proj only
    refine Keeps.ite (Keeps.refl _ _) ?_
    refine Keeps.ite (Keeps.trans ((State.stepFails_keeps _ _ _).mono (by decide)) (State.bootRun_keeps n _)) ?_
    split
    · exact Keeps.trans ((State.stepFails_keeps _ _ _).mono (by decide)) (State.bootRun_keeps n _)
    · refine Keeps.trans ?_ (State.bootRun_keeps n _)
      have k := fun t h => Keeps.ofOpt (t := t) h (State.bootWork_keeps s s.rst.step (s.rst.alts.contains s.rst.step && s.hasAlt s.rst.step))
      refine Keeps.ite ((k _ (by assumption)).mono (by decide)) ?_
      exact Keeps.via (State.stepDone_keeps _ _ _) (by decide) ((k _ (by assumption)).mono (by decide))

theorem State.bootBegin_keeps (s : State) (obs : BootObs) : Keeps [.now, .rst, .ao] s (State.bootBegin s obs) := by
  unfold State.bootBegin
  dsimp -proj only
  exact Keeps.mono (Keeps.setR_now_rst_ao _ _ _ _ rfl) (by decide)

theorem State.bootStart_keeps (s : State) (obs : BootObs) : Keeps deviceParts s (State.bootStart s obs) := by
  unfold State.bootStart
  refine Keeps.ite ?_ ?_
  · exact Keeps.refl _ _
  · refine Keeps.via (State.bootRun_keeps _ _) (by decide) ?_
    exact Keeps.mono (State.bootBegin_keeps _ _) (by decide)

theorem execBootStart_keeps (obs : BootObs) (s : State) : Keeps deviceParts s (stateAfter (execBootStart obs s) s)
    := by
  unfold execBootStart
  refine Keeps.next ?_
  exact Keeps.mono (State.bootStart_keeps _ _) (by decide)

theorem State.bootOn_keeps (s : State) (n : Nat) : Keeps deviceParts s (State.bootOn s n) := by
  unfold State.bootOn
  refine Keeps.via (State.bootRun_keeps _ _) (by decide) ?_
  exact Keeps.mono (State.stepDone_keeps _ _ _) (by decide)

theorem State.stepTimeout_keeps (s : State) (n : Nat) : Keeps deviceParts s (State.stepTimeout s n) := by
  unfold State.stepTimeout
  dsimp -proj only
  refine Keeps.ite ?_ ?_
  · exact Keeps.refl _ _
  · refine Keeps.via (State.bootRun_keeps _ _) (by decide) ?_
    refine Keeps.via (State.stepFails_keeps _ _ _) (by decide) ?_
    refine Keeps.ite ?_ ?_
    · exact Keeps.mono (Keeps.set_ao _ _) (by decide)
    · exact Keeps.refl _ _

theorem execBootStepTimeout_keeps (step : Nat) (s : State) : Keeps deviceParts s (stateAfter (execBootStepTimeout
    step s) s) := by
  unfold execBootStepTimeout
  refine Keeps.next ?_
  exact Keeps.mono (State.stepTimeout_keeps _ _) (by decide)

theorem State.firstSeed_keeps (s : State) (rates : List Nat) (failed : Nat) (raw : Bytes) : Keeps deviceParts s
    (State.firstSeed s rates failed raw) := by
  unfold State.firstSeed
  dsimp -proj only
  refine Keeps.ite ?_ ?_
  · refine Keeps.via (State.bootRun_keeps _ _) (by decide) ?_
    exact Keeps.mono (State.stepFails_keeps _ _ _) (by decide)
  · refine Keeps.via (State.bootOn_keeps _ _) (by decide) ?_
    refine Keeps.via (State.raiseExcluded_keeps _ _) (by decide) ?_
    refine Keeps.via (State.startDrbg_keeps _ _ _) (by decide) ?_
    exact Keeps.mono (Keeps.set_spr _ _) (by decide)

theorem execSpringFirstSeed_keeps (rates : List Nat) (failed : Nat) (raw : Bytes) (s : State) : Keeps deviceParts s
    (stateAfter (execSpringFirstSeed rates failed raw s) s) := by
  unfold execSpringFirstSeed
  refine Keeps.next ?_
  refine Keeps.ite ?_ ?_
  · exact Keeps.mono (State.firstSeed_keeps _ _ _ _) (by decide)
  · exact Keeps.refl _ _

theorem State.bootPort_keeps (s : State) (p lanes : Nat) : Keeps deviceParts s (State.bootPort s p lanes) := by
  unfold State.bootPort
  dsimp -proj only
  refine Keeps.ite ?_ ?_
  · refine Keeps.ite ?_ ?_
    · refine Keeps.via (State.bootOn_keeps _ _) (by decide) ?_
      refine Keeps.via (Keeps.setR_rst _ _ rfl) (by decide) ?_
      exact Keeps.mono (State.portTrained_keeps _ _ _) (by decide)
    · refine Keeps.via (State.trainNext_keeps _) (by decide) ?_
      refine Keeps.via (Keeps.setR_rst _ _ rfl) (by decide) ?_
      exact Keeps.mono (State.portTrained_keeps _ _ _) (by decide)
  · exact Keeps.refl _ _

theorem execPortTrainingDone_keeps (port lanes : Nat) (s : State) : Keeps deviceParts s (stateAfter
    (execPortTrainingDone port lanes s) s) := by
  unfold execPortTrainingDone
  refine Keeps.engineCmd ?_
  refine Keeps.ite ?_ ?_
  · exact Keeps.mono (State.bootPort_keeps _ _ _) (by decide)
  · exact Keeps.mono (State.portTrained_keeps _ _ _) (by decide)

end Sys2Proof.Machine
end

