-- ==== Sys2Proof/Laws/FrameJobRun.lean ====
section
/-! SUPPORT. What each operation of Machine/JobRun.lean can touch. -/

namespace Sys2Proof.Machine

open Sys2Proof

theorem State.applyOut_keeps (s : State) (j : Job) (r : OpOut) : Keeps [.fns, .reaches, .jobs, .weir, .kst, .slots,
    .spr, .tiles, .cores, .spans, .stores, .hbm, .cfl, .evt, .snp, .pins, .tx] s (State.applyOut s j r) := by
  unfold State.applyOut
  dsimp -proj only
  refine Keeps.ite ?_ ?_
  · refine Keeps.via (State.endJob_keeps _ _ _ _) (by decide) ?_
    split
    · refine Keeps.via (State.writeSlot_keeps _ _ _) (by decide) ?_
      exact Keeps.mono (State.setJob_keeps _ _) (by decide)
    · exact Keeps.mono (State.setJob_keeps _ _) (by decide)
  · exact Keeps.mono (State.endJob_keeps _ _ _ _) (by decide)

theorem State.runPlain_keeps (s : State) (id : Nat) (o : Op) (f : Job → Nat → OpOut) : Keeps [.fns, .reaches, .jobs,
    .weir, .kst, .slots, .spr, .tiles, .cores, .spans, .stores, .hbm, .cfl, .evt, .snp, .pins, .tx] s
    (State.runPlain s id o f) := by
  unfold State.runPlain
  split
  · exact Keeps.refl _ _
  · split
    · refine Keeps.ite ?_ ?_
      · unfold State.masked
        split
        · dsimp -proj only
          exact Keeps.mono (State.applyOut_keeps _ _ _) (by decide)
        · dsimp -proj only
          refine Keeps.ite ?_ ?_
          · split
            · refine Keeps.via (State.applyOut_keeps _ _ _) (by decide) ?_
              exact Keeps.mono (State.nodeMasks_keeps _ _ _) (by decide)
            · exact Keeps.mono (State.nodeMasks_keeps _ _ _) (by decide)
          · exact Keeps.mono (State.nodeMasks_keeps _ _ _) (by decide)
      · exact Keeps.refl _ _
    · exact Keeps.refl _ _

theorem State.reachKey_keeps (s : State) (j : Job) (o : Op) (v : Nat) : Keeps [.fns, .reaches, .jobs, .weir, .kst,
    .slots, .spr, .tiles, .cores, .spans, .stores, .hbm, .cfl, .evt, .snp, .rst, .pins, .tx] s (State.reachKey s j o
    v) := by
  unfold State.reachKey
  refine Keeps.ite ?_ ?_
  · exact Keeps.mono (State.takeKey_keeps _ _) (by decide)
  · exact Keeps.mono (State.endJob_keeps _ _ _ _) (by decide)

theorem State.runKeyed_keeps (s : State) (id : Nat) (o : Op) (f : Job → Nat → Option Slot → OpOut) : Keeps [.fns,
    .reaches, .jobs, .weir, .kst, .slots, .spr, .tiles, .cores, .spans, .stores, .hbm, .cfl, .evt, .snp, .rst,
    .pins, .tx] s (State.runKeyed s id o f) := by
  unfold State.runKeyed
  split
  · exact Keeps.refl _ _
  · split
    · exact Keeps.refl _ _
    · refine Keeps.ite ?_ ?_
      · exact Keeps.refl _ _
      · refine Keeps.ite ?_ ?_
        · unfold State.masked
          split
          · dsimp -proj only
            exact Keeps.mono (State.applyOut_keeps _ _ _) (by decide)
          · dsimp -proj only
            refine Keeps.ite ?_ ?_
            · split
              · refine Keeps.via (State.applyOut_keeps _ _ _) (by decide) ?_
                exact Keeps.mono (State.nodeMasks_keeps _ _ _) (by decide)
              · exact Keeps.mono (State.nodeMasks_keeps _ _ _) (by decide)
            · exact Keeps.mono (State.nodeMasks_keeps _ _ _) (by decide)
        · split
          · exact Keeps.mono (State.reachKey_keeps _ _ _ _) (by decide)
          · unfold State.masked
            split
            · dsimp -proj only
              exact Keeps.mono (State.applyOut_keeps _ _ _) (by decide)
            · dsimp -proj only
              refine Keeps.ite ?_ ?_
              · split
                · refine Keeps.via (State.applyOut_keeps _ _ _) (by decide) ?_
                  exact Keeps.mono (State.nodeMasks_keeps _ _ _) (by decide)
                · exact Keeps.mono (State.nodeMasks_keeps _ _ _) (by decide)
              · exact Keeps.mono (State.nodeMasks_keeps _ _ _) (by decide)

theorem State.runSlot_keeps (s : State) (id : Nat) (o : Op) (f : Job → Slot → OpOut) : Keeps [.fns, .reaches, .jobs,
    .weir, .kst, .slots, .spr, .tiles, .cores, .spans, .stores, .hbm, .cfl, .evt, .snp, .pins, .tx] s (State.runSlot
    s id o f) := by
  unfold State.runSlot
  dsimp -proj only
  split
  · exact Keeps.refl _ _
  · refine Keeps.ite ?_ ?_
    · exact Keeps.refl _ _
    · refine Keeps.ite ?_ ?_
      · exact Keeps.mono (State.endJob_keeps _ _ _ _) (by decide)
      · exact Keeps.mono (State.applyOut_keeps _ _ _) (by decide)

theorem State.streamCommit_keeps (s : State) (j : Job) : Keeps [.jobs, .tiles] s (State.streamCommit s j) := by
  unfold State.streamCommit
  dsimp -proj only
  split
  · exact Keeps.mono (State.setJob_keeps _ _) (by decide)
  · refine Keeps.via (Keeps.set_tiles _ _) (by decide) ?_
    exact Keeps.mono (State.setJob_keeps _ _) (by decide)

theorem State.runStream_keeps (s : State) (id : Nat) (o : Op) (f : Job → Nat → Option Slot → OpOut) : Keeps [.fns,
    .reaches, .jobs, .weir, .kst, .slots, .spr, .tiles, .cores, .spans, .stores, .hbm, .cfl, .evt, .snp, .rst,
    .pins, .tx] s (State.runStream s id o f) := by
  unfold State.runStream
  split
  · exact Keeps.refl _ _
  · refine Keeps.ite ?_ ?_
    · unfold State.masked
      split
      · exact Keeps.mono (State.streamCommit_keeps _ _) (by decide)
      · dsimp -proj only
        refine Keeps.ite ?_ ?_
        · split
          · refine Keeps.via (State.streamCommit_keeps _ _) (by decide) ?_
            exact Keeps.mono (State.nodeMasks_keeps _ _ _) (by decide)
          · exact Keeps.mono (State.nodeMasks_keeps _ _ _) (by decide)
        · exact Keeps.mono (State.nodeMasks_keeps _ _ _) (by decide)
    · exact Keeps.mono (State.runKeyed_keeps _ _ _ _) (by decide)

end Sys2Proof.Machine
end

