-- ==== Sys2Proof/Laws/FramePqJobs.lean ====
section
/-! SUPPORT. What each operation of Machine/PqJobs.lean can touch. -/

namespace Sys2Proof.Machine

open Sys2Proof

theorem execMlKemKeygen_keeps (job : Nat) (s : State) : Keeps [.fns, .reaches, .jobs, .weir, .kst, .slots, .spr,
    .tiles, .cores, .spans, .stores, .hbm, .cfl, .evt, .snp, .pins, .tx] s (stateAfter (execMlKemKeygen job s) s) :=
    by
  unfold execMlKemKeygen
  refine Keeps.engineCmd ?_
  exact Keeps.mono (State.runPlain_keeps _ _ _ _) (by decide)

theorem execMlKemEncaps_keeps (job : Nat) (s : State) : Keeps [.fns, .reaches, .jobs, .weir, .kst, .slots, .spr,
    .tiles, .cores, .spans, .stores, .hbm, .cfl, .evt, .snp, .rst, .pins, .tx] s (stateAfter (execMlKemEncaps job s)
    s) := by
  unfold execMlKemEncaps
  refine Keeps.engineCmd ?_
  exact Keeps.mono (State.runKeyed_keeps _ _ _ _) (by decide)

theorem execMlKemDecaps_keeps (job : Nat) (s : State) : Keeps [.fns, .reaches, .jobs, .weir, .kst, .slots, .spr,
    .tiles, .cores, .spans, .stores, .hbm, .cfl, .evt, .snp, .rst, .pins, .tx] s (stateAfter (execMlKemDecaps job s)
    s) := by
  unfold execMlKemDecaps
  refine Keeps.engineCmd ?_
  exact Keeps.mono (State.runKeyed_keeps _ _ _ _) (by decide)

theorem execMlDsaKeygen_keeps (job : Nat) (s : State) : Keeps [.fns, .reaches, .jobs, .weir, .kst, .slots, .spr,
    .tiles, .cores, .spans, .stores, .hbm, .cfl, .evt, .snp, .pins, .tx] s (stateAfter (execMlDsaKeygen job s) s) :=
    by
  unfold execMlDsaKeygen
  refine Keeps.engineCmd ?_
  exact Keeps.mono (State.runPlain_keeps _ _ _ _) (by decide)

theorem execMlDsaSign_keeps (job : Nat) (s : State) : Keeps [.fns, .reaches, .jobs, .weir, .kst, .slots, .spr,
    .tiles, .cores, .spans, .stores, .hbm, .cfl, .evt, .snp, .rst, .pins, .tx] s (stateAfter (execMlDsaSign job s)
    s) := by
  unfold execMlDsaSign
  refine Keeps.engineCmd ?_
  exact Keeps.mono (State.runKeyed_keeps _ _ _ _) (by decide)

theorem execMlDsaVerify_keeps (job : Nat) (s : State) : Keeps [.fns, .reaches, .jobs, .weir, .kst, .slots, .spr,
    .tiles, .cores, .spans, .stores, .hbm, .cfl, .evt, .snp, .rst, .pins, .tx] s (stateAfter (execMlDsaVerify job s)
    s) := by
  unfold execMlDsaVerify
  refine Keeps.engineCmd ?_
  exact Keeps.mono (State.runKeyed_keeps _ _ _ _) (by decide)

theorem execSlhDsaKeygen_keeps (job : Nat) (s : State) : Keeps [.fns, .reaches, .jobs, .weir, .kst, .slots, .spr,
    .tiles, .cores, .spans, .stores, .hbm, .cfl, .evt, .snp, .pins, .tx] s (stateAfter (execSlhDsaKeygen job s) s)
    := by
  unfold execSlhDsaKeygen
  refine Keeps.engineCmd ?_
  exact Keeps.mono (State.runPlain_keeps _ _ _ _) (by decide)

theorem execSlhDsaSign_keeps (job : Nat) (s : State) : Keeps [.fns, .reaches, .jobs, .weir, .kst, .slots, .spr,
    .tiles, .cores, .spans, .stores, .hbm, .cfl, .evt, .snp, .rst, .pins, .tx] s (stateAfter (execSlhDsaSign job s)
    s) := by
  unfold execSlhDsaSign
  refine Keeps.engineCmd ?_
  exact Keeps.mono (State.runKeyed_keeps _ _ _ _) (by decide)

theorem execSlhDsaVerify_keeps (job : Nat) (s : State) : Keeps [.fns, .reaches, .jobs, .weir, .kst, .slots, .spr,
    .tiles, .cores, .spans, .stores, .hbm, .cfl, .evt, .snp, .rst, .pins, .tx] s (stateAfter (execSlhDsaVerify job
    s) s) := by
  unfold execSlhDsaVerify
  refine Keeps.engineCmd ?_
  exact Keeps.mono (State.runKeyed_keeps _ _ _ _) (by decide)

theorem State.statefulKeygen_keeps (s : State) (j : Job) (t : Nat) (mat : Bytes) : Keeps [.fns, .jobs, .weir,
    .slots, .spr, .tiles, .cores, .spans, .stores, .hbm, .cfl, .evt, .snp, .rst, .pins, .tx] s (State.statefulKeygen
    s j t mat) := by
  unfold State.statefulKeygen
  dsimp -proj only
  refine Keeps.ite ?_ ?_
  · exact Keeps.mono (State.endJob_keeps _ _ _ _) (by decide)
  · refine Keeps.ite ?_ ?_
    · exact Keeps.mono (State.endJob_keeps _ _ _ _) (by decide)
    · refine Keeps.via (State.ledgerPulse_keeps _) (by decide) ?_
      refine Keeps.via (State.setSlot_keeps _ _ _) (by decide) ?_
      exact Keeps.mono (State.streamCommit_keeps _ _) (by decide)

theorem State.runStatefulKeygen_keeps (s : State) (id : Nat) (o : Op) (mat : Job → Nat → Nat × Bytes) : Keeps [.fns,
    .jobs, .weir, .slots, .spr, .tiles, .cores, .spans, .stores, .hbm, .cfl, .evt, .snp, .rst, .pins, .tx] s
    (State.runStatefulKeygen s id o mat) := by
  unfold State.runStatefulKeygen
  split
  · exact Keeps.refl _ _
  · split
    · exact Keeps.refl _ _
    · refine Keeps.ite ?_ ?_
      · exact Keeps.mono (State.statefulKeygen_keeps _ _ _ _) (by decide)
      · exact Keeps.refl _ _

theorem execLmsKeygen_keeps (job : Nat) (s : State) : Keeps [.fns, .jobs, .weir, .slots, .spr, .tiles, .cores,
    .spans, .stores, .hbm, .cfl, .evt, .snp, .rst, .pins, .tx] s (stateAfter (execLmsKeygen job s) s) := by
  unfold execLmsKeygen
  refine Keeps.engineCmd ?_
  exact Keeps.mono (State.runStatefulKeygen_keeps _ _ _ _) (by decide)

theorem execXmssKeygen_keeps (job : Nat) (s : State) : Keeps [.fns, .jobs, .weir, .slots, .spr, .tiles, .cores,
    .spans, .stores, .hbm, .cfl, .evt, .snp, .rst, .pins, .tx] s (stateAfter (execXmssKeygen job s) s) := by
  unfold execXmssKeygen
  refine Keeps.engineCmd ?_
  exact Keeps.mono (State.runStatefulKeygen_keeps _ _ _ _) (by decide)

theorem State.releaseSignature_keeps (s : State) (j : Job) (x : Slot) (i : Nat) : Keeps [.fns, .reaches, .jobs,
    .weir, .kst, .slots, .spr, .tiles, .cores, .spans, .stores, .hbm, .cfl, .evt, .snp, .pins, .tx] s
    (State.releaseSignature s j x i) := by
  unfold State.releaseSignature
  refine Keeps.ite ?_ ?_
  · unfold State.masked
    split
    · dsimp -proj only
      exact Keeps.mono (State.applyOut_keeps _ _ _) (by decide)
    · dsimp -proj only
      refine Keeps.ite ?_ ?_
      · split
        · refine Keeps.via (State.applyOut_keeps _ _ _) (by decide) ?_
          exact Keeps.mono (State.nodeMasks_keeps _ _ _) (by decide)
        · exact Keeps.mono (State.nodeMasks_keeps _ _ _) (by decide)
      · exact Keeps.mono (State.nodeMasks_keeps _ _ _) (by decide)
  · exact Keeps.refl _ _

theorem State.statefulSign_keeps (s : State) (id : Nat) (o : Op) : Keeps [.fns, .reaches, .jobs, .weir, .kst,
    .slots, .spr, .tiles, .cores, .spans, .stores, .hbm, .cfl, .evt, .snp, .rst, .pins, .tx] s (State.statefulSign s
    id o) := by
  unfold State.statefulSign
  dsimp -proj only
  split
  · exact Keeps.refl _ _
  · refine Keeps.ite ?_ ?_
    · exact Keeps.refl _ _
    · split
      · exact Keeps.mono (State.takeKey_keeps _ _) (by decide)
      · exact Keeps.mono (State.releaseSignature_keeps _ _ _ _) (by decide)
      · refine Keeps.ite ?_ ?_
        · exact Keeps.mono (State.endJob_keeps _ _ _ _) (by decide)
        · refine Keeps.via (State.releaseSignature_keeps _ _ _ _) (by decide) ?_
          exact Keeps.mono (State.loadKey_keeps _ _) (by decide)

theorem execLmsSign_keeps (job : Nat) (s : State) : Keeps [.fns, .reaches, .jobs, .weir, .kst, .slots, .spr, .tiles,
    .cores, .spans, .stores, .hbm, .cfl, .evt, .snp, .rst, .pins, .tx] s (stateAfter (execLmsSign job s) s) := by
  unfold execLmsSign
  refine Keeps.engineCmd ?_
  exact Keeps.mono (State.statefulSign_keeps _ _ _) (by decide)

theorem execXmssSign_keeps (job : Nat) (s : State) : Keeps [.fns, .reaches, .jobs, .weir, .kst, .slots, .spr,
    .tiles, .cores, .spans, .stores, .hbm, .cfl, .evt, .snp, .rst, .pins, .tx] s (stateAfter (execXmssSign job s) s)
    := by
  unfold execXmssSign
  refine Keeps.engineCmd ?_
  exact Keeps.mono (State.statefulSign_keeps _ _ _) (by decide)

theorem execLmsVerify_keeps (job : Nat) (s : State) : Keeps [.fns, .reaches, .jobs, .weir, .kst, .slots, .spr,
    .tiles, .cores, .spans, .stores, .hbm, .cfl, .evt, .snp, .rst, .pins, .tx] s (stateAfter (execLmsVerify job s)
    s) := by
  unfold execLmsVerify
  refine Keeps.engineCmd ?_
  exact Keeps.mono (State.runKeyed_keeps _ _ _ _) (by decide)

theorem execXmssVerify_keeps (job : Nat) (s : State) : Keeps [.fns, .reaches, .jobs, .weir, .kst, .slots, .spr,
    .tiles, .cores, .spans, .stores, .hbm, .cfl, .evt, .snp, .rst, .pins, .tx] s (stateAfter (execXmssVerify job s)
    s) := by
  unfold execXmssVerify
  refine Keeps.engineCmd ?_
  exact Keeps.mono (State.runKeyed_keeps _ _ _ _) (by decide)

theorem execLmsIndexQuery_keeps (job : Nat) (s : State) : Keeps [.fns, .reaches, .jobs, .weir, .kst, .slots, .spr,
    .tiles, .cores, .spans, .stores, .hbm, .cfl, .evt, .snp, .pins, .tx] s (stateAfter (execLmsIndexQuery job s) s)
    := by
  unfold execLmsIndexQuery
  refine Keeps.engineCmd ?_
  exact Keeps.mono (State.runSlot_keeps _ _ _ _) (by decide)

theorem execXmssIndexQuery_keeps (job : Nat) (s : State) : Keeps [.fns, .reaches, .jobs, .weir, .kst, .slots, .spr,
    .tiles, .cores, .spans, .stores, .hbm, .cfl, .evt, .snp, .pins, .tx] s (stateAfter (execXmssIndexQuery job s) s)
    := by
  unfold execXmssIndexQuery
  refine Keeps.engineCmd ?_
  exact Keeps.mono (State.runSlot_keeps _ _ _ _) (by decide)

theorem execMcelieceKeygen_keeps (job : Nat) (s : State) : Keeps [.fns, .reaches, .jobs, .weir, .kst, .slots, .spr,
    .tiles, .cores, .spans, .stores, .hbm, .cfl, .evt, .snp, .pins, .tx] s (stateAfter (execMcelieceKeygen job s) s)
    := by
  unfold execMcelieceKeygen
  refine Keeps.engineCmd ?_
  exact Keeps.mono (State.runPlain_keeps _ _ _ _) (by decide)

theorem execMcelieceEncaps_keeps (job : Nat) (s : State) : Keeps [.fns, .reaches, .jobs, .weir, .kst, .slots, .spr,
    .tiles, .cores, .spans, .stores, .hbm, .cfl, .evt, .snp, .rst, .pins, .tx] s (stateAfter (execMcelieceEncaps job
    s) s) := by
  unfold execMcelieceEncaps
  refine Keeps.engineCmd ?_
  exact Keeps.mono (State.runKeyed_keeps _ _ _ _) (by decide)

theorem execMcelieceDecaps_keeps (job : Nat) (s : State) : Keeps [.fns, .reaches, .jobs, .weir, .kst, .slots, .spr,
    .tiles, .cores, .spans, .stores, .hbm, .cfl, .evt, .snp, .rst, .pins, .tx] s (stateAfter (execMcelieceDecaps job
    s) s) := by
  unfold execMcelieceDecaps
  refine Keeps.engineCmd ?_
  exact Keeps.mono (State.runKeyed_keeps _ _ _ _) (by decide)

end Sys2Proof.Machine
end

