-- ==== Sys2Proof/Laws/FrameClassicJobs.lean ====
section
/-! SUPPORT. What each operation of Machine/ClassicJobs.lean can touch. -/

namespace Sys2Proof.Machine

open Sys2Proof

theorem execEcKeygen_keeps (job : Nat) (s : State) : Keeps [.fns, .reaches, .jobs, .weir, .kst, .slots, .spr,
    .tiles, .cores, .spans, .stores, .hbm, .cfl, .evt, .snp, .pins, .tx] s (stateAfter (execEcKeygen job s) s) := by
  unfold execEcKeygen
  refine Keeps.engineCmd ?_
  exact Keeps.mono (State.runPlain_keeps _ _ _ _) (by decide)

theorem execEcSign_keeps (job : Nat) (s : State) : Keeps [.fns, .reaches, .jobs, .weir, .kst, .slots, .spr, .tiles,
    .cores, .spans, .stores, .hbm, .cfl, .evt, .snp, .rst, .pins, .tx] s (stateAfter (execEcSign job s) s) := by
  unfold execEcSign
  refine Keeps.engineCmd ?_
  exact Keeps.mono (State.runKeyed_keeps _ _ _ _) (by decide)

theorem execEcVerify_keeps (job : Nat) (s : State) : Keeps [.fns, .reaches, .jobs, .weir, .kst, .slots, .spr,
    .tiles, .cores, .spans, .stores, .hbm, .cfl, .evt, .snp, .rst, .pins, .tx] s (stateAfter (execEcVerify job s) s)
    := by
  unfold execEcVerify
  refine Keeps.engineCmd ?_
  exact Keeps.mono (State.runKeyed_keeps _ _ _ _) (by decide)

theorem execAgree_keeps (job : Nat) (s : State) : Keeps [.fns, .reaches, .jobs, .weir, .kst, .slots, .spr, .tiles,
    .cores, .spans, .stores, .hbm, .cfl, .evt, .snp, .rst, .pins, .tx] s (stateAfter (execAgree job s) s) := by
  unfold execAgree
  refine Keeps.engineCmd ?_
  exact Keeps.mono (State.runKeyed_keeps _ _ _ _) (by decide)

theorem execRsaKeygen_keeps (job : Nat) (s : State) : Keeps [.fns, .reaches, .jobs, .weir, .kst, .slots, .spr,
    .tiles, .cores, .spans, .stores, .hbm, .cfl, .evt, .snp, .pins, .tx] s (stateAfter (execRsaKeygen job s) s) :=
    by
  unfold execRsaKeygen
  refine Keeps.engineCmd ?_
  exact Keeps.mono (State.runPlain_keeps _ _ _ _) (by decide)

theorem execRsaPssSign_keeps (job : Nat) (s : State) : Keeps [.fns, .reaches, .jobs, .weir, .kst, .slots, .spr,
    .tiles, .cores, .spans, .stores, .hbm, .cfl, .evt, .snp, .rst, .pins, .tx] s (stateAfter (execRsaPssSign job s)
    s) := by
  unfold execRsaPssSign
  refine Keeps.engineCmd ?_
  exact Keeps.mono (State.runKeyed_keeps _ _ _ _) (by decide)

theorem execRsaV15Sign_keeps (job : Nat) (s : State) : Keeps [.fns, .reaches, .jobs, .weir, .kst, .slots, .spr,
    .tiles, .cores, .spans, .stores, .hbm, .cfl, .evt, .snp, .rst, .pins, .tx] s (stateAfter (execRsaV15Sign job s)
    s) := by
  unfold execRsaV15Sign
  refine Keeps.engineCmd ?_
  exact Keeps.mono (State.runKeyed_keeps _ _ _ _) (by decide)

theorem execRsaPssVerify_keeps (job : Nat) (s : State) : Keeps [.fns, .reaches, .jobs, .weir, .kst, .slots, .spr,
    .tiles, .cores, .spans, .stores, .hbm, .cfl, .evt, .snp, .rst, .pins, .tx] s (stateAfter (execRsaPssVerify job
    s) s) := by
  unfold execRsaPssVerify
  refine Keeps.engineCmd ?_
  exact Keeps.mono (State.runKeyed_keeps _ _ _ _) (by decide)

theorem execRsaV15Verify_keeps (job : Nat) (s : State) : Keeps [.fns, .reaches, .jobs, .weir, .kst, .slots, .spr,
    .tiles, .cores, .spans, .stores, .hbm, .cfl, .evt, .snp, .rst, .pins, .tx] s (stateAfter (execRsaV15Verify job
    s) s) := by
  unfold execRsaV15Verify
  refine Keeps.engineCmd ?_
  exact Keeps.mono (State.runKeyed_keeps _ _ _ _) (by decide)

theorem execRsaOaepEncrypt_keeps (job : Nat) (s : State) : Keeps [.fns, .reaches, .jobs, .weir, .kst, .slots, .spr,
    .tiles, .cores, .spans, .stores, .hbm, .cfl, .evt, .snp, .rst, .pins, .tx] s (stateAfter (execRsaOaepEncrypt job
    s) s) := by
  unfold execRsaOaepEncrypt
  refine Keeps.engineCmd ?_
  exact Keeps.mono (State.runKeyed_keeps _ _ _ _) (by decide)

theorem execRsaOaepDecrypt_keeps (job : Nat) (s : State) : Keeps [.fns, .reaches, .jobs, .weir, .kst, .slots, .spr,
    .tiles, .cores, .spans, .stores, .hbm, .cfl, .evt, .snp, .rst, .pins, .tx] s (stateAfter (execRsaOaepDecrypt job
    s) s) := by
  unfold execRsaOaepDecrypt
  refine Keeps.engineCmd ?_
  exact Keeps.mono (State.runKeyed_keeps _ _ _ _) (by decide)

theorem State.hashJob_keeps (s : State) (id : Nat) : Keeps [.fns, .reaches, .jobs, .weir, .kst, .slots, .spr,
    .tiles, .cores, .spans, .stores, .hbm, .cfl, .evt, .snp, .pins, .tx] s (State.hashJob s id) := by
  unfold State.hashJob
  dsimp -proj only
  split
  · exact Keeps.refl _ _
  · split
    · exact Keeps.refl _ _
    · refine Keeps.ite ?_ ?_
      · exact Keeps.refl _ _
      · refine Keeps.via (State.applyOut_keeps _ _ _) (by decide) ?_
        exact Keeps.mono (State.takeSeq_keeps _) (by decide)

theorem execHash_keeps (job : Nat) (s : State) : Keeps [.fns, .reaches, .jobs, .weir, .kst, .slots, .spr, .tiles,
    .cores, .spans, .stores, .hbm, .cfl, .evt, .snp, .pins, .tx] s (stateAfter (execHash job s) s) := by
  unfold execHash
  refine Keeps.engineCmd ?_
  exact Keeps.mono (State.hashJob_keeps _ _) (by decide)

theorem State.measExtend_keeps (s : State) (id : Nat) : Keeps [.reaches, .jobs, .meas, .measCnt] s (State.measExtend
    s id) := by
  unfold State.measExtend
  dsimp -proj only
  split
  · exact Keeps.refl _ _
  · split
    · exact Keeps.refl _ _
    · exact Keeps.refl _ _
    · refine Keeps.ite ?_ ?_
      · refine Keeps.via (State.extendDev_keeps _ _ _) (by decide) ?_
        exact Keeps.mono (State.setJob_keeps _ _) (by decide)
      · refine Keeps.via (State.setReach_keeps _ _ _) (by decide) ?_
        exact Keeps.mono (State.setJob_keeps _ _) (by decide)

theorem execMeasExtend_keeps (job : Nat) (s : State) : Keeps [.reaches, .jobs, .meas, .measCnt] s (stateAfter
    (execMeasExtend job s) s) := by
  unfold execMeasExtend
  refine Keeps.engineCmd ?_
  exact Keeps.mono (State.measExtend_keeps _ _) (by decide)

theorem execHmacGenerate_keeps (job : Nat) (s : State) : Keeps [.fns, .reaches, .jobs, .weir, .kst, .slots, .spr,
    .tiles, .cores, .spans, .stores, .hbm, .cfl, .evt, .snp, .rst, .pins, .tx] s (stateAfter (execHmacGenerate job
    s) s) := by
  unfold execHmacGenerate
  refine Keeps.engineCmd ?_
  exact Keeps.mono (State.runKeyed_keeps _ _ _ _) (by decide)

theorem execHmacVerify_keeps (job : Nat) (s : State) : Keeps [.fns, .reaches, .jobs, .weir, .kst, .slots, .spr,
    .tiles, .cores, .spans, .stores, .hbm, .cfl, .evt, .snp, .rst, .pins, .tx] s (stateAfter (execHmacVerify job s)
    s) := by
  unfold execHmacVerify
  refine Keeps.engineCmd ?_
  exact Keeps.mono (State.runKeyed_keeps _ _ _ _) (by decide)

theorem execKmacGenerate_keeps (job : Nat) (s : State) : Keeps [.fns, .reaches, .jobs, .weir, .kst, .slots, .spr,
    .tiles, .cores, .spans, .stores, .hbm, .cfl, .evt, .snp, .rst, .pins, .tx] s (stateAfter (execKmacGenerate job
    s) s) := by
  unfold execKmacGenerate
  refine Keeps.engineCmd ?_
  exact Keeps.mono (State.runKeyed_keeps _ _ _ _) (by decide)

theorem execKmacVerify_keeps (job : Nat) (s : State) : Keeps [.fns, .reaches, .jobs, .weir, .kst, .slots, .spr,
    .tiles, .cores, .spans, .stores, .hbm, .cfl, .evt, .snp, .rst, .pins, .tx] s (stateAfter (execKmacVerify job s)
    s) := by
  unfold execKmacVerify
  refine Keeps.engineCmd ?_
  exact Keeps.mono (State.runKeyed_keeps _ _ _ _) (by decide)

theorem execAesGcmEncrypt_keeps (job : Nat) (s : State) : Keeps [.fns, .reaches, .jobs, .weir, .kst, .slots, .spr,
    .tiles, .cores, .spans, .stores, .hbm, .cfl, .evt, .snp, .rst, .pins, .tx] s (stateAfter (execAesGcmEncrypt job
    s) s) := by
  unfold execAesGcmEncrypt
  refine Keeps.engineCmd ?_
  exact Keeps.mono (State.runStream_keeps _ _ _ _) (by decide)

theorem State.gcmDecrypt_keeps (s : State) (id : Nat) : Keeps [.fns, .reaches, .jobs, .weir, .kst, .slots, .spr,
    .tiles, .cores, .spans, .stores, .hbm, .cfl, .evt, .snp, .rst, .pins, .tx] s (State.gcmDecrypt s id) := by
  unfold State.gcmDecrypt
  dsimp -proj only
  split
  · exact Keeps.refl _ _
  · refine Keeps.ite ?_ ?_
    · exact Keeps.refl _ _
    · split
      · exact Keeps.mono (State.takeKey_keeps _ _) (by decide)
      · refine Keeps.ite ?_ ?_
        · exact Keeps.mono (State.applyOut_keeps _ _ _) (by decide)
        · split
          · exact Keeps.mono (State.applyOut_keeps _ _ _) (by decide)
          · refine Keeps.ite ?_ ?_
            · exact Keeps.mono (State.applyOut_keeps _ _ _) (by decide)
            · exact Keeps.mono (State.streamCommit_keeps _ _) (by decide)

theorem execAesGcmDecrypt_keeps (job : Nat) (s : State) : Keeps [.fns, .reaches, .jobs, .weir, .kst, .slots, .spr,
    .tiles, .cores, .spans, .stores, .hbm, .cfl, .evt, .snp, .rst, .pins, .tx] s (stateAfter (execAesGcmDecrypt job
    s) s) := by
  unfold execAesGcmDecrypt
  refine Keeps.engineCmd ?_
  exact Keeps.mono (State.gcmDecrypt_keeps _ _) (by decide)

theorem execAesCtr_keeps (job : Nat) (s : State) : Keeps [.fns, .reaches, .jobs, .weir, .kst, .slots, .spr, .tiles,
    .cores, .spans, .stores, .hbm, .cfl, .evt, .snp, .rst, .pins, .tx] s (stateAfter (execAesCtr job s) s) := by
  unfold execAesCtr
  refine Keeps.engineCmd ?_
  exact Keeps.mono (State.runStream_keeps _ _ _ _) (by decide)

theorem execAesXtsEncrypt_keeps (job : Nat) (s : State) : Keeps [.fns, .reaches, .jobs, .weir, .kst, .slots, .spr,
    .tiles, .cores, .spans, .stores, .hbm, .cfl, .evt, .snp, .rst, .pins, .tx] s (stateAfter (execAesXtsEncrypt job
    s) s) := by
  unfold execAesXtsEncrypt
  refine Keeps.engineCmd ?_
  exact Keeps.mono (State.runStream_keeps _ _ _ _) (by decide)

theorem execAesXtsDecrypt_keeps (job : Nat) (s : State) : Keeps [.fns, .reaches, .jobs, .weir, .kst, .slots, .spr,
    .tiles, .cores, .spans, .stores, .hbm, .cfl, .evt, .snp, .rst, .pins, .tx] s (stateAfter (execAesXtsDecrypt job
    s) s) := by
  unfold execAesXtsDecrypt
  refine Keeps.engineCmd ?_
  exact Keeps.mono (State.runStream_keeps _ _ _ _) (by decide)

theorem execKdfCounterHmac_keeps (job : Nat) (s : State) : Keeps [.fns, .reaches, .jobs, .weir, .kst, .slots, .spr,
    .tiles, .cores, .spans, .stores, .hbm, .cfl, .evt, .snp, .rst, .pins, .tx] s (stateAfter (execKdfCounterHmac job
    s) s) := by
  unfold execKdfCounterHmac
  refine Keeps.engineCmd ?_
  exact Keeps.mono (State.runKeyed_keeps _ _ _ _) (by decide)

theorem execKdfKmac256_keeps (job : Nat) (s : State) : Keeps [.fns, .reaches, .jobs, .weir, .kst, .slots, .spr,
    .tiles, .cores, .spans, .stores, .hbm, .cfl, .evt, .snp, .rst, .pins, .tx] s (stateAfter (execKdfKmac256 job s)
    s) := by
  unfold execKdfKmac256
  refine Keeps.engineCmd ?_
  exact Keeps.mono (State.runKeyed_keeps _ _ _ _) (by decide)

theorem execHkdf_keeps (job : Nat) (s : State) : Keeps [.fns, .reaches, .jobs, .weir, .kst, .slots, .spr, .tiles,
    .cores, .spans, .stores, .hbm, .cfl, .evt, .snp, .rst, .pins, .tx] s (stateAfter (execHkdf job s) s) := by
  unfold execHkdf
  refine Keeps.engineCmd ?_
  exact Keeps.mono (State.runKeyed_keeps _ _ _ _) (by decide)

theorem execHkdfExpand_keeps (job : Nat) (s : State) : Keeps [.fns, .reaches, .jobs, .weir, .kst, .slots, .spr,
    .tiles, .cores, .spans, .stores, .hbm, .cfl, .evt, .snp, .rst, .pins, .tx] s (stateAfter (execHkdfExpand job s)
    s) := by
  unfold execHkdfExpand
  refine Keeps.engineCmd ?_
  exact Keeps.mono (State.runKeyed_keeps _ _ _ _) (by decide)

theorem execHybridKeygen_keeps (job : Nat) (s : State) : Keeps [.fns, .reaches, .jobs, .weir, .kst, .slots, .spr,
    .tiles, .cores, .spans, .stores, .hbm, .cfl, .evt, .snp, .pins, .tx] s (stateAfter (execHybridKeygen job s) s)
    := by
  unfold execHybridKeygen
  refine Keeps.engineCmd ?_
  exact Keeps.mono (State.runPlain_keeps _ _ _ _) (by decide)

theorem execHybridEncaps_keeps (job : Nat) (s : State) : Keeps [.fns, .reaches, .jobs, .weir, .kst, .slots, .spr,
    .tiles, .cores, .spans, .stores, .hbm, .cfl, .evt, .snp, .rst, .pins, .tx] s (stateAfter (execHybridEncaps job
    s) s) := by
  unfold execHybridEncaps
  refine Keeps.engineCmd ?_
  exact Keeps.mono (State.runKeyed_keeps _ _ _ _) (by decide)

theorem execHybridDecaps_keeps (job : Nat) (s : State) : Keeps [.fns, .reaches, .jobs, .weir, .kst, .slots, .spr,
    .tiles, .cores, .spans, .stores, .hbm, .cfl, .evt, .snp, .rst, .pins, .tx] s (stateAfter (execHybridDecaps job
    s) s) := by
  unfold execHybridDecaps
  refine Keeps.engineCmd ?_
  exact Keeps.mono (State.runKeyed_keeps _ _ _ _) (by decide)

end Sys2Proof.Machine
end

