-- ==== Sys2Proof/Laws/FrameCoreOps.lean ====
section
/-! SUPPORT. What each operation of Machine/CoreOps.lean can touch. -/

namespace Sys2Proof.Machine

open Sys2Proof

theorem State.countFault_keeps (s : State) : Keeps [.sel] s (State.countFault s) := by
  unfold State.countFault
  dsimp -proj only
  exact Keeps.mono (Keeps.set_sel _ _) (by decide)

theorem State.ccFault_keeps (s : State) (r : CRun) : Keeps [.fns, .jobs, .weir, .slots, .spr, .tiles, .cores,
    .spans, .sel, .stores, .hbm, .cfl, .evt, .snp, .pins, .tx] s (State.ccFault s r) := by
  unfold State.ccFault
  refine Keeps.via (State.failNode_keeps _ _ _ _) (by decide) ?_
  exact Keeps.mono (State.countFault_keeps _) (by decide)

theorem State.ccRestart_keeps (s : State) (r : CRun) : Keeps [.fns, .jobs, .weir, .slots, .spr, .tiles, .cores,
    .spans, .sel, .stores, .hbm, .cfl, .evt, .snp, .pins, .tx] s (State.ccRestart s r) := by
  unfold State.ccRestart
  dsimp -proj only
  split
  · refine Keeps.ite ?_ ?_
    · refine Keeps.via (State.countFault_keeps _) (by decide) ?_
      exact Keeps.mono (State.nodeFault_keeps _ _ _) (by decide)
    · exact Keeps.mono (State.nodeFault_keeps _ _ _) (by decide)
  · exact Keeps.mono (State.nodeFault_keeps _ _ _) (by decide)

theorem State.ccEnd_keeps (s : State) (r : CRun) : Keeps [.fns, .reaches, .jobs, .weir, .slots, .spr, .tiles,
    .cores, .spans, .sel, .stores, .hbm, .cfl, .evt, .snp, .pins, .tx] s (State.ccEnd s r) := by
  unfold State.ccEnd
  dsimp -proj only
  split
  · refine Keeps.ite ?_ ?_
    · exact Keeps.refl _ _
    · refine Keeps.via (State.finishNode_keeps _ _ _) (by decide) ?_
      refine Keeps.via (Keeps.set_sel _ _) (by decide) ?_
      exact Keeps.mono (State.setJob_keeps _ _) (by decide)
  · exact Keeps.refl _ _

theorem State.ccCommit_keeps (s : State) (r : CRun) (c : Core) : Keeps [.jobs, .tiles, .cores] s (State.ccCommit s r
    c) := by
  unfold State.ccCommit
  dsimp -proj only
  split
  · refine Keeps.ite ?_ ?_
    · refine Keeps.via (State.setJob_keeps _ _) (by decide) ?_
      refine Keeps.via (State.setTile_keeps _ _ _) (by decide) ?_
      exact Keeps.mono (State.setCore_keeps _ _ _) (by decide)
    · refine Keeps.via (State.setTile_keeps _ _ _) (by decide) ?_
      exact Keeps.mono (State.setCore_keeps _ _ _) (by decide)
  · refine Keeps.via (State.setTile_keeps _ _ _) (by decide) ?_
    exact Keeps.mono (State.setCore_keeps _ _ _) (by decide)

theorem State.ccCount_keeps (s : State) (i : Nat) (m : CoreEvent) : Keeps [.tiles] s (State.ccCount s i m) := by
  unfold State.ccCount
  dsimp -proj only
  split
  · exact Keeps.refl _ _
  · exact Keeps.mono (State.setTile_keeps _ _ _) (by decide)
  · exact Keeps.mono (State.setTile_keeps _ _ _) (by decide)
  · exact Keeps.mono (State.setTile_keeps _ _ _) (by decide)

theorem State.ccCycle_keeps (s : State) (r : CRun) (x : Score) : Keeps [.jobs, .cores] s (State.ccCycle s r x) := by
  unfold State.ccCycle
  dsimp -proj only
  split
  · refine Keeps.via (State.setJob_keeps _ _) (by decide) ?_
    exact Keeps.mono (State.setCore_keeps _ _ _) (by decide)
  · exact Keeps.mono (State.setCore_keeps _ _ _) (by decide)

theorem State.ccApply_keeps (s : State) (r : CRun) (x2 : CRes) : Keeps [.fns, .reaches, .jobs, .weir, .slots, .spr,
    .tiles, .cores, .spans, .sel, .stores, .hbm, .cfl, .evt, .snp, .pins, .tx] s (State.ccApply s r x2) := by
  unfold State.ccApply
  split
  · exact Keeps.mono (State.setCore_keeps _ _ _) (by decide)
  · exact Keeps.refl _ _
  · exact Keeps.mono (State.ccFault_keeps _ _) (by decide)
  · exact Keeps.mono (State.ccFault_keeps _ _) (by decide)
  · exact Keeps.mono (State.ccCommit_keeps _ _ _) (by decide)
  · refine Keeps.ite ?_ ?_
    · exact Keeps.mono (State.ccEnd_keeps _ _) (by decide)
    · exact Keeps.mono (State.ccFault_keeps _ _) (by decide)
  · exact Keeps.mono (State.failNode_keeps _ _ _ _) (by decide)

theorem State.ccExecute_keeps (s : State) (r : CRun) (w : CWord) (sem : State → CRun → CWord → CRes) : Keeps [.fns,
    .reaches, .jobs, .weir, .slots, .spr, .tiles, .cores, .spans, .sel, .stores, .hbm, .cfl, .evt, .snp, .pins, .tx]
    s (State.ccExecute s r w sem) := by
  unfold State.ccExecute
  dsimp -proj only
  refine Keeps.ite ?_ ?_
  · refine Keeps.ite ?_ ?_
    · refine Keeps.via (State.ccApply_keeps _ _ _) (by decide) ?_
      exact Keeps.mono (State.ccCycle_keeps _ _ _) (by decide)
    · exact Keeps.mono (State.ccEnd_keeps _ _) (by decide)
  · refine Keeps.ite ?_ ?_
    · exact Keeps.mono (State.ccFault_keeps _ _) (by decide)
    · refine Keeps.ite ?_ ?_
      · exact Keeps.mono (State.ccFault_keeps _ _) (by decide)
      · refine Keeps.ite ?_ ?_
        · exact Keeps.mono (State.setCore_keeps _ _ _) (by decide)
        · refine Keeps.via (State.ccApply_keeps _ _ _) (by decide) ?_
          exact Keeps.mono (State.ccCycle_keeps _ _ _) (by decide)

theorem State.ccError_keeps (s : State) (i : Nat) (m : CoreEvent) : Keeps [.fns, .jobs, .weir, .slots, .spr, .tiles,
    .cores, .spans, .stores, .hbm, .cfl, .evt, .snp, .pins, .tx] s (State.ccError s i m) := by
  unfold State.ccError
  dsimp -proj only
  refine Keeps.ite ?_ ?_
  · refine Keeps.via (State.recover_keeps _ _) (by decide) ?_
    split
    · refine Keeps.ite ?_ ?_
      · refine Keeps.via (State.nodeFault_keeps _ _ _) (by decide) ?_
        exact Keeps.mono (State.ccCount_keeps _ _ _) (by decide)
      · exact Keeps.mono (State.ccCount_keeps _ _ _) (by decide)
    · exact Keeps.mono (State.ccCount_keeps _ _ _) (by decide)
  · split
    · refine Keeps.ite ?_ ?_
      · refine Keeps.via (State.nodeFault_keeps _ _ _) (by decide) ?_
        exact Keeps.mono (State.ccCount_keeps _ _ _) (by decide)
      · exact Keeps.mono (State.ccCount_keeps _ _ _) (by decide)
    · exact Keeps.mono (State.ccCount_keeps _ _ _) (by decide)

theorem State.cc_keeps (s : State) (i : Nat) (m : CoreEvent) (row : Row) (sem : State → CRun → CWord → CRes) : Keeps
    [.fns, .reaches, .jobs, .weir, .slots, .spr, .tiles, .cores, .spans, .sel, .stores, .hbm, .cfl, .evt, .snp,
    .pins, .tx] s (State.cc s i m row sem) := by
  unfold State.cc
  dsimp -proj only
  split
  · refine Keeps.ite ?_ ?_
    · exact Keeps.mono (State.ccError_keeps _ _ _) (by decide)
    · exact Keeps.refl _ _
  · refine Keeps.ite ?_ ?_
    · exact Keeps.refl _ _
    · refine Keeps.ite ?_ ?_
      · exact Keeps.mono (State.failNode_keeps _ _ _ _) (by decide)
      · refine Keeps.ite ?_ ?_
        · refine Keeps.ite ?_ ?_
          · refine Keeps.via (State.failNode_keeps _ _ _ _) (by decide) ?_
            exact Keeps.mono (State.ccCount_keeps _ _ _) (by decide)
          · refine Keeps.via (State.ccRestart_keeps _ _) (by decide) ?_
            exact Keeps.mono (State.ccCount_keeps _ _ _) (by decide)
        · refine Keeps.ite ?_ ?_
          · refine Keeps.via (State.recover_keeps _ _) (by decide) ?_
            refine Keeps.via (State.ccRestart_keeps _ _) (by decide) ?_
            exact Keeps.mono (State.ccCount_keeps _ _ _) (by decide)
          · split
            · refine Keeps.via (State.ccExecute_keeps _ _ _ _) (by decide) ?_
              refine Keeps.ite ?_ ?_
              · refine Keeps.via (State.setCore_keeps _ _ _) (by decide) ?_
                exact Keeps.mono (State.ccCount_keeps _ _ _) (by decide)
              · exact Keeps.mono (State.ccCount_keeps _ _ _) (by decide)
            · refine Keeps.ite ?_ ?_
              · refine Keeps.via (State.ccEnd_keeps _ _) (by decide) ?_
                refine Keeps.ite ?_ ?_
                · refine Keeps.via (State.setCore_keeps _ _ _) (by decide) ?_
                  exact Keeps.mono (State.ccCount_keeps _ _ _) (by decide)
                · exact Keeps.mono (State.ccCount_keeps _ _ _) (by decide)
              · refine Keeps.via (State.ccFault_keeps _ _) (by decide) ?_
                refine Keeps.ite ?_ ?_
                · refine Keeps.via (State.setCore_keeps _ _ _) (by decide) ?_
                  exact Keeps.mono (State.ccCount_keeps _ _ _) (by decide)
                · exact Keeps.mono (State.ccCount_keeps _ _ _) (by decide)

end Sys2Proof.Machine
end

