-- ==== Sys2Proof/Laws/FrameCoreScalar.lean ====
section
/-! SUPPORT. What each operation of Machine/CoreScalar.lean can touch. -/

namespace Sys2Proof.Machine

open Sys2Proof

theorem execAdd_keeps (core : Nat) (mem : CoreEvent) (s : State) : Keeps [.fns, .reaches, .jobs, .weir, .slots,
    .spr, .tiles, .cores, .spans, .sel, .stores, .hbm, .cfl, .evt, .snp, .pins, .tx] s (stateAfter (execAdd core mem
    s) s) := by
  unfold execAdd
  refine Keeps.engineCmd ?_
  exact Keeps.mono (State.cc_keeps _ _ _ _ _) (by decide)

theorem execSub_keeps (core : Nat) (mem : CoreEvent) (s : State) : Keeps [.fns, .reaches, .jobs, .weir, .slots,
    .spr, .tiles, .cores, .spans, .sel, .stores, .hbm, .cfl, .evt, .snp, .pins, .tx] s (stateAfter (execSub core mem
    s) s) := by
  unfold execSub
  refine Keeps.engineCmd ?_
  exact Keeps.mono (State.cc_keeps _ _ _ _ _) (by decide)

theorem execAnd_keeps (core : Nat) (mem : CoreEvent) (s : State) : Keeps [.fns, .reaches, .jobs, .weir, .slots,
    .spr, .tiles, .cores, .spans, .sel, .stores, .hbm, .cfl, .evt, .snp, .pins, .tx] s (stateAfter (execAnd core mem
    s) s) := by
  unfold execAnd
  refine Keeps.engineCmd ?_
  exact Keeps.mono (State.cc_keeps _ _ _ _ _) (by decide)

theorem execOr_keeps (core : Nat) (mem : CoreEvent) (s : State) : Keeps [.fns, .reaches, .jobs, .weir, .slots, .spr,
    .tiles, .cores, .spans, .sel, .stores, .hbm, .cfl, .evt, .snp, .pins, .tx] s (stateAfter (execOr core mem s) s)
    := by
  unfold execOr
  refine Keeps.engineCmd ?_
  exact Keeps.mono (State.cc_keeps _ _ _ _ _) (by decide)

theorem execXor_keeps (core : Nat) (mem : CoreEvent) (s : State) : Keeps [.fns, .reaches, .jobs, .weir, .slots,
    .spr, .tiles, .cores, .spans, .sel, .stores, .hbm, .cfl, .evt, .snp, .pins, .tx] s (stateAfter (execXor core mem
    s) s) := by
  unfold execXor
  refine Keeps.engineCmd ?_
  exact Keeps.mono (State.cc_keeps _ _ _ _ _) (by decide)

theorem execAndn_keeps (core : Nat) (mem : CoreEvent) (s : State) : Keeps [.fns, .reaches, .jobs, .weir, .slots,
    .spr, .tiles, .cores, .spans, .sel, .stores, .hbm, .cfl, .evt, .snp, .pins, .tx] s (stateAfter (execAndn core
    mem s) s) := by
  unfold execAndn
  refine Keeps.engineCmd ?_
  exact Keeps.mono (State.cc_keeps _ _ _ _ _) (by decide)

theorem execShl_keeps (core : Nat) (mem : CoreEvent) (s : State) : Keeps [.fns, .reaches, .jobs, .weir, .slots,
    .spr, .tiles, .cores, .spans, .sel, .stores, .hbm, .cfl, .evt, .snp, .pins, .tx] s (stateAfter (execShl core mem
    s) s) := by
  unfold execShl
  refine Keeps.engineCmd ?_
  exact Keeps.mono (State.cc_keeps _ _ _ _ _) (by decide)

theorem execShr_keeps (core : Nat) (mem : CoreEvent) (s : State) : Keeps [.fns, .reaches, .jobs, .weir, .slots,
    .spr, .tiles, .cores, .spans, .sel, .stores, .hbm, .cfl, .evt, .snp, .pins, .tx] s (stateAfter (execShr core mem
    s) s) := by
  unfold execShr
  refine Keeps.engineCmd ?_
  exact Keeps.mono (State.cc_keeps _ _ _ _ _) (by decide)

theorem execSar_keeps (core : Nat) (mem : CoreEvent) (s : State) : Keeps [.fns, .reaches, .jobs, .weir, .slots,
    .spr, .tiles, .cores, .spans, .sel, .stores, .hbm, .cfl, .evt, .snp, .pins, .tx] s (stateAfter (execSar core mem
    s) s) := by
  unfold execSar
  refine Keeps.engineCmd ?_
  exact Keeps.mono (State.cc_keeps _ _ _ _ _) (by decide)

theorem execRor_keeps (core : Nat) (mem : CoreEvent) (s : State) : Keeps [.fns, .reaches, .jobs, .weir, .slots,
    .spr, .tiles, .cores, .spans, .sel, .stores, .hbm, .cfl, .evt, .snp, .pins, .tx] s (stateAfter (execRor core mem
    s) s) := by
  unfold execRor
  refine Keeps.engineCmd ?_
  exact Keeps.mono (State.cc_keeps _ _ _ _ _) (by decide)

theorem execCmps_keeps (core : Nat) (mem : CoreEvent) (s : State) : Keeps [.fns, .reaches, .jobs, .weir, .slots,
    .spr, .tiles, .cores, .spans, .sel, .stores, .hbm, .cfl, .evt, .snp, .pins, .tx] s (stateAfter (execCmps core
    mem s) s) := by
  unfold execCmps
  refine Keeps.engineCmd ?_
  exact Keeps.mono (State.cc_keeps _ _ _ _ _) (by decide)

theorem execCmpu_keeps (core : Nat) (mem : CoreEvent) (s : State) : Keeps [.fns, .reaches, .jobs, .weir, .slots,
    .spr, .tiles, .cores, .spans, .sel, .stores, .hbm, .cfl, .evt, .snp, .pins, .tx] s (stateAfter (execCmpu core
    mem s) s) := by
  unfold execCmpu
  refine Keeps.engineCmd ?_
  exact Keeps.mono (State.cc_keeps _ _ _ _ _) (by decide)

theorem execMul_keeps (core : Nat) (mem : CoreEvent) (s : State) : Keeps [.fns, .reaches, .jobs, .weir, .slots,
    .spr, .tiles, .cores, .spans, .sel, .stores, .hbm, .cfl, .evt, .snp, .pins, .tx] s (stateAfter (execMul core mem
    s) s) := by
  unfold execMul
  refine Keeps.engineCmd ?_
  exact Keeps.mono (State.cc_keeps _ _ _ _ _) (by decide)

theorem execMulhiS_keeps (core : Nat) (mem : CoreEvent) (s : State) : Keeps [.fns, .reaches, .jobs, .weir, .slots,
    .spr, .tiles, .cores, .spans, .sel, .stores, .hbm, .cfl, .evt, .snp, .pins, .tx] s (stateAfter (execMulhiS core
    mem s) s) := by
  unfold execMulhiS
  refine Keeps.engineCmd ?_
  exact Keeps.mono (State.cc_keeps _ _ _ _ _) (by decide)

theorem execMulhiU_keeps (core : Nat) (mem : CoreEvent) (s : State) : Keeps [.fns, .reaches, .jobs, .weir, .slots,
    .spr, .tiles, .cores, .spans, .sel, .stores, .hbm, .cfl, .evt, .snp, .pins, .tx] s (stateAfter (execMulhiU core
    mem s) s) := by
  unfold execMulhiU
  refine Keeps.engineCmd ?_
  exact Keeps.mono (State.cc_keeps _ _ _ _ _) (by decide)

theorem execDivs_keeps (core : Nat) (mem : CoreEvent) (s : State) : Keeps [.fns, .reaches, .jobs, .weir, .slots,
    .spr, .tiles, .cores, .spans, .sel, .stores, .hbm, .cfl, .evt, .snp, .pins, .tx] s (stateAfter (execDivs core
    mem s) s) := by
  unfold execDivs
  refine Keeps.engineCmd ?_
  exact Keeps.mono (State.cc_keeps _ _ _ _ _) (by decide)

theorem execDivu_keeps (core : Nat) (mem : CoreEvent) (s : State) : Keeps [.fns, .reaches, .jobs, .weir, .slots,
    .spr, .tiles, .cores, .spans, .sel, .stores, .hbm, .cfl, .evt, .snp, .pins, .tx] s (stateAfter (execDivu core
    mem s) s) := by
  unfold execDivu
  refine Keeps.engineCmd ?_
  exact Keeps.mono (State.cc_keeps _ _ _ _ _) (by decide)

theorem execMods_keeps (core : Nat) (mem : CoreEvent) (s : State) : Keeps [.fns, .reaches, .jobs, .weir, .slots,
    .spr, .tiles, .cores, .spans, .sel, .stores, .hbm, .cfl, .evt, .snp, .pins, .tx] s (stateAfter (execMods core
    mem s) s) := by
  unfold execMods
  refine Keeps.engineCmd ?_
  exact Keeps.mono (State.cc_keeps _ _ _ _ _) (by decide)

theorem execModu_keeps (core : Nat) (mem : CoreEvent) (s : State) : Keeps [.fns, .reaches, .jobs, .weir, .slots,
    .spr, .tiles, .cores, .spans, .sel, .stores, .hbm, .cfl, .evt, .snp, .pins, .tx] s (stateAfter (execModu core
    mem s) s) := by
  unfold execModu
  refine Keeps.engineCmd ?_
  exact Keeps.mono (State.cc_keeps _ _ _ _ _) (by decide)

theorem execMins_keeps (core : Nat) (mem : CoreEvent) (s : State) : Keeps [.fns, .reaches, .jobs, .weir, .slots,
    .spr, .tiles, .cores, .spans, .sel, .stores, .hbm, .cfl, .evt, .snp, .pins, .tx] s (stateAfter (execMins core
    mem s) s) := by
  unfold execMins
  refine Keeps.engineCmd ?_
  exact Keeps.mono (State.cc_keeps _ _ _ _ _) (by decide)

theorem execMaxs_keeps (core : Nat) (mem : CoreEvent) (s : State) : Keeps [.fns, .reaches, .jobs, .weir, .slots,
    .spr, .tiles, .cores, .spans, .sel, .stores, .hbm, .cfl, .evt, .snp, .pins, .tx] s (stateAfter (execMaxs core
    mem s) s) := by
  unfold execMaxs
  refine Keeps.engineCmd ?_
  exact Keeps.mono (State.cc_keeps _ _ _ _ _) (by decide)

theorem execMinu_keeps (core : Nat) (mem : CoreEvent) (s : State) : Keeps [.fns, .reaches, .jobs, .weir, .slots,
    .spr, .tiles, .cores, .spans, .sel, .stores, .hbm, .cfl, .evt, .snp, .pins, .tx] s (stateAfter (execMinu core
    mem s) s) := by
  unfold execMinu
  refine Keeps.engineCmd ?_
  exact Keeps.mono (State.cc_keeps _ _ _ _ _) (by decide)

theorem execMaxu_keeps (core : Nat) (mem : CoreEvent) (s : State) : Keeps [.fns, .reaches, .jobs, .weir, .slots,
    .spr, .tiles, .cores, .spans, .sel, .stores, .hbm, .cfl, .evt, .snp, .pins, .tx] s (stateAfter (execMaxu core
    mem s) s) := by
  unfold execMaxu
  refine Keeps.engineCmd ?_
  exact Keeps.mono (State.cc_keeps _ _ _ _ _) (by decide)

theorem execAddk_keeps (core : Nat) (mem : CoreEvent) (s : State) : Keeps [.fns, .reaches, .jobs, .weir, .slots,
    .spr, .tiles, .cores, .spans, .sel, .stores, .hbm, .cfl, .evt, .snp, .pins, .tx] s (stateAfter (execAddk core
    mem s) s) := by
  unfold execAddk
  refine Keeps.engineCmd ?_
  exact Keeps.mono (State.cc_keeps _ _ _ _ _) (by decide)

theorem execAndk_keeps (core : Nat) (mem : CoreEvent) (s : State) : Keeps [.fns, .reaches, .jobs, .weir, .slots,
    .spr, .tiles, .cores, .spans, .sel, .stores, .hbm, .cfl, .evt, .snp, .pins, .tx] s (stateAfter (execAndk core
    mem s) s) := by
  unfold execAndk
  refine Keeps.engineCmd ?_
  exact Keeps.mono (State.cc_keeps _ _ _ _ _) (by decide)

theorem execOrk_keeps (core : Nat) (mem : CoreEvent) (s : State) : Keeps [.fns, .reaches, .jobs, .weir, .slots,
    .spr, .tiles, .cores, .spans, .sel, .stores, .hbm, .cfl, .evt, .snp, .pins, .tx] s (stateAfter (execOrk core mem
    s) s) := by
  unfold execOrk
  refine Keeps.engineCmd ?_
  exact Keeps.mono (State.cc_keeps _ _ _ _ _) (by decide)

theorem execXork_keeps (core : Nat) (mem : CoreEvent) (s : State) : Keeps [.fns, .reaches, .jobs, .weir, .slots,
    .spr, .tiles, .cores, .spans, .sel, .stores, .hbm, .cfl, .evt, .snp, .pins, .tx] s (stateAfter (execXork core
    mem s) s) := by
  unfold execXork
  refine Keeps.engineCmd ?_
  exact Keeps.mono (State.cc_keeps _ _ _ _ _) (by decide)

theorem execShlk_keeps (core : Nat) (mem : CoreEvent) (s : State) : Keeps [.fns, .reaches, .jobs, .weir, .slots,
    .spr, .tiles, .cores, .spans, .sel, .stores, .hbm, .cfl, .evt, .snp, .pins, .tx] s (stateAfter (execShlk core
    mem s) s) := by
  unfold execShlk
  refine Keeps.engineCmd ?_
  exact Keeps.mono (State.cc_keeps _ _ _ _ _) (by decide)

theorem execShrk_keeps (core : Nat) (mem : CoreEvent) (s : State) : Keeps [.fns, .reaches, .jobs, .weir, .slots,
    .spr, .tiles, .cores, .spans, .sel, .stores, .hbm, .cfl, .evt, .snp, .pins, .tx] s (stateAfter (execShrk core
    mem s) s) := by
  unfold execShrk
  refine Keeps.engineCmd ?_
  exact Keeps.mono (State.cc_keeps _ _ _ _ _) (by decide)

theorem execSark_keeps (core : Nat) (mem : CoreEvent) (s : State) : Keeps [.fns, .reaches, .jobs, .weir, .slots,
    .spr, .tiles, .cores, .spans, .sel, .stores, .hbm, .cfl, .evt, .snp, .pins, .tx] s (stateAfter (execSark core
    mem s) s) := by
  unfold execSark
  refine Keeps.engineCmd ?_
  exact Keeps.mono (State.cc_keeps _ _ _ _ _) (by decide)

theorem execRork_keeps (core : Nat) (mem : CoreEvent) (s : State) : Keeps [.fns, .reaches, .jobs, .weir, .slots,
    .spr, .tiles, .cores, .spans, .sel, .stores, .hbm, .cfl, .evt, .snp, .pins, .tx] s (stateAfter (execRork core
    mem s) s) := by
  unfold execRork
  refine Keeps.engineCmd ?_
  exact Keeps.mono (State.cc_keeps _ _ _ _ _) (by decide)

theorem execKset_keeps (core : Nat) (mem : CoreEvent) (s : State) : Keeps [.fns, .reaches, .jobs, .weir, .slots,
    .spr, .tiles, .cores, .spans, .sel, .stores, .hbm, .cfl, .evt, .snp, .pins, .tx] s (stateAfter (execKset core
    mem s) s) := by
  unfold execKset
  refine Keeps.engineCmd ?_
  exact Keeps.mono (State.cc_keeps _ _ _ _ _) (by decide)

theorem execKsh_keeps (core : Nat) (mem : CoreEvent) (s : State) : Keeps [.fns, .reaches, .jobs, .weir, .slots,
    .spr, .tiles, .cores, .spans, .sel, .stores, .hbm, .cfl, .evt, .snp, .pins, .tx] s (stateAfter (execKsh core mem
    s) s) := by
  unfold execKsh
  refine Keeps.engineCmd ?_
  exact Keeps.mono (State.cc_keeps _ _ _ _ _) (by decide)

theorem execLdu1_keeps (core : Nat) (mem : CoreEvent) (s : State) : Keeps [.fns, .reaches, .jobs, .weir, .slots,
    .spr, .tiles, .cores, .spans, .sel, .stores, .hbm, .cfl, .evt, .snp, .pins, .tx] s (stateAfter (execLdu1 core
    mem s) s) := by
  unfold execLdu1
  refine Keeps.engineCmd ?_
  exact Keeps.mono (State.cc_keeps _ _ _ _ _) (by decide)

theorem execLdu2_keeps (core : Nat) (mem : CoreEvent) (s : State) : Keeps [.fns, .reaches, .jobs, .weir, .slots,
    .spr, .tiles, .cores, .spans, .sel, .stores, .hbm, .cfl, .evt, .snp, .pins, .tx] s (stateAfter (execLdu2 core
    mem s) s) := by
  unfold execLdu2
  refine Keeps.engineCmd ?_
  exact Keeps.mono (State.cc_keeps _ _ _ _ _) (by decide)

theorem execLdu4_keeps (core : Nat) (mem : CoreEvent) (s : State) : Keeps [.fns, .reaches, .jobs, .weir, .slots,
    .spr, .tiles, .cores, .spans, .sel, .stores, .hbm, .cfl, .evt, .snp, .pins, .tx] s (stateAfter (execLdu4 core
    mem s) s) := by
  unfold execLdu4
  refine Keeps.engineCmd ?_
  exact Keeps.mono (State.cc_keeps _ _ _ _ _) (by decide)

theorem execLd8_keeps (core : Nat) (mem : CoreEvent) (s : State) : Keeps [.fns, .reaches, .jobs, .weir, .slots,
    .spr, .tiles, .cores, .spans, .sel, .stores, .hbm, .cfl, .evt, .snp, .pins, .tx] s (stateAfter (execLd8 core mem
    s) s) := by
  unfold execLd8
  refine Keeps.engineCmd ?_
  exact Keeps.mono (State.cc_keeps _ _ _ _ _) (by decide)

theorem execLds1_keeps (core : Nat) (mem : CoreEvent) (s : State) : Keeps [.fns, .reaches, .jobs, .weir, .slots,
    .spr, .tiles, .cores, .spans, .sel, .stores, .hbm, .cfl, .evt, .snp, .pins, .tx] s (stateAfter (execLds1 core
    mem s) s) := by
  unfold execLds1
  refine Keeps.engineCmd ?_
  exact Keeps.mono (State.cc_keeps _ _ _ _ _) (by decide)

theorem execLds2_keeps (core : Nat) (mem : CoreEvent) (s : State) : Keeps [.fns, .reaches, .jobs, .weir, .slots,
    .spr, .tiles, .cores, .spans, .sel, .stores, .hbm, .cfl, .evt, .snp, .pins, .tx] s (stateAfter (execLds2 core
    mem s) s) := by
  unfold execLds2
  refine Keeps.engineCmd ?_
  exact Keeps.mono (State.cc_keeps _ _ _ _ _) (by decide)

theorem execLds4_keeps (core : Nat) (mem : CoreEvent) (s : State) : Keeps [.fns, .reaches, .jobs, .weir, .slots,
    .spr, .tiles, .cores, .spans, .sel, .stores, .hbm, .cfl, .evt, .snp, .pins, .tx] s (stateAfter (execLds4 core
    mem s) s) := by
  unfold execLds4
  refine Keeps.engineCmd ?_
  exact Keeps.mono (State.cc_keeps _ _ _ _ _) (by decide)

theorem execSt1_keeps (core : Nat) (mem : CoreEvent) (s : State) : Keeps [.fns, .reaches, .jobs, .weir, .slots,
    .spr, .tiles, .cores, .spans, .sel, .stores, .hbm, .cfl, .evt, .snp, .pins, .tx] s (stateAfter (execSt1 core mem
    s) s) := by
  unfold execSt1
  refine Keeps.engineCmd ?_
  exact Keeps.mono (State.cc_keeps _ _ _ _ _) (by decide)

theorem execSt2_keeps (core : Nat) (mem : CoreEvent) (s : State) : Keeps [.fns, .reaches, .jobs, .weir, .slots,
    .spr, .tiles, .cores, .spans, .sel, .stores, .hbm, .cfl, .evt, .snp, .pins, .tx] s (stateAfter (execSt2 core mem
    s) s) := by
  unfold execSt2
  refine Keeps.engineCmd ?_
  exact Keeps.mono (State.cc_keeps _ _ _ _ _) (by decide)

theorem execSt4_keeps (core : Nat) (mem : CoreEvent) (s : State) : Keeps [.fns, .reaches, .jobs, .weir, .slots,
    .spr, .tiles, .cores, .spans, .sel, .stores, .hbm, .cfl, .evt, .snp, .pins, .tx] s (stateAfter (execSt4 core mem
    s) s) := by
  unfold execSt4
  refine Keeps.engineCmd ?_
  exact Keeps.mono (State.cc_keeps _ _ _ _ _) (by decide)

theorem execSt8_keeps (core : Nat) (mem : CoreEvent) (s : State) : Keeps [.fns, .reaches, .jobs, .weir, .slots,
    .spr, .tiles, .cores, .spans, .sel, .stores, .hbm, .cfl, .evt, .snp, .pins, .tx] s (stateAfter (execSt8 core mem
    s) s) := by
  unfold execSt8
  refine Keeps.engineCmd ?_
  exact Keeps.mono (State.cc_keeps _ _ _ _ _) (by decide)

theorem execBz_keeps (core : Nat) (mem : CoreEvent) (s : State) : Keeps [.fns, .reaches, .jobs, .weir, .slots, .spr,
    .tiles, .cores, .spans, .sel, .stores, .hbm, .cfl, .evt, .snp, .pins, .tx] s (stateAfter (execBz core mem s) s)
    := by
  unfold execBz
  refine Keeps.engineCmd ?_
  exact Keeps.mono (State.cc_keeps _ _ _ _ _) (by decide)

theorem execBnz_keeps (core : Nat) (mem : CoreEvent) (s : State) : Keeps [.fns, .reaches, .jobs, .weir, .slots,
    .spr, .tiles, .cores, .spans, .sel, .stores, .hbm, .cfl, .evt, .snp, .pins, .tx] s (stateAfter (execBnz core mem
    s) s) := by
  unfold execBnz
  refine Keeps.engineCmd ?_
  exact Keeps.mono (State.cc_keeps _ _ _ _ _) (by decide)

theorem execBneg_keeps (core : Nat) (mem : CoreEvent) (s : State) : Keeps [.fns, .reaches, .jobs, .weir, .slots,
    .spr, .tiles, .cores, .spans, .sel, .stores, .hbm, .cfl, .evt, .snp, .pins, .tx] s (stateAfter (execBneg core
    mem s) s) := by
  unfold execBneg
  refine Keeps.engineCmd ?_
  exact Keeps.mono (State.cc_keeps _ _ _ _ _) (by decide)

theorem execBnneg_keeps (core : Nat) (mem : CoreEvent) (s : State) : Keeps [.fns, .reaches, .jobs, .weir, .slots,
    .spr, .tiles, .cores, .spans, .sel, .stores, .hbm, .cfl, .evt, .snp, .pins, .tx] s (stateAfter (execBnneg core
    mem s) s) := by
  unfold execBnneg
  refine Keeps.engineCmd ?_
  exact Keeps.mono (State.cc_keeps _ _ _ _ _) (by decide)

theorem execJmp_keeps (core : Nat) (mem : CoreEvent) (s : State) : Keeps [.fns, .reaches, .jobs, .weir, .slots,
    .spr, .tiles, .cores, .spans, .sel, .stores, .hbm, .cfl, .evt, .snp, .pins, .tx] s (stateAfter (execJmp core mem
    s) s) := by
  unfold execJmp
  refine Keeps.engineCmd ?_
  exact Keeps.mono (State.cc_keeps _ _ _ _ _) (by decide)

theorem execCcCall_keeps (core : Nat) (mem : CoreEvent) (s : State) : Keeps [.fns, .reaches, .jobs, .weir, .slots,
    .spr, .tiles, .cores, .spans, .sel, .stores, .hbm, .cfl, .evt, .snp, .pins, .tx] s (stateAfter (execCcCall core
    mem s) s) := by
  unfold execCcCall
  refine Keeps.engineCmd ?_
  exact Keeps.mono (State.cc_keeps _ _ _ _ _) (by decide)

theorem execJmpr_keeps (core : Nat) (mem : CoreEvent) (s : State) : Keeps [.fns, .reaches, .jobs, .weir, .slots,
    .spr, .tiles, .cores, .spans, .sel, .stores, .hbm, .cfl, .evt, .snp, .pins, .tx] s (stateAfter (execJmpr core
    mem s) s) := by
  unfold execJmpr
  refine Keeps.engineCmd ?_
  exact Keeps.mono (State.cc_keeps _ _ _ _ _) (by decide)

theorem execFadd_keeps (core : Nat) (mem : CoreEvent) (s : State) : Keeps [.fns, .reaches, .jobs, .weir, .slots,
    .spr, .tiles, .cores, .spans, .sel, .stores, .hbm, .cfl, .evt, .snp, .pins, .tx] s (stateAfter (execFadd core
    mem s) s) := by
  unfold execFadd
  refine Keeps.engineCmd ?_
  exact Keeps.mono (State.cc_keeps _ _ _ _ _) (by decide)

theorem execFsub_keeps (core : Nat) (mem : CoreEvent) (s : State) : Keeps [.fns, .reaches, .jobs, .weir, .slots,
    .spr, .tiles, .cores, .spans, .sel, .stores, .hbm, .cfl, .evt, .snp, .pins, .tx] s (stateAfter (execFsub core
    mem s) s) := by
  unfold execFsub
  refine Keeps.engineCmd ?_
  exact Keeps.mono (State.cc_keeps _ _ _ _ _) (by decide)

theorem execFmul_keeps (core : Nat) (mem : CoreEvent) (s : State) : Keeps [.fns, .reaches, .jobs, .weir, .slots,
    .spr, .tiles, .cores, .spans, .sel, .stores, .hbm, .cfl, .evt, .snp, .pins, .tx] s (stateAfter (execFmul core
    mem s) s) := by
  unfold execFmul
  refine Keeps.engineCmd ?_
  exact Keeps.mono (State.cc_keeps _ _ _ _ _) (by decide)

theorem execFdiv_keeps (core : Nat) (mem : CoreEvent) (s : State) : Keeps [.fns, .reaches, .jobs, .weir, .slots,
    .spr, .tiles, .cores, .spans, .sel, .stores, .hbm, .cfl, .evt, .snp, .pins, .tx] s (stateAfter (execFdiv core
    mem s) s) := by
  unfold execFdiv
  refine Keeps.engineCmd ?_
  exact Keeps.mono (State.cc_keeps _ _ _ _ _) (by decide)

theorem execFsqrt_keeps (core : Nat) (mem : CoreEvent) (s : State) : Keeps [.fns, .reaches, .jobs, .weir, .slots,
    .spr, .tiles, .cores, .spans, .sel, .stores, .hbm, .cfl, .evt, .snp, .pins, .tx] s (stateAfter (execFsqrt core
    mem s) s) := by
  unfold execFsqrt
  refine Keeps.engineCmd ?_
  exact Keeps.mono (State.cc_keeps _ _ _ _ _) (by decide)

theorem execFmin_keeps (core : Nat) (mem : CoreEvent) (s : State) : Keeps [.fns, .reaches, .jobs, .weir, .slots,
    .spr, .tiles, .cores, .spans, .sel, .stores, .hbm, .cfl, .evt, .snp, .pins, .tx] s (stateAfter (execFmin core
    mem s) s) := by
  unfold execFmin
  refine Keeps.engineCmd ?_
  exact Keeps.mono (State.cc_keeps _ _ _ _ _) (by decide)

theorem execFmax_keeps (core : Nat) (mem : CoreEvent) (s : State) : Keeps [.fns, .reaches, .jobs, .weir, .slots,
    .spr, .tiles, .cores, .spans, .sel, .stores, .hbm, .cfl, .evt, .snp, .pins, .tx] s (stateAfter (execFmax core
    mem s) s) := by
  unfold execFmax
  refine Keeps.engineCmd ?_
  exact Keeps.mono (State.cc_keeps _ _ _ _ _) (by decide)

theorem execFcmp_keeps (core : Nat) (mem : CoreEvent) (s : State) : Keeps [.fns, .reaches, .jobs, .weir, .slots,
    .spr, .tiles, .cores, .spans, .sel, .stores, .hbm, .cfl, .evt, .snp, .pins, .tx] s (stateAfter (execFcmp core
    mem s) s) := by
  unfold execFcmp
  refine Keeps.engineCmd ?_
  exact Keeps.mono (State.cc_keeps _ _ _ _ _) (by decide)

theorem execF2i_keeps (core : Nat) (mem : CoreEvent) (s : State) : Keeps [.fns, .reaches, .jobs, .weir, .slots,
    .spr, .tiles, .cores, .spans, .sel, .stores, .hbm, .cfl, .evt, .snp, .pins, .tx] s (stateAfter (execF2i core mem
    s) s) := by
  unfold execF2i
  refine Keeps.engineCmd ?_
  exact Keeps.mono (State.cc_keeps _ _ _ _ _) (by decide)

theorem execI2f_keeps (core : Nat) (mem : CoreEvent) (s : State) : Keeps [.fns, .reaches, .jobs, .weir, .slots,
    .spr, .tiles, .cores, .spans, .sel, .stores, .hbm, .cfl, .evt, .snp, .pins, .tx] s (stateAfter (execI2f core mem
    s) s) := by
  unfold execI2f
  refine Keeps.engineCmd ?_
  exact Keeps.mono (State.cc_keeps _ _ _ _ _) (by decide)

theorem execFbits_keeps (core : Nat) (mem : CoreEvent) (s : State) : Keeps [.fns, .reaches, .jobs, .weir, .slots,
    .spr, .tiles, .cores, .spans, .sel, .stores, .hbm, .cfl, .evt, .snp, .pins, .tx] s (stateAfter (execFbits core
    mem s) s) := by
  unfold execFbits
  refine Keeps.engineCmd ?_
  exact Keeps.mono (State.cc_keeps _ _ _ _ _) (by decide)

theorem execIbits_keeps (core : Nat) (mem : CoreEvent) (s : State) : Keeps [.fns, .reaches, .jobs, .weir, .slots,
    .spr, .tiles, .cores, .spans, .sel, .stores, .hbm, .cfl, .evt, .snp, .pins, .tx] s (stateAfter (execIbits core
    mem s) s) := by
  unfold execIbits
  refine Keeps.engineCmd ?_
  exact Keeps.mono (State.cc_keeps _ _ _ _ _) (by decide)

theorem execFld8_keeps (core : Nat) (mem : CoreEvent) (s : State) : Keeps [.fns, .reaches, .jobs, .weir, .slots,
    .spr, .tiles, .cores, .spans, .sel, .stores, .hbm, .cfl, .evt, .snp, .pins, .tx] s (stateAfter (execFld8 core
    mem s) s) := by
  unfold execFld8
  refine Keeps.engineCmd ?_
  exact Keeps.mono (State.cc_keeps _ _ _ _ _) (by decide)

theorem execFst8_keeps (core : Nat) (mem : CoreEvent) (s : State) : Keeps [.fns, .reaches, .jobs, .weir, .slots,
    .spr, .tiles, .cores, .spans, .sel, .stores, .hbm, .cfl, .evt, .snp, .pins, .tx] s (stateAfter (execFst8 core
    mem s) s) := by
  unfold execFst8
  refine Keeps.engineCmd ?_
  exact Keeps.mono (State.cc_keeps _ _ _ _ _) (by decide)

theorem execCcCommit_keeps (core : Nat) (mem : CoreEvent) (s : State) : Keeps [.fns, .reaches, .jobs, .weir, .slots,
    .spr, .tiles, .cores, .spans, .sel, .stores, .hbm, .cfl, .evt, .snp, .pins, .tx] s (stateAfter (execCcCommit
    core mem s) s) := by
  unfold execCcCommit
  refine Keeps.engineCmd ?_
  exact Keeps.mono (State.cc_keeps _ _ _ _ _) (by decide)

theorem execCcEnd_keeps (core : Nat) (mem : CoreEvent) (s : State) : Keeps [.fns, .reaches, .jobs, .weir, .slots,
    .spr, .tiles, .cores, .spans, .sel, .stores, .hbm, .cfl, .evt, .snp, .pins, .tx] s (stateAfter (execCcEnd core
    mem s) s) := by
  unfold execCcEnd
  refine Keeps.engineCmd ?_
  exact Keeps.mono (State.cc_keeps _ _ _ _ _) (by decide)

theorem execCcTime_keeps (core : Nat) (mem : CoreEvent) (s : State) : Keeps [.fns, .reaches, .jobs, .weir, .slots,
    .spr, .tiles, .cores, .spans, .sel, .stores, .hbm, .cfl, .evt, .snp, .pins, .tx] s (stateAfter (execCcTime core
    mem s) s) := by
  unfold execCcTime
  refine Keeps.engineCmd ?_
  exact Keeps.mono (State.cc_keeps _ _ _ _ _) (by decide)

theorem execCycle_keeps (core : Nat) (mem : CoreEvent) (s : State) : Keeps [.fns, .reaches, .jobs, .weir, .slots,
    .spr, .tiles, .cores, .spans, .sel, .stores, .hbm, .cfl, .evt, .snp, .pins, .tx] s (stateAfter (execCycle core
    mem s) s) := by
  unfold execCycle
  refine Keeps.engineCmd ?_
  exact Keeps.mono (State.cc_keeps _ _ _ _ _) (by decide)

theorem State.recoveryDone_keeps (s : State) (i : Nat) (passed : Bool) : Keeps [.fns, .tiles, .cores, .cfl, .evt,
    .snp, .pins, .tx] s (State.recoveryDone s i passed) := by
  unfold State.recoveryDone
  dsimp -proj only
  refine Keeps.ite ?_ ?_
  · exact Keeps.refl _ _
  · refine Keeps.ite ?_ ?_
    · refine Keeps.via (State.setTile_keeps _ _ _) (by decide) ?_
      exact Keeps.mono (State.setCore_keeps _ _ _) (by decide)
    · refine Keeps.ite ?_ ?_
      · refine Keeps.via (State.raiseBasin_keeps _ _ _ _) (by decide) ?_
        refine Keeps.via (State.setTile_keeps _ _ _) (by decide) ?_
        exact Keeps.mono (State.setCore_keeps _ _ _) (by decide)
      · exact Keeps.mono (State.setCore_keeps _ _ _) (by decide)

theorem execCcRecoveryDone_keeps (core : Nat) (passed : Bool) (s : State) : Keeps [.fns, .tiles, .cores, .cfl, .evt,
    .snp, .pins, .tx] s (stateAfter (execCcRecoveryDone core passed s) s) := by
  unfold execCcRecoveryDone
  refine Keeps.engineCmd ?_
  exact Keeps.mono (State.recoveryDone_keeps _ _ _) (by decide)

end Sys2Proof.Machine
end

