-- ==== Sys2Proof/Laws/FrameCoreVector.lean ====
section
/-! SUPPORT. What each operation of Machine/CoreVector.lean can touch. -/

namespace Sys2Proof.Machine

open Sys2Proof

theorem execVtake_keeps (core : Nat) (mem : CoreEvent) (s : State) : Keeps [.fns, .reaches, .jobs, .weir, .slots,
    .spr, .tiles, .cores, .spans, .sel, .stores, .hbm, .cfl, .evt, .snp, .pins, .tx] s (stateAfter (execVtake core
    mem s) s) := by
  unfold execVtake
  refine Keeps.engineCmd ?_
  exact Keeps.mono (State.cc_keeps _ _ _ _ _) (by decide)

theorem execVact_keeps (core : Nat) (mem : CoreEvent) (s : State) : Keeps [.fns, .reaches, .jobs, .weir, .slots,
    .spr, .tiles, .cores, .spans, .sel, .stores, .hbm, .cfl, .evt, .snp, .pins, .tx] s (stateAfter (execVact core
    mem s) s) := by
  unfold execVact
  refine Keeps.engineCmd ?_
  exact Keeps.mono (State.cc_keeps _ _ _ _ _) (by decide)

theorem execVadd_keeps (core : Nat) (mem : CoreEvent) (s : State) : Keeps [.fns, .reaches, .jobs, .weir, .slots,
    .spr, .tiles, .cores, .spans, .sel, .stores, .hbm, .cfl, .evt, .snp, .pins, .tx] s (stateAfter (execVadd core
    mem s) s) := by
  unfold execVadd
  refine Keeps.engineCmd ?_
  exact Keeps.mono (State.cc_keeps _ _ _ _ _) (by decide)

theorem execVsub_keeps (core : Nat) (mem : CoreEvent) (s : State) : Keeps [.fns, .reaches, .jobs, .weir, .slots,
    .spr, .tiles, .cores, .spans, .sel, .stores, .hbm, .cfl, .evt, .snp, .pins, .tx] s (stateAfter (execVsub core
    mem s) s) := by
  unfold execVsub
  refine Keeps.engineCmd ?_
  exact Keeps.mono (State.cc_keeps _ _ _ _ _) (by decide)

theorem execVand_keeps (core : Nat) (mem : CoreEvent) (s : State) : Keeps [.fns, .reaches, .jobs, .weir, .slots,
    .spr, .tiles, .cores, .spans, .sel, .stores, .hbm, .cfl, .evt, .snp, .pins, .tx] s (stateAfter (execVand core
    mem s) s) := by
  unfold execVand
  refine Keeps.engineCmd ?_
  exact Keeps.mono (State.cc_keeps _ _ _ _ _) (by decide)

theorem execVor_keeps (core : Nat) (mem : CoreEvent) (s : State) : Keeps [.fns, .reaches, .jobs, .weir, .slots,
    .spr, .tiles, .cores, .spans, .sel, .stores, .hbm, .cfl, .evt, .snp, .pins, .tx] s (stateAfter (execVor core mem
    s) s) := by
  unfold execVor
  refine Keeps.engineCmd ?_
  exact Keeps.mono (State.cc_keeps _ _ _ _ _) (by decide)

theorem execVxor_keeps (core : Nat) (mem : CoreEvent) (s : State) : Keeps [.fns, .reaches, .jobs, .weir, .slots,
    .spr, .tiles, .cores, .spans, .sel, .stores, .hbm, .cfl, .evt, .snp, .pins, .tx] s (stateAfter (execVxor core
    mem s) s) := by
  unfold execVxor
  refine Keeps.engineCmd ?_
  exact Keeps.mono (State.cc_keeps _ _ _ _ _) (by decide)

theorem execVshl_keeps (core : Nat) (mem : CoreEvent) (s : State) : Keeps [.fns, .reaches, .jobs, .weir, .slots,
    .spr, .tiles, .cores, .spans, .sel, .stores, .hbm, .cfl, .evt, .snp, .pins, .tx] s (stateAfter (execVshl core
    mem s) s) := by
  unfold execVshl
  refine Keeps.engineCmd ?_
  exact Keeps.mono (State.cc_keeps _ _ _ _ _) (by decide)

theorem execVshr_keeps (core : Nat) (mem : CoreEvent) (s : State) : Keeps [.fns, .reaches, .jobs, .weir, .slots,
    .spr, .tiles, .cores, .spans, .sel, .stores, .hbm, .cfl, .evt, .snp, .pins, .tx] s (stateAfter (execVshr core
    mem s) s) := by
  unfold execVshr
  refine Keeps.engineCmd ?_
  exact Keeps.mono (State.cc_keeps _ _ _ _ _) (by decide)

theorem execVsar_keeps (core : Nat) (mem : CoreEvent) (s : State) : Keeps [.fns, .reaches, .jobs, .weir, .slots,
    .spr, .tiles, .cores, .spans, .sel, .stores, .hbm, .cfl, .evt, .snp, .pins, .tx] s (stateAfter (execVsar core
    mem s) s) := by
  unfold execVsar
  refine Keeps.engineCmd ?_
  exact Keeps.mono (State.cc_keeps _ _ _ _ _) (by decide)

theorem execVmul_keeps (core : Nat) (mem : CoreEvent) (s : State) : Keeps [.fns, .reaches, .jobs, .weir, .slots,
    .spr, .tiles, .cores, .spans, .sel, .stores, .hbm, .cfl, .evt, .snp, .pins, .tx] s (stateAfter (execVmul core
    mem s) s) := by
  unfold execVmul
  refine Keeps.engineCmd ?_
  exact Keeps.mono (State.cc_keeps _ _ _ _ _) (by decide)

theorem execVmulhiS_keeps (core : Nat) (mem : CoreEvent) (s : State) : Keeps [.fns, .reaches, .jobs, .weir, .slots,
    .spr, .tiles, .cores, .spans, .sel, .stores, .hbm, .cfl, .evt, .snp, .pins, .tx] s (stateAfter (execVmulhiS core
    mem s) s) := by
  unfold execVmulhiS
  refine Keeps.engineCmd ?_
  exact Keeps.mono (State.cc_keeps _ _ _ _ _) (by decide)

theorem execVmulhiU_keeps (core : Nat) (mem : CoreEvent) (s : State) : Keeps [.fns, .reaches, .jobs, .weir, .slots,
    .spr, .tiles, .cores, .spans, .sel, .stores, .hbm, .cfl, .evt, .snp, .pins, .tx] s (stateAfter (execVmulhiU core
    mem s) s) := by
  unfold execVmulhiU
  refine Keeps.engineCmd ?_
  exact Keeps.mono (State.cc_keeps _ _ _ _ _) (by decide)

theorem execVminu_keeps (core : Nat) (mem : CoreEvent) (s : State) : Keeps [.fns, .reaches, .jobs, .weir, .slots,
    .spr, .tiles, .cores, .spans, .sel, .stores, .hbm, .cfl, .evt, .snp, .pins, .tx] s (stateAfter (execVminu core
    mem s) s) := by
  unfold execVminu
  refine Keeps.engineCmd ?_
  exact Keeps.mono (State.cc_keeps _ _ _ _ _) (by decide)

theorem execVmaxu_keeps (core : Nat) (mem : CoreEvent) (s : State) : Keeps [.fns, .reaches, .jobs, .weir, .slots,
    .spr, .tiles, .cores, .spans, .sel, .stores, .hbm, .cfl, .evt, .snp, .pins, .tx] s (stateAfter (execVmaxu core
    mem s) s) := by
  unfold execVmaxu
  refine Keeps.engineCmd ?_
  exact Keeps.mono (State.cc_keeps _ _ _ _ _) (by decide)

theorem execVeq_keeps (core : Nat) (mem : CoreEvent) (s : State) : Keeps [.fns, .reaches, .jobs, .weir, .slots,
    .spr, .tiles, .cores, .spans, .sel, .stores, .hbm, .cfl, .evt, .snp, .pins, .tx] s (stateAfter (execVeq core mem
    s) s) := by
  unfold execVeq
  refine Keeps.engineCmd ?_
  exact Keeps.mono (State.cc_keeps _ _ _ _ _) (by decide)

theorem execVltu_keeps (core : Nat) (mem : CoreEvent) (s : State) : Keeps [.fns, .reaches, .jobs, .weir, .slots,
    .spr, .tiles, .cores, .spans, .sel, .stores, .hbm, .cfl, .evt, .snp, .pins, .tx] s (stateAfter (execVltu core
    mem s) s) := by
  unfold execVltu
  refine Keeps.engineCmd ?_
  exact Keeps.mono (State.cc_keeps _ _ _ _ _) (by decide)

theorem execVblend_keeps (core : Nat) (mem : CoreEvent) (s : State) : Keeps [.fns, .reaches, .jobs, .weir, .slots,
    .spr, .tiles, .cores, .spans, .sel, .stores, .hbm, .cfl, .evt, .snp, .pins, .tx] s (stateAfter (execVblend core
    mem s) s) := by
  unfold execVblend
  refine Keeps.engineCmd ?_
  exact Keeps.mono (State.cc_keeps _ _ _ _ _) (by decide)

theorem execVbyterev_keeps (core : Nat) (mem : CoreEvent) (s : State) : Keeps [.fns, .reaches, .jobs, .weir, .slots,
    .spr, .tiles, .cores, .spans, .sel, .stores, .hbm, .cfl, .evt, .snp, .pins, .tx] s (stateAfter (execVbyterev
    core mem s) s) := by
  unfold execVbyterev
  refine Keeps.engineCmd ?_
  exact Keeps.mono (State.cc_keeps _ _ _ _ _) (by decide)

theorem execVectorScalarOp_keeps (core : Nat) (mem : CoreEvent) (s : State) : Keeps [.fns, .reaches, .jobs, .weir,
    .slots, .spr, .tiles, .cores, .spans, .sel, .stores, .hbm, .cfl, .evt, .snp, .pins, .tx] s (stateAfter
    (execVectorScalarOp core mem s) s) := by
  unfold execVectorScalarOp
  refine Keeps.engineCmd ?_
  exact Keeps.mono (State.cc_keeps _ _ _ _ _) (by decide)

theorem execVmoveup_keeps (core : Nat) (mem : CoreEvent) (s : State) : Keeps [.fns, .reaches, .jobs, .weir, .slots,
    .spr, .tiles, .cores, .spans, .sel, .stores, .hbm, .cfl, .evt, .snp, .pins, .tx] s (stateAfter (execVmoveup core
    mem s) s) := by
  unfold execVmoveup
  refine Keeps.engineCmd ?_
  exact Keeps.mono (State.cc_keeps _ _ _ _ _) (by decide)

theorem execVmovedn_keeps (core : Nat) (mem : CoreEvent) (s : State) : Keeps [.fns, .reaches, .jobs, .weir, .slots,
    .spr, .tiles, .cores, .spans, .sel, .stores, .hbm, .cfl, .evt, .snp, .pins, .tx] s (stateAfter (execVmovedn core
    mem s) s) := by
  unfold execVmovedn
  refine Keeps.engineCmd ?_
  exact Keeps.mono (State.cc_keeps _ _ _ _ _) (by decide)

theorem execVput_keeps (core : Nat) (mem : CoreEvent) (s : State) : Keeps [.fns, .reaches, .jobs, .weir, .slots,
    .spr, .tiles, .cores, .spans, .sel, .stores, .hbm, .cfl, .evt, .snp, .pins, .tx] s (stateAfter (execVput core
    mem s) s) := by
  unfold execVput
  refine Keeps.engineCmd ?_
  exact Keeps.mono (State.cc_keeps _ _ _ _ _) (by decide)

theorem execVget_keeps (core : Nat) (mem : CoreEvent) (s : State) : Keeps [.fns, .reaches, .jobs, .weir, .slots,
    .spr, .tiles, .cores, .spans, .sel, .stores, .hbm, .cfl, .evt, .snp, .pins, .tx] s (stateAfter (execVget core
    mem s) s) := by
  unfold execVget
  refine Keeps.engineCmd ?_
  exact Keeps.mono (State.cc_keeps _ _ _ _ _) (by decide)

theorem execVpick_keeps (core : Nat) (mem : CoreEvent) (s : State) : Keeps [.fns, .reaches, .jobs, .weir, .slots,
    .spr, .tiles, .cores, .spans, .sel, .stores, .hbm, .cfl, .evt, .snp, .pins, .tx] s (stateAfter (execVpick core
    mem s) s) := by
  unfold execVpick
  refine Keeps.engineCmd ?_
  exact Keeps.mono (State.cc_keeps _ _ _ _ _) (by decide)

theorem execVfoldadd_keeps (core : Nat) (mem : CoreEvent) (s : State) : Keeps [.fns, .reaches, .jobs, .weir, .slots,
    .spr, .tiles, .cores, .spans, .sel, .stores, .hbm, .cfl, .evt, .snp, .pins, .tx] s (stateAfter (execVfoldadd
    core mem s) s) := by
  unfold execVfoldadd
  refine Keeps.engineCmd ?_
  exact Keeps.mono (State.cc_keeps _ _ _ _ _) (by decide)

theorem execVfoldxor_keeps (core : Nat) (mem : CoreEvent) (s : State) : Keeps [.fns, .reaches, .jobs, .weir, .slots,
    .spr, .tiles, .cores, .spans, .sel, .stores, .hbm, .cfl, .evt, .snp, .pins, .tx] s (stateAfter (execVfoldxor
    core mem s) s) := by
  unfold execVfoldxor
  refine Keeps.engineCmd ?_
  exact Keeps.mono (State.cc_keeps _ _ _ _ _) (by decide)

theorem execVfoldmaxu_keeps (core : Nat) (mem : CoreEvent) (s : State) : Keeps [.fns, .reaches, .jobs, .weir,
    .slots, .spr, .tiles, .cores, .spans, .sel, .stores, .hbm, .cfl, .evt, .snp, .pins, .tx] s (stateAfter
    (execVfoldmaxu core mem s) s) := by
  unfold execVfoldmaxu
  refine Keeps.engineCmd ?_
  exact Keeps.mono (State.cc_keeps _ _ _ _ _) (by decide)

theorem execVload_keeps (core : Nat) (mem : CoreEvent) (s : State) : Keeps [.fns, .reaches, .jobs, .weir, .slots,
    .spr, .tiles, .cores, .spans, .sel, .stores, .hbm, .cfl, .evt, .snp, .pins, .tx] s (stateAfter (execVload core
    mem s) s) := by
  unfold execVload
  refine Keeps.engineCmd ?_
  exact Keeps.mono (State.cc_keeps _ _ _ _ _) (by decide)

theorem execVloads_keeps (core : Nat) (mem : CoreEvent) (s : State) : Keeps [.fns, .reaches, .jobs, .weir, .slots,
    .spr, .tiles, .cores, .spans, .sel, .stores, .hbm, .cfl, .evt, .snp, .pins, .tx] s (stateAfter (execVloads core
    mem s) s) := by
  unfold execVloads
  refine Keeps.engineCmd ?_
  exact Keeps.mono (State.cc_keeps _ _ _ _ _) (by decide)

theorem execVldrec_keeps (core : Nat) (mem : CoreEvent) (s : State) : Keeps [.fns, .reaches, .jobs, .weir, .slots,
    .spr, .tiles, .cores, .spans, .sel, .stores, .hbm, .cfl, .evt, .snp, .pins, .tx] s (stateAfter (execVldrec core
    mem s) s) := by
  unfold execVldrec
  refine Keeps.engineCmd ?_
  exact Keeps.mono (State.cc_keeps _ _ _ _ _) (by decide)

theorem execVstore_keeps (core : Nat) (mem : CoreEvent) (s : State) : Keeps [.fns, .reaches, .jobs, .weir, .slots,
    .spr, .tiles, .cores, .spans, .sel, .stores, .hbm, .cfl, .evt, .snp, .pins, .tx] s (stateAfter (execVstore core
    mem s) s) := by
  unfold execVstore
  refine Keeps.engineCmd ?_
  exact Keeps.mono (State.cc_keeps _ _ _ _ _) (by decide)

theorem execVstores_keeps (core : Nat) (mem : CoreEvent) (s : State) : Keeps [.fns, .reaches, .jobs, .weir, .slots,
    .spr, .tiles, .cores, .spans, .sel, .stores, .hbm, .cfl, .evt, .snp, .pins, .tx] s (stateAfter (execVstores core
    mem s) s) := by
  unfold execVstores
  refine Keeps.engineCmd ?_
  exact Keeps.mono (State.cc_keeps _ _ _ _ _) (by decide)

theorem execVstrec_keeps (core : Nat) (mem : CoreEvent) (s : State) : Keeps [.fns, .reaches, .jobs, .weir, .slots,
    .spr, .tiles, .cores, .spans, .sel, .stores, .hbm, .cfl, .evt, .snp, .pins, .tx] s (stateAfter (execVstrec core
    mem s) s) := by
  unfold execVstrec
  refine Keeps.engineCmd ?_
  exact Keeps.mono (State.cc_keeps _ _ _ _ _) (by decide)

end Sys2Proof.Machine
end

