-- ==== Sys2Proof/Laws/FrameKeyJobs.lean ====
section
/-! SUPPORT. What each operation of Machine/KeyJobs.lean can touch. -/

namespace Sys2Proof.Machine

open Sys2Proof

theorem execNop_keeps (job : Nat) (s : State) : Keeps [.fns, .reaches, .jobs, .weir, .kst, .slots, .spr, .tiles,
    .cores, .spans, .stores, .hbm, .cfl, .evt, .snp, .pins, .tx] s (stateAfter (execNop job s) s) := by
  unfold execNop
  refine Keeps.engineCmd ?_
  exact Keeps.mono (State.runPlain_keeps _ _ _ _) (by decide)

theorem State.fenceJob_keeps (s : State) (id : Nat) : Keeps [.fns, .reaches, .jobs, .weir, .kst, .slots, .spr,
    .tiles, .cores, .spans, .stores, .hbm, .cfl, .evt, .snp, .pins, .tx] s (State.fenceJob s id) := by
  unfold State.fenceJob
  split
  · exact Keeps.refl _ _
  · refine Keeps.ite ?_ ?_
    · exact Keeps.mono (State.applyOut_keeps _ _ _) (by decide)
    · exact Keeps.refl _ _

theorem execFence_keeps (job : Nat) (s : State) : Keeps [.fns, .reaches, .jobs, .weir, .kst, .slots, .spr, .tiles,
    .cores, .spans, .stores, .hbm, .cfl, .evt, .snp, .pins, .tx] s (stateAfter (execFence job s) s) := by
  unfold execFence
  refine Keeps.engineCmd ?_
  exact Keeps.mono (State.fenceJob_keeps _ _) (by decide)

theorem execRandom_keeps (job : Nat) (s : State) : Keeps [.fns, .reaches, .jobs, .weir, .kst, .slots, .spr, .tiles,
    .cores, .spans, .stores, .hbm, .cfl, .evt, .snp, .pins, .tx] s (stateAfter (execRandom job s) s) := by
  unfold execRandom
  refine Keeps.engineCmd ?_
  exact Keeps.mono (State.runPlain_keeps _ _ _ _) (by decide)

theorem State.reseedJob_keeps (s : State) (id : Nat) : Keeps [.spr] s (State.reseedJob s id) := by
  unfold State.reseedJob
  dsimp -proj only
  split
  · exact Keeps.refl _ _
  · refine Keeps.ite ?_ ?_
    · exact Keeps.mono (Keeps.set_spr _ _) (by decide)
    · exact Keeps.refl _ _

theorem execReseed_keeps (job : Nat) (s : State) : Keeps [.spr] s (stateAfter (execReseed job s) s) := by
  unfold execReseed
  refine Keeps.engineCmd ?_
  exact Keeps.mono (State.reseedJob_keeps _ _) (by decide)

theorem execAttest_keeps (job : Nat) (s : State) : Keeps [.fns, .reaches, .jobs, .weir, .kst, .slots, .spr, .tiles,
    .cores, .spans, .stores, .hbm, .cfl, .evt, .snp, .rst, .pins, .tx] s (stateAfter (execAttest job s) s) := by
  unfold execAttest
  refine Keeps.engineCmd ?_
  exact Keeps.mono (State.runKeyed_keeps _ _ _ _) (by decide)

theorem execGenerate_keeps (job : Nat) (s : State) : Keeps [.fns, .reaches, .jobs, .weir, .kst, .slots, .spr,
    .tiles, .cores, .spans, .stores, .hbm, .cfl, .evt, .snp, .pins, .tx] s (stateAfter (execGenerate job s) s) := by
  unfold execGenerate
  refine Keeps.engineCmd ?_
  exact Keeps.mono (State.runPlain_keeps _ _ _ _) (by decide)

theorem execImportClear_keeps (job : Nat) (s : State) : Keeps [.fns, .reaches, .jobs, .weir, .kst, .slots, .spr,
    .tiles, .cores, .spans, .stores, .hbm, .cfl, .evt, .snp, .pins, .tx] s (stateAfter (execImportClear job s) s) :=
    by
  unfold execImportClear
  refine Keeps.engineCmd ?_
  exact Keeps.mono (State.runPlain_keeps _ _ _ _) (by decide)

theorem State.importJob_keeps (s : State) (id : Nat) : Keeps [.fns, .reaches, .jobs, .weir, .kst, .slots, .spr,
    .tiles, .cores, .spans, .stores, .hbm, .cfl, .evt, .snp, .pins, .tx] s (State.importJob s id) := by
  unfold State.importJob
  dsimp -proj only
  split
  · refine Keeps.ite ?_ ?_
    · refine Keeps.via (State.unusableEvent_keeps _ _) (by decide) ?_
      exact Keeps.mono (State.runPlain_keeps _ _ _ _) (by decide)
    · exact Keeps.mono (State.runPlain_keeps _ _ _ _) (by decide)
  · exact Keeps.mono (State.runPlain_keeps _ _ _ _) (by decide)

theorem execImportWrapped_keeps (job : Nat) (s : State) : Keeps [.fns, .reaches, .jobs, .weir, .kst, .slots, .spr,
    .tiles, .cores, .spans, .stores, .hbm, .cfl, .evt, .snp, .pins, .tx] s (stateAfter (execImportWrapped job s) s)
    := by
  unfold execImportWrapped
  refine Keeps.engineCmd ?_
  exact Keeps.mono (State.importJob_keeps _ _) (by decide)

theorem execExportWrapped_keeps (job : Nat) (s : State) : Keeps [.fns, .reaches, .jobs, .weir, .kst, .slots, .spr,
    .tiles, .cores, .spans, .stores, .hbm, .cfl, .evt, .snp, .rst, .pins, .tx] s (stateAfter (execExportWrapped job
    s) s) := by
  unfold execExportWrapped
  refine Keeps.engineCmd ?_
  exact Keeps.mono (State.runKeyed_keeps _ _ _ _) (by decide)

theorem execExportPublic_keeps (job : Nat) (s : State) : Keeps [.fns, .reaches, .jobs, .weir, .kst, .slots, .spr,
    .tiles, .cores, .spans, .stores, .hbm, .cfl, .evt, .snp, .rst, .pins, .tx] s (stateAfter (execExportPublic job
    s) s) := by
  unfold execExportPublic
  refine Keeps.engineCmd ?_
  exact Keeps.mono (State.runKeyed_keeps _ _ _ _) (by decide)

theorem execRestrict_keeps (job : Nat) (s : State) : Keeps [.fns, .reaches, .jobs, .weir, .kst, .slots, .spr,
    .tiles, .cores, .spans, .stores, .hbm, .cfl, .evt, .snp, .pins, .tx] s (stateAfter (execRestrict job s) s) := by
  unfold execRestrict
  refine Keeps.engineCmd ?_
  exact Keeps.mono (State.runSlot_keeps _ _ _ _) (by decide)

theorem State.deleteJob_keeps (s : State) (id : Nat) : Keeps [.fns, .reaches, .jobs, .weir, .kst, .slots, .records,
    .spr, .tiles, .cores, .spans, .stores, .hbm, .cfl, .evt, .snp, .pins, .tx] s (State.deleteJob s id) := by
  unfold State.deleteJob
  dsimp -proj only
  split
  · exact Keeps.refl _ _
  · refine Keeps.ite ?_ ?_
    · exact Keeps.refl _ _
    · refine Keeps.ite ?_ ?_
      · exact Keeps.mono (State.endJob_keeps _ _ _ _) (by decide)
      · refine Keeps.ite ?_ ?_
        · exact Keeps.mono (State.endJob_keeps _ _ _ _) (by decide)
        · refine Keeps.via (State.endJob_keeps _ _ _ _) (by decide) ?_
          refine Keeps.via (State.invalidate_keeps _ _) (by decide) ?_
          exact Keeps.mono (State.setJob_keeps _ _) (by decide)

theorem execDelete_keeps (job : Nat) (s : State) : Keeps [.fns, .reaches, .jobs, .weir, .kst, .slots, .records,
    .spr, .tiles, .cores, .spans, .stores, .hbm, .cfl, .evt, .snp, .pins, .tx] s (stateAfter (execDelete job s) s)
    := by
  unfold execDelete
  refine Keeps.engineCmd ?_
  exact Keeps.mono (State.deleteJob_keeps _ _) (by decide)

theorem State.ownerJob_keeps (s : State) (id : Nat) : Keeps [.fns, .jobs, .weir, .slots, .spr, .tiles, .cores,
    .spans, .stores, .hbm, .cfl, .evt, .snp, .pins, .tx] s (State.ownerJob s id) := by
  unfold State.ownerJob
  split
  · exact Keeps.refl _ _
  · refine Keeps.ite ?_ ?_
    · exact Keeps.mono (State.endJob_keeps _ _ _ _) (by decide)
    · exact Keeps.refl _ _

theorem execOwnerOpcode_keeps (job : Nat) (s : State) : Keeps [.fns, .jobs, .weir, .slots, .spr, .tiles, .cores,
    .spans, .stores, .hbm, .cfl, .evt, .snp, .pins, .tx] s (stateAfter (execOwnerOpcode job s) s) := by
  unfold execOwnerOpcode
  refine Keeps.engineCmd ?_
  exact Keeps.mono (State.ownerJob_keeps _ _) (by decide)

end Sys2Proof.Machine
end

