-- ==== Sys2Proof/Laws/FramePcie.lean ====
section
/-! SUPPORT. What each operation of Machine/Pcie.lean can touch. -/

namespace Sys2Proof.Machine

open Sys2Proof

theorem State.configWrite_keeps (s : State) (fn a w : Nat) : Keeps [.fns] s (State.configWrite s fn a w) := by
  unfold State.configWrite
  dsimp -proj only
  refine Keeps.ite ?_ ?_
  · exact Keeps.refl _ _
  · refine Keeps.ite ?_ ?_
    · exact Keeps.mono (State.setFn_keeps _ _ _) (by decide)
    · refine Keeps.ite ?_ ?_
      · exact Keeps.mono (State.setFn_keeps _ _ _) (by decide)
      · exact Keeps.refl _ _

theorem State.msixWrite_keeps (s : State) (fn a w : Nat) : Keeps [.fns, .evt, .tx] s (State.msixWrite s fn a w) :=
    by
  unfold State.msixWrite
  dsimp -proj only
  refine Keeps.ite ?_ ?_
  · split
    · exact Keeps.mono (State.setFn_keeps _ _ _) (by decide)
    · exact Keeps.mono (State.setFn_keeps _ _ _) (by decide)
    · exact Keeps.mono (State.setFn_keeps _ _ _) (by decide)
    · exact Keeps.mono (State.msixStateChange_keeps _ _ _) (by decide)
    · exact Keeps.refl _ _
  · exact Keeps.refl _ _

end Sys2Proof.Machine
end

