-- ==== Sys2Proof/Laws/FrameRegisters.lean ====
section
/-! SUPPORT. What each operation of Machine/Registers.lean can touch. -/

namespace Sys2Proof.Machine

open Sys2Proof

theorem State.setView_keeps (s : State) (m : Mgmt) : Keeps [.spr, .hbm, .cfl, .snp, .lev, .rst] s (State.setView s
    m) := by
  unfold State.setView
  dsimp -proj only
  exact Keeps.mono (Keeps.setR_spr_hbm_cfl_snp_lev_rst _ _ _ _ _ _ _ rfl) (by decide)

theorem State.writeQueue_keeps (s : State) (fn q o w : Nat) : Keeps [.queues] s (State.writeQueue s fn q o w) := by
  unfold State.writeQueue
  dsimp -proj only
  refine Keeps.ite ?_ ?_
  · exact Keeps.refl _ _
  · split
    · exact Keeps.mono (State.setQueue_keeps _ _ _) (by decide)
    · refine Keeps.ite ?_ ?_
      · exact Keeps.mono (State.setQueue_keeps _ _ _) (by decide)
      · exact Keeps.refl _ _
    · refine Keeps.ite ?_ ?_
      · exact Keeps.mono (State.setQueue_keeps _ _ _) (by decide)
      · exact Keeps.refl _ _
    · refine Keeps.ite ?_ ?_
      · exact Keeps.mono (State.setQueue_keeps _ _ _) (by decide)
      · exact Keeps.refl _ _
    · refine Keeps.ite ?_ ?_
      · exact Keeps.mono (State.setQueue_keeps _ _ _) (by decide)
      · exact Keeps.refl _ _
    · refine Keeps.ite ?_ ?_
      · exact Keeps.mono (State.setQueue_keeps _ _ _) (by decide)
      · exact Keeps.refl _ _
    · exact Keeps.refl _ _

theorem State.writeWeir_keeps (s : State) (o w : Nat) : Keeps [.weir] s (State.writeWeir s o w) := by
  unfold State.writeWeir
  dsimp -proj only
  split
  · exact Keeps.mono (Keeps.set_weir _ _) (by decide)
  · refine Keeps.ite ?_ ?_
    · exact Keeps.mono (Keeps.set_weir _ _) (by decide)
    · exact Keeps.refl _ _
  · exact Keeps.mono (Keeps.set_weir _ _) (by decide)
  · exact Keeps.mono (Keeps.set_weir _ _) (by decide)
  · exact Keeps.mono (Keeps.set_weir _ _) (by decide)
  · exact Keeps.refl _ _

theorem State.writeRndStat_keeps (s : State) (fn w : Nat) : Keeps [.spr] s (State.writeRndStat s fn w) := by
  unfold State.writeRndStat
  dsimp -proj only
  exact Keeps.mono (State.setFifo_keeps _ _ _) (by decide)

theorem State.writeKst_keeps (s : State) (o w : Nat) : Keeps [.kst] s (State.writeKst s o w) := by
  unfold State.writeKst
  dsimp -proj only
  split
  · exact Keeps.mono (Keeps.set_kst _ _) (by decide)
  · exact Keeps.mono (Keeps.set_kst _ _) (by decide)
  · exact Keeps.refl _ _

theorem State.writeHsh_keeps (s : State) (o w : Nat) : Keeps [.sel] s (State.writeHsh s o w) := by
  unfold State.writeHsh
  dsimp -proj only
  split
  · refine Keeps.ite ?_ ?_
    · exact Keeps.mono (Keeps.set_sel _ _) (by decide)
    · exact Keeps.refl _ _
  · exact Keeps.mono (Keeps.set_sel _ _) (by decide)
  · exact Keeps.refl _ _

theorem State.writeProfile_keeps (s : State) (k : Nat) (cfg : Bool) (w : Nat) : Keeps [.cprof] s (State.writeProfile
    s k cfg w) := by
  unfold State.writeProfile
  dsimp -proj only
  refine Keeps.ite ?_ ?_
  · exact Keeps.refl _ _
  · refine Keeps.ite ?_ ?_
    · refine Keeps.ite ?_ ?_
      · exact Keeps.mono (Keeps.set_cprof _ _) (by decide)
      · exact Keeps.refl _ _
    · refine Keeps.ite ?_ ?_
      · exact Keeps.refl _ _
      · exact Keeps.mono (Keeps.set_cprof _ _) (by decide)

theorem State.writePtl_keeps (s : State) (o w : Nat) : Keeps [.sel, .cprof] s (State.writePtl s o w) := by
  unfold State.writePtl
  dsimp -proj only
  refine Keeps.ite ?_ ?_
  · exact Keeps.mono (Keeps.set_sel _ _) (by decide)
  · refine Keeps.ite ?_ ?_
    · exact Keeps.mono (State.writeProfile_keeps _ _ _ _) (by decide)
    · exact Keeps.refl _ _

theorem State.writeCco_keeps (s : State) (o w : Nat) : Keeps [.sel] s (State.writeCco s o w) := by
  unfold State.writeCco
  dsimp -proj only
  split
  · exact Keeps.mono (Keeps.set_sel _ _) (by decide)
  · refine Keeps.ite ?_ ?_
    · exact Keeps.mono (Keeps.set_sel _ _) (by decide)
    · exact Keeps.refl _ _
  · exact Keeps.refl _ _

theorem State.writeCfl_keeps (s : State) (o w : Nat) : Keeps [.cfl] s (State.writeCfl s o w) := by
  unfold State.writeCfl
  dsimp -proj only
  split
  · exact Keeps.mono (Keeps.set_cfl _ _) (by decide)
  · exact Keeps.mono (Keeps.set_cfl _ _) (by decide)
  · exact Keeps.refl _ _

theorem State.writeLcs_keeps (s : State) (o w : Nat) : Keeps [.lcs] s (State.writeLcs s o w) := by
  unfold State.writeLcs
  dsimp -proj only
  refine Keeps.ite ?_ ?_
  · exact Keeps.mono (Keeps.set_lcs _ _) (by decide)
  · refine Keeps.ite ?_ ?_
    · exact Keeps.mono (Keeps.set_lcs _ _) (by decide)
    · exact Keeps.refl _ _

theorem State.writePwr_keeps (s : State) (o w : Nat) : Keeps [.pwr] s (State.writePwr s o w) := by
  unfold State.writePwr
  dsimp -proj only
  refine Keeps.ite ?_ ?_
  · exact Keeps.mono (Keeps.set_pwr _ _) (by decide)
  · exact Keeps.refl _ _

theorem State.writeFwu_keeps (s : State) (o w : Nat) : Keeps [.fwu] s (State.writeFwu s o w) := by
  unfold State.writeFwu
  dsimp -proj only
  split
  · exact Keeps.mono (Keeps.set_fwu _ _) (by decide)
  · exact Keeps.mono (Keeps.set_fwu _ _) (by decide)
  · exact Keeps.mono (Keeps.set_fwu _ _) (by decide)
  · refine Keeps.ite ?_ ?_
    · exact Keeps.refl _ _
    · exact Keeps.mono (Keeps.set_fwu _ _) (by decide)
  · exact Keeps.mono (Keeps.set_fwu _ _) (by decide)
  · exact Keeps.mono (Keeps.set_fwu _ _) (by decide)
  · exact Keeps.refl _ _

theorem State.clearPending_keeps (s : State) (n : Nat) : Keeps [.evt] s (State.clearPending s n) := by
  unfold State.clearPending
  dsimp -proj only
  exact Keeps.mono (State.setSource_keeps _ _ _) (by decide)

theorem State.writeEvt_keeps (s : State) (o w : Nat) : Keeps [.evt] s (State.writeEvt s o w) := by
  unfold State.writeEvt
  dsimp -proj only
  refine Keeps.ite ?_ ?_
  · exact Keeps.mono (Keeps.set_evt _ _) (by decide)
  · refine Keeps.ite ?_ ?_
    · refine Keeps.ite ?_ ?_
      · exact Keeps.mono (State.clearPending_keeps _ _) (by decide)
      · exact Keeps.refl _ _
    · refine Keeps.ite ?_ ?_
      · refine Keeps.foldlVia (fun s a => ?_) ?_
        · exact Keeps.mono (State.clearPending_keeps _ _) (by decide)
        · exact Keeps.refl _ _
      · exact Keeps.refl _ _

theorem State.writeSnp_keeps (s : State) (o w : Nat) : Keeps [.snp] s (State.writeSnp s o w) := by
  unfold State.writeSnp
  dsimp -proj only
  split
  · exact Keeps.mono (Keeps.set_snp _ _) (by decide)
  · exact Keeps.mono (Keeps.set_snp _ _) (by decide)
  · exact Keeps.refl _ _

theorem State.clearFlr_keeps (s : State) (vf : Nat) (w : Bool) : Keeps [.fns] s (State.clearFlr s vf w) := by
  unfold State.clearFlr
  dsimp -proj only
  exact Keeps.mono (State.setFn_keeps _ _ _) (by decide)

theorem State.writeDoorbell_keeps (s : State) (fn o w : Nat) : Keeps [.fns, .queues, .cfl, .evt, .snp, .pins, .tx] s
    (State.writeDoorbell s fn o w) := by
  unfold State.writeDoorbell
  split
  · exact Keeps.mono (State.sqDoorbell_keeps _ _ _ _) (by decide)
  · exact Keeps.mono (State.cqDoorbell_keeps _ _ _ _) (by decide)
  · exact Keeps.refl _ _

theorem State.writePf_keeps (s : State) (a w : Nat) : Keeps [.fns, .queues, .weir, .kst, .spr, .sel, .cprof, .hbm,
    .cfl, .evt, .snp, .lcs, .lev, .rst, .fwu, .pwr, .pins, .tx] s (State.writePf s a w) := by
  unfold State.writePf
  dsimp -proj only
  split
  · exact Keeps.mono (State.setView_keeps _ _) (by decide)
  · refine Keeps.ite ?_ ?_
    · exact Keeps.mono (State.writeDoorbell_keeps _ _ _ _) (by decide)
    · split
      · refine Keeps.ite ?_ ?_
        · exact Keeps.mono (State.clearFlr_keeps _ _ _) (by decide)
        · exact Keeps.refl _ _
      · refine Keeps.ite ?_ ?_
        · exact Keeps.mono (State.writeQueue_keeps _ _ _ _ _) (by decide)
        · exact Keeps.refl _ _
      · exact Keeps.mono (State.writeWeir_keeps _ _ _) (by decide)
      · refine Keeps.ite ?_ ?_
        · exact Keeps.mono (Keeps.set_spr _ _) (by decide)
        · refine Keeps.ite ?_ ?_
          · exact Keeps.mono (State.writeRndStat_keeps _ _ _) (by decide)
          · exact Keeps.refl _ _
      · exact Keeps.mono (State.writeKst_keeps _ _ _) (by decide)
      · exact Keeps.mono (State.writeHsh_keeps _ _ _) (by decide)
      · refine Keeps.ite ?_ ?_
        · exact Keeps.mono (Keeps.set_sel _ _) (by decide)
        · exact Keeps.refl _ _
      · exact Keeps.mono (State.writePtl_keeps _ _ _) (by decide)
      · refine Keeps.ite ?_ ?_
        · exact Keeps.mono (Keeps.set_sel _ _) (by decide)
        · exact Keeps.refl _ _
      · exact Keeps.mono (State.writeCco_keeps _ _ _) (by decide)
      · refine Keeps.ite ?_ ?_
        · exact Keeps.mono (Keeps.set_hbm _ _) (by decide)
        · exact Keeps.refl _ _
      · exact Keeps.mono (State.writeCfl_keeps _ _ _) (by decide)
      · exact Keeps.mono (State.writeLcs_keeps _ _ _) (by decide)
      · refine Keeps.ite ?_ ?_
        · exact Keeps.mono (State.writePwr_keeps _ _ _) (by decide)
        · exact Keeps.refl _ _
      · exact Keeps.mono (State.writeFwu_keeps _ _ _) (by decide)
      · exact Keeps.mono (State.writeEvt_keeps _ _ _) (by decide)
      · exact Keeps.mono (State.writeSnp_keeps _ _ _) (by decide)
      · exact Keeps.refl _ _

theorem State.writeVf_keeps (s : State) (fn a w : Nat) : Keeps [.fns, .queues, .spr, .cfl, .evt, .snp, .pins, .tx] s
    (State.writeVf s fn a w) := by
  unfold State.writeVf
  dsimp -proj only
  refine Keeps.ite ?_ ?_
  · exact Keeps.mono (State.clearFlr_keeps _ _ _) (by decide)
  · refine Keeps.ite ?_ ?_
    · exact Keeps.refl _ _
    · refine Keeps.ite ?_ ?_
      · refine Keeps.foldlVia (fun s a => ?_) ?_
        · exact Keeps.mono (State.clearPending_keeps _ _) (by decide)
        · exact Keeps.refl _ _
      · refine Keeps.ite ?_ ?_
        · exact Keeps.mono (State.writeRndStat_keeps _ _ _) (by decide)
        · refine Keeps.ite ?_ ?_
          · exact Keeps.mono (State.writeQueue_keeps _ _ _ _ _) (by decide)
          · refine Keeps.ite ?_ ?_
            · exact Keeps.mono (State.writeDoorbell_keeps _ _ _ _) (by decide)
            · exact Keeps.refl _ _

theorem State.writeWord_keeps (s : State) (fn : Nat) (bar : Bar) (a w : Nat) : Keeps [.fns, .queues, .weir, .kst,
    .spr, .sel, .cprof, .hbm, .cfl, .evt, .snp, .lcs, .lev, .rst, .fwu, .pwr, .pins, .tx] s (State.writeWord s fn
    bar a w) := by
  unfold State.writeWord
  split
  · exact Keeps.mono (State.msixWrite_keeps _ _ _ _) (by decide)
  · exact Keeps.mono (State.configWrite_keeps _ _ _ _) (by decide)
  · refine Keeps.ite ?_ ?_
    · exact Keeps.mono (State.writePf_keeps _ _ _) (by decide)
    · exact Keeps.mono (State.writeVf_keeps _ _ _ _) (by decide)

theorem State.registerWrite_keeps (s : State) (fn : Nat) (bar : Bar) (a size v : Nat) : Keeps [.fns, .queues, .weir,
    .kst, .spr, .sel, .cprof, .hbm, .cfl, .evt, .snp, .lcs, .lev, .rst, .fwu, .pwr, .pins, .tx] s
    (State.registerWrite s fn bar a size v) := by
  unfold State.registerWrite
  refine Keeps.ite ?_ ?_
  · exact Keeps.refl _ _
  · refine Keeps.ite ?_ ?_
    · exact Keeps.mono (State.writeWord_keeps _ _ _ _ _) (by decide)
    · refine Keeps.ite ?_ ?_
      · refine Keeps.via (State.writeWord_keeps _ _ _ _ _) (by decide) ?_
        exact Keeps.mono (State.writeWord_keeps _ _ _ _ _) (by decide)
      · exact Keeps.refl _ _

theorem State.onTile_keeps (s : State) (c : NodeClass) (i : Nat) (f : Tile → Tile) : Keeps [.tiles] s (State.onTile
    s c i f) := by
  unfold State.onTile
  refine Keeps.foldlVia (fun s a => ?_) ?_
  · exact Keeps.mono (State.setTile_keeps _ _ _) (by decide)
  · exact Keeps.refl _ _

theorem State.afterRead_keeps (s : State) (a : Nat) : Keeps [.reaches, .weir, .kst, .spr, .tiles, .sel, .stores,
    .hbm, .cfl, .snp, .lcs, .lev, .fwu] s (State.afterRead s a) := by
  unfold State.afterRead
  dsimp -proj only
  split
  · exact Keeps.mono (State.setReach_keeps _ _ _) (by decide)
  · exact Keeps.mono (State.setReach_keeps _ _ _) (by decide)
  · exact Keeps.mono (Keeps.set_weir _ _) (by decide)
  · exact Keeps.mono (Keeps.set_weir _ _) (by decide)
  · exact Keeps.mono (State.setDrbg_keeps _ _ _) (by decide)
  · exact Keeps.mono (Keeps.set_kst _ _) (by decide)
  · exact Keeps.mono (State.onTile_keeps _ _ _ _) (by decide)
  · exact Keeps.mono (State.onTile_keeps _ _ _ _) (by decide)
  · exact Keeps.mono (Keeps.set_sel _ _) (by decide)
  · exact Keeps.mono (State.onTile_keeps _ _ _ _) (by decide)
  · exact Keeps.mono (State.onTile_keeps _ _ _ _) (by decide)
  · exact Keeps.mono (State.onTile_keeps _ _ _ _) (by decide)
  · exact Keeps.mono (State.onTile_keeps _ _ _ _) (by decide)
  · exact Keeps.mono (State.onTile_keeps _ _ _ _) (by decide)
  · exact Keeps.mono (State.onTile_keeps _ _ _ _) (by decide)
  · exact Keeps.mono (State.onTile_keeps _ _ _ _) (by decide)
  · exact Keeps.mono (State.onTile_keeps _ _ _ _) (by decide)
  · exact Keeps.mono (State.setStore_keeps _ _ _) (by decide)
  · exact Keeps.mono (State.setStore_keeps _ _ _) (by decide)
  · exact Keeps.mono (State.setStore_keeps _ _ _) (by decide)
  · exact Keeps.mono (State.setStore_keeps _ _ _) (by decide)
  · exact Keeps.mono (State.onTile_keeps _ _ _ _) (by decide)
  · exact Keeps.mono (State.onTile_keeps _ _ _ _) (by decide)
  · exact Keeps.mono (Keeps.set_sel _ _) (by decide)
  · exact Keeps.mono (Keeps.set_sel _ _) (by decide)
  · exact Keeps.mono (Keeps.set_hbm _ _) (by decide)
  · exact Keeps.mono (Keeps.set_hbm _ _) (by decide)
  · exact Keeps.mono (Keeps.set_hbm _ _) (by decide)
  · exact Keeps.mono (State.setPort_keeps _ _ _) (by decide)
  · exact Keeps.mono (Keeps.set_cfl _ _) (by decide)
  · exact Keeps.mono (Keeps.set_cfl _ _) (by decide)
  · exact Keeps.mono (Keeps.set_cfl _ _) (by decide)
  · exact Keeps.mono (Keeps.set_cfl _ _) (by decide)
  · exact Keeps.mono (Keeps.set_cfl _ _) (by decide)
  · exact Keeps.mono (Keeps.set_lev _ _) (by decide)
  · exact Keeps.mono (Keeps.set_lcs _ _) (by decide)
  · exact Keeps.mono (Keeps.set_fwu _ _) (by decide)
  · exact Keeps.mono (Keeps.set_snp _ _) (by decide)
  · exact Keeps.refl _ _

theorem State.hostRead_keeps (s : State) (fn : Nat) (bar : Bar) (a : Nat) : Keeps [.reaches, .weir, .kst, .spr,
    .tiles, .sel, .stores, .hbm, .cfl, .snp, .lcs, .lev, .fwu] s (State.hostRead s fn bar a).2 := by
  unfold State.hostRead
  split
  · refine Keeps.snd ?_
    exact Keeps.refl _ _
  · refine Keeps.snd ?_
    exact Keeps.refl _ _
  · refine Keeps.snd ?_
    refine Keeps.ite ?_ ?_
    · exact Keeps.mono (State.afterRead_keeps _ _) (by decide)
    · exact Keeps.refl _ _

theorem State.readWord_keeps (s : State) (fn : Nat) (bar : Bar) (a : Nat) : Keeps [.fns, .reaches, .weir, .kst,
    .spr, .tiles, .sel, .stores, .hbm, .cfl, .evt, .snp, .lcs, .lev, .fwu, .pins, .tx] s (State.readWord s fn bar
    a).2 := by
  unfold State.readWord
  dsimp -proj only
  split
  · split
    · refine Keeps.snd ?_
      refine Keeps.via (Keeps.set_tx _ _) (by decide) ?_
      unfold State.rndRead
      refine Keeps.ite ?_ ?_
      · exact Keeps.refl _ _
      · refine Keeps.ite ?_ ?_
        · exact Keeps.mono (State.sent_keeps _ _) (by decide)
        · dsimp -proj only
          refine Keeps.ite ?_ ?_
          · exact Keeps.mono (State.readHi_keeps _ _) (by decide)
          · exact Keeps.mono (State.readLo_keeps _ _) (by decide)
    · refine Keeps.snd ?_
      unfold State.rndRead
      refine Keeps.ite ?_ ?_
      · exact Keeps.refl _ _
      · refine Keeps.ite ?_ ?_
        · exact Keeps.mono (State.sent_keeps _ _) (by decide)
        · dsimp -proj only
          refine Keeps.ite ?_ ?_
          · exact Keeps.mono (State.readHi_keeps _ _) (by decide)
          · exact Keeps.mono (State.readLo_keeps _ _) (by decide)
  · refine Keeps.snd ?_
    exact Keeps.mono (State.hostRead_keeps _ _ _ _) (by decide)

theorem State.registerRead_keeps (s : State) (fn : Nat) (bar : Bar) (a size : Nat) : Keeps [.fns, .reaches, .weir,
    .kst, .spr, .tiles, .sel, .stores, .hbm, .cfl, .evt, .snp, .lcs, .lev, .fwu, .pins, .tx] s (State.registerRead s
    fn bar a size) := by
  unfold State.registerRead
  dsimp -proj only
  refine Keeps.ite ?_ ?_
  · exact Keeps.refl _ _
  · refine Keeps.ite ?_ ?_
    · refine Keeps.via (State.sent_keeps _ _) (by decide) ?_
      exact Keeps.mono (State.readWord_keeps _ _ _ _) (by decide)
    · refine Keeps.ite ?_ ?_
      · refine Keeps.via (State.sent_keeps _ _) (by decide) ?_
        refine Keeps.via (State.readWord_keeps _ _ _ _) (by decide) ?_
        exact Keeps.mono (State.readWord_keeps _ _ _ _) (by decide)
      · exact Keeps.mono (State.sent_keeps _ _) (by decide)

theorem State.registerAccess_keeps (s : State) (fn : Nat) (bar : Bar) (a size : Nat) (x5 : RegAccess) : Keeps [.fns,
    .reaches, .queues, .weir, .kst, .spr, .tiles, .sel, .stores, .cprof, .hbm, .cfl, .evt, .snp, .lcs, .lev, .rst,
    .fwu, .pwr, .pins, .tx] s (State.registerAccess s fn bar a size x5) := by
  unfold State.registerAccess
  split
  · exact Keeps.mono (State.registerWrite_keeps _ _ _ _ _ _) (by decide)
  · refine Keeps.ite ?_ ?_
    · exact Keeps.refl _ _
    · exact Keeps.mono (State.registerRead_keeps _ _ _ _ _) (by decide)

theorem execRegisterWrite_keeps (fn : Nat) (addr : BarAddr) (size : Nat) (access : RegAccess) (s : State) : Keeps
    [.fns, .reaches, .queues, .weir, .kst, .spr, .tiles, .sel, .stores, .cprof, .hbm, .cfl, .evt, .snp, .lcs, .lev,
    .rst, .fwu, .pwr, .pins, .tx] s (stateAfter (execRegisterWrite fn addr size access s) s) := by
  unfold execRegisterWrite
  refine Keeps.next ?_
  exact Keeps.mono (State.registerAccess_keeps _ _ _ _ _ _) (by decide)

theorem State.mgmtReply_keeps (s : State) (st : Byte) (data : Bytes) : Keeps [.tx] s (State.mgmtReply s st data) :=
    by
  unfold State.mgmtReply
  exact Keeps.mono (State.sent_keeps _ _) (by decide)

theorem State.mgmtRead_keeps (s : State) (a count : Nat) : Keeps [.tx] s (State.mgmtRead s a count) := by
  unfold State.mgmtRead
  refine Keeps.ite ?_ ?_
  · exact Keeps.mono (State.mgmtReply_keeps _ _ _) (by decide)
  · split
    · exact Keeps.mono (State.mgmtReply_keeps _ _ _) (by decide)
    · exact Keeps.mono (State.mgmtReply_keeps _ _ _) (by decide)

theorem execRead32_keeps (offset : Nat) (s : State) : Keeps [.tx] s (stateAfter (execRead32 offset s) s) := by
  unfold execRead32
  refine Keeps.mgmtCmd ?_
  exact Keeps.mono (State.mgmtRead_keeps _ _ _) (by decide)

theorem execReadMulti_keeps (offset count : Nat) (s : State) : Keeps [.tx] s (stateAfter (execReadMulti offset count
    s) s) := by
  unfold execReadMulti
  refine Keeps.mgmtCmd ?_
  exact Keeps.mono (State.mgmtRead_keeps _ _ _) (by decide)

theorem State.mgmtSelect_keeps (s : State) (a w : Nat) : Keeps [.mgmt, .tx] s (State.mgmtSelect s a w) := by
  unfold State.mgmtSelect
  refine Keeps.ite ?_ ?_
  · exact Keeps.mono (State.mgmtReply_keeps _ _ _) (by decide)
  · split
    · refine Keeps.via (State.mgmtReply_keeps _ _ _) (by decide) ?_
      exact Keeps.mono (Keeps.set_mgmt _ _) (by decide)
    · exact Keeps.mono (State.mgmtReply_keeps _ _ _) (by decide)

theorem execMgmtSelect_keeps (offset value : Nat) (s : State) : Keeps [.mgmt, .tx] s (stateAfter (execMgmtSelect
    offset value s) s) := by
  unfold execMgmtSelect
  refine Keeps.mgmtCmd ?_
  exact Keeps.mono (State.mgmtSelect_keeps _ _ _) (by decide)

theorem State.readAoLog_keeps (s : State) (i : Nat) : Keeps [.tx] s (State.readAoLog s i) := by
  unfold State.readAoLog
  refine Keeps.ite ?_ ?_
  · exact Keeps.mono (State.mgmtReply_keeps _ _ _) (by decide)
  · exact Keeps.mono (State.mgmtReply_keeps _ _ _) (by decide)

theorem execReadAoLog_keeps (index : Nat) (s : State) : Keeps [.tx] s (stateAfter (execReadAoLog index s) s) := by
  unfold execReadAoLog
  refine Keeps.mgmtCmd ?_
  exact Keeps.mono (State.readAoLog_keeps _ _) (by decide)

theorem State.alertResponse_keeps (s : State) : Keeps [.pins, .tx] s (State.alertResponse s) := by
  unfold State.alertResponse
  dsimp -proj only
  refine Keeps.via (State.sent_keeps _ _) (by decide) ?_
  exact Keeps.mono (Keeps.set_pins _ _) (by decide)

theorem execSmbAlertResponse_keeps (s : State) : Keeps [.pins, .tx] s (stateAfter (execSmbAlertResponse s) s) := by
  unfold execSmbAlertResponse
  refine Keeps.mgmtCmd ?_
  exact Keeps.mono (State.alertResponse_keeps _) (by decide)

end Sys2Proof.Machine
end

