-- ==== Sys2Proof/Laws/FrameRoutine.lean ====
section
/-! SUPPORT. What each operation of Machine/Routine.lean can touch. -/

namespace Sys2Proof.Machine

open Sys2Proof

theorem State.bumpStore_keeps (s : State) (eng : Nat) (f : CtlStore → CtlStore) : Keeps [.stores] s (State.bumpStore
    s eng f) := by
  unfold State.bumpStore
  exact Keeps.mono (State.setStore_keeps _ _ _) (by decide)

theorem State.uFault_keeps (s : State) (r : URun) (restart : Bool) : Keeps [.fns, .jobs, .weir, .slots, .spr,
    .tiles, .cores, .spans, .stores, .hbm, .cfl, .evt, .snp, .pins, .tx] s (State.uFault s r restart) := by
  unfold State.uFault
  refine Keeps.ite ?_ ?_
  · exact Keeps.mono (State.nodeFault_keeps _ _ _) (by decide)
  · exact Keeps.mono (State.failNode_keeps _ _ _ _) (by decide)

theorem State.memoryEvent_keeps (s : State) (k : Nat) : Keeps [.fns, .cfl, .evt, .snp, .pins, .tx] s
    (State.memoryEvent s k) := by
  unfold State.memoryEvent
  split
  · exact Keeps.mono (State.raiseBasin_keeps _ _ _ _) (by decide)
  · exact Keeps.mono (State.raiseBasin_keeps _ _ _ _) (by decide)
  · exact Keeps.refl _ _

theorem State.romParity_keeps (s : State) (r : URun) : Keeps [.tiles] s (State.romParity s r) := by
  unfold State.romParity
  dsimp -proj only
  exact Keeps.mono (State.setTile_keeps _ _ _) (by decide)

theorem State.uCount_keeps (s : State) (r : URun) (w : Option UWord) (m : EccEvent) : Keeps [.fns, .tiles, .stores,
    .cfl, .evt, .snp, .pins, .tx] s (State.uCount s r w m) := by
  unfold State.uCount
  dsimp -proj only
  split
  · exact Keeps.refl _ _
  · exact Keeps.mono (State.setTile_keeps _ _ _) (by decide)
  · refine Keeps.via (State.memoryEvent_keeps _ _) (by decide) ?_
    exact Keeps.mono (State.setTile_keeps _ _ _) (by decide)
  · refine Keeps.ite ?_ ?_
    · exact Keeps.mono (State.setTile_keeps _ _ _) (by decide)
    · exact Keeps.refl _ _
  · refine Keeps.via (State.romParity_keeps _ _) (by decide) ?_
    exact Keeps.mono (State.bumpStore_keeps _ _ _) (by decide)
  · exact Keeps.mono (State.bumpStore_keeps _ _ _) (by decide)
  · exact Keeps.mono (State.bumpStore_keeps _ _ _) (by decide)

theorem State.bring_keeps (s : State) (k id i : Nat) (ws : List PtWrite) : Keeps [.tiles] s (State.bring s k id i
    ws) := by
  unfold State.bring
  dsimp -proj only
  exact Keeps.mono (State.setTile_keeps _ _ _) (by decide)

theorem State.toStaging_keeps (s : State) (r : URun) (off : Nat) (bs : Bytes) : Keeps [.jobs] s (State.toStaging s r
    off bs) := by
  unfold State.toStaging
  split
  · exact Keeps.mono (State.setJob_keeps _ _) (by decide)
  · exact Keeps.refl _ _

end Sys2Proof.Machine
end

