-- ==== Sys2Proof/Laws/FrameHtUnit.lean ====
section
/-! SUPPORT. What each operation of Machine/HtUnit.lean can touch. -/

namespace Sys2Proof.Machine

open Sys2Proof

theorem State.setUnit_keeps (s : State) (r : URun) (w : UWord) (u : HashUnit) : Keeps [.tiles] s (State.setUnit s r
    w u) := by
  unfold State.setUnit
  dsimp -proj only
  exact Keeps.mono (State.setTile_keeps _ _ _) (by decide)

theorem State.toBanks_keeps (s : State) (r : URun) (dest : Nat) (out : HtOut) : Keeps [.tiles] s (State.toBanks s r
    dest out) := by
  unfold State.toBanks
  dsimp -proj only
  refine Keeps.via (State.setTile_keeps _ _ _) (by decide) ?_
  exact Keeps.mono (State.bring_keeps _ _ _ _ _) (by decide)

theorem State.htGive_keeps (s : State) (r : URun) (w : UWord) (i : Nat) (u : HashUnit) (out : HtOut) : Keeps [.jobs,
    .weir, .slots, .tiles] s (State.htGive s r w i u out) := by
  unfold State.htGive
  dsimp -proj only
  split
  · exact Keeps.mono (State.toStaging_keeps _ _ _ _) (by decide)
  · exact Keeps.mono (State.toBanks_keeps _ _ _ _) (by decide)
  · exact Keeps.mono (State.setJob_keeps _ _) (by decide)
  · refine Keeps.ite ?_ ?_
    · exact Keeps.mono (State.setSlot_keeps _ _ _) (by decide)
    · exact Keeps.refl _ _
  · refine Keeps.via (State.takeSeq_keeps _) (by decide) ?_
    exact Keeps.mono (State.setJob_keeps _ _) (by decide)
  · exact Keeps.refl _ _

theorem State.htWord_keeps (s : State) (r : URun) (w : UWord) (i : Nat) (drawn : Bytes) : Keeps [.jobs, .weir,
    .slots, .tiles, .hbm] s (State.htWord s r w i drawn) := by
  unfold State.htWord
  dsimp -proj only
  split
  · exact Keeps.mono (State.setUnit_keeps _ _ _ _) (by decide)
  · exact Keeps.mono (State.setUnit_keeps _ _ _ _) (by decide)
  · exact Keeps.mono (State.setUnit_keeps _ _ _ _) (by decide)
  · refine Keeps.via (State.htGive_keeps _ _ _ _ _ _) (by decide) ?_
    exact Keeps.mono (State.setUnit_keeps _ _ _ _) (by decide)
  · refine Keeps.via (State.setTile_keeps _ _ _) (by decide) ?_
    refine Keeps.ite ?_ ?_
    · exact Keeps.refl _ _
    · exact Keeps.mono (State.makeEntry_keeps _ _ _) (by decide)
  · split
    · exact Keeps.mono (State.setUnit_keeps _ _ _ _) (by decide)
    · exact Keeps.refl _ _
  · exact Keeps.mono (State.setUnit_keeps _ _ _ _) (by decide)
  · exact Keeps.mono (State.setUnit_keeps _ _ _ _) (by decide)
  · exact Keeps.mono (State.setTile_keeps _ _ _) (by decide)
  · exact Keeps.refl _ _

end Sys2Proof.Machine
end

