-- ==== Sys2Proof/Laws/FramePtUnit.lean ====
section
/-! SUPPORT. What each operation of Machine/PtUnit.lean can touch. -/

namespace Sys2Proof.Machine

open Sys2Proof

theorem State.storeKey_keeps (s : State) (r : URun) (n : Nat) (rows : List Bytes) : Keeps [.slots] s (State.storeKey
    s r n rows) := by
  unfold State.storeKey
  dsimp -proj only
  refine Keeps.ite ?_ ?_
  · exact Keeps.mono (State.setSlot_keeps _ _ _) (by decide)
  · exact Keeps.refl _ _

theorem State.ptOut_keeps (s : State) (r : URun) (w : UWord) (i : Nat) (c : PtCycle) : Keeps [.jobs, .slots, .tiles]
    s (State.ptOut s r w i c) := by
  unfold State.ptOut
  dsimp -proj only
  split
  · refine Keeps.via (State.toStaging_keeps _ _ _ _) (by decide) ?_
    split
    · exact Keeps.mono (State.setTile_keeps _ _ _) (by decide)
    · exact Keeps.refl _ _
  · split
    · refine Keeps.via (State.setJob_keeps _ _) (by decide) ?_
      split
      · exact Keeps.mono (State.setTile_keeps _ _ _) (by decide)
      · exact Keeps.refl _ _
    · split
      · exact Keeps.mono (State.setTile_keeps _ _ _) (by decide)
      · exact Keeps.refl _ _
  · refine Keeps.via (State.storeKey_keeps _ _ _ _) (by decide) ?_
    split
    · exact Keeps.mono (State.setTile_keeps _ _ _) (by decide)
    · exact Keeps.refl _ _
  · split
    · exact Keeps.mono (State.setTile_keeps _ _ _) (by decide)
    · exact Keeps.refl _ _

theorem State.ptWord_keeps (s : State) (r : URun) (w : UWord) (i : Nat) (drawn : Bytes) : Keeps [.jobs, .slots,
    .tiles] s (State.ptWord s r w i drawn) := by
  unfold State.ptWord
  dsimp -proj only
  refine Keeps.via (State.ptOut_keeps _ _ _ _ _) (by decide) ?_
  exact Keeps.mono (State.setTile_keeps _ _ _) (by decide)

end Sys2Proof.Machine
end

