-- ==== Sys2Proof/Laws/FrameWordUnits.lean ====
section
/-! SUPPORT. What each operation of Machine/WordUnits.lean can touch. -/

namespace Sys2Proof.Machine

open Sys2Proof

theorem State.bnuWord_keeps (s : State) (r : URun) (w : UWord) (i : Nat) (drawn : Bytes) : Keeps [.jobs, .tiles] s
    (State.bnuWord s r w i drawn) := by
  unfold State.bnuWord
  dsimp -proj only
  split
  · exact Keeps.refl _ _
  · exact Keeps.refl _ _
  · refine Keeps.via (State.setTile_keeps _ _ _) (by decide) ?_
    exact Keeps.mono (State.setTile_keeps _ _ _) (by decide)
  · exact Keeps.mono (State.setTile_keeps _ _ _) (by decide)
  · exact Keeps.mono (State.setTile_keeps _ _ _) (by decide)
  · exact Keeps.mono (State.setTile_keeps _ _ _) (by decide)
  · exact Keeps.mono (State.setTile_keeps _ _ _) (by decide)
  · refine Keeps.ite ?_ ?_
    · exact Keeps.mono (State.setTile_keeps _ _ _) (by decide)
    · exact Keeps.mono (State.setTile_keeps _ _ _) (by decide)
  · refine Keeps.ite ?_ ?_
    · exact Keeps.mono (State.setTile_keeps _ _ _) (by decide)
    · exact Keeps.mono (State.setTile_keeps _ _ _) (by decide)
  · refine Keeps.ite ?_ ?_
    · exact Keeps.mono (State.setTile_keeps _ _ _) (by decide)
    · exact Keeps.mono (State.setTile_keeps _ _ _) (by decide)
  · refine Keeps.ite ?_ ?_
    · exact Keeps.mono (State.setTile_keeps _ _ _) (by decide)
    · exact Keeps.mono (State.setTile_keeps _ _ _) (by decide)
  · split
    · exact Keeps.mono (State.setTile_keeps _ _ _) (by decide)
    · exact Keeps.mono (State.setTile_keeps _ _ _) (by decide)
  · exact Keeps.mono (State.toStaging_keeps _ _ _ _) (by decide)
  · exact Keeps.mono (State.setTile_keeps _ _ _) (by decide)
  · exact Keeps.mono (State.setTile_keeps _ _ _) (by decide)

theorem State.cuWord_keeps (s : State) (r : URun) (w : UWord) (i : Nat) : Keeps [.jobs, .tiles] s (State.cuWord s r
    w i) := by
  unfold State.cuWord
  dsimp -proj only
  split
  · split
    · exact Keeps.mono (State.setTile_keeps _ _ _) (by decide)
    · exact Keeps.mono (State.setTile_keeps _ _ _) (by decide)
    · exact Keeps.mono (State.setTile_keeps _ _ _) (by decide)
  · exact Keeps.mono (State.setTile_keeps _ _ _) (by decide)
  · refine Keeps.ite ?_ ?_
    · exact Keeps.mono (State.setTile_keeps _ _ _) (by decide)
    · refine Keeps.via (State.toStaging_keeps _ _ _ _) (by decide) ?_
      exact Keeps.mono (State.setTile_keeps _ _ _) (by decide)
  · refine Keeps.via (State.toStaging_keeps _ _ _ _) (by decide) ?_
    exact Keeps.mono (State.setTile_keeps _ _ _) (by decide)
  · exact Keeps.mono (State.setTile_keeps _ _ _) (by decide)
  · exact Keeps.mono (State.setTile_keeps _ _ _) (by decide)
  · exact Keeps.mono (State.setTile_keeps _ _ _) (by decide)

end Sys2Proof.Machine
end

