-- ==== Sys2Proof/Laws/FrameUcode.lean ====
section
/-! SUPPORT. What each operation of Machine/Ucode.lean can touch. -/

namespace Sys2Proof.Machine

open Sys2Proof

theorem State.uCommit1_keeps (s : State) (r : URun) : Keeps [.jobs, .tiles] s (State.uCommit1 s r) := by
  unfold State.uCommit1
  dsimp -proj only
  split
  · refine Keeps.ite ?_ ?_
    · refine Keeps.via (State.setJob_keeps _ _) (by decide) ?_
      exact Keeps.mono (State.setTile_keeps _ _ _) (by decide)
    · exact Keeps.mono (State.setTile_keeps _ _ _) (by decide)
  · exact Keeps.mono (State.setTile_keeps _ _ _) (by decide)

theorem State.uEnd_keeps (s : State) (r : URun) : Keeps [.fns, .reaches, .jobs, .weir, .slots, .spr, .tiles, .cores,
    .spans, .stores, .hbm, .cfl, .evt, .snp, .pins, .tx] s (State.uEnd s r) := by
  unfold State.uEnd
  dsimp -proj only
  refine Keeps.ite ?_ ?_
  · refine Keeps.via (State.finishNode_keeps _ _ _) (by decide) ?_
    exact Keeps.mono (State.setTile_keeps _ _ _) (by decide)
  · exact Keeps.mono (State.setTile_keeps _ _ _) (by decide)

theorem State.uSequence_keeps (s : State) (r : URun) (w : UWord) : Keeps [.fns, .reaches, .jobs, .weir, .slots,
    .spr, .tiles, .cores, .spans, .stores, .hbm, .cfl, .evt, .snp, .pins, .tx] s (State.uSequence s r w) := by
  unfold State.uSequence
  dsimp -proj only
  split
  · exact Keeps.mono (State.setTile_keeps _ _ _) (by decide)
  · exact Keeps.mono (State.uFault_keeps _ _ _) (by decide)
  · exact Keeps.mono (State.uEnd_keeps _ _) (by decide)

theorem State.uCycle_keeps (s : State) (r : URun) (w : UWord) : Keeps [.jobs] s (State.uCycle s r w) := by
  unfold State.uCycle
  split
  · split
    · exact Keeps.mono (State.setJob_keeps _ _) (by decide)
    · exact Keeps.refl _ _
  · exact Keeps.refl _ _

theorem State.uDraw_keeps (s : State) (r : URun) (w : UWord) (i : Nat) : Keeps [.fns, .spr, .tiles, .cfl, .evt,
    .snp, .pins, .tx] s (State.uDraw s r w i).2 := by
  unfold State.uDraw
  refine Keeps.iteSnd ?_ ?_
  · refine Keeps.snd ?_
    exact Keeps.refl _ _
  · split
    · exact Keeps.mono (State.takeBlocks_keeps _ _ _ _) (by decide)
    · exact Keeps.mono (State.takeBlocks_keeps _ _ _ _) (by decide)
    · exact Keeps.mono (State.takeWords_keeps _ _ _) (by decide)
    · refine Keeps.snd ?_
      exact Keeps.refl _ _

theorem State.uData_keeps (s : State) (r : URun) (w : UWord) (i : Nat) (drawn : Bytes) : Keeps [.jobs, .weir,
    .slots, .tiles, .hbm] s (State.uData s r w i drawn) := by
  unfold State.uData
  split
  · exact Keeps.mono (State.ptWord_keeps _ _ _ _ _) (by decide)
  · exact Keeps.mono (State.htWord_keeps _ _ _ _ _) (by decide)
  · exact Keeps.mono (State.bnuWord_keeps _ _ _ _ _) (by decide)
  · exact Keeps.mono (State.cuWord_keeps _ _ _ _) (by decide)

theorem State.uExecute_keeps (s : State) (r : URun) (w : UWord) : Keeps [.fns, .reaches, .jobs, .weir, .slots, .spr,
    .tiles, .cores, .spans, .stores, .hbm, .cfl, .evt, .snp, .pins, .tx] s (State.uExecute s r w) := by
  unfold State.uExecute
  dsimp -proj only
  split
  · refine Keeps.ofPair (by assumption) ?_
    exact Keeps.mono (State.uDraw_keeps _ _ _ _) (by decide)
  · refine Keeps.ite ?_ ?_
    · refine Keeps.via (State.uFault_keeps _ _ _) (by decide) ?_
      refine Keeps.via (State.uCycle_keeps _ _ _) (by decide) ?_
      refine Keeps.ofPair (by assumption) ?_
      exact Keeps.mono (State.uDraw_keeps _ _ _ _) (by decide)
    · refine Keeps.ite ?_ ?_
      · refine Keeps.via (State.failNode_keeps _ _ _ _) (by decide) ?_
        refine Keeps.via (State.uCycle_keeps _ _ _) (by decide) ?_
        refine Keeps.ofPair (by assumption) ?_
        exact Keeps.mono (State.uDraw_keeps _ _ _ _) (by decide)
      · refine Keeps.via (State.uSequence_keeps _ _ _) (by decide) ?_
        refine Keeps.ite ?_ ?_
        · refine Keeps.via (State.uCommit1_keeps _ _) (by decide) ?_
          refine Keeps.via (State.uData_keeps _ _ _ _ _) (by decide) ?_
          refine Keeps.via (State.uCycle_keeps _ _ _) (by decide) ?_
          refine Keeps.ofPair (by assumption) ?_
          exact Keeps.mono (State.uDraw_keeps _ _ _ _) (by decide)
        · refine Keeps.via (State.uData_keeps _ _ _ _ _) (by decide) ?_
          refine Keeps.via (State.uCycle_keeps _ _ _) (by decide) ?_
          refine Keeps.ofPair (by assumption) ?_
          exact Keeps.mono (State.uDraw_keeps _ _ _ _) (by decide)

theorem State.lateFault_keeps (s : State) (k : Nat) : Keeps [.fns, .jobs, .weir, .slots, .spr, .tiles, .cores,
    .spans, .stores, .hbm, .cfl, .evt, .snp, .pins, .tx] s (State.lateFault s k) := by
  unfold State.lateFault
  split
  · exact Keeps.mono (State.nodeFault_keeps _ _ _) (by decide)
  · exact Keeps.refl _ _

theorem State.ucode_keeps (s : State) (eng unit : Nat) (m : EccEvent) (row : URow) : Keeps [.fns, .reaches, .jobs,
    .weir, .slots, .spr, .tiles, .cores, .spans, .stores, .hbm, .cfl, .evt, .snp, .pins, .tx] s (State.ucode s eng
    unit m row) := by
  unfold State.ucode
  dsimp -proj only
  split
  · split
    · refine Keeps.ite ?_ ?_
      · exact Keeps.mono (State.leaveTile_keeps _ _) (by decide)
      · exact Keeps.refl _ _
    · refine Keeps.ite ?_ ?_
      · exact Keeps.mono (State.lateFault_keeps _ _) (by decide)
      · exact Keeps.refl _ _
  · refine Keeps.ite ?_ ?_
    · exact Keeps.refl _ _
    · refine Keeps.ite ?_ ?_
      · refine Keeps.via (State.uFault_keeps _ _ _) (by decide) ?_
        exact Keeps.mono (State.uCount_keeps _ _ _ _) (by decide)
      · split
        · refine Keeps.via (State.uFault_keeps _ _ _) (by decide) ?_
          exact Keeps.mono (State.uCount_keeps _ _ _ _) (by decide)
        · refine Keeps.ite ?_ ?_
          · refine Keeps.via (State.uFault_keeps _ _ _) (by decide) ?_
            exact Keeps.mono (State.uCount_keeps _ _ _ _) (by decide)
          · refine Keeps.ite ?_ ?_
            · exact Keeps.mono (State.uCount_keeps _ _ _ _) (by decide)
            · refine Keeps.via (State.uExecute_keeps _ _ _) (by decide) ?_
              exact Keeps.mono (State.uCount_keeps _ _ _ _) (by decide)

theorem execUcodeNext_keeps (eng unit : Nat) (mem : EccEvent) (s : State) : Keeps [.fns, .reaches, .jobs, .weir,
    .slots, .spr, .tiles, .cores, .spans, .stores, .hbm, .cfl, .evt, .snp, .pins, .tx] s (stateAfter (execUcodeNext
    eng unit mem s) s) := by
  unfold execUcodeNext
  refine Keeps.engineCmd ?_
  exact Keeps.mono (State.ucode_keeps _ _ _ _ _) (by decide)

theorem execUcodeJump_keeps (eng unit : Nat) (mem : EccEvent) (s : State) : Keeps [.fns, .reaches, .jobs, .weir,
    .slots, .spr, .tiles, .cores, .spans, .stores, .hbm, .cfl, .evt, .snp, .pins, .tx] s (stateAfter (execUcodeJump
    eng unit mem s) s) := by
  unfold execUcodeJump
  refine Keeps.engineCmd ?_
  exact Keeps.mono (State.ucode_keeps _ _ _ _ _) (by decide)

theorem execUcodeCall_keeps (eng unit : Nat) (mem : EccEvent) (s : State) : Keeps [.fns, .reaches, .jobs, .weir,
    .slots, .spr, .tiles, .cores, .spans, .stores, .hbm, .cfl, .evt, .snp, .pins, .tx] s (stateAfter (execUcodeCall
    eng unit mem s) s) := by
  unfold execUcodeCall
  refine Keeps.engineCmd ?_
  exact Keeps.mono (State.ucode_keeps _ _ _ _ _) (by decide)

theorem execUcodeRet_keeps (eng unit : Nat) (mem : EccEvent) (s : State) : Keeps [.fns, .reaches, .jobs, .weir,
    .slots, .spr, .tiles, .cores, .spans, .stores, .hbm, .cfl, .evt, .snp, .pins, .tx] s (stateAfter (execUcodeRet
    eng unit mem s) s) := by
  unfold execUcodeRet
  refine Keeps.engineCmd ?_
  exact Keeps.mono (State.ucode_keeps _ _ _ _ _) (by decide)

theorem execUcodeRepeat_keeps (eng unit : Nat) (mem : EccEvent) (s : State) : Keeps [.fns, .reaches, .jobs, .weir,
    .slots, .spr, .tiles, .cores, .spans, .stores, .hbm, .cfl, .evt, .snp, .pins, .tx] s (stateAfter
    (execUcodeRepeat eng unit mem s) s) := by
  unfold execUcodeRepeat
  refine Keeps.engineCmd ?_
  exact Keeps.mono (State.ucode_keeps _ _ _ _ _) (by decide)

theorem execUcodeLoop_keeps (eng unit : Nat) (mem : EccEvent) (s : State) : Keeps [.fns, .reaches, .jobs, .weir,
    .slots, .spr, .tiles, .cores, .spans, .stores, .hbm, .cfl, .evt, .snp, .pins, .tx] s (stateAfter (execUcodeLoop
    eng unit mem s) s) := by
  unfold execUcodeLoop
  refine Keeps.engineCmd ?_
  exact Keeps.mono (State.ucode_keeps _ _ _ _ _) (by decide)

theorem execUcodeSetcnt_keeps (eng unit : Nat) (mem : EccEvent) (s : State) : Keeps [.fns, .reaches, .jobs, .weir,
    .slots, .spr, .tiles, .cores, .spans, .stores, .hbm, .cfl, .evt, .snp, .pins, .tx] s (stateAfter
    (execUcodeSetcnt eng unit mem s) s) := by
  unfold execUcodeSetcnt
  refine Keeps.engineCmd ?_
  exact Keeps.mono (State.ucode_keeps _ _ _ _ _) (by decide)

theorem execUcodeBrFlag_keeps (eng unit : Nat) (mem : EccEvent) (s : State) : Keeps [.fns, .reaches, .jobs, .weir,
    .slots, .spr, .tiles, .cores, .spans, .stores, .hbm, .cfl, .evt, .snp, .pins, .tx] s (stateAfter
    (execUcodeBrFlag eng unit mem s) s) := by
  unfold execUcodeBrFlag
  refine Keeps.engineCmd ?_
  exact Keeps.mono (State.ucode_keeps _ _ _ _ _) (by decide)

theorem execUcodeBrReveal_keeps (eng unit : Nat) (mem : EccEvent) (s : State) : Keeps [.fns, .reaches, .jobs, .weir,
    .slots, .spr, .tiles, .cores, .spans, .stores, .hbm, .cfl, .evt, .snp, .pins, .tx] s (stateAfter
    (execUcodeBrReveal eng unit mem s) s) := by
  unfold execUcodeBrReveal
  refine Keeps.engineCmd ?_
  exact Keeps.mono (State.ucode_keeps _ _ _ _ _) (by decide)

theorem execUcodeEnd_keeps (eng unit : Nat) (mem : EccEvent) (s : State) : Keeps [.fns, .reaches, .jobs, .weir,
    .slots, .spr, .tiles, .cores, .spans, .stores, .hbm, .cfl, .evt, .snp, .pins, .tx] s (stateAfter (execUcodeEnd
    eng unit mem s) s) := by
  unfold execUcodeEnd
  refine Keeps.engineCmd ?_
  exact Keeps.mono (State.ucode_keeps _ _ _ _ _) (by decide)

theorem execUcodeCommit_keeps (eng unit : Nat) (mem : EccEvent) (s : State) : Keeps [.fns, .reaches, .jobs, .weir,
    .slots, .spr, .tiles, .cores, .spans, .stores, .hbm, .cfl, .evt, .snp, .pins, .tx] s (stateAfter
    (execUcodeCommit eng unit mem s) s) := by
  unfold execUcodeCommit
  refine Keeps.engineCmd ?_
  exact Keeps.mono (State.ucode_keeps _ _ _ _ _) (by decide)

end Sys2Proof.Machine
end

