-- ==== Sys2Proof/Laws/FrameDispatch.lean ====
section
/-! SUPPORT. What each operation of Machine/Dispatch.lean can touch. -/

namespace Sys2Proof.Machine

open Sys2Proof

theorem exec_keeps (i : Instr) (s : State) : Keeps deviceParts s (stateAfter (exec i s) s) := by
  unfold exec
  split
  · exact Keeps.mono (execPwrgoodAssert_keeps _ _) (by decide)
  · exact Keeps.mono (execPwrgoodDeassert_keeps _) (by decide)
  · exact Keeps.mono (execResetN_keeps _) (by decide)
  · exact Keeps.mono (execPerstN_keeps _) (by decide)
  · exact Keeps.mono (execBootStart_keeps _ _) (by decide)
  · exact Keeps.mono (execBootStepTimeout_keeps _ _) (by decide)
  · exact Keeps.mono (execBootCountAgeOut_keeps _) (by decide)
  · exact Keeps.mono (execDevReset_keeps _ _) (by decide)
  · exact Keeps.mono (execWatchdogExpiry_keeps _) (by decide)
  · exact Keeps.mono (execCriticalError_keeps _ _) (by decide)
  · exact Keeps.mono (execResetHoldEnd_keeps _) (by decide)
  · exact Keeps.mono (execLinkSettle_keeps _ _ _) (by decide)
  · exact Keeps.mono (execD3hotEntry_keeps _ _) (by decide)
  · exact Keeps.mono (execD0Return_keeps _ _) (by decide)
  · exact Keeps.mono (execVfEnableWrite_keeps _ _ _) (by decide)
  · exact Keeps.mono (execFlr_keeps _ _) (by decide)
  · exact Keeps.mono (execMsixStateChange_keeps _ _ _) (by decide)
  · exact Keeps.mono (execRegisterWrite_keeps _ _ _ _ _) (by decide)
  · exact Keeps.mono (execBegin_keeps _) (by decide)
  · exact Keeps.mono (execLoadWindowWrite_keeps _ _ _) (by decide)
  · exact Keeps.mono (execValidate_keeps _) (by decide)
  · exact Keeps.mono (execValidationComplete_keeps _) (by decide)
  · exact Keeps.mono (execCommit_keeps _) (by decide)
  · exact Keeps.mono (execCommitSwitchPoint_keeps _) (by decide)
  · exact Keeps.mono (execCommitSpringWaitTimeout_keeps _) (by decide)
  · exact Keeps.mono (execDiscard_keeps _) (by decide)
  · exact Keeps.mono (execQuiesce_keeps _ _) (by decide)
  · exact Keeps.mono (execResume_keeps _ _) (by decide)
  · exact Keeps.mono (execResetReach_keeps _ _) (by decide)
  · exact Keeps.mono (execRemoveReach_keeps _ _) (by decide)
  · exact Keeps.mono (execQuiesceVf_keeps _ _) (by decide)
  · exact Keeps.mono (execResumeVf_keeps _ _) (by decide)
  · exact Keeps.mono (execResetVf_keeps _ _) (by decide)
  · exact Keeps.mono (execSelect_keeps _ _ _) (by decide)
  · exact Keeps.mono (execQuiesceComplete_keeps _ _) (by decide)
  · exact Keeps.mono (execBlockResetComplete_keeps _ _ _) (by decide)
  · exact Keeps.mono (execSqDoorbell_keeps _ _ _ _) (by decide)
  · exact Keeps.mono (execCqDoorbell_keeps _ _ _ _) (by decide)
  · exact Keeps.mono (execSqFetch_keeps _) (by decide)
  · exact Keeps.mono (execEntryArrival_keeps _ _ _ _) (by decide)
  · exact Keeps.mono (execInputStreamRead_keeps _ _ _) (by decide)
  · exact Keeps.mono (execTokenAvailable_keeps _ _ _) (by decide)
  · exact Keeps.mono (execJobRetire_keeps _ _) (by decide)
  · exact Keeps.mono (execCqSpaceAvailable_keeps _ _ _) (by decide)
  · exact Keeps.mono (execSluQEnable_keeps _ _ _ _) (by decide)
  · exact Keeps.mono (execQueueReset_keeps _ _ _) (by decide)
  · exact Keeps.mono (execSluQAbort_keeps _ _ _ _ _) (by decide)
  · exact Keeps.mono (execJobAdmit_keeps _ _) (by decide)
  · exact Keeps.mono (execTemplateInstantiate_keeps _ _) (by decide)
  · exact Keeps.mono (execNodeDispatch_keeps _ _ _) (by decide)
  · exact Keeps.mono (execNodeComplete_keeps _ _ _ _) (by decide)
  · exact Keeps.mono (execFrameSlotStart_keeps _) (by decide)
  · exact Keeps.mono (execTimedRelease_keeps _ _) (by decide)
  · exact Keeps.mono (execRateLimitRelease_keeps _ _) (by decide)
  · exact Keeps.mono (execBackoffExpiry_keeps _ _ _) (by decide)
  · exact Keeps.mono (execBnuSliceExpiry_keeps _ _) (by decide)
  · exact Keeps.mono (execDelayEntryFreed_keeps _ _) (by decide)
  · exact Keeps.mono (execEntropyWaitDelivered_keeps _ _) (by decide)
  · exact Keeps.mono (execEntropyWaitTimeout_keeps _ _) (by decide)
  · exact Keeps.mono (execYieldPoint_keeps _ _ _) (by decide)
  · exact Keeps.mono (execBnuSpanGrant_keeps _ _) (by decide)
  · exact Keeps.mono (execSpill_keeps _ _ _) (by decide)
  · exact Keeps.mono (execSpillResult_keeps _ _ _ _ _) (by decide)
  · exact Keeps.mono (execSpillTimerExpiry_keeps _ _) (by decide)
  · exact Keeps.mono (execMeasExtend_keeps _ _) (by decide)
  · exact Keeps.mono (execLeaseCommit_keeps _ _) (by decide)
  · exact Keeps.mono (execUcodeNext_keeps _ _ _ _) (by decide)
  · exact Keeps.mono (execUcodeJump_keeps _ _ _ _) (by decide)
  · exact Keeps.mono (execUcodeCall_keeps _ _ _ _) (by decide)
  · exact Keeps.mono (execUcodeRet_keeps _ _ _ _) (by decide)
  · exact Keeps.mono (execUcodeRepeat_keeps _ _ _ _) (by decide)
  · exact Keeps.mono (execUcodeLoop_keeps _ _ _ _) (by decide)
  · exact Keeps.mono (execUcodeSetcnt_keeps _ _ _ _) (by decide)
  · exact Keeps.mono (execUcodeBrFlag_keeps _ _ _ _) (by decide)
  · exact Keeps.mono (execUcodeBrReveal_keeps _ _ _ _) (by decide)
  · exact Keeps.mono (execUcodeEnd_keeps _ _ _ _) (by decide)
  · exact Keeps.mono (execUcodeCommit_keeps _ _ _ _) (by decide)
  · exact Keeps.mono (execAdd_keeps _ _ _) (by decide)
  · exact Keeps.mono (execSub_keeps _ _ _) (by decide)
  · exact Keeps.mono (execAnd_keeps _ _ _) (by decide)
  · exact Keeps.mono (execOr_keeps _ _ _) (by decide)
  · exact Keeps.mono (execXor_keeps _ _ _) (by decide)
  · exact Keeps.mono (execAndn_keeps _ _ _) (by decide)
  · exact Keeps.mono (execShl_keeps _ _ _) (by decide)
  · exact Keeps.mono (execShr_keeps _ _ _) (by decide)
  · exact Keeps.mono (execSar_keeps _ _ _) (by decide)
  · exact Keeps.mono (execRor_keeps _ _ _) (by decide)
  · exact Keeps.mono (execCmps_keeps _ _ _) (by decide)
  · exact Keeps.mono (execCmpu_keeps _ _ _) (by decide)
  · exact Keeps.mono (execMul_keeps _ _ _) (by decide)
  · exact Keeps.mono (execMulhiS_keeps _ _ _) (by decide)
  · exact Keeps.mono (execMulhiU_keeps _ _ _) (by decide)
  · exact Keeps.mono (execDivs_keeps _ _ _) (by decide)
  · exact Keeps.mono (execDivu_keeps _ _ _) (by decide)
  · exact Keeps.mono (execMods_keeps _ _ _) (by decide)
  · exact Keeps.mono (execModu_keeps _ _ _) (by decide)
  · exact Keeps.mono (execMins_keeps _ _ _) (by decide)
  · exact Keeps.mono (execMaxs_keeps _ _ _) (by decide)
  · exact Keeps.mono (execMinu_keeps _ _ _) (by decide)
  · exact Keeps.mono (execMaxu_keeps _ _ _) (by decide)
  · exact Keeps.mono (execAddk_keeps _ _ _) (by decide)
  · exact Keeps.mono (execAndk_keeps _ _ _) (by decide)
  · exact Keeps.mono (execOrk_keeps _ _ _) (by decide)
  · exact Keeps.mono (execXork_keeps _ _ _) (by decide)
  · exact Keeps.mono (execShlk_keeps _ _ _) (by decide)
  · exact Keeps.mono (execShrk_keeps _ _ _) (by decide)
  · exact Keeps.mono (execSark_keeps _ _ _) (by decide)
  · exact Keeps.mono (execRork_keeps _ _ _) (by decide)
  · exact Keeps.mono (execKset_keeps _ _ _) (by decide)
  · exact Keeps.mono (execKsh_keeps _ _ _) (by decide)
  · exact Keeps.mono (execLdu1_keeps _ _ _) (by decide)
  · exact Keeps.mono (execLdu2_keeps _ _ _) (by decide)
  · exact Keeps.mono (execLdu4_keeps _ _ _) (by decide)
  · exact Keeps.mono (execLd8_keeps _ _ _) (by decide)
  · exact Keeps.mono (execLds1_keeps _ _ _) (by decide)
  · exact Keeps.mono (execLds2_keeps _ _ _) (by decide)
  · exact Keeps.mono (execLds4_keeps _ _ _) (by decide)
  · exact Keeps.mono (execSt1_keeps _ _ _) (by decide)
  · exact Keeps.mono (execSt2_keeps _ _ _) (by decide)
  · exact Keeps.mono (execSt4_keeps _ _ _) (by decide)
  · exact Keeps.mono (execSt8_keeps _ _ _) (by decide)
  · exact Keeps.mono (execBz_keeps _ _ _) (by decide)
  · exact Keeps.mono (execBnz_keeps _ _ _) (by decide)
  · exact Keeps.mono (execBneg_keeps _ _ _) (by decide)
  · exact Keeps.mono (execBnneg_keeps _ _ _) (by decide)
  · exact Keeps.mono (execJmp_keeps _ _ _) (by decide)
  · exact Keeps.mono (execCcCall_keeps _ _ _) (by decide)
  · exact Keeps.mono (execJmpr_keeps _ _ _) (by decide)
  · exact Keeps.mono (execFadd_keeps _ _ _) (by decide)
  · exact Keeps.mono (execFsub_keeps _ _ _) (by decide)
  · exact Keeps.mono (execFmul_keeps _ _ _) (by decide)
  · exact Keeps.mono (execFdiv_keeps _ _ _) (by decide)
  · exact Keeps.mono (execFsqrt_keeps _ _ _) (by decide)
  · exact Keeps.mono (execFmin_keeps _ _ _) (by decide)
  · exact Keeps.mono (execFmax_keeps _ _ _) (by decide)
  · exact Keeps.mono (execFcmp_keeps _ _ _) (by decide)
  · exact Keeps.mono (execF2i_keeps _ _ _) (by decide)
  · exact Keeps.mono (execI2f_keeps _ _ _) (by decide)
  · exact Keeps.mono (execFbits_keeps _ _ _) (by decide)
  · exact Keeps.mono (execIbits_keeps _ _ _) (by decide)
  · exact Keeps.mono (execFld8_keeps _ _ _) (by decide)
  · exact Keeps.mono (execFst8_keeps _ _ _) (by decide)
  · exact Keeps.mono (execCcCommit_keeps _ _ _) (by decide)
  · exact Keeps.mono (execCcEnd_keeps _ _ _) (by decide)
  · exact Keeps.mono (execCcTime_keeps _ _ _) (by decide)
  · exact Keeps.mono (execCycle_keeps _ _ _) (by decide)
  · exact Keeps.mono (execVtake_keeps _ _ _) (by decide)
  · exact Keeps.mono (execVact_keeps _ _ _) (by decide)
  · exact Keeps.mono (execVadd_keeps _ _ _) (by decide)
  · exact Keeps.mono (execVsub_keeps _ _ _) (by decide)
  · exact Keeps.mono (execVand_keeps _ _ _) (by decide)
  · exact Keeps.mono (execVor_keeps _ _ _) (by decide)
  · exact Keeps.mono (execVxor_keeps _ _ _) (by decide)
  · exact Keeps.mono (execVshl_keeps _ _ _) (by decide)
  · exact Keeps.mono (execVshr_keeps _ _ _) (by decide)
  · exact Keeps.mono (execVsar_keeps _ _ _) (by decide)
  · exact Keeps.mono (execVmul_keeps _ _ _) (by decide)
  · exact Keeps.mono (execVmulhiS_keeps _ _ _) (by decide)
  · exact Keeps.mono (execVmulhiU_keeps _ _ _) (by decide)
  · exact Keeps.mono (execVminu_keeps _ _ _) (by decide)
  · exact Keeps.mono (execVmaxu_keeps _ _ _) (by decide)
  · exact Keeps.mono (execVeq_keeps _ _ _) (by decide)
  · exact Keeps.mono (execVltu_keeps _ _ _) (by decide)
  · exact Keeps.mono (execVblend_keeps _ _ _) (by decide)
  · exact Keeps.mono (execVbyterev_keeps _ _ _) (by decide)
  · exact Keeps.mono (execVectorScalarOp_keeps _ _ _) (by decide)
  · exact Keeps.mono (execVmoveup_keeps _ _ _) (by decide)
  · exact Keeps.mono (execVmovedn_keeps _ _ _) (by decide)
  · exact Keeps.mono (execVput_keeps _ _ _) (by decide)
  · exact Keeps.mono (execVget_keeps _ _ _) (by decide)
  · exact Keeps.mono (execVpick_keeps _ _ _) (by decide)
  · exact Keeps.mono (execVfoldadd_keeps _ _ _) (by decide)
  · exact Keeps.mono (execVfoldxor_keeps _ _ _) (by decide)
  · exact Keeps.mono (execVfoldmaxu_keeps _ _ _) (by decide)
  · exact Keeps.mono (execVload_keeps _ _ _) (by decide)
  · exact Keeps.mono (execVstore_keeps _ _ _) (by decide)
  · exact Keeps.mono (execVloads_keeps _ _ _) (by decide)
  · exact Keeps.mono (execVstores_keeps _ _ _) (by decide)
  · exact Keeps.mono (execVldrec_keeps _ _ _) (by decide)
  · exact Keeps.mono (execVstrec_keeps _ _ _) (by decide)
  · exact Keeps.mono (execCcRecoveryDone_keeps _ _ _) (by decide)
  · exact Keeps.mono (execNop_keeps _ _) (by decide)
  · exact Keeps.mono (execFence_keeps _ _) (by decide)
  · exact Keeps.mono (execRandom_keeps _ _) (by decide)
  · exact Keeps.mono (execReseed_keeps _ _) (by decide)
  · exact Keeps.mono (execAttest_keeps _ _) (by decide)
  · exact Keeps.mono (execMlKemKeygen_keeps _ _) (by decide)
  · exact Keeps.mono (execMlKemEncaps_keeps _ _) (by decide)
  · exact Keeps.mono (execMlKemDecaps_keeps _ _) (by decide)
  · exact Keeps.mono (execMlDsaKeygen_keeps _ _) (by decide)
  · exact Keeps.mono (execMlDsaSign_keeps _ _) (by decide)
  · exact Keeps.mono (execMlDsaVerify_keeps _ _) (by decide)
  · exact Keeps.mono (execSlhDsaKeygen_keeps _ _) (by decide)
  · exact Keeps.mono (execSlhDsaSign_keeps _ _) (by decide)
  · exact Keeps.mono (execSlhDsaVerify_keeps _ _) (by decide)
  · exact Keeps.mono (execLmsKeygen_keeps _ _) (by decide)
  · exact Keeps.mono (execLmsSign_keeps _ _) (by decide)
  · exact Keeps.mono (execLmsVerify_keeps _ _) (by decide)
  · exact Keeps.mono (execLmsIndexQuery_keeps _ _) (by decide)
  · exact Keeps.mono (execXmssKeygen_keeps _ _) (by decide)
  · exact Keeps.mono (execXmssSign_keeps _ _) (by decide)
  · exact Keeps.mono (execXmssVerify_keeps _ _) (by decide)
  · exact Keeps.mono (execXmssIndexQuery_keeps _ _) (by decide)
  · exact Keeps.mono (execMcelieceKeygen_keeps _ _) (by decide)
  · exact Keeps.mono (execMcelieceEncaps_keeps _ _) (by decide)
  · exact Keeps.mono (execMcelieceDecaps_keeps _ _) (by decide)
  · exact Keeps.mono (execEcKeygen_keeps _ _) (by decide)
  · exact Keeps.mono (execEcSign_keeps _ _) (by decide)
  · exact Keeps.mono (execEcVerify_keeps _ _) (by decide)
  · exact Keeps.mono (execAgree_keeps _ _) (by decide)
  · exact Keeps.mono (execRsaKeygen_keeps _ _) (by decide)
  · exact Keeps.mono (execRsaPssSign_keeps _ _) (by decide)
  · exact Keeps.mono (execRsaV15Sign_keeps _ _) (by decide)
  · exact Keeps.mono (execRsaPssVerify_keeps _ _) (by decide)
  · exact Keeps.mono (execRsaV15Verify_keeps _ _) (by decide)
  · exact Keeps.mono (execRsaOaepEncrypt_keeps _ _) (by decide)
  · exact Keeps.mono (execRsaOaepDecrypt_keeps _ _) (by decide)
  · exact Keeps.mono (execHash_keeps _ _) (by decide)
  · exact Keeps.mono (execHmacGenerate_keeps _ _) (by decide)
  · exact Keeps.mono (execHmacVerify_keeps _ _) (by decide)
  · exact Keeps.mono (execKmacGenerate_keeps _ _) (by decide)
  · exact Keeps.mono (execKmacVerify_keeps _ _) (by decide)
  · exact Keeps.mono (execAesGcmEncrypt_keeps _ _) (by decide)
  · exact Keeps.mono (execAesGcmDecrypt_keeps _ _) (by decide)
  · exact Keeps.mono (execAesCtr_keeps _ _) (by decide)
  · exact Keeps.mono (execAesXtsEncrypt_keeps _ _) (by decide)
  · exact Keeps.mono (execAesXtsDecrypt_keeps _ _) (by decide)
  · exact Keeps.mono (execKdfCounterHmac_keeps _ _) (by decide)
  · exact Keeps.mono (execKdfKmac256_keeps _ _) (by decide)
  · exact Keeps.mono (execHkdf_keeps _ _) (by decide)
  · exact Keeps.mono (execHkdfExpand_keeps _ _) (by decide)
  · exact Keeps.mono (execGenerate_keeps _ _) (by decide)
  · exact Keeps.mono (execImportWrapped_keeps _ _) (by decide)
  · exact Keeps.mono (execImportClear_keeps _ _) (by decide)
  · exact Keeps.mono (execExportWrapped_keeps _ _) (by decide)
  · exact Keeps.mono (execExportPublic_keeps _ _) (by decide)
  · exact Keeps.mono (execRestrict_keeps _ _) (by decide)
  · exact Keeps.mono (execDelete_keeps _ _) (by decide)
  · exact Keeps.mono (execHybridKeygen_keeps _ _) (by decide)
  · exact Keeps.mono (execHybridEncaps_keeps _ _) (by decide)
  · exact Keeps.mono (execHybridDecaps_keeps _ _) (by decide)
  · exact Keeps.mono (execOwnerOpcode_keeps _ _) (by decide)
  · exact Keeps.mono (execQuery_keeps _) (by decide)
  · exact Keeps.mono (execPlace_keeps _) (by decide)
  · exact Keeps.mono (execSpringHealthFail_keeps _ _ _) (by decide)
  · exact Keeps.mono (execSpringFirstSeed_keeps _ _ _ _) (by decide)
  · exact Keeps.mono (execSpringBlockReset_keeps _ _) (by decide)
  · exact Keeps.mono (execSpringBlockResetDone_keeps _ _ _ _) (by decide)
  · exact Keeps.mono (execReseedAll_keeps _) (by decide)
  · exact Keeps.mono (execSpringFailAgeOut_keeps _) (by decide)
  · exact Keeps.mono (execConditionerOutput_keeps _ _) (by decide)
  · exact Keeps.mono (execDrbgGenerate_keeps _ _) (by decide)
  · exact Keeps.mono (execDrbgReseed_keeps _) (by decide)
  · exact Keeps.mono (execMaskExpanderReseed_keeps _ _) (by decide)
  · exact Keeps.mono (execBlindingBufferRefill_keeps _ _) (by decide)
  · exact Keeps.mono (execRndFifoRefill_keeps _ _) (by decide)
  · exact Keeps.mono (execRndDataLoRead_keeps _ _) (by decide)
  · exact Keeps.mono (execRndDataHiRead_keeps _ _) (by decide)
  · exact Keeps.mono (execSprTestWrite_keeps _ _) (by decide)
  · exact Keeps.mono (execHbmRead_keeps _ _ _ _ _) (by decide)
  · exact Keeps.mono (execHbmWrite_keeps _ _ _ _) (by decide)
  · exact Keeps.mono (execHbmPartialWrite_keeps _ _ _ _ _ _ _) (by decide)
  · exact Keeps.mono (execPatrolScrub_keeps _ _ _) (by decide)
  · exact Keeps.mono (execPortLockLoss_keeps _ _) (by decide)
  · exact Keeps.mono (execPortRetrain_keeps _ _) (by decide)
  · exact Keeps.mono (execProbeSend_keeps _ _) (by decide)
  · exact Keeps.mono (execProbe_keeps _ _ _ _) (by decide)
  · exact Keeps.mono (execHello_keeps _ _ _ _) (by decide)
  · exact Keeps.mono (execReply_keeps _ _ _ _) (by decide)
  · exact Keeps.mono (execFinish_keeps _ _ _) (by decide)
  · exact Keeps.mono (execHandshakeResend_keeps _ _) (by decide)
  · exact Keeps.mono (execHandshakeTimeout_keeps _ _) (by decide)
  · exact Keeps.mono (execRekey_keeps _ _) (by decide)
  · exact Keeps.mono (execMessageForward_keeps _ _ _ _ _) (by decide)
  · exact Keeps.mono (execFloodForward_keeps _ _ _ _ _) (by decide)
  · exact Keeps.mono (execTimeExchange_keeps _ _) (by decide)
  · exact Keeps.mono (execTime_keeps _ _ _) (by decide)
  · exact Keeps.mono (execAlarm_keeps _ _ _) (by decide)
  · exact Keeps.mono (execFenced_keeps _ _ _) (by decide)
  · exact Keeps.mono (execTrigger_keeps _ _ _) (by decide)
  · exact Keeps.mono (execFwActivate_keeps _ _ _ _ _ _) (by decide)
  · exact Keeps.mono (execLeaseReq_keeps _ _ _ _) (by decide)
  · exact Keeps.mono (execLeaseGrant_keeps _ _ _ _ _ _) (by decide)
  · exact Keeps.mono (execLeaseGrantTimeout_keeps _ _) (by decide)
  · exact Keeps.mono (execRefuse_keeps _ _ _ _) (by decide)
  · exact Keeps.mono (execAdvertSend_keeps _ _) (by decide)
  · exact Keeps.mono (execAdvert_keeps _ _ _) (by decide)
  · exact Keeps.mono (execKeyRepl_keeps _ _ _ _) (by decide)
  · exact Keeps.mono (execKeyPlace_keeps _ _ _ _) (by decide)
  · exact Keeps.mono (execPpsInEdge_keeps _) (by decide)
  · exact Keeps.mono (execCflTimeSet_keeps _ _) (by decide)
  · exact Keeps.mono (execTestLock_keeps _) (by decide)
  · exact Keeps.mono (execTestUnlock_keeps _) (by decide)
  · exact Keeps.mono (execPersonalise_keeps _) (by decide)
  · exact Keeps.mono (execTakeOwnership_keeps _) (by decide)
  · exact Keeps.mono (execFieldReturn_keeps _) (by decide)
  · exact Keeps.mono (execScrap_keeps _) (by decide)
  · exact Keeps.mono (execFusePulseEnd_keeps _) (by decide)
  · exact Keeps.mono (execEraseStepDone_keeps _) (by decide)
  · exact Keeps.mono (execLcsLockoutEnd_keeps _) (by decide)
  · exact Keeps.mono (execJtagTapInstruction_keeps _ _) (by decide)
  · exact Keeps.mono (execTrstN_keeps _) (by decide)
  · exact Keeps.mono (execLeveeDetectorEvent_keeps _ _ _) (by decide)
  · exact Keeps.mono (execDetectorDisagreement_keeps _ _) (by decide)
  · exact Keeps.mono (execLeveeWindowExpiry_keeps _ _) (by decide)
  · exact Keeps.mono (execGatheringIntervalEnd_keeps _) (by decide)
  · exact Keeps.mono (execLog_keeps _) (by decide)
  · exact Keeps.mono (execEvent_keeps _) (by decide)
  · exact Keeps.mono (execAlarmOut_keeps _) (by decide)
  · exact Keeps.mono (execThrottle_keeps _) (by decide)
  · exact Keeps.mono (execClearVolatileKeys_keeps _) (by decide)
  · exact Keeps.mono (execFenceAction_keeps _) (by decide)
  · exact Keeps.mono (execClearAll_keeps _) (by decide)
  · exact Keeps.mono (execHalt_keeps _) (by decide)
  · exact Keeps.mono (execResetAction_keeps _) (by decide)
  · exact Keeps.mono (execLeveeUnlatch_keeps _ _) (by decide)
  · exact Keeps.mono (execLevBistCmd_keeps _ _ _) (by decide)
  · exact Keeps.mono (execBistSchedule_keeps _ _ _) (by decide)
  · exact Keeps.mono (execBistVerdict_keeps _ _) (by decide)
  · exact Keeps.mono (execBatterySample_keeps _ _ _) (by decide)
  · exact Keeps.mono (execPtTileReset_keeps _) (by decide)
  · exact Keeps.mono (execHtTileReset_keeps _) (by decide)
  · exact Keeps.mono (execBnuUnitReset_keeps _) (by decide)
  · exact Keeps.mono (execCcCoreReset_keeps _) (by decide)
  · exact Keeps.mono (execCuReset_keeps _ _) (by decide)
  · exact Keeps.mono (execBasinDrain_keeps _ _) (by decide)
  · exact Keeps.mono (execBasinDrained_keeps _ _) (by decide)
  · exact Keeps.mono (execBasinReset_keeps _ _) (by decide)
  · exact Keeps.mono (execBasinResume_keeps _ _) (by decide)
  · exact Keeps.mono (execStage_keeps _) (by decide)
  · exact Keeps.mono (execStagingComplete_keeps _ _ _) (by decide)
  · exact Keeps.mono (execArm_keeps _) (by decide)
  · exact Keeps.mono (execCancel_keeps _) (by decide)
  · exact Keeps.mono (execFwDiscard_keeps _) (by decide)
  · exact Keeps.mono (execRequireCosign_keeps _) (by decide)
  · exact Keeps.mono (execActivationInstant_keeps _) (by decide)
  · exact Keeps.mono (execFwDrainComplete_keeps _) (by decide)
  · exact Keeps.mono (execFwDrainLimit_keeps _) (by decide)
  · exact Keeps.mono (execWarmRestartDone_keeps _ _) (by decide)
  · exact Keeps.mono (execFwConfirm_keeps _) (by decide)
  · exact Keeps.mono (execConfirmWindowEnd_keeps _) (by decide)
  · exact Keeps.mono (execEventCoalTimer_keeps _ _) (by decide)
  · exact Keeps.mono (execEventMaskWrite_keeps _ _ _) (by decide)
  · exact Keeps.mono (execTrigIn_keeps _) (by decide)
  · exact Keeps.mono (execCapture_keeps _) (by decide)
  · exact Keeps.mono (execRelease_keeps _) (by decide)
  · exact Keeps.mono (execReplan_keeps _ _) (by decide)
  · exact Keeps.mono (execScheduledReplan_keeps _ _) (by decide)
  · exact Keeps.mono (execReplanRetry_keeps _ _) (by decide)
  · exact Keeps.mono (execVcoreStep_keeps _ _) (by decide)
  · exact Keeps.mono (execPmbusFault_keeps _ _ _) (by decide)
  · exact Keeps.mono (execThermThreshold_keeps _ _) (by decide)
  · exact Keeps.mono (execPwrServiceDaysWrite_keeps _ _) (by decide)
  · exact Keeps.mono (execRead32_keeps _ _) (by decide)
  · exact Keeps.mono (execReadMulti_keeps _ _ _) (by decide)
  · exact Keeps.mono (execMgmtSelect_keeps _ _ _) (by decide)
  · exact Keeps.mono (execReadAoLog_keeps _ _) (by decide)
  · exact Keeps.mono (execSmbAlertResponse_keeps _) (by decide)
  · exact Keeps.mono (execRemoveReachDone_keeps _ _) (by decide)
  · exact Keeps.mono (execResetInputRelease_keeps _ _) (by decide)
  · exact Keeps.mono (execAlwaysOnStateLost_keeps _) (by decide)
  · exact Keeps.mono (execTrigOutPulseEnd_keeps _) (by decide)
  · exact Keeps.mono (execLeveeConditionClear_keeps _ _ _) (by decide)
  · exact Keeps.mono (execLinkFrameTagFail_keeps _ _) (by decide)
  · exact Keeps.mono (execPortTrainingDone_keeps _ _ _) (by decide)

end Sys2Proof.Machine
end

