-- ==== Sys2Proof/Laws/FrameStep.lean ====
section
/-! SUPPORT. What each operation of Machine/Step.lean can touch. -/

namespace Sys2Proof.Machine

open Sys2Proof

theorem State.withFetchWord_keeps (s : State) (nbits w : Nat) : Keeps [.pending] s (State.withFetchWord s nbits w)
    := by
  unfold State.withFetchWord
  split
  · exact Keeps.refl _ _
  · exact Keeps.mono (Keeps.set_pending _ _) (by decide)

end Sys2Proof.Machine
end

