-- ==== Sys2Proof/Laws/Memory.lean ====
section
/-! SUPPORT. Byte memories: what a read after a write gives, and that writes keep the canonical form (R362). -/

namespace Sys2Proof.Machine

open Sys2Proof

theorem memGet_cons (k : Nat) (v : Byte) (t : List Host.Cell) (a : Nat) :
    memGet ((k, v) :: t) a = if k = a then v else if a < k then 0 else memGet t a := rfl

/-- Below every listed address, memory reads as zero. -/
theorem memGet_above {a b : Nat} : ∀ {m : List Host.Cell}, memAbove a m = true → b ≤ a → memGet m b = 0
  | [], _, _ => rfl
  | (k, v) :: t, h, hb => by
    simp only [memAbove, List.all_cons, Bool.and_eq_true, decide_eq_true_eq] at h
    unfold memGet
    rw [if_neg (by omega), if_pos (by omega)]

/-- A byte written is read back. -/
theorem memGet_memSet_same (a : Nat) (b : Byte) : ∀ {m : List Host.Cell}, memWf m = true → memGet (memSet m a b) a = b
  | [], _ => by
    unfold memSet
    split
    · next h => subst h; rfl
    · simp [memGet]
  | (k, v) :: t, h => by
    simp only [memWf, Bool.and_eq_true] at h
    unfold memSet
    split
    · next hk =>
      split
      · next hb => subst hb; unfold memGet; rw [if_neg (by omega), if_pos hk]
      · simp [memGet]
    · split
      · next _ hk =>
        subst hk
        split
        · next hb => subst hb; exact memGet_above h.1.2 (Nat.le_refl _)
        · simp [memGet]
      · next h1 h2 =>
        unfold memGet
        rw [if_neg (by omega), if_neg h1]
        exact memGet_memSet_same a b h.2

/-- Every other byte reads as before. -/
theorem memGet_memSet_other {a c : Nat} (b : Byte) (hc : a ≠ c) :
    ∀ {m : List Host.Cell}, memWf m = true → memGet (memSet m a b) c = memGet m c
  | [], _ => by
    unfold memSet
    split
    · rfl
    · unfold memGet; rw [if_neg hc]; split <;> rfl
  | (k, v) :: t, h => by
    simp only [memWf, Bool.and_eq_true] at h
    unfold memSet
    split
    · next hk =>
      split
      · rfl
      · show memGet ((a, b) :: (k, v) :: t) c = _
        unfold memGet
        rw [if_neg hc]
        split
        · next h2 => rw [if_neg (by omega), if_pos (by omega)]
        · rfl
    · split
      · next _ hk =>
        subst hk
        split
        · show memGet t c = memGet ((a, v) :: t) c
          rw [memGet_cons, if_neg hc]
          split
          · next h2 => exact memGet_above h.1.2 (Nat.le_of_lt h2)
          · rfl
        · rw [memGet_cons, memGet_cons, if_neg hc, if_neg hc]
      · unfold memGet
        rw [memGet_memSet_other b hc h.2]

theorem memAbove_memSet {a k : Nat} (b : Byte) (h : k < a) :
    ∀ {m : List Host.Cell}, memAbove k m = true → memAbove k (memSet m a b) = true
  | [], _ => by unfold memSet; split <;> simp [memAbove, h]
  | (j, v) :: t, hm => by
    have hm' := hm
    simp only [memAbove, List.all_cons, Bool.and_eq_true, decide_eq_true_eq] at hm'
    unfold memSet
    split
    · split
      · exact hm
      · simp only [memAbove, List.all_cons, Bool.and_eq_true, decide_eq_true_eq]; exact ⟨h, hm'⟩
    · split
      · split
        · exact hm'.2
        · simp only [memAbove, List.all_cons, Bool.and_eq_true, decide_eq_true_eq]; exact ⟨h, hm'.2⟩
      · have := memAbove_memSet b h (m := t) hm'.2
        simp only [memAbove, List.all_cons, Bool.and_eq_true, decide_eq_true_eq] at this ⊢
        exact ⟨hm'.1, this⟩

theorem memAbove_trans {a b : Nat} (h : a < b) {m : List Host.Cell} (hm : memAbove b m = true) : memAbove a m = true := by
  simp only [memAbove, List.all_eq_true, decide_eq_true_eq] at hm ⊢
  exact fun x hx => Nat.lt_trans h (hm x hx)

/-- Writing a byte keeps the canonical form. -/
theorem memWf_memSet (a : Nat) (b : Byte) : ∀ {m : List Host.Cell}, memWf m = true → memWf (memSet m a b) = true
  | [], _ => by
    unfold memSet
    split
    · rfl
    · next h => simpa [memWf, memAbove] using h
  | (k, v) :: t, h => by
    have h0 := h
    simp only [memWf, Bool.and_eq_true] at h
    unfold memSet
    split
    · next hk =>
      split
      · exact h0
      · next hb =>
        simp only [memWf, Bool.and_eq_true, bne_iff_ne, ne_eq]
        refine ⟨⟨hb, ?_⟩, ⟨by simpa using h.1.1, h.1.2⟩, h.2⟩
        have := memAbove_trans hk h.1.2
        simp only [memAbove, List.all_cons, Bool.and_eq_true, decide_eq_true_eq] at this ⊢
        exact ⟨hk, this⟩
    · split
      · next _ hk =>
        subst hk
        split
        · exact h.2
        · next hb =>
          simp only [memWf, Bool.and_eq_true, bne_iff_ne, ne_eq]
          exact ⟨⟨hb, h.1.2⟩, h.2⟩
      · next h1 h2 =>
        simp only [memWf, Bool.and_eq_true]
        exact ⟨⟨h.1.1, memAbove_memSet b (by omega) h.1.2⟩, memWf_memSet a b h.2⟩

/-- Writing a byte string keeps the canonical form. -/
theorem memWf_memWrite : ∀ (bs : Bytes) (a : Nat) {m : List Host.Cell}, memWf m = true → memWf (memWrite m a bs) = true
  | [], _, _, h => h
  | b :: bs, a, _, h => memWf_memWrite bs (a + 1) (memWf_memSet a b h)

/-- Outside the bytes written, memory reads as before. -/
theorem memGet_memWrite_other {c : Nat} : ∀ (bs : Bytes) (a : Nat) {m : List Host.Cell}, memWf m = true →
    (c < a ∨ a + bs.length ≤ c) → memGet (memWrite m a bs) c = memGet m c
  | [], _, _, _, _ => rfl
  | b :: bs, a, m, h, hc => by
    simp only [List.length_cons] at hc
    unfold memWrite
    rw [memGet_memWrite_other bs (a + 1) (memWf_memSet a b h) (by omega)]
    exact memGet_memSet_other b (by omega) h

/-- Inside the bytes written, memory reads as what was written. -/
theorem memGet_memWrite : ∀ (bs : Bytes) (a i : Nat) {m : List Host.Cell}, memWf m = true → (h : i < bs.length) →
    memGet (memWrite m a bs) (a + i) = bs[i]
  | [], _, _, _, _, h => by simp at h
  | b :: bs, a, 0, m, hm, _ => by
    unfold memWrite
    rw [Nat.add_zero, memGet_memWrite_other bs (a + 1) (memWf_memSet a b hm) (.inl (by omega))]
    exact memGet_memSet_same a b hm
  | b :: bs, a, i + 1, m, hm, h => by
    unfold memWrite
    have := memGet_memWrite bs (a + 1) i (memWf_memSet a b hm) (by simpa using h)
    rw [show a + (i + 1) = a + 1 + i by omega, this]
    rfl

end Sys2Proof.Machine
end

