-- ==== Sys2Proof/Laws/Tables.lean ====
section
/-! SUPPORT. Reading a table after writing it: the entry written, and every other entry. -/

namespace Sys2Proof.Machine

open Sys2Proof

@[simp] theorem tget_tset_same {α : Type} (d : α) : ∀ (t : Tbl α) (k : Nat) (v : α), tget d (tset t k v) k = v
  | [], k, v => by simp [tset, tget]
  | (j, w) :: t, k, v => by
    unfold tset
    split
    · simp [tget]
    · split
      · simp [tget]
      · rw [tget, if_neg (by omega)]
        exact tget_tset_same d t k v

theorem tget_tset_other {α : Type} (d : α) : ∀ (t : Tbl α) (k j : Nat) (v : α), k ≠ j → tget d (tset t k v) j = tget d t j
  | [], k, j, v, h => by simp [tset, tget, h]
  | (i, w) :: t, k, j, v, h => by
    unfold tset
    split
    · rw [tget, if_neg h]
    · split
      · next h2 => subst h2; simp [tget, h]
      · simp only [tget]
        rw [tget_tset_other d t k j v h]

theorem tget_tset {α : Type} (d : α) (t : Tbl α) (k j : Nat) (v : α) :
    tget d (tset t k v) j = if k = j then v else tget d t j := by
  split
  · next h => subst h; exact tget_tset_same d t k v
  · next h => exact tget_tset_other d t k j v h

end Sys2Proof.Machine
end

