-- ==== Sys2Proof/Laws/State.lean ====
section
/-! SUPPORT. What the setters of State leave in each table and in every other field. -/

namespace Sys2Proof.Machine

open Sys2Proof

/-! ## Reading back -/

theorem State.fn_setFn (s : State) (k j : Nat) (x : FnState) :
    (s.setFn k x).fn j = if k = j then x else s.fn j := tget_tset _ _ _ _ _

@[simp] theorem State.fn_setFn_same (s : State) (k : Nat) (x : FnState) : (s.setFn k x).fn k = x :=
  tget_tset_same _ _ _ _

theorem State.reach_setReach (s : State) (k j : Nat) (x : ReachState) :
    (s.setReach k x).reach j = if k = j then x else s.reach j := tget_tset _ _ _ _ _

@[simp] theorem State.reach_setReach_same (s : State) (k : Nat) (x : ReachState) : (s.setReach k x).reach k = x :=
  tget_tset_same _ _ _ _

theorem State.queue_setQueue (s : State) (k j : Nat) (x : Queue) :
    (s.setQueue k x).queue j = if k = j then x else s.queue j := tget_tset _ _ _ _ _

@[simp] theorem State.queue_setQueue_same (s : State) (k : Nat) (x : Queue) : (s.setQueue k x).queue k = x :=
  tget_tset_same _ _ _ _

theorem State.slot_setSlot (s : State) (k j : Nat) (x : Slot) :
    (s.setSlot k x).slot j = if k = j then x else s.slot j := tget_tset _ _ _ _ _

@[simp] theorem State.slot_setSlot_same (s : State) (k : Nat) (x : Slot) : (s.setSlot k x).slot k = x :=
  tget_tset_same _ _ _ _

theorem State.tile_setTile (s : State) (k j : Nat) (x : Tile) :
    (s.setTile k x).tile j = if k = j then x else s.tile j := tget_tset _ _ _ _ _

@[simp] theorem State.tile_setTile_same (s : State) (k : Nat) (x : Tile) : (s.setTile k x).tile k = x :=
  tget_tset_same _ _ _ _

theorem State.core_setCore (s : State) (k j : Nat) (x : Core) :
    (s.setCore k x).core j = if k = j then x else s.core j := tget_tset _ _ _ _ _

@[simp] theorem State.core_setCore_same (s : State) (k : Nat) (x : Core) : (s.setCore k x).core k = x :=
  tget_tset_same _ _ _ _

theorem State.port_setPort (s : State) (k j : Nat) (x : Port) :
    (s.setPort k x).port j = if k = j then x else s.port j := tget_tset _ _ _ _ _

@[simp] theorem State.port_setPort_same (s : State) (k : Nat) (x : Port) : (s.setPort k x).port k = x :=
  tget_tset_same _ _ _ _

theorem State.source_setSource (s : State) (k j : Nat) (x : EvtSrc) :
    (s.setSource k x).source j = if k = j then x else s.source j := tget_tset _ _ _ _ _

@[simp] theorem State.source_setSource_same (s : State) (k : Nat) (x : EvtSrc) : (s.setSource k x).source k = x :=
  tget_tset_same _ _ _ _

theorem State.drbg_setDrbg (s : State) (k j : Nat) (x : Drbg) :
    (s.setDrbg k x).drbg j = if k = j then x else s.drbg j := tget_tset _ _ _ _ _

@[simp] theorem State.drbg_setDrbg_same (s : State) (k : Nat) (x : Drbg) : (s.setDrbg k x).drbg k = x :=
  tget_tset_same _ _ _ _

theorem State.basin_setBasin (s : State) (k j : Nat) (x : BasinSt) :
    (s.setBasin k x).basin j = if k = j then x else s.basin j := tget_tset _ _ _ _ _

@[simp] theorem State.basin_setBasin_same (s : State) (k : Nat) (x : BasinSt) : (s.setBasin k x).basin k = x :=
  tget_tset_same _ _ _ _

theorem State.exp_setExp (s : State) (k j : Nat) (x : Expander) :
    (s.setExp k x).exp j = if k = j then x else s.exp j := tget_tset _ _ _ _ _

@[simp] theorem State.exp_setExp_same (s : State) (k : Nat) (x : Expander) : (s.setExp k x).exp k = x :=
  tget_tset_same _ _ _ _

theorem State.blind_setBlind (s : State) (k j : Nat) (x : Bytes) :
    (s.setBlind k x).blind j = if k = j then x else s.blind j := tget_tset _ _ _ _ _

@[simp] theorem State.blind_setBlind_same (s : State) (k : Nat) (x : Bytes) : (s.setBlind k x).blind k = x :=
  tget_tset_same _ _ _ _

theorem State.fifo_setFifo (s : State) (k j : Nat) (x : RndFifo) :
    (s.setFifo k x).fifo j = if k = j then x else s.fifo j := tget_tset _ _ _ _ _

@[simp] theorem State.fifo_setFifo_same (s : State) (k : Nat) (x : RndFifo) : (s.setFifo k x).fifo k = x :=
  tget_tset_same _ _ _ _

theorem State.store_setStore (s : State) (k j : Nat) (x : CtlStore) :
    (s.setStore k x).store j = if k = j then x else s.store j := tget_tset _ _ _ _ _

@[simp] theorem State.store_setStore_same (s : State) (k : Nat) (x : CtlStore) : (s.setStore k x).store k = x :=
  tget_tset_same _ _ _ _

theorem find_map_job (j : Job) : ∀ xs : List Job, (∃ x, xs.find? (fun y => y.id == j.id) = some x) →
    (xs.map fun x => if x.id = j.id then j else x).find? (fun y => y.id == j.id) = some j
  | [], h => by simp at h
  | y :: ys, h => by
    by_cases e : y.id = j.id
    · simp [e]
    · have b : (y.id == j.id) = false := by simpa using e
      simp only [List.find?_cons, b] at h
      simp only [List.map_cons, e, if_false, List.find?_cons, b]
      exact find_map_job j ys h

theorem find_map_other (j : Job) (k : Nat) (h : j.id ≠ k) : ∀ xs : List Job,
    (xs.map fun x => if x.id = j.id then j else x).find? (fun y => y.id == k) = xs.find? (fun y => y.id == k)
  | [] => rfl
  | y :: ys => by
    have ih := find_map_other j k h ys
    by_cases e : y.id = j.id
    · simp only [List.map_cons, e, if_true, List.find?_cons, ih]
      rw [show (j.id == k) = false by simpa using h]
    · simp only [List.map_cons, e, if_false, List.find?_cons, ih]

/-- A job written is the job read, where its number was known. -/
theorem State.job_setJob_same (s : State) (j : Job) (h : ∃ x, s.job j.id = some x) :
    (s.setJob j).job j.id = some j := find_map_job j s.jobs h

/-- Writing a job leaves every job of another number. -/
theorem State.job_setJob_other (s : State) (j : Job) (k : Nat) (h : j.id ≠ k) : (s.setJob j).job k = s.job k :=
  find_map_other j k h s.jobs

/-! ## Fields that a setter leaves -/

section

variable (s : State) (k : Nat) (x : FnState)

@[simp] theorem State.setFn_now : (s.setFn k x).now = s.now := rfl
@[simp] theorem State.setFn_wsh : (s.setFn k x).wsh = s.wsh := rfl
@[simp] theorem State.setFn_cfg : (s.setFn k x).cfg = s.cfg := rfl
@[simp] theorem State.setFn_glb : (s.setFn k x).glb = s.glb := rfl
@[simp] theorem State.setFn_reaches : (s.setFn k x).reaches = s.reaches := rfl
@[simp] theorem State.setFn_queues : (s.setFn k x).queues = s.queues := rfl
@[simp] theorem State.setFn_jobs : (s.setFn k x).jobs = s.jobs := rfl
@[simp] theorem State.setFn_runs : (s.setFn k x).runs = s.runs := rfl
@[simp] theorem State.setFn_weir : (s.setFn k x).weir = s.weir := rfl
@[simp] theorem State.setFn_kst : (s.setFn k x).kst = s.kst := rfl
@[simp] theorem State.setFn_slots : (s.setFn k x).slots = s.slots := rfl
@[simp] theorem State.setFn_records : (s.setFn k x).records = s.records := rfl
@[simp] theorem State.setFn_spr : (s.setFn k x).spr = s.spr := rfl
@[simp] theorem State.setFn_tiles : (s.setFn k x).tiles = s.tiles := rfl
@[simp] theorem State.setFn_chainEpoch : (s.setFn k x).chainEpoch = s.chainEpoch := rfl
@[simp] theorem State.setFn_cores : (s.setFn k x).cores = s.cores := rfl
@[simp] theorem State.setFn_parts : (s.setFn k x).parts = s.parts := rfl
@[simp] theorem State.setFn_spans : (s.setFn k x).spans = s.spans := rfl
@[simp] theorem State.setFn_sel : (s.setFn k x).sel = s.sel := rfl
@[simp] theorem State.setFn_stores : (s.setFn k x).stores = s.stores := rfl
@[simp] theorem State.setFn_cprof : (s.setFn k x).cprof = s.cprof := rfl
@[simp] theorem State.setFn_meas : (s.setFn k x).meas = s.meas := rfl
@[simp] theorem State.setFn_measCnt : (s.setFn k x).measCnt = s.measCnt := rfl
@[simp] theorem State.setFn_hbm : (s.setFn k x).hbm = s.hbm := rfl
@[simp] theorem State.setFn_cfl : (s.setFn k x).cfl = s.cfl := rfl
@[simp] theorem State.setFn_evt : (s.setFn k x).evt = s.evt := rfl
@[simp] theorem State.setFn_snp : (s.setFn k x).snp = s.snp := rfl
@[simp] theorem State.setFn_fuse : (s.setFn k x).fuse = s.fuse := rfl
@[simp] theorem State.setFn_lcs : (s.setFn k x).lcs = s.lcs := rfl
@[simp] theorem State.setFn_lev : (s.setFn k x).lev = s.lev := rfl
@[simp] theorem State.setFn_rst : (s.setFn k x).rst = s.rst := rfl
@[simp] theorem State.setFn_ao : (s.setFn k x).ao = s.ao := rfl
@[simp] theorem State.setFn_ledger : (s.setFn k x).ledger = s.ledger := rfl
@[simp] theorem State.setFn_fwu : (s.setFn k x).fwu = s.fwu := rfl
@[simp] theorem State.setFn_pwr : (s.setFn k x).pwr = s.pwr := rfl
@[simp] theorem State.setFn_pins : (s.setFn k x).pins = s.pins := rfl
@[simp] theorem State.setFn_mgmt : (s.setFn k x).mgmt = s.mgmt := rfl
@[simp] theorem State.setFn_tx : (s.setFn k x).tx = s.tx := rfl
@[simp] theorem State.setFn_pending : (s.setFn k x).pending = s.pending := rfl

end

section

variable (s : State) (k : Nat) (x : ReachState)

@[simp] theorem State.setReach_now : (s.setReach k x).now = s.now := rfl
@[simp] theorem State.setReach_wsh : (s.setReach k x).wsh = s.wsh := rfl
@[simp] theorem State.setReach_cfg : (s.setReach k x).cfg = s.cfg := rfl
@[simp] theorem State.setReach_glb : (s.setReach k x).glb = s.glb := rfl
@[simp] theorem State.setReach_fns : (s.setReach k x).fns = s.fns := rfl
@[simp] theorem State.setReach_queues : (s.setReach k x).queues = s.queues := rfl
@[simp] theorem State.setReach_jobs : (s.setReach k x).jobs = s.jobs := rfl
@[simp] theorem State.setReach_runs : (s.setReach k x).runs = s.runs := rfl
@[simp] theorem State.setReach_weir : (s.setReach k x).weir = s.weir := rfl
@[simp] theorem State.setReach_kst : (s.setReach k x).kst = s.kst := rfl
@[simp] theorem State.setReach_slots : (s.setReach k x).slots = s.slots := rfl
@[simp] theorem State.setReach_records : (s.setReach k x).records = s.records := rfl
@[simp] theorem State.setReach_spr : (s.setReach k x).spr = s.spr := rfl
@[simp] theorem State.setReach_tiles : (s.setReach k x).tiles = s.tiles := rfl
@[simp] theorem State.setReach_chainEpoch : (s.setReach k x).chainEpoch = s.chainEpoch := rfl
@[simp] theorem State.setReach_cores : (s.setReach k x).cores = s.cores := rfl
@[simp] theorem State.setReach_parts : (s.setReach k x).parts = s.parts := rfl
@[simp] theorem State.setReach_spans : (s.setReach k x).spans = s.spans := rfl
@[simp] theorem State.setReach_sel : (s.setReach k x).sel = s.sel := rfl
@[simp] theorem State.setReach_stores : (s.setReach k x).stores = s.stores := rfl
@[simp] theorem State.setReach_cprof : (s.setReach k x).cprof = s.cprof := rfl
@[simp] theorem State.setReach_meas : (s.setReach k x).meas = s.meas := rfl
@[simp] theorem State.setReach_measCnt : (s.setReach k x).measCnt = s.measCnt := rfl
@[simp] theorem State.setReach_hbm : (s.setReach k x).hbm = s.hbm := rfl
@[simp] theorem State.setReach_cfl : (s.setReach k x).cfl = s.cfl := rfl
@[simp] theorem State.setReach_evt : (s.setReach k x).evt = s.evt := rfl
@[simp] theorem State.setReach_snp : (s.setReach k x).snp = s.snp := rfl
@[simp] theorem State.setReach_fuse : (s.setReach k x).fuse = s.fuse := rfl
@[simp] theorem State.setReach_lcs : (s.setReach k x).lcs = s.lcs := rfl
@[simp] theorem State.setReach_lev : (s.setReach k x).lev = s.lev := rfl
@[simp] theorem State.setReach_rst : (s.setReach k x).rst = s.rst := rfl
@[simp] theorem State.setReach_ao : (s.setReach k x).ao = s.ao := rfl
@[simp] theorem State.setReach_ledger : (s.setReach k x).ledger = s.ledger := rfl
@[simp] theorem State.setReach_fwu : (s.setReach k x).fwu = s.fwu := rfl
@[simp] theorem State.setReach_pwr : (s.setReach k x).pwr = s.pwr := rfl
@[simp] theorem State.setReach_pins : (s.setReach k x).pins = s.pins := rfl
@[simp] theorem State.setReach_mgmt : (s.setReach k x).mgmt = s.mgmt := rfl
@[simp] theorem State.setReach_tx : (s.setReach k x).tx = s.tx := rfl
@[simp] theorem State.setReach_pending : (s.setReach k x).pending = s.pending := rfl

end

section

variable (s : State) (k : Nat) (x : Queue)

@[simp] theorem State.setQueue_now : (s.setQueue k x).now = s.now := rfl
@[simp] theorem State.setQueue_wsh : (s.setQueue k x).wsh = s.wsh := rfl
@[simp] theorem State.setQueue_cfg : (s.setQueue k x).cfg = s.cfg := rfl
@[simp] theorem State.setQueue_glb : (s.setQueue k x).glb = s.glb := rfl
@[simp] theorem State.setQueue_fns : (s.setQueue k x).fns = s.fns := rfl
@[simp] theorem State.setQueue_reaches : (s.setQueue k x).reaches = s.reaches := rfl
@[simp] theorem State.setQueue_jobs : (s.setQueue k x).jobs = s.jobs := rfl
@[simp] theorem State.setQueue_runs : (s.setQueue k x).runs = s.runs := rfl
@[simp] theorem State.setQueue_weir : (s.setQueue k x).weir = s.weir := rfl
@[simp] theorem State.setQueue_kst : (s.setQueue k x).kst = s.kst := rfl
@[simp] theorem State.setQueue_slots : (s.setQueue k x).slots = s.slots := rfl
@[simp] theorem State.setQueue_records : (s.setQueue k x).records = s.records := rfl
@[simp] theorem State.setQueue_spr : (s.setQueue k x).spr = s.spr := rfl
@[simp] theorem State.setQueue_tiles : (s.setQueue k x).tiles = s.tiles := rfl
@[simp] theorem State.setQueue_chainEpoch : (s.setQueue k x).chainEpoch = s.chainEpoch := rfl
@[simp] theorem State.setQueue_cores : (s.setQueue k x).cores = s.cores := rfl
@[simp] theorem State.setQueue_parts : (s.setQueue k x).parts = s.parts := rfl
@[simp] theorem State.setQueue_spans : (s.setQueue k x).spans = s.spans := rfl
@[simp] theorem State.setQueue_sel : (s.setQueue k x).sel = s.sel := rfl
@[simp] theorem State.setQueue_stores : (s.setQueue k x).stores = s.stores := rfl
@[simp] theorem State.setQueue_cprof : (s.setQueue k x).cprof = s.cprof := rfl
@[simp] theorem State.setQueue_meas : (s.setQueue k x).meas = s.meas := rfl
@[simp] theorem State.setQueue_measCnt : (s.setQueue k x).measCnt = s.measCnt := rfl
@[simp] theorem State.setQueue_hbm : (s.setQueue k x).hbm = s.hbm := rfl
@[simp] theorem State.setQueue_cfl : (s.setQueue k x).cfl = s.cfl := rfl
@[simp] theorem State.setQueue_evt : (s.setQueue k x).evt = s.evt := rfl
@[simp] theorem State.setQueue_snp : (s.setQueue k x).snp = s.snp := rfl
@[simp] theorem State.setQueue_fuse : (s.setQueue k x).fuse = s.fuse := rfl
@[simp] theorem State.setQueue_lcs : (s.setQueue k x).lcs = s.lcs := rfl
@[simp] theorem State.setQueue_lev : (s.setQueue k x).lev = s.lev := rfl
@[simp] theorem State.setQueue_rst : (s.setQueue k x).rst = s.rst := rfl
@[simp] theorem State.setQueue_ao : (s.setQueue k x).ao = s.ao := rfl
@[simp] theorem State.setQueue_ledger : (s.setQueue k x).ledger = s.ledger := rfl
@[simp] theorem State.setQueue_fwu : (s.setQueue k x).fwu = s.fwu := rfl
@[simp] theorem State.setQueue_pwr : (s.setQueue k x).pwr = s.pwr := rfl
@[simp] theorem State.setQueue_pins : (s.setQueue k x).pins = s.pins := rfl
@[simp] theorem State.setQueue_mgmt : (s.setQueue k x).mgmt = s.mgmt := rfl
@[simp] theorem State.setQueue_tx : (s.setQueue k x).tx = s.tx := rfl
@[simp] theorem State.setQueue_pending : (s.setQueue k x).pending = s.pending := rfl

end

section

variable (s : State) (k : Nat) (x : Slot)

@[simp] theorem State.setSlot_now : (s.setSlot k x).now = s.now := rfl
@[simp] theorem State.setSlot_wsh : (s.setSlot k x).wsh = s.wsh := rfl
@[simp] theorem State.setSlot_cfg : (s.setSlot k x).cfg = s.cfg := rfl
@[simp] theorem State.setSlot_glb : (s.setSlot k x).glb = s.glb := rfl
@[simp] theorem State.setSlot_fns : (s.setSlot k x).fns = s.fns := rfl
@[simp] theorem State.setSlot_reaches : (s.setSlot k x).reaches = s.reaches := rfl
@[simp] theorem State.setSlot_queues : (s.setSlot k x).queues = s.queues := rfl
@[simp] theorem State.setSlot_jobs : (s.setSlot k x).jobs = s.jobs := rfl
@[simp] theorem State.setSlot_runs : (s.setSlot k x).runs = s.runs := rfl
@[simp] theorem State.setSlot_weir : (s.setSlot k x).weir = s.weir := rfl
@[simp] theorem State.setSlot_kst : (s.setSlot k x).kst = s.kst := rfl
@[simp] theorem State.setSlot_records : (s.setSlot k x).records = s.records := rfl
@[simp] theorem State.setSlot_spr : (s.setSlot k x).spr = s.spr := rfl
@[simp] theorem State.setSlot_tiles : (s.setSlot k x).tiles = s.tiles := rfl
@[simp] theorem State.setSlot_chainEpoch : (s.setSlot k x).chainEpoch = s.chainEpoch := rfl
@[simp] theorem State.setSlot_cores : (s.setSlot k x).cores = s.cores := rfl
@[simp] theorem State.setSlot_parts : (s.setSlot k x).parts = s.parts := rfl
@[simp] theorem State.setSlot_spans : (s.setSlot k x).spans = s.spans := rfl
@[simp] theorem State.setSlot_sel : (s.setSlot k x).sel = s.sel := rfl
@[simp] theorem State.setSlot_stores : (s.setSlot k x).stores = s.stores := rfl
@[simp] theorem State.setSlot_cprof : (s.setSlot k x).cprof = s.cprof := rfl
@[simp] theorem State.setSlot_meas : (s.setSlot k x).meas = s.meas := rfl
@[simp] theorem State.setSlot_measCnt : (s.setSlot k x).measCnt = s.measCnt := rfl
@[simp] theorem State.setSlot_hbm : (s.setSlot k x).hbm = s.hbm := rfl
@[simp] theorem State.setSlot_cfl : (s.setSlot k x).cfl = s.cfl := rfl
@[simp] theorem State.setSlot_evt : (s.setSlot k x).evt = s.evt := rfl
@[simp] theorem State.setSlot_snp : (s.setSlot k x).snp = s.snp := rfl
@[simp] theorem State.setSlot_fuse : (s.setSlot k x).fuse = s.fuse := rfl
@[simp] theorem State.setSlot_lcs : (s.setSlot k x).lcs = s.lcs := rfl
@[simp] theorem State.setSlot_lev : (s.setSlot k x).lev = s.lev := rfl
@[simp] theorem State.setSlot_rst : (s.setSlot k x).rst = s.rst := rfl
@[simp] theorem State.setSlot_ao : (s.setSlot k x).ao = s.ao := rfl
@[simp] theorem State.setSlot_ledger : (s.setSlot k x).ledger = s.ledger := rfl
@[simp] theorem State.setSlot_fwu : (s.setSlot k x).fwu = s.fwu := rfl
@[simp] theorem State.setSlot_pwr : (s.setSlot k x).pwr = s.pwr := rfl
@[simp] theorem State.setSlot_pins : (s.setSlot k x).pins = s.pins := rfl
@[simp] theorem State.setSlot_mgmt : (s.setSlot k x).mgmt = s.mgmt := rfl
@[simp] theorem State.setSlot_tx : (s.setSlot k x).tx = s.tx := rfl
@[simp] theorem State.setSlot_pending : (s.setSlot k x).pending = s.pending := rfl

end

section

variable (s : State) (k : Nat) (x : Tile)

@[simp] theorem State.setTile_now : (s.setTile k x).now = s.now := rfl
@[simp] theorem State.setTile_wsh : (s.setTile k x).wsh = s.wsh := rfl
@[simp] theorem State.setTile_cfg : (s.setTile k x).cfg = s.cfg := rfl
@[simp] theorem State.setTile_glb : (s.setTile k x).glb = s.glb := rfl
@[simp] theorem State.setTile_fns : (s.setTile k x).fns = s.fns := rfl
@[simp] theorem State.setTile_reaches : (s.setTile k x).reaches = s.reaches := rfl
@[simp] theorem State.setTile_queues : (s.setTile k x).queues = s.queues := rfl
@[simp] theorem State.setTile_jobs : (s.setTile k x).jobs = s.jobs := rfl
@[simp] theorem State.setTile_runs : (s.setTile k x).runs = s.runs := rfl
@[simp] theorem State.setTile_weir : (s.setTile k x).weir = s.weir := rfl
@[simp] theorem State.setTile_kst : (s.setTile k x).kst = s.kst := rfl
@[simp] theorem State.setTile_slots : (s.setTile k x).slots = s.slots := rfl
@[simp] theorem State.setTile_records : (s.setTile k x).records = s.records := rfl
@[simp] theorem State.setTile_spr : (s.setTile k x).spr = s.spr := rfl
@[simp] theorem State.setTile_chainEpoch : (s.setTile k x).chainEpoch = s.chainEpoch := rfl
@[simp] theorem State.setTile_cores : (s.setTile k x).cores = s.cores := rfl
@[simp] theorem State.setTile_parts : (s.setTile k x).parts = s.parts := rfl
@[simp] theorem State.setTile_spans : (s.setTile k x).spans = s.spans := rfl
@[simp] theorem State.setTile_sel : (s.setTile k x).sel = s.sel := rfl
@[simp] theorem State.setTile_stores : (s.setTile k x).stores = s.stores := rfl
@[simp] theorem State.setTile_cprof : (s.setTile k x).cprof = s.cprof := rfl
@[simp] theorem State.setTile_meas : (s.setTile k x).meas = s.meas := rfl
@[simp] theorem State.setTile_measCnt : (s.setTile k x).measCnt = s.measCnt := rfl
@[simp] theorem State.setTile_hbm : (s.setTile k x).hbm = s.hbm := rfl
@[simp] theorem State.setTile_cfl : (s.setTile k x).cfl = s.cfl := rfl
@[simp] theorem State.setTile_evt : (s.setTile k x).evt = s.evt := rfl
@[simp] theorem State.setTile_snp : (s.setTile k x).snp = s.snp := rfl
@[simp] theorem State.setTile_fuse : (s.setTile k x).fuse = s.fuse := rfl
@[simp] theorem State.setTile_lcs : (s.setTile k x).lcs = s.lcs := rfl
@[simp] theorem State.setTile_lev : (s.setTile k x).lev = s.lev := rfl
@[simp] theorem State.setTile_rst : (s.setTile k x).rst = s.rst := rfl
@[simp] theorem State.setTile_ao : (s.setTile k x).ao = s.ao := rfl
@[simp] theorem State.setTile_ledger : (s.setTile k x).ledger = s.ledger := rfl
@[simp] theorem State.setTile_fwu : (s.setTile k x).fwu = s.fwu := rfl
@[simp] theorem State.setTile_pwr : (s.setTile k x).pwr = s.pwr := rfl
@[simp] theorem State.setTile_pins : (s.setTile k x).pins = s.pins := rfl
@[simp] theorem State.setTile_mgmt : (s.setTile k x).mgmt = s.mgmt := rfl
@[simp] theorem State.setTile_tx : (s.setTile k x).tx = s.tx := rfl
@[simp] theorem State.setTile_pending : (s.setTile k x).pending = s.pending := rfl

end

section

variable (s : State) (k : Nat) (x : Core)

@[simp] theorem State.setCore_now : (s.setCore k x).now = s.now := rfl
@[simp] theorem State.setCore_wsh : (s.setCore k x).wsh = s.wsh := rfl
@[simp] theorem State.setCore_cfg : (s.setCore k x).cfg = s.cfg := rfl
@[simp] theorem State.setCore_glb : (s.setCore k x).glb = s.glb := rfl
@[simp] theorem State.setCore_fns : (s.setCore k x).fns = s.fns := rfl
@[simp] theorem State.setCore_reaches : (s.setCore k x).reaches = s.reaches := rfl
@[simp] theorem State.setCore_queues : (s.setCore k x).queues = s.queues := rfl
@[simp] theorem State.setCore_jobs : (s.setCore k x).jobs = s.jobs := rfl
@[simp] theorem State.setCore_runs : (s.setCore k x).runs = s.runs := rfl
@[simp] theorem State.setCore_weir : (s.setCore k x).weir = s.weir := rfl
@[simp] theorem State.setCore_kst : (s.setCore k x).kst = s.kst := rfl
@[simp] theorem State.setCore_slots : (s.setCore k x).slots = s.slots := rfl
@[simp] theorem State.setCore_records : (s.setCore k x).records = s.records := rfl
@[simp] theorem State.setCore_spr : (s.setCore k x).spr = s.spr := rfl
@[simp] theorem State.setCore_tiles : (s.setCore k x).tiles = s.tiles := rfl
@[simp] theorem State.setCore_chainEpoch : (s.setCore k x).chainEpoch = s.chainEpoch := rfl
@[simp] theorem State.setCore_parts : (s.setCore k x).parts = s.parts := rfl
@[simp] theorem State.setCore_spans : (s.setCore k x).spans = s.spans := rfl
@[simp] theorem State.setCore_sel : (s.setCore k x).sel = s.sel := rfl
@[simp] theorem State.setCore_stores : (s.setCore k x).stores = s.stores := rfl
@[simp] theorem State.setCore_cprof : (s.setCore k x).cprof = s.cprof := rfl
@[simp] theorem State.setCore_meas : (s.setCore k x).meas = s.meas := rfl
@[simp] theorem State.setCore_measCnt : (s.setCore k x).measCnt = s.measCnt := rfl
@[simp] theorem State.setCore_hbm : (s.setCore k x).hbm = s.hbm := rfl
@[simp] theorem State.setCore_cfl : (s.setCore k x).cfl = s.cfl := rfl
@[simp] theorem State.setCore_evt : (s.setCore k x).evt = s.evt := rfl
@[simp] theorem State.setCore_snp : (s.setCore k x).snp = s.snp := rfl
@[simp] theorem State.setCore_fuse : (s.setCore k x).fuse = s.fuse := rfl
@[simp] theorem State.setCore_lcs : (s.setCore k x).lcs = s.lcs := rfl
@[simp] theorem State.setCore_lev : (s.setCore k x).lev = s.lev := rfl
@[simp] theorem State.setCore_rst : (s.setCore k x).rst = s.rst := rfl
@[simp] theorem State.setCore_ao : (s.setCore k x).ao = s.ao := rfl
@[simp] theorem State.setCore_ledger : (s.setCore k x).ledger = s.ledger := rfl
@[simp] theorem State.setCore_fwu : (s.setCore k x).fwu = s.fwu := rfl
@[simp] theorem State.setCore_pwr : (s.setCore k x).pwr = s.pwr := rfl
@[simp] theorem State.setCore_pins : (s.setCore k x).pins = s.pins := rfl
@[simp] theorem State.setCore_mgmt : (s.setCore k x).mgmt = s.mgmt := rfl
@[simp] theorem State.setCore_tx : (s.setCore k x).tx = s.tx := rfl
@[simp] theorem State.setCore_pending : (s.setCore k x).pending = s.pending := rfl

end

section

variable (s : State) (k : Nat) (x : Port)

@[simp] theorem State.setPort_now : (s.setPort k x).now = s.now := rfl
@[simp] theorem State.setPort_wsh : (s.setPort k x).wsh = s.wsh := rfl
@[simp] theorem State.setPort_cfg : (s.setPort k x).cfg = s.cfg := rfl
@[simp] theorem State.setPort_glb : (s.setPort k x).glb = s.glb := rfl
@[simp] theorem State.setPort_fns : (s.setPort k x).fns = s.fns := rfl
@[simp] theorem State.setPort_reaches : (s.setPort k x).reaches = s.reaches := rfl
@[simp] theorem State.setPort_queues : (s.setPort k x).queues = s.queues := rfl
@[simp] theorem State.setPort_jobs : (s.setPort k x).jobs = s.jobs := rfl
@[simp] theorem State.setPort_runs : (s.setPort k x).runs = s.runs := rfl
@[simp] theorem State.setPort_weir : (s.setPort k x).weir = s.weir := rfl
@[simp] theorem State.setPort_kst : (s.setPort k x).kst = s.kst := rfl
@[simp] theorem State.setPort_slots : (s.setPort k x).slots = s.slots := rfl
@[simp] theorem State.setPort_records : (s.setPort k x).records = s.records := rfl
@[simp] theorem State.setPort_spr : (s.setPort k x).spr = s.spr := rfl
@[simp] theorem State.setPort_tiles : (s.setPort k x).tiles = s.tiles := rfl
@[simp] theorem State.setPort_chainEpoch : (s.setPort k x).chainEpoch = s.chainEpoch := rfl
@[simp] theorem State.setPort_cores : (s.setPort k x).cores = s.cores := rfl
@[simp] theorem State.setPort_parts : (s.setPort k x).parts = s.parts := rfl
@[simp] theorem State.setPort_spans : (s.setPort k x).spans = s.spans := rfl
@[simp] theorem State.setPort_sel : (s.setPort k x).sel = s.sel := rfl
@[simp] theorem State.setPort_stores : (s.setPort k x).stores = s.stores := rfl
@[simp] theorem State.setPort_cprof : (s.setPort k x).cprof = s.cprof := rfl
@[simp] theorem State.setPort_meas : (s.setPort k x).meas = s.meas := rfl
@[simp] theorem State.setPort_measCnt : (s.setPort k x).measCnt = s.measCnt := rfl
@[simp] theorem State.setPort_hbm : (s.setPort k x).hbm = s.hbm := rfl
@[simp] theorem State.setPort_evt : (s.setPort k x).evt = s.evt := rfl
@[simp] theorem State.setPort_snp : (s.setPort k x).snp = s.snp := rfl
@[simp] theorem State.setPort_fuse : (s.setPort k x).fuse = s.fuse := rfl
@[simp] theorem State.setPort_lcs : (s.setPort k x).lcs = s.lcs := rfl
@[simp] theorem State.setPort_lev : (s.setPort k x).lev = s.lev := rfl
@[simp] theorem State.setPort_rst : (s.setPort k x).rst = s.rst := rfl
@[simp] theorem State.setPort_ao : (s.setPort k x).ao = s.ao := rfl
@[simp] theorem State.setPort_ledger : (s.setPort k x).ledger = s.ledger := rfl
@[simp] theorem State.setPort_fwu : (s.setPort k x).fwu = s.fwu := rfl
@[simp] theorem State.setPort_pwr : (s.setPort k x).pwr = s.pwr := rfl
@[simp] theorem State.setPort_pins : (s.setPort k x).pins = s.pins := rfl
@[simp] theorem State.setPort_mgmt : (s.setPort k x).mgmt = s.mgmt := rfl
@[simp] theorem State.setPort_tx : (s.setPort k x).tx = s.tx := rfl
@[simp] theorem State.setPort_pending : (s.setPort k x).pending = s.pending := rfl

end

section

variable (s : State) (k : Nat) (x : EvtSrc)

@[simp] theorem State.setSource_now : (s.setSource k x).now = s.now := rfl
@[simp] theorem State.setSource_wsh : (s.setSource k x).wsh = s.wsh := rfl
@[simp] theorem State.setSource_cfg : (s.setSource k x).cfg = s.cfg := rfl
@[simp] theorem State.setSource_glb : (s.setSource k x).glb = s.glb := rfl
@[simp] theorem State.setSource_fns : (s.setSource k x).fns = s.fns := rfl
@[simp] theorem State.setSource_reaches : (s.setSource k x).reaches = s.reaches := rfl
@[simp] theorem State.setSource_queues : (s.setSource k x).queues = s.queues := rfl
@[simp] theorem State.setSource_jobs : (s.setSource k x).jobs = s.jobs := rfl
@[simp] theorem State.setSource_runs : (s.setSource k x).runs = s.runs := rfl
@[simp] theorem State.setSource_weir : (s.setSource k x).weir = s.weir := rfl
@[simp] theorem State.setSource_kst : (s.setSource k x).kst = s.kst := rfl
@[simp] theorem State.setSource_slots : (s.setSource k x).slots = s.slots := rfl
@[simp] theorem State.setSource_records : (s.setSource k x).records = s.records := rfl
@[simp] theorem State.setSource_spr : (s.setSource k x).spr = s.spr := rfl
@[simp] theorem State.setSource_tiles : (s.setSource k x).tiles = s.tiles := rfl
@[simp] theorem State.setSource_chainEpoch : (s.setSource k x).chainEpoch = s.chainEpoch := rfl
@[simp] theorem State.setSource_cores : (s.setSource k x).cores = s.cores := rfl
@[simp] theorem State.setSource_parts : (s.setSource k x).parts = s.parts := rfl
@[simp] theorem State.setSource_spans : (s.setSource k x).spans = s.spans := rfl
@[simp] theorem State.setSource_sel : (s.setSource k x).sel = s.sel := rfl
@[simp] theorem State.setSource_stores : (s.setSource k x).stores = s.stores := rfl
@[simp] theorem State.setSource_cprof : (s.setSource k x).cprof = s.cprof := rfl
@[simp] theorem State.setSource_meas : (s.setSource k x).meas = s.meas := rfl
@[simp] theorem State.setSource_measCnt : (s.setSource k x).measCnt = s.measCnt := rfl
@[simp] theorem State.setSource_hbm : (s.setSource k x).hbm = s.hbm := rfl
@[simp] theorem State.setSource_cfl : (s.setSource k x).cfl = s.cfl := rfl
@[simp] theorem State.setSource_snp : (s.setSource k x).snp = s.snp := rfl
@[simp] theorem State.setSource_fuse : (s.setSource k x).fuse = s.fuse := rfl
@[simp] theorem State.setSource_lcs : (s.setSource k x).lcs = s.lcs := rfl
@[simp] theorem State.setSource_lev : (s.setSource k x).lev = s.lev := rfl
@[simp] theorem State.setSource_rst : (s.setSource k x).rst = s.rst := rfl
@[simp] theorem State.setSource_ao : (s.setSource k x).ao = s.ao := rfl
@[simp] theorem State.setSource_ledger : (s.setSource k x).ledger = s.ledger := rfl
@[simp] theorem State.setSource_fwu : (s.setSource k x).fwu = s.fwu := rfl
@[simp] theorem State.setSource_pwr : (s.setSource k x).pwr = s.pwr := rfl
@[simp] theorem State.setSource_pins : (s.setSource k x).pins = s.pins := rfl
@[simp] theorem State.setSource_mgmt : (s.setSource k x).mgmt = s.mgmt := rfl
@[simp] theorem State.setSource_tx : (s.setSource k x).tx = s.tx := rfl
@[simp] theorem State.setSource_pending : (s.setSource k x).pending = s.pending := rfl

end

section

variable (s : State) (k : Nat) (x : Drbg)

@[simp] theorem State.setDrbg_now : (s.setDrbg k x).now = s.now := rfl
@[simp] theorem State.setDrbg_wsh : (s.setDrbg k x).wsh = s.wsh := rfl
@[simp] theorem State.setDrbg_cfg : (s.setDrbg k x).cfg = s.cfg := rfl
@[simp] theorem State.setDrbg_glb : (s.setDrbg k x).glb = s.glb := rfl
@[simp] theorem State.setDrbg_fns : (s.setDrbg k x).fns = s.fns := rfl
@[simp] theorem State.setDrbg_reaches : (s.setDrbg k x).reaches = s.reaches := rfl
@[simp] theorem State.setDrbg_queues : (s.setDrbg k x).queues = s.queues := rfl
@[simp] theorem State.setDrbg_jobs : (s.setDrbg k x).jobs = s.jobs := rfl
@[simp] theorem State.setDrbg_runs : (s.setDrbg k x).runs = s.runs := rfl
@[simp] theorem State.setDrbg_weir : (s.setDrbg k x).weir = s.weir := rfl
@[simp] theorem State.setDrbg_kst : (s.setDrbg k x).kst = s.kst := rfl
@[simp] theorem State.setDrbg_slots : (s.setDrbg k x).slots = s.slots := rfl
@[simp] theorem State.setDrbg_records : (s.setDrbg k x).records = s.records := rfl
@[simp] theorem State.setDrbg_tiles : (s.setDrbg k x).tiles = s.tiles := rfl
@[simp] theorem State.setDrbg_chainEpoch : (s.setDrbg k x).chainEpoch = s.chainEpoch := rfl
@[simp] theorem State.setDrbg_cores : (s.setDrbg k x).cores = s.cores := rfl
@[simp] theorem State.setDrbg_parts : (s.setDrbg k x).parts = s.parts := rfl
@[simp] theorem State.setDrbg_spans : (s.setDrbg k x).spans = s.spans := rfl
@[simp] theorem State.setDrbg_sel : (s.setDrbg k x).sel = s.sel := rfl
@[simp] theorem State.setDrbg_stores : (s.setDrbg k x).stores = s.stores := rfl
@[simp] theorem State.setDrbg_cprof : (s.setDrbg k x).cprof = s.cprof := rfl
@[simp] theorem State.setDrbg_meas : (s.setDrbg k x).meas = s.meas := rfl
@[simp] theorem State.setDrbg_measCnt : (s.setDrbg k x).measCnt = s.measCnt := rfl
@[simp] theorem State.setDrbg_hbm : (s.setDrbg k x).hbm = s.hbm := rfl
@[simp] theorem State.setDrbg_cfl : (s.setDrbg k x).cfl = s.cfl := rfl
@[simp] theorem State.setDrbg_evt : (s.setDrbg k x).evt = s.evt := rfl
@[simp] theorem State.setDrbg_snp : (s.setDrbg k x).snp = s.snp := rfl
@[simp] theorem State.setDrbg_fuse : (s.setDrbg k x).fuse = s.fuse := rfl
@[simp] theorem State.setDrbg_lcs : (s.setDrbg k x).lcs = s.lcs := rfl
@[simp] theorem State.setDrbg_lev : (s.setDrbg k x).lev = s.lev := rfl
@[simp] theorem State.setDrbg_rst : (s.setDrbg k x).rst = s.rst := rfl
@[simp] theorem State.setDrbg_ao : (s.setDrbg k x).ao = s.ao := rfl
@[simp] theorem State.setDrbg_ledger : (s.setDrbg k x).ledger = s.ledger := rfl
@[simp] theorem State.setDrbg_fwu : (s.setDrbg k x).fwu = s.fwu := rfl
@[simp] theorem State.setDrbg_pwr : (s.setDrbg k x).pwr = s.pwr := rfl
@[simp] theorem State.setDrbg_pins : (s.setDrbg k x).pins = s.pins := rfl
@[simp] theorem State.setDrbg_mgmt : (s.setDrbg k x).mgmt = s.mgmt := rfl
@[simp] theorem State.setDrbg_tx : (s.setDrbg k x).tx = s.tx := rfl
@[simp] theorem State.setDrbg_pending : (s.setDrbg k x).pending = s.pending := rfl

end

section

variable (s : State) (k : Nat) (x : BasinSt)

@[simp] theorem State.setBasin_now : (s.setBasin k x).now = s.now := rfl
@[simp] theorem State.setBasin_wsh : (s.setBasin k x).wsh = s.wsh := rfl
@[simp] theorem State.setBasin_cfg : (s.setBasin k x).cfg = s.cfg := rfl
@[simp] theorem State.setBasin_glb : (s.setBasin k x).glb = s.glb := rfl
@[simp] theorem State.setBasin_fns : (s.setBasin k x).fns = s.fns := rfl
@[simp] theorem State.setBasin_reaches : (s.setBasin k x).reaches = s.reaches := rfl
@[simp] theorem State.setBasin_queues : (s.setBasin k x).queues = s.queues := rfl
@[simp] theorem State.setBasin_jobs : (s.setBasin k x).jobs = s.jobs := rfl
@[simp] theorem State.setBasin_runs : (s.setBasin k x).runs = s.runs := rfl
@[simp] theorem State.setBasin_weir : (s.setBasin k x).weir = s.weir := rfl
@[simp] theorem State.setBasin_kst : (s.setBasin k x).kst = s.kst := rfl
@[simp] theorem State.setBasin_slots : (s.setBasin k x).slots = s.slots := rfl
@[simp] theorem State.setBasin_records : (s.setBasin k x).records = s.records := rfl
@[simp] theorem State.setBasin_spr : (s.setBasin k x).spr = s.spr := rfl
@[simp] theorem State.setBasin_tiles : (s.setBasin k x).tiles = s.tiles := rfl
@[simp] theorem State.setBasin_chainEpoch : (s.setBasin k x).chainEpoch = s.chainEpoch := rfl
@[simp] theorem State.setBasin_cores : (s.setBasin k x).cores = s.cores := rfl
@[simp] theorem State.setBasin_parts : (s.setBasin k x).parts = s.parts := rfl
@[simp] theorem State.setBasin_spans : (s.setBasin k x).spans = s.spans := rfl
@[simp] theorem State.setBasin_sel : (s.setBasin k x).sel = s.sel := rfl
@[simp] theorem State.setBasin_stores : (s.setBasin k x).stores = s.stores := rfl
@[simp] theorem State.setBasin_cprof : (s.setBasin k x).cprof = s.cprof := rfl
@[simp] theorem State.setBasin_meas : (s.setBasin k x).meas = s.meas := rfl
@[simp] theorem State.setBasin_measCnt : (s.setBasin k x).measCnt = s.measCnt := rfl
@[simp] theorem State.setBasin_hbm : (s.setBasin k x).hbm = s.hbm := rfl
@[simp] theorem State.setBasin_cfl : (s.setBasin k x).cfl = s.cfl := rfl
@[simp] theorem State.setBasin_evt : (s.setBasin k x).evt = s.evt := rfl
@[simp] theorem State.setBasin_snp : (s.setBasin k x).snp = s.snp := rfl
@[simp] theorem State.setBasin_fuse : (s.setBasin k x).fuse = s.fuse := rfl
@[simp] theorem State.setBasin_lcs : (s.setBasin k x).lcs = s.lcs := rfl
@[simp] theorem State.setBasin_lev : (s.setBasin k x).lev = s.lev := rfl
@[simp] theorem State.setBasin_ao : (s.setBasin k x).ao = s.ao := rfl
@[simp] theorem State.setBasin_ledger : (s.setBasin k x).ledger = s.ledger := rfl
@[simp] theorem State.setBasin_fwu : (s.setBasin k x).fwu = s.fwu := rfl
@[simp] theorem State.setBasin_pwr : (s.setBasin k x).pwr = s.pwr := rfl
@[simp] theorem State.setBasin_pins : (s.setBasin k x).pins = s.pins := rfl
@[simp] theorem State.setBasin_mgmt : (s.setBasin k x).mgmt = s.mgmt := rfl
@[simp] theorem State.setBasin_tx : (s.setBasin k x).tx = s.tx := rfl
@[simp] theorem State.setBasin_pending : (s.setBasin k x).pending = s.pending := rfl

end

section

variable (s : State) (k : Nat) (x : Expander)

@[simp] theorem State.setExp_now : (s.setExp k x).now = s.now := rfl
@[simp] theorem State.setExp_wsh : (s.setExp k x).wsh = s.wsh := rfl
@[simp] theorem State.setExp_cfg : (s.setExp k x).cfg = s.cfg := rfl
@[simp] theorem State.setExp_glb : (s.setExp k x).glb = s.glb := rfl
@[simp] theorem State.setExp_fns : (s.setExp k x).fns = s.fns := rfl
@[simp] theorem State.setExp_reaches : (s.setExp k x).reaches = s.reaches := rfl
@[simp] theorem State.setExp_queues : (s.setExp k x).queues = s.queues := rfl
@[simp] theorem State.setExp_jobs : (s.setExp k x).jobs = s.jobs := rfl
@[simp] theorem State.setExp_runs : (s.setExp k x).runs = s.runs := rfl
@[simp] theorem State.setExp_weir : (s.setExp k x).weir = s.weir := rfl
@[simp] theorem State.setExp_kst : (s.setExp k x).kst = s.kst := rfl
@[simp] theorem State.setExp_slots : (s.setExp k x).slots = s.slots := rfl
@[simp] theorem State.setExp_records : (s.setExp k x).records = s.records := rfl
@[simp] theorem State.setExp_tiles : (s.setExp k x).tiles = s.tiles := rfl
@[simp] theorem State.setExp_chainEpoch : (s.setExp k x).chainEpoch = s.chainEpoch := rfl
@[simp] theorem State.setExp_cores : (s.setExp k x).cores = s.cores := rfl
@[simp] theorem State.setExp_parts : (s.setExp k x).parts = s.parts := rfl
@[simp] theorem State.setExp_spans : (s.setExp k x).spans = s.spans := rfl
@[simp] theorem State.setExp_sel : (s.setExp k x).sel = s.sel := rfl
@[simp] theorem State.setExp_stores : (s.setExp k x).stores = s.stores := rfl
@[simp] theorem State.setExp_cprof : (s.setExp k x).cprof = s.cprof := rfl
@[simp] theorem State.setExp_meas : (s.setExp k x).meas = s.meas := rfl
@[simp] theorem State.setExp_measCnt : (s.setExp k x).measCnt = s.measCnt := rfl
@[simp] theorem State.setExp_hbm : (s.setExp k x).hbm = s.hbm := rfl
@[simp] theorem State.setExp_cfl : (s.setExp k x).cfl = s.cfl := rfl
@[simp] theorem State.setExp_evt : (s.setExp k x).evt = s.evt := rfl
@[simp] theorem State.setExp_snp : (s.setExp k x).snp = s.snp := rfl
@[simp] theorem State.setExp_fuse : (s.setExp k x).fuse = s.fuse := rfl
@[simp] theorem State.setExp_lcs : (s.setExp k x).lcs = s.lcs := rfl
@[simp] theorem State.setExp_lev : (s.setExp k x).lev = s.lev := rfl
@[simp] theorem State.setExp_rst : (s.setExp k x).rst = s.rst := rfl
@[simp] theorem State.setExp_ao : (s.setExp k x).ao = s.ao := rfl
@[simp] theorem State.setExp_ledger : (s.setExp k x).ledger = s.ledger := rfl
@[simp] theorem State.setExp_fwu : (s.setExp k x).fwu = s.fwu := rfl
@[simp] theorem State.setExp_pwr : (s.setExp k x).pwr = s.pwr := rfl
@[simp] theorem State.setExp_pins : (s.setExp k x).pins = s.pins := rfl
@[simp] theorem State.setExp_mgmt : (s.setExp k x).mgmt = s.mgmt := rfl
@[simp] theorem State.setExp_tx : (s.setExp k x).tx = s.tx := rfl
@[simp] theorem State.setExp_pending : (s.setExp k x).pending = s.pending := rfl

end

section

variable (s : State) (k : Nat) (x : Bytes)

@[simp] theorem State.setBlind_now : (s.setBlind k x).now = s.now := rfl
@[simp] theorem State.setBlind_wsh : (s.setBlind k x).wsh = s.wsh := rfl
@[simp] theorem State.setBlind_cfg : (s.setBlind k x).cfg = s.cfg := rfl
@[simp] theorem State.setBlind_glb : (s.setBlind k x).glb = s.glb := rfl
@[simp] theorem State.setBlind_fns : (s.setBlind k x).fns = s.fns := rfl
@[simp] theorem State.setBlind_reaches : (s.setBlind k x).reaches = s.reaches := rfl
@[simp] theorem State.setBlind_queues : (s.setBlind k x).queues = s.queues := rfl
@[simp] theorem State.setBlind_jobs : (s.setBlind k x).jobs = s.jobs := rfl
@[simp] theorem State.setBlind_runs : (s.setBlind k x).runs = s.runs := rfl
@[simp] theorem State.setBlind_weir : (s.setBlind k x).weir = s.weir := rfl
@[simp] theorem State.setBlind_kst : (s.setBlind k x).kst = s.kst := rfl
@[simp] theorem State.setBlind_slots : (s.setBlind k x).slots = s.slots := rfl
@[simp] theorem State.setBlind_records : (s.setBlind k x).records = s.records := rfl
@[simp] theorem State.setBlind_tiles : (s.setBlind k x).tiles = s.tiles := rfl
@[simp] theorem State.setBlind_chainEpoch : (s.setBlind k x).chainEpoch = s.chainEpoch := rfl
@[simp] theorem State.setBlind_cores : (s.setBlind k x).cores = s.cores := rfl
@[simp] theorem State.setBlind_parts : (s.setBlind k x).parts = s.parts := rfl
@[simp] theorem State.setBlind_spans : (s.setBlind k x).spans = s.spans := rfl
@[simp] theorem State.setBlind_sel : (s.setBlind k x).sel = s.sel := rfl
@[simp] theorem State.setBlind_stores : (s.setBlind k x).stores = s.stores := rfl
@[simp] theorem State.setBlind_cprof : (s.setBlind k x).cprof = s.cprof := rfl
@[simp] theorem State.setBlind_meas : (s.setBlind k x).meas = s.meas := rfl
@[simp] theorem State.setBlind_measCnt : (s.setBlind k x).measCnt = s.measCnt := rfl
@[simp] theorem State.setBlind_hbm : (s.setBlind k x).hbm = s.hbm := rfl
@[simp] theorem State.setBlind_cfl : (s.setBlind k x).cfl = s.cfl := rfl
@[simp] theorem State.setBlind_evt : (s.setBlind k x).evt = s.evt := rfl
@[simp] theorem State.setBlind_snp : (s.setBlind k x).snp = s.snp := rfl
@[simp] theorem State.setBlind_fuse : (s.setBlind k x).fuse = s.fuse := rfl
@[simp] theorem State.setBlind_lcs : (s.setBlind k x).lcs = s.lcs := rfl
@[simp] theorem State.setBlind_lev : (s.setBlind k x).lev = s.lev := rfl
@[simp] theorem State.setBlind_rst : (s.setBlind k x).rst = s.rst := rfl
@[simp] theorem State.setBlind_ao : (s.setBlind k x).ao = s.ao := rfl
@[simp] theorem State.setBlind_ledger : (s.setBlind k x).ledger = s.ledger := rfl
@[simp] theorem State.setBlind_fwu : (s.setBlind k x).fwu = s.fwu := rfl
@[simp] theorem State.setBlind_pwr : (s.setBlind k x).pwr = s.pwr := rfl
@[simp] theorem State.setBlind_pins : (s.setBlind k x).pins = s.pins := rfl
@[simp] theorem State.setBlind_mgmt : (s.setBlind k x).mgmt = s.mgmt := rfl
@[simp] theorem State.setBlind_tx : (s.setBlind k x).tx = s.tx := rfl
@[simp] theorem State.setBlind_pending : (s.setBlind k x).pending = s.pending := rfl

end

section

variable (s : State) (k : Nat) (x : RndFifo)

@[simp] theorem State.setFifo_now : (s.setFifo k x).now = s.now := rfl
@[simp] theorem State.setFifo_wsh : (s.setFifo k x).wsh = s.wsh := rfl
@[simp] theorem State.setFifo_cfg : (s.setFifo k x).cfg = s.cfg := rfl
@[simp] theorem State.setFifo_glb : (s.setFifo k x).glb = s.glb := rfl
@[simp] theorem State.setFifo_fns : (s.setFifo k x).fns = s.fns := rfl
@[simp] theorem State.setFifo_reaches : (s.setFifo k x).reaches = s.reaches := rfl
@[simp] theorem State.setFifo_queues : (s.setFifo k x).queues = s.queues := rfl
@[simp] theorem State.setFifo_jobs : (s.setFifo k x).jobs = s.jobs := rfl
@[simp] theorem State.setFifo_runs : (s.setFifo k x).runs = s.runs := rfl
@[simp] theorem State.setFifo_weir : (s.setFifo k x).weir = s.weir := rfl
@[simp] theorem State.setFifo_kst : (s.setFifo k x).kst = s.kst := rfl
@[simp] theorem State.setFifo_slots : (s.setFifo k x).slots = s.slots := rfl
@[simp] theorem State.setFifo_records : (s.setFifo k x).records = s.records := rfl
@[simp] theorem State.setFifo_tiles : (s.setFifo k x).tiles = s.tiles := rfl
@[simp] theorem State.setFifo_chainEpoch : (s.setFifo k x).chainEpoch = s.chainEpoch := rfl
@[simp] theorem State.setFifo_cores : (s.setFifo k x).cores = s.cores := rfl
@[simp] theorem State.setFifo_parts : (s.setFifo k x).parts = s.parts := rfl
@[simp] theorem State.setFifo_spans : (s.setFifo k x).spans = s.spans := rfl
@[simp] theorem State.setFifo_sel : (s.setFifo k x).sel = s.sel := rfl
@[simp] theorem State.setFifo_stores : (s.setFifo k x).stores = s.stores := rfl
@[simp] theorem State.setFifo_cprof : (s.setFifo k x).cprof = s.cprof := rfl
@[simp] theorem State.setFifo_meas : (s.setFifo k x).meas = s.meas := rfl
@[simp] theorem State.setFifo_measCnt : (s.setFifo k x).measCnt = s.measCnt := rfl
@[simp] theorem State.setFifo_hbm : (s.setFifo k x).hbm = s.hbm := rfl
@[simp] theorem State.setFifo_cfl : (s.setFifo k x).cfl = s.cfl := rfl
@[simp] theorem State.setFifo_evt : (s.setFifo k x).evt = s.evt := rfl
@[simp] theorem State.setFifo_snp : (s.setFifo k x).snp = s.snp := rfl
@[simp] theorem State.setFifo_fuse : (s.setFifo k x).fuse = s.fuse := rfl
@[simp] theorem State.setFifo_lcs : (s.setFifo k x).lcs = s.lcs := rfl
@[simp] theorem State.setFifo_lev : (s.setFifo k x).lev = s.lev := rfl
@[simp] theorem State.setFifo_rst : (s.setFifo k x).rst = s.rst := rfl
@[simp] theorem State.setFifo_ao : (s.setFifo k x).ao = s.ao := rfl
@[simp] theorem State.setFifo_ledger : (s.setFifo k x).ledger = s.ledger := rfl
@[simp] theorem State.setFifo_fwu : (s.setFifo k x).fwu = s.fwu := rfl
@[simp] theorem State.setFifo_pwr : (s.setFifo k x).pwr = s.pwr := rfl
@[simp] theorem State.setFifo_pins : (s.setFifo k x).pins = s.pins := rfl
@[simp] theorem State.setFifo_mgmt : (s.setFifo k x).mgmt = s.mgmt := rfl
@[simp] theorem State.setFifo_tx : (s.setFifo k x).tx = s.tx := rfl
@[simp] theorem State.setFifo_pending : (s.setFifo k x).pending = s.pending := rfl

end

section

variable (s : State) (k : Nat) (x : CtlStore)

@[simp] theorem State.setStore_now : (s.setStore k x).now = s.now := rfl
@[simp] theorem State.setStore_wsh : (s.setStore k x).wsh = s.wsh := rfl
@[simp] theorem State.setStore_cfg : (s.setStore k x).cfg = s.cfg := rfl
@[simp] theorem State.setStore_glb : (s.setStore k x).glb = s.glb := rfl
@[simp] theorem State.setStore_fns : (s.setStore k x).fns = s.fns := rfl
@[simp] theorem State.setStore_reaches : (s.setStore k x).reaches = s.reaches := rfl
@[simp] theorem State.setStore_queues : (s.setStore k x).queues = s.queues := rfl
@[simp] theorem State.setStore_jobs : (s.setStore k x).jobs = s.jobs := rfl
@[simp] theorem State.setStore_runs : (s.setStore k x).runs = s.runs := rfl
@[simp] theorem State.setStore_weir : (s.setStore k x).weir = s.weir := rfl
@[simp] theorem State.setStore_kst : (s.setStore k x).kst = s.kst := rfl
@[simp] theorem State.setStore_slots : (s.setStore k x).slots = s.slots := rfl
@[simp] theorem State.setStore_records : (s.setStore k x).records = s.records := rfl
@[simp] theorem State.setStore_spr : (s.setStore k x).spr = s.spr := rfl
@[simp] theorem State.setStore_tiles : (s.setStore k x).tiles = s.tiles := rfl
@[simp] theorem State.setStore_chainEpoch : (s.setStore k x).chainEpoch = s.chainEpoch := rfl
@[simp] theorem State.setStore_cores : (s.setStore k x).cores = s.cores := rfl
@[simp] theorem State.setStore_parts : (s.setStore k x).parts = s.parts := rfl
@[simp] theorem State.setStore_spans : (s.setStore k x).spans = s.spans := rfl
@[simp] theorem State.setStore_sel : (s.setStore k x).sel = s.sel := rfl
@[simp] theorem State.setStore_cprof : (s.setStore k x).cprof = s.cprof := rfl
@[simp] theorem State.setStore_meas : (s.setStore k x).meas = s.meas := rfl
@[simp] theorem State.setStore_measCnt : (s.setStore k x).measCnt = s.measCnt := rfl
@[simp] theorem State.setStore_hbm : (s.setStore k x).hbm = s.hbm := rfl
@[simp] theorem State.setStore_cfl : (s.setStore k x).cfl = s.cfl := rfl
@[simp] theorem State.setStore_evt : (s.setStore k x).evt = s.evt := rfl
@[simp] theorem State.setStore_snp : (s.setStore k x).snp = s.snp := rfl
@[simp] theorem State.setStore_fuse : (s.setStore k x).fuse = s.fuse := rfl
@[simp] theorem State.setStore_lcs : (s.setStore k x).lcs = s.lcs := rfl
@[simp] theorem State.setStore_lev : (s.setStore k x).lev = s.lev := rfl
@[simp] theorem State.setStore_rst : (s.setStore k x).rst = s.rst := rfl
@[simp] theorem State.setStore_ao : (s.setStore k x).ao = s.ao := rfl
@[simp] theorem State.setStore_ledger : (s.setStore k x).ledger = s.ledger := rfl
@[simp] theorem State.setStore_fwu : (s.setStore k x).fwu = s.fwu := rfl
@[simp] theorem State.setStore_pwr : (s.setStore k x).pwr = s.pwr := rfl
@[simp] theorem State.setStore_pins : (s.setStore k x).pins = s.pins := rfl
@[simp] theorem State.setStore_mgmt : (s.setStore k x).mgmt = s.mgmt := rfl
@[simp] theorem State.setStore_tx : (s.setStore k x).tx = s.tx := rfl
@[simp] theorem State.setStore_pending : (s.setStore k x).pending = s.pending := rfl

end

section

variable (s : State) (j : Job)

@[simp] theorem State.setJob_now : (s.setJob j).now = s.now := rfl
@[simp] theorem State.setJob_wsh : (s.setJob j).wsh = s.wsh := rfl
@[simp] theorem State.setJob_cfg : (s.setJob j).cfg = s.cfg := rfl
@[simp] theorem State.setJob_glb : (s.setJob j).glb = s.glb := rfl
@[simp] theorem State.setJob_fns : (s.setJob j).fns = s.fns := rfl
@[simp] theorem State.setJob_reaches : (s.setJob j).reaches = s.reaches := rfl
@[simp] theorem State.setJob_queues : (s.setJob j).queues = s.queues := rfl
@[simp] theorem State.setJob_runs : (s.setJob j).runs = s.runs := rfl
@[simp] theorem State.setJob_weir : (s.setJob j).weir = s.weir := rfl
@[simp] theorem State.setJob_kst : (s.setJob j).kst = s.kst := rfl
@[simp] theorem State.setJob_slots : (s.setJob j).slots = s.slots := rfl
@[simp] theorem State.setJob_records : (s.setJob j).records = s.records := rfl
@[simp] theorem State.setJob_spr : (s.setJob j).spr = s.spr := rfl
@[simp] theorem State.setJob_tiles : (s.setJob j).tiles = s.tiles := rfl
@[simp] theorem State.setJob_chainEpoch : (s.setJob j).chainEpoch = s.chainEpoch := rfl
@[simp] theorem State.setJob_cores : (s.setJob j).cores = s.cores := rfl
@[simp] theorem State.setJob_parts : (s.setJob j).parts = s.parts := rfl
@[simp] theorem State.setJob_spans : (s.setJob j).spans = s.spans := rfl
@[simp] theorem State.setJob_sel : (s.setJob j).sel = s.sel := rfl
@[simp] theorem State.setJob_stores : (s.setJob j).stores = s.stores := rfl
@[simp] theorem State.setJob_cprof : (s.setJob j).cprof = s.cprof := rfl
@[simp] theorem State.setJob_meas : (s.setJob j).meas = s.meas := rfl
@[simp] theorem State.setJob_measCnt : (s.setJob j).measCnt = s.measCnt := rfl
@[simp] theorem State.setJob_hbm : (s.setJob j).hbm = s.hbm := rfl
@[simp] theorem State.setJob_cfl : (s.setJob j).cfl = s.cfl := rfl
@[simp] theorem State.setJob_evt : (s.setJob j).evt = s.evt := rfl
@[simp] theorem State.setJob_snp : (s.setJob j).snp = s.snp := rfl
@[simp] theorem State.setJob_fuse : (s.setJob j).fuse = s.fuse := rfl
@[simp] theorem State.setJob_lcs : (s.setJob j).lcs = s.lcs := rfl
@[simp] theorem State.setJob_lev : (s.setJob j).lev = s.lev := rfl
@[simp] theorem State.setJob_rst : (s.setJob j).rst = s.rst := rfl
@[simp] theorem State.setJob_ao : (s.setJob j).ao = s.ao := rfl
@[simp] theorem State.setJob_ledger : (s.setJob j).ledger = s.ledger := rfl
@[simp] theorem State.setJob_fwu : (s.setJob j).fwu = s.fwu := rfl
@[simp] theorem State.setJob_pwr : (s.setJob j).pwr = s.pwr := rfl
@[simp] theorem State.setJob_pins : (s.setJob j).pins = s.pins := rfl
@[simp] theorem State.setJob_mgmt : (s.setJob j).mgmt = s.mgmt := rfl
@[simp] theorem State.setJob_tx : (s.setJob j).tx = s.tx := rfl
@[simp] theorem State.setJob_pending : (s.setJob j).pending = s.pending := rfl

end

section

variable (s : State) (o : Out)

@[simp] theorem State.sent_now : (s.sent o).now = s.now := rfl
@[simp] theorem State.sent_wsh : (s.sent o).wsh = s.wsh := rfl
@[simp] theorem State.sent_cfg : (s.sent o).cfg = s.cfg := rfl
@[simp] theorem State.sent_glb : (s.sent o).glb = s.glb := rfl
@[simp] theorem State.sent_fns : (s.sent o).fns = s.fns := rfl
@[simp] theorem State.sent_reaches : (s.sent o).reaches = s.reaches := rfl
@[simp] theorem State.sent_queues : (s.sent o).queues = s.queues := rfl
@[simp] theorem State.sent_jobs : (s.sent o).jobs = s.jobs := rfl
@[simp] theorem State.sent_runs : (s.sent o).runs = s.runs := rfl
@[simp] theorem State.sent_weir : (s.sent o).weir = s.weir := rfl
@[simp] theorem State.sent_kst : (s.sent o).kst = s.kst := rfl
@[simp] theorem State.sent_slots : (s.sent o).slots = s.slots := rfl
@[simp] theorem State.sent_records : (s.sent o).records = s.records := rfl
@[simp] theorem State.sent_spr : (s.sent o).spr = s.spr := rfl
@[simp] theorem State.sent_tiles : (s.sent o).tiles = s.tiles := rfl
@[simp] theorem State.sent_chainEpoch : (s.sent o).chainEpoch = s.chainEpoch := rfl
@[simp] theorem State.sent_cores : (s.sent o).cores = s.cores := rfl
@[simp] theorem State.sent_parts : (s.sent o).parts = s.parts := rfl
@[simp] theorem State.sent_spans : (s.sent o).spans = s.spans := rfl
@[simp] theorem State.sent_sel : (s.sent o).sel = s.sel := rfl
@[simp] theorem State.sent_stores : (s.sent o).stores = s.stores := rfl
@[simp] theorem State.sent_cprof : (s.sent o).cprof = s.cprof := rfl
@[simp] theorem State.sent_meas : (s.sent o).meas = s.meas := rfl
@[simp] theorem State.sent_measCnt : (s.sent o).measCnt = s.measCnt := rfl
@[simp] theorem State.sent_hbm : (s.sent o).hbm = s.hbm := rfl
@[simp] theorem State.sent_cfl : (s.sent o).cfl = s.cfl := rfl
@[simp] theorem State.sent_evt : (s.sent o).evt = s.evt := rfl
@[simp] theorem State.sent_snp : (s.sent o).snp = s.snp := rfl
@[simp] theorem State.sent_fuse : (s.sent o).fuse = s.fuse := rfl
@[simp] theorem State.sent_lcs : (s.sent o).lcs = s.lcs := rfl
@[simp] theorem State.sent_lev : (s.sent o).lev = s.lev := rfl
@[simp] theorem State.sent_rst : (s.sent o).rst = s.rst := rfl
@[simp] theorem State.sent_ao : (s.sent o).ao = s.ao := rfl
@[simp] theorem State.sent_ledger : (s.sent o).ledger = s.ledger := rfl
@[simp] theorem State.sent_fwu : (s.sent o).fwu = s.fwu := rfl
@[simp] theorem State.sent_pwr : (s.sent o).pwr = s.pwr := rfl
@[simp] theorem State.sent_pins : (s.sent o).pins = s.pins := rfl
@[simp] theorem State.sent_mgmt : (s.sent o).mgmt = s.mgmt := rfl
@[simp] theorem State.sent_pending : (s.sent o).pending = s.pending := rfl
@[simp] theorem State.sent_tx : (s.sent o).tx = s.tx ++ [o] := rfl

end

end Sys2Proof.Machine
end

