-- ==== Sys2Proof/Tests/Slice0.lean ====
section
/-! SUPPORT. The model's own tests: for each statement of Certificates/Slice0/Obligations.lean small states that meet its
hypotheses (`test_w_…`), the answer of one command on such a state, an ill-formed command for each check of WellFormed, and
words and values that the manual prints. -/

namespace Sys2Proof.Tests

-- one test after another: many kernel evaluations at once take many threads
set_option Elab.async false

open Sys2Proof Sys2Proof.Machine

/-! ## Small states -/

/-- Reach 0 has the PF and VF 1 with four queues each. -/
def reach0 : ReachRec where
  id := 0
  strict := false
  maskMin := 0
  queues := 4
  slotWords := 64
  weight := 1
  keyBase := 0
  keyCount := 16
  pchMask := 0
  prio0Rate := 0
  privMib := 0
  treeMib := 0
  matrixMib := 0
  mceMib := 0
  ownerDigest := []
  functions := 3
  pers := []
  vlen256 := false
  rateLimit := 0

def cfg0 : Setup := { Setup.empty with
  reaches := [reach0]
  tiles := [{ reach := 0, mode := .pooled, slotMask := 0, pt := 1, ht := 1, bnu := 1, cu := 1, cc := 1 }]
  progs := [{ id := 7, reach := 0, entry := 0, code := toLe 4 0x38000200, data := [] }] }

/-- A device in service: OWNED, its link up, reach 0 serving. -/
def dev : State := { State.reset with
  rst := { Rst.reset with inReset := false, linkUp := true, inService := true, step := 17 }
  lcs := { Lcs.reset with st := .owned, pos := 19, sensed := true }
  lev := { Lev.reset with watching := true }
  wsh := { Wsh.reset with st := .committed, configured := true }
  spr := { Spr.reset with
    st := .running, drbg := [(64, { Drbg.reset with st := .ready, key := zeros 32, v := zeros 16 })] }
  cfg := cfg0
  reaches := [(0, { ReachState.reset with st := .serving })]
  queues := [(0, { Queue.reset with enable := true, sqLog2 := 4, cqLog2 := 4 })]
  glb := { Glb.reset with speed := 5, width := 16, vfEnable := true, numVfs := 1 } }

/-- A NOP entry of CID 9 with COMP_REQ. -/
def nopEntry : Entry where
  opcode := 0
  ctrl := 8
  cid := 9
  flowId := 0
  slot := 0
  delay := 0
  inLen := 0
  paramAddr := 0
  outAddr := 0
  inAddr := 0
  tail := []

def arr : Arrival where
  slot := zeros 64
  slotErr := false
  param := zeros 64
  inTable := []
  outTables := []
  readErr := false

def job0 : Job := { newJob 0 0 0 0 0 nopEntry arr with inDone := true }

/-- One node of a class. -/
def node1 (c : NodeClass) (st : NodeSt) : Node where
  info := { cls := c, output := true, routine := 0, deps := 0, arg := 0 }
  st := st
  restarts := 0
  seq := 0
  iter := 0
  resolved := [(c.code * 256, 0)]
  cycles := 0
  saved := none
  ctx := .lane
  drawn := 0
  avoid := none
  served := false
  inHbm := false
  intr := none

/-- The device with one job. -/
def withJob (j : Job) : State := { dev with jobs := [j] }

/-- The command answers a next state with the property. -/
def after (o : Host.Outcome State Fault Refusal) (p : State → Bool) : Bool :=
  match o with
  | .next t => p t
  | _ => false

/-! ## The whole machine -/

theorem test_reset_mem : memWf State.reset.hbm.mem = true := by decide

theorem test_step_idle : after (step State.reset) (fun t => t.now == 1 && t.pending == []) = true := by decide

theorem test_step_takes_front :
    after (step { State.reset with pending := [.begin, .commit] }) (fun t => t.pending == [.commit]) = true := by decide

theorem test_w_invariants : MemOk dev ∧ LeveeRanked { dev with lev := { dev.lev with queue := [⟨0, []⟩, ⟨5, []⟩] } } := by
  unfold MemOk LeveeRanked; decide

theorem test_w_fuses : step dev = .next { dev with now := 1 } := rfl

theorem test_w_reconfigure : mayReconfigure .begin = false ∧ mayBurn .begin = false ∧ exec .begin State.reset = .next State.reset := by
  refine ⟨?_, ?_, rfl⟩ <;> decide

theorem test_w_stopped :
    origin .begin = .host ∧ State.reset.hostOpen = false ∧ State.reset.hostLinked = false ∧
    origin .sqFetch = .engine ∧ State.reset.alive = false ∧ origin .log = .levee ∧ State.reset.leveeOn = false ∧
    origin (.read32 0) = .port ∧ State.reset.portOpen = false := by decide

/-! ## The Watershed controller -/

def stream0 : Stream where
  serial := 5
  partialLoad := false
  cfg := cfg0
  sigs := []
  digest := zeros 48
  named := [0]
  namedAt := [(0, 64)]
  dropped := []
  images := []

def loading : State := { dev with wsh := { Wsh.reset with st := .loading } }
def valid : State := { dev with wsh := { Wsh.reset with st := .valid, parsed := some stream0 } }
def committing : State := { valid with wsh := { valid.wsh with st := .committing } }

theorem test_w_loads :
    dev.hostOpen = true ∧ dev.lcs.pending = false ∧ dev.rst.safeStandby = false ∧
    dev.wsh.st ∈ [WshState.empty, .valid, .rejected, .committed] ∧ loading.hostOpen = true ∧
    loading.wsh.st ∉ [WshState.empty, .valid, .rejected, .committed] ∧ dev.wsh.st ≠ .loading ∧
    loading.wsh.st ∈ [WshState.loading, .valid, .rejected] ∧ dev.wsh.st ∉ [WshState.loading, .valid, .rejected] ∧
    dev.wsh.st ≠ .valid := by decide

theorem test_begin : after (exec .begin dev) (fun t => t.wsh.st == .loading) = true := by decide

theorem test_begin_while_loading : after (exec .begin loading) (fun t => t.wsh.errCode == 0x13) = true := by decide

theorem test_w_validation :
    let s : State := { dev with wsh := { Wsh.reset with st := .validating } }
    s.alive = true ∧ s.wsh.st = .validating ∧ (validateStream s.valEnv s.wsh.bytes).toOption = none := by decide

theorem test_validate_empty_stream :
    after (exec .validationComplete { dev with wsh := { Wsh.reset with st := .validating } })
      (fun t => t.wsh.st == .rejected && t.wsh.errCode == 0x01) = true := by decide

theorem test_w_commit :
    valid.hostLinked = true ∧ valid.lcs.pending = false ∧ valid.rst.safeStandby = false ∧ valid.wsh.st = .valid ∧
    valid.wsh.parsed = some stream0 ∧ stream0.partialLoad = false ∧
    ({ valid with rst := { valid.rst with fenced := true } } : State).rst.fenced = true ∧
    (let p : Stream := { stream0 with partialLoad := true }
     let s : State := { valid with wsh := { valid.wsh with parsed := some p } }
     ∃ x ∈ p.namedAt, x.1 ∈ s.busyReaches) ∧
    (let s : State := { committing with wsh := { committing.wsh with springWait := true }, spr := Spr.reset }
     s.alive = true ∧ s.wsh.st = .committing ∧ s.wsh.springWait = true ∧ s.spr.st ≠ .running) := by decide

theorem test_commit_under_fence :
    after (exec .commit { valid with rst := { valid.rst with fenced := true } }) (fun t => t.wsh.errCode == 0x13) = true := by
  decide

theorem test_commit_starts : after (exec .commit valid) (fun t => t.wsh.st == .committing) = true := by decide

theorem test_w_switch :
    committing.alive = true ∧ committing.wsh.st = .committing ∧ committing.wsh.parsed = some stream0 ∧
    committing.rst.inService = true ∧ committing.wsh.springWait = false ∧ stream0.cfg.reach 0 = some reach0 ∧
    reach0.id ∈ committing.createdBy stream0 ∧ stream0.partialLoad = false ∧ committing.meas.length = 16 ∧
    committing.ledger.readOnly = false := by decide

/-! ## Functions and reaches -/

def quiesced : State := { dev with reaches := [(0, { ReachState.reset with st := .quiesced })] }

theorem test_w_link :
    dev.rst.inReset = false ∧ dev.hostOpen = true ∧ (dev.fn 1).d3hot = false ∧
    ((dev.setFn 1 { FnState.reset with d3hot := true }).fn 1).d3hot = true ∧ dev.glb.vfEnable = true ∧
    (∀ i, i < dev.glb.numVfs → dev.fnQuiesced (i + 1) = true) ∧
    (let s := dev.setQueue (qkey 1 0) { Queue.reset with enable := true }
     0 < s.glb.numVfs ∧ s.fnQuiesced 1 = false) ∧
    ({ dev with glb := Glb.reset } : State).glb.vfEnable = false := by decide

theorem test_link_slow : after (exec (.linkSettle 2 16) dev) (fun t => t.glb.linkSlow && (t.source 0x052).pending) = true := by
  decide

theorem test_vf_disable_busy :
    after (exec (.vfEnableWrite false 0) (dev.setQueue (qkey 1 0) { Queue.reset with enable := true }))
      (fun t => t.glb.selVf == 1 && t.glb.vfResult == 0x0109 && t.glb.vfEnable) = true := by decide

theorem test_w_quiesce :
    (dev.reach 0).st = .serving ∧ (quiesced.reach 0).st = .quiesced ∧ quiesced.resumeBlocked 0 = false ∧
    (dev.reach 5).st = .absent ∧
    ((dev.setReach 0 { ReachState.reset with st := .removing }).reach 0).st = .removing := by decide

theorem test_quiesce : after (exec (.quiesce 0) dev) (fun t => (t.reach 0).st == .quiescing && t.glb.reachResult == 0) = true := by
  decide +kernel

theorem test_quiesce_absent : after (exec (.quiesce 5) dev) (fun t => t.glb.reachResult == 0x0103) = true := by decide

theorem test_w_vf :
    dev.vfPresent 1 = true ∧ dev.vfPresent 9 = false ∧ (dev.fn 1).resetting = false ∧ dev.resumeBlocked 0 = false ∧
    dev.fnQuiesced 1 = true ∧ dev.rst.fenced = false ∧ dev.commitNames 0 = false ∧ dev.fnOpen 1 = true ∧
    (dev.setQueue (qkey 1 0) { Queue.reset with enable := true }).fnQuiesced 1 = false ∧
    committing.wsh.st = .committing := by decide

theorem test_flr_refused :
    after (exec (.flr 1) (dev.setQueue (qkey 1 0) { Queue.reset with enable := true })) (fun t => (t.fn 1).flrRefused) = true := by
  decide

theorem test_w_reach_reset :
    quiesced.hostOpen = true ∧ quiesced.cfg.reach 0 = some reach0 ∧ (quiesced.reach 0).st = .quiesced ∧
    quiesced.commitNames 0 = false ∧ quiesced.rst.fenced = false ∧
    (let x : ReachRec := { reach0 with id := 3, functions := 0 }
     let s : State := { dev with
       cfg := { cfg0 with reaches := [reach0, x] }, reaches := tset dev.reaches 3 { ReachState.reset with st := .quiesced } }
     s.cfg.reach 3 = some x ∧ (s.reach 3).st = .quiesced ∧ s.commitNames 3 = false) := by decide

theorem test_w_reach_ends :
    dev.alive = true ∧
    (let s := dev.setReach 0 { ReachState.reset with st := .quiescing }
     (s.reach 0).st = .quiescing ∧ s.reachIdle 0 = true) ∧
    (let s := (withJob job0).setReach 0 { ReachState.reset with st := .quiescing }
     s.reachIdle 0 = false) ∧
    ((dev.setReach 0 { ReachState.reset with st := .resetting }).reach 0).st = .resetting ∧
    ((dev.setFn 1 { FnState.reset with resetting := true }).fn 1).resetting = true ∧
    ((dev.setTile (tkey .pt 3) { Tile.reset with st := .resetting }).tile (tkey .pt 3)).st = .resetting ∧
    ((dev.setBasin 2 .resetting).basin 2) = .resetting ∧
    ((basinUnits 2).any fun u => (dev.tile (tkey u.1 u.2)).st != .disabled && !bitOf (dev.rst.disabled u.1) u.2) = true := by
  decide

/-! ## The Sluice -/

def queue0 : Queue := { Queue.reset with enable := true, sqLog2 := 4, cqLog2 := 4, tail := 1 }

theorem test_w_doorbell :
    dev.doorbellOpen 0 0 = true ∧
    (let x := dev.queue 0
     x.pending ≤ modSub 3 x.head (2 ^ x.sqLog2) ∧ 3 ≠ x.tail ∧ 3 < 2 ^ x.sqLog2 ∧
     modSub 0 x.cqHead (2 ^ x.cqLog2) ≤ modSub x.cqTail x.cqHead (2 ^ x.cqLog2) ∧ 2 ^ x.sqLog2 ≤ 16 ∧
     modSub x.cqTail x.cqHead (2 ^ x.cqLog2) < modSub 1 x.cqHead (2 ^ x.cqLog2)) ∧
    (let s := dev.setQueue 0 queue0
     s.alive = true ∧ s.intakeOpen = true ∧ s.nextFetch = some (0, queue0)) := by decide

theorem test_doorbell_err : after (exec (.sqDoorbell 0 0 16) dev) (fun t => (t.queue 0).dbErr && (t.queue 0).tail == 0) = true := by
  decide

theorem test_fetch : after (exec .sqFetch (dev.setQueue 0 queue0)) (fun t => (t.queue 0).fetching == 1) = true := by decide

def fetching : State := dev.setQueue 0 { queue0 with fetching := 1 }

theorem test_w_arrival :
    fetching.rst.sluiceStopped = false ∧ fetching.cfg.reachOf 0 = some 0 ∧ fetching.cfg.reach 0 = some reach0 ∧
    (fetching.queue 0).fetching = 1 ∧ arr.slotErr = false ∧
    fetching.tokenFor (newJob 0 0 0 0 (fetching.queue 0).coveredAt (parseEntry arr.slot) arr) = true ∧
    (let s := fetching.setQueue 0 { queue0 with tokenWait := some (false, 0) }
     s.tokenFree 0 0 0 (false, 0) = true) := by decide

theorem test_arrival_becomes_job :
    after (exec (.entryArrival 0 0 [arr]) fetching) (fun t => t.jobs.length == 1 && (t.queue 0).head == 1) = true := by decide

theorem test_arrival_unreadable :
    after (exec (.entryArrival 0 0 [{ arr with slotErr := true }]) fetching)
      (fun t => (t.queue 0).fetchErr && !(t.queue 0).enable && (t.queue 0).head == 0) = true := by decide

def running : Job := { job0 with st := .running }

theorem test_w_stream :
    (withJob running).job 0 = some running ∧ running.status = none ∧ running.committed = false ∧
    (let j : Job := { running with inDone := false, entry := { nopEntry with inLen := 4 } }
     tableOk [⟨0, 4, 1⟩] = some ([⟨0, 4, 1⟩], true) ∧ j.inSum + fragSum [⟨0, 4, 1⟩] ≤ j.entry.inLen ∧
     j.inSum + fragSum [⟨0, 4, 1⟩] = j.entry.inLen ∧ fragSum [⟨0, 5, 1⟩] ≠ 4 ∧ tableOk [] = none) := by decide

def done0 : Job := { job0 with st := .ended, status := some .ok }

theorem test_w_retire :
    let s := withJob done0
    s.job 0 = some done0 ∧ done0.forPeer = none ∧ s.mayRetire done0 = true ∧ done0.entry.compReq = true ∧
    (s.runs.find? fun r => r.ofJob done0) = none ∧ (s.fn 0).d3hot = false ∧ (s.queue 0).waiting = [] ∧
    (s.queue 0).full = false := by decide

/-- R107: CID at byte 0, STATUS at 2, and PHASE in bit 0 of byte 28. -/
theorem test_completion_bytes :
    let b := (done0.completion none).bytes 0 0 true
    b.length = 32 ∧ b.take 4 = [9, 0, 0, 0] ∧ slice b 28 4 = [9, 0, 0, 0] ∨ fieldLe b 28 4 % 2 = 1 := by decide

theorem test_retire : after (exec (.jobRetire 0) (withJob done0)) (fun t => t.jobs == [] && (t.queue 0).cqTail == 1) = true := by
  decide

theorem test_w_queue :
    dev.granted 0 0 = true ∧ (dev.queue 0).enable = true ∧ (dev.queue 1).enable = false ∧ dev.outstanding 0 1 = 0 ∧
    dev.resumeBlocked 0 = false ∧ (dev.queue 1).valid = false ∧
    ({ Queue.reset with sqLog2 := 6, cqLog2 := 16, sqBase := 4096, cqBase := 8192 } : Queue).valid = true ∧
    (let s : State := { dev with rst := { dev.rst with fenced := true } }
     s.resumeBlocked 0 = true) := by decide

theorem test_abort_none : after (exec (.sluQAbort 0 0 false 3) dev) (fun t => (t.queue 0).result == 0x0103) = true := by decide

theorem test_abort_running :
    after (exec (.sluQAbort 0 0 true 0) (withJob running)) (fun t => (t.job 0).any fun j => j.status == some .aborted) = true := by
  decide

/-! ## The Weir -/

def kemEntry : Entry := { nopEntry with opcode := 0x0100 }
def kemJob : Job := { job0 with entry := kemEntry }

theorem test_w_admission :
    let s := withJob kemJob
    s.job 0 = some kemJob ∧ kemJob.st = .fetched ∧ kemJob.status = none ∧ s.fenceBlocks kemJob = false ∧
    kemJob.abortLate = false ∧ s.spillable kemJob = false ∧ s.basinWait kemJob = false ∧
    s.cfg.reach 0 = some reach0 ∧ reach0.rateLimit = 0 ∧ (s.templateFor kemJob).1 ≠ [] ∧ s.homeBasin kemJob = some 0 ∧
    s.delayEnd kemJob ≤ s.now ∧ ((withJob job0).templateFor job0).1 = [] := by decide

theorem test_admission : after (exec (.jobAdmit 0) (withJob kemJob)) (fun t =>
    (t.job 0).any fun j => j.st == .admitted && j.basin == 0) = true := by decide

def admitted : Job := { kemJob with st := .admitted, paid := true }

theorem test_w_place :
    (withJob admitted).alive = true ∧ admitted.st = .admitted ∧
    (withJob admitted).nodesUsed 0 + ((withJob admitted).templateFor admitted).1.length ≤ 16384 := by decide

theorem test_place : after (exec (.templateInstantiate 0) (withJob admitted)) (fun t =>
    (t.job 0).any fun j => j.st == .running && !j.nodes.isEmpty) = true := by decide

def readyJob : Job := { kemJob with st := .running, nodes := [node1 .pt .ready] }

theorem test_w_dispatch :
    let s := withJob readyJob
    s.engineFree .pt 0 = true ∧ (s.chooseNode .pt 0 (s.engineBasin .pt 0)).1.isSome = true ∧
    (dev.chooseNode .pt 0 (dev.engineBasin .pt 0)).1 = none ∧
    (tkey .pt 0, (s.tile (tkey .pt 0)).epoch) ∈ (node1 .pt .ready).resolved ∧ readyJob.entry.keyValid = false := by decide

theorem test_dispatch : after (exec (.nodeDispatch 0 0) (withJob readyJob)) (fun t =>
    (t.tile 0).node == some (0, 0) && (t.tile 0).st == .busy) = true := by decide

theorem test_dispatch_stale : after (exec (.nodeDispatch 0 0) ((withJob readyJob).setTile 0 { Tile.reset with epoch := 1 }))
    (fun t => (t.reach 0).stale == 1 && (t.tile 0).node == none) = true := by decide

def onTile (c : NodeClass) : State :=
  (withJob { kemJob with st := .running, nodes := [{ node1 c (.running (c.code * 256)) with info := { (node1 c .ready).info with output := false } },
    node1 c .waiting] }).setTile (c.code * 256) { Tile.reset with st := .busy, node := some (0, 0) }

theorem test_w_complete :
    let s := onTile .ht
    ∃ j n, s.job 0 = some j ∧ j.node 0 = some n ∧ n.st = .running 512 ∧ n.info.customer (s.isOp j .ownerOpcode) = false ∧
      s.maskNeed j n.info ≤ n.drawn ∧ some 0 ≠ j.nodes.findIdx? (fun m => m.info.output) :=
  ⟨_, _, rfl, rfl, rfl, by decide, by decide, by decide⟩

def delayed : Job := { kemJob with st := .delayed, entry := { kemEntry with delay := 3 } }

theorem test_w_releases :
    (withJob delayed).job 0 = some delayed ∧ dev.rateLimit 0 = 0 ∧
    ((dev.setTile (tkey .bnu 0) { Tile.reset with node := some (0, 0) }).tile (tkey .bnu 0)).node.isSome = true ∧
    dev.weir.frameRun = false ∧ (∀ r ∈ dev.listReqs, dev.entryServes 0 r = false) ∧
    (let j : Job := { delayed with st := .delayPend }
     let s := withJob j
     ∃ r, s.listReqs = [r] ∧ s.entryServes 0 r = true ∧ s.job r.job = some j ∧ r.node = none) := by
  refine ⟨by decide, by decide, by decide, by decide, by decide, ?_⟩
  exact ⟨_, rfl, by decide, by decide, by decide⟩

theorem test_timed_release : after (exec (.timedRelease 0) (withJob delayed)) (fun t =>
    3000 ≤ t.now && (t.job 0).any fun j => j.st == .admitted) = true := by decide

def backoffJob : Job := { kemJob with st := .running, nodes := [node1 .pt (.backoff 500)] }

theorem test_w_backoff :
    (withJob backoffJob).job 0 = some backoffJob ∧ backoffJob.node 0 = some (node1 .pt (.backoff 500)) ∧
    (withJob backoffJob).stillUsable backoffJob (node1 .pt (.backoff 500)) = true ∧
    (let j : Job := { backoffJob with nodes := [{ node1 .entropyWait (.entropyWait 9) with served := true }] }
     j.nodes.findIdx? Node.served = some 0 ∧ (withJob j).springDown = false ∧ j.entropyEnd = some 9) ∧
    backoffJob.nodes.findIdx? Node.served = none := by decide

theorem test_backoff : after (exec (.backoffExpiry 0 0) (withJob backoffJob)) (fun t =>
    t.now == 500 && (t.job 0).any fun j => (j.node 0).any fun n => n.st == .ready) = true := by decide

theorem test_w_yield :
    let s := onTile .bnu
    ∃ j n, s.job 0 = some j ∧ j.node 0 = some n ∧ (s.tile (tkey .bnu 0)).node = some (0, 0) ∧
      (s.tile (tkey .bnu 0)).seqr.committed = false ∧ n.info.customer false = false ∧ s.bnuYields 0 j = false :=
  ⟨_, _, rfl, rfl, by decide, by decide, by decide, by decide⟩

def spill0 : SpillMsg where
  abort := false
  src := 2
  seq := 1
  reach := 0
  epoch := 0
  ownerDigest := []
  slot := zeros 64
  param := []
  input := []
  keyId := []

def linked : State := dev.setPort 0 { Port.reset with st := .up, peerDev := 2 }

theorem test_w_spill :
    linked.alive = true ∧ (linked.port 0).st = .up ∧ linked.rst.fenced = false ∧ linked.lev.fenced = false ∧
    linked.cfg.reach 0 = some reach0 ∧ (linked.reach 0).epoch.toNat = spill0.epoch ∧
    reach0.ownerDigest = spill0.ownerDigest ∧ (linked.reach 0).st = .serving ∧ reach0.strict = false ∧
    linked.backlog ≤ linked.spillThreshold ∧ linked.spillKeyOk (parseEntry spill0.slot) spill0.keyId = true ∧
    (let j : Job := { job0 with st := .spilled, spillAt := some 0 }
     (withJob j).job 0 = some j ∧ statusOf 0x0103 = some .badParams) ∧
    (let j : Job := { running with forPeer := some (0, 1) }
     ((withJob j).jobs.find? fun y => y.forPeer == some (0, 1)) = some j) := by decide

theorem test_spill_taken : after (exec (.spill 0 spill0) linked) (fun t => t.jobs.length == 1 && t.weir.spillIn == 1) = true := by
  decide

theorem test_spill_stale : after (exec (.spill 0 { spill0 with epoch := 1 }) linked) (fun t =>
    t.jobs == [] && t.cfl.staleIn == 1) = true := by decide

/-! ## Events and snapshots -/

def withMsix : State := dev.setFn 0 { FnState.reset with msixEnable := true, vecOpen := [0, 1, 2, 3] }

theorem test_w_events :
    (let s := dev.setSource 0x050 { EvtSrc.reset with unsent := 1 }
     (s.source 0x050).unsent ≠ 0 ∧ (s.source 0x050).mask = false) ∧
    (let s : State := { dev with cfg := { cfg0 with events :=
      [{ source := 0x050, masked := false, toVf := false, func := 0, vector := 1, coalCount := 9, coalTimeUs := 5, queueMask := 0 }] } }
     (s.route 0x050).timeUs ≠ 0 ∧ s.msixOpen 0 1 = false) ∧
    withMsix.msixOpen 0 1 = true ∧ withMsix.hostOpen = true ∧ eventListed 0x050 = true ∧
    msixWithin 0 (.funcMask true) = true ∧ msixWithin 1 (.vecMask 64 true) = false := by decide

theorem test_unmask_sends :
    after (exec (.eventMaskWrite 0 0) { withMsix.setSource 0x050 { EvtSrc.reset with mask := true, unsent := 2 } with
      evt := { src := [(0x050, { EvtSrc.reset with mask := true, unsent := 2 })], sel := 0x050 } })
      (fun t => (t.source 0x050).unsent == 0 && !(t.source 0x050).mask && t.tx.length == 1) = true := by decide

theorem test_w_snapshots :
    dev.snp.enPin = false ∧ dev.snp.enCmd = true ∧ dev.snp.broadcast = false ∧ dev.snp.frozen = false ∧
    dev.snp.arm = true ∧ dev.rst.inService = true ∧
    ({ dev with snp := { Snp.reset with frozen := true } } : State).snp.frozen = true := by decide

theorem test_capture : after (exec .capture dev) (fun t => t.snp.frozen && t.snp.captures == 1 && t.pins.trigOut) = true := by
  decide

theorem test_capture_missed : after (exec .capture { dev with snp := { Snp.reset with frozen := true } }) (fun t =>
    t.snp.missed == 1 && t.snp.captures == 0) = true := by decide

/-! ## Reset and boot -/

def largeDev : State := { dev with cfg := { cfg0 with device := { cfg0.device with large := true } } }

theorem test_w_resets :
    dev.rst.inReset = false ∧ dev.rst.heldCause = none ∧ dev.rst.resetN = false ∧ dev.rst.pwrgood = true ∧
    dev.rst.perstN = false ∧ dev.large = false ∧ dev.cfg.policy.devResetEn = true ∧ dev.rst.pulse = none ∧
    dev.lev.unrun = 0 ∧ dev.rst.fenced = false ∧ largeDev.large = true ∧ largeDev.blockBusy = false ∧
    ({ dev with rst := { dev.rst with wdtArmed := true } } : State).rst.wdtArmed = true := by decide

theorem test_reset_input : after (exec .resetN dev) (fun t =>
    t.rst.inReset && t.jobs == [] && t.cfg == Setup.empty && t.ao.cause == 2 && t.fuse == dev.fuse) = true := by decide +kernel

theorem test_critical_fences_large : after (exec (.criticalError 3) largeDev) (fun t =>
    t.rst.fenced && !t.rst.inReset && (t.source 0x050).pending) = true := by decide +kernel

theorem test_w_supply :
    dev.rst.pwrgood = true ∧ ({ dev with rst := { dev.rst with pwrgood := false } } : State).rst.pwrgood = false ∧
    (let s : State := { dev with rst := { dev.rst with heldCause := some 2, pulse := some .fuse } }
     s.rst.heldCause = some 2) ∧
    (let s : State := { dev with rst := { dev.rst with heldFence := some 16, pulse := some .ledger } }
     s.rst.heldCause = none ∧ s.rst.heldFence = some 16 ∧ s.pulseEnd.blockBusy = false ∧ s.pulseEnd.rst.fenced = false) := by
  decide

theorem test_pwrgood_falls : after (exec .pwrgoodDeassert dev) (fun t =>
    t.ao.onBattery && !t.rst.pwrgood && t.pwr.targetMv == 800 && bitOf t.ao.cause 0) = true := by decide +kernel

def bootWaits (n : Nat) : State := { State.reset with
  rst := { Rst.reset with inReset := false, step := n, waiting := true, portsLeft := [0] } }

theorem test_w_boot :
    State.reset.rst.inReset = true ∧ State.reset.rst.pwrgood = true ∧ State.reset.rst.resetN = false ∧
    (bootWaits 6).rst.waiting = true ∧ (bootWaits 6).rst.step = 6 ∧ (bootWaits 6).rst.inReset = false ∧
    (bootWaits 15).alive = true ∧ (bootWaits 15).rst.step = 15 ∧ (bootWaits 15).rst.portsLeft = [0] := by decide

theorem test_w_boot_timeout :
    (bootWaits 6).scrapped = false ∧ 6 ∉ (bootWaits 6).rst.alts ∧ (bootWaits 6).ao.recent < 3 ∧
    (bootWaits 6).rst.fenced = false ∧ (bootWaits 6).lev.unrun = 0 ∧
    ({ bootWaits 6 with ao := { Ao.reset with recent := 3 } } : State).ao.recent = 3 ∧
    (bootWaits 6).spr.waiting = [] := by decide +kernel

/-- Four blocks of each source, whose bits pass every test. -/
def goodRaw : Bytes := List.replicate 2048 0x99

theorem test_w_first_seed :
    let x := (bootWaits 6).spr.start [1000, 1000, 1000, 1000] 0 goodRaw
    x.failed = 0 ∧ 2 ≤ x.outs.length := by decide +kernel

theorem test_boot_timeout_retries : after (exec (.bootStepTimeout 6) (bootWaits 6)) (fun t =>
    t.rst.inReset && t.ao.cause == 128) = true := by decide +kernel

/-! ## The Levee -/

def seen : LevSrc := { LevSrc.reset with detA := true, detB := true }

theorem test_w_alarms :
    dev.leveeOn = true ∧ dev.lev.bist.running = false ∧ (dev.levCfg 1).actions ≠ 0 ∧ (dev.levSrc 1).latched = false ∧
    isTransient 1 = false ∧ isTransient 25 = true ∧ (List.range 26).any (fun i => (dev.levCfg i).countN ≤ 1) = true ∧
    (List.range 26).any (fun i => !isTransient i && 1 < (dev.levCfg i).countN) = true ∧
    ((dev.setLevSrc 1 { LevSrc.reset with detA := true }).levSrc 1).detA = true ∧
    ((dev.setLevSrc 1 { LevSrc.reset with openAt := some 0, count := 1 }).levSrc 1).openAt = some 0 ∧
    ((dev.setLevSrc 1 { LevSrc.reset with latched := true }).levSrc 1).latched = true := by decide

def set0 : AlarmSet := { no := 0, time := 0, trips := [{ source := 1, det := 1, count := 1 }], union := 3 }

theorem test_w_gather : ({ dev with lev := { dev.lev with gather := some set0 } } : State).lev.gather = some set0 := by decide

theorem test_gather_queues_in_rank_order :
    after (exec .gatheringIntervalEnd { dev with lev := { dev.lev with gather := some set0 } }) (fun t =>
      t.lev.queue.map LevAct.rank == [0, 1] && t.lev.setNo == 1) = true := by decide +kernel

def queued (k : Nat) : State := { dev with lev := { dev.lev with queue := [{ rank := k, sets := [set0] }] } }

theorem test_w_actions : ∀ k < 9, (queued k).leveeOn = true ∧ (queued k).lev.queue = [{ rank := k, sets := [set0] }] ∧
    (queued k).rst.pulse = none ∧ (queued k).rst.heldCause = none := by decide

theorem test_log_action : after (exec .log (queued 0)) (fun t => t.lev.queue == [] && t.lev.logTotal == 1) = true := by decide

theorem test_log_not_at_head : after (exec .log (queued 1)) (fun t => t.lev.queue.length == 1) = true := by decide

theorem test_halt : after (exec .halt (queued 7)) (fun t => t.lev.halted && t.pins.fault && !t.hostOpen) = true := by decide

theorem test_clear_all : after (exec .clearAll (queued 6)) (fun t =>
    t.rst.sluiceStopped && t.ao.zeroised && t.spr.drbg == []) = true := by decide +kernel

theorem test_w_bist :
    bistSource 3 = true ∧ bistSource 22 = false ∧ dev.lev.watching = true ∧ (dev.levSrc 3).latched = false ∧
    dev.rst.pwrgood = true ∧ (List.range 26).any (fun i => (dev.levCfg i).bistH == 0) = true ∧
    State.reset.lev.watching = false := by decide

theorem test_bist_verdict_fails :
    after (exec (.bistVerdict false) { dev with lev := { dev.lev with bist := { dev.lev.bist with running := true, source := 3 } } })
      (fun t => t.lev.bist.fail && (t.source 0x223).pending) = true := by decide +kernel

/-! ## The life cycle -/

/-- R392: OWNED at generation 0 is 0x7FFFF, and the codes of its FIELD_RETURN and of generation 1 follow. -/
theorem test_state_codes : posCode 19 = 0x7FFFF ∧ posCode 20 = 0xFFFFF ∧ posCode 21 = 0x1FFFFF ∧ posState 19 = .owned ∧
    posState 20 = .fieldReturn ∧ posState 21 = .owned := by decide

theorem test_w_life :
    dev.hostOpen = true ∧ quiesced.lcBusy = false ∧ quiesced.lcScrap.isSome = true ∧ quiesced.lcTestLock = none ∧
    dev.lcBusy = true ∧ dev.lcs.st = posState dev.lcs.pos ∧ dev.lcs.pos ≤ 33 ∧
    lifeAgrees dev.lcs.pos dev.lcs.gen dev.lcs.used = true := by decide

theorem test_life_busy : after (exec .scrap dev) (fun t => t.lcs.result == 0x0109 && !t.lcs.pending) = true := by decide

theorem test_life_refused : after (exec .testLock quiesced) (fun t => t.lcs.result == 0x0103 && t.lcs.done) = true := by decide

def burning : State := { dev with
  lcs := { dev.lcs with pending := true, done := false, work := [.code 20 0, .code 20 1, .complete] }
  rst := { dev.rst with pulse := some .fuse } }

theorem test_w_burn :
    burning.lcs.work = .code 20 0 :: [.code 20 1, .complete] ∧ burning.rst.pulse = some .fuse ∧
    (LcWork.code 20 0).isPulse = true ∧ burning.fuse.code.length = 3 ∧ dev.rst.pulse = none ∧
    (let s : State := { dev with lcs := { dev.lcs with work := [.erase .e1, .complete] } }
     s.mayPulse = true) := by decide

theorem test_pulse_burns : after (exec .fusePulseEnd burning) (fun t =>
    (t.fuse.code.getD 0 0).getLsbD 20 && !(t.fuse.code.getD 1 0).getLsbD 20 && t.lcs.work == [.code 20 1, .complete]) = true := by
  decide

theorem test_w_jtag :
    dev.lcs.debugOpen = false ∧ ({ dev with lcs := { dev.lcs with lockout := true } } : State).lcs.lockout = true ∧
    ({ dev with lcs := { dev.lcs with debugOpen := true } } : State).lcs.debugOpen = true := by decide

theorem test_jtag_closed : after (exec (.jtagTapInstruction (.other 5)) dev) (fun t => t.lcs.tap == .bypass) = true := by decide

/-! ## Firmware update -/

def fwDev (x : FwuState) : State := { dev with fwu := { Fwu.reset with st := x, actLo := 20000000 } }

theorem test_w_firmware :
    (fwDev .idle).lcs.pending = false ∧ (fwDev .idle).fwu.srcLo % 4096 = 0 ∧ (fwDev .staged).armOk 20000000 = true ∧
    (fwDev .staged).armOk 0 = false ∧ (fwDev .armed).fwu.st = .armed ∧ (fwDev .staging).alive = true ∧
    dev.lcs.st = .owned ∧
    ({ fwDev .idle with fwu := { Fwu.reset with srcLo := 1 } } : State).fwu.srcLo % 4096 ≠ 0 := by decide

theorem test_arm : after (exec .arm (fwDev .staged)) (fun t => t.fwu.st == .armed && t.fwu.instant == 20000000) = true := by
  decide

theorem test_cancel_when_idle : after (exec .cancel (fwDev .idle)) (fun t => t.fwu.err == 12 && t.fwu.result == 0x0103) = true := by
  decide

theorem test_w_switching :
    (fwDev .armed).awake = true ∧ (fwDev .armed).fwHeld = false ∧ (fwDev .switching).fwu.st.leaves = true ∧
    (fwDev .switching).fwu.restarting = false ∧ (fwDev .switching).drained = true ∧
    ({ fwDev .switching with jobs := [running] } : State).drained = false ∧
    (fwDev .fallingBack).fwu.st.leaves = true := by decide

def trial0 : State := { dev with fwu := { Fwu.reset with st := .trial, running := 1, testsOk := true, trialEnd := 10 } }

theorem test_w_confirm :
    trial0.mayConfirm = true ∧ (fwDev .trial).mayConfirm = false ∧ (fwDev .trial).fwu.testsOk = false ∧
    trial0.now ≤ trial0.fwu.trialEnd ∧ trial0.fwu.jobsLeft = 0 ∧
    trial0.fuse.thermWork (trial0.ledger.slot trial0.fwu.running).svn = [] ∧ trial0.fuse.thermWork 2 ≠ [] := by decide

theorem test_window_ends_without_tests : after (exec .confirmWindowEnd (fwDev .trial)) (fun t =>
    t.fwu.st == .fallingBack && t.fwu.fallCode == 2) = true := by decide +kernel

/-! ## Power -/

theorem test_w_replan :
    dev.pwr.point ≠ 2 ∧ dev.pwr.planning = false ∧ dev.fwu.restarting = false ∧ dev.pwr.faulty = false ∧
    BootObs.good.meas.needMv.getD 850 ≠ dev.pwr.targetMv ∧
    ({ dev with pwr := { Pwr.reset with targetMv := 720 } } : State).pwr.targetMv = BootObs.good.meas.needMv.getD 850 ∧
    ({ dev with pwr := { Pwr.reset with alert := true } } : State).pwr.faulty = true ∧
    ({ dev with pwr := { Pwr.reset with retry := true, nextAt := 5 } } : State).pwr.nextAt ≠ 0 := by decide

theorem test_vcore_steps_by_five :
    after (exec (.vcoreStep 795) { dev with pwr := { Pwr.reset with planning := true, goalMv := 720 } }) (fun t =>
      t.pwr.targetMv == 795 && t.pwr.planning) = true := by decide

theorem test_w_voltage :
    ({ dev with pwr := { Pwr.reset with planning := true, goalMv := 720 } } : State).pwr.goalMv ≠ 800 ∧ dev.awake = true := by
  decide

/-- R493: 105 °C asserts THERM_N, and it stays asserted at 100 °C. -/
theorem test_therm : after (exec (.thermThreshold 1680) dev) (fun t => t.pins.therm && (t.source 0x055).pending) = true ∧
    after (exec (.thermThreshold 1600) { dev with pins := { dev.pins with therm := true } }) (fun t => t.pins.therm) = true ∧
    after (exec (.thermThreshold 1599) { dev with pins := { dev.pins with therm := true } }) (fun t => !t.pins.therm) = true := by
  decide

/-! ## Block resets -/

theorem test_w_units :
    (∀ c ∈ [NodeClass.pt, .ht, .bnu, .cc, .cu], dev.unitIdle c 0 = true) ∧
    (∀ c ∈ [NodeClass.pt, .ht, .bnu, .cc, .cu], (dev.setTile (tkey c 0) { Tile.reset with st := .busy }).unitIdle c 0 = false) ∧
    (dev.basin 7) = .inService ∧ ((dev.setBasin 7 .drained).basin 7) = .drained ∧
    ((dev.setBasin 7 .draining).homedIn 7) = false ∧ dev.hostOpen = true := by decide

theorem test_pt_reset_busy : after (exec .ptTileReset (dev.setTile 0 { Tile.reset with st := .busy })) (fun t =>
    t.sel.ptResult == 0x0109 && t.sel.ptDone) = true := by decide

theorem test_basin_8 : after (exec (.basinDrain 8) dev) (fun t => t.rst.blkResult == 0x0103) = true := by decide

/-! ## Registers and the management port -/

theorem test_w_registers :
    dev.fnOpen 0 = true ∧ dev.fnOpen 9 = false ∧ dev.fnConfigured 1 = true ∧ dev.granted 0 3 = true ∧
    (dev.queue 3).enable = false ∧ dev.outstanding 0 3 = 0 ∧ (dev.queue 0).enable = true ∧ 3 < vectorsOf 1 ∧
    dev.wsh.configured = true ∧ ¬ (2 = 4 ∧ 8 % 4 = 0) := by decide

/-- R151: WEIR_SLICE_US is 16 bits wide, and WEIR_TIMEOUT_US takes 1 to 1,000,000. -/
theorem test_weir_writes :
    after (exec (.registerWrite 0 ⟨.regs, 0x200014⟩ 4 (.write 0x10005)) dev) (fun t => t.weir.sliceUs == 5) = true ∧
    after (exec (.registerWrite 0 ⟨.regs, 0x20000C⟩ 4 (.write 1000001)) dev) (fun t => t.weir.timeoutUs == 50000) = true := by
  decide

theorem test_narrow_write_ignored : after (exec (.registerWrite 0 ⟨.regs, 0x200014⟩ 2 (.write 5)) dev) (fun t =>
    t.weir.sliceUs == 20) = true := by decide

theorem test_w_mgmt :
    dev.portOpen = true ∧ (dev.mgmtReg 0x4).isSome = true ∧ dev.mgmtReg 0x100004 = none ∧ dev.scrapped = false ∧
    (dev.mgmt.select 0xB0000C 3).isSome = true ∧ dev.mgmt.select 0x4 3 = none ∧
    ({ dev with ao := { Ao.reset with log := [⟨0, 0, 0, 0, 0, 0, 0⟩] } } : State).ao.log.length = 1 ∧
    ({ dev with lcs := { dev.lcs with st := .scrapped } } : State).scrapped = true ∧ scrappedSees 0x200004 = false := by
  decide

theorem test_read32_unaligned : after (exec (.read32 2) dev) (fun t => t.tx == [.readData [2]]) = true := by decide

/-- R497: the Alert Response answers the port's address, 0x58 plus ADDR_SEL. -/
theorem test_alert_address : after (exec .smbAlertResponse { dev with pins := { dev.pins with addrSel := 2 } }) (fun t =>
    t.tx == [.readData [0x5A]]) = true := by decide

/-! ## The random supply -/

def src0 : State := { dev with spr := { dev.spr with
  sources := List.replicate 4 { Source.off with inUse := true, rate := 1000 }, seeds := [zeros 32, zeros 32] } }

theorem test_w_spring :
    src0.spr.st = .running ∧ (src0.spr.source 2).inUse = true ∧
    src0.spr.transfers = 0 ∧ src0.rst.fenced = false ∧ src0.spr.autoReset = true ∧ (src0.drbg 64).st = .ready ∧
    popCount (startFails [1000, 1000, 1000, 1000] 1) 4 ≤ 1 ∧ 1 < popCount (startFails [1000, 1000, 1000, 1000] 3) 4 ∧
    (let j : Job := { running with nodes := [node1 .entropyWait (.entropyWait 9)] }
     j.nodes.any Node.awaits = true ∧ (withJob j).mayFallBack j = false) := by decide +kernel

theorem test_health_fail : after (exec (.springHealthFail 2 1) src0) (fun t =>
    t.spr.st == .failed && t.spr.fails24 == 1 && t.spr.seeds == []) = true := by decide +kernel

theorem test_third_failure_is_dead :
    after (exec (.springHealthFail 2 1) { src0 with spr := { src0.spr with fails24 := 2 } }) (fun t => t.spr.st == .dead) = true := by
  decide +kernel

theorem test_w_seeds :
    (let w : SeedReq := { inst := 64, extra := [], job := none }
     let s : State := { src0 with spr := { src0.spr with waiting := [w] } }
     s.spr.waiting = [w] ∧ s.drawTurn 64 = true ∧ (s.drbg 64).st = .ready ∧ s.seedsFor w ≠ []) ∧
    (let w : SeedReq := { inst := 0, extra := [], job := none }
     let s : State := { (src0.setDrbg 0 { Drbg.reset with st := .awaitingSeed }) with spr :=
       { (src0.setDrbg 0 { Drbg.reset with st := .awaitingSeed }).spr with waiting := [w] } }
     (s.drbg 0).st = .awaitingSeed ∧ s.seedsFor w = [zeros 32, zeros 32]) ∧
    (let j : Job := { kemJob with st := .running, nodes := [node1 .entropyWait (.entropyWait 9)] }
     let s := (withJob j).setDrbg 0 { Drbg.reset with st := .ready }
     j.nodes.findIdx? Node.awaits = some 0 ∧ s.drbgOpen 0 = true ∧ s.drawTurn 0 = true) ∧ src0.spr.pattern = false := by
  decide +kernel

theorem test_w_consumers :
    dev.drbgOpen 64 = true ∧ (dev.exp 0).seeded = false ∧ dev.expFramed 0 = false ∧ (dev.blind 0).length ≤ 256 ∧
    256 < ((dev.setBlind 0 (zeros 257)).blind 0).length ∧ (dev.fifo 0).bytes.length ≤ 128 ∧
    8 ≤ ((dev.setFifo 0 { RndFifo.reset with bytes := zeros 16 }).fifo 0).bytes.length ∧ dev.cfg.reachOf 0 = some 0 ∧
    (dev.setDrbg 0 { Drbg.reset with st := .ready }).drbgOpen 0 = true ∧
    ({ dev with lcs := { dev.lcs with st := .testUnlocked } } : State).lcs.st = .testUnlocked := by decide +kernel

theorem test_data_lo : after (exec (.rndDataLoRead 0) (dev.setFifo 0 { RndFifo.reset with bytes := [1, 2, 3, 4, 5, 6, 7, 8, 9] }))
    (fun t => t.tx == [.readData [1, 2, 3, 4]] && (t.fifo 0).latch == [5, 6, 7, 8] && (t.fifo 0).bytes == [9]) = true := by
  decide

theorem test_data_lo_empty : after (exec (.rndDataLoRead 0) dev) (fun t => (t.fifo 0).err && t.tx == [.readData (zeros 4)]) = true := by
  decide

/-! ## HBM -/

def place0 : Place := { kind := .priv, reach := 0, chans := [0], base := 0, lines := 64 }
def hbmDev : State := { dev with hbm := { Hbm.reset with
  keysValid := true, layout := [place0], keys := [(PlaceKind.priv.keyId 0, zeros 64)] } }

theorem test_w_hbm :
    hbmDev.alive = true ∧ hbmDev.hbm.keysValid = true ∧ hbmDev.hbm.chanOn 0 = true ∧
    hbmDev.placeOf 0 5 = some (place0, 5) ∧ (hbmDev.keyOfLine place0 5).isSome = true ∧ hbmDev.mayTouch none place0 = true ∧
    hbmDev.fresh place0 5 = true ∧ 5 < hbmDev.usableLines ∧ hbmDev.placeOf 0 64 = none ∧
    hbmDev.hbm.isPoisoned (lineKey 0 5) = false ∧ badSymbols LineErr.none.line = 0 ∧ place0.kind ≠ .reserve ∧
    badSymbols [⟨0, 0, 1⟩] = 1 ∧ badSymbols [⟨0, 0, 1⟩, ⟨0, 1, 1⟩, ⟨0, 2, 1⟩] = 3 ∧
    (let s : State := { hbmDev with hbm := { hbmDev.hbm with written := [(pageKey place0 0, hbmDev.placeGen place0 + 1)] } }
     s.fresh place0 5 = false) ∧
    (let s : State := { hbmDev with jobs := [{ running with reach := 3 }] }
     s.mayTouch (some 0) place0 = false) := by decide

/-- R362: a line never written reads as zeros. -/
theorem test_fresh_read : after (exec (.hbmRead 0 5 none LineErr.none) hbmDev) (fun t => t.hbm.readLine == zeros 64) = true := by
  decide

theorem test_scrub_advances : after (exec (.patrolScrub 0 LineErr.none) hbmDev) (fun t => t.hbm.scrubs 0 == 1) = true := by
  decide

/-! ## Confluence -/

def hdr0 : MsgHdr where
  flags := 0
  ttl := 4
  reach := 0
  src := 2
  dst := 0
  epoch := 0
  seq := 9
  status := 0

/-- Device 0 with device 2 behind port 0. -/
def cluster0 : ConfluenceRec :=
  { devId := 0, topology := 0, portEn := 1, dimX := 1, dimY := 1, dimZ := 1, keyPolicy := 1, spillThreshold := 4,
    clusterId := 1, portDir := [0], routes := [(2, 0)] }

def pair : State := { linked with cfg := { cfg0 with confluence := some cluster0 } }

def attesting (h : Handshake) (initiator : Bool) : State :=
  dev.setPort 0 { Port.reset with st := .attesting, hs := h, initiator := initiator, probed := some 0, peerDev := 2 }

theorem test_w_links :
    (dev.setPort 0 { Port.reset with st := .up }).alive = true ∧
    ((dev.setPort 0 { Port.reset with st := .up }).port 0).st.locked = true ∧ (dev.port 0).st.locked = false ∧
    ((dev.setPort 0 { Port.reset with st := .down }).port 0).st = .down ∧ dev.cfl.retrainEn = true ∧
    ((dev.setPort 0 { Port.reset with st := .training }).port 0).st = .training ∧ dev.rst.waiting = false := by decide

theorem test_three_lanes_stay_down :
    after (exec (.portTrainingDone 0 7) (dev.setPort 0 { Port.reset with st := .training })) (fun t => (t.port 0).st == .down) = true := by
  decide

theorem test_w_handshake :
    ((attesting .none false).port 0).st = .attesting ∧ ((attesting .none false).port 0).hs = .none ∧
    (attesting .none false).linkHears 0 = true ∧ ((attesting .none false).port 0).probed.isSome = true ∧
    ((attesting .sentHello true).port 0).hs = .sentHello ∧ ((attesting .sentReply false).port 0).hs = .sentReply ∧
    (attesting .none false).drbgOpen devInst = true ∧ (linked.port 0).st = .up ∧
    (dev.setPort 0 { Port.reset with st := .attesting }).linkHears 0 = true ∧
    ((linked.setPort 0 { linked.port 0 with initiator := true }).port 0).hs ≠ .sentHello := by decide

theorem test_own_dev_id_is_refused : after (exec (.probe 0 0 0) (attesting .none false)) (fun t =>
    (t.port 0).st == .refused && (t.port 0).refuse == 6) = true := by decide

theorem test_handshake_timeout : after (exec (.handshakeTimeout 0) (attesting .none false)) (fun t =>
    (t.port 0).st == .refused && (t.port 0).refuse == 7 && t.now == 5000000) = true := by decide

theorem test_w_messages :
    pair.alive = true ∧ (pair.port 0).st = .up ∧ hdr0.dst = pair.devId ∧ ({ hdr0 with dst := 2 } : MsgHdr).dst ≠ pair.devId ∧
    pair.routeTo 2 = some 0 ∧ pair.routeTo 5 = none ∧ 1 < hdr0.ttl ∧ (hdr0.src, hdr0.seq) ∉ pair.cfl.seen ∧
    hdr0.src ≠ pair.devId ∧ (hdr0.src, hdr0.seq) ∉ pair.cfl.acted ∧
    (hdr0.src, hdr0.seq) ∈ ({ pair with cfl := { pair.cfl with acted := [(2, 9)] } } : State).cfl.acted ∧
    ({ pair with snp := { Snp.reset with enCfl := true } } : State).snp.enCfl = true := by decide

theorem test_forward : after (exec (.messageForward 0 0x0B { hdr0 with dst := 2 } [7]) pair) (fun t =>
    t.tx.length == 1 && t.cfl.drop == 0) = true := by decide +kernel

theorem test_forward_ttl : after (exec (.messageForward 0 0x0B { hdr0 with dst := 2, ttl := 1 } [7]) pair) (fun t =>
    t.tx == [] && t.cfl.drop == 1) = true := by decide +kernel

theorem test_alarm_runs_no_action : after (exec (.alarm 0 hdr0) pair) (fun t =>
    (t.source 0x290).pending && (t.source 0x290).cause == 2 && t.lev.queue == []) = true := by decide +kernel

theorem test_w_time :
    pair.alive = true ∧ pair.wsh.configured = true ∧ pair.bestWay.port = none ∧ pair.clusterTime < 2 ^ 32 + pair.cfl.timeSetLo ∧
    ({ pair with cfl := { pair.cfl with ppsLast := some 0 }, now := 1000000000 } : State).now ≤ 0 + 1000000100 := by decide

theorem test_pps_within_window :
    after (exec .ppsInEdge { pair with cfl := { pair.cfl with ppsLast := some 0, ppsGood := 2 }, now := 1000000000 })
      (fun t => t.cfl.ppsLock && (t.source 0x292).pending) = true := by decide +kernel

theorem test_w_time_monotone : mayReconfigure (.cflTimeSet 0) = false ∧ exec (.cflTimeSet 0) State.reset = .next State.reset :=
  ⟨by decide, rfl⟩

def req0 (cls : Nat) (job : Option Nat) : CflReq :=
  { id := 9, cls := cls, dest := 2, reach := 0, slot := 1, job := job, sentAt := 0, resent := false, again := false,
    place := false, body := [] }

theorem test_w_leases :
    pair.epochOk hdr0 = true ∧ pair.epochOk { hdr0 with epoch := 1 } = false ∧ (pair.reach 0).st = .serving ∧
    (match pair.homeLease (zeros 16) with | .error e => e | .ok _ => 0) = 2 ∧
    (let r : KeyRec := KeyRec.sealed [] { ver := 1, keyId := zeros 16, homeDev := 0, type := 4, floor := 0, limit := 9, grants := 0, mac := [] }
     let s : State := { pair with records := [r] }
     s.record (zeros 16) = some r) ∧
    (let s : State := { pair with cfl := { pair.cfl with pendingReq := [req0 6 none] }, slots := [(1, { Slot.reset with st := .live })] }
     s.reqOf hdr0 = some (req0 6 none) ∧ (s.slot 1).st = .live ∧ Lease.some? (s.slot 1).cur = none) ∧ pair.reqOf hdr0 = none ∧
    (let s : State := { pair with cfl := { pair.cfl with pendingReq := [req0 6 (some 0)] }, jobs := [running] }
     (s.cfl.pendingReq.find? fun q => q.id == 9 && q.cls == 0x06) = some (req0 6 (some 0)) ∧ s.job 0 = some running) := by
  decide +kernel

theorem test_stale_lease_request : after (exec (.leaseReq 0 { hdr0 with epoch := 1 } (zeros 16)) pair) (fun t =>
    t.cfl.staleIn == 1 && t.tx.length == 1) = true := by decide +kernel

theorem test_grant_timeout :
    after (exec (.leaseGrantTimeout 9) { pair with cfl := { pair.cfl with pendingReq := [req0 6 (some 0)] }, jobs := [running] })
      (fun t => (t.job 0).any fun j => j.status == some .leaseExhausted && j.detail == 3) = true := by decide +kernel

def key0 : KeyMsg := { slot := 1, attr := 0, keyId := zeros 16, homeDev := 2, gone := false, sealed := [], owner := zeros 48 }

theorem test_w_adverts :
    pair.keyPolicy = true ∧ pair.cfl.clusterKey = none ∧
    (let s : State := { pair with cfl := { pair.cfl with clusterKey := some (zeros 32), keyDev := 0 } }
     s.copyFits hdr0 key0 = true ∧ (s.slot 1).st = .empty ∧ s.cfl.clusterKey ≠ none ∧ s.cfl.keyDev ≤ 2) ∧
    pair.copyFits hdr0 key0 = false ∧
    ((pair.setSlot 1 { Slot.reset with st := .live, keyId := zeros 16 }).slot 1).keyId = key0.keyId := by decide +kernel

theorem test_advert_key : after (exec (.advert 0 { backlog := 3, threshold := 4, epochs := [], fenced := false, keyDev := 1, key := some (zeros 32) }) pair)
    (fun t => t.cfl.clusterKey == some (zeros 32) && t.cfl.keyDev == 1 && (t.port 0).peerBacklog == 3) = true := by
  decide +kernel

/-! ## Microcode -/

/-- The microword that the manual prints at 0x8006 of its example (R332), in its 24 bytes. -/
def word8006 : UWord := BitVec.ofNat 192 (leNat [0, 0, 0, 0, 0, 0, 0, 0, 0, 0, 0x40, 0x01, 0, 0, 0, 0, 0, 0xC0, 0x25, 0, 0x20, 0, 0, 0x40])

theorem test_printed_microword :
    uSeq word8006 = .rept ∧ uTarget word8006 = 32 ∧ uf word8006 149 147 = 4 ∧ uf word8006 146 144 = 5 ∧
    uf word8006 143 141 = 6 ∧ ptConv word8006 = 5 ∧ ptBf word8006 = 0 ∧ wordLegal 0 word8006 = true := by decide

/-- A word of SEQ code `q` and TARGET `a` (R319, R320). -/
def seqWord (q a : Nat) : UWord := BitVec.ofNat 192 (q * 2 ^ 188 + a * 2 ^ 160)
def commitWord : UWord := BitVec.ofNat 192 (2 ^ 187)

/-- PT 0 runs a node at the first word of patch RAM. -/
def ptAt (w : UWord) (q : Seqr) : State := { withJob { kemJob with st := .running, nodes := [node1 .pt (.running 0)] } with
  tiles := [(0, { Tile.reset with st := .busy, node := some (0, 0), seqr := { q with upc := 0x4000 } })]
  stores := [(0, { CtlStore.reset with patch := [w, seqWord 9 0] })] }

theorem test_w_words : ∀ x ∈ [(seqWord 0 0, Seqr.reset), (seqWord 1 7, Seqr.reset), (seqWord 2 7, Seqr.reset),
      (seqWord 3 0, { Seqr.reset with stack := [5] }), (seqWord 4 3, Seqr.reset), (seqWord 5 7, Seqr.reset),
      (seqWord 6 9, Seqr.reset), (seqWord 7 9, Seqr.reset), (seqWord 8 9, Seqr.reset),
      (seqWord 9 0, { Seqr.reset with committed := true }), (commitWord, Seqr.reset)],
    (ptAt x.1 x.2).alive = true ∧
    ((ptAt x.1 x.2).uRun (engKey 0 0) 0).any (fun r =>
      (ptAt x.1 x.2).fetchWord 0 ((ptAt x.1 x.2).tile r.key).seqr.upc == some x.1 && wordLegal 0 x.1 && !(ptAt x.1 x.2).uWaits r x.1 &&
      !uRnd x.1 && !(ptAt x.1 x.2).uOverLimit r x.1 && !(ptAt x.1 x.2).uPoisoned r x.1 && !(ptAt x.1 x.2).uEarly r x.1 && (ptAt x.1 x.2).uSandbox r x.1 &&
      r.job.status.isNone) = true := by decide +kernel

theorem test_jump : after (exec (.ucodeJump 0 0 .clean) (ptAt (seqWord 1 0x4007) Seqr.reset)) (fun t =>
    (t.tile 0).seqr.upc == 0x4007) = true := by decide +kernel

theorem test_call_pushes : after (exec (.ucodeCall 0 0 .clean) (ptAt (seqWord 2 0x4007) Seqr.reset)) (fun t =>
    (t.tile 0).seqr.upc == 0x4007 && (t.tile 0).seqr.stack == [0x4001]) = true := by decide +kernel

theorem test_fifth_call_faults :
    after (exec (.ucodeCall 0 0 .clean) (ptAt (seqWord 2 7) { Seqr.reset with stack := [1, 2, 3, 4] })) (fun t =>
      (t.job 0).any fun j => j.status == some .engineFault) = true := by decide +kernel

theorem test_loop_at_one : after (exec (.ucodeLoop 0 0 .clean) (ptAt (seqWord 5 7) { Seqr.reset with counters := [1, 0, 0, 0, 0, 0, 0, 0] }))
    (fun t => (t.tile 0).seqr.upc == 0x4001 && (t.tile 0).seqr.counters.getD 0 9 == 0) = true := by decide +kernel

theorem test_commit_marks : after (exec (.ucodeCommit 0 0 .clean) (ptAt commitWord Seqr.reset)) (fun t =>
    (t.tile 0).seqr.committed && (t.tile 0).seqr.upc == 0x4001) = true := by decide +kernel

/-- R321: a code that no field lists is an illegal word. -/
theorem test_w_word_faults :
    wordLegal 0 (seqWord 10 0) = false ∧ wordLegal 0 (BitVec.ofNat 192 (9 * 2 ^ 152)) = false ∧
    (dev.tile (engKey 0 0)).node = none ∧ (node1 .pt .ready).restarts < dev.weir.maxRestart ∧
    eccFaults .uncorrectable = true ∧ (ptAt (seqWord 0 0) { Seqr.reset with committed := true }).tiles.any (fun x => x.2.seqr.committed) = true := by
  decide +kernel

/-! ## Control cores -/

/-- The forms of R350. -/
def form3 (op d a b fn : Nat) : CWord := BitVec.ofNat 32 (op * 2 ^ 24 + d * 2 ^ 19 + a * 2 ^ 14 + b * 2 ^ 9 + fn)
def form2 (op d a k : Nat) : CWord := BitVec.ofNat 32 (op * 2 ^ 24 + d * 2 ^ 19 + a * 2 ^ 14 + k)
def form1 (op d k : Nat) : CWord := BitVec.ofNat 32 (op * 2 ^ 24 + d * 2 ^ 19 + k)

/-- Words of the rows of R351 and R352, D = 1, A = 2, B = 3, by OP and FN. -/
def rows : List (Nat × Nat × CWord) :=
  (List.range 23).map (fun f => (0x01, f, form3 0x01 1 2 3 f)) ++
  [0x02, 0x03, 0x04, 0x05, 0x06, 0x07, 0x08, 0x09, 0x10, 0x11, 0x12, 0x13, 0x14, 0x15, 0x16, 0x18, 0x19, 0x1A, 0x1B, 0x31, 0x32].map
    (fun o => (o, 0, form2 o 1 2 5)) ++
  [0x0A, 0x0B, 0x20, 0x21, 0x22, 0x23].map (fun o => (o, 0, form1 o 1 5)) ++
  [(0x24, 0, form1 0x24 0 5), (0x25, 0, form1 0x25 0 5), (0x26, 0, form3 0x26 0 2 0 0)] ++
  [0, 1, 2, 3, 4, 5, 6, 7, 10, 11, 12, 13].map (fun f => (0x30, f, form3 0x30 1 2 3 f)) ++
  [0, 1, 2, 3].map (fun f => (0x38, f, form3 0x38 1 2 3 f)) ++
  [(0x40, 0, form3 0x40 1 2 0 0), (0x40, 1, form3 0x40 1 0 0 1)] ++
  (List.range 16).map (fun f => (0x41, f, form3 0x41 1 2 3 f)) ++
  [(0x41, 0x10, form3 0x41 1 2 0 0x10), (0x42, 0, form3 0x42 1 2 3 9)] ++
  [0x11, 0x12, 0x13, 0x14].map (fun f => (0x42, f, form3 0x42 1 2 3 f)) ++
  [0, 1, 2, 3].map (fun f => (0x43, f, form3 0x43 1 2 3 f)) ++
  [0x48, 0x49, 0x4C, 0x4D].map (fun o => (o, 0, form3 o 1 2 3 0)) ++
  [(0x4A, 0, form3 0x4A 1 2 0 0), (0x4E, 0, form3 0x4E 1 2 0 0)]

theorem test_rows : ∀ x ∈ rows, rowOf x.2.2 = some { op := x.1, fn := x.2.1 } ∧ rsvdOk x.2.2 = true := by decide +kernel

/-- Words of no row, and words with a reserved bit set. -/
theorem test_undefined_ops : rowOf (form1 0x0C 0 0) = none ∧ rowOf (form3 0x01 1 2 3 0x17) = none ∧
    rowOf (form3 0x38 0 0 0 4) = none ∧ rsvdOk (form1 0x24 1 0) = false ∧ rsvdOk (form1 0x0B 1 0x10000) = false := by decide

/-- Core 0 runs an owner-mode node before the word `w`: i2 points into scratch, i3 is 2. -/
def coreAt (limit : Nat) : Core := { Core.reset with
  ownerMode := true, overlay := false, prog := 7, limit := limit, act := 4
  iregs := ((Vector.replicate 32 0).set 2 0x200008).set 3 2 }

def ccJob : Job := { running with nodes := [node1 .cc (.running (5 * 256))] }
def ccProg (w : CWord) : ProgRec := { id := 7, reach := 0, entry := 0, code := toLe 4 w.toNat, data := zeros 64 }

def ccState (w : CWord) (limit : Nat) : State := { withJob ccJob with
  cfg := { cfg0 with progs := [ccProg w] }
  tiles := [(5 * 256, { Tile.reset with st := .busy, node := some (0, 0) })]
  cores := [(0, coreAt limit)] }

def ccRun (w : CWord) (limit : Nat) : CRun where
  idx := 0
  core := coreAt limit
  job := ccJob
  ni := 0
  node := node1 .cc (.running (5 * 256))
  prog := ccProg w
  word := some w
  bad := []

/-- A limit that the word's cycles, which rest on free latencies, stay below. -/
def ccLimit (w : CWord) : Nat := ((ccState w 0).scoreAfter (ccRun w 0) w).cycle + 1

/-- Every row has a state in which its statement applies. -/
theorem test_w_core (w : CWord) (op fn : Nat) (hc : codeWord (toLe 4 w.toNat) 0 = some w)
    (hr : rowOf w = some { op := op, fn := fn }) (hz : rsvdOk w = true) :
    CcAt (ccState w (ccLimit w)) (ccRun w (ccLimit w)) w op fn := by
  have run : (ccState w (ccLimit w)).cRun 0 = some { ccRun w (ccLimit w) with word := codeWord (toLe 4 w.toNat) 0 } := rfl
  refine ⟨rfl, ?_, rfl, hr, hz, rfl, rfl, nofun, ?_⟩
  · rw [hc] at run
    exact run
  · have same : ((ccState w (ccLimit w)).scoreAfter (ccRun w (ccLimit w)) w).cycle + 1 = ccLimit w := rfl
    change 0 + (((ccState w (ccLimit w)).scoreAfter (ccRun w (ccLimit w)) w).cycle - 0) < ccLimit w
    omega

theorem test_w_core_rows : ∀ x ∈ rows, codeWord (toLe 4 x.2.2.toNat) 0 = some x.2.2 ∧
    rowOf x.2.2 = some { op := x.1, fn := x.2.1 } ∧ rsvdOk x.2.2 = true := by decide +kernel

theorem test_w_core_memory :
    (∀ n ∈ [1, 2, 4, 8], (ccRun 0 9).load 0x200008 n = .bytes (zeros n)) ∧ (ccRun 0 9).load 0x100000 8 = .bytes (zeros 8) ∧
    (ccRun 0 9).load 0 1 = .fault ∧ (ccRun 0 9).core.i 2 = 0x200008 ∧ 0x200008 % 8 = 0 ∧
    ({ ccRun 0 9 with job := { ccJob with entry := { nopEntry with inLen := 8 } } } : CRun).load 0x4000000 8 = .stall := by
  decide +kernel

theorem test_w_core_ends :
    (ccState 0 9).ccCommitWaits (ccRun 0 9) (form3 0x38 0 2 3 0) = false ∧ (ccRun 0 9).node.info.output = true ∧
    ccRow (.add 0 .clean) = some (0, .clean, { op := 1, fn := 0 }) ∧
    (({ dev with tiles := [(5 * 256, { Tile.reset with st := .recovery })] } : State).tile (ccKey 0)).st = .recovery ∧
    ({ ccRun 0 9 with core := { coreAt 9 with result := some (0, 8) } } : CRun).core.recoverAtEnd = false := by decide +kernel

theorem test_w_vectors :
    ((ccState 0 9).shape (ccRun 0 9) (form3 0x41 8 16 24 0x1E0)).gs = 8 ∧
    ((ccState 0 9).shape (ccRun 0 9) (form3 0x41 8 16 24 0x1E0)).ew = 64 ∧
    ((ccState 0 9).shape (ccRun 0 9) (form3 0x41 8 16 24 0x1E0)).cap = 64 ∧ 8 % 8 = 0 ∧ 12 % 8 ≠ 0 ∧
    ((ccState 0 9).shape (ccRun 0 9) (form3 0x41 1 2 3 0x100)).cap = 16 ∧ recFields (form3 0x4A 1 2 0 2) = 4 := by
  decide +kernel

/-- R342: infinities, not a number and exact results of the floating-point unit. -/
theorem test_float_specials : fAdd 0x7FF0000000000000 0xFFF0000000000000 = fNan ∧ fDiv 0 0 = fNan ∧
    fToInt 0x7FF0000000000000 = 0x7FFFFFFFFFFFFFFF ∧ fToInt fNan = 0 ∧ fOfInt 1 = 0x3FF0000000000000 ∧
    fAdd 0x3FF0000000000000 0x3FF0000000000000 = 0x4000000000000000 ∧ fSqrt 0x4010000000000000 = 0x4000000000000000 := by
  decide +kernel

/-! ## Jobs -/

/-- A job of an opcode that runs, with its randomness delivered. -/
def runs (op : Nat) : Job := { running with entry := { nopEntry with opcode := op }, entropy := .delivered }

/-- One opcode of each operation (R34). -/
def opcodes : List (Nat × Op × Nat) :=
  [(0x0000, .nop, 0), (0x0001, .fence, 0), (0x0010, .random, 0), (0x0011, .reseed, 0), (0x0020, .attest, 0),
   (0x0102, .mlKemKeygen, 2), (0x0112, .mlKemEncaps, 2), (0x0122, .mlKemDecaps, 2), (0x0202, .mlDsaKeygen, 2),
   (0x0212, .mlDsaSign, 2), (0x0222, .mlDsaVerify, 2), (0x030B, .slhDsaKeygen, 11), (0x031B, .slhDsaSign, 11),
   (0x032B, .slhDsaVerify, 11), (0x0401, .lmsKeygen, 1), (0x0411, .lmsSign, 1), (0x0421, .lmsVerify, 1),
   (0x0431, .lmsIndexQuery, 1), (0x0501, .xmssKeygen, 1), (0x0511, .xmssSign, 1), (0x0521, .xmssVerify, 1),
   (0x0531, .xmssIndexQuery, 1), (0x060C, .mcelieceKeygen, 12), (0x0614, .mcelieceEncaps, 4),
   (0x0624, .mcelieceDecaps, 4), (0x0806, .ecKeygen, 6), (0x0814, .ecSign, 4), (0x0824, .ecVerify, 4),
   (0x0836, .agree, 6), (0x0900, .rsaKeygen, 0)] ++
  [(0x0910, .rsaPssSign, 0), (0x0911, .rsaV15Sign, 0), (0x0920, .rsaPssVerify, 0), (0x0921, .rsaV15Verify, 0),
   (0x0930, .rsaOaepEncrypt, 0), (0x0940, .rsaOaepDecrypt, 0), (0x0A0D, .hash, 13), (0x0A19, .hmacGenerate, 9),
   (0x0A29, .hmacVerify, 9), (0x0A31, .kmacGenerate, 1), (0x0A41, .kmacVerify, 1), (0x0B00, .aesGcmEncrypt, 0),
   (0x0B01, .aesGcmDecrypt, 0), (0x0B10, .aesCtr, 0), (0x0B20, .aesXtsEncrypt, 0), (0x0B21, .aesXtsDecrypt, 0),
   (0x0C00, .kdfCounterHmac, 0), (0x0C01, .kdfKmac256, 0), (0x0C10, .hkdf, 0), (0x0C11, .hkdfExpand, 0),
   (0x0D00, .generate, 0), (0x0D10, .importWrapped, 0), (0x0D11, .importClear, 0), (0x0D20, .exportWrapped, 0),
   (0x0D21, .exportPublic, 0), (0x0D30, .restrict, 0), (0x0D40, .delete, 0), (0x0E01, .hybridKeygen, 1),
   (0x0E11, .hybridEncaps, 1), (0x0E21, .hybridDecaps, 1)]

theorem test_opcodes : ∀ x ∈ opcodes, opOf x.1 = some x.2 := by decide

/-- Every operation that the statements name has an opcode under which a job of it runs. -/
theorem test_w_job_ops :
    ∀ x ∈ opcodes, (withJob (runs x.1)).opOfJob (runs x.1) = some x.2 := by decide +kernel

theorem test_w_jobs : ∀ x ∈ opcodes, (withJob (runs x.1)).alive = true ∧ (withJob (runs x.1)).job 0 = some (runs x.1) ∧
    (withJob (runs x.1)).mayRun (runs x.1) x.2.1 = true ∧ (runs x.1).abortLate = false ∧
    ((runs x.1).nodes.findIdx? fun n => n.info.output) = none := by decide +kernel

theorem test_w_keys :
    KeyIs { runs 0 with entry := { nopEntry with ctrl := 0x20 }, keyCopy := some Slot.reset } (some Slot.reset) ∧ KeyIs (runs 0) none ∧
    SlotIs ((withJob (runs 0)).setSlot 0 { Slot.reset with st := .live }) (runs 0) { Slot.reset with st := .live } := by
  unfold KeyIs SlotIs; decide

theorem test_nop : after (exec (.nop 0) (withJob (runs 0))) (fun t => (t.job 0).any fun j => j.status == some .ok) = true := by
  decide +kernel

theorem test_w_stateful :
    (withJob (runs 0)).ledger.readOnly = false ∧ (withJob (runs 0)).records.length + (withJob (runs 0)).recordsPending < recordMax ∧
    (let x : Slot := { Slot.reset with st := .reserved, cur := some { next := 0, stop := 64, committed := false } }
     x.uncommitted = [{ next := 0, stop := 64, committed := false }]) ∧ Slot.reset.uncommitted = [] ∧
    (let s := (withJob (runs 0)).setSlot 0 { Slot.reset with st := .live, homeDev := 3 }
     (s.slot 0).homeDev ≠ s.devId ∧ s.leaseAsked 0 = false ∧ Lease.some? (s.slot 0).nxt = none) := by decide +kernel

theorem test_w_admin :
    (withJob (runs 0)).earlierRetired (runs 0) = true ∧ attrLocked 0 = false ∧
    (let j : Job := { runs 0 with extend := some (3, zeros 48) }
     j.extend = some (3, zeros 48) ∧ ((withJob j).reach 0).meas.length = 32) ∧ dev.meas.length = 16 ∧
    (withJob (runs 0)).isOp (runs 0) .nop = true ∧ dev.hostOpen = true ∧ (dev.slot dev.kst.argSlot).st ≠ .live := by
  decide +kernel

theorem test_query_of_an_empty_slot : after (exec .query dev) (fun t => t.kst.desc == zeros 32 && t.kst.done) = true := by
  decide +kernel

theorem test_place_refused : after (exec .place dev) (fun t => t.kst.result == 0x0103) = true := by decide +kernel

/-! ## Further states that meet hypotheses, clause by clause -/

/-- A stream that creates no reach moves no function. -/
theorem test_w_no_function_moves :
    let p : Stream := { stream0 with partialLoad := true, named := [] }
    movedFns dev.cfg p.cfg (dev.createdBy p) = [] ∧ 0 / 64 ∉ movedFns dev.cfg p.cfg (dev.createdBy p) := by decide +kernel

/-- An IMPORT_WRAPPED entry of 80 bytes: nothing arrived, and a blob of zeros whose head no check passes. -/
def importJob : Job := { running with entry := { nopEntry with opcode := 0x0D10, inLen := 80 } }

theorem test_w_import_arrives :
    (withJob importJob).opOfJob importJob = some (.importWrapped, 0) ∧ importJob.reserved = none ∧
    ({ importJob with input := zeros 80 } : Job).inputReady = true ∧ ({ importJob with input := zeros 8 } : Job).inputReady = false ∧
    (match (withJob importJob).importChecks { importJob with input := zeros 80 } with | .error (_, d) => d | .ok _ => 0) = 10 := by
  decide +kernel

theorem test_w_waiting_completion :
    let w : Waiting := { comp := done0.completion none, writes := [], held := false }
    let s := dev.setQueue 0 { queue0 with waiting := [w], cqFull := true }
    (s.queue (qkey 0 0)).waiting = [w] ∧ (s.queue (qkey 0 0)).full = false ∧ (s.fn 0).d3hot = false ∧
    s.rst.sluiceStopped = false ∧ s.alive = true := by decide

/-- A job that a node past its COMMIT still serves, beside one that nothing serves. -/
theorem test_w_served_past_commit :
    (withJob done0).runsNode 0 = false ∧
    ((withJob done0).setTile 512 { Tile.reset with st := .busy, node := some (0, 0) }).runsNode 0 = true := by decide

/-- A reach with RATE_LIMIT and an empty bucket. -/
def limited : State := { withJob kemJob with cfg := { cfg0 with reaches := [{ reach0 with rateLimit := 1 }] } }

theorem test_w_rate_limit :
    limited.cfg.reach 0 = some { reach0 with rateLimit := 1 } ∧ limited.bucketAt 0 limited.now < jobUnit ∧
    limited.deviceOpen = true ∧ (withJob admitted).instWaits = false ∧
    (withJob { admitted with nodeWait := true }).instWaits = true ∧
    (let j : Job := { kemJob with st := .rateWait }
     let s : State := { limited with jobs := [j] }
     s.rateLimit 0 ≠ 0 ∧ (s.firstListed fun y => y.reach == 0 && y.st == .rateWait) = some j ∧ s.basinWait j = false ∧
     (s.templateFor j).1 ≠ [] ∧ s.homeBasin j = some 0) := by decide +kernel

/-- Disabled PT 0 leaves a node stranded that knows no other engine. -/
theorem test_w_stranded :
    let s : State := { withJob readyJob with tiles := (List.range 128).map fun i => (tkey .pt i, { Tile.reset with st := .disabled }) }
    s.engineFree .pt 0 = false ∧ s.engineUsable (tkey .pt 0) = false ∧
    (firstCand (s.stranded (tkey .pt 0))).any (fun x => x.job == 0 && x.idx == 0) = true ∧ s.listRoom 0 2 0 = true ∧
    dev.engineUsable (tkey .pt 0) = true := by decide +kernel

theorem test_w_repeats :
    (let s := onTile .ht
     (s.tile 512).node = some (0, 0) ∧ s.tileCommitted 512 = false ∧ (node1 .ht .ready).cycles = 0) ∧
    (let s := (onTile .ht).setTile 512 { (onTile .ht).tile 512 with seqr := { Seqr.reset with committed := true } }
     s.tileCommitted 512 = true) := by decide +kernel

theorem test_w_frame_slot : ({ dev with
      weir := { dev.weir with frameRun := true }
      cfg := { cfg0 with device := { cfg0.device with frameUs := 64 } } } : State).weir.frameRun = true := by decide

/-- A node that no microword has run stands at a yield point of its command, and yields to no one when nothing waits. -/
theorem test_w_yield_points :
    let s := onTile .bnu
    ∃ j n, s.job 0 = some j ∧ j.node 0 = some n ∧ (s.tile (tkey .bnu 0)).node = some (0, 0) ∧
      s.tileCommitted (tkey .bnu 0) = false ∧ n.info.customer false = false ∧ s.atYield .bnu (tkey .bnu 0) n = true ∧
      (s.bnuYields 0 j || s.slotYields .bnu (tkey .bnu 0) j 0) = false ∧ s.spanReady 0 = [] :=
  ⟨_, _, rfl, rfl, by decide, by decide, by decide, by decide, by decide +kernel, by decide +kernel⟩

/-- An ECDSA node of priority 3 meets one of priority 0 at the same BNU. -/
def ecJob (id prio : Nat) (st : NodeSt) : Job := { job0 with
  id := id, entry := { nopEntry with opcode := 0x0810, ctrl := prio }, st := .running, nodes := [node1 .bnu st] }

def yields0 : State := { dev with
  jobs := [ecJob 0 3 (.running (tkey .bnu 0)), ecJob 1 0 .ready]
  tiles := [(tkey .bnu 0, { Tile.reset with st := .busy, node := some (0, 0) })] }

theorem test_w_yields : (ecJob 0 3 .ready).entry.prio = 3 ∧ yields0.bnuYields 0 (ecJob 0 3 (.running (tkey .bnu 0))) = true := by
  decide +kernel

theorem test_w_span_waits :
    let s : State := { dev with jobs := [ecJob 0 0 (.spanWait (tkey .bnu 0))], parts := [(0, [(0, 128)])] }
    (firstReady (s.spanReady 0)).any (fun x => x.job == 0 && x.idx == 0) = true ∧
    (s.takeSpan 0 0 0 0 (s.needOf (ecJob 0 0 (.spanWait (tkey .bnu 0))))).isSome = true := by decide +kernel

/-- A record of reach 3 and job 9, which no node of job 0 may take up. -/
def savedElsewhere : SavedCtx := { seqr := Seqr.reset, mem := [], written := 0, reach := 3, tag := 9 }

def hashNode : Node := { node1 .ht .ready with saved := some savedElsewhere }

theorem test_w_saved_elsewhere :
    let j : Job := { kemJob with st := .running, nodes := [hashNode] }
    let s := withJob j
    hashNode.saved.any (fun r => r.reach != j.reach || r.tag != j.id) = true ∧ s.engineFree .ht 0 = true ∧
    (s.chooseNode .ht 0 (s.engineBasin .ht 0)).1.isSome = true ∧ (tkey .ht 0, (s.tile (tkey .ht 0)).epoch) ∈ hashNode.resolved ∧
    (s.unitFor 0 j hashNode).isSome = true ∧ hashNode.restarts < s.weir.maxRestart := by decide +kernel

theorem test_w_span_refused :
    let j := ecJob 0 0 .ready
    let s : State := { dev with jobs := [j] }
    (s.chooseNode .bnu 0 (s.engineBasin .bnu 0)).1.isSome = true ∧ (s.spanFor 0 j 0).isNone = true ∧
    (tkey .bnu 0, (s.tile (tkey .bnu 0)).epoch) ∈ (node1 .bnu .ready).resolved := by decide +kernel

theorem test_w_health :
    (Source.off.hear (List.replicate 128 0x99)).test = 0 ∧ (Source.off.hear (zeros 128)).test = 1 ∧
    (Source.off.window ++ List.replicate 128 0x99).length < 512 := by decide +kernel

def resetting : State := { src0 with spr := { src0.spr with st := .resetting } }

theorem test_w_spring_reset_ends :
    popCount (resetting.spr.start [1000, 1000, 1000, 1000] 1 []).failed 4 = 1 ∧
    2 + resetting.drbgReaches.length ≤ (resetting.spr.seeds ++ (resetting.spr.start [1000, 1000, 1000, 1000] 1 []).outs).length ∧
    1 < popCount (resetting.spr.start [1000, 1000, 1000, 1000] 3 []).failed 4 ∧
    (let s : State := { resetting with spr := { resetting.spr with seeds := [] } }
     (s.spr.seeds ++ (s.spr.start [1000, 1000, 1000, 1000] 1 []).outs).length < 2 + s.drbgReaches.length) := by decide +kernel

/-- Words of an interrupted routine, of a customer routine and of a check. -/
theorem test_w_late_error :
    let n : Node := { node1 .pt .ready with intr := some (engKey 0 0) }
    let s := withJob { kemJob with st := .running, nodes := [n] }
    (s.tile (engKey 0 0)).node = none ∧ n.restarts < s.weir.maxRestart ∧
    (s.jobs.findSome? fun j =>
      (j.nodes.findIdx? fun n => n.st == .ready && n.intr == some (engKey 0 0)).map fun i => (j.id, i)) = some (0, 0) ∧
    (dev.jobs.findSome? fun j =>
      (j.nodes.findIdx? fun n => n.st == .ready && n.intr == some (engKey 0 0)).map fun i => (j.id, i)) = none := by decide +kernel

theorem test_w_check_fails :
    ((ptAt commitWord Seqr.reset).uRun (engKey 0 0) 0).any (fun r =>
      (ptAt commitWord Seqr.reset).uFaults r (some commitWord) .uncorrectable &&
      !(ptAt commitWord Seqr.reset).uCommitted r) = true ∧
    ((ptAt (seqWord 0 0) { Seqr.reset with committed := true }).uRun (engKey 0 0) 0).any (fun r =>
      (ptAt (seqWord 0 0) { Seqr.reset with committed := true }).uCommitted r) = true ∧
    ((ptAt (BitVec.ofNat 192 (2 * 2 ^ 156)) Seqr.reset).uRun (engKey 0 0) 0).any (fun r =>
      (ptAt (BitVec.ofNat 192 (2 * 2 ^ 156)) Seqr.reset).uWaits r (BitVec.ofNat 192 (2 * 2 ^ 156))) = true := by decide +kernel

/-- A result beyond the basin's staging SRAM keeps END waiting. -/
theorem test_w_no_staging_room :
    let r : CRun := { ccRun 0 9 with
      core := { coreAt 9 with result := some (0, 2 ^ 23) }
      node := { (ccRun 0 9).node with info := { (ccRun 0 9).node.info with output := false } } }
    (r.job.status.isSome || r.node.info.output || (ccState 0 9).stageRoom r.job.basin (2 ^ 23)) = false ∧
    (ccState 0 9).stageRoom r.job.basin 8 = true ∧ dev.cRun 3 = none ∧ (dev.tile (ccKey 3)).node = none ∧
    (dev.tile (ccKey 3)).st = .idle := by decide +kernel

theorem test_w_peer_value :
    peerValueOk .agree 6 (runs 0x0836) = false ∧ peerValueOk .mlKemDecaps 2 (runs 0x0122) = true ∧
    (let j : Job := { runs 0x0836 with entry := { (runs 0x0836).entry with ctrl := 0x20 } }
     (withJob j).mayRun j .agree = true ∧ j.entry.keyValid = true ∧ j.keyCopy = none) := by decide +kernel

theorem test_w_extends_next :
    let j : Job := { runs 0 with extend := some (3, zeros 48) }
    (withJob j).extendsNext j = true ∧
    ({ withJob { j with id := 1, extSeq := 0 } with jobs := [{ j with extSeq := 5 }, { j with id := 1, extSeq := 2 }] } : State).extendsNext
      { j with extSeq := 5 } = false := by decide +kernel

theorem test_w_draw_waits :
    let j : Job := { runs 0x0411 with entry := { (runs 0x0411).entry with ctrl := 0x20, slot := 1 }, drawSeq := some 4 }
    j.drawsFrom 1 = true ∧ (([j] : List Job).filter fun y => y.drawsFrom 1) = [j] ∧ (runs 0x0411).drawsFrom 1 = false ∧
    (∃ v, (withJob j).opOfJob j = some (.lmsSign, v)) ∧ Op.lmsSign.loadsKey = true ∧ Op.lmsSign.drawsIndex = true := by
  refine ⟨by decide, by decide, by decide, ⟨1, by decide +kernel⟩, by decide, by decide⟩

/-- R105: a peer's output beyond the buffers of the job that comes back. -/
theorem test_w_spill_over :
    (Status.ok.success && decide ((job0.outBufs.map Prod.snd).sum < [(0 : BitVec 8)].length)) = true ∧
    (Status.badParams.success && decide ((job0.outBufs.map Prod.snd).sum < [(0 : BitVec 8)].length)) = false := by decide +kernel

/-- A private RSA operation on a BNU whose blinding buffer holds nothing. -/
theorem test_w_masks_stall :
    let n : Node := { node1 .bnu (.running 768) with info := { (node1 .bnu .ready).info with output := true } }
    let j : Job := { runs 0x0911 with
      entry := { (runs 0x0911).entry with ctrl := 0x20 }, keyCopy := some { Slot.reset with st := .live }, nodes := [n] }
    let s := (withJob j).setTile 768 { Tile.reset with st := .busy, node := some (0, 0) }
    s.mayRun j .rsaV15Sign = true ∧ j.nodes.findIdx? (fun n => n.info.output) = some 0 ∧ (s.nodeMasks 0 0).1 = false := by
  decide +kernel

/-! ## Well-formed commands: each check refuses one -/

theorem test_ill_formed : ([
    .pwrgoodAssert 4, .bootStepTimeout 0, .bootStepTimeout 18, .devReset 65536, .criticalError 0, .criticalError 7,
    .linkSettle 6 16, .linkSettle 5 3, .d3hotEntry 256, .vfEnableWrite true 256, .flr 0, .registerWrite 256 ⟨.regs, 0⟩ 4 .read,
    .registerWrite 0 ⟨.regs, (2 ^ 26)⟩ 4 .read, .registerWrite 0 ⟨.msix, 0x10000⟩ 4 .read, .registerWrite 0 ⟨.regs, 0⟩ 3 .read,
    .registerWrite 0 ⟨.regs, 0⟩ 4 (.write (2 ^ 32)), .loadWindowWrite (2 ^ 24) [0], .loadWindowWrite 0 [], .quiesce 64,
    .select 0 256, .quiesceComplete (.pt 128), .quiesceComplete (.basin 8), .sqDoorbell 0 64 0, .sqDoorbell 0 0 65536,
    .entryArrival 0 0 [{ arr with slot := [] }], .inputStreamRead 0 (.data []), .sluQAbort 0 0 false 65536,
    .nodeDispatch 0 128, .nodeDispatch 1 64, .nodeDispatch 2 96, .nodeDispatch 3 32, .nodeDispatch 5 16, .nodeComplete 0 32 false,
    .bnuSliceExpiry 32, .delayEntryFreed 8, .spill 8 spill0, .spillResult 0 65536 0 [], .leaseCommit (2 ^ 20),
    .ucodeNext 0 128 .clean, .ucodeNext 3 16 .clean, .add 16 .clean, .springHealthFail 4 1, .springHealthFail 0 6,
    .springFirstSeed [] 0 [], .maskExpanderReseed 224, .blindingBufferRefill 32, .sprTestWrite (2 ^ 32),
    .hbmRead 16 0 none LineErr.none, .hbmWrite 0 0 [], .hbmPartialWrite 0 0 63 [0, 0] none LineErr.none, .patrolScrub 16 LineErr.none,
    .portRetrain 8, .probe 0 4096 0, .messageForward 0 256 hdr0 [], .messageForward 0 0 { hdr0 with ttl := 256 } [],
    .leaseReq 0 hdr0 [], .cflTimeSet (2 ^ 32), .leveeDetectorEvent 26 false, .batterySample (2 ^ 26) 0, .cuReset 16] :
    List Instr).all (fun c => !c.wellFormed) = true := by decide +kernel

theorem test_well_formed : ([.pwrgoodAssert 3, .bootStepTimeout 17, .criticalError 6, .linkSettle 5 16, .flr 255,
    .registerWrite 0 ⟨.regs, 0x200014⟩ 4 (.write 5), .loadWindowWrite 0 [1], .quiesce 63, .sqDoorbell 255 63 65535,
    .entryArrival 0 0 [arr], .nodeDispatch 0 127, .nodeComplete 0 31 true, .add 15 .clean, .hbmRead 15 0 none LineErr.none,
    .probe 7 4095 0, .leveeDetectorEvent 25 true] : List Instr).all Instr.wellFormed = true := by decide +kernel

/-- The table gives no row any bits. -/
theorem test_no_words : decodeTableWord 0 0 = none ∧ State.reset.withFetchWord 0 0 = State.reset := ⟨rfl, rfl⟩

end Sys2Proof.Tests
end

section
/-! The machine as a whole: what every command answers, and how one step takes its command from the queue. -/

namespace Sys2Proof.Machine

open Sys2Proof

/-! ## Every command answers a next state -/

/-- SPRING_BLOCK_RESET is an event of the running device when the Spring starts it itself and a host command otherwise;
both guards answer. -/
theorem execSpringBlockReset_answers (auto : Bool) (s : State) : ∃ t, execSpringBlockReset auto s = .next t := by
  cases auto with
  | false => exact ⟨_, rfl⟩
  | true => exact ⟨_, rfl⟩

/-- Every arm of the dispatch ends in `.next` behind its guard (`hostCmd`, `engineCmd`, `mgmtCmd` and `runAction` choose a
state, not an outcome); only SPRING_BLOCK_RESET first chooses between two guards. -/
theorem exec_answers (c : Instr) (s : State) : ∃ t, exec c s = .next t := by
  cases c
  case springBlockReset auto => exact execSpringBlockReset_answers auto s
  all_goals exact ⟨_, rfl⟩

/-- No command queues another or drops one: the queue is not among the parts that a command can touch. -/
theorem pending_of_exec {c : Instr} {s t : State} (h : exec c s = .next t) : t.pending = s.pending :=
  Keeps.ofNext h (exec_keeps c s) .pending (by decide)

/-! ## One step, by the queue -/

theorem step_of_pending_nil {s : State} (h : s.pending = []) : step s = .next { s with now := s.now + 1 } := by
  simp only [step, h]

theorem step_of_pending_cons {c : Instr} {rest : List Instr} {s : State} (h : s.pending = c :: rest) :
    step s = exec c { s with pending := rest } := by
  simp only [step, h]

/-! ## The obligations -/

/-- Settles O2, by the queue: an idle step leaves it empty, and a command answers (`exec_answers`) and leaves the rest of
the queue, with which it runs, as it is (`pending_of_exec`). -/
theorem everyStepAnswersAndTakesOneCommand : Obligations.EveryStepAnswersAndTakesOneCommand := by
  intro s
  cases h : s.pending with
  | nil => exact ⟨_, step_of_pending_nil h, h⟩
  | cons c rest =>
    obtain ⟨t, ht⟩ := exec_answers c { s with pending := rest }
    exact ⟨t, (step_of_pending_cons h).trans ht, pending_of_exec ht⟩

/-- Settles O1, by the two cases of the queue. -/
theorem stepRunsFrontCommand : Obligations.StepRunsFrontCommand :=
  ⟨fun _ _ _ => step_of_pending_cons rfl, fun _ h => step_of_pending_nil h⟩

end Sys2Proof.Machine
end

section
/-! Which commands change the committed configuration or a fuse: every command's frame leaves both out but for the commands
that `mayReconfigure` and `mayBurn` name. -/

namespace Sys2Proof.Machine

open Sys2Proof

/-! ## The frame of a command, by what it may change -/

/-- The parts of the device but the committed configuration, unless `cfg` lets that change, and the fuses, unless `burn`
does. -/
def partsBut (cfg burn : Bool) : List Part :=
  deviceParts.filter fun p => (p != .cfg || cfg) && (p != .fuse || burn)

theorem cfg_notMem_partsBut (burn : Bool) : Part.cfg ∉ partsBut false burn := by cases burn <;> decide

theorem fuse_notMem_partsBut (cfg : Bool) : Part.fuse ∉ partsBut cfg false := by cases cfg <;> decide

theorem partsBut_quiet_subset (cfg burn : Bool) : ∀ p ∈ partsBut false false, p ∈ partsBut cfg burn := by
  cases cfg <;> cases burn <;> decide

/-- The parts that a command can touch. -/
def touchedParts (c : Instr) : List Part := partsBut (mayReconfigure c) (mayBurn c)

/-- A frame with neither the configuration nor the fuses is the frame of any command. -/
theorem Keeps.quiet {c : Instr} {ps : List Part} {s t : State} (h : Keeps ps s t)
    (hs : ∀ p ∈ ps, p ∈ partsBut false false) : Keeps (touchedParts c) s t :=
  h.mono fun p hp => partsBut_quiet_subset _ _ p (hs p hp)

/-- A frame as wide as what the command is named for. -/
theorem Keeps.touches {c : Instr} {ps : List Part} {s t : State} (h : Keeps ps s t) (cfg burn : Bool)
    (hc : mayReconfigure c = cfg) (hb : mayBurn c = burn) (hs : ∀ p ∈ ps, p ∈ partsBut cfg burn) :
    Keeps (touchedParts c) s t := by
  subst hc hb
  exact h.mono hs

/-- Command by command, from the frame of its operation (Laws/Frame*.lean). -/
theorem exec_keeps_touchedParts (c : Instr) (s : State) : Keeps (touchedParts c) s (stateAfter (exec c s) s) :=
  match c with
  | .pwrgoodAssert _ => (execPwrgoodAssert_keeps _ _).quiet (by decide)
  | .pwrgoodDeassert => (execPwrgoodDeassert_keeps _).touches true true rfl rfl (by decide)
  | .resetN => (execResetN_keeps _).touches true false rfl rfl (by decide)
  | .perstN => (execPerstN_keeps _).touches true false rfl rfl (by decide)
  | .bootStart _ => (execBootStart_keeps _ _).touches true true rfl rfl (by decide)
  | .bootStepTimeout _ => (execBootStepTimeout_keeps _ _).touches true true rfl rfl (by decide)
  | .bootCountAgeOut => (execBootCountAgeOut_keeps _).quiet (by decide)
  | .devReset _ => (execDevReset_keeps _ _).touches true false rfl rfl (by decide)
  | .watchdogExpiry => (execWatchdogExpiry_keeps _).touches true false rfl rfl (by decide)
  | .criticalError _ => (execCriticalError_keeps _ _).touches true false rfl rfl (by decide)
  | .resetHoldEnd => (execResetHoldEnd_keeps _).touches true true rfl rfl (by decide)
  | .linkSettle _ _ => (execLinkSettle_keeps _ _ _).quiet (by decide)
  | .d3hotEntry _ => (execD3hotEntry_keeps _ _).quiet (by decide)
  | .d0Return _ => (execD0Return_keeps _ _).quiet (by decide)
  | .vfEnableWrite _ _ => (execVfEnableWrite_keeps _ _ _).quiet (by decide)
  | .flr _ => (execFlr_keeps _ _).quiet (by decide)
  | .msixStateChange _ _ => (execMsixStateChange_keeps _ _ _).quiet (by decide)
  | .registerWrite _ _ _ _ => (execRegisterWrite_keeps _ _ _ _ _).quiet (by decide)
  | .begin => (execBegin_keeps _).quiet (by decide)
  | .loadWindowWrite _ _ => (execLoadWindowWrite_keeps _ _ _).quiet (by decide)
  | .validate => (execValidate_keeps _).quiet (by decide)
  | .validationComplete => (execValidationComplete_keeps _).quiet (by decide)
  | .commit => (execCommit_keeps _).quiet (by decide)
  | .commitSwitchPoint => (execCommitSwitchPoint_keeps _).touches true false rfl rfl (by decide)
  | .commitSpringWaitTimeout => (execCommitSpringWaitTimeout_keeps _).quiet (by decide)
  | .discard => (execDiscard_keeps _).quiet (by decide)
  | .quiesce _ => (execQuiesce_keeps _ _).quiet (by decide)
  | .resume _ => (execResume_keeps _ _).quiet (by decide)
  | .resetReach _ => (execResetReach_keeps _ _).quiet (by decide)
  | .removeReach _ => (execRemoveReach_keeps _ _).quiet (by decide)
  | .quiesceVf _ => (execQuiesceVf_keeps _ _).quiet (by decide)
  | .resumeVf _ => (execResumeVf_keeps _ _).quiet (by decide)
  | .resetVf _ => (execResetVf_keeps _ _).quiet (by decide)
  | .select _ _ => (execSelect_keeps _ _ _).quiet (by decide)
  | .quiesceComplete _ => (execQuiesceComplete_keeps _ _).quiet (by decide)
  | .blockResetComplete _ _ => (execBlockResetComplete_keeps _ _ _).quiet (by decide)
  | .sqDoorbell _ _ _ => (execSqDoorbell_keeps _ _ _ _).quiet (by decide)
  | .cqDoorbell _ _ _ => (execCqDoorbell_keeps _ _ _ _).quiet (by decide)
  | .sqFetch => (execSqFetch_keeps _).quiet (by decide)
  | .entryArrival _ _ _ => (execEntryArrival_keeps _ _ _ _).quiet (by decide)
  | .inputStreamRead _ _ => (execInputStreamRead_keeps _ _ _).quiet (by decide)
  | .tokenAvailable _ _ => (execTokenAvailable_keeps _ _ _).quiet (by decide)
  | .jobRetire _ => (execJobRetire_keeps _ _).quiet (by decide)
  | .cqSpaceAvailable _ _ => (execCqSpaceAvailable_keeps _ _ _).quiet (by decide)
  | .sluQEnable _ _ _ => (execSluQEnable_keeps _ _ _ _).quiet (by decide)
  | .queueReset _ _ => (execQueueReset_keeps _ _ _).quiet (by decide)
  | .sluQAbort _ _ _ _ => (execSluQAbort_keeps _ _ _ _ _).quiet (by decide)
  | .jobAdmit _ => (execJobAdmit_keeps _ _).quiet (by decide)
  | .templateInstantiate _ => (execTemplateInstantiate_keeps _ _).quiet (by decide)
  | .nodeDispatch _ _ => (execNodeDispatch_keeps _ _ _).quiet (by decide)
  | .nodeComplete _ _ _ => (execNodeComplete_keeps _ _ _ _).quiet (by decide)
  | .frameSlotStart => (execFrameSlotStart_keeps _).quiet (by decide)
  | .timedRelease _ => (execTimedRelease_keeps _ _).quiet (by decide)
  | .rateLimitRelease _ => (execRateLimitRelease_keeps _ _).quiet (by decide)
  | .backoffExpiry _ _ => (execBackoffExpiry_keeps _ _ _).quiet (by decide)
  | .bnuSliceExpiry _ => (execBnuSliceExpiry_keeps _ _).quiet (by decide)
  | .delayEntryFreed _ => (execDelayEntryFreed_keeps _ _).quiet (by decide)
  | .entropyWaitDelivered _ => (execEntropyWaitDelivered_keeps _ _).quiet (by decide)
  | .entropyWaitTimeout _ => (execEntropyWaitTimeout_keeps _ _).quiet (by decide)
  | .yieldPoint _ _ => (execYieldPoint_keeps _ _ _).quiet (by decide)
  | .bnuSpanGrant _ => (execBnuSpanGrant_keeps _ _).quiet (by decide)
  | .spill _ _ => (execSpill_keeps _ _ _).quiet (by decide)
  | .spillResult _ _ _ _ => (execSpillResult_keeps _ _ _ _ _).quiet (by decide)
  | .spillTimerExpiry _ => (execSpillTimerExpiry_keeps _ _).quiet (by decide)
  | .measExtend _ => (execMeasExtend_keeps _ _).quiet (by decide)
  | .leaseCommit _ => (execLeaseCommit_keeps _ _).quiet (by decide)
  | .ucodeNext _ _ _ => (execUcodeNext_keeps _ _ _ _).quiet (by decide)
  | .ucodeJump _ _ _ => (execUcodeJump_keeps _ _ _ _).quiet (by decide)
  | .ucodeCall _ _ _ => (execUcodeCall_keeps _ _ _ _).quiet (by decide)
  | .ucodeRet _ _ _ => (execUcodeRet_keeps _ _ _ _).quiet (by decide)
  | .ucodeRepeat _ _ _ => (execUcodeRepeat_keeps _ _ _ _).quiet (by decide)
  | .ucodeLoop _ _ _ => (execUcodeLoop_keeps _ _ _ _).quiet (by decide)
  | .ucodeSetcnt _ _ _ => (execUcodeSetcnt_keeps _ _ _ _).quiet (by decide)
  | .ucodeBrFlag _ _ _ => (execUcodeBrFlag_keeps _ _ _ _).quiet (by decide)
  | .ucodeBrReveal _ _ _ => (execUcodeBrReveal_keeps _ _ _ _).quiet (by decide)
  | .ucodeEnd _ _ _ => (execUcodeEnd_keeps _ _ _ _).quiet (by decide)
  | .ucodeCommit _ _ _ => (execUcodeCommit_keeps _ _ _ _).quiet (by decide)
  | .add _ _ => (execAdd_keeps _ _ _).quiet (by decide)
  | .sub _ _ => (execSub_keeps _ _ _).quiet (by decide)
  | .and _ _ => (execAnd_keeps _ _ _).quiet (by decide)
  | .or _ _ => (execOr_keeps _ _ _).quiet (by decide)
  | .xor _ _ => (execXor_keeps _ _ _).quiet (by decide)
  | .andn _ _ => (execAndn_keeps _ _ _).quiet (by decide)
  | .shl _ _ => (execShl_keeps _ _ _).quiet (by decide)
  | .shr _ _ => (execShr_keeps _ _ _).quiet (by decide)
  | .sar _ _ => (execSar_keeps _ _ _).quiet (by decide)
  | .ror _ _ => (execRor_keeps _ _ _).quiet (by decide)
  | .cmps _ _ => (execCmps_keeps _ _ _).quiet (by decide)
  | .cmpu _ _ => (execCmpu_keeps _ _ _).quiet (by decide)
  | .mul _ _ => (execMul_keeps _ _ _).quiet (by decide)
  | .mulhiS _ _ => (execMulhiS_keeps _ _ _).quiet (by decide)
  | .mulhiU _ _ => (execMulhiU_keeps _ _ _).quiet (by decide)
  | .divs _ _ => (execDivs_keeps _ _ _).quiet (by decide)
  | .divu _ _ => (execDivu_keeps _ _ _).quiet (by decide)
  | .mods _ _ => (execMods_keeps _ _ _).quiet (by decide)
  | .modu _ _ => (execModu_keeps _ _ _).quiet (by decide)
  | .mins _ _ => (execMins_keeps _ _ _).quiet (by decide)
  | .maxs _ _ => (execMaxs_keeps _ _ _).quiet (by decide)
  | .minu _ _ => (execMinu_keeps _ _ _).quiet (by decide)
  | .maxu _ _ => (execMaxu_keeps _ _ _).quiet (by decide)
  | .addk _ _ => (execAddk_keeps _ _ _).quiet (by decide)
  | .andk _ _ => (execAndk_keeps _ _ _).quiet (by decide)
  | .ork _ _ => (execOrk_keeps _ _ _).quiet (by decide)
  | .xork _ _ => (execXork_keeps _ _ _).quiet (by decide)
  | .shlk _ _ => (execShlk_keeps _ _ _).quiet (by decide)
  | .shrk _ _ => (execShrk_keeps _ _ _).quiet (by decide)
  | .sark _ _ => (execSark_keeps _ _ _).quiet (by decide)
  | .rork _ _ => (execRork_keeps _ _ _).quiet (by decide)
  | .kset _ _ => (execKset_keeps _ _ _).quiet (by decide)
  | .ksh _ _ => (execKsh_keeps _ _ _).quiet (by decide)
  | .ldu1 _ _ => (execLdu1_keeps _ _ _).quiet (by decide)
  | .ldu2 _ _ => (execLdu2_keeps _ _ _).quiet (by decide)
  | .ldu4 _ _ => (execLdu4_keeps _ _ _).quiet (by decide)
  | .ld8 _ _ => (execLd8_keeps _ _ _).quiet (by decide)
  | .lds1 _ _ => (execLds1_keeps _ _ _).quiet (by decide)
  | .lds2 _ _ => (execLds2_keeps _ _ _).quiet (by decide)
  | .lds4 _ _ => (execLds4_keeps _ _ _).quiet (by decide)
  | .st1 _ _ => (execSt1_keeps _ _ _).quiet (by decide)
  | .st2 _ _ => (execSt2_keeps _ _ _).quiet (by decide)
  | .st4 _ _ => (execSt4_keeps _ _ _).quiet (by decide)
  | .st8 _ _ => (execSt8_keeps _ _ _).quiet (by decide)
  | .bz _ _ => (execBz_keeps _ _ _).quiet (by decide)
  | .bnz _ _ => (execBnz_keeps _ _ _).quiet (by decide)
  | .bneg _ _ => (execBneg_keeps _ _ _).quiet (by decide)
  | .bnneg _ _ => (execBnneg_keeps _ _ _).quiet (by decide)
  | .jmp _ _ => (execJmp_keeps _ _ _).quiet (by decide)
  | .ccCall _ _ => (execCcCall_keeps _ _ _).quiet (by decide)
  | .jmpr _ _ => (execJmpr_keeps _ _ _).quiet (by decide)
  | .fadd _ _ => (execFadd_keeps _ _ _).quiet (by decide)
  | .fsub _ _ => (execFsub_keeps _ _ _).quiet (by decide)
  | .fmul _ _ => (execFmul_keeps _ _ _).quiet (by decide)
  | .fdiv _ _ => (execFdiv_keeps _ _ _).quiet (by decide)
  | .fsqrt _ _ => (execFsqrt_keeps _ _ _).quiet (by decide)
  | .fmin _ _ => (execFmin_keeps _ _ _).quiet (by decide)
  | .fmax _ _ => (execFmax_keeps _ _ _).quiet (by decide)
  | .fcmp _ _ => (execFcmp_keeps _ _ _).quiet (by decide)
  | .f2i _ _ => (execF2i_keeps _ _ _).quiet (by decide)
  | .i2f _ _ => (execI2f_keeps _ _ _).quiet (by decide)
  | .fbits _ _ => (execFbits_keeps _ _ _).quiet (by decide)
  | .ibits _ _ => (execIbits_keeps _ _ _).quiet (by decide)
  | .fld8 _ _ => (execFld8_keeps _ _ _).quiet (by decide)
  | .fst8 _ _ => (execFst8_keeps _ _ _).quiet (by decide)
  | .ccCommit _ _ => (execCcCommit_keeps _ _ _).quiet (by decide)
  | .ccEnd _ _ => (execCcEnd_keeps _ _ _).quiet (by decide)
  | .ccTime _ _ => (execCcTime_keeps _ _ _).quiet (by decide)
  | .cycle _ _ => (execCycle_keeps _ _ _).quiet (by decide)
  | .vtake _ _ => (execVtake_keeps _ _ _).quiet (by decide)
  | .vact _ _ => (execVact_keeps _ _ _).quiet (by decide)
  | .vadd _ _ => (execVadd_keeps _ _ _).quiet (by decide)
  | .vsub _ _ => (execVsub_keeps _ _ _).quiet (by decide)
  | .vand _ _ => (execVand_keeps _ _ _).quiet (by decide)
  | .vor _ _ => (execVor_keeps _ _ _).quiet (by decide)
  | .vxor _ _ => (execVxor_keeps _ _ _).quiet (by decide)
  | .vshl _ _ => (execVshl_keeps _ _ _).quiet (by decide)
  | .vshr _ _ => (execVshr_keeps _ _ _).quiet (by decide)
  | .vsar _ _ => (execVsar_keeps _ _ _).quiet (by decide)
  | .vmul _ _ => (execVmul_keeps _ _ _).quiet (by decide)
  | .vmulhiS _ _ => (execVmulhiS_keeps _ _ _).quiet (by decide)
  | .vmulhiU _ _ => (execVmulhiU_keeps _ _ _).quiet (by decide)
  | .vminu _ _ => (execVminu_keeps _ _ _).quiet (by decide)
  | .vmaxu _ _ => (execVmaxu_keeps _ _ _).quiet (by decide)
  | .veq _ _ => (execVeq_keeps _ _ _).quiet (by decide)
  | .vltu _ _ => (execVltu_keeps _ _ _).quiet (by decide)
  | .vblend _ _ => (execVblend_keeps _ _ _).quiet (by decide)
  | .vbyterev _ _ => (execVbyterev_keeps _ _ _).quiet (by decide)
  | .vectorScalarOp _ _ => (execVectorScalarOp_keeps _ _ _).quiet (by decide)
  | .vmoveup _ _ => (execVmoveup_keeps _ _ _).quiet (by decide)
  | .vmovedn _ _ => (execVmovedn_keeps _ _ _).quiet (by decide)
  | .vput _ _ => (execVput_keeps _ _ _).quiet (by decide)
  | .vget _ _ => (execVget_keeps _ _ _).quiet (by decide)
  | .vpick _ _ => (execVpick_keeps _ _ _).quiet (by decide)
  | .vfoldadd _ _ => (execVfoldadd_keeps _ _ _).quiet (by decide)
  | .vfoldxor _ _ => (execVfoldxor_keeps _ _ _).quiet (by decide)
  | .vfoldmaxu _ _ => (execVfoldmaxu_keeps _ _ _).quiet (by decide)
  | .vload _ _ => (execVload_keeps _ _ _).quiet (by decide)
  | .vstore _ _ => (execVstore_keeps _ _ _).quiet (by decide)
  | .vloads _ _ => (execVloads_keeps _ _ _).quiet (by decide)
  | .vstores _ _ => (execVstores_keeps _ _ _).quiet (by decide)
  | .vldrec _ _ => (execVldrec_keeps _ _ _).quiet (by decide)
  | .vstrec _ _ => (execVstrec_keeps _ _ _).quiet (by decide)
  | .ccRecoveryDone _ _ => (execCcRecoveryDone_keeps _ _ _).quiet (by decide)
  | .nop _ => (execNop_keeps _ _).quiet (by decide)
  | .fence _ => (execFence_keeps _ _).quiet (by decide)
  | .random _ => (execRandom_keeps _ _).quiet (by decide)
  | .reseed _ => (execReseed_keeps _ _).quiet (by decide)
  | .attest _ => (execAttest_keeps _ _).quiet (by decide)
  | .mlKemKeygen _ => (execMlKemKeygen_keeps _ _).quiet (by decide)
  | .mlKemEncaps _ => (execMlKemEncaps_keeps _ _).quiet (by decide)
  | .mlKemDecaps _ => (execMlKemDecaps_keeps _ _).quiet (by decide)
  | .mlDsaKeygen _ => (execMlDsaKeygen_keeps _ _).quiet (by decide)
  | .mlDsaSign _ => (execMlDsaSign_keeps _ _).quiet (by decide)
  | .mlDsaVerify _ => (execMlDsaVerify_keeps _ _).quiet (by decide)
  | .slhDsaKeygen _ => (execSlhDsaKeygen_keeps _ _).quiet (by decide)
  | .slhDsaSign _ => (execSlhDsaSign_keeps _ _).quiet (by decide)
  | .slhDsaVerify _ => (execSlhDsaVerify_keeps _ _).quiet (by decide)
  | .lmsKeygen _ => (execLmsKeygen_keeps _ _).quiet (by decide)
  | .lmsSign _ => (execLmsSign_keeps _ _).quiet (by decide)
  | .lmsVerify _ => (execLmsVerify_keeps _ _).quiet (by decide)
  | .lmsIndexQuery _ => (execLmsIndexQuery_keeps _ _).quiet (by decide)
  | .xmssKeygen _ => (execXmssKeygen_keeps _ _).quiet (by decide)
  | .xmssSign _ => (execXmssSign_keeps _ _).quiet (by decide)
  | .xmssVerify _ => (execXmssVerify_keeps _ _).quiet (by decide)
  | .xmssIndexQuery _ => (execXmssIndexQuery_keeps _ _).quiet (by decide)
  | .mcelieceKeygen _ => (execMcelieceKeygen_keeps _ _).quiet (by decide)
  | .mcelieceEncaps _ => (execMcelieceEncaps_keeps _ _).quiet (by decide)
  | .mcelieceDecaps _ => (execMcelieceDecaps_keeps _ _).quiet (by decide)
  | .ecKeygen _ => (execEcKeygen_keeps _ _).quiet (by decide)
  | .ecSign _ => (execEcSign_keeps _ _).quiet (by decide)
  | .ecVerify _ => (execEcVerify_keeps _ _).quiet (by decide)
  | .agree _ => (execAgree_keeps _ _).quiet (by decide)
  | .rsaKeygen _ => (execRsaKeygen_keeps _ _).quiet (by decide)
  | .rsaPssSign _ => (execRsaPssSign_keeps _ _).quiet (by decide)
  | .rsaV15Sign _ => (execRsaV15Sign_keeps _ _).quiet (by decide)
  | .rsaPssVerify _ => (execRsaPssVerify_keeps _ _).quiet (by decide)
  | .rsaV15Verify _ => (execRsaV15Verify_keeps _ _).quiet (by decide)
  | .rsaOaepEncrypt _ => (execRsaOaepEncrypt_keeps _ _).quiet (by decide)
  | .rsaOaepDecrypt _ => (execRsaOaepDecrypt_keeps _ _).quiet (by decide)
  | .hash _ => (execHash_keeps _ _).quiet (by decide)
  | .hmacGenerate _ => (execHmacGenerate_keeps _ _).quiet (by decide)
  | .hmacVerify _ => (execHmacVerify_keeps _ _).quiet (by decide)
  | .kmacGenerate _ => (execKmacGenerate_keeps _ _).quiet (by decide)
  | .kmacVerify _ => (execKmacVerify_keeps _ _).quiet (by decide)
  | .aesGcmEncrypt _ => (execAesGcmEncrypt_keeps _ _).quiet (by decide)
  | .aesGcmDecrypt _ => (execAesGcmDecrypt_keeps _ _).quiet (by decide)
  | .aesCtr _ => (execAesCtr_keeps _ _).quiet (by decide)
  | .aesXtsEncrypt _ => (execAesXtsEncrypt_keeps _ _).quiet (by decide)
  | .aesXtsDecrypt _ => (execAesXtsDecrypt_keeps _ _).quiet (by decide)
  | .kdfCounterHmac _ => (execKdfCounterHmac_keeps _ _).quiet (by decide)
  | .kdfKmac256 _ => (execKdfKmac256_keeps _ _).quiet (by decide)
  | .hkdf _ => (execHkdf_keeps _ _).quiet (by decide)
  | .hkdfExpand _ => (execHkdfExpand_keeps _ _).quiet (by decide)
  | .generate _ => (execGenerate_keeps _ _).quiet (by decide)
  | .importWrapped _ => (execImportWrapped_keeps _ _).quiet (by decide)
  | .importClear _ => (execImportClear_keeps _ _).quiet (by decide)
  | .exportWrapped _ => (execExportWrapped_keeps _ _).quiet (by decide)
  | .exportPublic _ => (execExportPublic_keeps _ _).quiet (by decide)
  | .restrict _ => (execRestrict_keeps _ _).quiet (by decide)
  | .delete _ => (execDelete_keeps _ _).quiet (by decide)
  | .hybridKeygen _ => (execHybridKeygen_keeps _ _).quiet (by decide)
  | .hybridEncaps _ => (execHybridEncaps_keeps _ _).quiet (by decide)
  | .hybridDecaps _ => (execHybridDecaps_keeps _ _).quiet (by decide)
  | .ownerOpcode _ => (execOwnerOpcode_keeps _ _).quiet (by decide)
  | .query => (execQuery_keeps _).quiet (by decide)
  | .place => (execPlace_keeps _).quiet (by decide)
  | .springHealthFail _ _ => (execSpringHealthFail_keeps _ _ _).quiet (by decide)
  | .springFirstSeed _ _ _ => (execSpringFirstSeed_keeps _ _ _ _).touches true true rfl rfl (by decide)
  | .springBlockReset _ => (execSpringBlockReset_keeps _ _).quiet (by decide)
  | .springBlockResetDone _ _ _ => (execSpringBlockResetDone_keeps _ _ _ _).quiet (by decide)
  | .reseedAll => (execReseedAll_keeps _).quiet (by decide)
  | .springFailAgeOut => (execSpringFailAgeOut_keeps _).quiet (by decide)
  | .conditionerOutput _ => (execConditionerOutput_keeps _ _).quiet (by decide)
  | .drbgGenerate _ => (execDrbgGenerate_keeps _ _).quiet (by decide)
  | .drbgReseed => (execDrbgReseed_keeps _).quiet (by decide)
  | .maskExpanderReseed _ => (execMaskExpanderReseed_keeps _ _).quiet (by decide)
  | .blindingBufferRefill _ => (execBlindingBufferRefill_keeps _ _).quiet (by decide)
  | .rndFifoRefill _ => (execRndFifoRefill_keeps _ _).quiet (by decide)
  | .rndDataLoRead _ => (execRndDataLoRead_keeps _ _).quiet (by decide)
  | .rndDataHiRead _ => (execRndDataHiRead_keeps _ _).quiet (by decide)
  | .sprTestWrite _ => (execSprTestWrite_keeps _ _).quiet (by decide)
  | .hbmRead _ _ _ _ => (execHbmRead_keeps _ _ _ _ _).quiet (by decide)
  | .hbmWrite _ _ _ => (execHbmWrite_keeps _ _ _ _).quiet (by decide)
  | .hbmPartialWrite _ _ _ _ _ _ => (execHbmPartialWrite_keeps _ _ _ _ _ _ _).quiet (by decide)
  | .patrolScrub _ _ => (execPatrolScrub_keeps _ _ _).quiet (by decide)
  | .portLockLoss _ => (execPortLockLoss_keeps _ _).quiet (by decide)
  | .portRetrain _ => (execPortRetrain_keeps _ _).quiet (by decide)
  | .probeSend _ => (execProbeSend_keeps _ _).quiet (by decide)
  | .probe port dev cluster => (execProbe_keeps port dev cluster _).quiet (by decide)
  | .hello _ _ _ => (execHello_keeps _ _ _ _).quiet (by decide)
  | .reply _ _ _ => (execReply_keeps _ _ _ _).quiet (by decide)
  | .finish _ _ => (execFinish_keeps _ _ _).quiet (by decide)
  | .handshakeResend _ => (execHandshakeResend_keeps _ _).quiet (by decide)
  | .handshakeTimeout _ => (execHandshakeTimeout_keeps _ _).quiet (by decide)
  | .rekey _ => (execRekey_keeps _ _).quiet (by decide)
  | .messageForward _ _ _ _ => (execMessageForward_keeps _ _ _ _ _).quiet (by decide)
  | .floodForward _ _ _ _ => (execFloodForward_keeps _ _ _ _ _).quiet (by decide)
  | .timeExchange _ => (execTimeExchange_keeps _ _).quiet (by decide)
  | .time _ _ => (execTime_keeps _ _ _).quiet (by decide)
  | .alarm _ _ => (execAlarm_keeps _ _ _).quiet (by decide)
  | .fenced _ _ => (execFenced_keeps _ _ _).quiet (by decide)
  | .trigger _ _ => (execTrigger_keeps _ _ _).quiet (by decide)
  | .fwActivate _ _ _ _ _ => (execFwActivate_keeps _ _ _ _ _ _).quiet (by decide)
  | .leaseReq _ _ _ => (execLeaseReq_keeps _ _ _ _).quiet (by decide)
  | .leaseGrant _ _ _ _ _ => (execLeaseGrant_keeps _ _ _ _ _ _).quiet (by decide)
  | .leaseGrantTimeout _ => (execLeaseGrantTimeout_keeps _ _).quiet (by decide)
  | .refuse _ _ _ => (execRefuse_keeps _ _ _ _).quiet (by decide)
  | .advertSend _ => (execAdvertSend_keeps _ _).quiet (by decide)
  | .advert _ _ => (execAdvert_keeps _ _ _).quiet (by decide)
  | .keyRepl _ _ _ => (execKeyRepl_keeps _ _ _ _).quiet (by decide)
  | .keyPlace _ _ _ => (execKeyPlace_keeps _ _ _ _).quiet (by decide)
  | .ppsInEdge => (execPpsInEdge_keeps _).quiet (by decide)
  | .cflTimeSet _ => (execCflTimeSet_keeps _ _).quiet (by decide)
  | .testLock => (execTestLock_keeps _).quiet (by decide)
  | .testUnlock => (execTestUnlock_keeps _).quiet (by decide)
  | .personalise => (execPersonalise_keeps _).quiet (by decide)
  | .takeOwnership => (execTakeOwnership_keeps _).quiet (by decide)
  | .fieldReturn => (execFieldReturn_keeps _).quiet (by decide)
  | .scrap => (execScrap_keeps _).quiet (by decide)
  | .fusePulseEnd => (execFusePulseEnd_keeps _).touches false true rfl rfl (by decide)
  | .eraseStepDone => (execEraseStepDone_keeps _).quiet (by decide)
  | .lcsLockoutEnd => (execLcsLockoutEnd_keeps _).quiet (by decide)
  | .jtagTapInstruction _ => (execJtagTapInstruction_keeps _ _).quiet (by decide)
  | .trstN => (execTrstN_keeps _).quiet (by decide)
  | .leveeDetectorEvent _ _ => (execLeveeDetectorEvent_keeps _ _ _).quiet (by decide)
  | .detectorDisagreement _ => (execDetectorDisagreement_keeps _ _).quiet (by decide)
  | .leveeWindowExpiry _ => (execLeveeWindowExpiry_keeps _ _).quiet (by decide)
  | .gatheringIntervalEnd => (execGatheringIntervalEnd_keeps _).quiet (by decide)
  | .log => (execLog_keeps _).quiet (by decide)
  | .event => (execEvent_keeps _).quiet (by decide)
  | .alarmOut => (execAlarmOut_keeps _).quiet (by decide)
  | .throttle => (execThrottle_keeps _).quiet (by decide)
  | .clearVolatileKeys => (execClearVolatileKeys_keeps _).quiet (by decide)
  | .fenceAction => (execFenceAction_keeps _).quiet (by decide)
  | .clearAll => (execClearAll_keeps _).quiet (by decide)
  | .halt => (execHalt_keeps _).quiet (by decide)
  | .resetAction => (execResetAction_keeps _).touches true false rfl rfl (by decide)
  | .leveeUnlatch _ => (execLeveeUnlatch_keeps _ _).quiet (by decide)
  | .levBistCmd _ _ => (execLevBistCmd_keeps _ _ _).quiet (by decide)
  | .bistSchedule _ _ => (execBistSchedule_keeps _ _ _).quiet (by decide)
  | .bistVerdict _ => (execBistVerdict_keeps _ _).quiet (by decide)
  | .batterySample _ _ => (execBatterySample_keeps _ _ _).quiet (by decide)
  | .ptTileReset => (execPtTileReset_keeps _).quiet (by decide)
  | .htTileReset => (execHtTileReset_keeps _).quiet (by decide)
  | .bnuUnitReset => (execBnuUnitReset_keeps _).quiet (by decide)
  | .ccCoreReset => (execCcCoreReset_keeps _).quiet (by decide)
  | .cuReset _ => (execCuReset_keeps _ _).quiet (by decide)
  | .basinDrain _ => (execBasinDrain_keeps _ _).quiet (by decide)
  | .basinDrained _ => (execBasinDrained_keeps _ _).quiet (by decide)
  | .basinReset _ => (execBasinReset_keeps _ _).quiet (by decide)
  | .basinResume _ => (execBasinResume_keeps _ _).quiet (by decide)
  | .stage => (execStage_keeps _).quiet (by decide)
  | .stagingComplete _ _ => (execStagingComplete_keeps _ _ _).quiet (by decide)
  | .arm => (execArm_keeps _).quiet (by decide)
  | .cancel => (execCancel_keeps _).quiet (by decide)
  | .fwDiscard => (execFwDiscard_keeps _).quiet (by decide)
  | .requireCosign => (execRequireCosign_keeps _).quiet (by decide)
  | .activationInstant => (execActivationInstant_keeps _).quiet (by decide)
  | .fwDrainComplete => (execFwDrainComplete_keeps _).quiet (by decide)
  | .fwDrainLimit => (execFwDrainLimit_keeps _).quiet (by decide)
  | .warmRestartDone _ => (execWarmRestartDone_keeps _ _).touches true false rfl rfl (by decide)
  | .fwConfirm => (execFwConfirm_keeps _).quiet (by decide)
  | .confirmWindowEnd => (execConfirmWindowEnd_keeps _).quiet (by decide)
  | .eventCoalTimer _ => (execEventCoalTimer_keeps _ _).quiet (by decide)
  | .eventMaskWrite _ _ => (execEventMaskWrite_keeps _ _ _).quiet (by decide)
  | .trigIn => (execTrigIn_keeps _).quiet (by decide)
  | .capture => (execCapture_keeps _).quiet (by decide)
  | .release => (execRelease_keeps _).quiet (by decide)
  | .replan _ => (execReplan_keeps _ _).quiet (by decide)
  | .scheduledReplan _ => (execScheduledReplan_keeps _ _).quiet (by decide)
  | .replanRetry _ => (execReplanRetry_keeps _ _).quiet (by decide)
  | .vcoreStep _ => (execVcoreStep_keeps _ _).quiet (by decide)
  | .pmbusFault _ _ => (execPmbusFault_keeps _ _ _).quiet (by decide)
  | .thermThreshold _ => (execThermThreshold_keeps _ _).quiet (by decide)
  | .pwrServiceDaysWrite _ => (execPwrServiceDaysWrite_keeps _ _).quiet (by decide)
  | .read32 _ => (execRead32_keeps _ _).quiet (by decide)
  | .readMulti _ _ => (execReadMulti_keeps _ _ _).quiet (by decide)
  | .mgmtSelect _ _ => (execMgmtSelect_keeps _ _ _).quiet (by decide)
  | .readAoLog _ => (execReadAoLog_keeps _ _).quiet (by decide)
  | .smbAlertResponse => (execSmbAlertResponse_keeps _).quiet (by decide)
  | .removeReachDone _ => (execRemoveReachDone_keeps _ _).touches true false rfl rfl (by decide)
  | .resetInputRelease _ => (execResetInputRelease_keeps _ _).quiet (by decide)
  | .alwaysOnStateLost => (execAlwaysOnStateLost_keeps _).quiet (by decide)
  | .trigOutPulseEnd => (execTrigOutPulseEnd_keeps _).quiet (by decide)
  | .leveeConditionClear _ _ => (execLeveeConditionClear_keeps _ _ _).quiet (by decide)
  | .linkFrameTagFail _ => (execLinkFrameTagFail_keeps _ _).quiet (by decide)
  | .portTrainingDone _ _ => (execPortTrainingDone_keeps _ _ _).touches true true rfl rfl (by decide)

/-- Settles O5: a part outside a command's frame (`exec_keeps_touchedParts`) stands, and the configuration and the fuses are
in the frames of the named commands alone. -/
theorem onlyNamedCommandsReconfigureOrBurn : Obligations.OnlyNamedCommandsReconfigureOrBurn := by
  intro c s t h
  have hk : Keeps (touchedParts c) s t := Keeps.ofNext h (exec_keeps_touchedParts c s)
  refine ⟨fun hc => hk .cfg ?_, fun hb => hk .fuse ?_⟩
  · rw [touchedParts, hc]
    exact cfg_notMem_partsBut _
  · rw [touchedParts, hb]
    exact fuse_notMem_partsBut _

end Sys2Proof.Machine
end

section
/-! Events and commands: what an occurrence leaves of each event source, and what a host or engine command answers where it
is heard. -/

namespace Sys2Proof.Machine

open Sys2Proof

/-! ## Commands that are heard -/

theorem hostCmd_of_open {s t : State} (h : s.hostOpen = true) : hostCmd s t = .next t := by rw [hostCmd, if_pos h]

theorem engineCmd_of_alive {s t : State} (h : s.alive = true) : engineCmd s t = .next t := by rw [engineCmd, if_pos h]

theorem State.hostLinked_of_hostOpen {s : State} (h : s.hostOpen = true) : s.hostLinked = true := by
  simp only [State.hostOpen, Bool.and_eq_true] at h
  simp only [State.hostLinked, h, Bool.and_self]

/-! ## The pending bit of an event source (R458) -/

theorem State.source_of_evt {s t : State} (h : t.evt = s.evt) (n : Nat) : t.source n = s.source n := by
  rw [State.source, h, State.source]

theorem State.pending_setSource {s : State} {n k : Nat} {e : EvtSrc} (h : (s.source n).pending = true)
    (he : k = n → e.pending = true) : ((s.setSource k e).source n).pending = true := by
  rw [State.source_setSource]
  split
  · exact he ‹_›
  · exact h

/-- Sending a message, or keeping it behind a closed vector, clears no pending bit. -/
theorem State.pending_sendEvent {s : State} {n : Nat} (src : Nat) (h : (s.source n).pending = true) :
    ((s.sendEvent src).source n).pending = true := by
  unfold State.sendEvent
  dsimp only
  split
  · exact State.pending_setSource h fun e => by rw [e]; exact h
  · exact h

theorem State.raise0_of_reserved {s : State} {src : Nat} (cause : Nat) (h : eventListed src = false) :
    s.raise0 src cause = s := by
  rw [State.raise0, if_pos (by rw [h]; rfl)]

theorem ite_eq_left_or_right {α : Type} (c : Prop) [Decidable c] (a b : α) :
    (if c then a else b) = a ∨ (if c then a else b) = b :=
  if h : c then .inl (if_pos h) else .inr (if_neg h)

/-- An occurrence of a listed source writes its record with the pending bit, and may send its message. -/
theorem State.raise0_of_listed (s : State) {src : Nat} (cause : Nat) (h : eventListed src = true) :
    ∃ e : EvtSrc, e.pending = true ∧
      (s.raise0 src cause = (s.setSource src e).sendEvent src ∨ s.raise0 src cause = s.setSource src e) := by
  rw [State.raise0, if_neg (by rw [h]; decide)]
  refine ⟨_, ?_, ite_eq_left_or_right _ _ _⟩
  rfl

/-- An occurrence marks its own source. -/
theorem State.pending_raise0_self (s : State) {src : Nat} (cause : Nat) (h : eventListed src = true) :
    ((s.raise0 src cause).source src).pending = true := by
  obtain ⟨e, he, hr | hr⟩ := s.raise0_of_listed cause h
  · rw [hr]
    exact State.pending_sendEvent _ (by rw [State.source_setSource_same, he])
  · rw [hr, State.source_setSource_same, he]

/-- An occurrence clears no source's pending bit. -/
theorem State.pending_raise0 {s : State} {n : Nat} (src cause : Nat) (h : (s.source n).pending = true) :
    ((s.raise0 src cause).source n).pending = true := by
  cases hl : eventListed src with
  | false => rwa [State.raise0_of_reserved cause hl]
  | true =>
    obtain ⟨e, he, hr | hr⟩ := s.raise0_of_listed cause hl
    · rw [hr]
      exact State.pending_sendEvent _ (State.pending_setSource h fun _ => he)
    · rw [hr]
      exact State.pending_setSource h fun _ => he

theorem State.pending_takeCapture {s : State} {n : Nat} (t : Trigger) (h : (s.source n).pending = true) :
    ((s.takeCapture t).source n).pending = true := by
  unfold State.takeCapture
  dsimp only
  split <;> exact State.pending_raise0 _ _ h

theorem State.pending_flood {s : State} {n : Nat} (cls : Nat) (payload : Bytes) (h : (s.source n).pending = true) :
    ((s.flood cls payload).source n).pending = true := by
  rw [State.source_of_evt (State.flood_keeps s cls payload .evt (by decide))]
  exact h

theorem State.pending_requestCapture {s : State} {n : Nat} (t : Trigger) (h : (s.source n).pending = true) :
    ((s.requestCapture t).source n).pending = true := by
  unfold State.requestCapture
  dsimp only
  split
  · exact h
  · split
    · split
      · exact State.pending_flood _ _ h
      · split
        · exact State.pending_takeCapture _ (State.pending_flood _ _ h)
        · exact State.pending_flood _ _ h
    · split
      · exact h
      · split
        · exact State.pending_takeCapture _ h
        · exact h

/-- R458: an occurrence of a listed source, with whatever capture it triggers, leaves the source pending. -/
theorem State.pending_raise_self (s : State) {src : Nat} (cause : Nat) (h : eventListed src = true) :
    ((s.raise src cause).source src).pending = true := by
  unfold State.raise
  dsimp only
  split
  · exact State.pending_requestCapture _ (s.pending_raise0_self cause h)
  · exact s.pending_raise0_self cause h

end Sys2Proof.Machine
end

section
/-! The Watershed controller's loading commands (R63, R64) and the end of a validation (R60). -/

namespace Sys2Proof.Machine

open Sys2Proof

/-! ## The commands of the controller (R64) -/

theorem State.wshCmd_refused {s t : State} {ok : Bool} (h : ¬ok = true) : s.wshCmd ok t = s.wshRefuse := by
  rw [State.wshCmd, eq_false_of_ne_true h]
  rfl

/-- Outside a life-cycle transition and SAFE_STANDBY, a command is accepted by its own condition alone (R397, R434). -/
theorem State.wshCmd_accepted {s t : State} {ok : Bool} (hl : s.lcs.pending = false)
    (hs : s.rst.safeStandby = false) (h : ok = true) : s.wshCmd ok t = t := by
  rw [State.wshCmd, hl, hs, h]
  rfl

theorem hostCmd_wshCmd_refused {s t : State} {ok : Bool} (ho : s.hostOpen = true) (h : ¬ok = true) :
    hostCmd s (s.wshCmd ok t) = .next s.wshRefuse :=
  (hostCmd_of_open ho).trans (congrArg _ (State.wshCmd_refused h))

theorem hostCmd_wshCmd_accepted {s t : State} {ok : Bool} (ho : s.hostOpen = true) (hl : s.lcs.pending = false)
    (hs : s.rst.safeStandby = false) (h : ok = true) : hostCmd s (s.wshCmd ok t) = .next t :=
  (hostCmd_of_open ho).trans (congrArg _ (State.wshCmd_accepted hl hs h))

theorem exec_commit_refused {s : State} (ho : s.hostLinked = true) (h : s.wsh.st ≠ .valid) :
    exec .commit s = .next s.wshRefuse := by
  show Host.Outcome.next (if s.hostLinked then _ else s) = _
  rw [if_pos ho, State.wshCmd_refused fun k => h (beq_iff_eq.1 k)]

theorem Wsh.mayBegin_iff (w : Wsh) : w.mayBegin = true ↔ w.st ∈ [WshState.empty, .valid, .rejected, .committed] := by
  simp [Wsh.mayBegin, or_assoc]

theorem WshState.mayDiscard_iff (x : WshState) :
    (x == .loading || x == .valid || x == .rejected) = true ↔ x ∈ [WshState.loading, .valid, .rejected] := by
  simp [or_assoc]

theorem State.loadWindow_of_loading {s : State} {off : Nat} {bs : Bytes} (h : s.wsh.st = .loading)
    (hb : off + bs.length ≤ 2 ^ 24) :
    s.loadWindow off bs = { s with wsh := { s.wsh with
      staging := memWrite s.wsh.staging off bs, loaded := max s.wsh.loaded (off + bs.length) } } := if_pos ⟨h, hb⟩

theorem State.loadWindow_of_not_loading {s : State} {off : Nat} {bs : Bytes} (h : s.wsh.st ≠ .loading) :
    s.loadWindow off bs = s := if_neg fun k => h k.1

/-! ## The end of a validation -/

/-- What validation reads of the device does not show the flag that it sets. -/
theorem State.validated_of_ok {s : State} {p : Stream} (h : validateStream s.valEnv s.wsh.bytes = .ok p) :
    s.validated = { s with wsh := { s.wsh with
      st := .valid, parsed := some p, partialFlag := bitOf (parseHeader s.wsh.bytes).flags 0 } } := by
  unfold State.validated
  dsimp only
  split
  · next e he => exact absurd (h.symm.trans he) nofun
  · next q hq =>
    obtain rfl : p = q := Except.ok.inj (h.symm.trans hq)
    rfl

/-- The state that a failing validation rejects. -/
def State.shownPartial (s : State) : State :=
  { s with wsh := { s.wsh with partialFlag := bitOf (parseHeader s.wsh.bytes).flags 0 } }

theorem State.validated_of_error {s : State} {e : VErr} (h : validateStream s.valEnv s.wsh.bytes = .error e) :
    s.validated = s.shownPartial.reject e := by
  unfold State.validated
  dsimp only
  split
  · next f hf =>
    obtain rfl : e = f := Except.error.inj (h.symm.trans hf)
    rfl
  · next q hq => exact absurd (h.symm.trans hq) nofun

/-- R60: a rejection shows the error in WSH_ERR. -/
theorem State.wsh_reject (s : State) (e : VErr) :
    (s.reject e).wsh = { s.wsh with
      st := .rejected, springWait := false, errCode := e.code, errType := e.type, errOffset := e.off } :=
  State.raise_keeps _ _ _ .wsh (by decide)

/-- R60: a rejection raises event 0x001. -/
theorem State.pending_reject (s : State) (e : VErr) : ((s.reject e).source 0x001).pending = true :=
  State.pending_raise_self _ _ (by decide)

theorem execValidationComplete_of_validating {s : State} (ha : s.alive = true) (hv : s.wsh.st = .validating) :
    exec .validationComplete s = .next s.validated := by
  show engineCmd s _ = _
  rw [engineCmd_of_alive ha, if_pos hv]

/-! ## The obligation -/

/-- Settles O8: each loading command in and out of the states that accept it (R64), and the end of a validation by the
result of `validateStream`. -/
theorem loadsAndValidation : Obligations.LoadsAndValidation := by
  refine ⟨fun s ho hl hs => ⟨fun h => ?_, fun h => ?_, fun off bs h hb => ?_, fun off bs h => ?_, fun h => ?_,
    fun h => ?_, fun h => ?_, fun h => ?_, fun h => ?_⟩, fun s ha hv => ⟨fun p hp => ?_, fun e he => ?_⟩⟩
  · exact hostCmd_wshCmd_accepted ho hl hs ((Wsh.mayBegin_iff _).2 h)
  · exact hostCmd_wshCmd_refused ho fun k => h ((Wsh.mayBegin_iff _).1 k)
  · exact (hostCmd_of_open ho).trans (congrArg _ (State.loadWindow_of_loading h hb))
  · exact (hostCmd_of_open ho).trans (congrArg _ (State.loadWindow_of_not_loading h))
  · exact hostCmd_wshCmd_accepted ho hl hs (beq_iff_eq.2 h)
  · exact hostCmd_wshCmd_refused ho fun k => h (beq_iff_eq.1 k)
  · exact hostCmd_wshCmd_accepted ho hl hs ((WshState.mayDiscard_iff _).2 h)
  · exact hostCmd_wshCmd_refused ho fun k => h ((WshState.mayDiscard_iff _).1 k)
  · exact exec_commit_refused (State.hostLinked_of_hostOpen ho) h
  · rw [execValidationComplete_of_validating ha hv, State.validated_of_ok hp]
  · refine ⟨_, execValidationComplete_of_validating ha hv, ?_⟩
    have hw : s.validated.wsh = _ := (congrArg State.wsh (State.validated_of_error he)).trans (State.wsh_reject _ e)
    refine ⟨by rw [hw], by rw [hw], by rw [hw], by rw [hw], ?_, (State.validated_keeps s).mono (by decide)⟩
    rw [State.validated_of_error he]
    exact State.pending_reject _ e

end Sys2Proof.Machine
end

section
/-! The HBM key registers (R359, R360, R280): which operations leave them, and that a reach's keys, once asked for, are drawn
or due. -/

namespace Sys2Proof.Machine

open Sys2Proof

/-! ## Folds over states -/

theorem foldl_eq_of_step {α σ β : Type} {g : σ → β} {f : σ → α → σ} (h : ∀ s a, g (f s a) = g s) (xs : List α) (s : σ) :
    g (xs.foldl f s) = g s :=
  List.foldlRecOn xs f (motive := fun t => g t = g s) rfl fun t ht a _ => (h t a).trans ht

/-- What one element brings about and the others keep holds after the fold. -/
theorem foldl_establishes {α σ : Type} {P : σ → Prop} {f : σ → α → σ} {a : α} (hmake : ∀ s, P (f s a)) :
    ∀ (xs : List α) (s : σ), a ∈ xs → (∀ b ∈ xs, ∀ s, P s → P (f s b)) → P (xs.foldl f s)
  | x :: xs, s, ha, hkeep => by
    have hrest : ∀ b ∈ xs, ∀ s, P s → P (f s b) := fun b hb => hkeep b (List.mem_cons_of_mem x hb)
    rw [List.foldl_cons]
    rcases List.mem_cons.1 ha with rfl | ha
    · exact List.foldlRecOn xs f (hmake s) fun t ht b hb => hrest b hb t ht
    · exact foldl_establishes hmake xs (f s x) ha hrest

/-! ## Operations that leave the key registers -/

/-- The key registers that hold a key, and those whose draw waits for the Spring (R280). -/
def State.keyRegs (s : State) : Tbl Bytes × List Nat := (s.hbm.keys, s.hbm.keyDue)

theorem State.keyRegs_of_keeps {ps : List Part} {s t : State} (h : Keeps ps s t) (hs : Part.hbm ∉ ps) :
    t.keyRegs = s.keyRegs := by rw [State.keyRegs, h .hbm hs, State.keyRegs]

theorem State.keyRegs_setLine (s : State) (c l : Nat) (p : Place) (n : Nat) (bs : Bytes) :
    (s.setLine c l p n bs).keyRegs = s.keyRegs := by
  unfold State.setLine
  split <;> rfl

theorem State.keyRegs_setPlaceLine (s : State) (p : Place) (n : Nat) (bs : Bytes) :
    (s.setPlaceLine p n bs).keyRegs = s.keyRegs := State.keyRegs_setLine _ _ _ _ _ _

theorem State.keyRegs_openPage (s : State) (p : Place) (n : Nat) : (s.openPage p n).keyRegs = s.keyRegs := by
  unfold State.openPage
  split
  · rfl
  · exact foldl_eq_of_step (g := State.keyRegs) (fun s _ => State.keyRegs_setPlaceLine s _ _ _) _ s

theorem State.keyRegs_putLine (s : State) (p : Place) (n : Nat) (bs : Bytes) : (s.putLine p n bs).keyRegs = s.keyRegs :=
  (State.keyRegs_setPlaceLine _ _ _ _).trans (State.keyRegs_openPage _ _ _)

theorem State.keyRegs_putBytes (s : State) (p : Place) (first : Nat) (bs : Bytes) :
    (s.putBytes p first bs).keyRegs = s.keyRegs := foldl_eq_of_step (fun s _ => State.keyRegs_putLine s _ _ _) _ s

theorem State.keyRegs_placePrograms (s : State) : s.placePrograms.keyRegs = s.keyRegs := by
  refine foldl_eq_of_step (fun s g => ?_) _ s
  unfold State.placeProgram
  split
  · rfl
  · exact State.keyRegs_putBytes _ _ _ _

theorem State.keyRegs_wipeCtxs (s : State) (j : Job) : (s.wipeCtxs j).keyRegs = s.keyRegs := by
  refine foldl_eq_of_step (fun s i => ?_) _ s
  unfold State.putCtx
  split
  · rfl
  · exact State.keyRegs_putBytes _ _ _ _

theorem State.keyRegs_endJob (s : State) (id : Nat) (st : Status) (detail : Nat) :
    (s.endJob id st detail).keyRegs = s.keyRegs := by
  unfold State.endJob
  dsimp only
  split
  · rfl
  · next j _ =>
    split
    · rfl
    · refine (State.keyRegs_wipeCtxs _ j).trans ((State.keyRegs_of_keeps (State.freeTiles_keeps _ _ _) (by decide)).trans ?_)
      generalize (if st = .ok && j.abortLate then Status.okAbortLate else st) = st'
      have dropped : Keeps [.slots, .stores] s (if st'.success = true then s else s.dropReservation j) :=
        Keeps.ite (Keeps.refl _ _) ((State.dropReservation_keeps _ _).mono (by decide))
      exact State.keyRegs_of_keeps (Keeps.ite dropped ((State.countAbandon_keeps _ _).via (by decide) dropped)) (by decide)

theorem State.keyRegs_serveSeedOf (s : State) (ws : List SeedReq) : (s.serveSeedOf ws).keyRegs = s.keyRegs := by
  unfold State.serveSeedOf
  dsimp only
  split
  · rfl
  · split
    · rfl
    · split
      · exact State.keyRegs_endJob _ _ _ _
      · rfl
    · rfl
    · rfl

theorem State.keyRegs_startDrbg (s : State) (i : Nat) (pers : Bytes) : (s.startDrbg i pers).keyRegs = s.keyRegs :=
  State.keyRegs_serveSeedOf _ _

/-! ## Keys drawn or due -/

/-- The key register `k` holds a key, or its draw waits for the Spring (R280). -/
def State.keyed (s : State) (k : Nat) : Prop := k ∈ s.hbm.keys.map Prod.fst ∨ k ∈ s.hbm.keyDue

theorem State.keyed_of_keyRegs {s t : State} (h : t.keyRegs = s.keyRegs) {k : Nat} (hk : s.keyed k) : t.keyed k := by
  obtain ⟨hkeys, hdue⟩ := Prod.mk.inj h
  rwa [State.keyed, hkeys, hdue]

theorem mem_keys_tset {α : Type} {k i : Nat} {v : α} : ∀ {t : Tbl α},
    k ∈ (tset t i v).map Prod.fst ↔ k = i ∨ k ∈ t.map Prod.fst
  | [] => by simp [tset]
  | (j, w) :: t => by
    unfold tset
    split
    · simp
    · split
      · next h => subst h; simp
      · rw [List.map_cons, List.mem_cons, mem_keys_tset, List.map_cons, List.mem_cons, or_left_comm]

/-- A draw keys its register, or makes it due (R280). -/
theorem State.keyed_drawRegionKey_self (s : State) (k : Nat) : (s.drawRegionKey k).keyed k := by
  unfold State.drawRegionKey
  split
  · exact .inl (mem_keys_tset.2 (.inl rfl))
  · exact .inr (List.mem_append_right _ (List.mem_singleton_self k))

/-- A draw leaves every other register keyed. -/
theorem State.keyed_drawRegionKey {s : State} {k : Nat} (i : Nat) (hk : s.keyed k) : (s.drawRegionKey i).keyed k := by
  by_cases e : k = i
  · exact e ▸ s.keyed_drawRegionKey_self k
  · have hgen : (s.generate devInst 64).2.hbm = s.hbm := State.generate_keeps _ _ _ .hbm (by decide)
    unfold State.drawRegionKey
    split
    · rw [State.keyed]
      simp only [hgen]
      exact hk.imp_left fun h => mem_keys_tset.2 (.inr h)
    · refine hk.imp (fun h => ?_) fun h => List.mem_append_left _ (List.mem_filter.2 ⟨h, by simpa using e⟩)
      obtain ⟨x, hx, rfl⟩ := List.mem_map.1 h
      exact List.mem_map.2 ⟨x, List.mem_filter.2 ⟨hx, by simpa using e⟩, rfl⟩

/-- The registers of one reach's regions are discarded alone. -/
theorem State.keyed_dropRegionKeys {s : State} {k r : Nat} (hr : k % 128 ≠ r) (hk : s.keyed k) :
    (s.dropRegionKeys r).keyed k := by
  refine hk.imp (fun h => ?_) fun h => List.mem_filter.2 ⟨h, by simpa using hr⟩
  obtain ⟨x, hx, rfl⟩ := List.mem_map.1 h
  exact List.mem_map.2 ⟨x, List.mem_filter.2 ⟨hx, by simpa using hr⟩, rfl⟩

/-! ## The keys of a reach -/

/-- The key registers of a reach: its regions' and its reserve's (R65, R359). -/
def ReachRec.keyIds (x : ReachRec) : List Nat := x.regionKeys ++ [placeId .reserve x.id]

theorem ReachRec.keyIds_mod {x : ReachRec} (hx : x.id < 64) {k : Nat} (hk : k ∈ x.keyIds) : k % 128 = x.id := by
  have ofPlace : ∀ p : PlaceKind, placeId p x.id % 128 = x.id := fun p => by rw [placeId]; omega
  rcases List.mem_append.1 hk with h | h
  · obtain ⟨y, -, rfl⟩ := List.mem_map.1 h
    exact ofPlace _
  · exact List.mem_singleton.1 h ▸ ofPlace _

theorem State.keyed_createReach_self (s : State) (x : ReachRec) (st : ReachSt) {k : Nat} (hk : k ∈ x.keyIds) :
    (s.createReach x st).keyed k :=
  State.keyed_of_keyRegs (State.keyRegs_startDrbg _ _ _)
    (foldl_establishes (P := fun s => State.keyed s k) (fun s => s.keyed_drawRegionKey_self k) _ _ hk
      fun i _ _ h => State.keyed_drawRegionKey i h)

theorem State.keyed_createReach_other {s : State} {x : ReachRec} (st : ReachSt) {k : Nat} (hx : k % 128 ≠ x.id)
    (hk : s.keyed k) : (s.createReach x st).keyed k := by
  refine State.keyed_of_keyRegs (State.keyRegs_startDrbg _ _ _) ?_
  refine List.foldlRecOn x.keyIds State.drawRegionKey (motive := fun s => State.keyed s k) ?_ fun _ h i _ =>
    State.keyed_drawRegionKey i h
  exact State.keyed_dropRegionKeys hx hk

end Sys2Proof.Machine
end

section
/-! The switch point (R65): what the installation of a stream leaves in the configuration, the queues, the measurement
registers, the serial floors and the reaches it creates. -/

namespace Sys2Proof.Machine

open Sys2Proof

/-! ## The stages of an installation -/

/-- The stream with the configuration that it gives over the one in force (R67). -/
def Stream.over (p : Stream) (cur : Setup) : Stream := { p with cfg := p.setupOver cur }

theorem Stream.setupOver_of_full {p : Stream} (h : p.partialLoad = false) (cur : Setup) : p.setupOver cur = p.cfg := by
  rw [Stream.setupOver, if_neg (by rw [h]; decide)]

theorem Stream.over_of_full {p : Stream} (h : p.partialLoad = false) (cur : Setup) : p.over cur = p := by
  rw [Stream.over, Stream.setupOver_of_full h]

/-- What a commit ends of the configuration that stood: covered jobs, queues of functions that move, replaced reaches. -/
def State.retired (s : State) (p : Stream) : State :=
  (s.createdBy p).foldl State.wipeReplaced
    ((s.settleCovered fun j => (s.createdBy p).contains j.reach || p.named.contains j.reach).freeFns
      (movedFns s.cfg p.cfg (s.createdBy p)))

/-- The new configuration in force and HBM laid out for it. -/
def State.overlaid (s : State) (p : Stream) : State :=
  State.layHbm { (s.retired p).repartition p with
    cfg := p.cfg, wsh := { (s.retired p).wsh with configured := true } } p.partialLoad (s.createdBy p)

/-- The reaches of the stream created. -/
def State.peopled (s : State) (p : Stream) : State := (s.createdBy p).foldl (State.createNamed p) (s.overlaid p)

/-- Tiles wiped, role epochs moved on and the frame started (R69, R136). -/
def State.reassigned (s : State) (p : Stream) : State :=
  let ks := changedTiles s.cfg p.cfg
  (p.named.foldl State.bumpReach
    ((ks.foldl State.bumpTile ((s.peopled p).wipeTiles ks)).bumpChains s.cfg p.cfg)).startFrame

/-- All of an installation but the measurement of the stream. -/
def State.settled (s : State) (p : Stream) : State :=
  if p.partialLoad then s.reassigned p else (s.reassigned p).placePrograms.commitFull p

theorem State.install_eq (s : State) (p : Stream) :
    s.install p = (s.settled (p.over s.cfg)).extendDev 4 p.digest := rfl

/-- The state at the switch point, before ports and events. -/
def State.switched (s : State) (p : Stream) : State :=
  let t := (s.install p).commitFloor p
  State.stampCommit { t with wsh := { t.wsh with
    st := .committed, serial := p.serial, digest := p.digest, springWait := false, parsed := none } }

/-! ## What each stage leaves -/

theorem State.retired_keeps (s : State) (p : Stream) : Keeps [.queues, .reaches, .kst, .slots, .records, .fns, .jobs,
    .weir, .tiles, .cores, .spans, .spr, .hbm, .cfl, .evt, .snp, .pins, .tx] s (s.retired p) :=
  Keeps.foldlVia (fun _ _ => (State.wipeReplaced_keeps _ _).mono (by decide))
    ((State.freeFns_keeps _ _).via (by decide) ((State.settleCovered_keeps _ _).mono (by decide)))

theorem State.overlaid_keeps (s : State) (p : Stream) : Keeps [.wsh, .cfg, .parts, .queues, .reaches, .kst, .slots,
    .records, .fns, .jobs, .weir, .tiles, .cores, .spans, .spr, .hbm, .cfl, .evt, .snp, .pins, .tx] s (s.overlaid p) :=
  (State.layHbm_keeps _ _ _).via (by decide) ((Keeps.set_wsh_cfg _ _ _).via (by decide)
    ((State.repartition_keeps _ _).via (by decide) ((State.retired_keeps s p).mono (by decide))))

theorem State.peopled_keeps (s : State) (p : Stream) : Keeps [.fns, .reaches, .jobs, .weir, .slots, .spr, .tiles,
    .cores, .spans, .stores, .hbm, .cfl, .evt, .snp, .pins, .tx] (s.overlaid p) (s.peopled p) :=
  Keeps.foldl (fun _ _ => State.createNamed_keeps _ _ _) _ _

/-- Tiles that change their role are wiped and their epochs move on; no reach and no configuration changes (R69, R85). -/
theorem State.wipeTiles_bump_keeps (s : State) (ks : List Nat) (old new : Setup) : Keeps [.fns, .spr, .tiles,
    .chainEpoch, .cfl, .evt, .snp, .pins, .tx] s ((ks.foldl State.bumpTile (s.wipeTiles ks)).bumpChains old new) :=
  (State.bumpChains_keeps _ _ _).via (by decide)
    (Keeps.foldlVia (fun _ _ => (State.bumpTile_keeps _ _).mono (by decide))
      ((State.wipeTiles_keeps _ _).mono (by decide)))

theorem State.reassigned_keeps (s : State) (p : Stream) : Keeps [.fns, .spr, .tiles, .chainEpoch, .reaches, .weir, .cfl,
    .evt, .snp, .pins, .tx] (s.peopled p) (s.reassigned p) :=
  (State.startFrame_keeps _).via (by decide)
    (Keeps.foldlVia (fun _ _ => (State.bumpReach_keeps _ _).mono (by decide))
      ((State.wipeTiles_bump_keeps _ _ _ _).mono (by decide)))

theorem State.settled_keeps_reassigned (s : State) (p : Stream) : Keeps [.fns, .kst, .stores, .cprof, .meas, .measCnt,
    .hbm, .cfl, .evt, .snp, .rst, .ao, .ledger, .pins, .tx] (s.reassigned p) (s.settled p) :=
  Keeps.ite (Keeps.refl _ _)
    ((State.commitFull_keeps _ _).via (by decide) ((State.placePrograms_keeps _).mono (by decide)))

/-- After the new configuration is in force, nothing of the installation touches it, the controller or the queues. -/
theorem State.settled_keeps_overlaid (s : State) (p : Stream) : Keeps [.fns, .reaches, .jobs, .weir, .kst, .slots, .spr,
    .tiles, .chainEpoch, .cores, .spans, .stores, .cprof, .meas, .measCnt, .hbm, .cfl, .evt, .snp, .rst, .ao, .ledger,
    .pins, .tx] (s.overlaid p) (s.settled p) :=
  (State.settled_keeps_reassigned s p).via (by decide)
    ((State.reassigned_keeps s p).via (by decide) ((State.peopled_keeps s p).mono (by decide)))

theorem State.switchPoint_keeps_switched (s : State) (p : Stream) :
    Keeps eventParts (s.switched p) (s.switchPoint p) :=
  (State.raise_keeps _ _ _).via (by decide)
    (Keeps.foldlVia (fun _ _ => (State.raise_keeps _ _ _).mono (by decide))
      ((State.commitPorts_keeps _).mono (by decide)))

theorem State.switched_keeps_install (s : State) (p : Stream) : Keeps [.wsh, .ledger] (s.install p) (s.switched p) :=
  (State.stampCommit_keeps _).via (by decide)
    ((Keeps.set_wsh _ _).via (by decide) ((State.commitFloor_keeps _ _).mono (by decide)))

/-- Behind the installation come the floors, the controller's registers, ports and events. -/
theorem State.switchPoint_keeps_install (s : State) (p : Stream) :
    Keeps (.wsh :: .ledger :: eventParts) (s.install p) (s.switchPoint p) :=
  (State.switchPoint_keeps_switched s p).via (by decide) ((State.switched_keeps_install s p).mono (by decide))

/-! ## The configuration and the controller -/

theorem State.cfg_install (s : State) (p : Stream) : (s.install p).cfg = p.setupOver s.cfg :=
  State.settled_keeps_overlaid s (p.over s.cfg) .cfg (by decide)

theorem State.wsh_install (s : State) (p : Stream) : (s.install p).wsh = { s.wsh with configured := true } :=
  (State.settled_keeps_overlaid s (p.over s.cfg) .wsh (by decide)).trans
    (congrArg (fun w : Wsh => { w with configured := true }) (State.retired_keeps s (p.over s.cfg) .wsh (by decide)))

theorem State.wsh_commitFloor (s : State) (p : Stream) :
    (s.commitFloor p).wsh = { s.wsh with floorStale := s.ledger.readOnly } := by
  unfold State.commitFloor
  split
  · next h => rw [h]
  · next h => rw [eq_false_of_ne_true h]

/-! ## Queues -/

/-- R65, R68: the queues of functions that move are freed, and every other queue stands. -/
theorem State.queues_install (s : State) (p : Stream) : (s.install p).queues =
    s.queues.filter fun x => !(movedFns s.cfg (p.setupOver s.cfg) (s.createdBy (p.over s.cfg))).contains (x.1 / 64) := by
  have hwipe : ∀ (u : State) (r : Nat), (u.wipeReplaced r).queues = u.queues := fun u r =>
    State.wipeReplaced_keeps u r .queues (by decide)
  have hcov : ∀ (u : State) f, (u.settleCovered f).queues = u.queues := fun u f =>
    State.settleCovered_keeps u f .queues (by decide)
  calc (s.install p).queues
      = (s.overlaid (p.over s.cfg)).queues := State.settled_keeps_overlaid s _ .queues (by decide)
    _ = (s.retired (p.over s.cfg)).queues := rfl
    _ = _ := (foldl_eq_of_step (g := State.queues) hwipe _ _).trans (congrArg (List.filter _) (hcov _ _))

/-! ## Measurement registers (R245) -/

theorem State.meas_extendDev_ne {i k : Nat} (h : i ≠ k) (s : State) (d : Bytes) :
    (s.extendDev i d).meas[k]? = s.meas[k]? := List.getElem?_set_ne h

theorem State.meas_extendDev_self {i : Nat} {s : State} (h : i < s.meas.length) (d : Bytes) :
    (s.extendDev i d).meas.getD i measZero = sha3_384 (s.meas.getD i measZero ++ d) := by
  rw [List.getD_eq_getElem?_getD]
  exact congrArg (Option.getD · measZero) (List.getElem?_set_self h)

/-- A full commit extends registers 5 and 6 alone (R246). -/
theorem State.meas_commitFull {k : Nat} (h5 : 5 ≠ k) (h6 : 6 ≠ k) (s : State) (p : Stream) :
    (s.commitFull p).meas[k]? = s.meas[k]? := by
  have hpre : Keeps [.ao, .fns, .evt, .tx, .stores] s s.commitAo.commitEvents.commitImages :=
    (State.commitImages_keeps _).via (by decide)
      ((State.commitEvents_keeps _).via (by decide) ((State.commitAo_keeps _).mono (by decide)))
  have hpost : ∀ u : State, Keeps [.fns, .cfl, .evt, .snp, .rst, .ao, .ledger, .pins, .tx] u
      (u.commitTime.commitBootEvents.stepOutcome 17 1) := fun u =>
    (State.stepOutcome_keeps _ _ _).via (by decide)
      ((State.commitBootEvents_keeps _).via (by decide) ((State.commitTime_keeps _).mono (by decide)))
  have himages := foldl_eq_of_step (g := fun u : State => u.meas[k]?) (f := fun u d => u.extendDev 6 d)
    (fun u d => State.meas_extendDev_ne h6 u d)
  calc (s.commitFull p).meas[k]?
      = _ := congrArg (·[k]?) (hpost _ .meas (by decide))
    _ = _ := himages _ _
    _ = _ := State.meas_extendDev_ne h5 _ _
    _ = s.meas[k]? := congrArg (·[k]?) (hpre .meas (by decide))

theorem State.meas_settled (s : State) (p : Stream) : (s.settled p).meas[4]? = s.meas[4]? := by
  have hmeas : (s.reassigned p).meas = s.meas :=
    (State.reassigned_keeps s p .meas (by decide)).trans
      ((State.peopled_keeps s p .meas (by decide)).trans (State.overlaid_keeps s p .meas (by decide)))
  unfold State.settled
  split
  · rw [hmeas]
  · rw [State.meas_commitFull (by decide) (by decide), State.placePrograms_keeps _ .meas (by decide), hmeas]

/-- R65, R245: MEAS[4] is extended with the stream's digest. -/
theorem State.meas_install {s : State} (h : s.meas.length = 16) (p : Stream) :
    (s.install p).meas.getD 4 measZero = sha3_384 (s.meas.getD 4 measZero ++ p.digest) := by
  have hm : (s.settled (p.over s.cfg)).meas[4]? = s.meas[4]? := State.meas_settled s _
  have hlen : 4 < (s.settled (p.over s.cfg)).meas.length :=
    (List.getElem?_eq_some_iff.1 (hm.trans (List.getElem?_eq_getElem (by omega)))).1
  rw [State.install_eq, State.meas_extendDev_self hlen, List.getD_eq_getElem?_getD, hm, List.getD_eq_getElem?_getD]

/-! ## Serial floors (R59) -/

/-- The floors hold at least `n` for the signing key with this digest. -/
def FloorAt (floors : List (Bytes × Nat)) (d : Bytes) (n : Nat) : Prop := ∃ f ∈ floors, f.1 = d ∧ n ≤ f.2

theorem floorAt_raiseFloor_self (n : Nat) (d : Bytes) : ∀ fs : List (Bytes × Nat), FloorAt (raiseFloor n fs d) d n
  | [] => ⟨(d, n), List.mem_singleton_self _, rfl, Nat.le_refl n⟩
  | (k, v) :: fs => by
    unfold raiseFloor
    split
    · next h => exact ⟨(k, max v n), List.mem_cons_self, h, Nat.le_max_right v n⟩
    · obtain ⟨f, hf, h⟩ := floorAt_raiseFloor_self n d fs
      exact ⟨f, List.mem_cons_of_mem _ hf, h⟩

/-- Raising a floor lowers none. -/
theorem floorAt_raiseFloor {d : Bytes} {n : Nat} (m : Nat) (e : Bytes) : ∀ {fs : List (Bytes × Nat)},
    FloorAt fs d n → FloorAt (raiseFloor m fs e) d n
  | (k, v) :: fs, ⟨f, hf, hd, hn⟩ => by
    unfold raiseFloor
    rcases List.mem_cons.1 hf with rfl | hf
    · split
      · exact ⟨_, List.mem_cons_self, hd, Nat.le_trans hn (Nat.le_max_left _ _)⟩
      · exact ⟨_, List.mem_cons_self, hd, hn⟩
    · split
      · exact ⟨f, List.mem_cons_of_mem _ hf, hd, hn⟩
      · obtain ⟨g, hg, h⟩ := floorAt_raiseFloor m e ⟨f, hf, hd, hn⟩
        exact ⟨g, List.mem_cons_of_mem _ hg, h⟩

theorem State.floorAt_commitFloor {s : State} {p : Stream} (h : s.ledger.readOnly = false) {x : SigRec} (hx : x ∈ p.sigs) :
    FloorAt (s.commitFloor p).ledger.floors (sha3_384 x.key) p.serial := by
  rw [State.commitFloor, if_neg (by rw [h]; decide)]
  exact foldl_establishes (P := fun fs => FloorAt fs (sha3_384 x.key) p.serial) (floorAt_raiseFloor_self _ _) _ _
    (List.mem_map_of_mem hx) fun e _ _ hf => floorAt_raiseFloor _ e hf

theorem State.commitFloor_of_readOnly {s : State} (p : Stream) (h : s.ledger.readOnly = true) :
    (s.commitFloor p).ledger = s.ledger := by
  rw [State.commitFloor, if_pos h]

/-- Of the ledger, a full commit writes the boot journal alone (R432). -/
theorem State.ledger_commitFull (s : State) (p : Stream) :
    ∃ boots, (s.commitFull p).ledger = { s.ledger with boots := boots } := by
  have hpre : Keeps [.ao, .fns, .evt, .tx, .stores, .cprof, .meas, .measCnt, .cfl, .snp, .pins] s
      (p.images.foldl (fun u d => u.extendDev 6 d)
        s.commitAo.commitEvents.commitImages.commitProfiles).commitTime.commitBootEvents :=
    (State.commitBootEvents_keeps _).via (by decide) ((State.commitTime_keeps _).via (by decide)
      (Keeps.foldlVia (fun _ _ => (State.extendDev_keeps _ _ _).mono (by decide))
        ((State.commitProfiles_keeps _).via (by decide) ((State.commitImages_keeps _).via (by decide)
          ((State.commitEvents_keeps _).via (by decide) ((State.commitAo_keeps _).mono (by decide)))))))
  exact ⟨(s.commitFull p).ledger.boots,
    congrArg (fun l : Ledger => { l with boots := (s.commitFull p).ledger.boots }) (hpre .ledger (by decide))⟩

theorem State.ledger_install (s : State) (p : Stream) :
    ∃ boots, (s.install p).ledger = { s.ledger with boots := boots } := by
  have hre : (s.reassigned (p.over s.cfg)).ledger = s.ledger :=
    (State.reassigned_keeps s _ .ledger (by decide)).trans
      ((State.peopled_keeps s _ .ledger (by decide)).trans (State.overlaid_keeps s _ .ledger (by decide)))
  show ∃ boots, (s.settled (p.over s.cfg)).ledger = _
  unfold State.settled
  split
  · exact ⟨s.ledger.boots, hre⟩
  · obtain ⟨boots, h⟩ := State.ledger_commitFull (s.reassigned (p.over s.cfg)).placePrograms (p.over s.cfg)
    exact ⟨boots, by rw [h, State.placePrograms_keeps _ .ledger (by decide), hre]⟩

/-! ## The reaches that a full commit creates (R65, R79) -/

/-- A reach that serves with cleared measurement registers. -/
def ReachState.servesClean (r : ReachState) : Prop :=
  r.st = .serving ∧ r.meas = List.replicate 32 measZero ∧ r.measCnt = List.replicate 32 0

theorem State.reach_of_reaches {s t : State} (h : t.reaches = s.reaches) (n : Nat) : t.reach n = s.reach n := by
  rw [State.reach, h, State.reach]

/-- Of the reaches, a creation writes the one created. -/
theorem State.reaches_createReach (s : State) (x : ReachRec) (st : ReachSt) : ∃ r : ReachState,
    r.st = st ∧ r.meas = List.replicate 32 measZero ∧ r.measCnt = List.replicate 32 0 ∧
      (s.createReach x st).reaches = (s.setReach x.id r).reaches := by
  have hdraw : ∀ (u : State) (ks : List Nat), (ks.foldl State.drawRegionKey u).reaches = u.reaches := fun u ks =>
    foldl_eq_of_step (g := State.reaches) (fun u k => State.drawRegionKey_keeps u k .reaches (by decide)) ks u
  refine ⟨_, ?_, ?_, ?_, (State.startDrbg_keeps _ _ _ .reaches (by decide)).trans (hdraw _ _)⟩ <;> rfl

theorem State.servesClean_createReach_self (s : State) (x : ReachRec) :
    ((s.createReach x .serving).reach x.id).servesClean := by
  obtain ⟨r, hst, hmeas, hcnt, hr⟩ := s.reaches_createReach x .serving
  rw [State.reach_of_reaches hr, State.reach_setReach_same]
  exact ⟨hst, hmeas, hcnt⟩

theorem State.servesClean_createReach {s : State} {n : Nat} (x : ReachRec) (h : (s.reach n).servesClean) :
    ((s.createReach x .serving).reach n).servesClean := by
  by_cases e : x.id = n
  · exact e ▸ s.servesClean_createReach_self x
  · obtain ⟨r, -, -, -, hr⟩ := s.reaches_createReach x .serving
    rwa [State.reach_of_reaches hr, State.reach_setReach, if_neg e]

theorem State.servesClean_bumpReach {s : State} {n : Nat} (r : Nat) (h : (s.reach n).servesClean) :
    ((s.bumpReach r).reach n).servesClean := by
  rw [State.bumpReach, State.reach_setReach]
  split
  · next e => exact e ▸ h
  · exact h

theorem Setup.id_of_reach {c : Setup} {r : Nat} {x : ReachRec} (h : c.reach r = some x) : x.id = r :=
  beq_iff_eq.1 (List.find?_some h :)

theorem State.createNamed_of_full {p : Stream} (hf : p.partialLoad = false) {r : Nat} {x : ReachRec}
    (hx : p.cfg.reach r = some x) (s : State) : s.createNamed p r = s.createReach x .serving := by
  rw [State.createNamed, hx]
  dsimp only
  rw [hf, if_neg (by decide)]

theorem State.createNamed_of_none {p : Stream} {r : Nat} (hx : p.cfg.reach r = none) (s : State) :
    s.createNamed p r = s := by rw [State.createNamed, hx]

/-- What a creation of one reach makes and every creation keeps, the reaches that a full commit creates have. -/
theorem State.peopled_of_full {P : State → Prop} {s : State} {p : Stream} {x : ReachRec} (hf : p.partialLoad = false)
    (hc : x.id ∈ s.createdBy p) (hx : p.cfg.reach x.id = some x) (hmake : ∀ u : State, P (u.createReach x .serving))
    (hkeep : ∀ (u : State) (y : ReachRec), y.id ∈ s.createdBy p → y.id ≠ x.id → P u → P (u.createReach y .serving)) :
    P (s.peopled p) := by
  have hself : ∀ u : State, P (u.createNamed p x.id) := fun u => by
    rw [State.createNamed_of_full hf hx]
    exact hmake u
  refine foldl_establishes hself _ _ hc fun r hr u hu => ?_
  by_cases e : r = x.id
  · exact e ▸ hself u
  · cases hy : p.cfg.reach r with
    | none => rwa [State.createNamed_of_none hy]
    | some y =>
      have hid : y.id = r := Setup.id_of_reach hy
      rw [State.createNamed_of_full hf hy]
      exact hkeep u y (hid ▸ hr) (hid ▸ e) hu

section

variable {s : State} {p : Stream} {x : ReachRec} (hf : p.partialLoad = false) (hc : x.id ∈ s.createdBy p)
  (hx : p.cfg.reach x.id = some x)

include hf hc hx

theorem State.servesClean_peopled : ((s.peopled p).reach x.id).servesClean :=
  State.peopled_of_full hf hc hx (P := fun u : State => (u.reach x.id).servesClean)
    (fun u => u.servesClean_createReach_self x) fun _ y _ _ h => State.servesClean_createReach y h

/-- R65: the created reach serves with cleared measurement registers; what follows its creation moves its role epoch on
alone. -/
theorem State.servesClean_install : ((s.install p).reach x.id).servesClean := by
  have hbump : ((s.reassigned p).reach x.id).servesClean := by
    refine List.foldlRecOn p.named State.bumpReach (motive := fun u => (State.reach u x.id).servesClean) ?_
      fun _ h r _ => State.servesClean_bumpReach r h
    rw [State.reach_of_reaches (State.wipeTiles_bump_keeps _ _ _ _ .reaches (by decide))]
    exact State.servesClean_peopled hf hc hx
  rw [State.install_eq, Stream.over_of_full hf]
  exact (State.reach_of_reaches (State.settled_keeps_reassigned s p .reaches (by decide)) x.id).symm ▸ hbump

/-- R65, R280: the keys of a created reach's regions are drawn or due, where every reach has a number below 64. -/
theorem State.keyed_install (hid : ∀ i ∈ s.createdBy p, i < 64) {k : Nat} (hk : k ∈ x.keyIds) :
    (s.install p).keyed k := by
  have hmod : k % 128 = x.id := ReachRec.keyIds_mod (hid _ hc) hk
  have hpeopled : (s.peopled p).keyed k :=
    State.peopled_of_full hf hc hx (P := fun u : State => u.keyed k) (fun u => u.keyed_createReach_self x _ hk)
      fun u y _ hy h => State.keyed_createReach_other _ (fun e => hy (e.symm.trans hmod)) h
  have hregs : (s.settled p).keyRegs = (s.peopled p).keyRegs := by
    have hre : (s.reassigned p).keyRegs = (s.peopled p).keyRegs :=
      State.keyRegs_of_keeps (State.reassigned_keeps s p) (by decide)
    rw [State.settled, if_neg (by rw [hf]; decide), State.keyRegs_of_keeps (State.commitFull_keeps _ _) (by decide),
      State.keyRegs_placePrograms, hre]
  rw [State.install_eq, Stream.over_of_full hf]
  exact State.keyed_of_keyRegs hregs hpeopled

end

/-! ## The obligation -/

theorem execCommitSwitchPoint_of_committing {s : State} {p : Stream} (ha : s.alive = true) (hst : s.wsh.st = .committing)
    (hp : s.wsh.parsed = some p) (hs : s.rst.inService = true)
    (hw : s.wsh.springWait = false ∨ s.spr.st = .running) : exec .commitSwitchPoint s = .next (s.switchPoint p) := by
  have hgo : ¬(!s.rst.inService || (s.wsh.springWait && s.spr.st != .running)) = true := by
    rcases hw with h | h <;> simp [hs, h]
  show engineCmd s _ = _
  rw [engineCmd_of_alive ha, hst, hp]
  exact congrArg Host.Outcome.next (if_neg hgo)

/-- R65, R71: the controller's registers after the switch point; WSH_APPLY_US alone rests on the time. -/
theorem State.wsh_switchPoint (s : State) (p : Stream) : ∃ us, (s.switchPoint p).wsh = { s.wsh with
    st := .committed, serial := p.serial, digest := p.digest, springWait := false, parsed := none, configured := true
    floorStale := s.ledger.readOnly, applyUs := us } := by
  obtain ⟨boots, hboots⟩ := s.ledger_install p
  have hw : ((s.install p).commitFloor p).wsh = { s.wsh with configured := true, floorStale := s.ledger.readOnly } := by
    rw [State.wsh_commitFloor, State.wsh_install, hboots]
  have hsw : (s.switchPoint p).wsh = (s.switched p).wsh := State.switchPoint_keeps_switched s p .wsh (by decide)
  refine ⟨(s.switched p).wsh.applyUs, hsw.trans ?_⟩
  exact congrArg (fun w : Wsh => { w with
    st := .committed, serial := p.serial, digest := p.digest, springWait := false, parsed := none
    applyUs := (s.switched p).wsh.applyUs }) hw

/-- Settles O10: the installation stage by stage (`install_eq`), with the floors, the controller's registers and event 0x000
behind it. -/
theorem switchPointInstallsStream : Obligations.SwitchPointInstallsStream := by
  refine ⟨fun s p ha hst hp hs hw => ⟨_, execCommitSwitchPoint_of_committing ha hst hp hs hw, ?_⟩,
    fun s p x ha hst hp hs hw hc hx hf => ⟨_, execCommitSwitchPoint_of_committing ha hst hp hs hw, ?_⟩⟩
  · have hframe := State.switchPoint_keeps_install s p
    have hcfg : (s.switchPoint p).cfg = p.setupOver s.cfg := (hframe .cfg (by decide)).trans (s.cfg_install p)
    have hqueues := (hframe .queues (by decide)).trans (s.queues_install p)
    have hled : (s.switchPoint p).ledger = ((s.install p).commitFloor p).ledger :=
      State.switchPoint_keeps_switched s p .ledger (by decide)
    obtain ⟨us, hwsh⟩ := s.wsh_switchPoint p
    obtain ⟨boots, hboots⟩ := s.ledger_install p
    have hro : (s.install p).ledger.readOnly = s.ledger.readOnly := by rw [hboots]
    refine ⟨hcfg, fun hf => hcfg.trans (Stream.setupOver_of_full hf _), by rw [hwsh], by rw [hwsh], by rw [hwsh],
      by rw [hwsh], by rw [hwsh], State.pending_raise_self _ _ (by decide), fun hm => ?_, fun h => ⟨?_, fun x hx => ?_⟩,
      fun h => ⟨?_, ?_⟩, fun q hq => ?_, fun q hq hfn => ?_, (State.switchPoint_keeps s p).mono (by decide)⟩
    · rw [hframe .meas (by decide)]
      exact State.meas_install hm p
    · rw [hwsh]
      exact h
    · rw [hled]
      exact State.floorAt_commitFloor (hro.trans h) hx
    · rw [hwsh]
      exact h
    · rw [hled, State.commitFloor_of_readOnly p (hro.trans h), hboots]
    · rw [hqueues] at hq
      exact (List.mem_filter.1 hq).1
    · rw [hqueues]
      rw [hcfg] at hfn
      change q.1 / 64 ∉ movedFns s.cfg (p.setupOver s.cfg) (s.createdBy (p.over s.cfg)) at hfn
      exact List.mem_filter.2 ⟨hq, by simpa using hfn⟩
  · have hframe := State.switchPoint_keeps_install s p
    have hreach : ((s.switchPoint p).reach x.id).servesClean :=
      (State.reach_of_reaches (hframe .reaches (by decide)) x.id).symm ▸ State.servesClean_install hf hc hx
    obtain ⟨hserves, hmeas, hcnt⟩ := hreach
    refine ⟨hserves, hmeas, hcnt, fun hid k hk => ?_⟩
    exact State.keyed_of_keyRegs (State.keyRegs_of_keeps hframe (by decide)) (State.keyed_install hf hc hx hid hk)

end Sys2Proof.Machine
end

section
/-! How an operation's result becomes the end of its job: what ENDING a job and WRITING a slot leave, and the outcome of a
command that runs an operation with a result. -/

namespace Sys2Proof.Machine

open Sys2Proof

/-! ## Jobs and slots across a step -/

theorem State.job_of_keeps {ps : List Part} {s t : State} (h : Keeps ps s t) (hs : Part.jobs ∉ ps) (id : Nat) :
    t.job id = s.job id := by rw [State.job, h .jobs hs, State.job]

theorem State.slot_of_slots {s t : State} (h : t.slots = s.slots) (n : Nat) : t.slot n = s.slot n := by
  rw [State.slot, h, State.slot]

theorem State.slot_of_keeps {ps : List Part} {s t : State} (h : Keeps ps s t) (hs : Part.slots ∉ ps) (n : Nat) :
    t.slot n = s.slot n := State.slot_of_slots (h .slots hs) n

theorem State.id_of_job {s : State} {id : Nat} {j : Job} (h : s.job id = some j) : j.id = id := by
  simpa using List.find?_some h

theorem State.job_setJob_of_job {s : State} {j k : Job} (h : s.job j.id = some k) : (s.setJob j).job j.id = some j :=
  State.job_setJob_same s j ⟨k, h⟩

/-! ## Masking randomness (R217, R258) -/

/-- The draw of a built-in node counts in the node and leaves the rest of its job. -/
theorem State.job_nodeMasks {s : State} {j : Job} (hj : s.job j.id = some j) (i : Nat) :
    ∃ ns, (s.nodeMasks j.id i).2.job j.id = some { j with nodes := ns } := by
  have written : ∀ {t : State} (n : Node), t.job j.id = some j →
      ∃ ns, (t.setJob (j.setNode i n)).job j.id = some { j with nodes := ns } := fun n ht =>
    ⟨j.nodes.set i n, State.job_setJob_of_job (j := j.setNode i n) ht⟩
  have kept : ∃ ns, s.job j.id = some { j with nodes := ns } := ⟨j.nodes, hj⟩
  unfold State.nodeMasks
  rw [hj]
  dsimp only
  split
  · exact kept
  · next n _ =>
    split
    · next k _ =>
      split
      · exact kept
      · split
        · have words := State.job_of_keeps (State.takeWords_keeps s (keyIndex k) (s.maskNeed j n.info - n.drawn))
            (by decide) j.id
          split
          · next e =>
            rw [e] at words
            exact written _ (words.trans hj)
          · next e =>
            rw [e] at words
            exact ⟨j.nodes, words.trans hj⟩
        · unfold State.nodeBlocks
          dsimp only
          have blocks : ∀ (m : Nat) (ks : List Nat),
              (ks.foldl (fun s k => (s.takeBlocks (expAt k) k m).2) s).job j.id = some j := fun m ks =>
            (State.job_of_keeps (Keeps.foldl (fun s k => State.takeBlocks_keeps s (expAt k) k m) ks s) (by decide)
              j.id).trans hj
          split
          · dsimp only
            rw [State.job_of_keeps (Keeps.foldl (fun s k => State.throttleTile_keeps s (expAt k) k) _ _) (by decide)]
            exact written _ (blocks _ _)
          · exact written _ (blocks _ _)
    · exact kept

/-- What drawing masking randomness can touch beside the job. -/
def maskParts : List Part := [.jobs, .spr, .tiles] ++ eventParts

/-- With its masking randomness there, a routine goes on in a state that differs by the draw alone, and with a job that differs
by its nodes alone. -/
theorem State.masked_of_masksHere {s : State} {j : Job} (hj : s.job j.id = some j) (hm : MasksHere s j)
    (f : State → Job → State) : ∃ u ns, s.masked j f = f u { j with nodes := ns } ∧
      u.job j.id = some { j with nodes := ns } ∧ Keeps maskParts s u := by
  unfold State.masked
  split
  · exact ⟨s, j.nodes, rfl, hj, Keeps.refl _ _⟩
  · next i hi =>
    obtain ⟨ns, hns⟩ := State.job_nodeMasks hj i
    refine ⟨_, ns, ?_, hns, (State.nodeMasks_keeps s j.id i).mono (by decide)⟩
    dsimp only
    rw [if_pos (hm i hi), hns]

/-- Without it, the routine stalls. -/
theorem State.masked_of_stall {s : State} {j : Job} {i : Nat} (hi : (j.nodes.findIdx? fun n => n.info.output) = some i)
    (hm : (s.nodeMasks j.id i).1 = false) (f : State → Job → State) : s.masked j f = (s.nodeMasks j.id i).2 := by
  unfold State.masked
  rw [hi]
  dsimp only
  rw [if_neg (by rw [hm]; decide)]

/-! ## The end of a job (R122) -/

/-- What is left of a job's output when it ends. -/
def Status.shows (st : Status) (out : Bytes) : Bytes := if st.success then out else []

theorem Status.shows_of_success {st : Status} (h : st.success = true) (out : Bytes) : st.shows out = out := if_pos h

theorem Status.shows_of_not_success {st : Status} (h : st.success = false) (out : Bytes) : st.shows out = [] :=
  if_neg (by rw [h]; decide)

/-- A job without a status ends with the one given; a success leaves every slot. -/
theorem State.endJob_ends {s : State} {j : Job} (hj : s.job j.id = some j) (hs : j.status = none)
    (ha : j.abortLate = false) (st : Status) (d : Nat) :
    JobEnds j st d (st.shows j.output) (s.endJob j.id st d) ∧
      (st.success = true → (s.endJob j.id st d).slots = s.slots) := by
  have hst : (if (decide (st = .ok) && j.abortLate) = true then Status.okAbortLate else st) = st :=
    if_neg (by rw [ha, Bool.and_false]; decide)
  unfold State.endJob
  rw [hj]
  dsimp only
  rw [if_neg (by rw [hs]; decide)]
  simp only [hst]
  have dropped : Keeps [.slots, .stores] s (if st.success = true then s else s.dropReservation j) :=
    Keeps.ite (Keeps.refl _ _) ((State.dropReservation_keeps _ _).mono (by decide))
  generalize hu : (if st.success = true then s else s.dropReservation j) = u at dropped
  have counted : Keeps [.slots, .stores] s
      (if (st.success || st == .verifyFalse) = true then u else u.countAbandon fun n => n.1 == j.id) :=
    Keeps.ite dropped ((State.countAbandon_keeps _ _).via (by decide) dropped)
  have hw : st.success = true →
      (if (st.success || st == .verifyFalse) = true then u else u.countAbandon fun n => n.1 == j.id) = s := fun h => by
    rw [← hu, if_pos h, if_pos (by rw [h]; rfl)]
  generalize (if (st.success || st == .verifyFalse) = true then u else u.countAbandon fun n => n.1 == j.id) = w
    at counted hw
  have freed : Keeps [.fns, .weir, .tiles, .cores, .spans, .cfl, .evt, .snp, .pins, .tx, .hbm] w
      ((w.freeTiles j.id st.endsAll).wipeCtxs j) :=
    (State.wipeCtxs_keeps _ _).via (by decide) ((State.freeTiles_keeps _ _ _).mono (by decide))
  have hjob : ((w.freeTiles j.id st.endsAll).wipeCtxs j).job j.id = some j :=
    ((State.job_of_keeps freed (by decide) _).trans (State.job_of_keeps counted (by decide) _)).trans hj
  refine ⟨⟨_, State.job_setJob_of_job (j := { j.cancelNodes _ with
    status := some st, detail := d, st := .ended, output := st.shows j.output, stage := [],
    extend := if j.committed = true then j.extend else none, reserved := none }) hjob, rfl, rfl, rfl, rfl⟩, fun h => ?_⟩
  show ((w.freeTiles j.id st.endsAll).wipeCtxs j).slots = s.slots
  rw [freed .slots (by decide), hw h]

theorem JobEnds.of_job {j : Job} {st : Status} {d : Nat} {out : Bytes} {s t : State} (h : JobEnds j st d out s)
    (e : t.job j.id = s.job j.id) : JobEnds j st d out t := by rwa [JobEnds, e]

/-- The end of a job as JobGives states it, for a state that the command reaches. -/
theorem jobGives_of_endJob {c : Instr} {s : State} {j : Job} (hj : s.job j.id = some j) (hs : j.status = none)
    (ha : j.abortLate = false) {st : Status} {d : Nat} (hc : exec c s = .next (s.endJob j.id st d)) :
    JobGives c s j st d (st.shows j.output) := by
  obtain ⟨hends, hslots⟩ := State.endJob_ends hj hs ha st d
  exact ⟨_, hc, hends, hslots, (State.endJob_keeps s j.id st d).mono (by decide)⟩

/-! ## Slots but for their shares (R291) -/

/-- Every slot holds what it held, however it is shared. -/
def State.SameSlots (s t : State) : Prop := ∀ m, (t.slot m).bare = (s.slot m).bare

theorem State.SameSlots.of_keeps {ps : List Part} {s t : State} (h : Keeps ps s t) (hs : Part.slots ∉ ps) :
    s.SameSlots t := fun m => by rw [State.slot_of_keeps h hs m]

theorem State.SameSlots.trans {s t u : State} (h : s.SameSlots t) (k : t.SameSlots u) : s.SameSlots u :=
  fun m => (k m).trans (h m)

theorem State.sameSlots_shareAnew (s : State) (n : Nat) : s.SameSlots (s.shareAnew n) := by
  unfold State.shareAnew
  dsimp only
  split
  · exact fun _ => rfl
  · intro m
    change ((s.setSlot n _).slot m).bare = _
    rw [State.slot_setSlot]
    split
    · next e => rw [← e]; rfl
    · rfl

theorem State.sameSlots_writeBack (s : State) (n : Nat) : s.SameSlots (s.writeBack n) :=
  (s.sameSlots_shareAnew n).trans (.of_keeps (State.putVault_keeps _ _ _) (by decide))

theorem State.sameSlots_touchHot (s : State) (r n : Nat) : s.SameSlots (s.touchHot r n) :=
  List.foldlRecOn (motive := s.SameSlots) _ State.writeBack
    (State.SameSlots.of_keeps (Keeps.set_kst s _) (by decide)) fun u hu m _ => hu.trans (u.sameSlots_writeBack m)

theorem State.sameSlots_loadKey (s : State) (j : Job) : s.SameSlots (s.loadKey j) :=
  State.SameSlots.trans (.of_keeps (State.setJob_keeps s _) (by decide))
    ((State.sameSlots_touchHot _ _ _).trans (.of_keeps (State.touchCaches_keeps _ _ _) (by decide)))

/-- A slot written is LIVE with what was written; every other slot holds what it held. -/
theorem State.sameSlots_writeSlot (s : State) (n : Nat) (x : Slot) :
    (s.setSlot n { x with st := .live }).SameSlots (s.writeSlot n x) :=
  (State.sameSlots_writeBack _ _).trans <| (State.sameSlots_touchHot _ _ _).trans <|
    (State.SameSlots.of_keeps (State.putDesc_keeps _ _) (by decide)).trans <|
    (State.SameSlots.of_keeps (State.cacheMce_keeps _ _ _) (by decide)).trans
    (.of_keeps (State.copyWhen_keeps _ _ _ _ _) (by decide))

theorem State.bare_writeSlot_self (s : State) (n : Nat) {x : Slot} (hx : x.st = .live) :
    ((s.writeSlot n x).slot n).bare = x.bare := by
  rw [s.sameSlots_writeSlot n x n, State.slot_setSlot_same, ← hx]

theorem State.bare_writeSlot_other (s : State) {n m : Nat} (x : Slot) (h : m ≠ n) :
    ((s.writeSlot n x).slot m).bare = (s.slot m).bare := by
  rw [s.sameSlots_writeSlot n x m, State.slot_setSlot, if_neg (Ne.symm h)]

/-! ## An operation's result (R128, R203) -/

/-- The state `t` that the result `r` leaves behind `s`: the job's end, and the slot it writes. -/
structure OpOut.LeavesFrom (r : OpOut) (s : State) (j : Job) (t : State) : Prop where
  ends : JobEnds j r.st r.detail (r.st.shows r.out) t
  kept : r.put = none → r.st.success = true → t.slots = s.slots
  wrote : ∀ n x, r.put = some (n, x) → x.st = .live → r.st.success = true →
    (t.slot n).bare = x.bare ∧ ∀ m, m ≠ n → (t.slot m).bare = (s.slot m).bare
  frame : r.put = none → Keeps (.slots :: jobParts ++ eventParts) s t
  framePut : Keeps (keyParts ++ jobParts ++ eventParts) s t

theorem OpOut.commits_of_success {r : OpOut} (h : r.st.success = true) : r.commits = true := by
  rw [OpOut.commits, h, Bool.true_or]

/-- The slot that a result writes, if any. -/
def State.putOut (s : State) (r : OpOut) : State :=
  match r.put with
  | some (n, x) => s.writeSlot n x
  | none => s

theorem State.putOut_keeps (s : State) (r : OpOut) : Keeps keyParts s (s.putOut r) := by
  unfold State.putOut
  split
  · exact (State.writeSlot_keeps _ _ _).mono (by decide)
  · exact Keeps.refl _ _

theorem State.applyOut_of_commits {s : State} {j : Job} {r : OpOut} (h : r.commits = true) : s.applyOut j r =
    ((s.setJob { j with committed := true, output := r.out }).putOut r).endJob j.id r.st r.detail := if_pos h

theorem State.applyOut_of_not_commits {s : State} {j : Job} {r : OpOut} (h : r.commits = false) :
    s.applyOut j r = s.endJob j.id r.st r.detail := if_neg (by rw [h]; decide)

theorem State.applyOut_leaves {s : State} {j k : Job} {r : OpOut} (hj : s.job j.id = some k) (hk : k.status = none)
    (hka : k.abortLate = false) (hs : j.status = none) (ha : j.abortLate = false) :
    r.LeavesFrom s j (s.applyOut j r) := by
  cases hc : r.commits with
  | true =>
    rw [State.applyOut_of_commits hc]
    generalize hw : s.setJob { j with committed := true, output := r.out } = w
    have hset : Keeps [.jobs] s w := hw ▸ State.setJob_keeps s _
    have hput : Keeps keyParts w (w.putOut r) := w.putOut_keeps r
    have hjob : (w.putOut r).job j.id = some { j with committed := true, output := r.out } := by
      rw [State.job_of_keeps hput (by decide), ← hw]
      exact State.job_setJob_of_job (j := { j with committed := true, output := r.out }) hj
    obtain ⟨hends, hslots⟩ := State.endJob_ends (j := { j with committed := true, output := r.out }) hjob hs ha r.st
      r.detail
    have hend := State.endJob_keeps (w.putOut r) j.id r.st r.detail
    refine ⟨hends, fun hp h => ?_, fun n x hp hx h => ?_, fun hp => ?_, ?_⟩
    · rw [hslots h, State.putOut, hp]
      exact hset .slots (by decide)
    · have hwrite : ∀ m, ((w.putOut r).endJob j.id r.st r.detail).slot m = (w.writeSlot n x).slot m := fun m => by
        rw [State.slot_of_slots (hslots h), State.putOut, hp]
      refine ⟨?_, fun m hm => ?_⟩
      · rw [hwrite, State.bare_writeSlot_self _ _ hx]
      · rw [hwrite, State.bare_writeSlot_other _ _ hm, State.slot_of_keeps hset (by decide)]
    · rw [State.putOut, hp] at hend ⊢
      exact hend.via (by decide) (hset.mono (by decide))
    · exact hend.via (by decide) (hput.via (by decide) (hset.mono (by decide)))
  | false =>
    have hf : r.st.success = false := by
      cases h : r.st.success with
      | false => rfl
      | true => rw [OpOut.commits_of_success h] at hc; exact hc
    have hno : ¬ r.st.success = true := by rw [hf]; decide
    rw [State.applyOut_of_not_commits hc]
    have hid : k.id = j.id := State.id_of_job hj
    obtain ⟨hends, -⟩ := State.endJob_ends (hid ▸ hj) hk hka r.st r.detail
    have hend := State.endJob_keeps s j.id r.st r.detail
    refine ⟨?_, fun _ h => absurd h hno, fun _ _ _ _ h => absurd h hno, fun _ => hend.mono (by decide),
      hend.mono (by decide)⟩
    rw [Status.shows_of_not_success hf] at hends ⊢
    rwa [JobEnds, hid] at hends

theorem OpOut.LeavesFrom.after_masks {r : OpOut} {s u t : State} {j : Job} {ns : List Node}
    (h : r.LeavesFrom u { j with nodes := ns } t) (hu : Keeps maskParts s u) : r.LeavesFrom s j t := by
  obtain ⟨ends, kept, wrote, frame, framePut⟩ := h
  have hslots : u.slots = s.slots := hu .slots (by decide)
  have hframe : Keeps (.slots :: jobParts ++ eventParts) s u := hu.mono (by decide)
  have hframePut : Keeps (keyParts ++ jobParts ++ eventParts) s u := hu.mono (by decide)
  refine ⟨ends, fun hp hs => (kept hp hs).trans hslots, fun n x hp hx hs => ?_, fun hp => hframe.trans (frame hp),
    hframePut.trans framePut⟩
  obtain ⟨hself, hother⟩ := wrote n x hp hx hs
  refine ⟨hself, fun m hm => ?_⟩
  rw [hother m hm, State.slot_of_slots hslots]

/-- A routine that has its masking randomness ends its job with its result, which no node of the job decides. -/
theorem State.masked_applyOut_leaves {s : State} {j : Job} (hj : s.job j.id = some j) (hm : MasksHere s j)
    (hs : j.status = none) (ha : j.abortLate = false) {g : Job → OpOut} (hg : ∀ ns, g { j with nodes := ns } = g j) :
    (g j).LeavesFrom s j (s.masked j fun s j => s.applyOut j (g j)) := by
  obtain ⟨u, ns, hrun, hjob, hu⟩ := State.masked_of_masksHere hj hm fun s j => s.applyOut j (g j)
  rw [hrun, hg ns]
  have hout : (g j).LeavesFrom u { j with nodes := ns } (u.applyOut { j with nodes := ns } (g j)) :=
    State.applyOut_leaves (j := { j with nodes := ns }) (k := { j with nodes := ns }) hjob hs ha hs ha
  exact hout.after_masks hu

/-! ## What a result means for its job -/

theorem jobGives_of_leaves {c : Instr} {s : State} {j : Job} {r : OpOut} (h : Answers c s (r.LeavesFrom s j))
    {st : Status} {d : Nat} {out : Bytes} (hr : r = { st := st, detail := d, out := out, put := none })
    (ho : st.success = true ∨ out = []) : JobGives c s j st d out := by
  subst hr
  obtain ⟨t, hc, ht⟩ := h
  have hshow : st.shows out = out := by
    cases hs : st.success with
    | true => exact Status.shows_of_success hs out
    | false => exact (Status.shows_of_not_success hs out).trans (ho.resolve_left (by rw [hs]; decide)).symm
  exact ⟨t, hc, hshow ▸ ht.ends, ht.kept rfl, ht.frame rfl⟩

theorem jobWrites_of_leaves {c : Instr} {s : State} {j : Job} {r : OpOut} (h : Answers c s (r.LeavesFrom s j))
    {d n : Nat} {out : Bytes} {x : Slot} (hr : r = { st := .ok, detail := d, out := out, put := some (n, x) })
    (hx : x.st = .live) : JobWrites c s j d out n x := by
  subst hr
  obtain ⟨t, hc, ht⟩ := h
  obtain ⟨hself, hother⟩ := ht.wrote n x rfl hx rfl
  exact ⟨t, hc, ht.ends, hself, hother, ht.framePut⟩

/-- R168, R201: a secret result. -/
theorem jobYields_of_leaves {c : Instr} {s : State} {j : Job} {pre secret : Bytes} {src : Option Slot} {r : OpOut}
    (h : Answers c s (r.LeavesFrom s j)) (hr : r = s.secretOut j pre secret src) : JobYields c s j pre secret src := by
  subst hr
  exact ⟨fun hp => jobWrites_of_leaves h (if_pos hp) rfl,
    fun hp => jobGives_of_leaves h (if_neg (by rw [hp]; decide)) (.inl rfl)⟩

/-- R162, R163: a key pair into the job's slot. -/
theorem jobWrites_of_keygenOut {c : Instr} {s : State} {j : Job} {mat pub : Bytes} {d : Nat}
    (h : Answers c s ((s.keygenOut j mat pub d).LeavesFrom s j)) :
    JobWrites c s j d pub j.entry.slot (newSlot (s.slot j.entry.slot).attr mat pub 0) := jobWrites_of_leaves h rfl rfl

end Sys2Proof.Machine
end

section
/-! Commands that run one operation: without a key, on a key, as a stream, or on a slot as it stands. For each the command
that runs it and the result it computes are named once. -/

namespace Sys2Proof.Machine

open Sys2Proof

/-! ## Jobs that run -/

theorem State.status_of_mayRun {s : State} {j : Job} {o : Op} (h : s.mayRun j o = true) : j.status = none := by
  simp only [State.mayRun, State.mayStart, Bool.and_eq_true] at h
  exact Option.isNone_iff_eq_none.1 h.1.1.1.1.1.2

theorem State.inputReady_of_mayRun {s : State} {j : Job} {o : Op} (h : s.mayRun j o = true) : j.inputReady = true := by
  simp only [State.mayRun, Bool.and_eq_true] at h
  exact h.2

/-- An operation ends its job with a result that no node of the job decides. -/
theorem JobRuns.leaves {s : State} {j : Job} {o : Op} {v : Nat} (h : JobRuns s j o v) {g : Job → OpOut}
    (hg : ∀ ns, g { j with nodes := ns } = g j) : (g j).LeavesFrom s j (s.masked j fun s j => s.applyOut j (g j)) := by
  obtain ⟨_, hj, _, hrun, ha, hm⟩ := h
  exact State.masked_applyOut_leaves hj hm (State.status_of_mayRun hrun) ha hg

/-- An operation without masked work ends its job with its result at once. -/
theorem JobRuns.applyOut_leaves {s : State} {j : Job} {o : Op} {v : Nat} (h : JobRuns s j o v) (r : OpOut) :
    r.LeavesFrom s j (s.applyOut j r) := by
  obtain ⟨_, hj, _, hrun, ha, _⟩ := h
  exact State.applyOut_leaves hj (State.status_of_mayRun hrun) ha (State.status_of_mayRun hrun) ha

/-- A job that runs ends where its command does no more than end it. -/
theorem JobRuns.gives {c : Instr} {s : State} {j : Job} {o : Op} {v : Nat} (h : JobRuns s j o v) {st : Status} {d : Nat}
    (hf : st.success = false) (hc : exec c s = engineCmd s (s.endJob j.id st d)) : JobGives c s j st d [] := by
  obtain ⟨halive, hj, _, hrun, ha, _⟩ := h
  rw [engineCmd_of_alive halive] at hc
  exact Status.shows_of_not_success hf j.output ▸ jobGives_of_endJob hj (State.status_of_mayRun hrun) ha hc

/-! ## Operations without a key -/

/-- The command `c` runs the operation `o`, which uses no key and computes `f`. -/
structure PlainCmd (c : Nat → Instr) (o : Op) (f : State → Job → Nat → OpOut) : Prop where
  exec_eq : ∀ id s, exec (c id) s = engineCmd s (s.runPlain id o (f s))
  nodes : ∀ s j ns v, f s { j with nodes := ns } v = f s j v

theorem State.runPlain_of_runs {s : State} {j : Job} {o : Op} {v : Nat} (h : JobRuns s j o v) (f : Job → Nat → OpOut) :
    s.runPlain j.id o f = s.masked j fun s j => s.applyOut j (f j v) := by
  obtain ⟨_, hj, hop, hrun, _, _⟩ := h
  unfold State.runPlain
  rw [hj]
  dsimp only
  rw [hop]
  exact if_pos hrun

theorem PlainCmd.leaves {c : Nat → Instr} {o : Op} {f : State → Job → Nat → OpOut} (hc : PlainCmd c o f) {s : State}
    {j : Job} {v : Nat} (h : JobRuns s j o v) : Answers (c j.id) s ((f s j v).LeavesFrom s j) := by
  refine ⟨_, (hc.exec_eq j.id s).trans (engineCmd_of_alive h.1), ?_⟩
  rw [State.runPlain_of_runs h]
  exact h.leaves (g := fun j => f s j v) fun ns => hc.nodes s j ns v

/-- A key pair: the command writes the job's slot and gives the public key. -/
theorem PlainCmd.writesKeyPair {c : Nat → Instr} {o : Op} {f : State → Job → Nat → OpOut} (hc : PlainCmd c o f)
    {s : State} {j : Job} {v : Nat} (h : JobRuns s j o v) {mat pub : Bytes} {d : Nat}
    (hf : f s j v = s.keygenOut j mat pub d) :
    JobWrites (c j.id) s j d pub j.entry.slot (newSlot (s.slot j.entry.slot).attr mat pub 0) :=
  jobWrites_of_keygenOut (hf ▸ hc.leaves h)

theorem PlainCmd.gives {c : Nat → Instr} {o : Op} {f : State → Job → Nat → OpOut} (hc : PlainCmd c o f) {s : State}
    {j : Job} {v : Nat} (h : JobRuns s j o v) {st : Status} {d : Nat} {out : Bytes}
    (hf : f s j v = { st := st, detail := d, out := out, put := none }) (ho : st.success = true ∨ out = []) :
    JobGives (c j.id) s j st d out := jobGives_of_leaves (hc.leaves h) hf ho

theorem plainCmd_mlKemKeygen : PlainCmd .mlKemKeygen .mlKemKeygen State.mlKemKeygen := ⟨fun _ _ => rfl, fun _ _ _ _ => rfl⟩
theorem plainCmd_mlDsaKeygen : PlainCmd .mlDsaKeygen .mlDsaKeygen State.mlDsaKeygen := ⟨fun _ _ => rfl, fun _ _ _ _ => rfl⟩
theorem plainCmd_slhDsaKeygen : PlainCmd .slhDsaKeygen .slhDsaKeygen State.slhDsaKeygen :=
  ⟨fun _ _ => rfl, fun _ _ _ _ => rfl⟩
theorem plainCmd_mcelieceKeygen : PlainCmd .mcelieceKeygen .mcelieceKeygen State.mcelieceKeygen :=
  ⟨fun _ _ => rfl, fun _ _ _ _ => rfl⟩
theorem plainCmd_ecKeygen : PlainCmd .ecKeygen .ecKeygen State.ecKeygen := ⟨fun _ _ => rfl, fun _ _ _ _ => rfl⟩
theorem plainCmd_rsaKeygen : PlainCmd .rsaKeygen .rsaKeygen State.rsaKeygen := ⟨fun _ _ => rfl, fun _ _ _ _ => rfl⟩
theorem plainCmd_hybridKeygen : PlainCmd .hybridKeygen .hybridKeygen State.hybridKeygen :=
  ⟨fun _ _ => rfl, fun _ _ _ _ => rfl⟩
theorem plainCmd_generate : PlainCmd .generate .generate State.generateOut := ⟨fun _ _ => rfl, fun _ _ _ _ => rfl⟩
theorem plainCmd_importClear : PlainCmd .importClear .importClear State.importClear := ⟨fun _ _ => rfl, fun _ _ _ _ => rfl⟩
theorem plainCmd_nop : PlainCmd .nop .nop fun _ _ _ => OpOut.ok [] := ⟨fun _ _ => rfl, fun _ _ _ _ => rfl⟩

/-! ## Operations on a key -/

/-- The command `c` runs the operation `o` on its key and computes `f`. -/
structure KeyedCmd (c : Nat → Instr) (o : Op) (f : State → Job → Nat → Option Slot → OpOut) : Prop where
  exec_eq : ∀ id s, exec (c id) s = engineCmd s (s.runKeyed id o (f s))
  nodes : ∀ s j ns v y, f s { j with nodes := ns } v y = f s j v y

theorem State.runKeyed_of_runs {s : State} {j : Job} {o : Op} {v : Nat} {y : Option Slot} (h : JobRuns s j o v)
    (hk : KeyIs j y) (f : Job → Nat → Option Slot → OpOut) :
    s.runKeyed j.id o f = s.masked j fun s j => s.applyOut j (f j v y) := by
  obtain ⟨_, hj, hop, hrun, _, _⟩ := h
  unfold State.runKeyed
  rw [hj]
  dsimp only
  rw [hop]
  dsimp only
  rw [if_neg (by rw [hrun]; decide)]
  cases y with
  | none =>
    have hk : j.entry.keyValid = false := hk
    rw [if_pos (by rw [hk]; decide)]
  | some x =>
    obtain ⟨hvalid, hcopy⟩ : j.entry.keyValid = true ∧ j.keyCopy = some x := hk
    rw [if_neg (by rw [hvalid]; decide), hcopy]

section

variable {c : Nat → Instr} {o : Op} {f : State → Job → Nat → Option Slot → OpOut} (hc : KeyedCmd c o f) {s : State}
  {j : Job} {v : Nat} {y : Option Slot} (h : JobRuns s j o v) (hk : KeyIs j y)

include hc h hk

theorem KeyedCmd.leaves : Answers (c j.id) s ((f s j v y).LeavesFrom s j) := by
  refine ⟨_, (hc.exec_eq j.id s).trans (engineCmd_of_alive h.1), ?_⟩
  rw [State.runKeyed_of_runs h hk]
  exact h.leaves (g := fun j => f s j v y) fun ns => hc.nodes s j ns v y

theorem KeyedCmd.gives {st : Status} {d : Nat} {out : Bytes}
    (hf : f s j v y = { st := st, detail := d, out := out, put := none }) (ho : st.success = true ∨ out = []) :
    JobGives (c j.id) s j st d out := jobGives_of_leaves (hc.leaves h hk) hf ho

theorem KeyedCmd.givesOk {d : Nat} {out : Bytes} (hf : f s j v y = OpOut.okDetail out d) : JobGives (c j.id) s j .ok d out :=
  hc.gives h hk hf (.inl rfl)

theorem KeyedCmd.givesInvalid (hf : f s j v y = OpOut.pointInvalid) : JobGives (c j.id) s j .pointInvalid 17 [] :=
  hc.gives h hk hf (.inr rfl)

theorem KeyedCmd.givesVerdict {b : Bool} (hf : f s j v y = OpOut.verdict b) :
    JobGives (c j.id) s j (if b then .ok else .verifyFalse) 0 [] := hc.gives h hk hf (.inr rfl)

theorem KeyedCmd.givesSignature {sig : Bytes} {d : Nat} (hf : f s j v y = signOut j sig d) :
    JobGives (c j.id) s j (if j.entropy = .fallback then .okDeterministicFallback else .ok) d sig :=
  hc.gives h hk hf (.inl (by split <;> rfl))

theorem KeyedCmd.yields {pre secret : Bytes} {src : Option Slot} (hf : f s j v y = s.secretOut j pre secret src) :
    JobYields (c j.id) s j pre secret src := jobYields_of_leaves (hc.leaves h hk) hf

end

theorem keyedCmd_mlKemEncaps : KeyedCmd .mlKemEncaps .mlKemEncaps State.mlKemEncaps :=
  ⟨fun _ _ => rfl, fun _ _ _ _ _ => rfl⟩
theorem keyedCmd_mlKemDecaps : KeyedCmd .mlKemDecaps .mlKemDecaps State.mlKemDecaps :=
  ⟨fun _ _ => rfl, fun _ _ _ _ _ => rfl⟩
theorem keyedCmd_mlDsaSign : KeyedCmd .mlDsaSign .mlDsaSign fun _ => mlDsaSign := ⟨fun _ _ => rfl, fun _ _ _ _ _ => rfl⟩
theorem keyedCmd_mlDsaVerify : KeyedCmd .mlDsaVerify .mlDsaVerify fun _ => mlDsaVerify :=
  ⟨fun _ _ => rfl, fun _ _ _ _ _ => rfl⟩
theorem keyedCmd_slhDsaSign : KeyedCmd .slhDsaSign .slhDsaSign fun _ => slhDsaSign :=
  ⟨fun _ _ => rfl, fun _ _ _ _ _ => rfl⟩
theorem keyedCmd_slhDsaVerify : KeyedCmd .slhDsaVerify .slhDsaVerify fun _ => slhDsaVerify :=
  ⟨fun _ _ => rfl, fun _ _ _ _ _ => rfl⟩
theorem keyedCmd_lmsVerify : KeyedCmd .lmsVerify .lmsVerify fun _ => lmsVerify := ⟨fun _ _ => rfl, fun _ _ _ _ _ => rfl⟩
theorem keyedCmd_xmssVerify : KeyedCmd .xmssVerify .xmssVerify fun _ => xmssVerify :=
  ⟨fun _ _ => rfl, fun _ _ _ _ _ => rfl⟩
theorem keyedCmd_mcelieceEncaps : KeyedCmd .mcelieceEncaps .mcelieceEncaps State.mcelieceEncaps :=
  ⟨fun _ _ => rfl, fun _ _ _ _ _ => rfl⟩
theorem keyedCmd_mcelieceDecaps : KeyedCmd .mcelieceDecaps .mcelieceDecaps State.mcelieceDecaps :=
  ⟨fun _ _ => rfl, fun _ _ _ _ _ => rfl⟩
theorem keyedCmd_ecSign : KeyedCmd .ecSign .ecSign fun _ => ecSign := ⟨fun _ _ => rfl, fun _ _ _ _ _ => rfl⟩
theorem keyedCmd_ecVerify : KeyedCmd .ecVerify .ecVerify fun _ => ecVerify := ⟨fun _ _ => rfl, fun _ _ _ _ _ => rfl⟩
theorem keyedCmd_agree : KeyedCmd .agree .agree State.agree := ⟨fun _ _ => rfl, fun _ _ _ _ _ => rfl⟩
theorem keyedCmd_rsaPssSign : KeyedCmd .rsaPssSign .rsaPssSign fun _ => rsaPssSign :=
  ⟨fun _ _ => rfl, fun _ _ _ _ _ => rfl⟩
theorem keyedCmd_rsaV15Sign : KeyedCmd .rsaV15Sign .rsaV15Sign fun _ => rsaV15Sign :=
  ⟨fun _ _ => rfl, fun _ _ _ _ _ => rfl⟩
theorem keyedCmd_rsaPssVerify : KeyedCmd .rsaPssVerify .rsaPssVerify fun _ => rsaPssVerify :=
  ⟨fun _ _ => rfl, fun _ _ _ _ _ => rfl⟩
theorem keyedCmd_rsaV15Verify : KeyedCmd .rsaV15Verify .rsaV15Verify fun _ => rsaV15Verify :=
  ⟨fun _ _ => rfl, fun _ _ _ _ _ => rfl⟩
theorem keyedCmd_rsaOaepEncrypt : KeyedCmd .rsaOaepEncrypt .rsaOaepEncrypt fun _ => rsaOaepEncrypt :=
  ⟨fun _ _ => rfl, fun _ _ _ _ _ => rfl⟩
theorem keyedCmd_rsaOaepDecrypt : KeyedCmd .rsaOaepDecrypt .rsaOaepDecrypt fun _ => rsaOaepDecrypt :=
  ⟨fun _ _ => rfl, fun _ _ _ _ _ => rfl⟩
theorem keyedCmd_hmacGenerate : KeyedCmd .hmacGenerate .hmacGenerate fun _ => hmacGenerate :=
  ⟨fun _ _ => rfl, fun _ _ _ _ _ => rfl⟩
theorem keyedCmd_hmacVerify : KeyedCmd .hmacVerify .hmacVerify fun _ => hmacVerify :=
  ⟨fun _ _ => rfl, fun _ _ _ _ _ => rfl⟩
theorem keyedCmd_kmacGenerate : KeyedCmd .kmacGenerate .kmacGenerate fun _ => kmacGenerate :=
  ⟨fun _ _ => rfl, fun _ _ _ _ _ => rfl⟩
theorem keyedCmd_kmacVerify : KeyedCmd .kmacVerify .kmacVerify fun _ => kmacVerify :=
  ⟨fun _ _ => rfl, fun _ _ _ _ _ => rfl⟩
theorem keyedCmd_kdfCounterHmac : KeyedCmd .kdfCounterHmac .kdfCounterHmac State.kdfCounterHmac :=
  ⟨fun _ _ => rfl, fun _ _ _ _ _ => rfl⟩
theorem keyedCmd_kdfKmac256 : KeyedCmd .kdfKmac256 .kdfKmac256 State.kdfKmac256 :=
  ⟨fun _ _ => rfl, fun _ _ _ _ _ => rfl⟩
theorem keyedCmd_hkdf : KeyedCmd .hkdf .hkdf State.hkdf := ⟨fun _ _ => rfl, fun _ _ _ _ _ => rfl⟩
theorem keyedCmd_hkdfExpand : KeyedCmd .hkdfExpand .hkdfExpand State.hkdfExpand :=
  ⟨fun _ _ => rfl, fun _ _ _ _ _ => rfl⟩
theorem keyedCmd_hybridEncaps : KeyedCmd .hybridEncaps .hybridEncaps State.hybridEncaps :=
  ⟨fun _ _ => rfl, fun _ _ _ _ _ => rfl⟩
theorem keyedCmd_hybridDecaps : KeyedCmd .hybridDecaps .hybridDecaps State.hybridDecaps :=
  ⟨fun _ _ => rfl, fun _ _ _ _ _ => rfl⟩
theorem keyedCmd_attest : KeyedCmd .attest .attest fun s j _ _ => s.attestOut j :=
  ⟨fun _ _ => rfl, fun _ _ _ _ _ => rfl⟩
theorem keyedCmd_exportWrapped : KeyedCmd .exportWrapped .exportWrapped State.exportWrapped :=
  ⟨fun _ _ => rfl, fun _ _ _ _ _ => rfl⟩
theorem keyedCmd_exportPublic : KeyedCmd .exportPublic .exportPublic fun _ _ _ x => OpOut.ok ((x.map Slot.pub).getD []) :=
  ⟨fun _ _ => rfl, fun _ _ _ _ _ => rfl⟩

end Sys2Proof.Machine
end

section
/-! Key pairs, signatures, verifications and secrets: what each operation's result is for its job. -/

namespace Sys2Proof.Machine

open Sys2Proof

/-! ## IMPORT_CLEAR (R202, R300) -/

theorem State.importClear_of_public {s : State} {j : Job} {v : Nat} (hp : importsPublic (s.slot j.entry.slot).attr = true)
    (hs : isSymmetric (attrType (s.slot j.entry.slot).attr) = false) : s.importClear j v =
      if publicOk (attrType (s.slot j.entry.slot).attr) (attrParam (s.slot j.entry.slot).attr) j.input then
        { st := .ok, detail := 0, out := []
          put := some (j.entry.slot, newSlot (s.slot j.entry.slot).attr [] j.input 0) }
      else OpOut.pointInvalid := if_pos (by rw [hp, hs]; rfl)

theorem State.importClear_of_private {s : State} {j : Job} {v : Nat} (h : importsPublic (s.slot j.entry.slot).attr = false ∨
    isSymmetric (attrType (s.slot j.entry.slot).attr) = true) : s.importClear j v =
      if privateOk (attrType (s.slot j.entry.slot).attr) (attrParam (s.slot j.entry.slot).attr) j.input then
        { st := .ok, detail := 0, out := []
          put := some (j.entry.slot, newSlot (s.slot j.entry.slot).attr j.input
            (pubOf (attrType (s.slot j.entry.slot).attr) (attrParam (s.slot j.entry.slot).attr) j.input) 0) }
      else OpOut.pointInvalid := if_neg (by rcases h with h | h <;> simp [h])

/-- Settles O54: each KeyGen and GENERATE is a plain operation whose result is its key pair; IMPORT_CLEAR by the kind of key
that its word names. -/
theorem keyPairsAreGenerated : Obligations.KeyPairsAreGenerated := by
  intro s j v
  refine ⟨fun h => plainCmd_mlKemKeygen.writesKeyPair h rfl, fun h => plainCmd_mlDsaKeygen.writesKeyPair h rfl,
    fun h => plainCmd_slhDsaKeygen.writesKeyPair h rfl, fun h => plainCmd_mcelieceKeygen.writesKeyPair h rfl,
    fun h => plainCmd_ecKeygen.writesKeyPair h rfl, fun h => plainCmd_rsaKeygen.writesKeyPair h rfl,
    fun h => plainCmd_hybridKeygen.writesKeyPair h rfl, fun h => plainCmd_generate.writesKeyPair h rfl,
    fun h => ⟨fun hp hs hok => ?_, fun hp hok => ?_, fun hpub hpriv => ?_⟩⟩
  · exact jobWrites_of_leaves (plainCmd_importClear.leaves h) ((State.importClear_of_public hp hs).trans (if_pos hok)) rfl
  · exact jobWrites_of_leaves (plainCmd_importClear.leaves h) ((State.importClear_of_private hp).trans (if_pos hok)) rfl
  · refine plainCmd_importClear.gives h ?_ (.inr rfl)
    by_cases hk : importsPublic (s.slot j.entry.slot).attr = true ∧
        isSymmetric (attrType (s.slot j.entry.slot).attr) = false
    · exact (State.importClear_of_public hk.1 hk.2).trans (if_neg (by rw [hpub hk]; decide))
    · have hk : importsPublic (s.slot j.entry.slot).attr = false ∨
          isSymmetric (attrType (s.slot j.entry.slot).attr) = true := by
        rwa [Classical.not_and_iff_not_or_not, Bool.not_eq_true, Bool.not_eq_false] at hk
      exact (State.importClear_of_private hk).trans (if_neg (by rw [hpriv hk]; decide))

end Sys2Proof.Machine
end

section
/-! Signatures and verifications (R160, R161, R170 to R173, R191, R193). -/

namespace Sys2Proof.Machine

open Sys2Proof

/-! ## ECDSA and EdDSA (R191) -/

theorem ecSign_hedged {j : Job} {v : Nat} (hv : v ≤ 2) (hd : pDeterministic j.param = false) (he : j.entropy ≠ .fallback)
    (y : Option Slot) : ecSign j v y = OpOut.ok (ecdsaHedged v (slotMat y) (digestOf j.param j.input) j.rnd) := by
  have hdraw : ¬ (pDeterministic j.param || j.entropy == .fallback) = true := by simp [hd, he]
  unfold ecSign
  dsimp only
  rw [if_neg (by omega), if_neg hdraw, signOut, if_neg he]
  rfl

theorem ecSign_deterministic {j : Job} {v : Nat} (hv : v ≤ 2) (hd : pDeterministic j.param = true ∨ j.entropy = .fallback)
    (y : Option Slot) : ecSign j v y = signOut j (ecdsaDeterministic v (slotMat y) (digestOf j.param j.input)
      (hashAlgVariant (pAlg j.param)) (algLen (pAlg j.param))) 0 := by
  have hdet : (pDeterministic j.param || j.entropy == .fallback) = true := by simpa using hd
  unfold ecSign
  dsimp only
  rw [if_neg (by omega), if_pos hdet]

theorem ecSign_edwards {j : Job} {v : Nat} (hv : 2 < v) (y : Option Slot) :
    ecSign j v y = OpOut.ok (eddsaSignature v (slotMat y) (edDom j.param j.input) (edMessage j.param j.input)) :=
  if_pos hv

theorem ecVerify_invalid {j : Job} {v : Nat} {y : Option Slot} (hy : y.isNone = true)
    (hp : ecPublicOk v (verifyParts j (ecSizes v).2.1 y).1 = false) : ecVerify j v y = OpOut.pointInvalid :=
  if_pos (by rw [hy, hp]; rfl)

theorem ecVerify_verdict {j : Job} {v : Nat} {y : Option Slot}
    (h : y.isSome = true ∨ ecPublicOk v (verifyParts j (ecSizes v).2.1 y).1 = true) : ecVerify j v y =
      OpOut.verdict (if v ≤ 2 then ecdsaAccepts v (verifyParts j (ecSizes v).2.1 y).1
          (digestOf j.param (verifyParts j (ecSizes v).2.1 y).2.2) (verifyParts j (ecSizes v).2.1 y).2.1
        else eddsaAccepts v (verifyParts j (ecSizes v).2.1 y).1 (edDom j.param (verifyParts j (ecSizes v).2.1 y).2.2)
          (edMessage j.param (verifyParts j (ecSizes v).2.1 y).2.2) (verifyParts j (ecSizes v).2.1 y).2.1) := by
  have hgood : ¬ (y.isNone && !ecPublicOk v (verifyParts j (ecSizes v).2.1 y).1) = true := by
    rcases h with h | h
    · simp [Option.isSome_iff_ne_none.1 h]
    · simp [h]
  unfold ecVerify
  dsimp only
  rw [if_neg hgood]
  split <;> rfl

/-! ## RSA (R193) -/

/-- The checks of R193 on the public values of a verification. -/
def rsaValuesOk (j : Job) (y : Option Slot) : Prop :=
  let k := slotRsaLen y j.param
  let q := verifyParts j (k + 4) y
  (y.isSome = true ∨ rsaPubOk k q.1 = true) ∧ beNat q.2.1 < beNat (q.1.take k)

theorem rsaVerify_verdict {j : Job} {y : Option Slot} (h : rsaValuesOk j y) (accepts : Nat → Bytes → Bytes → Bool) :
    rsaVerify j y accepts =
      let k := slotRsaLen y j.param
      let q := verifyParts j (k + 4) y
      OpOut.verdict (accepts k (digestOf j.param q.2.2)
        (toBe k (powMod (beNat q.2.1) (beNat (slice q.1 k 4)) (beNat (q.1.take k))))) := by
  obtain ⟨hkey, hless⟩ := h
  refine if_neg ?_
  rcases hkey with h | h
  · simp [Option.isSome_iff_ne_none.1 h, hless]
  · simp [h, hless]

theorem rsaVerify_invalid {j : Job} {y : Option Slot}
    (h : let k := slotRsaLen y j.param
      let q := verifyParts j (k + 4) y
      y.isNone = true ∧ rsaPubOk k q.1 = false ∨ beNat (q.1.take k) ≤ beNat q.2.1)
    (accepts : Nat → Bytes → Bytes → Bool) : rsaVerify j y accepts = OpOut.pointInvalid := by
  refine if_pos ?_
  rcases h with ⟨hy, hp⟩ | h
  · simp [hy, hp]
  · simp [h]

/-- PSS recovers an encoding and checks it against the digest, with the salt length asked for. -/
theorem rsaPssVerify_eq (j : Job) (v : Nat) (y : Option Slot) : rsaPssVerify j v y = rsaVerify j y fun k d em =>
    pssVerify (pAlg j.param) k d em (if pSaltLen j.param = 0xFFFF then none else some (pSaltLen j.param)) := rfl

theorem rsaV15Verify_eq (j : Job) (v : Nat) (y : Option Slot) : rsaV15Verify j v y =
    rsaVerify j y fun k d em => em == v15Encode (pAlg j.param) k d := rfl

/-! ## LMS, HSS, XMSS and XMSS^MT (R163) -/

theorem statefulVerify_verdict {t : Nat} {j : Job} {y : Option Slot} {len : Option Nat} {n : Nat}
    (h : y.isSome = true ∨ len = some n ∧ n + pSigLen j.param ≤ j.input.length) : statefulVerify t j y len =
      OpOut.verdict (statefulAccepts t (verifyParts j n y).1 (verifyParts j n y).2.2 (verifyParts j n y).2.1) := by
  cases y with
  | some x =>
    have hkey : ¬ ((some x).isNone = true ∧ j.input.length < len.getD 0 + pSigLen j.param) := by simp
    cases len <;> exact (if_neg (t := OpOut.fail .badParams 11) hkey).trans rfl
  | none =>
    obtain ⟨rfl, hlen⟩ := h.resolve_left Bool.noConfusion
    exact if_neg (by simpa using hlen)

theorem statefulVerify_invalid {t : Nat} {j : Job} {y : Option Slot} {len : Option Nat} (hy : y = none) (hl : len = none) :
    statefulVerify t j y len = OpOut.pointInvalid := by
  subst hy hl
  rfl

/-- Settles O55: every signature and verification is a keyed operation; its result by the scheme, and where the scheme
branches by the check on its public values. -/
theorem signaturesAndVerdicts : Obligations.SignaturesAndVerdicts := by
  intro s j v y
  refine ⟨fun h hk => keyedCmd_mlDsaSign.givesSignature h hk rfl, fun h hk => keyedCmd_slhDsaSign.givesSignature h hk rfl,
    fun hv hd he h hk => keyedCmd_ecSign.givesOk h hk (ecSign_hedged hv hd he y),
    fun hv hd h hk => keyedCmd_ecSign.givesSignature h hk (ecSign_deterministic hv hd y),
    fun hv h hk => keyedCmd_ecSign.givesOk h hk (ecSign_edwards hv y),
    ⟨fun h hk => keyedCmd_rsaPssSign.givesSignature h hk rfl, fun h hk => keyedCmd_rsaV15Sign.givesOk h hk rfl⟩,
    fun h hk => keyedCmd_mlDsaVerify.givesVerdict h hk rfl, fun h hk => keyedCmd_slhDsaVerify.givesVerdict h hk rfl,
    ⟨fun hy hp h hk => keyedCmd_ecVerify.givesInvalid h hk (ecVerify_invalid hy hp),
      fun hp h hk => keyedCmd_ecVerify.givesVerdict h hk (ecVerify_verdict hp)⟩,
    ⟨fun hbad =>
        ⟨fun h hk => keyedCmd_rsaPssVerify.givesInvalid h hk ((rsaPssVerify_eq j v y).trans (rsaVerify_invalid hbad _)),
          fun h hk => keyedCmd_rsaV15Verify.givesInvalid h hk ((rsaV15Verify_eq j v y).trans (rsaVerify_invalid hbad _))⟩,
      fun hkey hless => ⟨fun h hk => keyedCmd_rsaPssVerify.givesVerdict h hk
          ((rsaPssVerify_eq j v y).trans (rsaVerify_verdict ⟨hkey, hless⟩ _)),
        fun h hk => keyedCmd_rsaV15Verify.givesVerdict h hk
          ((rsaV15Verify_eq j v y).trans (rsaVerify_verdict ⟨hkey, hless⟩ _))⟩⟩,
    fun n hn h hk => keyedCmd_lmsVerify.givesVerdict h hk (statefulVerify_verdict hn),
    fun n hn h hk => keyedCmd_xmssVerify.givesVerdict h hk (statefulVerify_verdict hn),
    fun hy hl h hk => keyedCmd_lmsVerify.givesInvalid h hk (statefulVerify_invalid hy hl),
    fun hy hl h hk => keyedCmd_xmssVerify.givesInvalid h hk (statefulVerify_invalid hy hl)⟩

end Sys2Proof.Machine
end

section
/-! Encapsulation, decapsulation, agreement and derivation (R165 to R168, R182, R190, R197 to R201). -/

namespace Sys2Proof.Machine

open Sys2Proof

/-! ## ML-KEM (R166, R167) -/

theorem State.mlKemEncaps_secret {s : State} {j : Job} {v : Nat} {y : Option Slot}
    (h : y.isSome = true ∨ mlKemEkOk v (pubIn j y (mlKemSizes v).1) = true) : s.mlKemEncaps j v y =
      let ek := pubIn j y (mlKemSizes v).1
      let r := mlKemEncapsWith v (kemEkMatrix v ek) ek j.rnd
      s.secretOut j r.1 r.2 none := by
  refine if_neg ?_
  rcases h with h | h
  · simp [Option.isSome_iff_ne_none.1 h]
  · simp [h]

theorem State.mlKemEncaps_invalid {s : State} {j : Job} {v : Nat} {y : Option Slot} (hy : y = none)
    (h : mlKemEkOk v (pubIn j y (mlKemSizes v).1) = false) : s.mlKemEncaps j v y = OpOut.pointInvalid :=
  if_pos (by simp [hy ▸ h, hy])

/-! ## Agreement (R190) -/

theorem State.agree_secret {s : State} {j : Job} {v : Nat} {y : Option Slot} {k : Bytes}
    (h : agreeSecret v (slotMat y) j.input = some k) : s.agree j v y = s.secretOut j [] k y := by
  rw [State.agree, h]

theorem State.agree_invalid {s : State} {j : Job} {v : Nat} {y : Option Slot}
    (h : agreeSecret v (slotMat y) j.input = none) : s.agree j v y = OpOut.pointInvalid := by rw [State.agree, h]

/-! ## Hybrid KEM (R198, R199) -/

/-- The public keys that a hybrid encapsulation uses: those of a slot, or such as pass the checks of both parts. -/
def hybKeysOk (j : Job) (v : Nat) (y : Option Slot) : Bool :=
  let pub := pubIn j y (hybSizes v).1
  let n := (mlKemSizes (hybParts v).1).1
  y.isSome || mlKemEkOk (hybParts v).1 (pub.take n) && ecPublicOk (hybParts v).2 (pub.drop n)

/-- The encapsulation's own agreement: its ephemeral key with the curve part of the public key. -/
def hybEncapsAgree (j : Job) (v : Nat) (y : Option Slot) : Option Bytes :=
  agreeSecret (hybParts v).2 (ecNew (hybParts v).2 (j.rnd.drop 32))
    ((pubIn j y (hybSizes v).1).drop (mlKemSizes (hybParts v).1).1)

/-- The encapsulation refuses exactly the input keys that fail a check. -/
theorem hybKeysOk_not (j : Job) (v : Nat) (y : Option Slot) : (y.isNone &&
    (!mlKemEkOk (hybParts v).1 ((pubIn j y (hybSizes v).1).take (mlKemSizes (hybParts v).1).1) ||
      !ecPublicOk (hybParts v).2 ((pubIn j y (hybSizes v).1).drop (mlKemSizes (hybParts v).1).1))) =
    !hybKeysOk j v y := by rw [hybKeysOk, Bool.not_or, Bool.not_and, Option.not_isSome]

theorem State.hybridEncaps_secret {s : State} {j : Job} {v : Nat} {y : Option Slot} {kec : Bytes}
    (hk : hybKeysOk j v y = true) (ha : hybEncapsAgree j v y = some kec) : s.hybridEncaps j v y =
      let h := hybParts v
      let pub := pubIn j y (hybSizes v).1
      let ek := pub.take (mlKemSizes h.1).1
      let r := mlKemEncapsWith h.1 (kemEkMatrix h.1 ek) ek (j.rnd.take 32)
      let eph := ecPubOf h.2 (ecNew h.2 (j.rnd.drop 32))
      s.secretOut j (r.1 ++ eph) (hybSecret v j.param r.2 kec eph (pub.drop (mlKemSizes h.1).1)) y := by
  rw [hybEncapsAgree] at ha
  unfold State.hybridEncaps
  dsimp only
  rw [hybKeysOk_not, hk, if_neg (by decide), ha]

theorem State.hybridEncaps_invalid {s : State} {j : Job} {v : Nat} {y : Option Slot}
    (h : hybKeysOk j v y = false ∨ hybEncapsAgree j v y = none) : s.hybridEncaps j v y = OpOut.pointInvalid := by
  rw [hybEncapsAgree] at h
  unfold State.hybridEncaps
  dsimp only
  rw [hybKeysOk_not]
  rcases h with h | h
  · rw [h, if_pos (by decide)]
  · rw [h, ite_self]

theorem State.hybridDecaps_secret {s : State} {j : Job} {v : Nat} {y : Option Slot} {kec : Bytes}
    (ha : agreeSecret (hybParts v).2 ((slotMat y).drop (mlKemSizes (hybParts v).1).2.1)
      (j.input.drop (mlKemSizes (hybParts v).1).2.2) = some kec) : s.hybridDecaps j v y =
      let h := hybParts v
      let dk := (slotMat y).take (mlKemSizes h.1).2.1
      let kpq := mlKemDecapsWith h.1 (kemEkMatrix h.1 (mlKemEk h.1 dk)) dk (j.input.take (mlKemSizes h.1).2.2)
      s.secretOut j [] (hybSecret v j.param kpq kec (j.input.drop (mlKemSizes h.1).2.2)
        (((y.map Slot.pub).getD []).drop (mlKemSizes h.1).1)) y := by
  unfold State.hybridDecaps
  dsimp only
  rw [ha]

theorem State.hybridDecaps_invalid {s : State} {j : Job} {v : Nat} {y : Option Slot}
    (ha : agreeSecret (hybParts v).2 ((slotMat y).drop (mlKemSizes (hybParts v).1).2.1)
      (j.input.drop (mlKemSizes (hybParts v).1).2.2) = none) : s.hybridDecaps j v y = OpOut.pointInvalid := by
  unfold State.hybridDecaps
  dsimp only
  rw [ha]

/-- Settles O56: each operation yields its secret where its public value passes its check, and ends POINT_INVALID where it
does not. -/
theorem secretsAreAgreedAndDerived : Obligations.SecretsAreAgreedAndDerived := by
  intro s j v y
  refine ⟨⟨fun hp h hk => keyedCmd_mlKemEncaps.yields h hk (State.mlKemEncaps_secret hp),
      fun hy hp h hk => keyedCmd_mlKemEncaps.givesInvalid h hk (State.mlKemEncaps_invalid hy hp)⟩,
    fun h hk => keyedCmd_mlKemDecaps.yields h hk rfl, fun h hk => keyedCmd_mcelieceEncaps.yields h hk rfl,
    fun h hk => keyedCmd_mcelieceDecaps.yields h hk rfl,
    fun k ha h hk => keyedCmd_agree.yields h hk (State.agree_secret ha),
    fun ha h hk => keyedCmd_agree.givesInvalid h hk (State.agree_invalid ha),
    ⟨fun h hk => keyedCmd_kdfCounterHmac.yields h hk rfl, fun h hk => keyedCmd_kdfKmac256.yields h hk rfl,
      fun h hk => keyedCmd_hkdf.yields h hk rfl, fun h hk => keyedCmd_hkdfExpand.yields h hk rfl⟩,
    ⟨fun kec hgood ha h hk => keyedCmd_hybridEncaps.yields h hk (State.hybridEncaps_secret hgood ha),
      fun hbad h hk => keyedCmd_hybridEncaps.givesInvalid h hk (State.hybridEncaps_invalid hbad)⟩,
    fun kec ha h hk => keyedCmd_hybridDecaps.yields h hk (State.hybridDecaps_secret ha),
    fun ha h hk => keyedCmd_hybridDecaps.givesInvalid h hk (State.hybridDecaps_invalid ha)⟩

end Sys2Proof.Machine
end

section
/-! An operation and its key (R183, R217, R260): loading it once, its loss before that, and the stall of a masked routine; QUERY
and PLACE (R293, R310). -/

namespace Sys2Proof.Machine

open Sys2Proof

/-! ## The first dispatch (R183, log entry 92) -/

section

variable {s : State} {j : Job} {o : Op} {v : Nat} (hj : s.job j.id = some j) (hop : s.opOfJob j = some (o, v))
  (hvalid : j.entry.keyValid = true) (hcopy : j.keyCopy = none) (hindex : j.index = none) (hloads : o.loadsKey = true)

include hj hop hvalid hcopy hindex hloads

theorem State.takeKey_gone (hgone : j.keyGone = true ∨ (s.slot j.entry.slot).st ≠ .live) :
    s.takeKey j.id = s.endJob j.id .keySlotEmpty 0 := by
  unfold State.takeKey
  rw [hj]
  dsimp only
  rw [hop]
  dsimp only
  rw [if_neg (by simp [hvalid, hloads, hcopy, hindex]), if_pos (by simpa using hgone)]

theorem State.takeKey_loads (hdraws : o.drawsIndex = false) (hgone : j.keyGone = false)
    (hlive : (s.slot j.entry.slot).st = .live) : s.takeKey j.id = s.loadKey j := by
  unfold State.takeKey
  rw [hj]
  dsimp only
  rw [hop]
  dsimp only
  rw [if_neg (by simp [hvalid, hloads, hcopy, hindex]), if_neg (by simp [hgone, hlive]), if_pos (by rw [hdraws]; rfl)]

end

/-- The key is loaded into the job. -/
theorem State.job_loadKey {s : State} {j : Job} (hj : s.job j.id = some j) :
    (s.loadKey j).job j.id = some { j with keyCopy := some (s.slot j.entry.slot) } := by
  have stores := Keeps.via (State.touchCaches_keeps _ j.reach j.entry.slot) (by decide)
    (Keeps.mono (qs := [.reaches, .kst, .slots, .hbm])
      (State.touchHot_keeps (s.setJob { j with keyCopy := some (s.slot j.entry.slot) }) j.reach j.entry.slot) (by decide))
  exact (State.job_of_keeps stores (by decide) j.id).trans
    (State.job_setJob_of_job (j := { j with keyCopy := some (s.slot j.entry.slot) }) hj)

theorem engineCmd_self (s : State) : engineCmd s s = .next s := by rw [engineCmd, ite_self]

/-! ## What an operation does about its key -/

/-- R183, R217, R260: what the command `c` of the operation `o` answers before the job has loaded its key, where its routine does
not run, and where its output node lacks masking randomness. -/
def KeyComesOnce (c : Nat → Instr) (o : Op) : Prop :=
  ∀ (s : State) (j : Job) (v : Nat), s.job j.id = some j →
    (JobRuns s j o v → j.entry.keyValid = true → j.keyCopy = none → peerValueOk o v j = false →
      JobGives (c j.id) s j .pointInvalid 17 []) ∧
    (JobRuns s j o v → j.entry.keyValid = true → j.keyCopy = none → j.index = none → peerValueOk o v j = true →
      j.keyGone = true ∨ (s.slot j.entry.slot).st ≠ .live → JobGives (c j.id) s j .keySlotEmpty 0 []) ∧
    (JobRuns s j o v → j.entry.keyValid = true → j.keyCopy = none → j.index = none → o.loadsKey = true →
      peerValueOk o v j = true → j.keyGone = false → (s.slot j.entry.slot).st = .live → Answers (c j.id) s fun t =>
        t.job j.id = some { j with keyCopy := some (s.slot j.entry.slot) } ∧
        (∀ m, (t.slot m).bare = (s.slot m).bare) ∧ Keeps [.jobs, .kst, .reaches, .slots, .hbm] s t) ∧
    (s.mayRun j o = false → j.keyCopy = none ∨ o ∉ [Op.aesGcmEncrypt, .aesCtr, .aesXtsEncrypt, .aesXtsDecrypt] →
      exec (c j.id) s = .next s) ∧
    (∀ i x, s.alive = true → s.opOfJob j = some (o, v) → s.mayRun j o = true → j.entry.keyValid = true →
      j.keyCopy = some x → o.loadsKey = true → o ≠ .aesGcmDecrypt →
      j.nodes.findIdx? (fun n => n.info.output) = some i → (s.nodeMasks j.id i).1 = false →
      exec (c j.id) s = .next (s.nodeMasks j.id i).2)

/-- The command `c` brings the job of the operation `o` to its key when it may run, does nothing when it may not, and stalls
with its key loaded where masking randomness is short. -/
structure LoadsKey (c : Nat → Instr) (o : Op) : Prop where
  loads : o.loadsKey = true
  draws : o.drawsIndex = false
  reach : ∀ s j v, JobRuns s j o v → j.entry.keyValid = true → j.keyCopy = none →
    exec (c j.id) s = engineCmd s (s.reachKey j o v)
  idle : ∀ s j, s.job j.id = some j → s.mayRun j o = false →
    j.keyCopy = none ∨ o ∉ [Op.aesGcmEncrypt, .aesCtr, .aesXtsEncrypt, .aesXtsDecrypt] → exec (c j.id) s = engineCmd s s
  stall : ∀ s j v i x, s.job j.id = some j → s.opOfJob j = some (o, v) → s.mayRun j o = true →
    j.entry.keyValid = true → j.keyCopy = some x → o ≠ .aesGcmDecrypt →
    j.nodes.findIdx? (fun n => n.info.output) = some i → (s.nodeMasks j.id i).1 = false →
    exec (c j.id) s = engineCmd s (s.nodeMasks j.id i).2

theorem State.reachKey_of_invalid {s : State} {j : Job} {o : Op} {v : Nat} (h : peerValueOk o v j = false) :
    s.reachKey j o v = s.endJob j.id .pointInvalid 17 := if_neg (by rw [h]; decide)

theorem State.reachKey_of_valid {s : State} {j : Job} {o : Op} {v : Nat} (h : peerValueOk o v j = true) :
    s.reachKey j o v = s.takeKey j.id := if_pos h

theorem LoadsKey.keyComesOnce {c : Nat → Instr} {o : Op} (hc : LoadsKey c o) : KeyComesOnce c o := by
  intro s j v hj
  refine ⟨fun h hvalid hcopy hbad => ?_, fun h hvalid hcopy hindex hgood hgone => ?_,
    fun h hvalid hcopy hindex _ hgood hgone hlive => ?_, fun hidle hwhen => ?_,
    fun i x ha hop hrun hvalid hcopy _ ho hi hm => ?_⟩
  · refine h.gives rfl ?_
    rw [hc.reach s j v h hvalid hcopy, State.reachKey_of_invalid hbad]
  · refine h.gives rfl ?_
    rw [hc.reach s j v h hvalid hcopy, State.reachKey_of_valid hgood,
      State.takeKey_gone hj h.2.2.1 hvalid hcopy hindex hc.loads hgone]
  · have hload : exec (c j.id) s = .next (s.loadKey j) := by
      rw [hc.reach s j v h hvalid hcopy, State.reachKey_of_valid hgood,
        State.takeKey_loads hj h.2.2.1 hvalid hcopy hindex hc.loads hc.draws hgone hlive, engineCmd_of_alive h.1]
    exact ⟨_, hload, State.job_loadKey hj, s.sameSlots_loadKey j, (State.loadKey_keeps s j).mono (by decide)⟩
  · rw [hc.idle s j hj hidle hwhen, engineCmd_self]
  · rw [hc.stall s j v i x hj hop hrun hvalid hcopy ho hi hm, engineCmd_of_alive ha]

/-! ### Operations on a key -/

section

variable {s : State} {j : Job} {o : Op} {f : Job → Nat → Option Slot → OpOut}

theorem State.runKeyed_of_idle (hj : s.job j.id = some j) (h : s.mayRun j o = false) : s.runKeyed j.id o f = s := by
  unfold State.runKeyed
  rw [hj]
  dsimp only
  split
  · rfl
  · rw [if_pos (by rw [h]; rfl)]

variable {v : Nat} (hj : s.job j.id = some j) (hop : s.opOfJob j = some (o, v)) (hrun : s.mayRun j o = true)
  (hvalid : j.entry.keyValid = true)

include hj hop hrun hvalid

theorem State.runKeyed_of_noCopy (hcopy : j.keyCopy = none) : s.runKeyed j.id o f = s.reachKey j o v := by
  unfold State.runKeyed
  rw [hj]
  dsimp only
  rw [hop]
  dsimp only
  rw [if_neg (by rw [hrun]; decide), if_neg (by rw [hvalid]; decide), hcopy]

theorem State.runKeyed_of_copy {x : Slot} (hcopy : j.keyCopy = some x) :
    s.runKeyed j.id o f = s.masked j fun s j => s.applyOut j (f j v (some x)) := by
  unfold State.runKeyed
  rw [hj]
  dsimp only
  rw [hop]
  dsimp only
  rw [if_neg (by rw [hrun]; decide), if_neg (by rw [hvalid]; decide), hcopy]

end

theorem KeyedCmd.keyComesOnce {c : Nat → Instr} {o : Op} {f : State → Job → Nat → Option Slot → OpOut} (hc : KeyedCmd c o f)
    (hloads : o.loadsKey = true) (hdraws : o.drawsIndex = false) : KeyComesOnce c o :=
  LoadsKey.keyComesOnce {
    loads := hloads
    draws := hdraws
    reach := fun s j v ⟨_, hj, hop, hrun, _, _⟩ hvalid hcopy => by
      rw [hc.exec_eq, State.runKeyed_of_noCopy hj hop hrun hvalid hcopy]
    idle := fun s j hj hidle _ => by rw [hc.exec_eq, State.runKeyed_of_idle hj hidle]
    stall := fun s j v i x hj hop hrun hvalid hcopy _ hi hm => by
      rw [hc.exec_eq, State.runKeyed_of_copy hj hop hrun hvalid hcopy, State.masked_of_stall hi hm] }

/-! ### Streams (R203) -/

/-- The command `c` runs the stream operation `o`, which may commit before its whole input has come. -/
def StreamCmd (c : Nat → Instr) (o : Op) (f : Job → Nat → Option Slot → OpOut) : Prop :=
  ∀ id s, exec (c id) s = engineCmd s (s.runStream id o f)

/-- A stream whose input has come, or that has no key yet, runs as any operation on a key. -/
theorem State.runStream_of {s : State} {j : Job} (hj : s.job j.id = some j) (h : j.inputReady = true ∨ j.keyCopy = none)
    (o : Op) (f : Job → Nat → Option Slot → OpOut) : s.runStream j.id o f = s.runKeyed j.id o f := by
  unfold State.runStream
  rw [hj]
  refine if_neg ?_
  rcases h with h | h <;> simp [h]

theorem StreamCmd.keyComesOnce {c : Nat → Instr} {o : Op} {f : Job → Nat → Option Slot → OpOut} (hc : StreamCmd c o f)
    (hloads : o.loadsKey = true) (hdraws : o.drawsIndex = false)
    (hmem : o ∈ [Op.aesGcmEncrypt, .aesCtr, .aesXtsEncrypt, .aesXtsDecrypt]) : KeyComesOnce c o :=
  LoadsKey.keyComesOnce {
    loads := hloads
    draws := hdraws
    reach := fun s j v ⟨_, hj, hop, hrun, _, _⟩ hvalid hcopy => by
      rw [hc, State.runStream_of hj (.inr hcopy), State.runKeyed_of_noCopy hj hop hrun hvalid hcopy]
    idle := fun s j hj hidle hwhen => by
      rw [hc, State.runStream_of hj (.inr (hwhen.resolve_right fun h => h hmem)), State.runKeyed_of_idle hj hidle]
    stall := fun s j v i x hj hop hrun hvalid hcopy _ hi hm => by
      rw [hc, State.runStream_of hj (.inl (State.inputReady_of_mayRun hrun)),
        State.runKeyed_of_copy hj hop hrun hvalid hcopy, State.masked_of_stall hi hm] }

theorem streamCmd_aesGcmEncrypt : StreamCmd .aesGcmEncrypt .aesGcmEncrypt aesGcmEncrypt := fun _ _ => rfl
theorem streamCmd_aesCtr : StreamCmd .aesCtr .aesCtr aesCtrJob := fun _ _ => rfl
theorem streamCmd_aesXtsEncrypt : StreamCmd .aesXtsEncrypt .aesXtsEncrypt aesXtsEncrypt := fun _ _ => rfl
theorem streamCmd_aesXtsDecrypt : StreamCmd .aesXtsDecrypt .aesXtsDecrypt aesXtsDecrypt := fun _ _ => rfl

theorem loadsKey_aesGcmDecrypt : LoadsKey .aesGcmDecrypt .aesGcmDecrypt where
  loads := rfl
  draws := rfl
  reach s j v := fun ⟨_, hj, _, hrun, _, _⟩ _ hcopy => by
    show engineCmd s (s.gcmDecrypt j.id) = _
    unfold State.gcmDecrypt
    rw [hj]
    dsimp only
    rw [if_neg (by rw [hrun]; decide), hcopy]
    rfl
  idle s j hj hidle _ := by
    show engineCmd s (s.gcmDecrypt j.id) = _
    unfold State.gcmDecrypt
    rw [hj]
    dsimp only
    rw [if_pos (by rw [hidle]; rfl)]
  stall s j v i x _ _ _ _ _ ho := absurd rfl ho

/-! ### Operations that load nothing (R183, R297) -/

/-- An operation that validates no public value and loads no key: a job whose slot is gone ends KEY_SLOT_EMPTY, and one that may
not run stays. -/
theorem keyComesOnce_of_loadsNothing {c : Nat → Instr} {o : Op} (hloads : o.loadsKey = false)
    (hpeer : ∀ v j, peerValueOk o v j = true)
    (hgone : ∀ s j v, JobRuns s j o v → j.keyGone = true ∨ (s.slot j.entry.slot).st ≠ .live →
      exec (c j.id) s = engineCmd s (s.endJob j.id .keySlotEmpty 0))
    (hidle : ∀ s j, s.job j.id = some j → s.mayRun j o = false → exec (c j.id) s = engineCmd s s) : KeyComesOnce c o := by
  intro s j v hj
  have hno : ¬ o.loadsKey = true := by rw [hloads]; decide
  refine ⟨fun _ _ _ hbad => ?_, fun h _ _ _ _ hg => h.gives rfl (hgone s j v h hg), fun _ _ _ _ h => absurd h hno,
    fun h _ => (hidle s j hj h).trans (engineCmd_self s), fun _ _ _ _ _ _ _ h => absurd h hno⟩
  rw [hpeer] at hbad
  exact absurd hbad (by decide)

/-- The command `c` runs the operation `o` on its slot as it stands and computes `f`. -/
def SlotCmd (c : Nat → Instr) (o : Op) (f : State → Job → Slot → OpOut) : Prop :=
  ∀ id s, exec (c id) s = engineCmd s (s.runSlot id o (f s))

theorem State.runSlot_of_gone {s : State} {j : Job} {o : Op} (hj : s.job j.id = some j) (hrun : s.mayRun j o = true)
    (h : j.keyGone = true ∨ (s.slot j.entry.slot).st ≠ .live) (f : Job → Slot → OpOut) :
    s.runSlot j.id o f = s.endJob j.id .keySlotEmpty 0 := by
  unfold State.runSlot
  rw [hj]
  dsimp only
  rw [if_neg (by rw [hrun]; decide), if_pos (by simpa using h)]

theorem State.runSlot_of_idle {s : State} {j : Job} {o : Op} (hj : s.job j.id = some j) (h : s.mayRun j o = false)
    (f : Job → Slot → OpOut) : s.runSlot j.id o f = s := by
  unfold State.runSlot
  rw [hj]
  dsimp only
  rw [if_pos (by rw [h]; rfl)]

theorem State.runSlot_of_live {s : State} {j : Job} {o : Op} {x : Slot} (hj : s.job j.id = some j)
    (hrun : s.mayRun j o = true) (hx : SlotIs s j x) (f : Job → Slot → OpOut) :
    s.runSlot j.id o f = s.applyOut j (f j x) := by
  obtain ⟨hgone, rfl, hlive⟩ := hx
  unfold State.runSlot
  rw [hj]
  dsimp only
  rw [if_neg (by rw [hrun]; decide), if_neg (by simp [hgone, hlive])]

theorem SlotCmd.keyComesOnce {c : Nat → Instr} {o : Op} {f : State → Job → Slot → OpOut} (hc : SlotCmd c o f)
    (hloads : o.loadsKey = false) (hpeer : ∀ v j, peerValueOk o v j = true) : KeyComesOnce c o :=
  keyComesOnce_of_loadsNothing hloads hpeer
    (fun s j v ⟨_, hj, _, hrun, _, _⟩ hg => by rw [hc, State.runSlot_of_gone hj hrun hg])
    fun s j hj hidle => by rw [hc, State.runSlot_of_idle hj hidle]

/-- The result of an operation on a slot as it stands. -/
theorem SlotCmd.leaves {c : Nat → Instr} {o : Op} {f : State → Job → Slot → OpOut} (hc : SlotCmd c o f) {s : State} {j : Job}
    {v : Nat} {x : Slot} (h : JobRuns s j o v) (hx : SlotIs s j x) : Answers (c j.id) s ((f s j x).LeavesFrom s j) := by
  refine ⟨_, (hc j.id s).trans (engineCmd_of_alive h.1), ?_⟩
  rw [State.runSlot_of_live h.2.1 h.2.2.2.1 hx]
  exact h.applyOut_leaves _

theorem slotCmd_restrict : SlotCmd .restrict .restrict fun _ => restrictOut := fun _ _ => rfl
theorem slotCmd_lmsIndexQuery : SlotCmd .lmsIndexQuery .lmsIndexQuery fun s _ x => s.indexRecord x := fun _ _ => rfl
theorem slotCmd_xmssIndexQuery : SlotCmd .xmssIndexQuery .xmssIndexQuery fun s _ x => s.indexRecord x := fun _ _ => rfl

theorem State.deleteJob_of_gone {s : State} {j : Job} (hj : s.job j.id = some j) (hrun : s.mayRun j .delete = true)
    (h : j.keyGone = true ∨ (s.slot j.entry.slot).st ≠ .live) : s.deleteJob j.id = s.endJob j.id .keySlotEmpty 0 := by
  unfold State.deleteJob
  rw [hj]
  dsimp only
  rw [if_neg (by rw [hrun]; decide), if_pos (by simpa using h)]

theorem State.deleteJob_of_idle {s : State} {j : Job} (hj : s.job j.id = some j) (h : s.mayRun j .delete = false) :
    s.deleteJob j.id = s := by
  unfold State.deleteJob
  rw [hj]
  dsimp only
  rw [if_pos (by rw [h]; rfl)]

theorem keyComesOnce_delete : KeyComesOnce .delete .delete :=
  keyComesOnce_of_loadsNothing rfl (fun _ _ => rfl)
    (fun s _ _ ⟨_, hj, _, hrun, _, _⟩ hg => congrArg (engineCmd s) (State.deleteJob_of_gone hj hrun hg))
    fun s _ hj hidle => congrArg (engineCmd s) (State.deleteJob_of_idle hj hidle)

/-! ## QUERY (R293, R315) -/

theorem exec_query_of_open {s : State} (h : s.hostOpen = true) : exec .query s = .next s.query := hostCmd_of_open h

theorem State.desc_query (s : State) : s.query.kst.desc =
    if (s.slot s.kst.argSlot).st = .live then s.query.descriptor s.kst.argSlot else zeros 32 := by
  have hslot : s.query.slot s.kst.argSlot = s.slot s.kst.argSlot := State.slot_of_keeps (State.query_keeps s) (by decide) _
  have hdesc : s.query.kst.desc = s.query.descriptor s.kst.argSlot := rfl
  split
  · exact hdesc
  · next hdead =>
    rw [hdesc, State.descriptor, hslot]
    exact if_pos (by simpa using hdead)

/-! ## PLACE (R310) -/

/-- R310: the slot, the policy, the cluster key and the peer that a placement asks for. -/
def State.mayPlace (s : State) : Bool :=
  let x := s.slot s.kst.argSlot
  x.st == .live && attrStateful x.attr && x.homeDev == s.devId && s.keyPolicy && s.cfl.clusterKey.isSome &&
    s.peerTakes s.kst.peerDev (attrOwner x.attr)

/-- KST_RESULT and DONE of a key command. -/
def State.kstAnswers (s : State) (st : Status) : State := { s with kst := { s.kst with result := st.code, done := true } }

/-- The reach of the slot that KST_ARG names. -/
def State.argReach (s : State) : Nat := attrOwner (s.slot s.kst.argSlot).attr

theorem not_mayPlace (s : State) : ((s.slot s.kst.argSlot).st != .live || !attrStateful (s.slot s.kst.argSlot).attr ||
    (s.slot s.kst.argSlot).homeDev != s.devId || !s.keyPolicy || s.cfl.clusterKey.isNone ||
    !s.peerTakes s.kst.peerDev (attrOwner (s.slot s.kst.argSlot).attr)) = !s.mayPlace := by
  simp [State.mayPlace, Bool.not_and, bne]

theorem State.place1_of_not_mayPlace {s : State} (h : s.mayPlace = false) : s.place1 = s.kstAnswers .badParams :=
  if_pos (by rw [not_mayPlace, h]; rfl)

theorem State.place1_of_quiescing {s : State} (h : s.mayPlace = true)
    (hq : (s.reach s.argReach).st = .quiescing ∨ (s.reach s.argReach).st = .quiesced) :
    s.place1 = s.kstAnswers .reachQuiescing :=
  (if_neg (by rw [not_mayPlace, h]; decide)).trans (if_pos hq)

/-- The payload of a placement: the slot with ORIGIN 2 and without LOCKED, sealed under the cluster key. -/
def State.placeBody (s : State) (k : Bytes) : Bytes :=
  let x := s.slot s.kst.argSlot
  let a := attrSet x.attr
    { type := attrType x.attr, param := attrParam x.attr, origin := 2, stateful := true, owner := s.argReach }
  keyPayload k (s.cfg.ownerOf s.argReach) s.cfl.seq s.kst.peerSlot { x with attr := attrClear a 32 } false

/-- The placement as it waits for its answer. -/
def State.placeReq (s : State) (k : Bytes) : CflReq :=
  { id := s.cfl.seq, cls := 0x0A, dest := s.kst.peerDev, reach := s.argReach, slot := s.kst.peerSlot, job := none
    sentAt := s.now, resent := false, again := false, place := true, body := s.placeBody k }

/-- The placement is sent, and waits for its answer. -/
def State.placed (s : State) (k : Bytes) : State :=
  (s.sendNew 0x0A s.argReach s.kst.peerDev (s.knownEpoch s.kst.peerDev s.argReach) (s.placeBody k)).awaitReply (s.placeReq k)

theorem State.place1_of_serving {s : State} {k : Bytes} (h : s.mayPlace = true) (hst : (s.reach s.argReach).st = .serving)
    (hk : s.cfl.clusterKey = some k) : s.place1 = (s.placed k).kstAnswers .ok := by
  have hrest : ¬((s.reach s.argReach).st = .quiescing ∨ (s.reach s.argReach).st = .quiesced) := by rw [hst]; decide
  refine (if_neg (by rw [not_mayPlace, h]; decide)).trans ((if_neg hrest).trans ?_)
  rw [hk]
  rfl

/-- R377: a new request of a device with a route goes out on it. -/
theorem State.frame_mem_sendNew {s : State} {dst p : Nat} (hp : s.routeTo dst = some p) (cls r e : Nat) (payload : Bytes) :
    ∃ body, Out.frame p cls dst body ∈ (s.sendNew cls r dst e payload).tx := by
  have hroute : State.routeTo { s with cfl := { s.cfl with seq := s.cfl.seq + 1 } } dst = some p := hp
  unfold State.sendNew State.sendAs
  rw [hroute]
  exact ⟨_, List.mem_append_right _ (List.mem_singleton_self _)⟩

theorem State.mem_pendingReq_awaitReply (s : State) (q : CflReq) : q ∈ (s.awaitReply q).cfl.pendingReq :=
  List.mem_append_right _ (List.mem_singleton_self q)

theorem State.clusterKey_of_mayPlace {s : State} (h : s.mayPlace = true) : ∃ k, s.cfl.clusterKey = some k := by
  simp only [State.mayPlace, Bool.and_eq_true] at h
  exact Option.isSome_iff_exists.1 h.1.2

theorem exec_place_of_open {s : State} (h : s.hostOpen = true) : exec .place s = .next s.place1 := hostCmd_of_open h

/-- Settles O60: each operation of the list loads its key, or loads nothing, by the shape of its command; QUERY and PLACE by what
the slot in KST_ARG holds. -/
theorem keysThatAreGoneAndKeyCommands : Obligations.KeysThatAreGoneAndKeyCommands := by
  refine ⟨(?keys : ∀ p : (Nat → Instr) × Op, p ∈ _ → KeyComesOnce p.1 p.2), fun s ho => ⟨?query, ?place⟩⟩
  case keys =>
    simp only [List.forall_mem_cons, List.not_mem_nil, false_imp_iff, implies_true, and_true]
    exact
      ⟨keyedCmd_mlKemEncaps.keyComesOnce rfl rfl, keyedCmd_mlKemDecaps.keyComesOnce rfl rfl,
      keyedCmd_mlDsaSign.keyComesOnce rfl rfl, keyedCmd_mlDsaVerify.keyComesOnce rfl rfl,
      keyedCmd_slhDsaSign.keyComesOnce rfl rfl, keyedCmd_slhDsaVerify.keyComesOnce rfl rfl,
      keyedCmd_lmsVerify.keyComesOnce rfl rfl, keyedCmd_xmssVerify.keyComesOnce rfl rfl,
      keyedCmd_mcelieceEncaps.keyComesOnce rfl rfl, keyedCmd_mcelieceDecaps.keyComesOnce rfl rfl,
      keyedCmd_ecSign.keyComesOnce rfl rfl, keyedCmd_ecVerify.keyComesOnce rfl rfl, keyedCmd_agree.keyComesOnce rfl
      rfl, keyedCmd_rsaPssSign.keyComesOnce rfl rfl, keyedCmd_rsaV15Sign.keyComesOnce rfl rfl,
      keyedCmd_rsaPssVerify.keyComesOnce rfl rfl, keyedCmd_rsaV15Verify.keyComesOnce rfl rfl,
      keyedCmd_rsaOaepEncrypt.keyComesOnce rfl rfl, keyedCmd_rsaOaepDecrypt.keyComesOnce rfl rfl,
      keyedCmd_hmacGenerate.keyComesOnce rfl rfl, keyedCmd_hmacVerify.keyComesOnce rfl rfl,
      keyedCmd_kmacGenerate.keyComesOnce rfl rfl, keyedCmd_kmacVerify.keyComesOnce rfl rfl,
      streamCmd_aesGcmEncrypt.keyComesOnce rfl rfl (by decide), loadsKey_aesGcmDecrypt.keyComesOnce,
      streamCmd_aesCtr.keyComesOnce rfl rfl (by decide), streamCmd_aesXtsEncrypt.keyComesOnce rfl rfl (by decide),
      streamCmd_aesXtsDecrypt.keyComesOnce rfl rfl (by decide), keyedCmd_kdfCounterHmac.keyComesOnce rfl rfl,
      keyedCmd_kdfKmac256.keyComesOnce rfl rfl, keyedCmd_hkdf.keyComesOnce rfl rfl, keyedCmd_hkdfExpand.keyComesOnce
      rfl rfl, keyedCmd_exportWrapped.keyComesOnce rfl rfl, keyedCmd_exportPublic.keyComesOnce rfl rfl,
      slotCmd_restrict.keyComesOnce rfl fun _ _ => rfl, keyedCmd_hybridEncaps.keyComesOnce rfl rfl,
      keyedCmd_hybridDecaps.keyComesOnce rfl rfl, keyedCmd_attest.keyComesOnce rfl rfl, keyComesOnce_delete,
      slotCmd_lmsIndexQuery.keyComesOnce rfl fun _ _ => rfl, slotCmd_xmssIndexQuery.keyComesOnce rfl fun _ _ => rfl⟩
  case query => exact ⟨_, exec_query_of_open ho, s.desc_query, rfl, rfl, s.query_keeps⟩
  case place =>
    refine ⟨fun hgood => ?_, fun hgood hq => ?_, fun hgood hst => ?_⟩
    · exact (exec_place_of_open ho).trans (congrArg Host.Outcome.next (State.place1_of_not_mayPlace hgood))
    · exact (exec_place_of_open ho).trans (congrArg Host.Outcome.next (State.place1_of_quiescing hgood hq))
    · have hgood : s.mayPlace = true := hgood
      obtain ⟨k, hk⟩ := State.clusterKey_of_mayPlace hgood
      have hplace := State.place1_of_serving hgood hst hk
      refine ⟨_, exec_place_of_open ho, ?_, ?_, s.place1_keeps .slots (by decide), ?_, fun p hp => ?_, s.place1_keeps⟩
      · rw [hplace]
        rfl
      · rw [hplace]
        rfl
      · rw [hplace]
        exact ⟨s.placeReq k, State.mem_pendingReq_awaitReply _ _, rfl, rfl, rfl⟩
      · rw [hplace]
        exact State.frame_mem_sendNew hp _ _ _ _

end Sys2Proof.Machine
end

section
/-! Device and admin jobs, wrapped keys, RESTRICT and DELETE, owner opcodes, and the measurement unit (R183, R200, R202, R247,
R295 to R305, R312, R313, R339). -/

namespace Sys2Proof.Machine

open Sys2Proof

/-! ## Device and admin jobs (R200) -/

theorem State.fenceJob_of_retired {s : State} {j : Job} (hj : s.job j.id = some j) (hrun : s.mayRun j .fence = true)
    (h : s.earlierRetired j = true) : s.fenceJob j.id = s.applyOut j (OpOut.ok []) := by
  unfold State.fenceJob
  rw [hj]
  exact if_pos (by rw [hrun, h]; rfl)

theorem State.fenceJob_of_not_retired {s : State} {j : Job} (hj : s.job j.id = some j) (h : s.earlierRetired j = false) :
    s.fenceJob j.id = s := by
  unfold State.fenceJob
  rw [hj]
  exact if_neg (by simp [h])

/-- The RESEED job's additional input is there, its node waits, and no reseed of it is asked for yet. -/
def State.reseedReady (s : State) (j : Job) : Bool :=
  j.inputReady && j.nodes.any (fun m => m.st.awaitsEntropy) && !(s.spr.waiting.any fun w => w.job == some j.id)

theorem State.reseedJob_eq {s : State} {j : Job} (hj : s.job j.id = some j) (hop : s.isOp j .reseed = true)
    (hst : j.st = .running) (hs : j.status = none) : s.reseedJob j.id = if s.reseedReady j then
      { s with spr := { s.spr with
          waiting := s.spr.waiting ++ [{ inst := j.reach, extra := j.input, job := some j.id }] } } else s := by
  have hready : (s.isOp j .reseed && j.st == .running && j.status.isNone && j.inputReady &&
      j.nodes.any (fun n => n.st.awaitsEntropy) && !(s.spr.waiting.any fun w => w.job == some j.id)) =
      s.reseedReady j := by simp [State.reseedReady, hop, hst, hs]
  unfold State.reseedJob
  rw [hj]
  dsimp only
  rw [hready]

/-! ## RESTRICT (R297, R298) -/

theorem restrictOut_of_narrows {j : Job} {x : Slot} (hl : attrLocked x.attr = false)
    (hn : attrNarrows x.attr (pAttr j.param) = true) (hne : pAttr j.param ≠ x.attr) : restrictOut j x =
      { st := .ok, detail := 0, out := [], put := some (j.entry.slot, { x with attr := pAttr j.param }) } :=
  (if_neg (by rw [hl]; decide)).trans (if_neg (by simp [hn, hne]))

theorem restrictOut_of_locked {j : Job} {x : Slot} (hl : attrLocked x.attr = true) :
    restrictOut j x = OpOut.fail .keyUsageDenied 15 := if_pos hl

theorem restrictOut_of_not_narrows {j : Job} {x : Slot} (hl : attrLocked x.attr = false)
    (hn : attrNarrows x.attr (pAttr j.param) = false ∨ pAttr j.param = x.attr) : restrictOut j x = OpOut.fail .badParams 10 :=
  (if_neg (by rw [hl]; decide)).trans (if_pos (by simpa using hn))

/-! ## Invalidation and DELETE (R183, R202) -/

/-- A job that has loaded its key keeps it when a slot is lost. -/
theorem State.job_loseKey {s : State} {id : Nat} {j : Job} (hj : s.job id = some j) (hcopy : j.keyCopy.isNone = false)
    (n : Nat) : (s.loseKey n).job id = some j := by
  unfold State.loseKey State.job
  rw [List.find?_map]
  have hid : ((fun x : Job => x.id == id) ∘ fun x : Job =>
      if x.entry.keyValid && x.entry.slot == n && x.keyCopy.isNone && !x.ended then { x with keyGone := true } else x) =
      fun x => x.id == id := by
    funext x
    dsimp only [Function.comp]
    split <;> rfl
  rw [hid, show s.jobs.find? (fun x => x.id == id) = some j from hj, Option.map_some]
  exact congrArg some (if_neg (by simp [hcopy]))

/-- A slot that was not EMPTY is lost to its jobs and reset, once its leases are consumed; the stores, the vault and the peers
follow. -/
theorem State.invalidate_resets {s : State} {n : Nat} (h : (s.slot n).st ≠ .empty) : ∃ u, Keeps [.records] s u ∧
    Keeps [.kst, .reaches, .hbm, .cfl, .tx] ((u.loseKey n).setSlot n Slot.reset) (s.invalidate n) := by
  refine ⟨if (attrStateful (s.slot n).attr && (s.slot n).st == .live) = true then s.consumeLeases (s.slot n) else s,
    Keeps.ite (State.consumeLeases_keeps _ _) (Keeps.refl _ _), ?_⟩
  unfold State.invalidate
  dsimp -proj only
  rw [if_neg h]
  refine Keeps.via (State.copyAll_keeps _ _ _ _) (by decide) ?_
  refine Keeps.via (State.putDesc_keeps _ _) (by decide) ?_
  refine Keeps.via (State.putVault_keeps _ _ _) (by decide) ?_
  exact (State.leaveStores_keeps _ _).mono (by decide)

section

variable {s : State} {n : Nat} (h : (s.slot n).st ≠ .empty)

include h

theorem State.slot_invalidate_self : (s.invalidate n).slot n = Slot.reset := by
  obtain ⟨u, -, hreset⟩ := State.invalidate_resets h
  rw [State.slot_of_keeps hreset (by decide), State.slot_setSlot_same]

theorem State.slot_invalidate_other {m : Nat} (hm : m ≠ n) : (s.invalidate n).slot m = s.slot m := by
  obtain ⟨u, hu, hreset⟩ := State.invalidate_resets h
  rw [State.slot_of_keeps hreset (by decide), State.slot_setSlot, if_neg (Ne.symm hm),
    State.slot_of_keeps (State.loseKey_keeps u n) (by decide), State.slot_of_keeps hu (by decide)]

theorem State.job_invalidate {id : Nat} {j : Job} (hj : s.job id = some j) (hcopy : j.keyCopy.isNone = false) :
    (s.invalidate n).job id = some j := by
  obtain ⟨u, hu, hreset⟩ := State.invalidate_resets h
  rw [State.job_of_keeps hreset (by decide), State.job_of_keeps (State.setSlot_keeps _ _ _) (by decide)]
  exact State.job_loseKey ((State.job_of_keeps hu (by decide) id).trans hj) hcopy n

end

theorem State.deleteJob_of_locked {s : State} {j : Job} {x : Slot} (hj : s.job j.id = some j)
    (hrun : s.mayRun j .delete = true) (hx : SlotIs s j x) (hl : attrLocked x.attr = true) :
    s.deleteJob j.id = s.endJob j.id .keyUsageDenied 15 := by
  obtain ⟨hgone, rfl, hlive⟩ := hx
  unfold State.deleteJob
  rw [hj]
  dsimp only
  rw [if_neg (by rw [hrun]; decide), if_neg (by simp [hgone, hlive]), if_pos hl]

theorem State.deleteJob_of_live {s : State} {j : Job} {x : Slot} (hj : s.job j.id = some j)
    (hrun : s.mayRun j .delete = true) (hx : SlotIs s j x) (hl : attrLocked x.attr = false) : s.deleteJob j.id =
      ((s.setJob { j with committed := true, keyCopy := some x }).invalidate j.entry.slot).endJob j.id .ok 0 := by
  obtain ⟨hgone, rfl, hlive⟩ := hx
  unfold State.deleteJob
  rw [hj]
  dsimp only
  rw [if_neg (by rw [hrun]; decide), if_neg (by simp [hgone, hlive]), if_neg (by rw [hl]; decide)]

/-- R183, R202: DELETE ends OK with its slot EMPTY, and leaves every other slot. -/
theorem State.deleteJob_empties {s : State} {j : Job} {v : Nat} {x : Slot} (h : JobRuns s j .delete v) (hx : SlotIs s j x)
    (hl : attrLocked x.attr = false) : JobEnds j .ok 0 j.output (s.deleteJob j.id) ∧
      ((s.deleteJob j.id).slot j.entry.slot).st = .empty ∧
      (∀ m, m ≠ j.entry.slot → (s.deleteJob j.id).slot m = s.slot m) ∧
      Keeps (.records :: keyParts ++ jobParts) s (s.deleteJob j.id) := by
  obtain ⟨-, hj, -, hrun, ha, -⟩ := h
  have hlive : (s.slot j.entry.slot).st ≠ .empty := by
    obtain ⟨-, hslot, hst⟩ := hx
    rw [hslot, hst]
    decide
  rw [State.deleteJob_of_live hj hrun hx hl]
  generalize hu : s.setJob { j with committed := true, keyCopy := some x } = u
  have hset : Keeps [.jobs] s u := hu ▸ State.setJob_keeps s _
  have hslots : ∀ m, u.slot m = s.slot m := State.slot_of_keeps hset (by decide)
  have hreset : (u.slot j.entry.slot).st ≠ .empty := by rwa [hslots]
  have hjob : (u.invalidate j.entry.slot).job j.id = some { j with committed := true, keyCopy := some x } := by
    refine State.job_invalidate hreset ?_ rfl
    rw [← hu]
    exact State.job_setJob_of_job (j := { j with committed := true, keyCopy := some x }) hj
  obtain ⟨hends, hkept⟩ := State.endJob_ends (j := { j with committed := true, keyCopy := some x }) hjob
    (State.status_of_mayRun hrun) ha .ok 0
  have hafter : ∀ m, ((u.invalidate j.entry.slot).endJob j.id .ok 0).slot m = (u.invalidate j.entry.slot).slot m :=
    State.slot_of_slots (hkept rfl)
  refine ⟨hends, ?_, fun m hm => ?_, ?_⟩
  · rw [hafter, State.slot_invalidate_self hreset]
    rfl
  · rw [hafter, State.slot_invalidate_other hreset hm, hslots]
  · refine Keeps.via (State.endJob_keeps _ _ _ _) (by decide) ?_
    exact Keeps.via (State.invalidate_keeps _ _) (by decide) (hset.mono (by decide))

/-! ## IMPORT_WRAPPED (R304, R305) -/

theorem failIf_of_false {bad : Bool} (h : bad = false) (st : Status) (n : Nat) : failIf bad st n = .ok () :=
  if_neg (by rw [h]; decide)

theorem State.importChecks_ok {s : State} {j : Job} (hhead : blobHeadOk j.input (pAttr j.param) = true)
    (hlen : blobLenOk j.input j.entry.inLen = true)
    (hslot : j.reserved = some j.entry.slot ∨ (s.slot j.entry.slot).st = .empty ∧ ∃ r, s.cfg.reach j.reach = some r ∧
      s.quotaOk r (importWord j.input (pAttr j.param) j.reach) (blobPubOnly j.input) = true)
    (hbuf : blobV1 j.input = false ∨ j.entry.inLen ≤ (j.outBufs.map Prod.snd).sum) :
    s.importChecks j = .ok (importWord j.input (pAttr j.param) j.reach) := by
  unfold State.importChecks
  dsimp only
  rw [failIf_of_false (by rw [hhead]; rfl), failIf_of_false (by rw [hlen]; rfl), failIf_of_false, failIf_of_false]
  · rfl
  · rcases hbuf with h | h
    · rw [h, Bool.false_and]
    · rw [decide_eq_false (Nat.not_lt.2 h), Bool.and_false]
  · rcases hslot with h | ⟨h, r, hr, hq⟩
    · simp [h]
    · rw [hr, h]
      simp [hq]

/-- The public key of an import whose blob `b` holds `m` under the word `w`. -/
def importPub (w : BitVec 64) (b m : Bytes) : Bytes := if blobPubOnly b then m else pubOf (attrType w) (attrParam w) m

/-- The slot of that import: a stateful key of a version 1 blob has its home here (R305). -/
def State.importSlot (s : State) (w : BitVec 64) (b m : Bytes) : Slot :=
  newSlot w (if blobPubOnly b then [] else m) (importPub w b m)
    (if !attrStateful w then 0 else if blobV1 b then s.devId else fieldLe b 0x14 2)

/-- Check 17 on the encoding of an import. -/
def importOk (w : BitVec 64) (b m : Bytes) : Bool :=
  if blobPubOnly b then publicOk (attrType w) (attrParam w) m else privateOk (attrType w) (attrParam w) m

section

variable {s : State} {j : Job} {v : Nat} {w : BitVec 64} (hw : s.importChecks j = .ok w)

include hw

theorem State.importWrapped_of_badTag (hb : unwrap (s.reach j.reach).wrapKey j.input = none) :
    s.importWrapped j v = OpOut.fail .verifyFalse 0 := by
  unfold State.importWrapped
  dsimp only
  rw [hw]
  dsimp only
  rw [hb]

variable {m : Bytes} (hb : unwrap (s.reach j.reach).wrapKey j.input = some m)

include hb

theorem State.importWrapped_of_record {d : Nat} (hst : attrStateful w = true)
    (hd : s.statefulImport (slice j.input 0x20 16) = some d) : s.importWrapped j v = OpOut.fail .badParams d := by
  unfold State.importWrapped
  dsimp only
  rw [hw]
  dsimp only
  rw [hb]
  dsimp only
  rw [if_pos hst, hd]

theorem State.importWrapped_of_ok (hst : attrStateful w = false ∨ s.statefulImport (slice j.input 0x20 16) = none)
    (hok : importOk w j.input m = true) (hid : keyIdOf (attrType w) (importPub w j.input m) = slice j.input 0x20 16) :
    s.importWrapped j v =
      { st := if blobV1 j.input then .okMigrated else .ok, detail := 0
        out := if blobV1 j.input then s.wrap (s.reach j.reach).wrapKey (s.importSlot w j.input m) else []
        put := some (j.entry.slot, s.importSlot w j.input m) } := by
  have hrec : (if attrStateful w = true then s.statefulImport (slice j.input 0x20 16) else none) = none := by
    rcases hst with h | h
    · exact if_neg (by rw [h]; decide)
    · rw [h, ite_self]
  rw [importOk] at hok
  rw [importPub] at hid
  unfold State.importWrapped
  dsimp only
  rw [hw]
  dsimp only
  rw [hb]
  dsimp only
  rw [hrec]
  dsimp only
  rw [hok, hid, if_neg (by simp)]
  rfl

end

/-- An event beside the job leaves what its result left. -/
theorem OpOut.LeavesFrom.then_event {r : OpOut} {s t u : State} {j : Job} (h : r.LeavesFrom s j t)
    (hu : Keeps eventParts t u) : r.LeavesFrom s j u := by
  obtain ⟨ends, kept, wrote, frame, framePut⟩ := h
  have hslots : u.slots = t.slots := hu .slots (by decide)
  refine ⟨ends.of_job (State.job_of_keeps hu (by decide) _), fun hp hs => hslots.trans (kept hp hs), fun n x hp hx hs => ?_,
    fun hp => hu.via (by decide) (frame hp), hu.via (by decide) framePut⟩
  obtain ⟨hself, hother⟩ := wrote n x hp hx hs
  refine ⟨by rwa [State.slot_of_slots hslots], fun m hm => ?_⟩
  rw [State.slot_of_slots hslots, hother m hm]

theorem State.importJob_keeps_plain (s : State) (id : Nat) :
    Keeps eventParts (s.runPlain id .importWrapped s.importWrapped) (s.importJob id) := by
  unfold State.importJob
  dsimp only
  split
  · exact Keeps.ite ((State.unusableEvent_keeps _ _).mono (by decide)) (Keeps.refl _ _)
  · exact Keeps.refl _ _

theorem importWrapped_leaves {s : State} {j : Job} {v : Nat} (h : JobRuns s j .importWrapped v) :
    Answers (.importWrapped j.id) s ((s.importWrapped j v).LeavesFrom s j) := by
  refine ⟨s.importJob j.id, engineCmd_of_alive h.1, ?_⟩
  have hplain : (s.importWrapped j v).LeavesFrom s j (s.runPlain j.id .importWrapped s.importWrapped) := by
    rw [State.runPlain_of_runs h]
    exact h.leaves (g := fun j => s.importWrapped j v) fun _ => rfl
  exact hplain.then_event (s.importJob_keeps_plain j.id)

/-! ## Owner opcodes (R105, R339) -/

theorem State.ownerJob_of_done {s : State} {j : Job} (hj : s.job j.id = some j) (hop : s.isOp j .ownerOpcode = true)
    (hst : j.st = .running) (hs : j.status = none) (hc : j.committed = true) (hdone : ∀ m ∈ j.nodes, m.st = .done) :
    s.ownerJob j.id = s.endJob j.id
      (if (j.outBufs.map Prod.snd).sum < j.output.length && j.forPeer.isNone then .outputTooSmall else .ok) 0 := by
  have hall : (j.nodes.all fun n => n.st.isDone) = true := List.all_eq_true.2 fun m hm => by rw [hdone m hm]; rfl
  unfold State.ownerJob
  rw [hj]
  dsimp only
  rw [if_pos (by simp [hop, hst, hs, hc, hall])]

/-! ## The measurement unit (R247) -/

theorem getD_set_self {α : Type} {xs : List α} {i : Nat} (h : i < xs.length) (x d : α) : (xs.set i x).getD i d = x := by
  rw [List.getD_eq_getElem?_getD, List.getElem?_set_self h, Option.getD_some]

theorem State.measExtend_of_waiting {s : State} {j : Job} (hj : s.job j.id = some j) (h : s.extendsNext j = false) :
    s.measExtend j.id = s := by
  unfold State.measExtend
  rw [hj]
  dsimp only
  rw [h]
  cases j.extend <;> rfl

/-- A reach's registers after an extension of register `t` with `d`. -/
def ReachState.extended (r : ReachState) (t : Nat) (d : Bytes) : ReachState := { r with
  meas := r.meas.set t (sha3_384 (r.meas.getD t measZero ++ d))
  measCnt := r.measCnt.set t (satAdd 0xFFFFFFFF (r.measCnt.getD t 0) 1) }

section

variable {s : State} {j : Job} {t : Nat} {d : Bytes} (hj : s.job j.id = some j) (he : j.extend = some (t, d))
  (hn : s.extendsNext j = true)

include hj he hn

theorem State.measExtend_of_reach (ht : t < 128) : s.measExtend j.id =
    (s.setJob { j with extend := none }).setReach j.reach ((s.reach j.reach).extended t d) := by
  unfold State.measExtend
  rw [hj]
  dsimp only
  rw [he, hn]
  dsimp only
  rw [if_neg (by omega)]
  rfl

theorem State.measExtend_of_device (ht : 128 ≤ t) : s.measExtend j.id =
    (s.setJob { j with extend := none }).extendDev (t - 128) d := by
  unfold State.measExtend
  rw [hj]
  dsimp only
  rw [he, hn]
  exact if_pos ht

end

/-- Settles O59: device and admin jobs and exports by their results; RESTRICT, DELETE and the imports by the check that decides; the
owner opcode by the room for its output; the measurement unit by the register it extends. -/
theorem adminAndKeyJobs : Obligations.AdminAndKeyJobs := by
  intro s j v
  refine ⟨fun h => plainCmd_nop.gives h rfl (.inl rfl), fun h hret => ?fence, fun hret hj => ?fenceWaits,
    fun halive hj hop hst hs => ⟨fun hready => ?reseed, fun hready => ?noReseed⟩,
    fun y front back h hk he => keyedCmd_attest.givesOk h hk (by rw [State.attestOut, he]; rfl),
    fun y h hk => keyedCmd_exportWrapped.givesOk h hk rfl, fun y h hk => keyedCmd_exportPublic.givesOk h hk rfl,
    fun h hx => ⟨fun hl hn hne => ?restrict, fun hl => ?restrictLocked, fun hl hn => ?restrictBad⟩,
    fun h hx => ⟨fun hl => ⟨_, engineCmd_of_alive h.1, State.deleteJob_empties h hx hl⟩, fun hl => ?deleteLocked⟩,
    fun m h hhead hlen hslot hbuf => ⟨fun hb => ?badTag, fun d hb hst hd => ?badRecord,
      fun hb hst hok hid => ⟨fun hv => ?imported, fun hv => ?migrated⟩⟩,
    fun halive hj hop hst hs hc ha hdone => ⟨fun hfits => ?fits, fun hfits => ?tooSmall⟩,
    fun t d halive hj he => ⟨fun hn => ?waits, fun hn ht hm hcnt => ?extendsReach, fun hn ht ht' hm => ?extendsDevice⟩⟩
  case fence =>
    have hfence : Answers (.fence j.id) s ((OpOut.ok []).LeavesFrom s j) := by
      refine ⟨s.fenceJob j.id, engineCmd_of_alive h.1, ?_⟩
      rw [State.fenceJob_of_retired h.2.1 h.2.2.2.1 hret]
      exact h.applyOut_leaves _
    exact jobGives_of_leaves hfence rfl (.inl rfl)
  case fenceWaits =>
    exact (congrArg (engineCmd s) (State.fenceJob_of_not_retired hj hret)).trans (engineCmd_self s)
  case reseed =>
    exact (engineCmd_of_alive halive).trans
      (congrArg Host.Outcome.next ((State.reseedJob_eq hj hop hst hs).trans (if_pos hready)))
  case noReseed =>
    have hready : s.reseedReady j = false := hready
    exact (engineCmd_of_alive halive).trans
      (congrArg Host.Outcome.next ((State.reseedJob_eq hj hop hst hs).trans (if_neg (by rw [hready]; decide))))
  case restrict => exact jobWrites_of_leaves (slotCmd_restrict.leaves h hx) (restrictOut_of_narrows hl hn hne) hx.2.2
  case restrictLocked => exact jobGives_of_leaves (slotCmd_restrict.leaves h hx) (restrictOut_of_locked hl) (.inr rfl)
  case restrictBad => exact jobGives_of_leaves (slotCmd_restrict.leaves h hx) (restrictOut_of_not_narrows hl hn) (.inr rfl)
  case deleteLocked =>
    exact h.gives rfl (congrArg (engineCmd s) (State.deleteJob_of_locked h.2.1 h.2.2.2.1 hx hl))
  case badTag =>
    have hchecks := State.importChecks_ok hhead hlen hslot (hbuf.imp_left id)
    exact jobGives_of_leaves (importWrapped_leaves h) (State.importWrapped_of_badTag hchecks hb) (.inr rfl)
  case badRecord =>
    have hchecks := State.importChecks_ok hhead hlen hslot (hbuf.imp_left id)
    exact jobGives_of_leaves (importWrapped_leaves h) (State.importWrapped_of_record hchecks hb hst hd) (.inr rfl)
  case imported =>
    have hv : blobV1 j.input = false := hv
    have hout := State.importWrapped_of_ok (v := v) (State.importChecks_ok hhead hlen hslot (hbuf.imp_left id)) hb hst hok hid
    rw [hv] at hout
    exact jobWrites_of_leaves (importWrapped_leaves h) hout rfl
  case migrated =>
    have hv : blobV1 j.input = true := hv
    have hout := State.importWrapped_of_ok (v := v) (State.importChecks_ok hhead hlen hslot (hbuf.imp_left id)) hb hst hok hid
    rw [hv] at hout
    obtain ⟨t, hc, ht⟩ := importWrapped_leaves h
    rw [hout] at ht
    exact ⟨t, hc, ht.ends, (ht.wrote _ _ rfl rfl rfl).1, ht.framePut⟩
  case fits =>
    have hroom : ¬ ((j.outBufs.map Prod.snd).sum < j.output.length && j.forPeer.isNone) = true := by
      rcases hfits with h | h
      · simp [Nat.not_lt.2 h]
      · simp [Option.isSome_iff_ne_none.1 h]
    have hend := State.ownerJob_of_done hj hop hst hs hc hdone
    rw [if_neg hroom] at hend
    exact jobGives_of_endJob hj hs ha ((engineCmd_of_alive halive).trans (congrArg Host.Outcome.next hend))
  case tooSmall =>
    have hroom : ((j.outBufs.map Prod.snd).sum < j.output.length && j.forPeer.isNone) = true := by
      simpa [not_or] using hfits
    have hend := State.ownerJob_of_done hj hop hst hs hc hdone
    rw [if_pos hroom] at hend
    exact jobGives_of_endJob hj hs ha ((engineCmd_of_alive halive).trans (congrArg Host.Outcome.next hend))
  case waits => exact (congrArg (engineCmd s) (State.measExtend_of_waiting hj hn)).trans (engineCmd_self s)
  case extendsReach =>
    have hrun := State.measExtend_of_reach hj he hn (by omega)
    refine ⟨_, (engineCmd_of_alive halive).trans (congrArg Host.Outcome.next hrun), ?_, ?_, ?_, ?_⟩
    · rw [State.reach_setReach_same]
      exact getD_set_self (by omega) _ _
    · rw [State.reach_setReach_same]
      exact getD_set_self (by omega) _ _
    · exact State.job_setJob_of_job (j := { j with extend := none }) hj
    · exact (State.setReach_keeps _ _ _).via (by decide) ((State.setJob_keeps s _).mono (by decide))
  case extendsDevice =>
    have hrun := State.measExtend_of_device hj he hn ht
    refine ⟨_, (engineCmd_of_alive halive).trans (congrArg Host.Outcome.next hrun), ?_, ?_, ?_⟩
    · exact getD_set_self (by rw [State.setJob_meas]; omega) _ _
    · exact State.job_setJob_of_job (j := { j with extend := none }) hj
    · exact (State.extendDev_keeps _ _ _).via (by decide) ((State.setJob_keeps s _).mono (by decide))

end Sys2Proof.Machine
end

section
/-! Stateful keys (R174 to R178, R306 to R309): the KeyGen that reserves its slot, the draw of an index, the signature that
waits for the record of its lease, and the end of a record write. -/

namespace Sys2Proof.Machine

open Sys2Proof

/-! ## KeyGen (R177) -/

theorem State.pulse_of_rst {s t : State} (h : t.rst.still = s.rst.still) : t.rst.pulse = s.rst.pulse :=
  (congrArg Rst.pulse h : t.rst.still.pulse = s.rst.still.pulse)

theorem State.pulse_of_keeps {ps : List Part} {s t : State} (h : Keeps ps s t) (hs : Part.rst ∉ ps) :
    t.rst.pulse = s.rst.pulse := State.pulse_of_rst (h .rst hs)

theorem State.pulse_ledgerPulse (s : State) : s.ledgerPulse.rst.pulse.isSome = true := by
  show (if s.rst.pulse = some .fuse then some Pulse.fuse else some .ledger).isSome = true
  split <;> rfl

theorem State.job_streamCommit {s : State} {j k : Job} (hj : s.job j.id = some k) :
    (s.streamCommit j).job j.id = some { j with committed := true } := by
  have hset := State.job_setJob_of_job (j := { j with committed := true }) hj
  unfold State.streamCommit
  dsimp only
  split <;> exact hset

theorem State.devId_of_keeps {ps : List Part} {s t : State} (h : Keeps ps s t) (hs : Part.cfg ∉ ps) : t.devId = s.devId := by
  rw [State.devId, h .cfg hs, State.devId]

/-- The slot of a stateful KeyGen until its record is written, with its first lease. -/
def State.keygenSlot (s : State) (n t : Nat) (mat : Bytes) : Slot :=
  { newSlot (s.slot n).attr mat (statefulPub t mat) s.devId with
    st := .reserved
    cur := some { next := 0, stop := min leaseSize (statefulLimit t (attrParam (s.slot n).attr) mat), committed := false } }

section

variable {s : State} {j : Job} {t : Nat} {mat : Bytes}

theorem State.statefulKeygen_of_readOnly (h : s.ledger.readOnly = true) :
    s.statefulKeygen j t mat = s.endJob j.id .leaseExhausted 2 := if_pos h

variable (hr : s.ledger.readOnly = false)

include hr

theorem State.statefulKeygen_of_full (h : recordMax ≤ s.records.length + s.recordsPending) :
    s.statefulKeygen j t mat = s.endJob j.id .badParams 13 := (if_neg (by rw [hr]; decide)).trans (if_pos h)

theorem State.statefulKeygen_reserves (h : s.records.length + s.recordsPending < recordMax) : s.statefulKeygen j t mat =
    ((s.streamCommit { j with output := statefulPub t mat }).setSlot j.entry.slot
      (s.keygenSlot j.entry.slot t mat)).ledgerPulse := by
  have hdev := State.devId_of_keeps (State.streamCommit_keeps s { j with output := statefulPub t mat }) (by decide)
  rw [State.keygenSlot, ← hdev]
  exact (if_neg (by rw [hr]; decide)).trans (if_neg (Nat.not_le.2 h))

end

/-- The command `c` runs the stateful KeyGen `o`, with the type and the clear encoding of the new key. -/
def StatefulKeygenCmd (c : Nat → Instr) (o : Op) (new : Job → Nat → Nat × Bytes) : Prop :=
  ∀ id s, exec (c id) s = engineCmd s (s.runStatefulKeygen id o new)

theorem statefulKeygenCmd_lms : StatefulKeygenCmd .lmsKeygen .lmsKeygen fun j v => (0x04 + v, lmsNew (0x04 + v) j) :=
  fun _ _ => rfl
theorem statefulKeygenCmd_xmss : StatefulKeygenCmd .xmssKeygen .xmssKeygen fun j v => (0x06 + v, xmssNew (0x06 + v) j) :=
  fun _ _ => rfl

theorem StatefulKeygenCmd.exec_of_runs {c : Nat → Instr} {o : Op} {new : Job → Nat → Nat × Bytes}
    (hc : StatefulKeygenCmd c o new) {s : State} {j : Job} {v : Nat} (h : JobRuns s j o v) (hcommit : j.committed = false) :
    exec (c j.id) s = engineCmd s (s.statefulKeygen j (new j v).1 (new j v).2) := by
  obtain ⟨_, hj, hop, hrun, _, _⟩ := h
  rw [hc]
  unfold State.runStatefulKeygen
  rw [hj]
  dsimp only
  rw [hop]
  dsimp only
  rw [if_pos (by rw [hrun, hcommit]; rfl)]

/-- R177, R306, R307: what a stateful KeyGen answers. -/
theorem StatefulKeygenCmd.answers {c : Nat → Instr} {o : Op} {new : Job → Nat → Nat × Bytes}
    (hc : StatefulKeygenCmd c o new) {s : State} {j : Job} {v : Nat} (h : JobRuns s j o v) (hcommit : j.committed = false) :
    let n := j.entry.slot
    let pub := statefulPub (new j v).1 (new j v).2
    (s.ledger.readOnly = false → s.records.length + s.recordsPending < recordMax → Answers (c j.id) s fun u =>
      u.slot n = s.keygenSlot n (new j v).1 (new j v).2 ∧
      u.job j.id = some { j with committed := true, output := pub } ∧ u.rst.pulse.isSome = true ∧
      (∀ m, m ≠ n → u.slot m = s.slot m) ∧ Keeps [.slots, .jobs, .tiles, .rst] s u) ∧
    (s.ledger.readOnly = true → JobGives (c j.id) s j .leaseExhausted 2 []) ∧
    (s.ledger.readOnly = false → recordMax ≤ s.records.length + s.recordsPending →
      JobGives (c j.id) s j .badParams 13 []) := by
  have hexec := hc.exec_of_runs h hcommit
  refine ⟨fun hr hroom => ?_, fun hr => ?_, fun hr hfull => ?_⟩
  · rw [State.statefulKeygen_reserves hr hroom, engineCmd_of_alive h.1] at hexec
    have hcommitted := State.streamCommit_keeps s { j with output := statefulPub (new j v).1 (new j v).2 }
    refine ⟨_, hexec, State.slot_setSlot_same _ _ _, ?_, State.pulse_ledgerPulse _, fun m hm => ?_, ?_⟩
    · exact State.job_streamCommit (j := { j with output := statefulPub (new j v).1 (new j v).2 }) h.2.1
    · rw [State.slot_of_keeps (State.ledgerPulse_keeps _) (by decide), State.slot_setSlot, if_neg (Ne.symm hm),
        State.slot_of_keeps hcommitted (by decide)]
    · refine Keeps.via (State.ledgerPulse_keeps _) (by decide) ?_
      exact (State.setSlot_keeps _ _ _).via (by decide) (hcommitted.mono (by decide))
  · exact h.gives rfl (hexec.trans (congrArg (engineCmd s) (State.statefulKeygen_of_readOnly hr)))
  · exact h.gives rfl (hexec.trans (congrArg (engineCmd s) (State.statefulKeygen_of_full hr hfull)))

/-! ## Draws (R177, R307) -/

/-- Asking for the next lease in advance leaves the current one. -/
theorem State.cur_askNext (s : State) (n : Nat) : ((s.askNext n).slot n).cur = (s.slot n).cur := by
  unfold State.askNext
  dsimp only
  split
  · split
    · rw [State.slot_of_keeps (State.ledgerPulse_keeps _) (by decide), State.slot_setSlot_same]
    · rw [State.slot_of_keeps (State.unusableEvent_keeps _ _) (by decide)]
  · split
    · rfl
    · rw [State.slot_of_keeps (State.askLease_keeps _ _ _ _) (by decide)]

/-- A record write in progress stays marked. -/
theorem State.pulse_askNext {s : State} (h : s.rst.pulse.isSome = true) (n : Nat) :
    (s.askNext n).rst.pulse.isSome = true := by
  unfold State.askNext
  dsimp only
  split
  · split
    · exact State.pulse_ledgerPulse _
    · rwa [State.pulse_of_keeps (State.unusableEvent_keeps _ _) (by decide)]
  · split
    · exact h
    · rwa [State.pulse_of_keeps (State.askLease_keeps _ _ _ _) (by decide)]

/-- What a draw can touch beside the order of dispatches and the job. -/
def drawParts : List Part := [.slots, .rst] ++ eventParts

/-- R177: a draw from the lease `l` takes its first index, once. -/
theorem State.takeIndex_draws (s : State) (n : Nat) (l : Lease) : ∃ t, s.takeIndex n l = .index l.next t ∧
    (t.slot n).cur = some { l with next := l.next + 1 } ∧ (s.rst.pulse.isSome = true → t.rst.pulse.isSome = true) ∧
    Keeps drawParts s t := by
  have hkeeps := s.takeIndex_keeps n l
  unfold State.takeIndex at hkeeps ⊢
  dsimp only at hkeeps ⊢
  refine ⟨_, rfl, ?_, fun h => ?_, hkeeps.mono (by decide)⟩
  · split
    · rw [State.cur_askNext, State.slot_setSlot_same]
    · rw [State.slot_setSlot_same]
  · split
    · exact State.pulse_askNext (s := s.setSlot n _) h n
    · exact h

section

variable {s : State} {n job : Nat}

theorem State.drawIndex_of_cur {l : Lease} (h : Lease.some? (s.slot n).cur = some l) :
    s.drawIndex n job = s.takeIndex n l := by
  unfold State.drawIndex
  dsimp only
  rw [h]

variable (hcur : Lease.some? (s.slot n).cur = none) (hnxt : Lease.some? (s.slot n).nxt = none)

include hcur hnxt

theorem State.drawIndex_of_home {l : Lease} (hhome : (s.slot n).homeDev = s.devId)
    (hl : s.homeLease (s.slot n).keyId = .ok l) : s.drawIndex n job =
      State.takeIndex (s.setSlot n { s.slot n with cur := some l, nxt := none }).ledgerPulse n l := by
  unfold State.drawIndex
  dsimp only
  rw [hcur]
  dsimp only
  rw [hnxt]
  dsimp only
  rw [if_pos hhome, hl]

theorem State.drawIndex_of_exhausted {d : Nat} (hhome : (s.slot n).homeDev = s.devId)
    (hl : s.homeLease (s.slot n).keyId = .error d) :
    s.drawIndex n job = .exhausted d (s.unusableEvent (s.slot n).keyId) := by
  unfold State.drawIndex
  dsimp only
  rw [hcur]
  dsimp only
  rw [hnxt]
  dsimp only
  rw [if_pos hhome, hl]

theorem State.drawIndex_of_client (hhome : (s.slot n).homeDev ≠ s.devId) :
    s.drawIndex n job = .waits (if s.leaseAsked n then s else s.askLease n (s.slot n) (some job)) := by
  unfold State.drawIndex
  dsimp only
  rw [hcur]
  dsimp only
  rw [hnxt]
  dsimp only
  rw [if_neg hhome]
  split <;> rfl

end

/-- The job with its place in the order of dispatches. -/
def State.asks (s : State) (j : Job) : Job := { j with drawSeq := some (j.drawSeq.getD s.weir.seq) }

/-- The state in which the job draws. -/
def State.drawing (s : State) (j : Job) : State := (s.setJob (s.asks j)).takeSeq

theorem State.drawing_keeps (s : State) (j : Job) : Keeps [.jobs, .weir] s (s.drawing j) :=
  (State.takeSeq_keeps _).via (by decide) ((State.setJob_keeps s _).mono (by decide))

theorem State.job_drawing {s : State} {j : Job} (hj : s.job j.id = some j) : (s.drawing j).job j.id = some (s.asks j) :=
  State.job_setJob_of_job (j := s.asks j) hj

theorem State.takeKey_draws {s : State} {j : Job} {o : Op} {v : Nat} (hj : s.job j.id = some j)
    (hop : s.opOfJob j = some (o, v)) (hvalid : j.entry.keyValid = true) (hcopy : j.keyCopy = none) (hindex : j.index = none)
    (hloads : o.loadsKey = true) (hdraws : o.drawsIndex = true) (hgone : j.keyGone = false)
    (hlive : (s.slot j.entry.slot).st = .live) : s.takeKey j.id = (s.drawing j).drawFor (s.asks j) := by
  unfold State.takeKey
  rw [hj]
  dsimp only
  rw [hop]
  dsimp only
  rw [if_neg (by simp [hvalid, hloads, hcopy, hindex]), if_neg (by simp [hgone, hlive]),
    if_neg (by rw [hdraws]; decide)]
  rfl

theorem State.drawFor_of_waits {s t : State} {j : Job} (h : s.drawIndex j.entry.slot j.id = .waits t) : s.drawFor j = t := by
  rw [State.drawFor, h]

theorem State.drawFor_of_exhausted {s t : State} {j : Job} {d : Nat}
    (h : s.drawIndex j.entry.slot j.id = .exhausted d t) : s.drawFor j = t.endJob j.id .leaseExhausted d := by
  rw [State.drawFor, h]

/-- A draw that answers an index gives it to the job, which keeps it. -/
theorem State.drawFor_of_index {s t : State} {j : Job} {i : Nat} (hj : s.job j.id = some j)
    (h : s.drawIndex j.entry.slot j.id = .index i t) (ht : Keeps drawParts s t) :
    s.drawFor j = t.setJob { j with index := some i } ∧
      (s.drawFor j).job j.id = some { j with index := some i } := by
  have hfor : s.drawFor j = t.setJob { j with index := some i } := by rw [State.drawFor, h]
  refine ⟨hfor, ?_⟩
  rw [hfor]
  exact State.job_setJob_of_job (j := { j with index := some i }) ((State.job_of_keeps ht (by decide) j.id).trans hj)

end Sys2Proof.Machine
end

section
/-! Stateful signatures (R177, R178, R183): what the command of a signature answers before and after its draw. -/

namespace Sys2Proof.Machine

open Sys2Proof

/-- The command `c` runs the stateful signature `o`. -/
structure SignCmd (c : Nat → Instr) (o : Op) : Prop where
  exec_eq : ∀ id s, exec (c id) s = engineCmd s (s.statefulSign id o)
  loads : o.loadsKey = true
  draws : o.drawsIndex = true

theorem signCmd_of_mem {p : (Nat → Instr) × Op} (hp : p ∈ [(Instr.lmsSign, Op.lmsSign), (Instr.xmssSign, Op.xmssSign)]) :
    SignCmd p.1 p.2 := by
  simp only [List.mem_cons, List.not_mem_nil, or_false] at hp
  rcases hp with rfl | rfl <;> exact ⟨fun _ _ => rfl, rfl, rfl⟩

/-! ## Before the draw (R177) -/

theorem Lease.some?_of_lt {l : Lease} (h : l.next < l.stop) : Lease.some? (some l) = some l := by
  simp [Lease.some?, h]

theorem State.statefulSign_of_noIndex {s : State} {j : Job} {o : Op} (hj : s.job j.id = some j)
    (hrun : s.mayRun j o = true) (hindex : j.index = none) : s.statefulSign j.id o = s.takeKey j.id := by
  unfold State.statefulSign
  rw [hj]
  dsimp only
  rw [if_neg (by rw [hrun]; decide), hindex]

/-- A stateful signature of a LIVE slot that has drawn no index yet. -/
structure DrawsNow (s : State) (j : Job) (o : Op) (v : Nat) : Prop where
  runs : JobRuns s j o v
  valid : j.entry.keyValid = true
  index : j.index = none
  copy : j.keyCopy = none
  kept : j.keyGone = false
  live : (s.slot j.entry.slot).st = .live

section

variable {c : Nat → Instr} {o : Op} (hc : SignCmd c o) {s : State} {j : Job} {v : Nat} (h : DrawsNow s j o v)

include hc h

theorem SignCmd.exec_draws : exec (c j.id) s = .next ((s.drawing j).drawFor (s.asks j)) := by
  obtain ⟨⟨halive, hj, hop, hrun, _, _⟩, hvalid, hindex, hcopy, hgone, hlive⟩ := h
  rw [hc.exec_eq, engineCmd_of_alive halive, State.statefulSign_of_noIndex hj hrun hindex,
    State.takeKey_draws hj hop hvalid hcopy hindex hc.loads hc.draws hgone hlive]

/-- A draw that answers the index `i` in the state `t`. -/
theorem SignCmd.answers_index {i : Nat} {t : State} (hdraw : (s.drawing j).drawIndex j.entry.slot j.id = .index i t)
    (ht : Keeps drawParts (s.drawing j) t) : Answers (c j.id) s fun u => u.slots = t.slots ∧ u.rst = t.rst ∧
      u.job j.id = some { s.asks j with index := some i } ∧ Keeps ([.rst, .slots, .jobs, .weir] ++ eventParts) s u := by
  have hasks : (s.drawing j).job j.id = some (s.asks j) := State.job_drawing h.runs.2.1
  obtain ⟨hfor, hjob⟩ := State.drawFor_of_index (j := s.asks j) hasks hdraw ht
  refine ⟨_, hc.exec_draws h, ?_, ?_, hjob, ?_⟩
  · rw [hfor]
    rfl
  · rw [hfor]
    rfl
  · rw [hfor]
    refine Keeps.via (State.setJob_keeps _ _) (by decide) ?_
    exact ht.via (by decide) ((s.drawing_keeps j).mono (by decide))

/-- R177: the first index of the current lease. -/
theorem SignCmd.draws_from_lease {l : Lease} (hl : (s.slot j.entry.slot).cur = some l) (hlt : l.next < l.stop) :
    Answers (c j.id) s fun t => (t.slot j.entry.slot).cur = some { l with next := l.next + 1 } ∧
      t.job j.id = some { s.asks j with index := some l.next } ∧
      Keeps ([.rst, .slots, .jobs, .weir] ++ eventParts) s t := by
  obtain ⟨t, hdraw, hcur, -, ht⟩ := (s.drawing j).takeIndex_draws j.entry.slot l
  have hsome : Lease.some? ((s.drawing j).slot j.entry.slot).cur = some l :=
    (congrArg Lease.some? hl).trans (Lease.some?_of_lt hlt)
  obtain ⟨u, hexec, hslots, -, hjob, hkeeps⟩ := hc.answers_index h ((State.drawIndex_of_cur hsome).trans hdraw) ht
  exact ⟨u, hexec, by rw [State.slot_of_slots hslots, hcur], hjob, hkeeps⟩

variable (hcur : Lease.some? (s.slot j.entry.slot).cur = none) (hnxt : Lease.some? (s.slot j.entry.slot).nxt = none)

include hcur hnxt

/-- R307: the first index of a new lease of the home device, whose record write begins. -/
theorem SignCmd.draws_from_home {l : Lease} (hhome : (s.slot j.entry.slot).homeDev = s.devId)
    (hl : s.homeLease (s.slot j.entry.slot).keyId = .ok l) : Answers (c j.id) s fun t =>
      (t.slot j.entry.slot).cur = some { l with next := l.next + 1 } ∧ t.rst.pulse.isSome = true ∧
      t.job j.id = some { s.asks j with index := some l.next } ∧
      Keeps ([.rst, .slots, .jobs, .weir] ++ eventParts) s t := by
  generalize hu : (s.drawing j).setSlot j.entry.slot
    { (s.drawing j).slot j.entry.slot with cur := some l, nxt := none } = u
  have hset : Keeps [.slots] (s.drawing j) u := hu ▸ State.setSlot_keeps _ _ _
  have hpulse : Keeps drawParts (s.drawing j) u.ledgerPulse :=
    (State.ledgerPulse_keeps u).via (by decide) (hset.mono (by decide))
  obtain ⟨t, hdraw, htake, hmark, ht⟩ := u.ledgerPulse.takeIndex_draws j.entry.slot l
  have hindex : (s.drawing j).drawIndex j.entry.slot j.id = .index l.next t := by
    rw [State.drawIndex_of_home (s := s.drawing j) hcur hnxt hhome hl, hu, hdraw]
  obtain ⟨w, hexec, hslots, hrst, hjob, hkeeps⟩ := hc.answers_index h hindex (hpulse.trans ht)
  refine ⟨w, hexec, ?_, ?_, hjob, hkeeps⟩
  · rw [State.slot_of_slots hslots, htake]
  · rw [hrst]
    exact hmark (State.pulse_ledgerPulse u)

/-- R309: the home device has no lease left. -/
theorem SignCmd.ends_exhausted {d : Nat} (hhome : (s.slot j.entry.slot).homeDev = s.devId)
    (hl : s.homeLease (s.slot j.entry.slot).keyId = .error d) : Answers (c j.id) s fun t =>
      JobEnds j .leaseExhausted d [] t ∧ Keeps (.slots :: jobParts ++ eventParts) s t := by
  have hfor : (s.drawing j).drawFor (s.asks j) =
      ((s.drawing j).unusableEvent (s.slot j.entry.slot).keyId).endJob j.id .leaseExhausted d :=
    State.drawFor_of_exhausted (j := s.asks j) (State.drawIndex_of_exhausted (s := s.drawing j) hcur hnxt hhome hl)
  have hevent := (s.drawing j).unusableEvent_keeps (s.slot j.entry.slot).keyId
  obtain ⟨_, hj, _, hrun, ha, _⟩ := h.runs
  have hjob := (State.job_of_keeps hevent (by decide) j.id).trans (State.job_drawing hj)
  obtain ⟨hends, -⟩ := State.endJob_ends (j := s.asks j) hjob (State.status_of_mayRun hrun) ha .leaseExhausted d
  refine ⟨_, (hc.exec_draws h).trans (congrArg Host.Outcome.next hfor), hends, ?_⟩
  refine Keeps.via (State.endJob_keeps _ _ _ _) (by decide) ?_
  exact hevent.via (by decide) ((s.drawing_keeps j).mono (by decide))

variable (hhome : (s.slot j.entry.slot).homeDev ≠ s.devId)

include hhome

theorem SignCmd.exec_waits : exec (c j.id) s = .next (if s.leaseAsked j.entry.slot then s.drawing j
    else (s.drawing j).askLease j.entry.slot (s.slot j.entry.slot) (some j.id)) :=
  (hc.exec_draws h).trans (congrArg Host.Outcome.next
    (State.drawFor_of_waits (j := s.asks j) (State.drawIndex_of_client (s := s.drawing j) hcur hnxt hhome)))

/-- R310: a client asks the home device for a lease. -/
theorem SignCmd.asks_for_lease (hasked : s.leaseAsked j.entry.slot = false) : Answers (c j.id) s fun t =>
    (∃ q ∈ t.cfl.pendingReq, q.cls = 0x06 ∧ q.slot = j.entry.slot ∧ q.job = some j.id ∧
      q.dest = (s.slot j.entry.slot).homeDev) ∧
    t.job j.id = some (s.asks j) ∧ Keeps [.cfl, .tx, .jobs, .weir] s t := by
  have hwaits := hc.exec_waits h hcur hnxt hhome
  rw [if_neg (by rw [hasked]; decide)] at hwaits
  have hask := (s.drawing j).askLease_keeps j.entry.slot (s.slot j.entry.slot) (some j.id)
  refine ⟨_, hwaits, ⟨_, State.mem_pendingReq_awaitReply _ _, rfl, rfl, rfl, rfl⟩, ?_, ?_⟩
  · exact (State.job_of_keeps hask (by decide) j.id).trans (State.job_drawing h.runs.2.1)
  · exact hask.via (by decide) ((s.drawing_keeps j).mono (by decide))

/-- A slot that has asked already waits for the answer. -/
theorem SignCmd.waits_for_lease (hasked : s.leaseAsked j.entry.slot = true) : Answers (c j.id) s fun t =>
    t.job j.id = some (s.asks j) ∧ Keeps [.jobs, .weir] s t := by
  have hwaits := hc.exec_waits h hcur hnxt hhome
  rw [if_pos hasked] at hwaits
  exact ⟨_, hwaits, State.job_drawing h.runs.2.1, s.drawing_keeps j⟩

end

/-! ## After the draw (R177, R183) -/

theorem State.indexCommitted_of_keeps {ps : List Part} {s t : State} (h : Keeps ps s t) (hcfg : Part.cfg ∉ ps)
    (hrec : Part.records ∉ ps) (x : Slot) (i : Nat) : t.indexCommitted x i = s.indexCommitted x i := by
  rw [State.indexCommitted, State.devId_of_keeps h hcfg, State.record, h .records hrec, State.indexCommitted, State.record]

/-- What a stateful signature gives for an index. -/
def signatureOut (x : Slot) (i : Nat) (j : Job) : OpOut := OpOut.okDetail (statefulSignature x i j.input) (i % 2 ^ 32)

theorem State.releaseSignature_of_committed {s : State} {j : Job} {x : Slot} {i : Nat} (h : s.indexCommitted x i = true) :
    s.releaseSignature j x i = s.masked j fun s j => s.applyOut j (signatureOut x i j) := if_pos h

theorem State.releaseSignature_of_uncommitted {s : State} {j : Job} {x : Slot} {i : Nat}
    (h : s.indexCommitted x i = false) : s.releaseSignature j x i = s := if_neg (by rw [h]; decide)

section

variable {c : Nat → Instr} {o : Op} (hc : SignCmd c o) {s : State} {j : Job} {v : Nat} (h : JobRuns s j o v) {i : Nat}
  (hi : j.index = some i)

include hc h hi

theorem SignCmd.exec_copied {x : Slot} (hcopy : j.keyCopy = some x) :
    exec (c j.id) s = .next (s.releaseSignature j x i) := by
  obtain ⟨halive, hj, _, hrun, _, _⟩ := h
  rw [hc.exec_eq, engineCmd_of_alive halive]
  unfold State.statefulSign
  rw [hj]
  dsimp only
  rw [if_neg (by rw [hrun]; decide), hi, hcopy]

theorem SignCmd.waits_copied {x : Slot} (hcopy : j.keyCopy = some x) (hw : s.indexCommitted x i = false) :
    exec (c j.id) s = .next s := by
  rw [hc.exec_copied h hi hcopy, State.releaseSignature_of_uncommitted hw]

theorem SignCmd.gives_copied {x : Slot} (hcopy : j.keyCopy = some x) (hw : s.indexCommitted x i = true) :
    JobGives (c j.id) s j .ok (i % 2 ^ 32) (statefulSignature x i j.input) := by
  have hexec := hc.exec_copied h hi hcopy
  rw [State.releaseSignature_of_committed hw] at hexec
  exact jobGives_of_leaves ⟨_, hexec, h.leaves (g := signatureOut x i) fun _ => rfl⟩ rfl (.inl rfl)

variable (hcopy : j.keyCopy = none)

include hcopy

/-- R183: a slot that was invalidated after the draw ends the job. -/
theorem SignCmd.ends_gone (hgone : j.keyGone = true ∨ (s.slot j.entry.slot).st ≠ .live) :
    JobGives (c j.id) s j .keySlotEmpty 0 [] := by
  refine h.gives rfl ?_
  obtain ⟨_, hj, _, hrun, _, _⟩ := h
  rw [hc.exec_eq]
  unfold State.statefulSign
  rw [hj]
  dsimp only
  rw [if_neg (by rw [hrun]; decide), hi, hcopy]
  dsimp only
  rw [if_pos (by simpa using hgone)]

variable (hgone : j.keyGone = false) (hlive : (s.slot j.entry.slot).st = .live)

include hgone hlive

theorem SignCmd.exec_loads : exec (c j.id) s = .next ((s.loadKey j).releaseSignature
    { j with keyCopy := some (s.slot j.entry.slot) } (s.slot j.entry.slot) i) := by
  obtain ⟨halive, hj, _, hrun, _, _⟩ := h
  rw [hc.exec_eq, engineCmd_of_alive halive]
  unfold State.statefulSign
  rw [hj]
  dsimp only
  rw [if_neg (by rw [hrun]; decide), hi, hcopy]
  dsimp only
  rw [if_neg (by simp [hgone, hlive])]

/-- R177: until the record of its lease has committed, the signature waits with its key loaded. -/
theorem SignCmd.loads_and_waits (hw : s.indexCommitted (s.slot j.entry.slot) i = false) : Answers (c j.id) s fun t =>
    (∃ y, t.job j.id = some y ∧ y.keyCopy = some (s.slot j.entry.slot) ∧ y.status = none) ∧
    (∀ m, (t.slot m).bare = (s.slot m).bare) ∧ Keeps [.jobs, .kst, .reaches, .slots, .hbm] s t := by
  have hload := s.loadKey_keeps j
  have hexec := hc.exec_loads h hi hcopy hgone hlive
  rw [State.releaseSignature_of_uncommitted
    ((State.indexCommitted_of_keeps hload (by decide) (by decide) _ _).trans hw)] at hexec
  exact ⟨_, hexec, ⟨_, State.job_loadKey h.2.1, rfl, State.status_of_mayRun h.2.2.2.1⟩, s.sameSlots_loadKey j,
    hload.mono (by decide)⟩

/-- R177, R183: with the record committed, the signature leaves as its key is loaded. -/
theorem SignCmd.loads_and_signs (hw : s.indexCommitted (s.slot j.entry.slot) i = true)
    (hm : MasksHere (s.loadKey j) { j with keyCopy := some (s.slot j.entry.slot) }) : Answers (c j.id) s fun t =>
    JobEnds j .ok (i % 2 ^ 32) (statefulSignature (s.slot j.entry.slot) i j.input) t ∧
      (∀ m, (t.slot m).bare = (s.slot m).bare) ∧ Keeps ([.kst, .reaches, .slots] ++ jobParts) s t := by
  have hload := s.loadKey_keeps j
  have hexec := hc.exec_loads h hi hcopy hgone hlive
  rw [State.releaseSignature_of_committed
    ((State.indexCommitted_of_keeps hload (by decide) (by decide) _ _).trans hw)] at hexec
  have hjob : (s.loadKey j).job j.id = some { j with keyCopy := some (s.slot j.entry.slot) } := State.job_loadKey h.2.1
  have hout := State.masked_applyOut_leaves (j := { j with keyCopy := some (s.slot j.entry.slot) }) hjob hm
    (State.status_of_mayRun h.2.2.2.1) h.2.2.2.2.1 (g := signatureOut (s.slot j.entry.slot) i) fun _ => rfl
  have hslots := hout.kept rfl rfl
  refine ⟨_, hexec, hout.ends, fun m => ?_, (hout.frame rfl).via (by decide) (hload.mono (by decide))⟩
  rw [State.slot_of_slots hslots]
  exact s.sameSlots_loadKey j m

end

end Sys2Proof.Machine
end

section
/-! The end of a record write (R306, R307), and the settlement of the stateful keys. -/

namespace Sys2Proof.Machine

open Sys2Proof

/-! ## Leases that commit (R307) -/

/-- The lease, where a slot holds it, with its flag. -/
def Lease.mark (l : Lease) (y : Option Lease) : Option Lease := y.map fun z => if z = l then { z with committed := true } else z

/-- The slot with its lease `l` committed: the current one, or else the next. -/
def Slot.marked (x : Slot) (l : Lease) : Slot :=
  { x with cur := l.mark x.cur, nxt := if l.mark x.cur = x.cur then l.mark x.nxt else x.nxt }

/-- The leases of one place of a slot that wait for their record. -/
def Lease.waiting (y : Option Lease) : List Lease := y.toList.filter fun l => !l.committed

theorem Slot.uncommitted_eq (x : Slot) : x.uncommitted = Lease.waiting x.cur ++ Lease.waiting x.nxt :=
  List.filter_append ..

theorem Lease.waiting_cases (y : Option Lease) : Lease.waiting y = [] ∧ (∀ l, y = some l → l.committed = true) ∨
    ∃ l, y = some l ∧ l.committed = false ∧ Lease.waiting y = [l] := by
  cases y with
  | none => exact .inl ⟨rfl, nofun⟩
  | some l =>
    cases h : l.committed with
    | true => exact .inl ⟨List.filter_cons_of_neg (by simp [h]), fun z hz => Option.some.inj hz ▸ h⟩
    | false => exact .inr ⟨l, rfl, h, List.filter_cons_of_pos (by simp [h])⟩

theorem Lease.mark_self (l : Lease) : l.mark (some l) = some { l with committed := true } := by simp [Lease.mark]

theorem Lease.waiting_mark_self (l : Lease) : Lease.waiting (l.mark (some l)) = [] := by
  rw [Lease.mark_self]
  rfl

/-- A committed lease is not the one that waits. -/
theorem Lease.mark_of_committed {l : Lease} (hl : l.committed = false) {y : Option Lease}
    (h : ∀ z, y = some z → z.committed = true) : l.mark y = y := by
  cases y with
  | none => rfl
  | some z =>
    have hne : z ≠ l := fun e => by
      have hz := h z rfl
      rw [e, hl] at hz
      exact absurd hz (by decide)
    exact congrArg some (if_neg hne)

/-- The oldest uncommitted lease waits no longer. -/
theorem Slot.uncommitted_marked {x : Slot} {l : Lease} {rest : List Lease} (h : x.uncommitted = l :: rest) :
    (x.marked l).uncommitted = rest := by
  rw [Slot.uncommitted_eq] at h ⊢
  rcases Lease.waiting_cases x.cur with ⟨hw, hcommitted⟩ | ⟨c, hc, hcu, hw⟩
  · rw [hw, List.nil_append] at h
    rcases Lease.waiting_cases x.nxt with ⟨hw', -⟩ | ⟨d, hd, hdu, hw'⟩
    · rw [hw'] at h
      exact absurd h (by simp)
    · rw [hw', List.cons.injEq] at h
      obtain ⟨rfl, rfl⟩ := h
      have hcur : Lease.mark d x.cur = x.cur := Lease.mark_of_committed hdu hcommitted
      show Lease.waiting (Lease.mark d x.cur) ++
        Lease.waiting (if Lease.mark d x.cur = x.cur then Lease.mark d x.nxt else x.nxt) = []
      rw [if_pos hcur, hcur, hw, hd, Lease.waiting_mark_self, List.append_nil]
  · rw [hw, List.singleton_append, List.cons.injEq] at h
    obtain ⟨rfl, hrest⟩ := h
    have hne : c.mark x.cur ≠ x.cur := by
      rw [hc, Lease.mark_self]
      exact fun e => absurd (congrArg Lease.committed (Option.some.inj e)) (by simp [hcu])
    show Lease.waiting (c.mark x.cur) ++ Lease.waiting (if c.mark x.cur = x.cur then c.mark x.nxt else x.nxt) = rest
    rw [if_neg hne, hc, Lease.waiting_mark_self, List.nil_append, hrest]

/-! ## The record of a key (R306) -/

/-- The record that the first write of a KeyGen creates. -/
def Slot.firstRecord (x : Slot) (l : Lease) : KeyRec :=
  { ver := 1, keyId := x.keyId, homeDev := x.homeDev, type := attrType x.attr, floor := l.stop
    limit := statefulLimit (attrType x.attr) (attrParam x.attr) x.mat, grants := 1, mac := [] }

/-- The records after the write for the lease `l` of the slot `x`. -/
def State.recordsWith (s : State) (x : Slot) (l : Lease) : List KeyRec :=
  match s.record x.keyId with
  | some r => (s.setRecord { r with floor := max r.floor l.stop, grants := r.grants + 1 }).records
  | none => s.records ++ [KeyRec.sealed s.kst.lmk (x.firstRecord l)]

theorem State.recordsWith_of_none {s : State} {x : Slot} (h : s.record x.keyId = none) (l : Lease) :
    s.recordsWith x l = s.records ++ [KeyRec.sealed s.kst.lmk (x.firstRecord l)] := by rw [State.recordsWith, h]

/-- The record found is the one written. -/
theorem State.find_recordsWith {s : State} {x : Slot} {r : KeyRec} (h : s.record x.keyId = some r) (l : Lease) :
    (s.recordsWith x l).find? (fun y => y.keyId == x.keyId) =
      some (KeyRec.sealed s.kst.lmk { r with floor := max r.floor l.stop, grants := r.grants + 1 }) := by
  have hid : r.keyId = x.keyId := by simpa using List.find?_some h
  generalize hr : ({ r with floor := max r.floor l.stop, grants := r.grants + 1 } : KeyRec) = r'
  have hid' : r'.keyId = x.keyId := by rw [← hr]; exact hid
  have hrecords : s.recordsWith x l = s.records.map fun y => if y.keyId = r'.keyId then r'.sealed s.kst.lmk else y := by
    rw [State.recordsWith, h, ← hr]
    rfl
  have hsame : ((fun y : KeyRec => y.keyId == x.keyId) ∘ fun y => if y.keyId = r'.keyId then r'.sealed s.kst.lmk else y) =
      fun y => y.keyId == x.keyId := by
    funext y
    dsimp only [Function.comp]
    split
    · next e => rw [e]; rfl
    · rfl
  rw [hrecords, List.find?_map, hsame, show s.records.find? (fun y => y.keyId == x.keyId) = some r from h, Option.map_some]
  exact congrArg some (if_pos (hid.trans hid'.symm))

/-- The state with the record of the slot's lease written, before the pulse in progress is told anew. -/
def State.leaseWritten (s : State) (n : Nat) (l : Lease) : State :=
  ({ s with records := s.recordsWith (s.slot n) l } : State).setSlot n ((s.slot n).marked l)

/-- The write of a lease, and the pulse that it leaves (R425). -/
theorem State.commitLease_of_cons {s : State} {n : Nat} {l : Lease} {rest : List Lease}
    (h : (s.slot n).uncommitted = l :: rest) : s.commitLease n =
      if (s.leaseWritten n l).rst.pulse = some .fuse then s.leaseWritten n l else
        { s.leaseWritten n l with rst := { (s.leaseWritten n l).rst with pulse := (s.leaseWritten n l).restPulse } } := by
  unfold State.leaseWritten State.recordsWith State.commitLease
  dsimp -proj only
  rw [h]
  dsimp -proj only
  cases s.record (s.slot n).keyId with
  | some r => rfl
  | none => rfl

theorem State.leaseWritten_keeps {s : State} {n : Nat} {l : Lease} {rest : List Lease}
    (h : (s.slot n).uncommitted = l :: rest) : Keeps [.rst] (s.leaseWritten n l) (s.commitLease n) := by
  rw [State.commitLease_of_cons h]
  exact Keeps.ite (Keeps.refl _ _) (Keeps.setR_rst _ _ rfl)

/-- R307: the write of the oldest uncommitted lease: its record, and its flag in the slot. -/
theorem State.commitLease_writes {s : State} {n : Nat} {l : Lease} {rest : List Lease}
    (h : (s.slot n).uncommitted = l :: rest) : (s.commitLease n).records = s.recordsWith (s.slot n) l ∧
      (s.commitLease n).slot n = (s.slot n).marked l ∧ ∀ m, m ≠ n → (s.commitLease n).slot m = s.slot m := by
  have hkeeps := State.leaseWritten_keeps h
  have hslot := State.slot_of_keeps hkeeps (by decide)
  refine ⟨hkeeps .records (by decide), ?_, fun m hm => ?_⟩
  · rw [hslot, State.leaseWritten, State.slot_setSlot_same]
  · rw [hslot, State.leaseWritten, State.slot_setSlot, if_neg (Ne.symm hm)]
    rfl

/-! ## LEASE_COMMIT -/

theorem exec_leaseCommit_of_none {s : State} {k : Nat} (h : (s.slot k).uncommitted = []) :
    exec (.leaseCommit k) s = .next s := by
  show Host.Outcome.next _ = _
  rw [h]
  rfl

theorem exec_leaseCommit_of_cons {s : State} {k : Nat} {l : Lease} {rest : List Lease}
    (h : (s.slot k).uncommitted = l :: rest) : exec (.leaseCommit k) s = .next
      (if (s.slot k).st = .reserved then (s.commitLease k).finishKeygen k else s.commitLease k) := by
  obtain ⟨-, hslot, -⟩ := State.commitLease_writes h
  show Host.Outcome.next (if (s.slot k).uncommitted.isEmpty then s else
    if ((s.commitLease k).slot k).st = .reserved then (s.commitLease k).finishKeygen k else s.commitLease k) = _
  rw [h, List.isEmpty_cons, if_neg Bool.false_ne_true, hslot]
  rfl

/-- R307: the lease of a LIVE slot. -/
theorem leaseCommit_of_live {s : State} {k : Nat} {l : Lease} {rest : List Lease} (h : (s.slot k).uncommitted = l :: rest)
    {r : KeyRec} (hr : s.record (s.slot k).keyId = some r) (hlive : (s.slot k).st = .live) :
    Answers (.leaseCommit k) s fun t =>
      t.record (s.slot k).keyId =
        some (KeyRec.sealed s.kst.lmk { r with floor := max r.floor l.stop, grants := r.grants + 1 }) ∧
      (t.slot k).uncommitted.length < (s.slot k).uncommitted.length ∧
      (∀ m, m ≠ k → t.slot m = s.slot m) ∧ Keeps [.records, .slots, .rst] s t := by
  have hexec := exec_leaseCommit_of_cons h
  rw [if_neg (by rw [hlive]; decide)] at hexec
  obtain ⟨hrecords, hslot, hother⟩ := State.commitLease_writes h
  refine ⟨_, hexec, ?_, ?_, hother, (s.commitLease_keeps k).mono (by decide)⟩
  · rw [State.record, hrecords]
    exact State.find_recordsWith hr l
  · rw [hslot, Slot.uncommitted_marked h, h]
    exact Nat.lt_succ_self _

theorem Slot.st_bare (x : Slot) : x.bare.st = x.st := rfl

/-- The job whose KeyGen reserved the slot ends, and the slot is LIVE (R177). -/
theorem State.finishKeygen_ends {s : State} {k : Nat} {y : Job}
    (hfind : (s.jobs.find? fun i => i.reserved == some k && i.committed && i.status.isNone) = some y)
    (hy : s.job y.id = some y) (ha : y.abortLate = false) :
    ((s.finishKeygen k).slot k).st = .live ∧ JobEnds y .ok 0 y.output (s.finishKeygen k) ∧
      (∀ m, m ≠ k → ((s.finishKeygen k).slot m).bare = (s.slot m).bare) ∧
      Keeps (keyParts ++ jobParts) s (s.finishKeygen k) := by
  have hstatus : y.status = none := by
    have hfound := List.find?_some hfind
    simp only [Bool.and_eq_true] at hfound
    exact Option.isNone_iff_eq_none.1 hfound.2
  have hfinish : s.finishKeygen k = (s.writeSlot k (s.slot k)).endJob y.id .ok 0 := by rw [State.finishKeygen, hfind]
  have hwrite := s.writeSlot_keeps k (s.slot k)
  obtain ⟨hends, hslots⟩ := State.endJob_ends ((State.job_of_keeps hwrite (by decide) _).trans hy) hstatus ha .ok 0
  have hafter : ∀ m, (s.finishKeygen k).slot m = (s.writeSlot k (s.slot k)).slot m := fun m => by
    rw [hfinish, State.slot_of_slots (hslots rfl)]
  refine ⟨?_, by rw [hfinish]; exact hends, fun m hm => ?_, ?_⟩
  · rw [hafter, ← Slot.st_bare, s.sameSlots_writeSlot, State.slot_setSlot_same]
    rfl
  · rw [hafter, State.bare_writeSlot_other _ _ hm]
  · rw [hfinish]
    exact (State.endJob_keeps _ _ _ _).via (by decide) (hwrite.mono (by decide))

/-- R177, R306: the first record of a KeyGen's slot. -/
theorem leaseCommit_of_keygen {s : State} {k : Nat} {l : Lease} {rest : List Lease}
    (h : (s.slot k).uncommitted = l :: rest) {y : Job} (hst : (s.slot k).st = .reserved)
    (hr : s.record (s.slot k).keyId = none)
    (hfind : (s.jobs.find? fun i => i.reserved == some k && i.committed && i.status.isNone) = some y)
    (hy : s.job y.id = some y) (ha : y.abortLate = false) : Answers (.leaseCommit k) s fun t =>
      (t.slot k).st = .live ∧ JobEnds y .ok 0 y.output t ∧
      (∃ r ∈ t.records, r.keyId = (s.slot k).keyId ∧ r.floor = l.stop) ∧
      (∀ m, m ≠ k → (t.slot m).bare = (s.slot m).bare) ∧ Keeps ([.records, .rst] ++ keyParts ++ jobParts) s t := by
  have hexec := exec_leaseCommit_of_cons h
  rw [if_pos hst] at hexec
  obtain ⟨hrecords, -, hother⟩ := State.commitLease_writes h
  have hcommit := s.commitLease_keeps k
  generalize s.commitLease k = u at hexec hrecords hother hcommit
  obtain ⟨hlive, hends, hbare, hkeeps⟩ := State.finishKeygen_ends (s := u) (by rw [hcommit .jobs (by decide)]; exact hfind)
    ((State.job_of_keeps hcommit (by decide) _).trans hy) ha
  refine ⟨_, hexec, hlive, hends, ⟨KeyRec.sealed s.kst.lmk ((s.slot k).firstRecord l), ?_, rfl, rfl⟩, fun m hm => ?_, ?_⟩
  · rw [hkeeps .records (by decide), hrecords, State.recordsWith_of_none hr]
    exact List.mem_append_right _ (List.mem_singleton_self _)
  · rw [hbare m hm, hother m hm]
  · exact hkeeps.via (by decide) (hcommit.mono (by decide))

/-- Settles O58: the KeyGens by the ledger's room, the signatures before and after their draw, the index queries by the slot as it
stands, and LEASE_COMMIT by what the slot's oldest uncommitted lease belongs to. -/
theorem statefulKeysSignOnce : Obligations.StatefulKeysSignOnce := by
  intro s j v
  refine ⟨fun h hc => statefulKeygenCmd_lms.answers h hc, fun h hc => statefulKeygenCmd_xmss.answers h hc,
    fun p hp h hvalid => ⟨fun hindex hcopy hgone hlive => ?_, fun i hi => ?_⟩, fun p hp h hx => ?_,
    fun k l rest hu => ⟨fun r hr hlive => leaseCommit_of_live hu hr hlive,
      fun y hst hr hfind hy ha => leaseCommit_of_keygen hu hst hr hfind hy ha⟩,
    fun k hu => exec_leaseCommit_of_none hu⟩
  · have hc := signCmd_of_mem hp
    have hd : DrawsNow s j p.2 v := ⟨h, hvalid, hindex, hcopy, hgone, hlive⟩
    exact ⟨fun l hl hlt => hc.draws_from_lease hd hl hlt,
      fun l hcur hnxt hhome hl => hc.draws_from_home hd hcur hnxt hhome hl,
      fun d hcur hnxt hhome hl => hc.ends_exhausted hd hcur hnxt hhome hl,
      fun hcur hnxt hhome hasked => hc.asks_for_lease hd hcur hnxt hhome hasked,
      fun hcur hnxt hhome hasked => hc.waits_for_lease hd hcur hnxt hhome hasked⟩
  · have hc := signCmd_of_mem hp
    exact ⟨fun hcopy hgone => hc.ends_gone h hi hcopy hgone,
      fun hcopy hgone hlive hw => hc.loads_and_waits h hi hcopy hgone hlive hw,
      fun hcopy hgone hlive hw hm => hc.loads_and_signs h hi hcopy hgone hlive hw hm,
      fun y hcopy hw => hc.waits_copied h hi hcopy hw, fun y hcopy hw => hc.gives_copied h hi hcopy hw⟩
  · simp only [List.mem_cons, List.not_mem_nil, or_false] at hp
    rcases hp with rfl | rfl
    · exact jobGives_of_leaves (slotCmd_lmsIndexQuery.leaves h hx) rfl (.inl rfl)
    · exact jobGives_of_leaves (slotCmd_xmssIndexQuery.leaves h hx) rfl (.inl rfl)

end Sys2Proof.Machine
end

section
/-! Hash jobs and AES (R126, R184, R195, R196, R203): the job that ends and leaves its extension, the two passes of a decryption,
and the COMMIT of a stream, which marks the tile of its OUTPUT node. -/

namespace Sys2Proof.Machine

open Sys2Proof

/-! ## Hash (R184, R195) -/

/-- The job that a Hash job ends as, with the extension it leaves to the measurement unit (R247). -/
def State.hashed (s : State) (j : Job) (d : Bytes) : Job :=
  { j with extend := if pExtend j.param then some (extendTarget j.param, d) else none, extSeq := s.weir.seq }

/-- The output of a Hash job: an extension without an output address shows none. -/
def hashShown (j : Job) (d : Bytes) : Bytes := if pExtend j.param && j.entry.outAddr == 0 then [] else d

theorem hashShown_of_digest {j : Job} (h : pExtend j.param = false) (d : Bytes) : hashShown j d = d :=
  if_neg (by simp [h])

theorem hashShown_of_extend {j : Job} (h : pExtend j.param = true) (d : Bytes) :
    hashShown j d = if j.entry.outAddr = 0 then [] else d := by
  rw [hashShown, h, Bool.true_and]
  simp only [beq_iff_eq]

theorem State.hashJob_of_runs {s : State} {j : Job} {v : Nat} (h : JobRuns s j .hash v) : s.hashJob j.id =
    let d := hashOut v j.param j.input
    s.takeSeq.applyOut (s.hashed j d) (OpOut.ok (hashShown j d)) := by
  obtain ⟨_, hj, hop, hrun, _, _⟩ := h
  unfold State.hashJob
  rw [hj]
  dsimp only
  rw [hop]
  exact if_neg (by rw [hrun]; decide)

/-- The place that a COMMIT takes in the order of extensions is the Weir's alone. -/
theorem OpOut.LeavesFrom.after_takeSeq {r : OpOut} {s t : State} {j : Job} (h : r.LeavesFrom s.takeSeq j t) :
    r.LeavesFrom s j t where
  ends := h.ends
  kept := h.kept
  wrote := h.wrote
  frame hp := (h.frame hp).via (fun _ => id) (s.takeSeq_keeps.mono (by decide))
  framePut := h.framePut.via (fun _ => id) (s.takeSeq_keeps.mono (by decide))

/-- A Hash job ends OK with its output. -/
theorem State.hashJob_leaves {s : State} {j : Job} {v : Nat} (h : JobRuns s j .hash v) :
    (OpOut.ok (hashShown j (hashOut v j.param j.input))).LeavesFrom s (s.hashed j (hashOut v j.param j.input))
      (s.hashJob j.id) := by
  rw [State.hashJob_of_runs h]
  obtain ⟨_, hj, _, hrun, ha, _⟩ := h
  have hs := State.status_of_mayRun hrun
  exact (State.applyOut_leaves (s := s.takeSeq) (j := s.hashed j _) (k := j) hj hs ha hs ha).after_takeSeq

/-- R184: a digest. -/
theorem hash_gives {s : State} {j : Job} {v : Nat} (h : JobRuns s j .hash v) (hp : pExtend j.param = false) :
    JobGives (.hash j.id) s j .ok 0 (hashOut v j.param j.input) := by
  have hleaves := State.hashJob_leaves h
  rw [hashShown_of_digest hp] at hleaves
  exact ⟨_, engineCmd_of_alive h.1, hleaves.ends, hleaves.kept rfl, hleaves.frame rfl⟩

/-- A committed job that ends OK leaves its extension to the measurement unit. -/
theorem State.extend_endJob_ok {s : State} {j : Job} (hj : s.job j.id = some j) (hs : j.status = none)
    (ha : j.abortLate = false) (hc : j.committed = true) (d : Nat) :
    ∃ x, (s.endJob j.id .ok d).job j.id = some x ∧ x.extend = j.extend := by
  have hfreed : ((s.freeTiles j.id Status.ok.endsAll).wipeCtxs j).job j.id = some j := by
    rw [State.job_of_keeps (State.wipeCtxs_keeps _ _) (by decide), State.job_of_keeps (State.freeTiles_keeps _ _ _) (by decide),
      hj]
  have hok : Status.ok.success = true := rfl
  unfold State.endJob
  rw [hj]
  simp only [hs, ha, hc, hok, Option.isSome_none, Bool.and_false, Bool.true_or, Bool.false_eq_true, if_false, if_true]
  exact ⟨_, State.job_setJob_of_job (j := { j.cancelNodes _ with
    status := some .ok, detail := d, st := .ended, output := j.output, stage := [], extend := j.extend,
    reserved := none }) hfreed, rfl⟩

theorem Keeps.of_slots {ps : List Part} {s t : State} (h : Keeps (.slots :: ps) s t) (hs : t.slots = s.slots) :
    Keeps ps s t := fun p hp => by
  by_cases hslots : p = .slots
  · rw [hslots]
    exact hs
  · exact h p (by simp [hslots, hp])

/-- R195: an extension. -/
theorem hash_extends {s : State} {j : Job} {v : Nat} (h : JobRuns s j .hash v) (hp : pExtend j.param = true) :
    Answers (.hash j.id) s fun t =>
      JobEnds j .ok 0 (if j.entry.outAddr = 0 then [] else hashOut v j.param j.input) t ∧
      (∃ x, t.job j.id = some x ∧ x.extend = some (extendTarget j.param, hashOut v j.param j.input)) ∧
      Keeps jobParts s t := by
  have hleaves := State.hashJob_leaves h
  refine ⟨_, engineCmd_of_alive h.1, ?_, ?_, ?_⟩
  · rw [← hashShown_of_extend hp]
    exact hleaves.ends
  · have hextend : (s.hashed j (hashOut v j.param j.input)).extend =
        some (extendTarget j.param, hashOut v j.param j.input) := if_pos hp
    rw [State.hashJob_of_runs h, ← hextend]
    obtain ⟨_, hj, _, hrun, ha, _⟩ := h
    exact State.extend_endJob_ok (j := { s.hashed j _ with committed := true, output := _ })
      (State.job_setJob_of_job (s := s.takeSeq) (j := { s.hashed j _ with committed := true, output := _ }) hj)
      (State.status_of_mayRun hrun) ha rfl 0
  · exact ((hleaves.frame rfl).of_slots (hleaves.kept rfl rfl)).mono (by decide)

/-! ## The two passes of a decryption (R196, R203) -/

/-- What a decryption that has its key does in the pass it is at. -/
def State.gcmPass (s : State) (j : Job) (x : Slot) : State :=
  let q := gcmParts j
  let iv := (pIv j.param).take 12
  if j.committed then s.applyOut j (OpOut.ok (gcmCrypt x.mat iv q.2.1))
  else
    match gcmOpen x.mat iv q.1 q.2.1 q.2.2 with
    | none => s.applyOut j (OpOut.verdict false)
    | some m => if j.entry.inline || j.forPeer.isSome then s.applyOut j (OpOut.ok m) else s.streamCommit { j with input := [] }

/-- The first pass of a decryption: its message, if the tag verifies. -/
def gcmOpened (j : Job) (x : Slot) : Option Bytes :=
  gcmOpen x.mat ((pIv j.param).take 12) (gcmParts j).1 (gcmParts j).2.1 (gcmParts j).2.2

theorem State.gcmDecrypt_of_runs {s : State} {j : Job} {v : Nat} {x : Slot} (h : JobRuns s j .aesGcmDecrypt v)
    (hk : KeyIs j (some x)) : s.gcmDecrypt j.id = s.gcmPass j x := by
  obtain ⟨_, hj, _, hrun, _, _⟩ := h
  obtain ⟨_, hcopy⟩ : j.entry.keyValid = true ∧ j.keyCopy = some x := hk
  unfold State.gcmDecrypt
  rw [hj]
  dsimp only
  rw [if_neg (by rw [hrun]; decide)]
  split
  · next hnone => exact absurd (hcopy.symm.trans hnone) (by simp)
  · next y hy =>
    obtain rfl : x = y := Option.some.inj (hcopy.symm.trans hy)
    rfl

section

variable {s : State} {j : Job} {x : Slot}

theorem State.gcmPass_second (hc : j.committed = true) :
    s.gcmPass j x = s.applyOut j (OpOut.ok (gcmCrypt x.mat ((pIv j.param).take 12) (gcmParts j).2.1)) := if_pos hc

variable (hc : j.committed = false)

include hc

theorem State.gcmPass_fails (ho : gcmOpened j x = none) : s.gcmPass j x = s.applyOut j (OpOut.verdict false) := by
  rw [gcmOpened] at ho
  rw [State.gcmPass, if_neg (by rw [hc]; decide), ho]

variable {m : Bytes} (ho : gcmOpened j x = some m)

include ho

theorem State.gcmPass_held (hheld : j.entry.inline = true ∨ j.forPeer.isSome = true) :
    s.gcmPass j x = s.applyOut j (OpOut.ok m) := by
  rw [gcmOpened] at ho
  rw [State.gcmPass, if_neg (by rw [hc]; decide), ho]
  exact if_pos (by simpa using hheld)

theorem State.gcmPass_commits (hinline : j.entry.inline = false) (hpeer : j.forPeer = none) :
    s.gcmPass j x = s.streamCommit { j with input := [] } := by
  rw [gcmOpened] at ho
  rw [State.gcmPass, if_neg (by rw [hc]; decide), ho]
  exact if_neg (by rw [hinline, hpeer]; decide)

end

/-- A pass that ends the job gives its result. -/
theorem gcm_gives {s : State} {j : Job} {v : Nat} {x : Slot} (h : JobRuns s j .aesGcmDecrypt v) (hk : KeyIs j (some x))
    {r : OpOut} (hpass : s.gcmPass j x = s.applyOut j r) {st : Status} {d : Nat} {out : Bytes}
    (hr : r = { st := st, detail := d, out := out, put := none }) (ho : st.success = true ∨ out = []) :
    JobGives (.aesGcmDecrypt j.id) s j st d out := by
  have hends : Answers (.aesGcmDecrypt j.id) s (r.LeavesFrom s j) := by
    refine ⟨s.gcmDecrypt j.id, engineCmd_of_alive h.1, ?_⟩
    rw [State.gcmDecrypt_of_runs h hk, hpass]
    exact h.applyOut_leaves r
  exact jobGives_of_leaves hends hr ho

/-! ## The mark of a COMMIT (R126) -/

/-- The tiles of `t` that ran the OUTPUT node of `j` in `s` keep the mark of its COMMIT. -/
def Job.MarksFrom (j : Job) (s t : State) : Prop :=
  ∀ i k, j.nodes.findIdx? (fun n => n.info.output) = some i → (s.tile k).node = some (j.id, i) →
    (t.tile k).seqr.committed = true

/-- A tile with the mark of a COMMIT. -/
def Tile.marked (t : Tile) : Tile := { t with seqr := { t.seqr with committed := true } }

theorem tget_map_marked (w : Nat × Nat) : ∀ (ts : Tbl Tile) (k : Nat), (tget Tile.reset ts k).node = some w →
    tget Tile.reset (ts.map fun x => if x.2.node = some w then (x.1, x.2.marked) else x) k = (tget Tile.reset ts k).marked
  | [], _, h => nomatch h
  | (i, t) :: ts, k, h => by
    have hkey : (if t.node = some w then (i, t.marked) else (i, t)) = (i, if t.node = some w then t.marked else t) := by
      split <;> rfl
    rw [List.map_cons, hkey]
    rw [tget] at h ⊢
    split
    · next hi =>
      rw [if_pos hi] at h
      rw [if_pos h, tget, if_pos hi]
    · next hi =>
      rw [if_neg hi] at h
      rw [tget, if_neg hi]
      exact tget_map_marked w ts k h

theorem State.streamCommit_marks (s : State) (j : Job) : j.MarksFrom s (s.streamCommit j) := by
  intro i k hi hk
  have htile : (s.streamCommit j).tile k = (s.tile k).marked := by
    unfold State.streamCommit
    dsimp only
    rw [hi]
    exact tget_map_marked (j.id, i) s.tiles k hk
  rw [htile]
  rfl

/-- R203: a first pass over input that comes again. -/
theorem gcm_commits {s : State} {j : Job} {v : Nat} {x : Slot} (h : JobRuns s j .aesGcmDecrypt v) (hk : KeyIs j (some x))
    (hpass : s.gcmPass j x = s.streamCommit { j with input := [] }) : Answers (.aesGcmDecrypt j.id) s fun t =>
      t.job j.id = some { j with committed := true, input := [] } ∧ j.MarksFrom s t ∧ Keeps [.jobs, .tiles] s t := by
  refine ⟨s.gcmDecrypt j.id, engineCmd_of_alive h.1, ?_⟩
  rw [State.gcmDecrypt_of_runs h hk, hpass]
  exact ⟨State.job_streamCommit (j := { j with input := [] }) h.2.1, State.streamCommit_marks s { j with input := [] },
    State.streamCommit_keeps s _⟩

end Sys2Proof.Machine
end

section
/-! A stream that commits before its input has all come (R126, R203, R217): the draw of its masking randomness leaves every tile
at its node and every node as what it is, so the COMMIT marks the tile that runs the OUTPUT node; and the settlement of the hashes,
MACs and ciphers. -/

namespace Sys2Proof.Machine

open Sys2Proof

/-! ## Which node a tile runs -/

/-- What the nodes of a job are, whatever they have come to. -/
def Job.infos (j : Job) : List NodeRec := j.nodes.map Node.info

/-- Every tile runs the node it ran, and the nodes of every job are what they were. -/
structure State.SameNodes (s t : State) : Prop where
  tiles : ∀ k, (t.tile k).node = (s.tile k).node
  infos : ∀ id, (t.job id).map Job.infos = (s.job id).map Job.infos

theorem State.SameNodes.refl (s : State) : s.SameNodes s := ⟨fun _ => rfl, fun _ => rfl⟩

theorem State.SameNodes.trans {s t u : State} (h : s.SameNodes t) (k : t.SameNodes u) : s.SameNodes u :=
  ⟨fun i => (k.tiles i).trans (h.tiles i), fun i => (k.infos i).trans (h.infos i)⟩

theorem State.SameNodes.of_keeps {ps : List Part} {s t : State} (h : Keeps ps s t) (ht : Part.tiles ∉ ps)
    (hj : Part.jobs ∉ ps) : s.SameNodes t :=
  ⟨fun k => by rw [State.tile, h .tiles ht, State.tile], fun id => by rw [State.job_of_keeps h hj]⟩

theorem State.SameNodes.foldl {α : Type} {f : State → α → State} (h : ∀ (s : State) (a : α), s.SameNodes (f s a)) (s : State)
    (xs : List α) : s.SameNodes (xs.foldl f s) :=
  List.foldlRecOn (motive := s.SameNodes) xs f (.refl s) fun u hu a _ => hu.trans (h u a)

theorem State.sameNodes_setTile {s : State} {k : Nat} {t : Tile} (h : t.node = (s.tile k).node) :
    s.SameNodes (s.setTile k t) := by
  refine ⟨fun i => ?_, fun _ => rfl⟩
  rw [State.tile_setTile]
  split
  · next e => rw [← e, h]
  · rfl

/-- The draw that counts in a node leaves what the nodes of its job are. -/
theorem Job.infos_setNode_drawn {j : Job} {i : Nat} {n : Node} (hn : j.node i = some n) (d : Nat) :
    (j.setNode i { n with drawn := d }).infos = j.infos := by
  have hinfo : (j.nodes.map Node.info)[i]? = some n.info := by
    rw [List.getElem?_map]
    exact congrArg (Option.map Node.info) hn
  show (j.nodes.set i _).map Node.info = j.nodes.map Node.info
  obtain ⟨hlt, hget⟩ := List.getElem?_eq_some_iff.1 hinfo
  rw [List.map_set, show Node.info { n with drawn := d } = (j.nodes.map Node.info)[i] from hget.symm,
    List.set_getElem_self]

theorem State.sameNodes_setJob {s : State} {j k : Job} (hk : s.job j.id = some k) (h : j.infos = k.infos) :
    s.SameNodes (s.setJob j) := by
  refine ⟨fun _ => rfl, fun id => ?_⟩
  by_cases hid : j.id = id
  · rw [← hid, State.job_setJob_of_job hk, hk]
    exact congrArg some h
  · rw [State.job_setJob_other s j id hid]

theorem State.sameNodes_stall (s : State) (k : Nat) : s.SameNodes (s.stall k) := State.sameNodes_setTile rfl

theorem State.sameNodes_resume (s : State) (k : Nat) : s.SameNodes (s.resume k) := by
  unfold State.resume
  split
  · exact State.sameNodes_setTile rfl
  · exact .refl s

theorem State.sameNodes_throttleTile (s : State) (e k : Nat) : s.SameNodes (s.throttleTile e k) := by
  unfold State.throttleTile
  dsimp only
  refine .trans (.trans ?_ (.of_keeps (State.setExp_keeps _ _ _) (by decide) (by decide))) (State.sameNodes_stall _ _)
  split
  · exact .refl s
  · split <;> exact .of_keeps (State.raiseBasin_keeps _ _ _ _) (by decide) (by decide)

theorem State.sameNodes_takeBlocks (s : State) (e k n : Nat) : s.SameNodes (s.takeBlocks e k n).2 := by
  unfold State.takeBlocks
  split
  · exact State.sameNodes_throttleTile s e k
  · exact .trans (.of_keeps (State.setExp_keeps _ _ _) (by decide) (by decide)) (State.sameNodes_resume _ _)

theorem State.sameNodes_takeWords (s : State) (i n : Nat) : s.SameNodes (s.takeWords i n).2 := by
  unfold State.takeWords
  dsimp only
  split
  · refine .trans ?_ (State.sameNodes_stall _ _)
    split
    · exact .refl s
    · exact .of_keeps (State.raiseBasin_keeps _ _ _ _) (by decide) (by decide)
  · exact .trans (.of_keeps (State.setBlind_keeps _ _ _) (by decide) (by decide)) (State.sameNodes_resume _ _)

theorem State.sameNodes_nodeBlocks {s : State} {j : Job} {i : Nat} {n : Node} (hj : s.job j.id = some j)
    (hn : j.node i = some n) (need : Nat) : s.SameNodes (s.nodeBlocks j i n need).2 := by
  have htaken : ∀ (m : Nat) (ks : List Nat),
      s.SameNodes ((ks.foldl (fun s k => (s.takeBlocks (expAt k) k m).2) s).setJob
        (j.setNode i { n with drawn := n.drawn + m })) := fun m ks => by
    have hjob := State.job_of_keeps (Keeps.foldl (fun s k => State.takeBlocks_keeps s (expAt k) k m) ks s) (by decide) j.id
    exact (State.SameNodes.foldl (fun s k => s.sameNodes_takeBlocks (expAt k) k m) s ks).trans
      (State.sameNodes_setJob (j := j.setNode i _) (hjob.trans hj) (Job.infos_setNode_drawn hn _))
  unfold State.nodeBlocks
  dsimp only
  split
  · exact (htaken _ _).trans (State.SameNodes.foldl (fun s k => s.sameNodes_throttleTile (expAt k) k) _ _)
  · exact htaken _ _

theorem State.sameNodes_nodeMasks {s : State} {j : Job} (hj : s.job j.id = some j) (i : Nat) :
    s.SameNodes (s.nodeMasks j.id i).2 := by
  unfold State.nodeMasks
  rw [hj]
  dsimp only
  split
  · exact .refl s
  · next n hn =>
    split
    · next k _ =>
      split
      · exact .refl s
      · split
        · have hwords := s.sameNodes_takeWords (keyIndex k) (s.maskNeed j n.info - n.drawn)
          have hjob := State.job_of_keeps (s.takeWords_keeps (keyIndex k) (s.maskNeed j n.info - n.drawn)) (by decide) j.id
          split
          · next e =>
            rw [e] at hwords hjob
            exact hwords.trans
              (State.sameNodes_setJob (j := j.setNode i _) (hjob.trans hj) (Job.infos_setNode_drawn hn _))
          · next e =>
            rw [e] at hwords
            exact hwords
        · exact State.sameNodes_nodeBlocks hj hn _
    · exact .refl s

/-- The OUTPUT node of a job is where its nodes say. -/
theorem Job.findIdx_output {j k : Job} (h : k.infos = j.infos) :
    k.nodes.findIdx? (fun n => n.info.output) = j.nodes.findIdx? fun n => n.info.output := by
  have hinfos : ∀ x : Job, x.nodes.findIdx? (fun n => n.info.output) = x.infos.findIdx? NodeRec.output := fun x =>
    (List.findIdx?_map ..).symm
  rw [hinfos, hinfos, h]

/-! ## The COMMIT of a stream (R203) -/

theorem State.status_of_mayStart {s : State} {j : Job} {o : Op} (h : s.mayStart j o = true) : j.status = none := by
  simp only [State.mayStart, Bool.and_eq_true] at h
  obtain ⟨⟨⟨⟨⟨_, hstatus⟩, _⟩, _⟩, _⟩, _⟩ := h
  exact Option.isNone_iff_eq_none.1 hstatus

/-- With its masking randomness there, a stream commits in a state that differs by the draw alone. -/
theorem State.masked_streamCommit {s : State} {j : Job} (hj : s.job j.id = some j) (hm : MasksHere s j) :
    ∃ ns, (s.masked j State.streamCommit).job j.id = some { j with nodes := ns, committed := true } ∧
      j.MarksFrom s (s.masked j State.streamCommit) ∧ Keeps maskParts s (s.masked j State.streamCommit) := by
  unfold State.masked
  split
  · exact ⟨j.nodes, State.job_streamCommit hj, s.streamCommit_marks j, (s.streamCommit_keeps j).mono (by decide)⟩
  · next i hi =>
    obtain ⟨ns, hns⟩ := State.job_nodeMasks hj i
    have hsame := State.sameNodes_nodeMasks hj i
    have hkeeps := s.nodeMasks_keeps j.id i
    dsimp only
    rw [if_pos (hm i hi), hns]
    have hinfos : ({ j with nodes := ns } : Job).infos = j.infos := by
      have hmap := hsame.infos j.id
      rw [hns, hj] at hmap
      exact Option.some.inj hmap
    refine ⟨ns, State.job_streamCommit (j := { j with nodes := ns }) hns, fun i k hi hk => ?_,
      (State.streamCommit_keeps _ _).via (by decide) (hkeeps.mono (by decide))⟩
    refine State.streamCommit_marks _ { j with nodes := ns } i k ?_ ?_
    · exact (Job.findIdx_output hinfos).trans hi
    · exact (hsame.tiles k).trans hk

section

variable {c : Nat → Instr} {o : Op} {f : Job → Nat → Option Slot → OpOut} (hc : StreamCmd c o f) {s : State} {j : Job} {v : Nat}

include hc

/-- A stream whose input has all come gives its result. -/
theorem StreamCmd.gives (hnodes : ∀ j ns v y, f { j with nodes := ns } v y = f j v y) {y : Option Slot}
    (h : JobRuns s j o v) (hk : KeyIs j y) {out : Bytes} (hf : f j v y = OpOut.ok out) : JobGives (c j.id) s j .ok 0 out := by
  have hends : Answers (c j.id) s ((f j v y).LeavesFrom s j) := by
    refine ⟨s.runStream j.id o f, (hc j.id s).trans (engineCmd_of_alive h.1), ?_⟩
    rw [State.runStream_of h.2.1 (.inl (State.inputReady_of_mayRun h.2.2.2.1)), State.runKeyed_of_runs h hk]
    exact h.leaves (g := fun j => f j v y) fun ns => hnodes j ns v y
  exact jobGives_of_leaves hends hf (.inl rfl)

/-- R203: a stream that has its key commits before its input has all come. -/
theorem StreamCmd.commits (halive : s.alive = true) (hj : s.job j.id = some j) (hstart : s.mayStart j o = true)
    (hinput : j.inputReady = false) (hcommit : j.committed = false) (hcopy : j.keyCopy.isSome = true) (hm : MasksHere s j) :
    Answers (c j.id) s fun t =>
      (∃ x, t.job j.id = some x ∧ x.committed = true ∧ x.status = none ∧ x.input = j.input ∧ x.keyCopy = j.keyCopy) ∧
      j.MarksFrom s t ∧ Keeps ([.jobs, .tiles, .spr] ++ eventParts) s t := by
  have hrun : s.runStream j.id o f = s.masked j State.streamCommit := by
    unfold State.runStream
    rw [hj]
    exact if_pos (by rw [hstart, hcommit, hinput, hcopy]; rfl)
  obtain ⟨ns, hjob, hmarks, hkeeps⟩ := State.masked_streamCommit hj hm
  have hs : j.status = none := State.status_of_mayStart hstart
  refine ⟨_, (hc j.id s).trans (engineCmd_of_alive halive), ?_⟩
  rw [hrun]
  exact ⟨⟨_, hjob, rfl, hs, rfl, rfl⟩, hmarks, hkeeps.mono (by decide)⟩

end

theorem streamCmd_of_mem {q : (Nat → Instr) × Op} (hq : q ∈ [(Instr.aesGcmEncrypt, Op.aesGcmEncrypt),
    (Instr.aesCtr, Op.aesCtr), (Instr.aesXtsEncrypt, Op.aesXtsEncrypt), (Instr.aesXtsDecrypt, Op.aesXtsDecrypt)]) :
    ∃ f, StreamCmd q.1 q.2 f := by
  simp only [List.mem_cons, List.not_mem_nil, or_false] at hq
  rcases hq with rfl | rfl | rfl | rfl
  · exact ⟨_, streamCmd_aesGcmEncrypt⟩
  · exact ⟨_, streamCmd_aesCtr⟩
  · exact ⟨_, streamCmd_aesXtsEncrypt⟩
  · exact ⟨_, streamCmd_aesXtsDecrypt⟩

/-! ## RSA-OAEP (R193) and RANDOM (R200) -/

theorem rsaOaepEncrypt_ok {j : Job} {v : Nat} {y : Option Slot}
    (h : y.isSome = true ∨ rsaPubOk (slotRsaLen y j.param) (pubIn j y (slotRsaLen y j.param + 4)) = true) :
    rsaOaepEncrypt j v y =
      let p := j.param
      let k := slotRsaLen y p
      let pub := pubIn j y (k + 4)
      let rest := if y.isNone then j.input.drop (k + 4) else j.input
      let em := oaepEncode (pAlg p) k (rest.take (pWordA p)) (rest.drop (pWordA p)) (fit (algLen (pAlg p)) j.rnd)
      OpOut.ok (toBe k (powMod (beNat em) (beNat (slice pub k 4)) (beNat (pub.take k)))) := by
  refine if_neg ?_
  rcases h with h | h
  · simp [Option.isSome_iff_ne_none.1 h]
  · simp [h]

theorem rsaOaepEncrypt_invalid {j : Job} {v : Nat} {y : Option Slot} (hy : y = none)
    (h : rsaPubOk (slotRsaLen y j.param) (pubIn j y (slotRsaLen y j.param + 4)) = false) :
    rsaOaepEncrypt j v y = OpOut.pointInvalid := if_pos (by simp [hy ▸ h, hy])

/-- The message that an OAEP ciphertext decodes to. -/
def rsaOaepOpened (j : Job) (y : Option Slot) : Option Bytes :=
  let p := j.param
  let k := slotRsaLen y p
  oaepDecode (pAlg p) k (j.input.take (pWordA p))
    (toBe k ((parseRsa k (slotMat y)).private1 (beNat (j.input.drop (pWordA p)))))

/-- The ciphertext is a residue of the modulus. -/
def rsaOaepInRange (j : Job) (y : Option Slot) : Prop :=
  beNat (j.input.drop (pWordA j.param)) < (parseRsa (slotRsaLen y j.param) (slotMat y)).n

theorem rsaOaepDecrypt_invalid {j : Job} {v : Nat} {y : Option Slot} (h : ¬ rsaOaepInRange j y) :
    rsaOaepDecrypt j v y = OpOut.pointInvalid := if_pos (Nat.not_lt.1 h)

theorem rsaOaepDecrypt_ok {j : Job} {v : Nat} {y : Option Slot} (h : rsaOaepInRange j y) {m : Bytes}
    (hm : rsaOaepOpened j y = some m) : rsaOaepDecrypt j v y = OpOut.ok m := by
  refine (if_neg (Nat.not_le.2 h)).trans ?_
  rw [rsaOaepOpened] at hm
  rw [hm]

theorem rsaOaepDecrypt_fails {j : Job} {v : Nat} {y : Option Slot} (h : rsaOaepInRange j y)
    (hm : rsaOaepOpened j y = none) : rsaOaepDecrypt j v y = OpOut.fail .badParams 18 := by
  refine (if_neg (Nat.not_le.2 h)).trans ?_
  rw [rsaOaepOpened] at hm
  rw [hm]

theorem plainCmd_random : PlainCmd .random .random fun _ j _ => OpOut.ok (fit (pOutBytes j.param) j.rnd) :=
  ⟨fun _ _ => rfl, fun _ _ _ _ => rfl⟩

/-- Settles O57: hashes by the extension they may leave, MACs and RSA encryption as keyed operations, a decryption pass by pass, and
the streams before and after their input has all come. -/
theorem hashesMacsAndCiphers : Obligations.HashesMacsAndCiphers := by
  intro s j v y
  refine ⟨fun h hp => hash_gives h hp, fun h hp => hash_extends h hp,
    fun h hk => keyedCmd_hmacGenerate.givesOk h hk rfl, fun h hk => keyedCmd_hmacVerify.givesVerdict h hk rfl,
    ⟨fun h hk => keyedCmd_kmacGenerate.givesOk h hk rfl, fun h hk => keyedCmd_kmacVerify.givesVerdict h hk rfl⟩,
    fun h hk => streamCmd_aesGcmEncrypt.gives (fun _ _ _ _ => rfl) h hk rfl, fun hy => ?decrypt, fun q hq => ?commit,
    fun h hk => streamCmd_aesCtr.gives (fun _ _ _ _ => rfl) h hk rfl,
    fun h hk => streamCmd_aesXtsEncrypt.gives (fun _ _ _ _ => rfl) h hk rfl,
    fun h hk => streamCmd_aesXtsDecrypt.gives (fun _ _ _ _ => rfl) h hk rfl,
    ⟨fun hp h hk => keyedCmd_rsaOaepEncrypt.givesOk h hk (rsaOaepEncrypt_ok hp),
      fun hy hp h hk => keyedCmd_rsaOaepEncrypt.givesInvalid h hk (rsaOaepEncrypt_invalid hy hp)⟩,
    ⟨fun hc h hk => keyedCmd_rsaOaepDecrypt.givesInvalid h hk (rsaOaepDecrypt_invalid (Nat.not_lt.2 hc)),
      fun m hc hm h hk => keyedCmd_rsaOaepDecrypt.givesOk h hk (rsaOaepDecrypt_ok hc hm),
      fun hc hm h hk => keyedCmd_rsaOaepDecrypt.gives h hk (rsaOaepDecrypt_fails hc hm) (.inr rfl)⟩,
    fun h => plainCmd_random.gives h rfl (.inl rfl)⟩
  case decrypt =>
    obtain ⟨x, rfl⟩ := Option.isSome_iff_exists.1 hy
    exact ⟨fun hc ho h hk => gcm_gives h hk (State.gcmPass_fails hc ho) rfl (.inr rfl),
      fun m hc ho hheld h hk => gcm_gives h hk (State.gcmPass_held hc ho hheld) rfl (.inl rfl),
      fun m hc ho hinline hpeer h hk => gcm_commits h hk (State.gcmPass_commits hc ho hinline hpeer),
      fun hc h hk => gcm_gives h hk (State.gcmPass_second hc) rfl (.inl rfl)⟩
  case commit =>
    obtain ⟨f, hstream⟩ := streamCmd_of_mem hq
    exact fun halive hj _ hstart hinput hcommit hcopy hm => hstream.commits halive hj hstart hinput hcommit hcopy hm

end Sys2Proof.Machine
end

section
/-! COMMIT in VALID (R65, R66, R70) and the end of its wait for the Spring (R279). -/

namespace Sys2Proof.Machine

open Sys2Proof

/-! ## The quiesce rule once more (R66) -/

/-- No named reach is busy: the rule has nothing to say of a full stream, nor of a partial one whose reaches are all quiesced. -/
theorem State.notQuiesced_eq_none_iff (s : State) (p : Stream) :
    s.notQuiesced p = none ↔ p.partialLoad = false ∨ ∀ x ∈ p.namedAt, x.1 ∉ s.busyReaches := by
  unfold State.notQuiesced
  cases p.partialLoad <;> simp

/-- The error names a busy reach by the offset of its record. -/
theorem State.busy_of_notQuiesced {s : State} {p : Stream} {e : VErr} (h : s.notQuiesced p = some e) :
    ∃ x ∈ p.namedAt, x.1 ∈ s.busyReaches ∧ e = vErr 0x12 2 x.2 := by
  unfold State.notQuiesced at h
  split at h
  · exact absurd h nofun
  · obtain ⟨x, hx, rfl⟩ := Option.map_eq_some_iff.1 h
    have hbusy := List.find?_some hx
    exact ⟨x, List.mem_of_find?_eq_some hx, List.contains_iff_mem.1 hbusy, rfl⟩

/-! ## COMMIT in VALID -/

/-- A fence or a halt bars every commit (R70). -/
def State.commitBarred (s : State) : Bool := s.rst.fenced || s.lev.fenced || s.lev.halted

theorem State.commitBarred_iff (s : State) :
    s.commitBarred = true ↔ s.rst.fenced = true ∨ s.lev.fenced = true ∨ s.lev.halted = true := by
  simp [State.commitBarred, or_assoc]

theorem State.not_commitBarred {s : State} (hr : s.rst.fenced = false) (hf : s.lev.fenced = false)
    (hh : s.lev.halted = false) : ¬s.commitBarred = true := by
  rw [State.commitBarred, hr, hf, hh]
  decide

theorem exec_commit_of_valid {s : State} (ho : s.hostLinked = true) (hl : s.lcs.pending = false)
    (hs : s.rst.safeStandby = false) (hv : s.wsh.st = .valid) : exec .commit s = .next s.wshCommit := by
  show Host.Outcome.next (if s.hostLinked then _ else s) = _
  rw [if_pos ho, State.wshCmd_accepted hl hs (beq_iff_eq.2 hv)]

section
variable {s : State} {p : Stream} (hp : s.wsh.parsed = some p)
include hp

theorem State.wshCommit_of_barred (hb : s.commitBarred = true) : s.wshCommit = s.wshRefuse := by
  rw [State.wshCommit, hp]
  exact if_pos hb

theorem State.wshCommit_of_busy {e : VErr} (hb : ¬s.commitBarred = true) (he : s.notQuiesced p = some e) :
    s.wshCommit = State.reject { s with wsh := { s.wsh with applyUs := 0 } } e := by
  rw [State.wshCommit, hp]
  refine (if_neg hb).trans ?_
  rw [he]

theorem State.wshCommit_of_quiesced (hb : ¬s.commitBarred = true) (hq : s.notQuiesced p = none) :
    s.wshCommit = { s with wsh := { s.wsh with
      st := .committing, commitAt := s.now, springWait := !(s.createdBy p).isEmpty && s.spr.st != .running } } := by
  rw [State.wshCommit, hp]
  refine (if_neg hb).trans ?_
  rw [hq]

end

/-! ## The wait (R279) -/

theorem exec_commitSpringWaitTimeout_of_waiting {s : State} (ha : s.alive = true) (hc : s.wsh.st = .committing)
    (hw : s.wsh.springWait = true) (hr : s.spr.st ≠ .running) :
    exec .commitSpringWaitTimeout s = .next s.springTimeout :=
  (engineCmd_of_alive ha).trans (congrArg _ (if_pos ⟨hc, hw, hr⟩))

theorem State.springTimeout_now (s : State) : s.springTimeout.now = max s.now (s.wsh.commitAt + 40000000) :=
  State.reject_keeps _ _ .now (by decide)

/-! ## The obligation -/

/-- Settles O9: COMMIT in VALID by the bar of R70 and then by the quiesce rule, and the timeout as a rejection 40 ms after the
COMMIT write. -/
theorem commitStartsWaitsOrIsRefused : Obligations.CommitStartsWaitsOrIsRefused := by
  refine fun s p => ⟨fun ho hl hs hv hp => ?_, fun ha hc hw hr => ?_⟩
  · have hx := exec_commit_of_valid ho hl hs hv
    refine ⟨fun hb => ?_, fun hr hf hh hq => ?_, fun hr hf hh hpart hbusy => ?_⟩
    · exact hx.trans (congrArg _ (State.wshCommit_of_barred hp (s.commitBarred_iff.2 hb)))
    · exact hx.trans (congrArg _ (State.wshCommit_of_quiesced hp (State.not_commitBarred hr hf hh)
        ((s.notQuiesced_eq_none_iff p).2 hq)))
    · have hsome : s.notQuiesced p ≠ none := fun hn => by
        obtain hfull | hidle := (s.notQuiesced_eq_none_iff p).1 hn
        · exact absurd (hfull.symm.trans hpart) nofun
        · obtain ⟨x, hx, hb⟩ := hbusy
          exact hidle x hx hb
      obtain ⟨e, he⟩ := Option.ne_none_iff_exists'.1 hsome
      obtain ⟨x, hx', hb, rfl⟩ := State.busy_of_notQuiesced he
      have hcommit := State.wshCommit_of_busy hp (State.not_commitBarred hr hf hh) he
      have hwsh := (congrArg State.wsh hcommit).trans (State.wsh_reject _ _)
      refine ⟨_, hx, by rw [hwsh], by rw [hwsh]; rfl, by rw [hwsh]; rfl, ⟨x, hx', hb, by rw [hwsh]; rfl⟩, ?_,
        s.wshCommit_keeps.mono (by decide)⟩
      rw [hcommit]
      exact State.pending_reject _ _
  · have hwsh : s.springTimeout.wsh = _ := State.wsh_reject _ _
    exact ⟨_, exec_commitSpringWaitTimeout_of_waiting ha hc hw hr, by rw [hwsh], by rw [hwsh]; rfl, by rw [hwsh],
      s.springTimeout_now, s.springTimeout_keeps.mono (by decide)⟩

end Sys2Proof.Machine
end

section
/-! What consumes random bytes beside the jobs: mask expanders (R273, R274), blinding buffers (R275) and the random-data windows
(R276, R277), with SPR_TEST (R284). -/

namespace Sys2Proof.Machine

open Sys2Proof

/-! ## A generate request leaves every consumer alone (R271, R272) -/

/-- The expanders, the blinding buffers and the FIFOs of the random-data windows. -/
def State.consumers (s : State) : Tbl Expander × Tbl Bytes × Tbl RndFifo := (s.spr.exp, s.spr.blind, s.spr.fifo)

theorem State.consumers_of_keeps {ps : List Part} {s t : State} (h : Keeps ps s t) (hs : Part.spr ∉ ps) :
    t.consumers = s.consumers := by rw [State.consumers, h .spr hs, State.consumers]

theorem State.consumers_queueReseed (s : State) (i : Nat) : (s.queueReseed i).consumers = s.consumers := by
  unfold State.queueReseed
  split <;> rfl

theorem State.consumers_raise (s : State) (src cause : Nat) : (s.raise src cause).consumers = s.consumers :=
  State.consumers_of_keeps (State.raise_keeps _ _ _) (by decide)

theorem State.consumers_generate (s : State) (i n : Nat) : (s.generate i n).2.consumers = s.consumers := by
  unfold State.generate
  dsimp only
  have hqueued (c : Prop) [Decidable c] (d : Drbg) :
      (if c then (s.setDrbg i d).queueReseed i else s.setDrbg i d).consumers = s.consumers := by
    split
    · exact State.consumers_queueReseed _ _
    · rfl
  split
  · split
    · exact (State.consumers_raise _ _ _).trans (hqueued _ _)
    · exact (State.consumers_raise _ _ _).trans (hqueued _ _)
  · exact hqueued _ _

theorem State.exp_generate (s : State) (i n e : Nat) : (s.generate i n).2.exp e = s.exp e :=
  congrArg (fun x : Tbl Expander × Tbl Bytes × Tbl RndFifo => tget Expander.reset x.1 e) (s.consumers_generate i n)

theorem State.blind_generate (s : State) (i n u : Nat) : (s.generate i n).2.blind u = s.blind u :=
  congrArg (fun x : Tbl Expander × Tbl Bytes × Tbl RndFifo => tget [] x.2.1 u) (s.consumers_generate i n)

theorem State.fifo_generate (s : State) (i n fn : Nat) : (s.generate i n).2.fifo fn = s.fifo fn :=
  congrArg (fun x : Tbl Expander × Tbl Bytes × Tbl RndFifo => tget RndFifo.reset x.2.2 fn) (s.consumers_generate i n)

/-! ## Stalls that end (R217) -/

theorem State.resume_not_throttled (s : State) (k : Nat) : ((s.resume k).tile k).throttled = false := by
  unfold State.resume
  split
  · exact congrArg Tile.throttled (State.tile_setTile_same _ _ _)
  · exact eq_false_of_ne_true ‹_›

theorem State.resume_keeps_not_throttled {s : State} {n : Nat} (k : Nat) (h : (s.tile n).throttled = false) :
    ((s.resume k).tile n).throttled = false := by
  by_cases hk : k = n
  · subst hk
    exact s.resume_not_throttled k
  · unfold State.resume
    split
    · exact (congrArg Tile.throttled ((State.tile_setTile _ _ _ _).trans (if_neg hk))).trans h
    · exact h

theorem State.foldl_resume_not_throttled {ks : List Nat} (s : State) {k : Nat} (h : k ∈ ks) :
    ((ks.foldl State.resume s).tile k).throttled = false :=
  foldl_establishes (P := fun s : State => (s.tile k).throttled = false) (fun s => s.resume_not_throttled k) ks s h
    fun b _ _ hs => State.resume_keeps_not_throttled b hs

/-! ## Mask expanders (R273, R274) -/

/-- The command's condition: an expander outside a FRAMED tile that is unseeded, due or at its limit. -/
theorem State.mayReseedExp_iff (s : State) (e : Nat) :
    (e < 224 && !s.expFramed e && (!(s.exp e).seeded || (s.exp e).due || (s.exp e).throttled)) = true ↔
      e < 224 ∧ s.expFramed e = false ∧ ((s.exp e).seeded = false ∨ (s.exp e).due = true ∨ (s.exp e).throttled = true) := by
  simp [and_assoc, or_assoc]

theorem exec_maskExpanderReseed_wanted {s : State} {e : Nat} (ha : s.alive = true) (he : e < 224)
    (hf : s.expFramed e = false) (hw : (s.exp e).seeded = false ∨ (s.exp e).due = true ∨ (s.exp e).throttled = true) :
    exec (.maskExpanderReseed e) s = .next (s.reseedExp e) :=
  (engineCmd_of_alive ha).trans (congrArg _ (if_pos ((s.mayReseedExp_iff e).2 ⟨he, hf, hw⟩)))

theorem exec_maskExpanderReseed_idle {s : State} {e : Nat} (ha : s.alive = true)
    (h : 224 ≤ e ∨ s.expFramed e = true ∨
      ((s.exp e).seeded = true ∧ (s.exp e).due = false ∧ (s.exp e).throttled = false)) :
    exec (.maskExpanderReseed e) s = .next s := by
  refine (engineCmd_of_alive ha).trans (congrArg _ (if_neg fun k => ?_))
  obtain ⟨he, hf, hw⟩ := (s.mayReseedExp_iff e).1 k
  obtain hlarge | hframed | ⟨hs, hd, ht⟩ := h
  · omega
  · exact absurd (hf.symm.trans hframed) nofun
  · simp [hs, hd, ht] at hw

/-- An expander after a reseed with these bytes, in this frame slot (R218, R273). -/
def Expander.reseeded (x : Expander) (bytes : Bytes) (e slot : Nat) : Expander :=
  { x with sponge := Config.expanderAbsorb x.sponge bytes e x.reseeds, seeded := true, blocks := 0, due := false,
           throttled := false, reseeds := x.reseeds + 1, slot := some slot }

/-- A reseed is a generate request whose bytes go into the expander, after which the units of its tile resume. -/
theorem State.reseedExp_of_open {s : State} (e : Nat) (h : s.drbgOpen devInst = true) :
    s.reseedExp e = (expUnits e).foldl State.resume ((s.generate devInst 32).2.setExp e
      ((s.exp e).reseeded (s.generate devInst 32).1 e (s.generate devInst 32).2.slotNo)) := by
  rw [← s.exp_generate devInst 32 e]
  exact if_pos h

theorem State.exp_reseedExp {s : State} (e i : Nat) (h : s.drbgOpen devInst = true) :
    (s.reseedExp e).exp i = if e = i then
      (s.exp e).reseeded (s.generate devInst 32).1 e (s.generate devInst 32).2.slotNo else s.exp i := by
  rw [State.reseedExp_of_open e h, State.exp, Keeps.foldl State.resume_keeps _ _ .spr (by decide), ← State.exp,
    State.exp_setExp, State.exp_generate]

theorem State.reseedExp_not_throttled {s : State} {e k : Nat} (h : s.drbgOpen devInst = true) (hk : k ∈ expUnits e) :
    ((s.reseedExp e).tile k).throttled = false := by
  rw [State.reseedExp_of_open e h]
  exact State.foldl_resume_not_throttled _ hk

/-! ## Blinding buffers (R275) -/

theorem exec_blindingBufferRefill_of_alive {s : State} {u : Nat} (ha : s.alive = true) (hu : u < 32) :
    exec (.blindingBufferRefill u) s = .next (s.refillBlind u) :=
  (engineCmd_of_alive ha).trans (congrArg _ (if_pos hu))

theorem State.refillBlind_of_low {s : State} {u : Nat} (h : s.drbgOpen devInst = true) (hl : (s.blind u).length ≤ 256) :
    s.refillBlind u = ((s.generate devInst 256).2.setBlind u (s.blind u ++ (s.generate devInst 256).1)).resume
      (tkey .bnu u) := by
  rw [← s.blind_generate devInst 256 u]
  exact if_pos (by rw [h, decide_eq_true hl]; rfl)

theorem State.refillBlind_of_full {s : State} {u : Nat} (hl : 256 < (s.blind u).length) : s.refillBlind u = s :=
  if_neg (by rw [decide_eq_false (Nat.not_le.2 hl), Bool.and_false]; nofun)

theorem State.blind_refillBlind {s : State} {u : Nat} (i : Nat) (h : s.drbgOpen devInst = true)
    (hl : (s.blind u).length ≤ 256) :
    (s.refillBlind u).blind i = if u = i then s.blind u ++ (s.generate devInst 256).1 else s.blind i := by
  rw [State.refillBlind_of_low h hl, State.blind, State.resume_keeps _ _ .spr (by decide), ← State.blind,
    State.blind_setBlind, State.blind_generate]

theorem State.refillBlind_not_throttled {s : State} {u : Nat} (h : s.drbgOpen devInst = true)
    (hl : (s.blind u).length ≤ 256) : ((s.refillBlind u).tile (tkey .bnu u)).throttled = false := by
  rw [State.refillBlind_of_low h hl]
  exact State.resume_not_throttled _ _

/-! ## The refill of a random-data window (R276) -/

theorem State.refillFifo_of_low {s : State} {fn r : Nat} (hr : s.cfg.reachOf fn = some r) (ho : s.drbgOpen r = true)
    (ht : s.drawTurn r = true) (hl : (s.fifo fn).bytes.length ≤ 128) :
    s.refillFifo fn = (s.generate r (256 - (s.fifo fn).bytes.length)).2.setFifo fn { s.fifo fn with
      bytes := (s.fifo fn).bytes ++ (s.generate r (256 - (s.fifo fn).bytes.length)).1 } := by
  unfold State.refillFifo
  rw [hr]
  dsimp only
  rw [if_pos (by rw [ho, ht, decide_eq_true hl]; rfl), State.fifo_generate]

theorem State.refillFifo_of_full {s : State} {fn : Nat} (hl : 128 < (s.fifo fn).bytes.length) : s.refillFifo fn = s := by
  unfold State.refillFifo
  split
  · rfl
  · exact if_neg (by rw [decide_eq_false (Nat.not_le.2 hl), Bool.and_false]; nofun)

/-! ## Reads of a random-data window (R276, R277) -/

theorem State.rndRead_absent {s : State} {fn : Nat} (f : State → State) (ho : s.fnOpen fn = true) (h0 : fn ≠ 0)
    (hc : s.fnConfigured fn = false) : s.rndRead fn f = s.sent (.readData (zeros 4)) := by
  simp [State.rndRead, ho, h0, hc]

theorem State.rndRead_present {s : State} {fn : Nat} (f : State → State) (ho : s.fnOpen fn = true)
    (hc : fn = 0 ∨ s.fnConfigured fn = true) : s.rndRead fn f = f s := by
  obtain rfl | hc := hc
  · simp [State.rndRead, ho]
  · simp [State.rndRead, ho, hc]

/-- The window after a DATA_LO read that finds no draw (R277). -/
def RndFifo.dry (f : RndFifo) : RndFifo := { f with latch := zeros 4, err := true }

theorem State.readLo_of_ready {s : State} {fn : Nat} (hr : s.spr.st = .running) (hl : 8 ≤ (s.fifo fn).bytes.length) :
    s.readLo fn = (s.setFifo fn { s.fifo fn with
      bytes := (s.fifo fn).bytes.drop 8, latch := slice (s.fifo fn).bytes 4 4 }).sent
        (.readData ((s.fifo fn).bytes.take 4)) := if_pos ⟨hr, hl⟩

/-- Every event number of a reach is listed (R455). -/
theorem eventListed_reach {r k : Nat} (hr : r < 64) (hk : k < 4) : eventListed (0x300 + 4 * r + k) = true := by
  rw [eventListed, if_neg (by omega), if_neg (by omega), if_neg (by omega), if_neg (by omega)]
  exact decide_eq_true (by omega)

/-- Without a draw, DATA_LO reads 0 after an event of the function's reach where ERR was clear. -/
theorem State.readLo_of_dry {s : State} {fn : Nat} (h : s.spr.st ≠ .running ∨ (s.fifo fn).bytes.length < 8) :
    ∃ u : State, s.readLo fn = u.sent (.readData (zeros 4)) ∧ u.fifo fn = (s.fifo fn).dry ∧
      ∀ r, r < 64 → s.cfg.reachOf fn = some r → (s.fifo fn).err = false →
        (u.source (0x300 + 4 * r + 2)).pending = true := by
  have hdry : ¬(s.spr.st = .running ∧ 8 ≤ (s.fifo fn).bytes.length) := fun k => h.elim (absurd k.1) (by omega)
  unfold State.readLo
  refine ⟨_, if_neg hdry, ?_⟩
  have hset : (s.setFifo fn (s.fifo fn).dry).fifo fn = (s.fifo fn).dry := State.fifo_setFifo_same _ _ _
  split
  · next r hr =>
    split
    · next herr => exact ⟨hset, fun _ _ _ hclear => absurd (hclear.symm.trans herr) nofun⟩
    · refine ⟨?_, fun r' hlt hr' _ => ?_⟩
      · rw [State.fifo, State.raiseReach_keeps _ _ _ _ .spr (by decide)]
        exact hset
      · obtain rfl : r = r' := Option.some.inj (hr.symm.trans hr')
        exact State.pending_raise_self _ _ (eventListed_reach hlt (by decide))
  · next hr => exact ⟨hset, fun _ _ hr' _ => absurd (hr.symm.trans hr') nofun⟩

section
variable {s : State} {fn : Nat}

theorem exec_rndDataRead_absent (ho : s.hostOpen = true) (hfn : s.fnOpen fn = true) (h0 : fn ≠ 0)
    (hc : s.fnConfigured fn = false) {c : Instr} (hm : c ∈ [Instr.rndDataLoRead fn, Instr.rndDataHiRead fn]) :
    exec c s = .next (s.sent (.readData (zeros 4))) := by
  have hread (f : State → State) : hostCmd s (s.rndRead fn f) = .next (s.sent (.readData (zeros 4))) :=
    (hostCmd_of_open ho).trans (congrArg _ (State.rndRead_absent f hfn h0 hc))
  obtain rfl | rfl : c = .rndDataLoRead fn ∨ c = .rndDataHiRead fn := by simpa using hm
  · exact hread _
  · exact hread _

theorem exec_rndDataLoRead_present (ho : s.hostOpen = true) (hfn : s.fnOpen fn = true)
    (hc : fn = 0 ∨ s.fnConfigured fn = true) : exec (.rndDataLoRead fn) s = .next (s.readLo fn) :=
  (hostCmd_of_open ho).trans (congrArg _ (State.rndRead_present _ hfn hc))

theorem exec_rndDataHiRead_present (ho : s.hostOpen = true) (hfn : s.fnOpen fn = true)
    (hc : fn = 0 ∨ s.fnConfigured fn = true) : exec (.rndDataHiRead fn) s = .next (s.readHi fn) :=
  (hostCmd_of_open ho).trans (congrArg _ (State.rndRead_present _ hfn hc))

end

/-! ## The obligation -/

/-- Settles O38: each consumer draws by one generate request, which leaves every other consumer alone. -/
theorem randomConsumersRefill : Obligations.RandomConsumersRefill := by
  refine ⟨fun s ha => ⟨fun e he ho hf hw => ?expander, fun e h => exec_maskExpanderReseed_idle ha h,
      fun u hu ho hl => ?blinding, fun u hl => ?full⟩,
    fun s fn => ⟨fun r ha hr ho ht hl => ?window, fun hl => ?filled,
      fun ho hfn h0 hc c hm => exec_rndDataRead_absent ho hfn h0 hc hm,
      fun ho hfn hc => ⟨fun hr hl => ?ready, fun hdry => ?dry, ?latch⟩,
      fun ho v => ⟨fun hu => ?unlocked, fun hu => ?locked⟩⟩⟩
  case expander =>
    have hexp (i : Nat) := State.exp_reseedExp (s := s) e i ho
    have hself := (hexp e).trans (if_pos rfl)
    exact ⟨_, exec_maskExpanderReseed_wanted ha he hf hw, by rw [hself]; rfl, by rw [hself]; rfl, by rw [hself]; rfl,
      by rw [hself]; rfl, by rw [hself]; rfl, fun k hk => State.reseedExp_not_throttled ho hk,
      fun i hi => (hexp i).trans (if_neg hi.symm), (s.reseedExp_keeps e).mono (by decide)⟩
  case blinding =>
    exact ⟨_, exec_blindingBufferRefill_of_alive ha hu, (State.blind_refillBlind u ho hl).trans (if_pos rfl),
      State.refillBlind_not_throttled ho hl, fun i hi => (State.blind_refillBlind i ho hl).trans (if_neg hi.symm),
      (s.refillBlind_keeps u).mono (by decide)⟩
  case full =>
    refine (engineCmd_of_alive ha).trans (congrArg _ ?_)
    rw [State.refillBlind_of_full hl, ite_self]
  case window =>
    have hfill := State.refillFifo_of_low hr ho ht hl
    refine ⟨s.refillFifo fn, engineCmd_of_alive ha, ?_, fun i hi => ?_, (s.refillFifo_keeps fn).mono (by decide)⟩
    · rw [hfill]
      exact State.fifo_setFifo_same _ _ _
    · rw [hfill, State.fifo_setFifo, if_neg hi.symm, State.fifo_generate]
  case filled =>
    show engineCmd s (s.refillFifo fn) = _
    rw [State.refillFifo_of_full hl, engineCmd_self]
  case ready =>
    refine ⟨_, exec_rndDataLoRead_present ho hfn hc, ?_⟩
    rw [State.readLo_of_ready hr hl]
    exact ⟨State.fifo_setFifo_same _ _ _, rfl,
      (State.sent_keeps _ _).via (by decide) ((State.setFifo_keeps _ _ _).mono (by decide))⟩
  case dry =>
    obtain ⟨u, hread, hfifo, hevent⟩ := State.readLo_of_dry hdry
    refine ⟨_, exec_rndDataLoRead_present ho hfn hc, ?_, ?_, ?_, (s.readLo_keeps fn).mono (by decide)⟩
    · rw [hread]
      exact hfifo
    · rw [hread]
      exact List.mem_append_right _ (List.mem_singleton.2 rfl)
    · rw [hread]
      exact hevent
  case latch =>
    exact ⟨_, exec_rndDataHiRead_present ho hfn hc, State.fifo_setFifo_same _ _ _, rfl, s.readHi_keeps fn⟩
  case unlocked => exact (hostCmd_of_open ho).trans (congrArg _ (if_pos hu))
  case locked => exact (hostCmd_of_open ho).trans (congrArg _ (if_neg hu))

end Sys2Proof.Machine
end

section
/-! What sending leaves of the Confluence block (R376 to R379): the neighbours behind the ports, the requests that wait, and what
this device has learned of the cluster; through events and through the end of a job. -/

namespace Sys2Proof.Machine

open Sys2Proof

/-! ## The Confluence block but for what sending moves on -/

/-- The ports and the block without the frame on the wire, the counters of frames and messages, and the numbers of the messages
sent and of the floods. -/
def State.heard (s : State) : (Nat → Port) × Cfl :=
  (fun p => { s.port p with wire := [], txFrames := 0 },
    { s.cfl with ports := [], seq := 0, seen := [], msgTx := 0, drop := 0 })

/-- The same without the requests that wait for an answer. -/
def State.links (s : State) : (Nat → Port) × Cfl := (s.heard.1, { s.heard.2 with pendingReq := [] })

theorem State.heard_of_cfl {s t : State} (h : t.cfl = s.cfl) : t.heard = s.heard := by
  rw [State.heard, h, State.heard]
  simp only [State.port, h]

theorem State.heard_of_keeps {ps : List Part} {s t : State} (h : Keeps ps s t) (hs : Part.cfl ∉ ps) :
    t.heard = s.heard := State.heard_of_cfl (h .cfl hs)

theorem State.links_of_heard {s t : State} (h : t.heard = s.heard) : t.links = s.links := by
  rw [State.links, h, State.links]

theorem State.pendingReq_of_heard {s t : State} (h : t.heard = s.heard) : t.cfl.pendingReq = s.cfl.pendingReq :=
  congrArg (fun x : (Nat → Port) × Cfl => x.2.pendingReq) h

theorem State.staleIn_of_heard {s t : State} (h : t.heard = s.heard) : t.cfl.staleIn = s.cfl.staleIn :=
  congrArg (fun x : (Nat → Port) × Cfl => x.2.staleIn) h

/-! ## Messages and events -/

theorem State.heard_sendFrame (s : State) (p cls dest : Nat) (body : Bytes) :
    (s.sendFrame p cls dest body).heard = s.heard := by
  refine Prod.ext (funext fun q => ?_) rfl
  show ({ (s.sendFrame p cls dest body).port q with wire := [], txFrames := 0 } : Port) = _
  by_cases hq : p = q
  · subst hq
    rw [State.sendFrame, State.port_setPort_same]
    rfl
  · rw [State.sendFrame, State.port_setPort, if_neg hq]
    rfl

theorem State.heard_sendAs (s : State) (seq cls flags reach dst epoch status : Nat) (payload : Bytes) :
    (s.sendAs seq cls flags reach dst epoch status payload).heard = s.heard := by
  unfold State.sendAs
  split
  · rfl
  · exact State.heard_sendFrame _ _ _ _ _

theorem State.heard_sendNew (s : State) (cls reach dst epoch : Nat) (payload : Bytes) :
    (s.sendNew cls reach dst epoch payload).heard = s.heard := State.heard_sendAs _ _ _ _ _ _ _ _ _

theorem State.heard_flooded (s : State) (n : Nat) (xs : List (Nat × Nat)) :
    State.heard { s.countTx with cfl := { s.countTx.cfl with seq := n, seen := xs } } = s.heard := rfl

theorem State.heard_flood (s : State) (cls : Nat) (payload : Bytes) : (s.flood cls payload).heard = s.heard := by
  unfold State.flood
  exact (State.heard_flooded _ _ _).trans
    (foldl_eq_of_step (g := State.heard) (fun t p => t.heard_sendFrame p cls 0xFFFF _) s.upPorts s)

theorem State.heard_requestCapture (s : State) (t : Trigger) : (s.requestCapture t).heard = s.heard := by
  have hlater (u : State) : (if u.snp.frozen then { u with snp := u.snp.missOne }
      else if u.snp.arm && u.rst.inService then u.takeCapture t else u).heard = u.heard := by
    split
    · rfl
    · split
      · exact State.heard_of_keeps (State.takeCapture_keeps _ _) (by decide)
      · rfl
  unfold State.requestCapture
  dsimp only
  split
  · rfl
  · refine (hlater _).trans ?_
    split
    · exact State.heard_flood _ _ _
    · rfl

theorem State.heard_raise (s : State) (src cause : Nat) : (s.raise src cause).heard = s.heard := by
  have hown : (s.raise0 src cause).heard = s.heard := State.heard_of_keeps (State.raise0_keeps _ _ _) (by decide)
  unfold State.raise
  dsimp only
  split
  · exact (State.heard_requestCapture _ _).trans hown
  · exact hown

/-! ## The end of a job that fails (R122) -/

theorem State.heard_recover (s : State) (i : Nat) : (s.recover i).heard = s.heard := State.heard_raise _ _ _

theorem State.heard_leaveTile (s : State) (k : Nat) : (s.leaveTile k).heard = s.heard := by
  have hrecovers (c : Prop) [Decidable c] (u : State) (i : Nat) : (if c then u.recover i else u).heard = u.heard := by
    split
    · exact State.heard_recover _ _
    · rfl
  refine (hrecovers _ _ _).trans (State.heard_of_keeps (ps := [.weir, .tiles, .cores]) ?_ (by decide))
  refine Keeps.via (State.setTile_keeps _ _ _) (by decide) ?_
  have hstall : Keeps [.weir, .tiles, .cores] s (State.endStall (if ((s.tile k).node.bind fun n => s.job n.1).any
      (fun j => j.entry.prio == 0) then s else
        s.chargeCredit k (s.tile k).reach (s.cyclesOf (s.now - (s.tile k).startNs))) k) :=
    Keeps.via (State.endStall_keeps _ _) (by decide)
      (Keeps.ite (Keeps.refl _ _) ((State.chargeCredit_keeps _ _ _ _).mono (by decide)))
  exact Keeps.ite ((State.setCore_keeps _ _ _).via (by decide) hstall) hstall

theorem State.heard_freeTiles (s : State) (id : Nat) (all : Bool) : (s.freeTiles id all).heard = s.heard :=
  foldl_eq_of_step (g := State.heard) State.heard_leaveTile (s.jobTiles id all) s

/-- A job without a status that fails ends with the status given, and sends nothing but events. -/
theorem State.endJob_fails {s : State} {j : Job} {st : Status} (hst : st.success = false) (hj : s.job j.id = some j)
    (hs : j.status = none) (d : Nat) :
    JobEnds j st d [] (s.endJob j.id st d) ∧ (s.endJob j.id st d).heard = s.heard := by
  have hok : ¬(decide (st = .ok) && j.abortLate) = true := fun h => by
    obtain rfl : st = .ok := of_decide_eq_true (Bool.and_eq_true_iff.1 h).1
    exact absurd hst (by decide)
  unfold State.endJob
  rw [hj]
  dsimp only
  rw [if_neg (by rw [hs]; decide)]
  simp only [if_neg hok, hst, Bool.false_or, Bool.false_eq_true, if_false]
  have dropped := State.dropReservation_keeps s j
  have counted : Keeps [.slots, .stores] s (if (st == .verifyFalse) = true then s.dropReservation j
      else (s.dropReservation j).countAbandon fun n => n.1 == j.id) :=
    Keeps.ite (dropped.mono (by decide)) ((State.countAbandon_keeps _ _).via (by decide) (dropped.mono (by decide)))
  generalize (if (st == .verifyFalse) = true then s.dropReservation j
      else (s.dropReservation j).countAbandon fun n => n.1 == j.id) = w at counted
  have wiped := State.wipeCtxs_keeps (w.freeTiles j.id st.endsAll) j
  have hjob : ((w.freeTiles j.id st.endsAll).wipeCtxs j).job j.id = some j :=
    (State.job_of_keeps wiped (by decide) _).trans <|
      (State.job_of_keeps (State.freeTiles_keeps _ _ _) (by decide) _).trans <|
      (State.job_of_keeps counted (by decide) _).trans hj
  have hheard : ((w.freeTiles j.id st.endsAll).wipeCtxs j).heard = s.heard :=
    (State.heard_of_keeps wiped (by decide)).trans <|
      (State.heard_freeTiles _ _ _).trans (State.heard_of_keeps counted (by decide))
  exact ⟨⟨_, State.job_setJob_of_job (j := { j.cancelNodes _ with
    status := some st, detail := d, st := .ended, output := [], stage := [],
    extend := if j.committed = true then j.extend else none, reserved := none }) hjob, rfl, rfl, rfl, rfl⟩, hheard⟩

theorem State.heard_endJob {st : Status} (hst : st.success = false) (s : State) (id d : Nat) :
    (s.endJob id st d).heard = s.heard := by
  cases hj : s.job id with
  | none => rw [State.endJob, hj]
  | some j =>
    obtain rfl : j.id = id := State.id_of_job hj
    cases hs : j.status with
    | some x =>
      rw [State.endJob, hj]
      exact congrArg State.heard (if_pos (by rw [hs]; rfl))
    | none => exact (State.endJob_fails hst hj hs d).2

end Sys2Proof.Machine
end

section
/-! Lease requests and their answers (R81, R177, R306 to R310, R381, R387, R388): what the home device replies, how a request
ends without a grant, what a grant brings to its slot, and the one refusal that is not final. -/

namespace Sys2Proof.Machine

open Sys2Proof

/-! ## Replies (R377, R379) -/

/-- What routes and epochs are learned from: the state of each port, the peer behind it, and the epochs that it advertised. -/
def State.neighbours (s : State) (p : Nat) : PortSt × Nat × List (Nat × Nat) :=
  ((s.port p).st, (s.port p).peerDev, (s.port p).peerEpochs)

theorem State.neighbours_of_heard {s t : State} (h : t.heard = s.heard) : t.neighbours = s.neighbours :=
  congrArg (fun (x : (Nat → Port) × Cfl) p => ((x.1 p).st, (x.1 p).peerDev, (x.1 p).peerEpochs)) h

theorem State.neighbours_countRx (s : State) (p : Nat) : (s.countRx p).neighbours = s.neighbours := by
  funext q
  show (_, _, _) = (_, _, _)
  have hport : (s.countRx p).port q =
      if p = q then { s.port p with rxFrames := (s.port p).rxFrames + 1 } else s.port q := State.port_setPort _ _ _ _
  rw [hport]
  split
  · next e => rw [← e]
  · rfl

/-- The answer to the request `h` that leaves through the port `q`. -/
def State.replyOut (s : State) (h : MsgHdr) (q cls status : Nat) (body : Bytes) : Out :=
  .frame q cls h.src (msgHeader cls 0 48 h.reach s.devId h.src (s.knownEpoch h.src h.reach) h.seq body.length status ++ body)

section

variable {s u : State} (hcfg : u.cfg = s.cfg) (hn : u.neighbours = s.neighbours)

include hcfg hn

theorem State.routeTo_of_neighbours (dst : Nat) : u.routeTo dst = s.routeTo dst := by
  have hst (p : Nat) : (u.port p).st = (s.port p).st := congrArg Prod.fst (congrFun hn p)
  have hdev (p : Nat) : (u.port p).peerDev = (s.port p).peerDev := congrArg (fun x => x.2.1) (congrFun hn p)
  have hup : u.isUp = s.isUp := funext fun p => congrArg (· == .up) (hst p)
  have htoward : u.portToward = s.portToward := by
    funext c dir
    simp only [State.portToward, hup, hdev]
  have hentry : u.routeEntry = s.routeEntry := by
    funext c d
    rw [State.routeEntry, State.routeEntry, htoward, hup]
  rw [State.routeTo, State.routeTo, hcfg, hentry, htoward]

theorem State.replyOut_of_neighbours (h : MsgHdr) (q cls status : Nat) (body : Bytes) :
    u.replyOut h q cls status body = s.replyOut h q cls status body := by
  have hst (p : Nat) : (u.port p).st = (s.port p).st := congrArg Prod.fst (congrFun hn p)
  have hdev (p : Nat) : (u.port p).peerDev = (s.port p).peerDev := congrArg (fun x => x.2.1) (congrFun hn p)
  have hepochs (p : Nat) : (u.port p).peerEpochs = (s.port p).peerEpochs := congrArg (fun x => x.2.2) (congrFun hn p)
  simp only [State.replyOut, State.knownEpoch, State.upPorts, Port.epochOf, State.devId, hcfg, hst, hdev, hepochs]

/-- An answer with a route is the last message of the state it leaves. -/
theorem State.tx_answer {h : MsgHdr} {q : Nat} (hq : s.routeTo h.src = some q) (cls status : Nat) (body : Bytes) :
    (u.answer h cls status body).tx = u.tx ++ [s.replyOut h q cls status body] := by
  rw [← State.replyOut_of_neighbours hcfg hn]
  unfold State.answer State.sendAs
  rw [State.routeTo_of_neighbours hcfg hn, hq]
  rfl

end

theorem State.tx_refuseReq (s : State) (h : MsgHdr) (st : Status) :
    (s.refuseReq h st).tx = (s.answer h 0x07 st.code []).tx := by
  unfold State.refuseReq
  dsimp only
  split <;> rfl

/-- R381: a refusal with STALE_ROLE counts in CFL_STALE_IN. -/
theorem State.staleIn_refuseReq (s : State) (h : MsgHdr) :
    (s.refuseReq h .staleRole).cfl.staleIn = satAdd 0xFFFFFFFF s.cfl.staleIn 1 :=
  congrArg (satAdd 0xFFFFFFFF · 1) (State.staleIn_of_heard (State.heard_sendAs _ _ _ _ _ _ _ _ _))

/-! ## Messages for this device -/

theorem State.hearsReply_of_up {s : State} {p : Nat} {h : MsgHdr} (hup : (s.port p).st = .up) (hdst : h.dst = s.devId) :
    s.hearsReply p h = true := by simp [State.hearsReply, State.isUp, hup, hdst]

theorem State.hearsRequest_of_up {s : State} {p : Nat} {h : MsgHdr} (hup : (s.port p).st = .up) (hdst : h.dst = s.devId)
    (hf : s.rst.fenced = false) (hl : s.lev.fenced = false) : s.hearsRequest p h = true := by
  simp [State.hearsRequest, State.isUp, hup, hdst, hf, hl]

/-- R387: a fenced device acts on no request. -/
theorem State.hearsRequest_of_fenced {s : State} (p : Nat) (h : MsgHdr) (hf : s.rst.fenced = true ∨ s.lev.fenced = true) :
    s.hearsRequest p h = false := by
  obtain hf | hf := hf <;> simp [State.hearsRequest, hf]

/-! ## Lease requests (R81, R307, R309) -/

section

variable {s : State} {h : MsgHdr} {keyId : Bytes}

theorem State.gotLeaseReq_of_stale (he : s.epochOk h = false) : s.gotLeaseReq h keyId = s.refuseReq h .staleRole :=
  if_pos (by rw [he]; rfl)

variable (he : s.epochOk h = true)

include he

theorem State.gotLeaseReq_of_quiescing (hq : (s.reach h.reach).st = .quiescing ∨ (s.reach h.reach).st = .quiesced) :
    s.gotLeaseReq h keyId = s.refuseReq h .reachQuiescing := (if_neg (by rw [he]; decide)).trans (if_pos hq)

variable (hs : (s.reach h.reach).st = .serving)

include hs

theorem State.gotLeaseReq_of_lease {l : Lease} {r : KeyRec} (hl : s.homeLease keyId = .ok l)
    (hr : s.record keyId = some r) : s.gotLeaseReq h keyId =
      (s.setRecord { r with floor := max r.floor l.stop, grants := r.grants + 1 }).answer h 0x06 0
        (toLe 8 l.next ++ toLe 8 l.stop ++ toLe 8 (r.limit - l.stop)) := by
  unfold State.gotLeaseReq
  rw [if_neg (by rw [he]; decide), if_neg (by rw [hs]; decide), hl, hr]

theorem State.gotLeaseReq_of_exhausted {e : Nat} (hl : s.homeLease keyId = .error e) : s.gotLeaseReq h keyId =
    (s.unusableEvent keyId).answer h 0x06 Status.leaseExhausted.code [] := by
  unfold State.gotLeaseReq
  rw [if_neg (by rw [he]; decide), if_neg (by rw [hs]; decide), hl]

end

/-- R307: the record found after a grant is the one written. -/
theorem State.record_setRecord_granted {s : State} {keyId : Bytes} {r : KeyRec} (h : s.record keyId = some r) (l : Lease) :
    (s.setRecord { r with floor := max r.floor l.stop, grants := r.grants + 1 }).record keyId =
      some (KeyRec.sealed s.kst.lmk { r with floor := max r.floor l.stop, grants := r.grants + 1 }) := by
  have hfind := State.find_recordsWith (x := { Slot.reset with keyId := keyId }) h l
  rwa [State.recordsWith, h] at hfind

theorem State.heard_unusableEvent (s : State) (keyId : Bytes) : (s.unusableEvent keyId).heard = s.heard := by
  unfold State.unusableEvent
  split
  · exact State.heard_raise _ _ _
  · rfl

section

variable {s : State} {p : Nat} {h : MsgHdr} (ha : s.alive = true) (hup : (s.port p).st = .up) (hdst : h.dst = s.devId)

theorem exec_leaseReq_of_fenced {keyId : Bytes} (hf : s.rst.fenced = true ∨ s.lev.fenced = true) :
    exec (.leaseReq p h keyId) s = .next s := by
  show engineCmd s (if s.hearsRequest p h then (s.countRx p).gotLeaseReq h keyId else s) = _
  rw [State.hearsRequest_of_fenced p h hf]
  exact engineCmd_self s

include ha hup hdst

theorem exec_leaseReq_of_heard {keyId : Bytes} (hf : s.rst.fenced = false) (hl : s.lev.fenced = false) :
    exec (.leaseReq p h keyId) s = .next ((s.countRx p).gotLeaseReq h keyId) :=
  (engineCmd_of_alive ha).trans (congrArg _ (if_pos (State.hearsRequest_of_up hup hdst hf hl)))

theorem exec_leaseGrant_of_heard {start stop remain : Nat} :
    exec (.leaseGrant p h start stop remain) s = .next ((s.countRx p).gotGrant h start stop remain) :=
  (engineCmd_of_alive ha).trans (congrArg _ (if_pos (State.hearsReply_of_up hup hdst)))

theorem exec_refuse_of_heard {status : Nat} : exec (.refuse p h status) s = .next ((s.countRx p).gotRefuse h status) :=
  (engineCmd_of_alive ha).trans (congrArg _ (if_pos (State.hearsReply_of_up hup hdst)))

/-- R81, R309, R381: the four answers of a device that is not fenced to a lease request. -/
theorem leaseReq_answers {keyId : Bytes} {q : Nat} (hf : s.rst.fenced = false) (hl : s.lev.fenced = false)
    (hq : s.routeTo h.src = some q) :
    (s.epochOk h = false → Answers (.leaseReq p h keyId) s fun t =>
      t.tx = s.tx ++ [s.replyOut h q 0x07 Status.staleRole.code []] ∧
      t.cfl.staleIn = satAdd 0xFFFFFFFF s.cfl.staleIn 1 ∧ Keeps [.cfl, .tx] s t) ∧
    (s.epochOk h = true → (s.reach h.reach).st = .quiescing ∨ (s.reach h.reach).st = .quiesced →
      Answers (.leaseReq p h keyId) s fun t =>
        t.tx = s.tx ++ [s.replyOut h q 0x07 Status.reachQuiescing.code []] ∧ Keeps [.cfl, .tx] s t) ∧
    (∀ l r, s.epochOk h = true → (s.reach h.reach).st = .serving → s.homeLease keyId = .ok l →
      s.record keyId = some r → Answers (.leaseReq p h keyId) s fun t =>
        t.tx = s.tx ++ [s.replyOut h q 0x06 0 (toLe 8 l.next ++ toLe 8 l.stop ++ toLe 8 (r.limit - l.stop))] ∧
        t.record keyId = some (KeyRec.sealed s.kst.lmk { r with floor := max r.floor l.stop, grants := r.grants + 1 }) ∧
        Keeps [.records, .cfl, .tx] s t) ∧
    (∀ e, s.epochOk h = true → (s.reach h.reach).st = .serving → s.homeLease keyId = .error e →
      Answers (.leaseReq p h keyId) s fun t =>
        s.replyOut h q 0x06 Status.leaseExhausted.code [] ∈ t.tx ∧ t.records = s.records ∧ Keeps eventParts s t) := by
  have hexec := exec_leaseReq_of_heard (keyId := keyId) ha hup hdst hf hl
  have hcount : Keeps [.cfl] s (s.countRx p) := s.countRx_keeps p
  have hn := s.neighbours_countRx p
  refine ⟨fun he => ?stale, fun he hr => ?quiescing, fun l r he hs hlease hr => ?granted, fun e he hs hlease => ?refused⟩
  case stale =>
    rw [State.gotLeaseReq_of_stale (s := s.countRx p) he] at hexec
    refine ⟨_, hexec, ?_, State.staleIn_refuseReq _ _,
      (State.refuseReq_keeps _ _ _).via (by decide) (hcount.mono (by decide))⟩
    rw [State.tx_refuseReq]
    exact State.tx_answer (s := s) (u := s.countRx p) rfl hn hq _ _ _
  case quiescing =>
    rw [State.gotLeaseReq_of_quiescing (s := s.countRx p) he hr] at hexec
    refine ⟨_, hexec, ?_, (State.refuseReq_keeps _ _ _).via (by decide) (hcount.mono (by decide))⟩
    rw [State.tx_refuseReq]
    exact State.tx_answer (s := s) (u := s.countRx p) rfl hn hq _ _ _
  case granted =>
    rw [State.gotLeaseReq_of_lease (s := s.countRx p) he hs hlease hr] at hexec
    have hanswer := State.answer_keeps ((s.countRx p).setRecord { r with floor := max r.floor l.stop, grants := r.grants + 1 })
      h 0x06 0 (toLe 8 l.next ++ toLe 8 l.stop ++ toLe 8 (r.limit - l.stop))
    refine ⟨_, hexec, State.tx_answer (s := s) (u := (s.countRx p).setRecord _) rfl hn hq _ _ _, ?_,
      hanswer.via (by decide) ((State.setRecord_keeps _ _).via (by decide) (hcount.mono (by decide)))⟩
    rw [State.record, hanswer .records (by decide)]
    exact State.record_setRecord_granted (s := s.countRx p) hr l
  case refused =>
    rw [State.gotLeaseReq_of_exhausted (s := s.countRx p) he hs hlease] at hexec
    have hevent : Keeps eventParts s ((s.countRx p).unusableEvent keyId) :=
      (State.unusableEvent_keeps _ _).via (by decide) (hcount.mono (by decide))
    have hkeeps : Keeps eventParts s (((s.countRx p).unusableEvent keyId).answer h 0x06 Status.leaseExhausted.code []) :=
      (State.answer_keeps _ _ _ _ _).via (by decide) hevent
    refine ⟨_, hexec, ?_, hkeeps .records (by decide), hkeeps⟩
    rw [State.tx_answer (hevent .cfg (by decide)) ((State.neighbours_of_heard (State.heard_unusableEvent _ _)).trans hn) hq]
    exact List.mem_append_right _ (List.mem_singleton_self _)

end

/-! ## Requests that end without a grant (R310) -/

theorem State.dropReq_drops (s : State) (id : Nat) : ∀ y ∈ (s.dropReq id).cfl.pendingReq, y.id ≠ id := fun y hy => by
  simpa using (List.mem_filter.1 hy).2

theorem State.heard_leaseFails (s : State) (q : CflReq) : (s.leaseFails q).heard = (s.dropReq q.id).heard := by
  unfold State.leaseFails
  dsimp only
  split
  · rfl
  · exact (State.heard_raise _ _ _).trans (State.heard_endJob rfl _ _ _)

theorem State.leaseFails_drops (s : State) (q : CflReq) : ∀ y ∈ (s.leaseFails q).cfl.pendingReq, y.id ≠ q.id := by
  rw [State.pendingReq_of_heard (s.heard_leaseFails q)]
  exact s.dropReq_drops q.id

theorem State.leaseFails_ends {s : State} {q : CflReq} {j : Job} (hq : q.job = some j.id) (hj : s.job j.id = some j)
    (hs : j.status = none) : JobEnds j .leaseExhausted 3 [] (s.leaseFails q) := by
  unfold State.leaseFails
  rw [hq]
  exact (State.endJob_fails (s := s.dropReq q.id) rfl hj hs 3).1.of_job
    (State.job_of_keeps (State.raiseReach_keeps _ _ _ _) (by decide) _)

theorem State.now_leaseFails (s : State) (q : CflReq) : (s.leaseFails q).now = s.now := s.leaseFails_keeps q .now (by decide)

/-! ## Grants (R177, R307, R310) -/

section

variable {s : State} {h : MsgHdr} {start stop remain : Nat}

theorem State.gotGrant_of_unknown (hx : s.reqOf h = none) : s.gotGrant h start stop remain = s := by
  rw [State.gotGrant, hx]

variable {x : CflReq} (hx : s.reqOf h = some x) (hcls : x.cls = 0x06)

include hx hcls

theorem State.gotGrant_of_refused (hst : h.status ≠ 0) : s.gotGrant h start stop remain = s.leaseFails x := by
  unfold State.gotGrant
  rw [hx]
  dsimp only
  rw [if_neg (by rw [hcls]; decide), if_pos (by simpa using hst)]

variable (hst : h.status = 0) (hlive : (s.slot x.slot).st = .live)

include hst hlive

theorem State.gotGrant_of_current (hcur : Lease.some? (s.slot x.slot).cur = none) : s.gotGrant h start stop remain =
    ((s.dropReq x.id).setSlot x.slot { s.slot x.slot with
      remote := remain, cur := some { next := start, stop := stop, committed := true } }).drawWaiting x.slot := by
  unfold State.gotGrant
  rw [hx]
  dsimp -proj only
  rw [if_neg (by rw [hcls]; decide), if_neg (by rw [hst]; decide), if_neg (by rw [hlive]; decide),
    if_pos (by rw [hcur]; rfl)]

theorem State.gotGrant_of_next (hcur : Lease.some? (s.slot x.slot).cur ≠ none) : s.gotGrant h start stop remain =
    (s.dropReq x.id).setSlot x.slot { s.slot x.slot with
      remote := remain, nxt := some { next := start, stop := stop, committed := true } } := by
  unfold State.gotGrant
  rw [hx]
  dsimp -proj only
  rw [if_neg (by rw [hcls]; decide), if_neg (by rw [hst]; decide), if_neg (by rw [hlive]; decide),
    if_neg (by simpa using hcur)]

end

theorem State.drawWaiting_of_none {s : State} {n : Nat} (h : ∀ y ∈ s.jobs, y.drawsFrom n = false) : s.drawWaiting n = s := by
  have hnone : s.jobs.filter (fun y => y.drawsFrom n) = [] := List.filter_eq_nil_iff.2 fun y hy => by simp [h y hy]
  show List.foldl _ s (List.map _ (List.mergeSort (s.jobs.filter fun y => y.drawsFrom n) _)) = s
  rw [hnone, List.mergeSort_nil]
  rfl

theorem State.drawWaiting_of_one {s : State} {n : Nat} {j : Job} (h : (s.jobs.filter fun y => y.drawsFrom n) = [j]) :
    s.drawWaiting n = s.takeKey j.id := by
  show List.foldl _ s (List.map _ (List.mergeSort (s.jobs.filter fun y => y.drawsFrom n) _)) = _
  rw [h, List.mergeSort_singleton]
  rfl

/-- R177: the job that waits for a lease of its slot draws the first index of the slot's lease. -/
theorem State.takeKey_of_drawsFrom {s : State} {n : Nat} {j : Job} {o : Op} {v : Nat} {l : Lease} (hj : s.job j.id = some j)
    (hw : j.drawsFrom n = true) (hop : s.opOfJob j = some (o, v)) (hloads : o.loadsKey = true)
    (hdraws : o.drawsIndex = true) (hcopy : j.keyCopy = none) (hlive : (s.slot n).st = .live)
    (hl : (s.slot n).cur = some l) (hlt : l.next < l.stop) :
    ((s.takeKey j.id).job j.id).map Job.index = some (some l.next) ∧
      ((s.takeKey j.id).slot n).cur = some { l with next := l.next + 1 } := by
  simp only [Job.drawsFrom, Bool.and_eq_true, beq_iff_eq, Bool.not_eq_true', Option.isNone_iff_eq_none] at hw
  obtain ⟨⟨⟨⟨⟨hvalid, rfl⟩, -⟩, hindex⟩, -⟩, hgone⟩ := hw
  rw [State.takeKey_draws hj hop hvalid hcopy hindex hloads hdraws hgone hlive]
  obtain ⟨t, hdraw, hcur, -, ht⟩ := (s.drawing j).takeIndex_draws j.entry.slot l
  have hsome : Lease.some? ((s.drawing j).slot j.entry.slot).cur = some l :=
    (congrArg Lease.some? hl).trans (Lease.some?_of_lt hlt)
  have hasks : (s.drawing j).job j.id = some (s.asks j) := State.job_drawing hj
  obtain ⟨hfor, hjob⟩ := State.drawFor_of_index (j := s.asks j) hasks
    ((State.drawIndex_of_cur hsome).trans hdraw) ht
  refine ⟨(congrArg (Option.map Job.index) hjob :), ?_⟩
  rw [hfor]
  exact hcur

/-! ## Refusals (R381) -/

theorem State.gotRefuse_of_stale {s : State} {h : MsgHdr} {x : CflReq} (hx : s.reqOf h = some x) (hr : x.resent = false) :
    s.gotRefuse h Status.staleRole.code = { s with cfl := { s.cfl with
      pendingReq := s.cfl.pendingReq.map fun (r : CflReq) => if r.id = x.id then { r with again := true } else r } } := by
  unfold State.gotRefuse
  rw [hx]
  exact if_pos ⟨rfl, hr⟩

theorem State.gotRefuse_of_final {s : State} {h : MsgHdr} {x : CflReq} {status : Nat} (hx : s.reqOf h = some x)
    (hf : status ≠ Status.staleRole.code ∨ x.resent = true) : s.gotRefuse h status = s.reqFails x := by
  unfold State.gotRefuse
  rw [hx]
  exact if_neg fun ⟨hst, hr⟩ => hf.elim (absurd hst) fun h => absurd (h.symm.trans hr) nofun

/-- A request of another class than a lease's that is refused for good: it waits no longer, and a placement shows BAD_PARAMS. -/
def State.reqRefused (s : State) (q : CflReq) : State :=
  { s.dropReq q.id with kst := { s.kst with result := if q.place then Status.badParams.code else s.kst.result } }

section

variable {s : State} {q : CflReq} (hcls : q.cls ≠ 0x06)

include hcls

theorem State.reqFails_of_other : s.reqFails q = match q.job.bind s.job with
    | some j => if j.st = .spilled then (s.reqRefused q).spillHome j else s.reqRefused q
    | none => s.reqRefused q := by
  have hkst : (if q.place then { s.dropReq q.id with kst := { s.kst with result := Status.badParams.code } }
      else s.dropReq q.id) = s.reqRefused q := by
    unfold State.reqRefused
    cases q.place <;> rfl
  unfold State.reqFails
  rw [if_neg hcls, ← hkst]
  cases q.place <;> rfl

theorem State.reqFails_of_none (hj : q.job = none) : s.reqFails q = s.reqRefused q := by
  rw [State.reqFails_of_other hcls, hj]
  rfl

variable {j : Job} (hq : q.job = some j.id) (hj : s.job j.id = some j)

include hq hj

theorem State.reqFails_of_spilled (hst : j.st = .spilled) : s.reqFails q = (s.reqRefused q).spillHome j := by
  rw [State.reqFails_of_other hcls, hq, Option.bind_some, hj]
  exact if_pos hst

theorem State.reqFails_of_not_spilled (hst : j.st ≠ .spilled) : s.reqFails q = s.reqRefused q := by
  rw [State.reqFails_of_other hcls, hq, Option.bind_some, hj]
  exact if_neg hst

end

/-! ## Jobs that come home (R147, R148) -/

/-- The job as it starts again at home. -/
def Job.homed (j : Job) : Job := { j with st := .fetched, noSpill := true, spillAt := none }

theorem State.spillable_of_noSpill (s : State) {j : Job} (h : j.noSpill = true) : s.spillable j = false := by
  simp [State.spillable, h]

theorem State.basinWait_of_noSpill (s : State) {j : Job} (h : j.noSpill = true) : s.basinWait j =
    (!(s.templateFor j).1.isEmpty && (s.homeBasin j).isNone &&
      s.canRun j.reach (s.templateFor j).2 (s.needOf j) (s.templateFor j).1) := by
  simp [State.basinWait, State.spillable_of_noSpill s h]

theorem State.heard_listFull (s : State) (b : Nat) : (s.listFull b).heard = s.heard := State.heard_raise _ _ _

theorem State.place_of_noSpill {s : State} {j : Job} (h : j.noSpill = true) : s.place j =
    if (s.templateFor j).1.isEmpty then s.setJob { j with st := .running }
    else
      match s.homeBasin j with
      | some b =>
        if s.delayEnd j ≤ s.now || j.entry.delay = 0 then s.setJob { j with basin := b, st := .admitted }
        else if s.listRoom b 0 j.reach then s.setJob { j with basin := b, st := .delayed }
        else (s.setJob { j with basin := b, st := .delayPend, listSeq := s.weir.listSeq }).listFull b
      | none =>
        if s.canRun j.reach (s.templateFor j).2 (s.needOf j) (s.templateFor j).1 then s.setJob j
        else s.endJob j.id .badOpcode 0 := by
  unfold State.place
  rw [if_neg (by rw [State.spillable_of_noSpill s h]; decide)]
  rfl

/-- A job that may not be offered again is placed without a message to another device. -/
theorem State.heard_place {s : State} {j : Job} (h : j.noSpill = true) : (s.place j).heard = s.heard := by
  rw [State.place_of_noSpill h]
  split
  · rfl
  · split
    · split
      · rfl
      · split
        · rfl
        · exact State.heard_listFull _ _
    · split
      · rfl
      · exact State.heard_endJob rfl _ _ _

theorem State.place_of_home {s : State} {j : Job} {b : Nat} (h : j.noSpill = true) (ht : (s.templateFor j).1 ≠ [])
    (hb : s.homeBasin j = some b) (hd : s.delayEnd j ≤ s.now) :
    s.place j = s.setJob { j with basin := b, st := .admitted } := by
  rw [State.place_of_noSpill h, if_neg (by simpa using ht), hb]
  exact if_pos (by simp [hd])

theorem State.heard_spillHome (s : State) (j : Job) : (s.spillHome j).heard = (s.endSpill j.id).heard := by
  unfold State.spillHome
  dsimp only
  split
  · exact State.heard_endJob rfl _ _ _
  · split
    · rfl
    · exact State.heard_place rfl

/-- Coming home ends no wait but that of the job's own offer. -/
theorem State.pendingReq_spillHome (s : State) (j : Job) :
    ∀ y ∈ (s.spillHome j).cfl.pendingReq, y ∈ s.cfl.pendingReq := fun y hy => by
  rw [State.pendingReq_of_heard (s.heard_spillHome j)] at hy
  exact (List.mem_filter.1 hy).1

theorem State.spillHome_of_abort {s : State} {j : Job} (h : j.abortLate = true) :
    s.spillHome j = (s.endSpill j.id).endJob j.id .aborted 0 := if_pos h

theorem State.spillHome_of_wait {s : State} {j : Job} (h : j.abortLate = false)
    (hw : (s.endSpill j.id).basinWait j.homed = true) : s.spillHome j = (s.endSpill j.id).setJob j.homed :=
  (if_neg (by rw [h]; decide)).trans (if_pos hw)

theorem State.spillHome_of_place {s : State} {j : Job} (h : j.abortLate = false)
    (hw : (s.endSpill j.id).basinWait j.homed = false) : s.spillHome j = (s.endSpill j.id).place j.homed :=
  (if_neg (by rw [h]; decide)).trans (if_neg (ne_true_of_eq_false hw))

/-! ## Placement reads neither the Confluence block nor the key stores -/

/-- The state with another Confluence block and other key stores. -/
def State.relinked (s : State) (c : Cfl) (k : Kst) : State := { s with cfl := c, kst := k }

section

variable (s : State) (c : Cfl) (k : Kst) (j : Job)

theorem State.templateFor_relinked : (s.relinked c k).templateFor j = s.templateFor j := rfl
theorem State.delayEnd_relinked : (s.relinked c k).delayEnd j = s.delayEnd j := rfl
theorem State.homeBasin_relinked : (s.relinked c k).homeBasin j = s.homeBasin j := rfl

theorem State.basinWait_relinked {j : Job} (h : j.noSpill = true) : (s.relinked c k).basinWait j = s.basinWait j := by
  rw [State.basinWait_of_noSpill _ h, State.basinWait_of_noSpill _ h]
  rfl

end

/-! ## The obligation -/

theorem State.reqRefused_keeps (s : State) (q : CflReq) : Keeps [.kst, .cfl] s (s.reqRefused q) :=
  Keeps.via (Keeps.set_kst _ _) (by decide) ((State.dropReq_keeps _ _).mono (by decide))

theorem State.reqRefused_drops (s : State) (q : CflReq) : ∀ y ∈ (s.reqRefused q).cfl.pendingReq, y.id ≠ q.id :=
  s.dropReq_drops q.id

section

variable {s : State} {p : Nat} {h : MsgHdr} (ha : s.alive = true) (hup : (s.port p).st = .up) (hdst : h.dst = s.devId)
  {x : CflReq} (hx : s.reqOf h = some x)

include ha hup hdst hx

/-- R310: a refusal under R309 ends the job that waits. -/
theorem leaseGrant_of_refused {j : Job} {start stop remain : Nat} (hcls : x.cls = 0x06) (hst : h.status ≠ 0)
    (hq : x.job = some j.id) (hj : s.job j.id = some j) (hs : j.status = none) :
    Answers (.leaseGrant p h start stop remain) s fun t => JobEnds j .leaseExhausted 3 [] t ∧
      (∀ y ∈ t.cfl.pendingReq, y.id ≠ x.id) ∧ Keeps (.slots :: jobParts) s t := by
  have hexec := exec_leaseGrant_of_heard (start := start) (stop := stop) (remain := remain) ha hup hdst
  rw [State.gotGrant_of_refused (s := s.countRx p) hx hcls hst] at hexec
  exact ⟨_, hexec, State.leaseFails_ends (s := s.countRx p) hq hj hs, State.leaseFails_drops _ _,
    (State.leaseFails_keeps _ _).via (by decide) ((s.countRx_keeps p).mono (by decide))⟩

/-- R177: the one job that waits for the lease granted draws its first index. -/
theorem leaseGrant_draws {j : Job} {o : Op} {v start stop remain : Nat} (hcls : x.cls = 0x06) (hst : h.status = 0)
    (hlive : (s.slot x.slot).st = .live) (hcur : Lease.some? (s.slot x.slot).cur = none) (hlt : start < stop)
    (hone : (s.jobs.filter fun y => y.drawsFrom x.slot) = [j]) (hj : s.job j.id = some j)
    (hop : s.opOfJob j = some (o, v)) (hloads : o.loadsKey = true) (hdraws : o.drawsIndex = true)
    (hcopy : j.keyCopy = none) : Answers (.leaseGrant p h start stop remain) s fun t =>
      (t.job j.id).map Job.index = some (some start) ∧
      (t.slot x.slot).cur = some { next := start + 1, stop := stop, committed := true } := by
  have hexec := exec_leaseGrant_of_heard (start := start) (stop := stop) (remain := remain) ha hup hdst
  rw [State.gotGrant_of_current (s := s.countRx p) hx hcls hst hlive hcur] at hexec
  generalize hw : ((s.countRx p).dropReq x.id).setSlot x.slot { (s.countRx p).slot x.slot with
    remote := remain, cur := some { next := start, stop := stop, committed := true } } = w at hexec
  have hslot : w.slot x.slot = { s.slot x.slot with
      remote := remain, cur := some { next := start, stop := stop, committed := true } } := by
    rw [← hw, State.slot_setSlot_same]
    rfl
  have hframe : Keeps [.slots, .cfl] s w := by
    rw [← hw]
    exact (State.setSlot_keeps _ _ _).via (by decide)
      ((State.dropReq_keeps _ _).via (by decide) ((s.countRx_keeps p).mono (by decide)))
  have hjobs : w.jobs = s.jobs := hframe .jobs (by decide)
  rw [State.drawWaiting_of_one (by rw [hjobs]; exact hone)] at hexec
  have hwaits : j.drawsFrom x.slot = true :=
    (List.mem_filter.1 (hone ▸ List.mem_singleton_self j : j ∈ s.jobs.filter fun y => y.drawsFrom x.slot)).2
  refine ⟨_, hexec, State.takeKey_of_drawsFrom ((State.job_of_keeps hframe (by decide) _).trans hj) hwaits
    (by rw [State.opOfJob, hframe .cfg (by decide)]; exact hop) hloads hdraws hcopy (by rw [hslot]; exact hlive)
    (l := { next := start, stop := stop, committed := true }) (by rw [hslot]) hlt⟩

/-- R307, R310: a grant that no job waits for becomes the slot's current lease, or its next one. -/
theorem leaseGrant_stores {start stop remain : Nat} (hcls : x.cls = 0x06) (hst : h.status = 0)
    (hlive : (s.slot x.slot).st = .live) (hnone : ∀ y ∈ s.jobs, y.drawsFrom x.slot = false) :
    Answers (.leaseGrant p h start stop remain) s fun t => (t.slot x.slot).remote = remain ∧
      (Lease.some? (s.slot x.slot).cur = none →
        (t.slot x.slot).cur = some { next := start, stop := stop, committed := true }) ∧
      (Lease.some? (s.slot x.slot).cur ≠ none → (t.slot x.slot).cur = (s.slot x.slot).cur ∧
        (t.slot x.slot).nxt = some { next := start, stop := stop, committed := true }) ∧
      (∀ y ∈ t.cfl.pendingReq, y.id ≠ x.id) ∧ Keeps [.slots, .cfl] s t := by
  have hexec := exec_leaseGrant_of_heard (start := start) (stop := stop) (remain := remain) ha hup hdst
  have hdrop : Keeps [.slots, .cfl] s ((s.countRx p).dropReq x.id) :=
    (State.dropReq_keeps _ _).via (by decide) ((s.countRx_keeps p).mono (by decide))
  by_cases hcur : Lease.some? (s.slot x.slot).cur = none
  · rw [State.gotGrant_of_current (s := s.countRx p) hx hcls hst hlive hcur,
      State.drawWaiting_of_none (s := ((s.countRx p).dropReq x.id).setSlot x.slot _) hnone] at hexec
    refine ⟨_, hexec, ?_, fun _ => ?_, fun hne => absurd hcur hne, State.dropReq_drops _ _,
      (State.setSlot_keeps _ _ _).via (by decide) hdrop⟩ <;> rw [State.slot_setSlot_same]
  · rw [State.gotGrant_of_next (s := s.countRx p) hx hcls hst hlive hcur] at hexec
    refine ⟨_, hexec, ?_, fun hne => absurd hne hcur, fun _ => ⟨?_, ?_⟩, State.dropReq_drops _ _,
      (State.setSlot_keeps _ _ _).via (by decide) hdrop⟩ <;> rw [State.slot_setSlot_same]
    rfl

/-- R381: the first refusal with STALE_ROLE waits for the receiver's next ADVERT. -/
theorem refuse_of_stale (hr : x.resent = false) : Answers (.refuse p h Status.staleRole.code) s fun t =>
    (∃ y ∈ t.cfl.pendingReq, y.id = x.id ∧ y.again = true) ∧ Keeps [.cfl] s t := by
  have hexec := exec_refuse_of_heard (status := Status.staleRole.code) ha hup hdst
  rw [State.gotRefuse_of_stale (s := s.countRx p) hx hr] at hexec
  exact ⟨_, hexec, ⟨{ x with again := true }, List.mem_map.2 ⟨x, List.mem_of_find?_eq_some hx, if_pos rfl⟩, rfl, rfl⟩,
    (Keeps.set_cfl _ _).via (by decide) (s.countRx_keeps p)⟩

section

variable {status : Nat} (hf : status ≠ Status.staleRole.code ∨ x.resent = true)

include hf

theorem exec_refuse_of_final : exec (.refuse p h status) s = .next ((s.countRx p).reqFails x) :=
  (exec_refuse_of_heard ha hup hdst).trans (congrArg _ (State.gotRefuse_of_final (s := s.countRx p) hx hf))

/-- A placement refused shows BAD_PARAMS; any other request without a job only waits no longer. -/
theorem refuse_of_jobless (hcls : x.cls ≠ 0x06) (hq : x.job = none) : Answers (.refuse p h status) s fun t =>
    t.kst.result = (if x.place then Status.badParams.code else s.kst.result) ∧
    (∀ y ∈ t.cfl.pendingReq, y.id ≠ x.id) ∧ Keeps [.kst, .cfl] s t := by
  have hexec := exec_refuse_of_final ha hup hdst hx hf
  rw [State.reqFails_of_none hcls hq] at hexec
  exact ⟨_, hexec, rfl, State.reqRefused_drops _ x,
    (State.reqRefused_keeps _ _).via (by decide) ((s.countRx_keeps p).mono (by decide))⟩

end

end

/-- R147, R148: what a refused offer leaves of its job, in a state that differs by the Confluence block and the key stores. -/
theorem State.spillHome_brings_home {s : State} {j : Job} (c : Cfl) (k : Kst) (hj : s.job j.id = some j)
    (hs : j.status = none) :
    (j.abortLate = true → JobEnds j .aborted 0 [] ((s.relinked c k).spillHome j)) ∧
    (j.abortLate = false → s.basinWait j.homed = true →
      ((s.relinked c k).spillHome j).job j.id = some j.homed) ∧
    (∀ b, j.abortLate = false → s.basinWait j.homed = false → (s.templateFor j.homed).1 ≠ [] →
      s.homeBasin j.homed = some b → s.delayEnd j.homed ≤ s.now →
      ((s.relinked c k).spillHome j).job j.id = some { j.homed with basin := b, st := .admitted }) := by
  obtain ⟨c', hc'⟩ : ∃ c', (s.relinked c k).endSpill j.id = s.relinked c' k := ⟨_, rfl⟩
  have hwait : ((s.relinked c k).endSpill j.id).basinWait j.homed = s.basinWait j.homed := by
    rw [hc']
    exact State.basinWait_relinked s c' k rfl
  refine ⟨fun ha => ?_, fun ha hw => ?_, fun b ha hw ht hb hd => ?_⟩
  · rw [State.spillHome_of_abort ha]
    exact (State.endJob_fails (s := (s.relinked c k).endSpill j.id) rfl hj hs 0).1
  · rw [State.spillHome_of_wait ha (hwait.trans hw)]
    exact State.job_setJob_of_job (s := (s.relinked c k).endSpill j.id) (j := j.homed) hj
  · rw [State.spillHome_of_place ha (hwait.trans hw), hc',
      State.place_of_home rfl (by rwa [State.templateFor_relinked])
        ((State.homeBasin_relinked s c' k j.homed).trans hb) (by rwa [State.delayEnd_relinked])]
    exact State.job_setJob_of_job (s := s.relinked c' k) (j := { j.homed with basin := b, st := .admitted }) hj

theorem State.reqRefused_countRx (s : State) (p : Nat) (q : CflReq) :
    ∃ c k, (s.countRx p).reqRefused q = s.relinked c k := by
  have hrefused (u : State) : u.reqRefused q = u.relinked (u.dropReq q.id).cfl (u.reqRefused q).kst := rfl
  have hcount : s.countRx p = s.relinked (s.countRx p).cfl s.kst := rfl
  rw [hrefused, hcount]
  exact ⟨_, _, rfl⟩

/-- R147, R310, R381: a refusal that is final, by the class of its request. -/
theorem refuse_of_final {s : State} {p : Nat} {h : MsgHdr} {x : CflReq} {j : Job} {status : Nat} (ha : s.alive = true)
    (hup : (s.port p).st = .up) (hdst : h.dst = s.devId) (hx : s.reqOf h = some x)
    (hf : status ≠ Status.staleRole.code ∨ x.resent = true) (hq : x.job = some j.id) (hj : s.job j.id = some j)
    (hs : j.status = none) : Answers (.refuse p h status) s fun t =>
      (x.cls = 0x06 → JobEnds j .leaseExhausted 3 [] t) ∧
      (x.cls ≠ 0x06 → j.st = .spilled →
        (j.abortLate = true → JobEnds j .aborted 0 [] t) ∧
        (j.abortLate = false → s.basinWait j.homed = true → t.job j.id = some j.homed) ∧
        (∀ b, j.abortLate = false → s.basinWait j.homed = false → (s.templateFor j.homed).1 ≠ [] →
          s.homeBasin j.homed = some b → s.delayEnd j.homed ≤ s.now →
          t.job j.id = some { j.homed with basin := b, st := .admitted })) ∧
      (∀ y ∈ t.cfl.pendingReq, y.id ≠ x.id) ∧ Keeps ([.slots, .kst] ++ jobParts ++ eventParts) s t := by
  have hexec := exec_refuse_of_final ha hup hdst hx hf
  have hframe : Keeps ([.slots, .kst] ++ jobParts ++ eventParts) s ((s.countRx p).reqFails x) :=
    (State.reqFails_keeps _ _).via (by decide) ((s.countRx_keeps p).mono (by decide))
  by_cases hcls : x.cls = 0x06
  · rw [State.reqFails, if_pos hcls] at hexec hframe
    exact ⟨_, hexec, fun _ => State.leaseFails_ends (s := s.countRx p) hq hj hs, fun hne => absurd hcls hne,
      State.leaseFails_drops _ _, hframe⟩
  · by_cases hst : j.st = .spilled
    · rw [State.reqFails_of_spilled (s := s.countRx p) hcls hq hj hst] at hexec hframe
      obtain ⟨c, k, hu⟩ := s.reqRefused_countRx p x
      have hhome := State.spillHome_brings_home c k hj hs
      rw [← hu] at hhome
      exact ⟨_, hexec, fun he => absurd he hcls, fun _ _ => hhome,
        fun y hy => State.reqRefused_drops _ x y (State.pendingReq_spillHome _ j y hy), hframe⟩
    · rw [State.reqFails_of_not_spilled (s := s.countRx p) hcls hq hj hst] at hexec hframe
      exact ⟨_, hexec, fun he => absurd he hcls, fun _ he => absurd he hst, State.reqRefused_drops _ x, hframe⟩

/-- R388: a lease request that nothing answers in 10 ms. -/
theorem leaseGrantTimeout_ends {s : State} {x : CflReq} {j : Job} (ha : s.alive = true)
    (hx : (s.cfl.pendingReq.find? fun q => q.id == x.id && q.cls == 0x06) = some x) (hq : x.job = some j.id)
    (hj : s.job j.id = some j) (hs : j.status = none) : Answers (.leaseGrantTimeout x.id) s fun t =>
      JobEnds j .leaseExhausted 3 [] t ∧ t.now = max s.now (x.sentAt + 10000000) ∧
      (∀ y ∈ t.cfl.pendingReq, y.id ≠ x.id) ∧ Keeps ([.now, .slots] ++ jobParts ++ eventParts) s t := by
  have hlate : s.grantLate x.id = (s.atTime (x.sentAt + 10000000)).leaseFails x := by rw [State.grantLate, hx]
  refine ⟨s.grantLate x.id, engineCmd_of_alive ha, ?_, ?_, ?_, (s.grantLate_keeps x.id).mono (by decide)⟩ <;> rw [hlate]
  · exact State.leaseFails_ends (s := s.atTime (x.sentAt + 10000000)) hq hj hs
  · exact State.now_leaseFails _ _
  · exact State.leaseFails_drops _ _

/-- Settles O45: a request by what the home device's record gives, an answer by the request that waits for it, and a refusal by
whether it is the first with STALE_ROLE. -/
theorem leaseRequestsAndAnswers : Obligations.LeaseRequestsAndAnswers := by
  intro s p h ha hup hdst
  refine ⟨fun keyId q hf hl hq => leaseReq_answers ha hup hdst hf hl hq, fun keyId hf => exec_leaseReq_of_fenced hf,
    fun x j start stop remain hx hcls hst hq hj hs => leaseGrant_of_refused ha hup hdst hx hcls hst hq hj hs,
    fun x j o v start stop remain hx hcls hst hlive hcur hlt hone hj hop hloads hdraws hcopy =>
      leaseGrant_draws ha hup hdst hx hcls hst hlive hcur hlt hone hj hop hloads hdraws hcopy,
    fun x start stop remain hx hcls hst hlive hnone => leaseGrant_stores ha hup hdst hx hcls hst hlive hnone,
    fun start stop remain hx => ?_,
    fun x j hx hq hj hs => leaseGrantTimeout_ends ha hx hq hj hs,
    fun x hx hr => refuse_of_stale ha hup hdst hx hr,
    fun x j status hx hf hq hj hs => refuse_of_final ha hup hdst hx hf hq hj hs,
    fun x status hx hf hcls hq => refuse_of_jobless ha hup hdst hx hf hcls hq⟩
  have hexec := exec_leaseGrant_of_heard (start := start) (stop := stop) (remain := remain) ha hup hdst
  rw [State.gotGrant_of_unknown (s := s.countRx p) hx] at hexec
  exact ⟨_, hexec, rfl, s.countRx_keeps p⟩

end Sys2Proof.Machine
end

section
/-! ADVERT messages (R147, R380 to R382, R387) and the copies of keys (R310, R383): what each side sends, what a received one
leaves, and which copies are installed. -/

namespace Sys2Proof.Machine

open Sys2Proof

/-! ## What ADVERT sends (R380) -/

theorem exec_advertSend_of_up {s : State} {p : Nat} (ha : s.alive = true) (hup : (s.port p).st = .up) :
    exec (.advertSend p) s = .next (s.sendLocal p 0x08 s.advertBody) :=
  (engineCmd_of_alive ha).trans (congrArg _ (if_pos (by rw [State.isUp, hup]; rfl)))

/-! ## Links: all of the Confluence block that neither sending nor a request that waits moves -/

theorem State.links_awaitReply (s : State) (q : CflReq) : (s.awaitReply q).links = s.links := rfl

theorem State.links_dropReq (s : State) (id : Nat) : (s.dropReq id).links = s.links := rfl

theorem State.links_sendNew (s : State) (cls reach dst epoch : Nat) (payload : Bytes) :
    (s.sendNew cls reach dst epoch payload).links = s.links := State.links_of_heard (State.heard_sendNew _ _ _ _ _ _)

theorem State.links_sendAgain (s : State) (q : CflReq) : (s.sendAgain q).links = s.links :=
  (State.links_awaitReply _ _).trans ((State.links_sendNew _ _ _ _ _ _).trans (s.links_dropReq q.id))

theorem State.links_copyTo (s : State) (n : Nat) (x : Slot) (gone : Bool) (p : Nat) :
    (s.copyTo n x gone p).links = s.links := by
  unfold State.copyTo
  split
  · rfl
  · dsimp -proj only
    split
    · rfl
    · split
      · exact (State.links_awaitReply _ _).trans (State.links_sendNew _ _ _ _ _ _)
      · rfl

theorem State.links_copiesOnLink (s : State) (p : Nat) : (s.copiesOnLink p).links = s.links := by
  unfold State.copiesOnLink
  split
  · exact foldl_eq_of_step (g := State.links) (fun t (x : Nat × Slot) => t.links_copyTo x.1 x.2 false p) _ s
  · rfl

theorem State.links_leaseFails (s : State) (q : CflReq) : (s.leaseFails q).links = s.links :=
  (State.links_of_heard (s.heard_leaseFails q)).trans (s.links_dropReq q.id)

section

variable {s t : State} (h : t.links = s.links)

include h

theorem State.port_of_links (p : Nat) : t.links.1 p = s.links.1 p := congrArg (fun x : (Nat → Port) × Cfl => x.1 p) h
theorem State.clusterKey_of_links : t.cfl.clusterKey = s.cfl.clusterKey :=
  congrArg (fun x : (Nat → Port) × Cfl => x.2.clusterKey) h
theorem State.keyDev_of_links : t.cfl.keyDev = s.cfl.keyDev := congrArg (fun x : (Nat → Port) × Cfl => x.2.keyDev) h
theorem State.fencedDevs_of_links : t.cfl.fencedDevs = s.cfl.fencedDevs :=
  congrArg (fun x : (Nat → Port) × Cfl => x.2.fencedDevs) h

end

/-! ## What a received ADVERT leaves (R380, R382, R387) -/

/-- The state with a device known to be fenced. -/
def State.fenceKnown (s : State) (dev : Nat) : State :=
  { s with cfl := { s.cfl with fencedDevs := addOnce s.cfl.fencedDevs dev } }

/-- R387: what is learned of a fence, beside the lease requests that end. -/
theorem State.links_learnFence (s : State) (dev : Nat) : (s.learnFence dev).links = (s.fenceKnown dev).links :=
  foldl_eq_of_step (g := State.links) State.links_leaseFails _ (s.fenceKnown dev)

/-- The state with the ADVERT of the peer behind a port noted there. -/
def State.advertNoted (s : State) (p : Nat) (m : AdvertMsg) : State :=
  s.notePort p fun x => { x with
    peerBacklog := m.backlog, peerThreshold := m.threshold, peerEpochs := m.epochs, peerFenced := m.fenced,
    peerKeyDev := m.keyDev, peerHasKey := m.key.isSome }

/-- The state before the cluster key of an ADVERT is looked at: the ADVERT is noted, and a fence that it tells is learned. -/
def State.fenceHeard (s : State) (p : Nat) (m : AdvertMsg) : State :=
  if m.fenced && !s.cfl.fencedDevs.contains (s.port p).peerDev then (s.advertNoted p m).learnFence (s.port p).peerDev
  else s.advertNoted p m

/-- After the cluster key is looked at, an ADVERT only sends: the requests refused once, and the copies for a new link. -/
theorem State.gotAdvert_only_sends (s : State) (p : Nat) (m : AdvertMsg) :
    (s.gotAdvert p m).links = ((s.fenceHeard p m).takeClusterKey m).links ∧
      (s.gotAdvert p m).evt = ((s.fenceHeard p m).takeClusterKey m).evt := by
  have hagain (qs : List CflReq) (u : State) : (qs.foldl State.sendAgain u).links = u.links ∧
      (qs.foldl State.sendAgain u).evt = u.evt :=
    ⟨foldl_eq_of_step State.links_sendAgain qs u, Keeps.foldl State.sendAgain_keeps qs u .evt (by decide)⟩
  have hcopies (c : Prop) [Decidable c] (u : State) : (if c then u.copiesOnLink p else u).links = u.links ∧
      (if c then u.copiesOnLink p else u).evt = u.evt := by
    split
    · exact ⟨u.links_copiesOnLink p, u.copiesOnLink_keeps p .evt (by decide)⟩
    · exact ⟨rfl, rfl⟩
  unfold State.gotAdvert
  exact ⟨(hcopies _ _).1.trans (hagain _ _).1, (hcopies _ _).2.trans (hagain _ _).2⟩

/-- The state with the cluster key of a device. -/
def State.withClusterKey (s : State) (k : Bytes) (dev : Nat) : State :=
  { s with cfl := { s.cfl with clusterKey := some k, keyDev := dev } }

/-- R382: the peer's cluster key is taken. -/
theorem State.takeClusterKey_of_better {s : State} {m : AdvertMsg} {k : Bytes} (hk : m.key = some k)
    (hp : s.keyPolicy = true) (h : s.cfl.clusterKey = none ∨ m.keyDev < s.cfl.keyDev) : s.takeClusterKey m =
      (s.withClusterKey k m.keyDev).raise 0x293 0 := by
  unfold State.takeClusterKey
  rw [hk]
  exact if_pos (by simpa [hp] using h)

theorem State.takeClusterKey_of_other {s : State} {m : AdvertMsg}
    (h : m.key = none ∨ s.keyPolicy = false ∨ s.cfl.clusterKey ≠ none ∧ s.cfl.keyDev ≤ m.keyDev) :
    s.takeClusterKey m = s := by
  unfold State.takeClusterKey
  split
  · next k hk =>
    refine if_neg fun hbetter => ?_
    simp only [Bool.and_eq_true, Bool.or_eq_true, Option.isNone_iff_eq_none, decide_eq_true_eq] at hbetter
    obtain ⟨hp, hbetter⟩ := hbetter
    obtain hnone | hpolicy | ⟨hkey, hdev⟩ := h
    · exact absurd (hk.symm.trans hnone) nofun
    · exact absurd (hp.symm.trans hpolicy) nofun
    · exact hbetter.elim hkey (by omega)
  · rfl

theorem State.links_raise (s : State) (src cause : Nat) : (s.raise src cause).links = s.links :=
  State.links_of_heard (s.heard_raise src cause)

/-- Beside the cluster key, an ADVERT that brings one moves no port and no fence. -/
theorem State.takeClusterKey_leaves (s : State) (m : AdvertMsg) (p : Nat) :
    (s.takeClusterKey m).links.1 p = s.links.1 p ∧ (s.takeClusterKey m).cfl.fencedDevs = s.cfl.fencedDevs := by
  unfold State.takeClusterKey
  split
  · next k _ =>
    split
    · have hraise := (s.withClusterKey k m.keyDev).links_raise 0x293 0
      exact ⟨(State.port_of_links hraise p :), (State.fencedDevs_of_links hraise :)⟩
    · exact ⟨rfl, rfl⟩
  · exact ⟨rfl, rfl⟩

theorem mem_addOnce (xs : List Nat) (v : Nat) : v ∈ addOnce xs v := by
  unfold addOnce
  split
  · next h => simpa using h
  · exact List.mem_append_right _ (List.mem_singleton_self v)

theorem State.fenceHeard_leaves (s : State) (p : Nat) (m : AdvertMsg) :
    (s.fenceHeard p m).links.1 p = (s.advertNoted p m).links.1 p ∧
      (s.fenceHeard p m).cfl.clusterKey = s.cfl.clusterKey ∧ (s.fenceHeard p m).cfl.keyDev = s.cfl.keyDev ∧
      (s.fenceHeard p m).keyPolicy = s.keyPolicy ∧
      (m.fenced = true → (s.port p).peerDev ∈ (s.fenceHeard p m).cfl.fencedDevs) := by
  unfold State.fenceHeard
  split
  · have hlinks := (s.advertNoted p m).links_learnFence (s.port p).peerDev
    have hcfg := (s.advertNoted p m).learnFence_keeps (s.port p).peerDev .cfg (by decide)
    refine ⟨(State.port_of_links hlinks p :), (State.clusterKey_of_links hlinks :), (State.keyDev_of_links hlinks :), ?_,
      fun _ => ?_⟩
    · rw [State.keyPolicy, hcfg]
      rfl
    · rw [State.fencedDevs_of_links hlinks]
      exact mem_addOnce _ _
  · next h =>
    refine ⟨rfl, rfl, rfl, rfl, fun hf => ?_⟩
    rw [hf, Bool.true_and, Bool.not_eq_true', Bool.not_eq_false] at h
    exact List.contains_iff_mem.1 h

section

variable {s : State} {p : Nat} (ha : s.alive = true) (hup : (s.port p).st = .up) (m : AdvertMsg)

include ha hup

theorem exec_advert_of_up : exec (.advert p m) s = .next ((s.countRx p).gotAdvert p m) :=
  (engineCmd_of_alive ha).trans (congrArg _ (if_pos (by rw [State.isUp, hup]; rfl)))

/-- R147, R380, R382, R387: the port notes what its peer advertises; a fence is learned, and the better cluster key taken. -/
theorem advert_answers : Answers (.advert p m) s fun t =>
    (t.port p).peerBacklog = m.backlog ∧ (t.port p).peerThreshold = m.threshold ∧
    (t.port p).peerEpochs = m.epochs ∧ (t.port p).peerFenced = m.fenced ∧
    (m.fenced = true → (s.port p).peerDev ∈ t.cfl.fencedDevs) ∧
    (∀ k, m.key = some k → s.keyPolicy = true → s.cfl.clusterKey = none ∨ m.keyDev < s.cfl.keyDev →
      t.cfl.clusterKey = some k ∧ t.cfl.keyDev = m.keyDev ∧ (t.source 0x293).pending = true) ∧
    (m.key = none ∨ s.keyPolicy = false ∨ s.cfl.clusterKey ≠ none ∧ s.cfl.keyDev ≤ m.keyDev →
      t.cfl.clusterKey = s.cfl.clusterKey ∧ t.cfl.keyDev = s.cfl.keyDev) ∧
    Keeps (.slots :: jobParts ++ eventParts) s t := by
  obtain ⟨hlinks, hevt⟩ := (s.countRx p).gotAdvert_only_sends p m
  obtain ⟨hfport, hfkey, hfdev, hfpolicy, hfenced⟩ := (s.countRx p).fenceHeard_leaves p m
  generalize (s.countRx p).fenceHeard p m = v at hlinks hevt hfport hfkey hfdev hfpolicy hfenced
  obtain ⟨hvport, hvfenced⟩ := v.takeClusterKey_leaves m p
  have hexec := exec_advert_of_up ha hup m
  have hframe : Keeps (.slots :: jobParts ++ eventParts) s ((s.countRx p).gotAdvert p m) :=
    (State.gotAdvert_keeps _ _ _).via (by decide) ((s.countRx_keeps p).mono (by decide))
  generalize (s.countRx p).gotAdvert p m = t at hlinks hevt hexec hframe
  have hport : t.links.1 p = ((s.countRx p).advertNoted p m).links.1 p :=
    (State.port_of_links hlinks p).trans (hvport.trans hfport)
  have hnoted : ((s.countRx p).advertNoted p m).port p = _ := State.port_setPort_same _ _ _
  have hpeer : ((s.countRx p).port p).peerDev = (s.port p).peerDev :=
    congrArg (fun x => x.2.1) (congrFun (s.neighbours_countRx p) p)
  refine ⟨t, hexec, (congrArg Port.peerBacklog hport).trans (congrArg Port.peerBacklog hnoted),
    (congrArg Port.peerThreshold hport).trans (congrArg Port.peerThreshold hnoted),
    (congrArg Port.peerEpochs hport).trans (congrArg Port.peerEpochs hnoted),
    (congrArg Port.peerFenced hport).trans (congrArg Port.peerFenced hnoted), fun hf => ?fenced,
    fun k hk hp hb => ?taken, fun ho => ?kept, hframe⟩
  case fenced =>
    rw [State.fencedDevs_of_links hlinks, hvfenced, ← hpeer]
    exact hfenced hf
  case taken =>
    have htake : v.takeClusterKey m = (v.withClusterKey k m.keyDev).raise 0x293 0 :=
      State.takeClusterKey_of_better hk (hfpolicy.trans hp) (by rw [hfkey, hfdev]; exact hb)
    have hraise := (v.withClusterKey k m.keyDev).links_raise 0x293 0
    rw [State.clusterKey_of_links hlinks, State.keyDev_of_links hlinks, htake, State.source_of_evt hevt, htake]
    exact ⟨(State.clusterKey_of_links hraise :), (State.keyDev_of_links hraise :),
      State.pending_raise_self _ _ (by decide)⟩
  case kept =>
    rw [State.clusterKey_of_links hlinks, State.keyDev_of_links hlinks,
      State.takeClusterKey_of_other (s := v) (by rw [hfkey, hfdev, hfpolicy]; exact ho)]
    exact ⟨hfkey, hfdev⟩

end

/-! ## The word of a copy (R310) -/

theorem testBit_attrClear (a : BitVec 64) (n i : Nat) :
    (attrClear a n).toNat.testBit i = (a.toNat.testBit i && !decide (n = i)) := by
  by_cases hi : i < 64
  · simp only [attrClear, BitVec.testBit_toNat, BitVec.getLsbD_and, BitVec.getLsbD_not, BitVec.getLsbD_ofNat,
      Nat.testBit_two_pow, hi, decide_true, Bool.true_and]
  · simp [BitVec.testBit_toNat, BitVec.getLsbD_of_ge _ _ (Nat.le_of_not_lt hi)]

theorem bitOf_attrClear_self (a : BitVec 64) (n : Nat) : bitOf (attrClear a n).toNat n = false := by
  simp [bitOf, testBit_attrClear]

/-- EXPORTABLE is no bit of ORIGIN. -/
theorem attrOrigin_attrClear_32 (a : BitVec 64) : attrOrigin (attrClear a 32) = attrOrigin a := by
  refine Nat.eq_of_testBit_eq fun i => ?_
  simp only [attrOrigin, bitsOf, Nat.testBit_mod_two_pow, Nat.testBit_div_two_pow, testBit_attrClear]
  by_cases hi : i < 2
  · simp [show 32 ≠ i + 30 by omega]
  · simp [hi]

theorem attrOrigin_copyWord (a : BitVec 64) : attrOrigin (copyWord a) = 2 := by
  have hb : b2n (attrStateful a) ≤ 1 := by cases attrStateful a <;> decide
  simp only [attrOrigin, copyWord, attrSet, attrType, attrParam, attrOwner, bitsOf, BitVec.toNat_ofNat]
  omega

/-! ## Copies (R310, R383) -/

/-- A slot stored holds what was stored; every other slot holds what it held. -/
theorem State.sameSlots_storeSlot (s : State) (n : Nat) (x : Slot) : (s.setSlot n x).SameSlots (s.storeSlot n x) :=
  (State.sameSlots_writeBack _ _).trans <| (State.sameSlots_touchHot _ _ _).trans
    (.of_keeps (State.putDesc_keeps _ _) (by decide))

theorem State.bare_storeSlot_self (s : State) (n : Nat) (x : Slot) : ((s.storeSlot n x).slot n).bare = x.bare := by
  rw [s.sameSlots_storeSlot n x n, State.slot_setSlot_same]

theorem State.bare_storeSlot_other (s : State) {n m : Nat} (x : Slot) (h : m ≠ n) :
    ((s.storeSlot n x).slot m).bare = (s.slot m).bare := by
  rw [s.sameSlots_storeSlot n x m, State.slot_setSlot, if_neg (Ne.symm h)]

/-- The slot that a copy with the word `a` and the encodings `m` fills. -/
def copySlot (k : KeyMsg) (a : BitVec 64) (m : Bytes × Bytes) : Slot :=
  { Slot.reset with st := .live, attr := a, mat := m.1, pub := m.2, keyId := k.keyId, homeDev := k.homeDev }

theorem State.installCopy_of_open {s : State} {k : KeyMsg} {ck : Bytes} {m : Bytes × Bytes} (a : BitVec 64)
    (hck : s.cfl.clusterKey = some ck) (ho : openCopy ck k = some m) :
    s.installCopy k a = s.storeSlot k.slot (copySlot k a m) := by
  rw [State.installCopy, hck, Option.bind_some, ho]
  rfl

theorem State.installCopy_of_closed {s : State} {k : KeyMsg} {ck : Bytes} (a : BitVec 64)
    (hck : s.cfl.clusterKey = some ck) (ho : openCopy ck k = none) : s.installCopy k a = s := by
  rw [State.installCopy, hck, Option.bind_some, ho]

theorem State.bare_installCopy_other (s : State) (k : KeyMsg) (a : BitVec 64) {n : Nat} (hn : n ≠ k.slot) :
    ((s.installCopy k a).slot n).bare = (s.slot n).bare := by
  unfold State.installCopy
  split
  · rfl
  · exact State.bare_storeSlot_other _ _ hn

section

variable {s : State} {h : MsgHdr} {k : KeyMsg}

theorem State.gotCopy_of_stale (he : s.epochOk h = false) : s.gotCopy h k = s.refuseReq h .staleRole :=
  if_pos (by rw [he]; rfl)

theorem State.gotPlace_of_stale (he : s.epochOk h = false) : s.gotPlace h k = s.refuseReq h .staleRole :=
  if_pos (by rw [he]; rfl)

/-- A copy that does not fit, or for a slot that holds another key, is refused. -/
theorem State.gotCopy_refuses
    (hr : s.copyFits h k = false ∨ (s.slot k.slot).st ≠ .empty ∧ (s.slot k.slot).keyId ≠ k.keyId) :
    ∃ st, s.gotCopy h k = s.refuseReq h st := by
  unfold State.gotCopy
  dsimp only
  split
  · exact ⟨_, rfl⟩
  · exact ⟨_, if_pos (by simpa using hr)⟩

/-- A placement that does not fit, or into a slot that is not EMPTY, is refused. -/
theorem State.gotPlace_refuses (hr : s.copyFits h k = false ∨ (s.slot k.slot).st ≠ .empty) :
    ∃ st, s.gotPlace h k = s.refuseReq h st := by
  unfold State.gotPlace
  split
  · exact ⟨_, rfl⟩
  · exact ⟨_, if_pos (by simpa using hr)⟩

variable (he : s.epochOk h = true) (hfit : s.copyFits h k = true)

include he hfit

theorem State.gotCopy_of_fits (hslot : (s.slot k.slot).st = .empty ∨ (s.slot k.slot).keyId = k.keyId) :
    s.gotCopy h k = if k.gone then s.invalidate k.slot else s.installCopy k (copyWord k.attr) := by
  unfold State.gotCopy
  dsimp only
  rw [if_neg (by rw [he]; decide), if_neg (by simpa [hfit, Classical.or_iff_not_imp_left] using hslot)]

theorem State.gotPlace_of_fits (hslot : (s.slot k.slot).st = .empty) :
    s.gotPlace h k = s.installCopy k (attrClear (copyWord k.attr) 32) := by
  unfold State.gotPlace
  rw [if_neg (by rw [he]; decide), if_neg (by simp [hfit, hslot])]

end

section

variable {s : State} {p : Nat} {h : MsgHdr} {k : KeyMsg} (ha : s.alive = true) (hup : (s.port p).st = .up)
  (hdst : h.dst = s.devId) (hf : s.rst.fenced = false) (hl : s.lev.fenced = false)

theorem slots_refuseReq_countRx (s : State) (p : Nat) (h : MsgHdr) (st : Status) :
    ((s.countRx p).refuseReq h st).slots = s.slots ∧ Keeps [.cfl, .tx] s ((s.countRx p).refuseReq h st) := by
  have hframe : Keeps [.cfl, .tx] s ((s.countRx p).refuseReq h st) :=
    (State.refuseReq_keeps _ _ _).via (by decide) ((s.countRx_keeps p).mono (by decide))
  exact ⟨hframe .slots (by decide), hframe⟩

include ha hup hdst hf hl

theorem exec_keyRepl_of_heard : exec (.keyRepl p h k) s = .next ((s.countRx p).gotCopy h k) :=
  (engineCmd_of_alive ha).trans (congrArg _ (if_pos (State.hearsRequest_of_up hup hdst hf hl)))

theorem exec_keyPlace_of_heard : exec (.keyPlace p h k) s = .next ((s.countRx p).gotPlace h k) :=
  (engineCmd_of_alive ha).trans (congrArg _ (if_pos (State.hearsRequest_of_up hup hdst hf hl)))

theorem keyRepl_of_refused
    (hr : s.copyFits h k = false ∨ (s.slot k.slot).st ≠ .empty ∧ (s.slot k.slot).keyId ≠ k.keyId) :
    Answers (.keyRepl p h k) s fun t => t.slots = s.slots ∧ Keeps [.cfl, .tx] s t := by
  obtain ⟨st, hgot⟩ := State.gotCopy_refuses (s := s.countRx p) hr
  refine ⟨_, exec_keyRepl_of_heard ha hup hdst hf hl, ?_⟩
  rw [hgot]
  exact slots_refuseReq_countRx s p h st

theorem keyPlace_of_refused (hr : s.copyFits h k = false ∨ (s.slot k.slot).st ≠ .empty) :
    Answers (.keyPlace p h k) s fun t => t.slots = s.slots ∧ Keeps [.cfl, .tx] s t := by
  obtain ⟨st, hgot⟩ := State.gotPlace_refuses (s := s.countRx p) hr
  refine ⟨_, exec_keyPlace_of_heard ha hup hdst hf hl, ?_⟩
  rw [hgot]
  exact slots_refuseReq_countRx s p h st

/-- R381: a copy or a placement under another epoch of its reach. -/
theorem keyMessages_of_stale (he : s.epochOk h = false) :
    (Answers (.keyRepl p h k) s fun t => t.slots = s.slots ∧
      t.cfl.staleIn = satAdd 0xFFFFFFFF s.cfl.staleIn 1 ∧ Keeps [.cfl, .tx] s t) ∧
    (Answers (.keyPlace p h k) s fun t => t.slots = s.slots ∧
      t.cfl.staleIn = satAdd 0xFFFFFFFF s.cfl.staleIn 1 ∧ Keeps [.cfl, .tx] s t) := by
  obtain ⟨hslots, hframe⟩ := slots_refuseReq_countRx s p h .staleRole
  have hstale := (s.countRx p).staleIn_refuseReq h
  refine ⟨⟨_, exec_keyRepl_of_heard ha hup hdst hf hl, ?_⟩, ⟨_, exec_keyPlace_of_heard ha hup hdst hf hl, ?_⟩⟩
  · rw [State.gotCopy_of_stale (s := s.countRx p) he]
    exact ⟨hslots, hstale, hframe⟩
  · rw [State.gotPlace_of_stale (s := s.countRx p) he]
    exact ⟨hslots, hstale, hframe⟩

variable (he : s.epochOk h = true) (hfit : s.copyFits h k = true)

include he hfit

/-- R310, R383: a copy into an EMPTY slot, or over the same key. -/
theorem keyRepl_installs (hgone : k.gone = false)
    (hslot : (s.slot k.slot).st = .empty ∨ (s.slot k.slot).keyId = k.keyId) : Answers (.keyRepl p h k) s fun t =>
      (∀ ck m, s.cfl.clusterKey = some ck → openCopy ck k = some m →
        (t.slot k.slot).bare = copySlot k (copyWord k.attr) m) ∧
      (∀ ck, s.cfl.clusterKey = some ck → openCopy ck k = none → t.slots = s.slots) ∧
      (∀ n, n ≠ k.slot → (t.slot n).bare = (s.slot n).bare) ∧ Keeps [.slots, .kst, .hbm, .cfl] s t := by
  have hexec := exec_keyRepl_of_heard (k := k) ha hup hdst hf hl
  rw [State.gotCopy_of_fits (s := s.countRx p) he hfit hslot, if_neg (by rw [hgone]; decide)] at hexec
  refine ⟨_, hexec, fun ck m hck ho => ?_, fun ck hck ho => ?_, fun n hn => State.bare_installCopy_other _ _ _ hn,
    (State.installCopy_keeps _ _ _).via (by decide) ((s.countRx_keeps p).mono (by decide))⟩
  · rw [State.installCopy_of_open (s := s.countRx p) _ hck ho]
    exact State.bare_storeSlot_self _ _ _
  · rw [State.installCopy_of_closed (s := s.countRx p) _ hck ho]
    rfl

/-- R183, R383: the loss of a copied key. -/
theorem keyRepl_invalidates (hgone : k.gone = true) (hst : (s.slot k.slot).st ≠ .empty)
    (hid : (s.slot k.slot).keyId = k.keyId) : Answers (.keyRepl p h k) s fun t =>
      t.slot k.slot = Slot.reset ∧ (∀ n, n ≠ k.slot → t.slot n = s.slot n) ∧
      Keeps ([.records, .jobs] ++ keyParts) s t := by
  have hexec := exec_keyRepl_of_heard (k := k) ha hup hdst hf hl
  rw [State.gotCopy_of_fits (s := s.countRx p) he hfit (.inr hid), if_pos hgone] at hexec
  exact ⟨_, hexec, State.slot_invalidate_self (s := s.countRx p) hst,
    fun n hn => State.slot_invalidate_other (s := s.countRx p) hst hn,
    (State.invalidate_keeps _ _).via (by decide) ((s.countRx_keeps p).mono (by decide))⟩

/-- R310: a placement fills an EMPTY slot with a key that is not exportable. -/
theorem keyPlace_installs (hslot : (s.slot k.slot).st = .empty) : Answers (.keyPlace p h k) s fun t =>
    (∀ ck m, s.cfl.clusterKey = some ck → openCopy ck k = some m →
      (t.slot k.slot).st = .live ∧ (t.slot k.slot).keyId = k.keyId ∧ (t.slot k.slot).homeDev = k.homeDev ∧
      (t.slot k.slot).mat = m.1 ∧ attrOrigin (t.slot k.slot).attr = 2 ∧
      bitOf (t.slot k.slot).attr.toNat 32 = false) ∧
    (∀ n, n ≠ k.slot → (t.slot n).bare = (s.slot n).bare) ∧ Keeps [.slots, .kst, .hbm, .cfl] s t := by
  have hexec := exec_keyPlace_of_heard (k := k) ha hup hdst hf hl
  rw [State.gotPlace_of_fits (s := s.countRx p) he hfit hslot] at hexec
  refine ⟨_, hexec, fun ck m hck ho => ?_, fun n hn => State.bare_installCopy_other _ _ _ hn,
    (State.installCopy_keeps _ _ _).via (by decide) ((s.countRx_keeps p).mono (by decide))⟩
  rw [State.installCopy_of_open (s := s.countRx p) _ hck ho]
  have hbare := (s.countRx p).bare_storeSlot_self k.slot (copySlot k (attrClear (copyWord k.attr) 32) m)
  generalize ((s.countRx p).storeSlot k.slot (copySlot k (attrClear (copyWord k.attr) 32) m)).slot k.slot = y at hbare ⊢
  have hattr : y.attr = attrClear (copyWord k.attr) 32 := (congrArg Slot.attr hbare :)
  refine ⟨(congrArg Slot.st hbare :), (congrArg Slot.keyId hbare :), (congrArg Slot.homeDev hbare :),
    (congrArg Slot.mat hbare :), ?_, ?_⟩
  · rw [hattr, attrOrigin_attrClear_32, attrOrigin_copyWord]
  · rw [hattr, bitOf_attrClear_self]

end

/-- Settles O46: an ADVERT sent and one received, and each key message by the epoch, the fit and the slot it names. -/
theorem advertsAndKeyCopies : Obligations.AdvertsAndKeyCopies := by
  intro s p ha hup
  refine ⟨⟨_, exec_advertSend_of_up ha hup, rfl, (State.sendLocal_keeps _ _ _ _).mono (by decide)⟩,
    advert_answers ha hup, fun h k hdst hf hl => ⟨fun he => keyMessages_of_stale ha hup hdst hf hl he,
      fun hfit => keyRepl_of_refused ha hup hdst hf hl (.inl hfit), fun hr => keyPlace_of_refused ha hup hdst hf hl hr,
      fun he hfit => ⟨fun hgone hslot => keyRepl_installs ha hup hdst hf hl he hfit hgone hslot,
        fun hgone hst hid => keyRepl_invalidates ha hup hdst hf hl he hfit hgone hst hid,
        fun hst hid => keyRepl_of_refused ha hup hdst hf hl (.inr ⟨hst, hid⟩),
        fun hslot => keyPlace_installs ha hup hdst hf hl he hfit hslot⟩⟩⟩

end Sys2Proof.Machine
end
